-- ==== Sys2Proof/Word.lean ====
section
/-!
DEFINITION. The word types of the machine: an instruction word, a 64-bit scalar, a 1,024-bit register, a byte.
-/

namespace Sys2Proof

/-- One instruction word, R28. -/
abbrev IWord := BitVec 32

/-- A 64-bit scalar: a special register, a predicate, element 0 of width 64, R9, R17, R19. -/
abbrev Word := BitVec 64

/-- The 1,024 bits of a general register, R9. -/
abbrev Vec := BitVec 1024

/-- A capability's 128 bits, R12. -/
abbrev CapBits := BitVec 128

/-- One byte of storage, R4. -/
abbrev Byte := BitVec 8

end Sys2Proof
end

