-- ==== Sys2Proof/Config.lean ====
section
/-!
DEFINITION. What is fixed for one machine: the free values that the specification leaves open. Each is a constant without
a body, so nothing can be proved about what it is.
-/

namespace Sys2Proof.Config

/-- Free numbers, drawn with a counter of the state: which of several allowed choices is taken where the specification
gives no rule (assumption 3). -/
opaque freeNat : Nat → Nat

/-- The bits of an FTRANS result at an argument whose enclosure leaves the rounding undecided, by format width, function
and argument (assumption 12). -/
opaque freeTrans : Nat → Nat → Nat → Nat

/-- The set of an L2 slice that a line indexes; its value is taken modulo 64 (assumption 16). -/
opaque l2Set : Nat → Nat

/-- The set of a node TLB (level 2) or plate TLB (level 3) that a page's entry indexes, by level, log2 of the page size and
page number, R203 (assumption 13), and the set of an L1 instruction cache that a line indexes, R191 (assumption 16). -/
opaque tlbSet : Nat → Nat → Nat → Nat
opaque l1Set : Nat → Nat

/-- The set of an L1 data cache that a line indexes, R191; its value is taken modulo the number of sets (assumption 16). -/
opaque l1DataSet : Nat → Nat

/-- The module's fused serial number, R381, R390, a number below 2^128 (assumption 17). -/
opaque serialNumber : Nat

/-- What a firmware image carries, R417, R381: the vendor public key, the bytes that its digest covers, its signature, its SVN, and the
hash of the operator key in its manifest; the layout of an image is open (assumption 17). -/
opaque imageKey : List Byte → List Byte
opaque imageBody : List Byte → List Byte
opaque imageSignature : List Byte → List Byte
opaque imageSvn : List Byte → Nat
opaque imageOperator : List Byte → List Byte

/-- The fused minimum SVN, R417, and the leaf with which the vendor signed the identity certificate, R418 (assumption 17). -/
opaque fusedMinSvn : Nat
opaque certLeaf : Nat

/-- The seeds of the vendor's key pair and of the identity key's, R417, R418: the seed of the one-time keys, of the randomness, and the
public seed (assumption 17). -/
opaque vendorSeed : Nat → BitVec 256
opaque identitySeed : Nat → BitVec 256

/-- Whether a write to module flash fails, by the draw (assumption 3). -/
opaque flashFails : Nat → Bool

/-- The bytes of a configuration table with some fields, as its signature covers them, R381 (assumption 17). -/
opaque tableBytes : List Nat → List Byte

/-- The code of the Seath identity service of WCALL, R420, which is the firmware's (assumption 30). -/
opaque identityService : Nat

/-- Which port of a routing entry a packet takes, R400: the number h of its source, target and order (assumption 102). -/
opaque pathHash : Nat → Nat → Nat → Nat

/-- Whether the self-test of R436 step 6, or the training of a link at step 7, fails a part, by the draw of the boot, the kind
of part and its place (assumption 3). -/
opaque testFails : Nat → Nat → Nat → Nat → Bool

/-- Which register of the control space a core's position holds at a word of its offsets, as a number that
Machine/ControlSpace.lean reads (assumption 11). -/
opaque controlAt : Nat → Nat → Nat

end Sys2Proof.Config
end

