-- ==== Sys2Proof/Syntax.lean ====
section
/-!
DEFINITION. The instructions of the Keleneus KN4-M768: one constructor for each row of the table of operations and
events. A constructor of an encoded row carries the row's fields as the word holds them, most significant first, under
the table's one-letter names (g guard, d a b registers, t type or sub-operation, i o h immediates and offsets). A
constructor of an event row carries what names the object the event is about, or the value the outside world supplies.
-/

namespace Sys2Proof

/-- A frame that reaches the Ethernet port from the network: its IPv6 source address, and the UDP payload or the ICMPv6
message it carries (R383, R384); whether it is IPv6, with a fragment or extension header, its protocol (17 UDP, 58 ICMPv6),
its UDP checksum, and its UDP port and destination address where they are not the port's own. -/
structure Frame where
  src : Nat
  data : List Byte
  ipv6 : Bool := true
  extended : Bool := false
  proto : Nat := 17
  checksum : Nat := 1
  port : Option Nat := none
  dst : Option Nat := none
  deriving DecidableEq, Repr

/-- A block that BWORLD gives a world, R413. -/
inductive Block where
  | cores (plate : BitVec 2)
  | engines (plate : BitVec 2)
  | easel
  | port
  deriving DecidableEq, Repr

/-- A control-space register without behaviour of its own, R379. -/
inductive ControlReg where
  | ghome (plate x y : Nat)
  | quota (part : BitVec 4)
  | owntab (core unit : Nat)
  | lpct (core : Nat)
  | hostctx (core : Nat)
  deriving DecidableEq, Repr

/-- The rows of the table of operations and events, encoded rows first. -/
inductive Instr where
  | nop (g : BitVec 4)
  | br (g : BitVec 4) (o : BitVec 21)
  | call (g : BitVec 4) (o : BitVec 21)
  | jmp (g : BitVec 4) (a : BitVec 6)
  | jmpCall (g : BitVec 4) (a : BitVec 6)
  | jmpRet (g : BitVec 4)
  | loop (g : BitVec 4) (d : BitVec 6) (i : BitVec 9)
  | endTask (g : BitVec 4)
  | wait (g : BitVec 4) (l s c m : BitVec 5)
  | opf (g : BitVec 4) (d a b : BitVec 6)
  | trap (g : BitVec 4) (i : BitVec 15)
  | eret (g : BitVec 4)
  | gets (g : BitVec 4) (d : BitVec 6) (n : BitVec 12)
  | sets (g : BitVec 4) (d : BitVec 6) (n : BitVec 12)
  | timeGt (g : BitVec 4) (d : BitVec 6)
  | timeCyc (g : BitVec 4) (d : BitVec 6)
  | brk (g : BitVec 4) (i : BitVec 15)
  | tlbiRange (g : BitVec 4) (a b : BitVec 6)
  | tlbiCtx (g : BitVec 4) (b : BitVec 6)
  | tlbiL1inv (g : BitVec 4) (a b : BitVec 6)
  | tlbiL1clean (g : BitVec 4) (a b : BitVec 6)
  | tlbiPart (g : BitVec 4)
  | wcall (g : BitVec 4) (i : BitVec 15)
  | add (g : BitVec 4) (d a b : BitVec 6) (t : BitVec 3)
  | sub (g : BitVec 4) (d a b : BitVec 6) (t : BitVec 3)
  | mul (g : BitVec 4) (d a b : BitVec 6) (t : BitVec 3)
  | mulh (g : BitVec 4) (d a b : BitVec 6) (t : BitVec 3)
  | mad (g : BitVec 4) (d a b : BitVec 6) (t : BitVec 3)
  | min (g : BitVec 4) (d a b : BitVec 6) (t : BitVec 3)
  | max (g : BitVec 4) (d a b : BitVec 6) (t : BitVec 3)
  | absd (g : BitVec 4) (d a b : BitVec 6) (t : BitVec 3)
  | and (g : BitVec 4) (d a b : BitVec 6) (t : BitVec 3)
  | or (g : BitVec 4) (d a b : BitVec 6) (t : BitVec 3)
  | xor (g : BitVec 4) (d a b : BitVec 6) (t : BitVec 3)
  | andn (g : BitVec 4) (d a b : BitVec 6) (t : BitVec 3)
  | shl (g : BitVec 4) (d a b : BitVec 6) (t : BitVec 3)
  | shr (g : BitVec 4) (d a b : BitVec 6) (t : BitVec 3)
  | rot (g : BitVec 4) (d a b : BitVec 6) (t : BitVec 3)
  | addi (g : BitVec 4) (d a : BitVec 6) (i : BitVec 9)
  | unop (g : BitVec 4) (d a o : BitVec 6) (t : BitVec 3)
  | sel (g : BitVec 4) (d a b : BitVec 6) (t : BitVec 3)
  | shuf (g : BitVec 4) (d a b : BitVec 6) (t : BitVec 3)
  | bcast (g : BitVec 4) (d a b : BitVec 6) (t : BitVec 3)
  | reduce (g : BitVec 4) (d a o : BitVec 6) (t : BitVec 3)
  | scan (g : BitVec 4) (d a o : BitVec 6) (t : BitVec 3)
  | movi (g : BitVec 4) (d : BitVec 6) (i : BitVec 15)
  | movu (g : BitVec 4) (d : BitVec 6) (i : BitVec 15)
  | addX (g : BitVec 4) (d a b : BitVec 6) (t : BitVec 3)
  | subX (g : BitVec 4) (d a b : BitVec 6) (t : BitVec 3)
  | mulX (g : BitVec 4) (d a b : BitVec 6) (t : BitVec 3)
  | addiX (g : BitVec 4) (d a : BitVec 6) (i : BitVec 9)
  | logicX (g : BitVec 4) (d a b : BitVec 6) (t : BitVec 3)
  | divX (g : BitVec 4) (d a b : BitVec 6) (t : BitVec 3)
  | movlX (g : BitVec 4) (d : BitVec 6) (i : BitVec 15)
  | laneGet (g : BitVec 4) (d a b : BitVec 6)
  | lanePut (g : BitVec 4) (d a b : BitVec 6)
  | cmp (g : BitVec 4) (c p e : BitVec 3) (a b : BitVec 6) (t : BitVec 3)
  | fcmp (g : BitVec 4) (c p e : BitVec 3) (a b : BitVec 6) (t : BitVec 3)
  | fadd (g : BitVec 4) (d a b : BitVec 6) (t : BitVec 3)
  | fsub (g : BitVec 4) (d a b : BitVec 6) (t : BitVec 3)
  | fmul (g : BitVec 4) (d a b : BitVec 6) (t : BitVec 3)
  | fma (g : BitVec 4) (d a b : BitVec 6) (t : BitVec 3)
  | fnma (g : BitVec 4) (d a b : BitVec 6) (t : BitVec 3)
  | fmin (g : BitVec 4) (d a b : BitVec 6) (t : BitVec 3)
  | fmax (g : BitVec 4) (d a b : BitVec 6) (t : BitVec 3)
  | fminp (g : BitVec 4) (d a b : BitVec 6) (t : BitVec 3)
  | funop (g : BitVec 4) (d a o : BitVec 6) (t : BitVec 3)
  | fcvt (g : BitVec 4) (d a : BitVec 6) (part dst src : BitVec 3)
  | i2f (g : BitVec 4) (d a : BitVec 6) (part src dst : BitVec 3)
  | f2i (g : BitVec 4) (d a : BitVec 6) (part dst src : BitVec 3)
  | fdiv (g : BitVec 4) (d a b : BitVec 6) (t : BitVec 3)
  | fsqrt (g : BitVec 4) (d a : BitVec 6) (t : BitVec 3)
  | ftrans (g : BitVec 4) (d a o : BitVec 6) (t : BitVec 3)
  | fscale (g : BitVec 4) (d a b : BitVec 6) (t : BitVec 3)
  | fdot2 (g : BitVec 4) (d a b : BitVec 6) (t : BitVec 3)
  | fdot4 (g : BitVec 4) (d a b : BitVec 6) (t : BitVec 3)
  | fred (g : BitVec 4) (d a o : BitVec 6) (t : BitVec 3)
  | fscan (g : BitVec 4) (d a : BitVec 6) (t : BitVec 3)
  | plogic (g : BitVec 4) (d a b t : BitVec 3)
  | pmovPred (g : BitVec 4) (d a : BitVec 3)
  | pmovFromReg (g : BitVec 4) (d : BitVec 3) (a : BitVec 6)
  | pmovToReg (g : BitVec 4) (d : BitVec 6) (a : BitVec 3)
  | pcnt (g : BitVec 4) (d : BitVec 6) (a t : BitVec 3)
  | ptest (g : BitVec 4) (d e a t : BitVec 3)
  | pset (g : BitVec 4) (p w : BitVec 3) (c : BitVec 12)
  | ldx (g : BitVec 4) (d a f : BitVec 6) (s : BitVec 3)
  | stx (g : BitVec 4) (d a f : BitVec 6) (s : BitVec 3)
  | ldv (g : BitVec 4) (d a f : BitVec 6)
  | stv (g : BitVec 4) (d a f : BitVec 6)
  | gath (g : BitVec 4) (d a b : BitVec 6) (t : BitVec 3)
  | gathp (g : BitVec 4) (d a b : BitVec 6) (t : BitVec 3)
  | scat (g : BitVec 4) (d a b : BitVec 6) (t : BitVec 3)
  | ldfe (g : BitVec 4) (d a f : BitVec 6) (s : BitVec 3)
  | stfe (g : BitVec 4) (d a f : BitVec 6) (s : BitVec 3)
  | feopLdf (g : BitVec 4) (d a : BitVec 6) (z : BitVec 3)
  | feopStf (g : BitVec 4) (d a : BitVec 6) (z : BitVec 3)
  | feopSete (g : BitVec 4) (a : BitVec 6) (z : BitVec 3)
  | feopSetf (g : BitVec 4) (a : BitVec 6) (z : BitVec 3)
  | feopQtag (g : BitVec 4) (d a : BitVec 6)
  | ldt (g : BitVec 4) (d a f : BitVec 6) (s : BitVec 3)
  | rdm (g : BitVec 4) (d a : BitVec 6)
  | rdmS (g : BitVec 4) (d a b : BitVec 6)
  | tkrel (g : BitVec 4) (a : BitVec 6)
  | pref (g : BitVec 4) (a f : BitVec 6) (s : BitVec 3)
  | fence (g k : BitVec 4) (t : BitVec 3)
  | atom32 (g : BitVec 4) (d a b : BitVec 6) (t : BitVec 3)
  | atom64 (g : BitVec 4) (d a b : BitVec 6) (t : BitVec 3)
  | xatom (g : BitVec 4) (d a b : BitVec 6) (t : BitVec 3)
  | scatadd (g : BitVec 4) (d a b : BitVec 6) (t : BitVec 3)
  | barFull (g : BitVec 4) (a : BitVec 6)
  | barArrive (g : BitVec 4) (d a : BitVec 6)
  | barWait (g : BitVec 4) (a b : BitVec 6)
  | slotAlloc (g : BitVec 4) (d a : BitVec 6) (k : BitVec 3)
  | slotFree (g : BitVec 4) (d a : BitVec 6) (k : BitVec 3)
  | launch (g : BitVec 4) (d a : BitVec 6)
  | lctlCancel (g : BitVec 4) (d a b : BitVec 6)
  | lctlQuery (g : BitVec 4) (d a : BitVec 6)
  | lctlWait (g : BitVec 4) (d a : BitVec 6)
  | sendPost (g : BitVec 4) (d a b : BitVec 6)
  | sendAck (g : BitVec 4) (d a b : BitVec 6)
  | sendReply (g : BitVec 4) (d a b : BitVec 6)
  | sendEng (g : BitVec 4) (d a b : BitVec 6)
  | portBind (g : BitVec 4) (d b : BitVec 6)
  | portUnbind (g : BitVec 4) (d : BitVec 6)
  | portQlen (g : BitVec 4) (d a : BitVec 6)
  | portSbind (g : BitVec 4) (d b : BitVec 6)
  | portSrel (g : BitVec 4) (d : BitVec 6)
  | portSstat (g : BitVec 4) (d a : BitVec 6)
  | htabRd (g : BitVec 4) (d b : BitVec 6)
  | htabWr (g : BitVec 4) (a b : BitVec 6)
  | cpy (g : BitVec 4) (d a b : BitVec 6)
  | cpyLoop (g : BitVec 4) (d a b : BitVec 6)
  | cpyrel (g : BitVec 4) (a : BitVec 6)
  | cpyMtx (g : BitVec 4) (d a b : BitVec 6)
  | cpyBlk (g : BitVec 4) (d a b : BitVec 6)
  | cpySlab (g : BitVec 4) (d a b : BitVec 6)
  | mtxMma (g : BitVec 4) (n : BitVec 5) (a b : BitVec 6)
  | mtxMmaz (g : BitVec 4) (n : BitVec 5) (a b : BitVec 6)
  | mtxAccld (g : BitVec 4) (n : BitVec 5) (a : BitVec 6)
  | mtxAccst (g : BitVec 4) (n : BitVec 5) (a : BitVec 6)
  | mtxAccmv (g : BitVec 4) (n : BitVec 5) (a b : BitVec 6)
  | mtxCodeb (g : BitVec 4) (n : BitVec 5)
  | mtxAccq (g : BitVec 4) (n : BitVec 5) (a : BitVec 6)
  | mtxAccfree (g : BitVec 4) (n : BitVec 5)
  | eregRd (g : BitVec 4) (d b : BitVec 6)
  | eregWr (g : BitVec 4) (a b : BitVec 6)
  | cget (g : BitVec 4) (d a b : BitVec 6)
  | csetb (g : BitVec 4) (d a b : BitVec 6)
  | candp (g : BitVec 4) (d a b : BitVec 6)
  | cinc (g : BitVec 4) (d a b : BitVec 6)
  | cseal (g : BitVec 4) (d a b : BitVec 6)
  | cunseal (g : BitVec 4) (d a b : BitVec 6)
  | ctest (g : BitVec 4) (d a b : BitVec 6)
  | cclr (g : BitVec 4) (d a : BitVec 6)
  | pfxT (a b p : BitVec 4)
  | pfxC (m : BitVec 2)
  | pfxI (h : BitVec 21)
  | pfxS (o : BitVec 2) (s : BitVec 3)
  | wcallAnswer (op status : Nat) (data : BitVec 1024)
  | launchHandleReturn (launch : Nat)
  | lctlAnswer (op : Nat)
  | answerArrival (packet : Nat)
  | messageArrival (packet : Nat)
  | streamStripArrival (core slot port : Nat)
  | engineCardArrival (packet : Nat)
  | jobStart (job : Nat)
  | jobCompletion (job : Nat)
  | stageFilled (job stage : Nat)
  | stageRelease (op : Nat)
  | matrixCommandStart (core : Nat)
  | matrixCommandDone (cmd : Nat)
  | deferredCheckDone (cmd : Nat)
  | doneNotice (guest : Nat)
  | loadCompletion (op : Nat)
  | storeAcknowledgement (op : Nat)
  | homeSliceRequest (op elem : Nat)
  | fillArrival (slice line : Nat)
  | ticketAllocation (op : Nat)
  | ticketDataArrival (slice entry : Nat)
  | ticketRedeem (op : Nat)
  | ticketRelease (op : Nat)
  | walkStart (plate : Nat)
  | walkCompletion (walk : Nat)
  | tlbiControllerRequest (op plate : Nat)
  | tlbiPlateDone (op plate : Nat)
  | tlbiAck (op : Nat)
  | guestPacketArrival (guest : Nat)
  | guestIssue (core : Nat)
  | guestWalkDone (guest : Nat)
  | guestResult (guest : Nat)
  | dealMessage (gang index : Nat)
  | taskSelection (core : Nat)
  | slotClearingEnd (core slot : Nat)
  | reservationWithdrawal (gang : Nat)
  | gangPlacement (launch plate x y : Nat)
  | reservationComplete (gang : Nat)
  | launchClaim (launch : Nat)
  | gangRangeRequest (launch plate : Nat)
  | launchMessageSend (launch : Nat)
  | dealingDone (launch : Nat)
  | quiescenceSweep (launch upto : Nat)
  | faultNotice (launch gt cause place : Nat)
  | abort (launch target : Nat)
  | cancelDecision (launch mode : Nat)
  | cancel (launch target : Nat)
  | podDispatch (msg : Nat)
  | podClaimed (msg : Nat)
  | podLidMap (msg : Nat)
  | podSweepReport (msg : Nat)
  | podEnd (msg : Nat)
  | podReg (msg : Nat)
  | migrationDrained (core : Nat)
  | migrationCopyDone (core : Nat)
  | migrationForwardEnd (core : Nat)
  | refreshEnd (core slot : Nat)
  | wakeRequest (plate x : Nat)
  | rampDownEnd (plate x : Nat)
  | rampUpEnd (plate x : Nat)
  | packetDiscard (packet : Nat)
  | nackArrival (packet : Nat)
  | backoffExpiry (packet : Nat)
  | queueResume (queue : Nat)
  | tailRead (queue : Nat)
  | packetStart (queue : Nat)
  | packetCompletion (queue : Nat)
  | haltComplete (part : Nat)
  | swapComplete (part : Nat)
  | ackDue (session peer : Nat)
  | recoveryReset
  | localWindowRequest (op elem : Nat)
  | podRegAnswer (msg : Nat)
  | podUnreg (msg : Nat)
  | podEndReport (msg : Nat)
  | lodjaupWrite (f : Frame)
  | lodjaupRead (f : Frame)
  | mgmtQnew (f : Frame)
  | attest (f : Frame)
  | setsSr (v : BitVec 64)
  | setsPortcfg (n : BitVec 3) (v : BitVec 64)
  | setsGshare (v : BitVec 64)
  | setsAccown (v : BitVec 64)
  | setsSpillmap (v : BitVec 64)
  | setsLpct (v : BitVec 64)
  | ticketExpiry (slice entry : Nat)
  | handlerAging (core chan : Nat)
  | gangWatchdogExpiry (gang : Nat)
  | sliceEnd (core : Nat)
  | flagsumSweep (plate : Nat)
  | powerReading (watts : Nat)
  | thermalSample (core celsius : Nat)
  | bankDrowsy (core slot : Nat)
  | refreshDue (core slot : Nat)
  | bankGated (core slot : Nat)
  | columnIdleTimeout (plate x : Nat)
  | linkReplay (port : Nat)
  | linkFailure (port : Nat)
  | hbmPatrol (addr : Nat)
  | errorEvent (uncorrectable : Bool) (unit loc part : Nat)
  | heartbeat (role : Nat)
  | roleRestart (role place : Nat)
  | firmwareHashCheck (good : Bool)
  | powerOn (recovN : Bool) (slotid : BitVec 4)
  | resetN
  | supplyFault
  | thermalTrip
  | peakPowerCap
  | slicePairSet (core : Nat) (v : BitVec 64)
  | checkModeSet (core : Nat) (v : BitVec 64)
  | fwallWrite (core : Nat) (v : BitVec 64)
  | regionTableWrite (n : BitVec 6) (v : BitVec 128)
  | bworldWrite (block : Block) (s : Bool)
  | controlRegisterWrite (reg : ControlReg) (v : BitVec 64)
  | cqWrite (queue : Nat)
  | cqSignal (queue : Nat)
  | cqWaitv (queue : Nat)
  | cqCopy (queue : Nat)
  | cqLaunch (queue : Nat)
  | cqAmsg (queue : Nat)
  | cqLctl (queue : Nat)
  | cqOpenam (queue : Nat)
  | cqCloseam (queue : Nat)
  | cqFlagclr (queue : Nat)
  | cqHalt (queue : Nat)
  | cqSwapout (queue : Nat)
  | cqSwapin (queue : Nat)
  | cqResume (queue : Nat)
  | cqQuota (queue : Nat)
  | cpSliceEnd (queue : Nat)
  | lodjaupAck (f : Frame)
  | lodjaupNak (f : Frame)
  | deviceResendTimeout (session peer : Nat)
  | ident (f : Frame)
  | mgmtCtxnew (f : Frame)
  | mgmtCtxend (f : Frame)
  | mgmtPartcores (f : Frame)
  | mgmtPartfree (f : Frame)
  | mgmtOpen (f : Frame)
  | mgmtClose (f : Frame)
  | mgmtWindow (f : Frame)
  | mgmtQend (f : Frame)
  | mgmtPodreg (f : Frame)
  | mgmtPodunreg (f : Frame)
  | mgmtFwwrite (f : Frame)
  | mgmtFwcommit (f : Frame)
  | mgmtTelem (f : Frame)
  | mgmtErrlog (f : Frame)
  | recover (f : Frame)
  | neighborSolicitation (f : Frame)
  | echoRequest (f : Frame)
  | stepBoundExpiry (queue : Nat)
  deriving DecidableEq, Repr

end Sys2Proof
end

