-- ==== Sys2Proof/WellFormed.lean ====
section
/-!
DEFINITION. Which instructions of the syntax are instructions of the machine: the named ways in which a word is not one
(R39), decided from the word alone. Illegality that depends on a pending prefix (R36, R37) is decided at issue.
-/

namespace Sys2Proof

/-- Why a word is not an instruction, R39. -/
inductive Defect where
  /-- a reserved major opcode, R33 -/
  | reservedOpcode
  /-- a non-zero bit in a field that must be zero, R34 -/
  | nonZeroField
  /-- a reserved T, B, SZ or payload sub-value, R34, R36 -/
  | reservedValue
  /-- a word of the prefix space above PFX.S, R33 -/
  | undefinedPrefix
  /-- the guard "negated p7", which marks a prefix, on a constructor that is no prefix, R29 -/
  | prefixGuard
  /-- a type the opcode does not take, R51, R61, R88, R108 -/
  | typeNotAllowed
  /-- PART at or above the width ratio of a conversion, R61 -/
  | partTooLarge
  /-- PD equal to PE, not both p7, R97, R101 -/
  | samePredicates
  /-- a guard naming p7 on GATHP or FADDB, which write their guard predicate, R219, R237 -/
  | guardNotWritable
  /-- RDM.S with B equal to D or zero, R228 -/
  | statusRegister
  /-- a port field outside 56 to 63, R160 -/
  | notAPort
  /-- ACCMV with B equal to A, R308 -/
  | sameRegisters
  /-- an accumulator index of 16 to 31, R39 -/
  | accumulatorIndex
  /-- fewer than four bytes, R28 -/
  | truncated
  deriving DecidableEq, Repr

/-- The guard of an instruction that has one, R29. -/
def Instr.guard? : Instr → Option (BitVec 4)
  | .nop g => some g
  | .br g _ => some g
  | .call g _ => some g
  | .jmp g _ => some g
  | .jmpCall g _ => some g
  | .jmpRet g => some g
  | .loop g _ _ => some g
  | .endTask g => some g
  | .wait g _ _ _ _ => some g
  | .opf g _ _ _ => some g
  | .trap g _ => some g
  | .eret g => some g
  | .gets g _ _ => some g
  | .sets g _ _ => some g
  | .timeGt g _ => some g
  | .timeCyc g _ => some g
  | .brk g _ => some g
  | .tlbiRange g _ _ => some g
  | .tlbiCtx g _ => some g
  | .tlbiL1inv g _ _ => some g
  | .tlbiL1clean g _ _ => some g
  | .tlbiPart g => some g
  | .wcall g _ => some g
  | .add g _ _ _ _ => some g
  | .sub g _ _ _ _ => some g
  | .mul g _ _ _ _ => some g
  | .mulh g _ _ _ _ => some g
  | .mad g _ _ _ _ => some g
  | .min g _ _ _ _ => some g
  | .max g _ _ _ _ => some g
  | .absd g _ _ _ _ => some g
  | .and g _ _ _ _ => some g
  | .or g _ _ _ _ => some g
  | .xor g _ _ _ _ => some g
  | .andn g _ _ _ _ => some g
  | .shl g _ _ _ _ => some g
  | .shr g _ _ _ _ => some g
  | .rot g _ _ _ _ => some g
  | .addi g _ _ _ => some g
  | .unop g _ _ _ _ => some g
  | .sel g _ _ _ _ => some g
  | .shuf g _ _ _ _ => some g
  | .bcast g _ _ _ _ => some g
  | .reduce g _ _ _ _ => some g
  | .scan g _ _ _ _ => some g
  | .movi g _ _ => some g
  | .movu g _ _ => some g
  | .addX g _ _ _ _ => some g
  | .subX g _ _ _ _ => some g
  | .mulX g _ _ _ _ => some g
  | .addiX g _ _ _ => some g
  | .logicX g _ _ _ _ => some g
  | .divX g _ _ _ _ => some g
  | .movlX g _ _ => some g
  | .laneGet g _ _ _ => some g
  | .lanePut g _ _ _ => some g
  | .cmp g _ _ _ _ _ _ => some g
  | .fcmp g _ _ _ _ _ _ => some g
  | .fadd g _ _ _ _ => some g
  | .fsub g _ _ _ _ => some g
  | .fmul g _ _ _ _ => some g
  | .fma g _ _ _ _ => some g
  | .fnma g _ _ _ _ => some g
  | .fmin g _ _ _ _ => some g
  | .fmax g _ _ _ _ => some g
  | .fminp g _ _ _ _ => some g
  | .funop g _ _ _ _ => some g
  | .fcvt g _ _ _ _ _ => some g
  | .i2f g _ _ _ _ _ => some g
  | .f2i g _ _ _ _ _ => some g
  | .fdiv g _ _ _ _ => some g
  | .fsqrt g _ _ _ => some g
  | .ftrans g _ _ _ _ => some g
  | .fscale g _ _ _ _ => some g
  | .fdot2 g _ _ _ _ => some g
  | .fdot4 g _ _ _ _ => some g
  | .fred g _ _ _ _ => some g
  | .fscan g _ _ _ => some g
  | .plogic g _ _ _ _ => some g
  | .pmovPred g _ _ => some g
  | .pmovFromReg g _ _ => some g
  | .pmovToReg g _ _ => some g
  | .pcnt g _ _ _ => some g
  | .ptest g _ _ _ _ => some g
  | .pset g _ _ _ => some g
  | .ldx g _ _ _ _ => some g
  | .stx g _ _ _ _ => some g
  | .ldv g _ _ _ => some g
  | .stv g _ _ _ => some g
  | .gath g _ _ _ _ => some g
  | .gathp g _ _ _ _ => some g
  | .scat g _ _ _ _ => some g
  | .ldfe g _ _ _ _ => some g
  | .stfe g _ _ _ _ => some g
  | .feopLdf g _ _ _ => some g
  | .feopStf g _ _ _ => some g
  | .feopSete g _ _ => some g
  | .feopSetf g _ _ => some g
  | .feopQtag g _ _ => some g
  | .ldt g _ _ _ _ => some g
  | .rdm g _ _ => some g
  | .rdmS g _ _ _ => some g
  | .tkrel g _ => some g
  | .pref g _ _ _ => some g
  | .fence g _ _ => some g
  | .atom32 g _ _ _ _ => some g
  | .atom64 g _ _ _ _ => some g
  | .xatom g _ _ _ _ => some g
  | .scatadd g _ _ _ _ => some g
  | .barFull g _ => some g
  | .barArrive g _ _ => some g
  | .barWait g _ _ => some g
  | .slotAlloc g _ _ _ => some g
  | .slotFree g _ _ _ => some g
  | .launch g _ _ => some g
  | .lctlCancel g _ _ _ => some g
  | .lctlQuery g _ _ => some g
  | .lctlWait g _ _ => some g
  | .sendPost g _ _ _ => some g
  | .sendAck g _ _ _ => some g
  | .sendReply g _ _ _ => some g
  | .sendEng g _ _ _ => some g
  | .portBind g _ _ => some g
  | .portUnbind g _ => some g
  | .portQlen g _ _ => some g
  | .portSbind g _ _ => some g
  | .portSrel g _ => some g
  | .portSstat g _ _ => some g
  | .htabRd g _ _ => some g
  | .htabWr g _ _ => some g
  | .cpy g _ _ _ => some g
  | .cpyLoop g _ _ _ => some g
  | .cpyrel g _ => some g
  | .cpyMtx g _ _ _ => some g
  | .cpyBlk g _ _ _ => some g
  | .cpySlab g _ _ _ => some g
  | .mtxMma g _ _ _ => some g
  | .mtxMmaz g _ _ _ => some g
  | .mtxAccld g _ _ => some g
  | .mtxAccst g _ _ => some g
  | .mtxAccmv g _ _ _ => some g
  | .mtxCodeb g _ => some g
  | .mtxAccq g _ _ => some g
  | .mtxAccfree g _ => some g
  | .eregRd g _ _ => some g
  | .eregWr g _ _ => some g
  | .cget g _ _ _ => some g
  | .csetb g _ _ _ => some g
  | .candp g _ _ _ => some g
  | .cinc g _ _ _ => some g
  | .cseal g _ _ _ => some g
  | .cunseal g _ _ _ => some g
  | .ctest g _ _ _ => some g
  | .cclr g _ _ => some g
  | _ => none

/-- The width in bits of an integer type code, R32. -/
def intWidth (t : BitVec 3) : Nat := 8 * 2 ^ (t.toNat % 4)

/-- Whether an integer type code names a signed type, R32. -/
def intSigned (t : BitVec 3) : Bool := t.toNat < 4

/-- The width in bits of a float type code, R32, R48. -/
def floatWidth (t : BitVec 3) : Nat :=
  match t.toNat with
  | 0 => 16
  | 1 => 16
  | 2 => 32
  | 3 => 64
  | _ => 8

/-- The ratio of the two widths of a conversion, R61. -/
def widthRatio (ws wd : Nat) : Nat := max ws wd / min ws wd

/-- A defect when a condition fails. -/
def need (c : Bool) (e : Defect) : Option Defect := if c then none else some e

/-- The first defect of two checks. -/
def Defect.orElse (a b : Option Defect) : Option Defect :=
  match a with
  | some e => some e
  | none => b

/-- PD and PE differ, or both are p7, R97, R101. -/
def predicatesDiffer (p e : BitVec 3) : Option Defect := need (p != e || p == 7) .samePredicates

/-- A register number names one of the port registers v56 to v63, R160. -/
def isPort (r : BitVec 6) : Bool := r.toNat ≥ 56

/-- The checks of R39 on an instruction's fields, without its guard. -/
def Instr.fieldDefect : Instr → Option Defect
  | .unop _ _ _ o t =>
    if o.toNat > 8 then some .reservedValue
    else need (o.toNat < 7 || (t != 3 && t != 7)) .typeNotAllowed
  | .reduce _ _ _ o _ => need (o.toNat ≤ 5) .reservedValue
  | .scan _ _ _ o _ => need (o.toNat ≤ 5) .reservedValue
  | .mulX _ _ _ _ t => need (t.toNat ≤ 3) .reservedValue
  | .divX _ _ _ _ t => need (t.toNat ≤ 3) .reservedValue
  | .cmp _ _ p e _ _ _ => predicatesDiffer p e
  | .fcmp _ _ p e _ _ t => Defect.orElse (need (t.toNat ≤ 3) .typeNotAllowed) (predicatesDiffer p e)
  | .fadd _ _ _ _ t => need (t.toNat ≤ 3) .typeNotAllowed
  | .fsub _ _ _ _ t => need (t.toNat ≤ 3) .typeNotAllowed
  | .fmul _ _ _ _ t => need (t.toNat ≤ 3) .typeNotAllowed
  | .fma _ _ _ _ t => need (t.toNat ≤ 3) .typeNotAllowed
  | .fnma _ _ _ _ t => need (t.toNat ≤ 3) .typeNotAllowed
  | .fmin _ _ _ _ t => need (t.toNat ≤ 3) .typeNotAllowed
  | .fmax _ _ _ _ t => need (t.toNat ≤ 3) .typeNotAllowed
  | .fminp _ _ _ _ t => need (t.toNat ≤ 3) .typeNotAllowed
  | .funop _ _ _ o t => Defect.orElse (need (o.toNat ≤ 7) .reservedValue) (need (t.toNat ≤ 3) .typeNotAllowed)
  | .fcvt _ _ _ part dst src =>
    Defect.orElse (need (dst.toNat ≤ 5 && src.toNat ≤ 5) .typeNotAllowed)
      (need (part.toNat < widthRatio (floatWidth src) (floatWidth dst)) .partTooLarge)
  | .i2f _ _ _ part src dst =>
    Defect.orElse (need (dst.toNat ≤ 3) .typeNotAllowed)
      (need (part.toNat < widthRatio (intWidth src) (floatWidth dst)) .partTooLarge)
  | .f2i _ _ _ part dst src =>
    Defect.orElse (need (src.toNat ≤ 3) .typeNotAllowed)
      (need (part.toNat < widthRatio (floatWidth src) (intWidth dst)) .partTooLarge)
  | .fdiv _ _ _ _ t => need (t.toNat ≤ 3) .typeNotAllowed
  | .fsqrt _ _ _ t => need (t.toNat ≤ 3) .typeNotAllowed
  | .ftrans _ _ _ o t => Defect.orElse (need (o.toNat ≤ 7) .reservedValue) (need (t.toNat ≤ 3) .typeNotAllowed)
  | .fscale _ _ _ _ t => need (t.toNat ≤ 3) .typeNotAllowed
  | .fdot2 _ _ _ _ t => need (t == 2) .typeNotAllowed
  | .fdot4 _ _ _ _ t => need (t == 2) .typeNotAllowed
  | .fred _ _ _ o t => Defect.orElse (need (o.toNat ≤ 2) .reservedValue) (need (t.toNat ≤ 3) .typeNotAllowed)
  | .fscan _ _ _ t => need (t.toNat ≤ 3) .typeNotAllowed
  | .ptest _ d e _ _ => predicatesDiffer d e
  | .pset _ _ w _ => need (w.toNat ≤ 3) .reservedValue
  | .ldx _ _ _ _ s => need (s.toNat ≤ 4) .reservedValue
  | .stx _ _ _ _ s => need (s.toNat ≤ 4) .reservedValue
  | .gath _ _ _ _ t => need (t.toNat % 4 ≥ 2) .reservedValue
  | .gathp g _ _ _ t =>
    Defect.orElse (need (t.toNat % 4 ≥ 2) .reservedValue) (need (g.toNat % 8 != 7) .guardNotWritable)
  | .scat _ _ _ _ t => need (t.toNat % 4 ≥ 2) .reservedValue
  | .ldfe _ _ _ _ s => need (s == 2 || s == 3 || s == 5) .reservedValue
  | .stfe _ _ _ _ s => need (s == 2 || s == 3 || s == 5) .reservedValue
  | .feopLdf _ _ _ z => need (z == 2 || z == 3 || z == 5) .reservedValue
  | .feopStf _ _ _ z => need (z == 2 || z == 3 || z == 5) .reservedValue
  | .feopSete _ _ z => need (z == 2 || z == 3 || z == 5) .reservedValue
  | .feopSetf _ _ z => need (z == 2 || z == 3 || z == 5) .reservedValue
  | .ldt _ _ _ _ s => need (s.toNat ≤ 3) .reservedValue
  | .rdmS _ d _ b => need (b != d && b != 0) .statusRegister
  | .pref _ _ _ s => need (s.toNat ≤ 2) .reservedValue
  | .fence _ k t => need (k != 0 && t.toNat ≤ 5) .reservedValue
  | .xatom g _ _ _ t => need (t.toNat < 6 || g.toNat % 8 != 7) .guardNotWritable
  | .scatadd _ _ _ _ t => need (t.toNat ≤ 5) .reservedValue
  | .slotAlloc _ _ _ k => need (k.toNat ≤ 2) .reservedValue
  | .slotFree _ _ _ k => need (k.toNat ≤ 2) .reservedValue
  | .portBind _ d _ => need (isPort d) .notAPort
  | .portUnbind _ d => need (isPort d) .notAPort
  | .portQlen _ _ a => need (isPort a) .notAPort
  | .portSbind _ d _ => need (isPort d) .notAPort
  | .portSrel _ d => need (isPort d) .notAPort
  | .portSstat _ _ a => need (isPort a) .notAPort
  | .mtxMma _ n _ _ => need (n.toNat < 16) .accumulatorIndex
  | .mtxMmaz _ n _ _ => need (n.toNat < 16) .accumulatorIndex
  | .mtxAccld _ n _ => need (n.toNat < 16) .accumulatorIndex
  | .mtxAccst _ n _ => need (n.toNat < 16) .accumulatorIndex
  | .mtxAccmv _ n a b => Defect.orElse (need (n.toNat < 16) .accumulatorIndex) (need (a != b) .sameRegisters)
  | .mtxCodeb _ n => need (n.toNat < 16) .accumulatorIndex
  | .mtxAccq _ n _ => need (n.toNat < 16) .accumulatorIndex
  | .mtxAccfree _ n => need (n.toNat < 16) .accumulatorIndex
  | .cget _ _ _ b => need (b.toNat ≤ 5) .reservedValue
  | .pfxT a b _ =>
    need ((a.toNat ≤ 6 || a == 15) && (b.toNat ≤ 6 || b == 15)) .reservedValue
  | .pfxC m => need (m == 1 || m == 2) .reservedValue
  | .pfxS o s => need (o != 0 && s.toNat ≤ 5) .reservedValue
  | _ => none

/-- The first way in which an instruction's fields are not those of an instruction of the machine, R39; none when it
is one. -/
def Instr.defect (i : Instr) : Option Defect :=
  Defect.orElse (match i.guard? with
    | some g => need (g != 15) .prefixGuard
    | none => none) i.fieldDefect

/-- A well-formed instruction: no defect of R39. -/
abbrev Instr.wf (i : Instr) : Prop := i.defect = none

end Sys2Proof
end

