-- ==== Sys2Proof/Decode.lean ====
section
/-!
DEFINITION. Decoding an instruction word (R28 to R37) and, after it, encoding one. Decoding is total: it answers an
instruction or the name of the defect for which R39 refuses the word. Fields are pulled out once, by `split`.
-/

namespace Sys2Proof

/-- The fields of format A, from which every other format's fields are joined, R30. -/
structure Fields where
  g : BitVec 4
  op : BitVec 7
  d : BitVec 6
  a : BitVec 6
  b : BitVec 6
  t : BitVec 3
  deriving DecidableEq, Repr

/-- A word's fields, R30. -/
def split (w : IWord) : Fields :=
  { g := w.extractLsb' 28 4, op := w.extractLsb' 21 7, d := w.extractLsb' 15 6, a := w.extractLsb' 9 6,
    b := w.extractLsb' 3 6, t := w.extractLsb' 0 3 }

/-- The word with given fields, R30. -/
def join (f : Fields) : IWord := f.g ++ f.op ++ f.d ++ f.a ++ f.b ++ f.t

/-- IMM9[8:0] of format I, R30. -/
def Fields.imm9 (f : Fields) : BitVec 9 := f.b ++ f.t

/-- IMM15[14:0] of format L, R30. -/
def Fields.imm15 (f : Fields) : BitVec 15 := f.a ++ f.b ++ f.t

/-- OFF21[20:0] of format J, R30. -/
def Fields.off21 (f : Fields) : BitVec 21 := f.d ++ f.a ++ f.b ++ f.t

/-- ST[15:11] of format W, R30. -/
def Fields.waitSt (f : Fields) : BitVec 5 := f.d.extractLsb' 0 1 ++ f.a.extractLsb' 2 4

/-- CP[10:6] of format W, R30. -/
def Fields.waitCp (f : Fields) : BitVec 5 := f.a.extractLsb' 0 2 ++ f.b.extractLsb' 3 3

/-- MX[5:1] of format W, R30. -/
def Fields.waitMx (f : Fields) : BitVec 5 := f.b.extractLsb' 0 3 ++ f.t.extractLsb' 1 2

/-- FA[20:17] of PFX.T, R36. -/
def Fields.pfxA (f : Fields) : BitVec 4 := f.d.extractLsb' 2 4

/-- FB[16:13] of PFX.T, R36. -/
def Fields.pfxB (f : Fields) : BitVec 4 := f.d.extractLsb' 0 2 ++ f.a.extractLsb' 4 2

/-- PRS[12:9] of PFX.T, R36. -/
def Fields.pfxP (f : Fields) : BitVec 4 := f.a.extractLsb' 0 4

/-- An instruction when a condition on the word holds, else a defect. -/
def only (c : Prop) [Decidable c] (e : Defect) (i : Instr) : Except Defect Instr :=
  if c then .ok i else .error e

/-- Row 0x00 of the opcode grid, R33 and R34. -/
def decodeRow00 (f : Fields) : Except Defect Instr :=
  match f.op.extractLsb' 0 3 with
  | 0 => only (f.d = 0 ∧ f.a = 0 ∧ f.b = 0 ∧ f.t = 0) .nonZeroField (.nop f.g)
  | 1 => .ok (.br f.g f.off21)
  | 2 => .ok (.call f.g f.off21)
  | 3 =>
      match f.t with
      | 0 => only (f.d = 0 ∧ f.b = 0) .nonZeroField (.jmp f.g f.a)
      | 1 => only (f.d = 0 ∧ f.b = 0) .nonZeroField (.jmpCall f.g f.a)
      | 2 => only (f.d = 0 ∧ f.a = 0 ∧ f.b = 0) .nonZeroField (.jmpRet f.g)
      | _ => .error .reservedValue
  | 4 => only (f.a = 0) .nonZeroField (.loop f.g f.d f.imm9)
  | 5 => only (f.d = 0 ∧ f.a = 0 ∧ f.b = 0 ∧ f.t = 0) .nonZeroField (.endTask f.g)
  | 6 => only (f.t.extractLsb' 0 1 = 0) .nonZeroField (.wait f.g (f.d.extractLsb' 1 5) f.waitSt f.waitCp f.waitMx)
  | 7 => only (f.t = 0) .nonZeroField (.opf f.g f.d f.a f.b)

/-- Row 0x08 of the opcode grid, R33 and R34. -/
def decodeRow08 (f : Fields) : Except Defect Instr :=
  match f.op.extractLsb' 0 3 with
  | 0 => only (f.d = 0) .nonZeroField (.trap f.g f.imm15)
  | 1 => only (f.d = 0 ∧ f.a = 0 ∧ f.b = 0 ∧ f.t = 0) .nonZeroField (.eret f.g)
  | 2 => only (f.a.extractLsb' 3 3 = 0) .nonZeroField (.gets f.g f.d (f.imm15.extractLsb' 0 12))
  | 3 => only (f.a.extractLsb' 3 3 = 0) .nonZeroField (.sets f.g f.d (f.imm15.extractLsb' 0 12))
  | 4 =>
      match f.t with
      | 0 => only (f.a = 0 ∧ f.b = 0) .nonZeroField (.timeGt f.g f.d)
      | 1 => only (f.a = 0 ∧ f.b = 0) .nonZeroField (.timeCyc f.g f.d)
      | _ => .error .reservedValue
  | 5 => only (f.d = 0) .nonZeroField (.brk f.g f.imm15)
  | 6 =>
      match f.t with
      | 0 => only (f.d = 0) .nonZeroField (.tlbiRange f.g f.a f.b)
      | 1 => only (f.d = 0 ∧ f.a = 0) .nonZeroField (.tlbiCtx f.g f.b)
      | 2 => only (f.d = 0) .nonZeroField (.tlbiL1inv f.g f.a f.b)
      | 3 => only (f.d = 0) .nonZeroField (.tlbiL1clean f.g f.a f.b)
      | 4 => only (f.d = 0 ∧ f.a = 0 ∧ f.b = 0) .nonZeroField (.tlbiPart f.g)
      | _ => .error .reservedValue
  | 7 => only (f.d = 0) .nonZeroField (.wcall f.g f.imm15)

/-- Row 0x10 of the opcode grid, R33 and R34. -/
def decodeRow10 (f : Fields) : Except Defect Instr :=
  match f.op.extractLsb' 0 3 with
  | 0 => .ok (.add f.g f.d f.a f.b f.t)
  | 1 => .ok (.sub f.g f.d f.a f.b f.t)
  | 2 => .ok (.mul f.g f.d f.a f.b f.t)
  | 3 => .ok (.mulh f.g f.d f.a f.b f.t)
  | 4 => .ok (.mad f.g f.d f.a f.b f.t)
  | 5 => .ok (.min f.g f.d f.a f.b f.t)
  | 6 => .ok (.max f.g f.d f.a f.b f.t)
  | 7 => .ok (.absd f.g f.d f.a f.b f.t)

/-- Row 0x18 of the opcode grid, R33 and R34. -/
def decodeRow18 (f : Fields) : Except Defect Instr :=
  match f.op.extractLsb' 0 3 with
  | 0 => .ok (.and f.g f.d f.a f.b f.t)
  | 1 => .ok (.or f.g f.d f.a f.b f.t)
  | 2 => .ok (.xor f.g f.d f.a f.b f.t)
  | 3 => .ok (.andn f.g f.d f.a f.b f.t)
  | 4 => .ok (.shl f.g f.d f.a f.b f.t)
  | 5 => .ok (.shr f.g f.d f.a f.b f.t)
  | 6 => .ok (.rot f.g f.d f.a f.b f.t)
  | 7 => .ok (.addi f.g f.d f.a f.imm9)

/-- Row 0x20 of the opcode grid, R33 and R34. -/
def decodeRow20 (f : Fields) : Except Defect Instr :=
  match f.op.extractLsb' 0 3 with
  | 0 => .ok (.unop f.g f.d f.a f.b f.t)
  | 1 => .ok (.sel f.g f.d f.a f.b f.t)
  | 2 => .ok (.shuf f.g f.d f.a f.b f.t)
  | 3 => .ok (.bcast f.g f.d f.a f.b f.t)
  | 4 => .ok (.reduce f.g f.d f.a f.b f.t)
  | 5 => .ok (.scan f.g f.d f.a f.b f.t)
  | 6 => .ok (.movi f.g f.d f.imm15)
  | 7 => .ok (.movu f.g f.d f.imm15)

/-- Row 0x28 of the opcode grid, R33 and R34. -/
def decodeRow28 (f : Fields) : Except Defect Instr :=
  match f.op.extractLsb' 0 3 with
  | 0 => .ok (.addX f.g f.d f.a f.b f.t)
  | 1 => .ok (.subX f.g f.d f.a f.b f.t)
  | 2 => .ok (.mulX f.g f.d f.a f.b f.t)
  | 3 => .ok (.addiX f.g f.d f.a f.imm9)
  | 4 => .ok (.logicX f.g f.d f.a f.b f.t)
  | 5 => .ok (.divX f.g f.d f.a f.b f.t)
  | 6 => .ok (.movlX f.g f.d f.imm15)
  | 7 =>
      match f.t with
      | 0 => .ok (.laneGet f.g f.d f.a f.b)
      | 1 => .ok (.lanePut f.g f.d f.a f.b)
      | _ => .error .reservedValue

/-- Row 0x30 of the opcode grid, R33 and R34. -/
def decodeRow30 (f : Fields) : Except Defect Instr :=
  .ok (.cmp f.g (f.op.extractLsb' 0 3) (f.d.extractLsb' 3 3) (f.d.extractLsb' 0 3) f.a f.b f.t)

/-- Row 0x38 of the opcode grid, R33 and R34. -/
def decodeRow38 (f : Fields) : Except Defect Instr :=
  .ok (.fcmp f.g (f.op.extractLsb' 0 3) (f.d.extractLsb' 3 3) (f.d.extractLsb' 0 3) f.a f.b f.t)

/-- Row 0x40 of the opcode grid, R33 and R34. -/
def decodeRow40 (f : Fields) : Except Defect Instr :=
  match f.op.extractLsb' 0 3 with
  | 0 => .ok (.fadd f.g f.d f.a f.b f.t)
  | 1 => .ok (.fsub f.g f.d f.a f.b f.t)
  | 2 => .ok (.fmul f.g f.d f.a f.b f.t)
  | 3 => .ok (.fma f.g f.d f.a f.b f.t)
  | 4 => .ok (.fnma f.g f.d f.a f.b f.t)
  | 5 => .ok (.fmin f.g f.d f.a f.b f.t)
  | 6 => .ok (.fmax f.g f.d f.a f.b f.t)
  | 7 => .ok (.fminp f.g f.d f.a f.b f.t)

/-- Row 0x48 of the opcode grid, R33 and R34. -/
def decodeRow48 (f : Fields) : Except Defect Instr :=
  match f.op.extractLsb' 0 3 with
  | 0 => .ok (.funop f.g f.d f.a f.b f.t)
  | 1 => .ok (.fcvt f.g f.d f.a (f.b.extractLsb' 3 3) (f.b.extractLsb' 0 3) f.t)
  | 2 => .ok (.i2f f.g f.d f.a (f.b.extractLsb' 3 3) (f.b.extractLsb' 0 3) f.t)
  | 3 => .ok (.f2i f.g f.d f.a (f.b.extractLsb' 3 3) (f.b.extractLsb' 0 3) f.t)
  | 4 => .ok (.fdiv f.g f.d f.a f.b f.t)
  | 5 => only (f.b = 0) .nonZeroField (.fsqrt f.g f.d f.a f.t)
  | 6 => .ok (.ftrans f.g f.d f.a f.b f.t)
  | 7 => .ok (.fscale f.g f.d f.a f.b f.t)

/-- Row 0x50 of the opcode grid, R33 and R34. -/
def decodeRow50 (f : Fields) : Except Defect Instr :=
  match f.op.extractLsb' 0 3 with
  | 0 => .ok (.fdot2 f.g f.d f.a f.b f.t)
  | 1 => .ok (.fdot4 f.g f.d f.a f.b f.t)
  | 2 => .ok (.fred f.g f.d f.a f.b f.t)
  | 3 => only (f.b = 0) .nonZeroField (.fscan f.g f.d f.a f.t)
  | _ => .error .reservedOpcode

/-- Row 0x58 of the opcode grid, R33 and R34. -/
def decodeRow58 (f : Fields) : Except Defect Instr :=
  match f.op.extractLsb' 0 3 with
  | 0 => only (f.d.extractLsb' 3 3 = 0 ∧ f.a.extractLsb' 3 3 = 0 ∧ f.b.extractLsb' 3 3 = 0) .nonZeroField (.plogic f.g (f.d.extractLsb' 0 3) (f.a.extractLsb' 0 3) (f.b.extractLsb' 0 3) f.t)
  | 1 =>
      match f.t with
      | 0 => only (f.d.extractLsb' 3 3 = 0 ∧ f.a.extractLsb' 3 3 = 0 ∧ f.b = 0) .nonZeroField (.pmovPred f.g (f.d.extractLsb' 0 3) (f.a.extractLsb' 0 3))
      | 1 => only (f.d.extractLsb' 3 3 = 0 ∧ f.b = 0) .nonZeroField (.pmovFromReg f.g (f.d.extractLsb' 0 3) f.a)
      | 2 => only (f.a.extractLsb' 3 3 = 0 ∧ f.b = 0) .nonZeroField (.pmovToReg f.g f.d (f.a.extractLsb' 0 3))
      | _ => .error .reservedValue
  | 2 => only (f.a.extractLsb' 3 3 = 0 ∧ f.b = 0) .nonZeroField (.pcnt f.g f.d (f.a.extractLsb' 0 3) f.t)
  | 3 => only (f.a.extractLsb' 3 3 = 0 ∧ f.b = 0) .nonZeroField (.ptest f.g (f.d.extractLsb' 3 3) (f.d.extractLsb' 0 3) (f.a.extractLsb' 0 3) f.t)
  | 4 => only (f.d.extractLsb' 3 3 = 0) .nonZeroField (.pset f.g (f.d.extractLsb' 0 3) (f.a.extractLsb' 3 3) (f.imm15.extractLsb' 0 12))
  | _ => .error .reservedOpcode

/-- Row 0x60 of the opcode grid, R33 and R34. -/
def decodeRow60 (f : Fields) : Except Defect Instr :=
  match f.op.extractLsb' 0 3 with
  | 0 => .ok (.ldx f.g f.d f.a f.b f.t)
  | 1 => .ok (.stx f.g f.d f.a f.b f.t)
  | 2 => only (f.t = 5) .reservedValue (.ldv f.g f.d f.a f.b)
  | 3 => only (f.t = 5) .reservedValue (.stv f.g f.d f.a f.b)
  | 4 => .ok (.gath f.g f.d f.a f.b f.t)
  | 5 => .ok (.gathp f.g f.d f.a f.b f.t)
  | 6 => .ok (.scat f.g f.d f.a f.b f.t)
  | 7 => .ok (.ldfe f.g f.d f.a f.b f.t)

/-- Row 0x68 of the opcode grid, R33 and R34. -/
def decodeRow68 (f : Fields) : Except Defect Instr :=
  match f.op.extractLsb' 0 3 with
  | 0 => .ok (.stfe f.g f.d f.a f.b f.t)
  | 1 =>
      match f.t with
      | 0 => only (f.b.extractLsb' 3 3 = 0) .nonZeroField (.feopLdf f.g f.d f.a (f.b.extractLsb' 0 3))
      | 1 => only (f.b.extractLsb' 3 3 = 0) .nonZeroField (.feopStf f.g f.d f.a (f.b.extractLsb' 0 3))
      | 2 => only (f.d = 0 ∧ f.b.extractLsb' 3 3 = 0) .nonZeroField (.feopSete f.g f.a (f.b.extractLsb' 0 3))
      | 3 => only (f.d = 0 ∧ f.b.extractLsb' 3 3 = 0) .nonZeroField (.feopSetf f.g f.a (f.b.extractLsb' 0 3))
      | 4 => only (f.b = 5) .nonZeroField (.feopQtag f.g f.d f.a)
      | _ => .error .reservedValue
  | 2 => .ok (.ldt f.g f.d f.a f.b f.t)
  | 3 =>
      match f.t with
      | 0 => only (f.b = 0) .nonZeroField (.rdm f.g f.d f.a)
      | 1 => .ok (.rdmS f.g f.d f.a f.b)
      | _ => .error .reservedValue
  | 4 => only (f.d = 0 ∧ f.b = 0 ∧ f.t = 0) .nonZeroField (.tkrel f.g f.a)
  | 5 => only (f.d = 0) .nonZeroField (.pref f.g f.a f.b f.t)
  | 6 => only (f.d = 0 ∧ f.a = 0 ∧ f.b.extractLsb' 4 2 = 0) .nonZeroField (.fence f.g (f.b.extractLsb' 0 4) f.t)
  | _ => .error .reservedOpcode

/-- Row 0x70 of the opcode grid, R33 and R34. -/
def decodeRow70 (f : Fields) : Except Defect Instr :=
  match f.op.extractLsb' 0 3 with
  | 0 => .ok (.atom32 f.g f.d f.a f.b f.t)
  | 1 => .ok (.atom64 f.g f.d f.a f.b f.t)
  | 2 => .ok (.xatom f.g f.d f.a f.b f.t)
  | 3 => .ok (.scatadd f.g f.d f.a f.b f.t)
  | 4 =>
      match f.t with
      | 0 => only (f.d = 0 ∧ f.b = 0) .nonZeroField (.barFull f.g f.a)
      | 1 => only (f.b = 0) .nonZeroField (.barArrive f.g f.d f.a)
      | 2 => only (f.d = 0) .nonZeroField (.barWait f.g f.a f.b)
      | _ => .error .reservedValue
  | 5 =>
      match f.t with
      | 0 => only (f.b.extractLsb' 3 3 = 0) .nonZeroField (.slotAlloc f.g f.d f.a (f.b.extractLsb' 0 3))
      | 1 => only (f.b.extractLsb' 3 3 = 0) .nonZeroField (.slotFree f.g f.d f.a (f.b.extractLsb' 0 3))
      | _ => .error .reservedValue
  | 6 => only (f.b = 0 ∧ f.t = 0) .nonZeroField (.launch f.g f.d f.a)
  | 7 =>
      match f.t with
      | 0 => .ok (.lctlCancel f.g f.d f.a f.b)
      | 1 => only (f.b = 0) .nonZeroField (.lctlQuery f.g f.d f.a)
      | 2 => only (f.b = 0) .nonZeroField (.lctlWait f.g f.d f.a)
      | _ => .error .reservedValue

/-- Row 0x78 of the opcode grid, R33 and R34. -/
def decodeRow78 (f : Fields) : Except Defect Instr :=
  match f.op.extractLsb' 0 3 with
  | 0 =>
      match f.t with
      | 0 => .ok (.sendPost f.g f.d f.a f.b)
      | 1 => .ok (.sendAck f.g f.d f.a f.b)
      | 2 => .ok (.sendReply f.g f.d f.a f.b)
      | 3 => .ok (.sendEng f.g f.d f.a f.b)
      | _ => .error .reservedValue
  | 1 =>
      match f.t with
      | 0 => only (f.a = 0) .nonZeroField (.portBind f.g f.d f.b)
      | 1 => only (f.a = 0 ∧ f.b = 0) .nonZeroField (.portUnbind f.g f.d)
      | 2 => only (f.b = 0) .nonZeroField (.portQlen f.g f.d f.a)
      | 3 => only (f.a = 0) .nonZeroField (.portSbind f.g f.d f.b)
      | 4 => only (f.a = 0 ∧ f.b = 0) .nonZeroField (.portSrel f.g f.d)
      | 5 => only (f.b = 0) .nonZeroField (.portSstat f.g f.d f.a)
      | _ => .error .reservedValue
  | 2 =>
      match f.t with
      | 0 => only (f.a = 0) .nonZeroField (.htabRd f.g f.d f.b)
      | 1 => only (f.d = 0) .nonZeroField (.htabWr f.g f.a f.b)
      | _ => .error .reservedValue
  | 4 =>
      match f.t with
      | 0 => .ok (.cpy f.g f.d f.a f.b)
      | 1 => .ok (.cpyLoop f.g f.d f.a f.b)
      | 2 => only (f.d = 0 ∧ f.b = 0) .nonZeroField (.cpyrel f.g f.a)
      | 3 => .ok (.cpyMtx f.g f.d f.a f.b)
      | 4 => .ok (.cpyBlk f.g f.d f.a f.b)
      | 5 => .ok (.cpySlab f.g f.d f.a f.b)
      | _ => .error .reservedValue
  | 5 =>
      match f.t with
      | 0 => only (f.d.extractLsb' 5 1 = 0) .nonZeroField (.mtxMma f.g (f.d.extractLsb' 0 5) f.a f.b)
      | 1 => only (f.d.extractLsb' 5 1 = 0) .nonZeroField (.mtxMmaz f.g (f.d.extractLsb' 0 5) f.a f.b)
      | 2 => only (f.d.extractLsb' 5 1 = 0 ∧ f.b = 0) .nonZeroField (.mtxAccld f.g (f.d.extractLsb' 0 5) f.a)
      | 3 => only (f.d.extractLsb' 5 1 = 0 ∧ f.b = 0) .nonZeroField (.mtxAccst f.g (f.d.extractLsb' 0 5) f.a)
      | 4 => only (f.d.extractLsb' 5 1 = 0) .nonZeroField (.mtxAccmv f.g (f.d.extractLsb' 0 5) f.a f.b)
      | 5 => only (f.d.extractLsb' 5 1 = 0 ∧ f.a = 0 ∧ f.b = 0) .nonZeroField (.mtxCodeb f.g (f.d.extractLsb' 0 5))
      | 6 => only (f.d.extractLsb' 5 1 = 0 ∧ f.b = 0) .nonZeroField (.mtxAccq f.g (f.d.extractLsb' 0 5) f.a)
      | 7 => only (f.d.extractLsb' 5 1 = 0 ∧ f.a = 0 ∧ f.b = 0) .nonZeroField (.mtxAccfree f.g (f.d.extractLsb' 0 5))
  | 6 =>
      match f.t with
      | 0 => only (f.a = 0) .nonZeroField (.eregRd f.g f.d f.b)
      | 1 => only (f.d = 0) .nonZeroField (.eregWr f.g f.a f.b)
      | _ => .error .reservedValue
  | 7 =>
      match f.t with
      | 0 => .ok (.cget f.g f.d f.a f.b)
      | 1 => .ok (.csetb f.g f.d f.a f.b)
      | 2 => .ok (.candp f.g f.d f.a f.b)
      | 3 => .ok (.cinc f.g f.d f.a f.b)
      | 4 => .ok (.cseal f.g f.d f.a f.b)
      | 5 => .ok (.cunseal f.g f.d f.a f.b)
      | 6 => .ok (.ctest f.g f.d f.a f.b)
      | 7 => only (f.b = 0) .nonZeroField (.cclr f.g f.d f.a)
  | _ => .error .reservedOpcode


/-- The prefix space, R33, R36. -/
def decodePrefix (f : Fields) : Except Defect Instr :=
  match f.op with
  | 0 => only (f.b = 0 ∧ f.t = 0) .nonZeroField (.pfxT f.pfxA f.pfxB f.pfxP)
  | 1 => only (f.d.extractLsb' 0 4 = 0 ∧ f.a = 0 ∧ f.b = 0 ∧ f.t = 0) .nonZeroField (.pfxC (f.d.extractLsb' 4 2))
  | 2 => .ok (.pfxI f.off21)
  | 3 =>
    only (f.d.extractLsb' 0 1 = 0 ∧ f.a = 0 ∧ f.b = 0 ∧ f.t = 0) .nonZeroField
      (.pfxS (f.d.extractLsb' 4 2) (f.d.extractLsb' 1 3))
  | _ => .error .undefinedPrefix

/-- The opcode grid by its rows, OP[6:3], R33. -/
def decodeGrid (f : Fields) : Except Defect Instr :=
  match f.op.extractLsb' 3 4 with
  | 0 => decodeRow00 f
  | 1 => decodeRow08 f
  | 2 => decodeRow10 f
  | 3 => decodeRow18 f
  | 4 => decodeRow20 f
  | 5 => decodeRow28 f
  | 6 => decodeRow30 f
  | 7 => decodeRow38 f
  | 8 => decodeRow40 f
  | 9 => decodeRow48 f
  | 10 => decodeRow50 f
  | 11 => decodeRow58 f
  | 12 => decodeRow60 f
  | 13 => decodeRow68 f
  | 14 => decodeRow70 f
  | _ => decodeRow78 f

/-- An instruction that has no defect. -/
def checkWellFormed (i : Instr) : Except Defect Instr :=
  match i.defect with
  | none => .ok i
  | some e => .error e

/-- Decoding from fields: the prefix space is where the guard is 0b1111, R29, R33; then the checks of R39. -/
def decodeFields (f : Fields) : Except Defect Instr :=
  match if f.g = 15 then decodePrefix f else decodeGrid f with
  | .ok i => checkWellFormed i
  | .error e => .error e

/-- Decoding one word. -/
def decode (w : IWord) : Except Defect Instr := decodeFields (split w)

/-- The word of four bytes in little-endian order, R28. -/
def wordOfBytes (b0 b1 b2 b3 : Byte) : IWord := b3 ++ b2 ++ b1 ++ b0

/-- Decoding the first instruction of a list of bytes; answers the rest of the list with it. -/
def decodeBytes : List Byte → Except Defect (Instr × List Byte)
  | b0 :: b1 :: b2 :: b3 :: rest =>
    match decode (wordOfBytes b0 b1 b2 b3) with
    | .ok i => .ok (i, rest)
    | .error e => .error e
  | _ => .error .truncated

/-- A word's bytes in little-endian order, R28. -/
def bytesOfWord (w : IWord) : List Byte :=
  [w.extractLsb' 0 8, w.extractLsb' 8 8, w.extractLsb' 16 8, w.extractLsb' 24 8]

/-- What the decoder reads from an instruction whose bits the opcode table numbers as those of w. -/
def decodeTableWord (nbits w : Nat) : Option Instr :=
  if nbits = 32 ∧ w < 2 ^ 32 then
    match decodeBytes (bytesOfWord (BitVec.ofNat 32 w)) with
    | .ok (i, _) => some i
    | .error _ => none
  else none

/-! ## The encoder -/

/-- The fields of an instruction's word, from the encoding tables of R30, R34 and R36; none for an event, which has no
word. -/
def encodeFields : Instr → Option Fields
  | .nop g => some ⟨g, 0x00, 0#6, 0#6, 0#6, 0#3⟩
  | .br g o => some ⟨g, 0x01, (o.extractLsb' 15 6), (o.extractLsb' 9 6), (o.extractLsb' 3 6), (o.extractLsb' 0 3)⟩
  | .call g o => some ⟨g, 0x02, (o.extractLsb' 15 6), (o.extractLsb' 9 6), (o.extractLsb' 3 6), (o.extractLsb' 0 3)⟩
  | .jmp g a => some ⟨g, 0x03, 0#6, a, 0#6, 0#3⟩
  | .jmpCall g a => some ⟨g, 0x03, 0#6, a, 0#6, 1#3⟩
  | .jmpRet g => some ⟨g, 0x03, 0#6, 0#6, 0#6, 2#3⟩
  | .loop g d i => some ⟨g, 0x04, d, 0#6, (i.extractLsb' 3 6), (i.extractLsb' 0 3)⟩
  | .endTask g => some ⟨g, 0x05, 0#6, 0#6, 0#6, 0#3⟩
  | .wait g l s c m => some ⟨g, 0x06, (l ++ (s.extractLsb' 4 1)), ((s.extractLsb' 0 4) ++ (c.extractLsb' 3 2)), ((c.extractLsb' 0 3) ++ (m.extractLsb' 2 3)), ((m.extractLsb' 0 2) ++ 0#1)⟩
  | .opf g d a b => some ⟨g, 0x07, d, a, b, 0#3⟩
  | .trap g i => some ⟨g, 0x08, 0#6, (i.extractLsb' 9 6), (i.extractLsb' 3 6), (i.extractLsb' 0 3)⟩
  | .eret g => some ⟨g, 0x09, 0#6, 0#6, 0#6, 0#3⟩
  | .gets g d n => some ⟨g, 0x0A, d, (0#3 ++ (n.extractLsb' 9 3)), (n.extractLsb' 3 6), (n.extractLsb' 0 3)⟩
  | .sets g d n => some ⟨g, 0x0B, d, (0#3 ++ (n.extractLsb' 9 3)), (n.extractLsb' 3 6), (n.extractLsb' 0 3)⟩
  | .timeGt g d => some ⟨g, 0x0C, d, 0#6, 0#6, 0#3⟩
  | .timeCyc g d => some ⟨g, 0x0C, d, 0#6, 0#6, 1#3⟩
  | .brk g i => some ⟨g, 0x0D, 0#6, (i.extractLsb' 9 6), (i.extractLsb' 3 6), (i.extractLsb' 0 3)⟩
  | .tlbiRange g a b => some ⟨g, 0x0E, 0#6, a, b, 0#3⟩
  | .tlbiCtx g b => some ⟨g, 0x0E, 0#6, 0#6, b, 1#3⟩
  | .tlbiL1inv g a b => some ⟨g, 0x0E, 0#6, a, b, 2#3⟩
  | .tlbiL1clean g a b => some ⟨g, 0x0E, 0#6, a, b, 3#3⟩
  | .tlbiPart g => some ⟨g, 0x0E, 0#6, 0#6, 0#6, 4#3⟩
  | .wcall g i => some ⟨g, 0x0F, 0#6, (i.extractLsb' 9 6), (i.extractLsb' 3 6), (i.extractLsb' 0 3)⟩
  | .add g d a b t => some ⟨g, 0x10, d, a, b, t⟩
  | .sub g d a b t => some ⟨g, 0x11, d, a, b, t⟩
  | .mul g d a b t => some ⟨g, 0x12, d, a, b, t⟩
  | .mulh g d a b t => some ⟨g, 0x13, d, a, b, t⟩
  | .mad g d a b t => some ⟨g, 0x14, d, a, b, t⟩
  | .min g d a b t => some ⟨g, 0x15, d, a, b, t⟩
  | .max g d a b t => some ⟨g, 0x16, d, a, b, t⟩
  | .absd g d a b t => some ⟨g, 0x17, d, a, b, t⟩
  | .and g d a b t => some ⟨g, 0x18, d, a, b, t⟩
  | .or g d a b t => some ⟨g, 0x19, d, a, b, t⟩
  | .xor g d a b t => some ⟨g, 0x1A, d, a, b, t⟩
  | .andn g d a b t => some ⟨g, 0x1B, d, a, b, t⟩
  | .shl g d a b t => some ⟨g, 0x1C, d, a, b, t⟩
  | .shr g d a b t => some ⟨g, 0x1D, d, a, b, t⟩
  | .rot g d a b t => some ⟨g, 0x1E, d, a, b, t⟩
  | .addi g d a i => some ⟨g, 0x1F, d, a, (i.extractLsb' 3 6), (i.extractLsb' 0 3)⟩
  | .unop g d a o t => some ⟨g, 0x20, d, a, o, t⟩
  | .sel g d a b t => some ⟨g, 0x21, d, a, b, t⟩
  | .shuf g d a b t => some ⟨g, 0x22, d, a, b, t⟩
  | .bcast g d a b t => some ⟨g, 0x23, d, a, b, t⟩
  | .reduce g d a o t => some ⟨g, 0x24, d, a, o, t⟩
  | .scan g d a o t => some ⟨g, 0x25, d, a, o, t⟩
  | .movi g d i => some ⟨g, 0x26, d, (i.extractLsb' 9 6), (i.extractLsb' 3 6), (i.extractLsb' 0 3)⟩
  | .movu g d i => some ⟨g, 0x27, d, (i.extractLsb' 9 6), (i.extractLsb' 3 6), (i.extractLsb' 0 3)⟩
  | .addX g d a b t => some ⟨g, 0x28, d, a, b, t⟩
  | .subX g d a b t => some ⟨g, 0x29, d, a, b, t⟩
  | .mulX g d a b t => some ⟨g, 0x2A, d, a, b, t⟩
  | .addiX g d a i => some ⟨g, 0x2B, d, a, (i.extractLsb' 3 6), (i.extractLsb' 0 3)⟩
  | .logicX g d a b t => some ⟨g, 0x2C, d, a, b, t⟩
  | .divX g d a b t => some ⟨g, 0x2D, d, a, b, t⟩
  | .movlX g d i => some ⟨g, 0x2E, d, (i.extractLsb' 9 6), (i.extractLsb' 3 6), (i.extractLsb' 0 3)⟩
  | .laneGet g d a b => some ⟨g, 0x2F, d, a, b, 0#3⟩
  | .lanePut g d a b => some ⟨g, 0x2F, d, a, b, 1#3⟩
  | .cmp g c p e a b t => some ⟨g, (6#4 ++ c), (p ++ e), a, b, t⟩
  | .fcmp g c p e a b t => some ⟨g, (7#4 ++ c), (p ++ e), a, b, t⟩
  | .fadd g d a b t => some ⟨g, 0x40, d, a, b, t⟩
  | .fsub g d a b t => some ⟨g, 0x41, d, a, b, t⟩
  | .fmul g d a b t => some ⟨g, 0x42, d, a, b, t⟩
  | .fma g d a b t => some ⟨g, 0x43, d, a, b, t⟩
  | .fnma g d a b t => some ⟨g, 0x44, d, a, b, t⟩
  | .fmin g d a b t => some ⟨g, 0x45, d, a, b, t⟩
  | .fmax g d a b t => some ⟨g, 0x46, d, a, b, t⟩
  | .fminp g d a b t => some ⟨g, 0x47, d, a, b, t⟩
  | .funop g d a o t => some ⟨g, 0x48, d, a, o, t⟩
  | .fcvt g d a part dst src => some ⟨g, 0x49, d, a, (part ++ dst), src⟩
  | .i2f g d a part src dst => some ⟨g, 0x4A, d, a, (part ++ src), dst⟩
  | .f2i g d a part dst src => some ⟨g, 0x4B, d, a, (part ++ dst), src⟩
  | .fdiv g d a b t => some ⟨g, 0x4C, d, a, b, t⟩
  | .fsqrt g d a t => some ⟨g, 0x4D, d, a, 0#6, t⟩
  | .ftrans g d a o t => some ⟨g, 0x4E, d, a, o, t⟩
  | .fscale g d a b t => some ⟨g, 0x4F, d, a, b, t⟩
  | .fdot2 g d a b t => some ⟨g, 0x50, d, a, b, t⟩
  | .fdot4 g d a b t => some ⟨g, 0x51, d, a, b, t⟩
  | .fred g d a o t => some ⟨g, 0x52, d, a, o, t⟩
  | .fscan g d a t => some ⟨g, 0x53, d, a, 0#6, t⟩
  | .plogic g d a b t => some ⟨g, 0x58, (0#3 ++ d), (0#3 ++ a), (0#3 ++ b), t⟩
  | .pmovPred g d a => some ⟨g, 0x59, (0#3 ++ d), (0#3 ++ a), 0#6, 0#3⟩
  | .pmovFromReg g d a => some ⟨g, 0x59, (0#3 ++ d), a, 0#6, 1#3⟩
  | .pmovToReg g d a => some ⟨g, 0x59, d, (0#3 ++ a), 0#6, 2#3⟩
  | .pcnt g d a t => some ⟨g, 0x5A, d, (0#3 ++ a), 0#6, t⟩
  | .ptest g d e a t => some ⟨g, 0x5B, (d ++ e), (0#3 ++ a), 0#6, t⟩
  | .pset g p w c => some ⟨g, 0x5C, (0#3 ++ p), (w ++ (c.extractLsb' 9 3)), (c.extractLsb' 3 6), (c.extractLsb' 0 3)⟩
  | .ldx g d a f s => some ⟨g, 0x60, d, a, f, s⟩
  | .stx g d a f s => some ⟨g, 0x61, d, a, f, s⟩
  | .ldv g d a f => some ⟨g, 0x62, d, a, f, 5#3⟩
  | .stv g d a f => some ⟨g, 0x63, d, a, f, 5#3⟩
  | .gath g d a b t => some ⟨g, 0x64, d, a, b, t⟩
  | .gathp g d a b t => some ⟨g, 0x65, d, a, b, t⟩
  | .scat g d a b t => some ⟨g, 0x66, d, a, b, t⟩
  | .ldfe g d a f s => some ⟨g, 0x67, d, a, f, s⟩
  | .stfe g d a f s => some ⟨g, 0x68, d, a, f, s⟩
  | .feopLdf g d a z => some ⟨g, 0x69, d, a, (0#3 ++ z), 0#3⟩
  | .feopStf g d a z => some ⟨g, 0x69, d, a, (0#3 ++ z), 1#3⟩
  | .feopSete g a z => some ⟨g, 0x69, 0#6, a, (0#3 ++ z), 2#3⟩
  | .feopSetf g a z => some ⟨g, 0x69, 0#6, a, (0#3 ++ z), 3#3⟩
  | .feopQtag g d a => some ⟨g, 0x69, d, a, 5#6, 4#3⟩
  | .ldt g d a f s => some ⟨g, 0x6A, d, a, f, s⟩
  | .rdm g d a => some ⟨g, 0x6B, d, a, 0#6, 0#3⟩
  | .rdmS g d a b => some ⟨g, 0x6B, d, a, b, 1#3⟩
  | .tkrel g a => some ⟨g, 0x6C, 0#6, a, 0#6, 0#3⟩
  | .pref g a f s => some ⟨g, 0x6D, 0#6, a, f, s⟩
  | .fence g k t => some ⟨g, 0x6E, 0#6, 0#6, (0#2 ++ k), t⟩
  | .atom32 g d a b t => some ⟨g, 0x70, d, a, b, t⟩
  | .atom64 g d a b t => some ⟨g, 0x71, d, a, b, t⟩
  | .xatom g d a b t => some ⟨g, 0x72, d, a, b, t⟩
  | .scatadd g d a b t => some ⟨g, 0x73, d, a, b, t⟩
  | .barFull g a => some ⟨g, 0x74, 0#6, a, 0#6, 0#3⟩
  | .barArrive g d a => some ⟨g, 0x74, d, a, 0#6, 1#3⟩
  | .barWait g a b => some ⟨g, 0x74, 0#6, a, b, 2#3⟩
  | .slotAlloc g d a k => some ⟨g, 0x75, d, a, (0#3 ++ k), 0#3⟩
  | .slotFree g d a k => some ⟨g, 0x75, d, a, (0#3 ++ k), 1#3⟩
  | .launch g d a => some ⟨g, 0x76, d, a, 0#6, 0#3⟩
  | .lctlCancel g d a b => some ⟨g, 0x77, d, a, b, 0#3⟩
  | .lctlQuery g d a => some ⟨g, 0x77, d, a, 0#6, 1#3⟩
  | .lctlWait g d a => some ⟨g, 0x77, d, a, 0#6, 2#3⟩
  | .sendPost g d a b => some ⟨g, 0x78, d, a, b, 0#3⟩
  | .sendAck g d a b => some ⟨g, 0x78, d, a, b, 1#3⟩
  | .sendReply g d a b => some ⟨g, 0x78, d, a, b, 2#3⟩
  | .sendEng g d a b => some ⟨g, 0x78, d, a, b, 3#3⟩
  | .portBind g d b => some ⟨g, 0x79, d, 0#6, b, 0#3⟩
  | .portUnbind g d => some ⟨g, 0x79, d, 0#6, 0#6, 1#3⟩
  | .portQlen g d a => some ⟨g, 0x79, d, a, 0#6, 2#3⟩
  | .portSbind g d b => some ⟨g, 0x79, d, 0#6, b, 3#3⟩
  | .portSrel g d => some ⟨g, 0x79, d, 0#6, 0#6, 4#3⟩
  | .portSstat g d a => some ⟨g, 0x79, d, a, 0#6, 5#3⟩
  | .htabRd g d b => some ⟨g, 0x7A, d, 0#6, b, 0#3⟩
  | .htabWr g a b => some ⟨g, 0x7A, 0#6, a, b, 1#3⟩
  | .cpy g d a b => some ⟨g, 0x7C, d, a, b, 0#3⟩
  | .cpyLoop g d a b => some ⟨g, 0x7C, d, a, b, 1#3⟩
  | .cpyrel g a => some ⟨g, 0x7C, 0#6, a, 0#6, 2#3⟩
  | .cpyMtx g d a b => some ⟨g, 0x7C, d, a, b, 3#3⟩
  | .cpyBlk g d a b => some ⟨g, 0x7C, d, a, b, 4#3⟩
  | .cpySlab g d a b => some ⟨g, 0x7C, d, a, b, 5#3⟩
  | .mtxMma g n a b => some ⟨g, 0x7D, (0#1 ++ n), a, b, 0#3⟩
  | .mtxMmaz g n a b => some ⟨g, 0x7D, (0#1 ++ n), a, b, 1#3⟩
  | .mtxAccld g n a => some ⟨g, 0x7D, (0#1 ++ n), a, 0#6, 2#3⟩
  | .mtxAccst g n a => some ⟨g, 0x7D, (0#1 ++ n), a, 0#6, 3#3⟩
  | .mtxAccmv g n a b => some ⟨g, 0x7D, (0#1 ++ n), a, b, 4#3⟩
  | .mtxCodeb g n => some ⟨g, 0x7D, (0#1 ++ n), 0#6, 0#6, 5#3⟩
  | .mtxAccq g n a => some ⟨g, 0x7D, (0#1 ++ n), a, 0#6, 6#3⟩
  | .mtxAccfree g n => some ⟨g, 0x7D, (0#1 ++ n), 0#6, 0#6, 7#3⟩
  | .eregRd g d b => some ⟨g, 0x7E, d, 0#6, b, 0#3⟩
  | .eregWr g a b => some ⟨g, 0x7E, 0#6, a, b, 1#3⟩
  | .cget g d a b => some ⟨g, 0x7F, d, a, b, 0#3⟩
  | .csetb g d a b => some ⟨g, 0x7F, d, a, b, 1#3⟩
  | .candp g d a b => some ⟨g, 0x7F, d, a, b, 2#3⟩
  | .cinc g d a b => some ⟨g, 0x7F, d, a, b, 3#3⟩
  | .cseal g d a b => some ⟨g, 0x7F, d, a, b, 4#3⟩
  | .cunseal g d a b => some ⟨g, 0x7F, d, a, b, 5#3⟩
  | .ctest g d a b => some ⟨g, 0x7F, d, a, b, 6#3⟩
  | .cclr g d a => some ⟨g, 0x7F, d, a, 0#6, 7#3⟩
  | .pfxT a b p => some ⟨15, 0x00, (a ++ (b.extractLsb' 2 2)), ((b.extractLsb' 0 2) ++ p), 0#6, 0#3⟩
  | .pfxC m => some ⟨15, 0x01, (m ++ 0#4), 0#6, 0#6, 0#3⟩
  | .pfxI h => some ⟨15, 0x02, (h.extractLsb' 15 6), (h.extractLsb' 9 6), (h.extractLsb' 3 6), (h.extractLsb' 0 3)⟩
  | .pfxS o s => some ⟨15, 0x03, (o ++ s ++ 0#1), 0#6, 0#6, 0#3⟩
  | _ => none

/-- The word of an instruction; none for an event. -/
def encode (i : Instr) : Option IWord := (encodeFields i).map join

end Sys2Proof
end

