-- ==== Sys2Proof/Machine/Bits.lean ====
section
/-!
DEFINITION. Bit fields, signed readings and the element views of a register (R9, R42).
-/

namespace Sys2Proof.Machine

/-- Bits [hi:lo] of a number, R4. -/
def bits (x hi lo : Nat) : Nat := (x / 2 ^ lo) % 2 ^ (hi + 1 - lo)

/-- Bit k of a number. -/
def bit (x k : Nat) : Bool := (x / 2 ^ k) % 2 = 1

/-- 1 for true and 0 for false. -/
def b2n (b : Bool) : Nat := if b then 1 else 0

/-- The signed reading of the low w bits, R42. -/
def sext (x w : Nat) : Int :=
  let y := x % 2 ^ w
  if y < 2 ^ (w - 1) then (y : Int) else (y : Int) - (2 ^ w : Nat)

/-- An integer reduced modulo 2^w. -/
def wrap (i : Int) (w : Nat) : Nat := (i % ((2 ^ w : Nat) : Int)).toNat

/-- The low w bits read as signed or unsigned, R50. -/
def readInt (signed : Bool) (w x : Nat) : Int := if signed then sext x w else ((x % 2 ^ w : Nat) : Int)

/-- Element j of width w of a register, as an unsigned number, R9, R42. -/
def elem (v : Vec) (w j : Nat) : Nat := (v.toNat / 2 ^ (w * j)) % 2 ^ w

/-- The number whose elements of width w are those of a list, element 0 lowest. -/
def packList (w : Nat) : List Nat → Nat
  | [] => 0
  | x :: xs => x % 2 ^ w + 2 ^ w * packList w xs

/-- The list of the first n values of a function. -/
def listOf (n : Nat) (f : Nat → Nat) : List Nat := (List.range n).map f

/-- The register whose elements of width w are the values of a function, R9. -/
def ofElems (w : Nat) (f : Nat → Nat) : Vec := BitVec.ofNat 1024 (packList w (listOf (1024 / w) f))

/-- The elements of width w of a register, element 0 first, R9. -/
def elems (v : Vec) (w : Nat) : List Nat := listOf (1024 / w) (elem v w)

/-- A register with the elements that a function gives replaced, R29. -/
def updElems (v : Vec) (w : Nat) (f : Nat → Option Nat) : Vec :=
  ofElems w (fun j => match f j with
    | some x => x
    | none => elem v w j)

/-- A register with one element replaced, R42. -/
def setElem (v : Vec) (w j x : Nat) : Vec := updElems v w (fun k => if k = j then some x else none)

/-- A scalar in element 0 of width 64 with lanes 2 to 31 zero, R9. -/
def scalarVec (x : Nat) : Vec := BitVec.ofNat 1024 (x % 2 ^ 64)

/-- The scalar view of a register: element 0 of width 64, R9. -/
def scalarOf (v : Vec) : Nat := elem v 64 0

/-- The number of one bits among the low n bits. -/
def popCount (x : Nat) : Nat → Nat
  | 0 => 0
  | n + 1 => popCount x n + b2n (bit x n)

/-- The number of leading zero bits in w bits, w for zero, R88. -/
def clz (w x : Nat) : Nat := if x = 0 then w else w - 1 - Nat.log2 x

/-- The low w bits in reverse order, R88. -/
def reverseBits (w x : Nat) : Nat := packList 1 (listOf w (fun k => b2n (bit x (w - 1 - k))))

/-- The bytes of w bits in reverse order, R88. -/
def reverseBytes (w x : Nat) : Nat :=
  packList 8 (listOf (w / 8) (fun k => bits x (8 * (w / 8 - 1 - k) + 7) (8 * (w / 8 - 1 - k))))

/-- The number of a list of bytes, least significant first, R4. -/
def leNat (bs : List Byte) : Nat := packList 8 (bs.map (·.toNat))

/-- The first n bytes of a number, least significant first, R4. -/
def leBytes (n x : Nat) : List Byte := (List.range n).map (fun k => BitVec.ofNat 8 (x / 2 ^ (8 * k)))

/-- A number rounded down to a multiple. -/
def alignDown (x n : Nat) : Nat := x / n * n

/-- The ceiling of a quotient. -/
def ceilDiv (x n : Nat) : Nat := (x + n - 1) / n

/-- Replacing the bits [hi:lo] of a number. -/
def setBits (x hi lo v : Nat) : Nat :=
  x - bits x hi lo * 2 ^ lo + (v % 2 ^ (hi + 1 - lo)) * 2 ^ lo

/-- Replacing one bit of a number. -/
def setBit (x k : Nat) (b : Bool) : Nat := setBits x k k (b2n b)

/-- The integer square root, digit by digit from bit k-1 down. -/
def isqrtFrom (n : Nat) : Nat → Nat → Nat
  | 0, r => r
  | k + 1, r => if (r + 2 ^ k) * (r + 2 ^ k) ≤ n then isqrtFrom n k (r + 2 ^ k) else isqrtFrom n k r

/-- The integer square root. -/
def isqrt (n : Nat) : Nat := isqrtFrom n (Nat.log2 n / 2 + 1) 0

end Sys2Proof.Machine
end

