-- ==== Sys2Proof/Machine/Caps.lean ====
section
/-!
DEFINITION. Capabilities: their fields (R12), the bounds they decode to (R13), the check of an access through one (R14)
and the derivations of the capability instructions (R112, R113).
-/

namespace Sys2Proof.Machine

/-- A capability by its fields, R12. -/
structure Cap where
  otype : BitVec 16
  perm : BitVec 16
  exp : BitVec 6
  basem : BitVec 13
  topm : BitVec 13
  addr : Word
  deriving DecidableEq, Repr

/-- The fields of 128 bits, R12. -/
def Cap.ofBits (c : CapBits) : Cap :=
  { otype := c.extractLsb' 112 16, perm := c.extractLsb' 96 16, exp := c.extractLsb' 90 6,
    basem := c.extractLsb' 77 13, topm := c.extractLsb' 64 13, addr := c.extractLsb' 0 64 }

/-- The 128 bits of a capability's fields, R12. -/
def Cap.toBits (c : Cap) : CapBits := c.otype ++ c.perm ++ c.exp ++ c.basem ++ c.topm ++ c.addr

/-- The null capability's bits, R12. -/
def nullCapBits : CapBits := 0

/-- The permissions of R12, by their place in PERM. -/
inductive Perm where
  | ld | st | ex | cld | cst | snd | eng | tkt | seal | unsl | wrld
  deriving DecidableEq, Repr

/-- The bit of PERM that holds a permission, R12. -/
def Perm.index : Perm → Nat
  | .ld => 0
  | .st => 1
  | .ex => 2
  | .cld => 3
  | .cst => 4
  | .snd => 5
  | .eng => 6
  | .tkt => 7
  | .seal => 8
  | .unsl => 9
  | .wrld => 10

/-- Whether a capability holds a permission. -/
def Cap.has (c : Cap) (p : Perm) : Bool := c.perm.getLsbD p.index

/-- The term (hi(x) - hi(m)) of R13. -/
def Cap.region (c : Cap) (x : Nat) : Int :=
  let lim := (c.basem.toNat + 2 ^ 13 - 2 ^ 10) % 2 ^ 13
  let m := (c.addr.toNat / 2 ^ c.exp.toNat) % 2 ^ 13
  (b2n (x < lim) : Int) - (b2n (m < lim) : Int)

/-- The start of the address's window of R13. -/
def Cap.window (c : Cap) : Int :=
  let span := 2 ^ (c.exp.toNat + 13)
  ((c.addr.toNat / span * span : Nat) : Int)

/-- The edge that a mantissa decodes to, R13. -/
def Cap.edge (c : Cap) (x : Nat) : Int :=
  c.window + c.region x * ((2 ^ (c.exp.toNat + 13) : Nat) : Int) + ((x * 2 ^ c.exp.toNat : Nat) : Int)

/-- The base of a capability, R13. -/
def Cap.base (c : Cap) : Int := c.edge c.basem.toNat

/-- The top of a capability, R13. -/
def Cap.top (c : Cap) : Int := c.edge c.topm.toNat

/-- A capability with another address. -/
def Cap.withAddr (c : Cap) (a : Nat) : Cap := { c with addr := BitVec.ofNat 64 a }

/-- Whether an address is representable in a capability, R13. -/
def Cap.representable (c : Cap) (a : Nat) : Bool :=
  (c.withAddr a).base = c.base && (c.withAddr a).top = c.top

/-- Whether an access of n bytes at x lies within the bounds, R14. -/
def Cap.covers (c : Cap) (x n : Nat) : Bool := c.base ≤ (x : Int) && ((x + n : Nat) : Int) ≤ c.top

/-- Tagged with OTYPE 0: derivable, R110. -/
def derivable (tag : Bool) (c : Cap) : Bool := tag && c.otype == 0

/-- The length that CGET reports, R111; a length that only an untagged word can decode to is reduced modulo 2^64 (DESIGN CHOICE,
assumption 96). -/
def Cap.lengthField (c : Cap) : Nat :=
  let n := c.top - c.base
  if n = (2 ^ 64 : Nat) then 2 ^ 64 - 1 else wrap n 64

/-- The granules that a range takes at one exponent, R112. -/
def granules (lo hi e : Nat) : Nat := ceilDiv hi (2 ^ e) - lo / 2 ^ e

/-- The least exponent from e on, at most 51, at which a range takes at most 7,167 granules, R112. -/
def leastExp (lo hi : Nat) : Nat → Nat → Option Nat
  | 0, _ => none
  | f + 1, e => if granules lo hi e ≤ 7167 then some e else leastExp lo hi f (e + 1)

/-- Narrowing a capability to a length from its address, R112; none where CSETB takes its capability fault. -/
def Cap.setBounds (c : Cap) (len : Nat) : Option Cap :=
  let lo := c.addr.toNat
  let hi := lo + len
  match leastExp lo hi 52 0 with
  | none => none
  | some e =>
    let nb := lo / 2 ^ e * 2 ^ e
    let nt := ceilDiv hi (2 ^ e) * 2 ^ e
    if (nb : Int) < c.base ∨ (nt : Int) > c.top then none
    else some { c with exp := BitVec.ofNat 6 e, basem := BitVec.ofNat 13 (nb / 2 ^ e),
                       topm := BitVec.ofNat 13 (nt / 2 ^ e) }

/-- A capability over [base, base + len) with given permissions, for bounds that need no rounding or round outward,
R13; none where no exponent represents it. -/
def Cap.make (perm otype base len addr : Nat) : Option Cap :=
  match leastExp base (base + len) 52 0 with
  | none => none
  | some e => some
    { otype := BitVec.ofNat 16 otype, perm := BitVec.ofNat 16 perm, exp := BitVec.ofNat 6 e,
      basem := BitVec.ofNat 13 (base / 2 ^ e), topm := BitVec.ofNat 13 (ceilDiv (base + len) (2 ^ e)),
      addr := BitVec.ofNat 64 addr }

end Sys2Proof.Machine
end

