-- ==== Sys2Proof/Machine/Float.lean ====
section
/-!
DEFINITION. Floating-point values: formats (R48, R49), the five rounding modes and overflow (R55), flags (R56), and the
element operations of R103 to R106 with their IEEE 754-2019 special values. A finite value is held exactly, as a sign, a
natural number and a power of two; a result is rounded once.
-/

namespace Sys2Proof.Machine

/-- A floating-point format, R48: width, fraction bits, bias, and whether an all-ones exponent is special. -/
structure Fmt where
  w : Nat
  m : Nat
  bias : Nat
  special : Bool
  deriving DecidableEq, Repr

def Fmt.f64 : Fmt := { w := 64, m := 52, bias := 1023, special := true }
def Fmt.f32 : Fmt := { w := 32, m := 23, bias := 127, special := true }
def Fmt.f16 : Fmt := { w := 16, m := 10, bias := 15, special := true }
def Fmt.bf16 : Fmt := { w := 16, m := 7, bias := 127, special := true }
def Fmt.e4m3 : Fmt := { w := 8, m := 3, bias := 7, special := false }
def Fmt.e5m2 : Fmt := { w := 8, m := 2, bias := 15, special := true }

/-- The format of a code of the float table, R32. -/
def Fmt.ofCode : Nat → Fmt
  | 0 => Fmt.f16
  | 1 => Fmt.bf16
  | 2 => Fmt.f32
  | 3 => Fmt.f64
  | 4 => Fmt.e4m3
  | _ => Fmt.e5m2

/-- The largest exponent field of a finite value. -/
def Fmt.maxField (f : Fmt) : Nat :=
  if f.special then 2 ^ (f.w - 1 - f.m) - 2 else 2 ^ (f.w - 1 - f.m) - 1

/-- The encoding of the largest finite value, sign 0, R49. -/
def Fmt.maxFinite (f : Fmt) : Nat :=
  if f.special then f.maxField * 2 ^ f.m + (2 ^ f.m - 1) else f.maxField * 2 ^ f.m + (2 ^ f.m - 2)

/-- The encoding of +infinity, in a format that has one, R49. -/
def Fmt.infinity (f : Fmt) : Nat := (2 ^ (f.w - 1 - f.m) - 1) * 2 ^ f.m

/-- The canonical NaN, R49. -/
def Fmt.nan (f : Fmt) : Nat :=
  if f.special then f.infinity + 2 ^ (f.m - 1) else f.maxField * 2 ^ f.m + (2 ^ f.m - 1)

/-- The sign bit's weight. -/
def Fmt.signBit (f : Fmt) : Nat := 2 ^ (f.w - 1)

/-- A value of a format: a NaN, an infinity, or (-1)^neg * mant * 2^exp exactly. -/
inductive FVal where
  | nan (signalling : Bool)
  | inf (neg : Bool)
  | fin (neg : Bool) (mant : Nat) (exp : Int)
  deriving DecidableEq, Repr

/-- The value of an element's bits, R48, R49. -/
def Fmt.decode (f : Fmt) (x : Nat) : FVal :=
  let neg := bit x (f.w - 1)
  let e := bits x (f.w - 2) f.m
  let fr := x % 2 ^ f.m
  if f.special ∧ e = 2 ^ (f.w - 1 - f.m) - 1 then
    if fr = 0 then .inf neg else .nan (fr < 2 ^ (f.m - 1))
  else if ¬ f.special ∧ e = f.maxField ∧ fr = 2 ^ f.m - 1 then .nan false
  else if e = 0 then .fin neg fr (1 - (f.bias : Int) - (f.m : Int))
  else .fin neg (2 ^ f.m + fr) ((e : Int) - (f.bias : Int) - (f.m : Int))

/-- The bits of a sign over a magnitude's encoding. -/
def Fmt.signed (f : Fmt) (neg : Bool) (x : Nat) : Nat := if neg then f.signBit + x else x

/-- The five flags, in the order of SR[7:3] from bit 0: NV, DZ, OF, UF, NX, R20. -/
abbrev Flags := BitVec 5

def Flags.none : Flags := 0
def Flags.nv : Flags := 1
def Flags.dz : Flags := 2
def Flags.of : Flags := 4
def Flags.uf : Flags := 8
def Flags.nx : Flags := 16

/-- A flag when a condition holds. -/
def Flags.when (c : Bool) (f : Flags) : Flags := if c then f else 0

/-- The rounding modes of SR.RM, R20, R55. -/
inductive Rm where
  | rne | rtz | rup | rdn | rna
  deriving DecidableEq, Repr

/-- The mode of SR.RM; the reserved codes never stand in SR, R21. -/
def Rm.ofCode : Nat → Rm
  | 0 => .rne
  | 1 => .rtz
  | 2 => .rup
  | 3 => .rdn
  | _ => .rna

/-- Whether a magnitude with quotient q and remainder r of 2^k is rounded up, R55. -/
def roundsUp (rm : Rm) (neg : Bool) (q r k : Nat) : Bool :=
  match rm with
  | .rne => r * 2 > 2 ^ k || (r * 2 == 2 ^ k && q % 2 == 1)
  | .rtz => false
  | .rup => !neg && r != 0
  | .rdn => neg && r != 0
  | .rna => r != 0 && r * 2 ≥ 2 ^ k

/-- A magnitude mant * 2^exp rounded to a multiple of 2^q: the multiple, and whether it differs. -/
def roundAt (rm : Rm) (neg : Bool) (mant : Nat) (exp q : Int) : Nat × Bool :=
  if q ≤ exp then (mant * 2 ^ (exp - q).toNat, false)
  else
    let k := (q - exp).toNat
    let n := mant / 2 ^ k
    let r := mant % 2 ^ k
    (n + b2n (roundsUp rm neg n r k), r != 0)

/-- floor(log2) of a non-zero magnitude mant * 2^exp. -/
def magLog (mant : Nat) (exp : Int) : Int := (Nat.log2 mant : Int) + exp

/-- A result and the flags it raises. -/
structure FRes where
  bits : Nat
  flags : Flags
  deriving DecidableEq, Repr

/-- The exponent of the smallest normal value. -/
def Fmt.emin (f : Fmt) : Int := 1 - (f.bias : Int)

/-- The encoding of a rounded magnitude n * 2^q, where n has at most m + 2 bits and q is its quantum. -/
def Fmt.encodeMag (f : Fmt) (n : Nat) (q : Int) : Nat :=
  if n < 2 ^ f.m then n
  else if n < 2 ^ (f.m + 1) then (q + f.m + f.bias).toNat * 2 ^ f.m + (n - 2 ^ f.m)
  else (q + 1 + f.m + f.bias).toNat * 2 ^ f.m + (n / 2 - 2 ^ f.m)

/-- A non-zero magnitude rounded to p significant bits within a format's exponent range, unbounded above, R55: the
encoding it would have, whether it overflows, whether it is inexact and whether it is tiny after rounding. -/
structure Rounded where
  enc : Nat
  overflow : Bool
  inexact : Bool
  tiny : Bool
  deriving DecidableEq, Repr

/-- Rounding a non-zero magnitude to p significant bits, R55, R56. -/
def Fmt.roundMag (f : Fmt) (p : Nat) (rm : Rm) (neg : Bool) (mant : Nat) (exp : Int) : Rounded :=
  let l := magLog mant exp
  let q0 := l - (p : Int) + 1
  let qmin := f.emin - (f.m : Int)
  let q := max q0 qmin
  let (n, ix) := roundAt rm neg mant exp q
  let (n0, _) := roundAt rm neg mant exp q0
  -- n * 2^q as a significand of the format's own quantum
  let l' := if n = 0 then qmin else magLog n q
  let qf := max (l' - (f.m : Int)) qmin
  let nf := if qf ≤ q then n * 2 ^ (q - qf).toNat else n / 2 ^ (qf - q).toNat
  let e := f.encodeMag nf qf
  { enc := e, overflow := e > f.maxFinite, inexact := ix,
    tiny := n0 ≠ 0 ∧ magLog n0 q0 < f.emin }

/-- What an overflowing arithmetic result becomes, R55. -/
def Fmt.overflowed (f : Fmt) (rm : Rm) (neg : Bool) : Nat :=
  let toMax := match rm with
    | .rtz => true
    | .rup => neg
    | .rdn => !neg
    | _ => false
  f.signed neg (if toMax then f.maxFinite else f.infinity)

/-- The exact result (-1)^neg * mant * 2^exp of an arithmetic operation, rounded once, R55, R56. -/
def Fmt.round (f : Fmt) (rm : Rm) (neg : Bool) (mant : Nat) (exp : Int) : FRes :=
  if mant = 0 then { bits := f.signed neg 0, flags := 0 }
  else
    let r := f.roundMag (f.m + 1) rm neg mant exp
    if r.overflow then { bits := f.overflowed rm neg, flags := Flags.of ||| Flags.nx }
    else { bits := f.signed neg r.enc,
           flags := Flags.when r.inexact Flags.nx ||| Flags.when (r.inexact && r.tiny) Flags.uf }

/-- The canonical NaN, with NV when asked. -/
def Fmt.nanRes (f : Fmt) (nv : Bool) : FRes := { bits := f.nan, flags := Flags.when nv Flags.nv }

/-- An infinity as a result. -/
def Fmt.infRes (f : Fmt) (neg : Bool) : FRes := { bits := f.signed neg f.infinity, flags := 0 }

/-- A zero as a result. -/
def Fmt.zeroRes (f : Fmt) (neg : Bool) : FRes := { bits := f.signed neg 0, flags := 0 }

/-- Whether a value is a signalling NaN. -/
def FVal.isSnan : FVal → Bool
  | .nan s => s
  | _ => false

/-- Whether a value is a NaN. -/
def FVal.isNan : FVal → Bool
  | .nan _ => true
  | _ => false

/-- Whether a value is a zero. -/
def FVal.isZero : FVal → Bool
  | .fin _ m _ => m == 0
  | _ => false

/-- The sign of a value that is no NaN. -/
def FVal.neg : FVal → Bool
  | .nan _ => false
  | .inf n => n
  | .fin n _ _ => n

/-- A value with its sign inverted. -/
def FVal.negate : FVal → FVal
  | .nan s => .nan s
  | .inf n => .inf (!n)
  | .fin n m e => .fin (!n) m e

/-- A signed magnitude. -/
def signedMag (neg : Bool) (m : Nat) : Int := if neg then -(m : Int) else (m : Int)

/-- The exact product of two values, with 0 x infinity as a NaN that raises NV, R103. -/
def FVal.mul (a b : FVal) : FVal :=
  match a, b with
  | .nan s, .nan t => .nan (s || t)
  | .nan s, _ => .nan s
  | _, .nan t => .nan t
  | .inf n, .inf k => .inf (n != k)
  | .inf n, .fin k m _ => if m = 0 then .nan true else .inf (n != k)
  | .fin k m _, .inf n => if m = 0 then .nan true else .inf (n != k)
  | .fin n m e, .fin k l g => .fin (n != k) (m * l) (e + g)

/-- The sign of an exactly zero sum, R103. -/
def zeroSumSign (rm : Rm) (na za nb zb : Bool) : Bool :=
  if za && zb && na == nb then na else rm == .rdn

/-- The sum of two terms, rounded once, with the zero signs of R103. -/
def Fmt.addVal (f : Fmt) (rm : Rm) (a b : FVal) : FRes :=
  match a, b with
  | .nan s, .nan t => f.nanRes (s || t)
  | .nan s, _ => f.nanRes s
  | _, .nan t => f.nanRes t
  | .inf n, .inf k => if n = k then f.infRes n else f.nanRes true
  | .inf n, .fin .. => f.infRes n
  | .fin .., .inf k => f.infRes k
  | .fin n m e, .fin k l g =>
    let q := min e g
    let s := signedMag n (m * 2 ^ (e - q).toNat) + signedMag k (l * 2 ^ (g - q).toNat)
    if s = 0 then f.zeroRes (zeroSumSign rm n (m == 0) k (l == 0))
    else f.round rm (s < 0) s.natAbs q

/-- A value rounded to a format. -/
def Fmt.ofVal (f : Fmt) (rm : Rm) : FVal → FRes
  | .nan s => f.nanRes s
  | .inf n => f.infRes n
  | .fin n m e => f.round rm n m e

/-- FADD, R103. -/
def Fmt.add (f : Fmt) (rm : Rm) (a b : Nat) : FRes := f.addVal rm (f.decode a) (f.decode b)

/-- FSUB, R103. -/
def Fmt.sub (f : Fmt) (rm : Rm) (a b : Nat) : FRes := f.addVal rm (f.decode a) (f.decode b).negate

/-- FMUL, R103. -/
def Fmt.mul (f : Fmt) (rm : Rm) (a b : Nat) : FRes := f.ofVal rm ((f.decode a).mul (f.decode b))

/-- FMA and FNMA: d + a x b or d - a x b with one rounding; a 0 x infinity product raises NV whatever d holds, R103. -/
def Fmt.fma (f : Fmt) (rm : Rm) (negate : Bool) (d a b : Nat) : FRes :=
  let p := (f.decode a).mul (f.decode b)
  f.addVal rm (f.decode d) (if negate then p.negate else p)

/-- The order of two values that are no NaN, with -0 below +0 when asked: less. -/
def FVal.lt (zeros : Bool) (a b : FVal) : Bool :=
  match a, b with
  | .inf n, .inf k => n && !k
  | .inf n, _ => n
  | _, .inf k => !k
  | .fin n m e, .fin k l g =>
    if m = 0 ∧ l = 0 then zeros && n && !k
    else
      let q := min e g
      signedMag n (m * 2 ^ (e - q).toNat) < signedMag k (l * 2 ^ (g - q).toNat)
  | _, _ => false

/-- Two values that are no NaN compare equal; the two zeros do, R98. -/
def FVal.eqv (a b : FVal) : Bool := !a.isNan && !b.isNan && !FVal.lt false a b && !FVal.lt false b a

/-- minimumNumber or maximumNumber, R103. -/
def Fmt.minMax (f : Fmt) (isMax : Bool) (a b : Nat) : FRes :=
  let x := f.decode a
  let y := f.decode b
  let fl := Flags.when (x.isSnan || y.isSnan) Flags.nv
  if x.isNan then (if y.isNan then { bits := f.nan, flags := fl } else { bits := b, flags := fl })
  else if y.isNan then { bits := a, flags := fl }
  else if isMax then { bits := if FVal.lt true x y then b else a, flags := fl }
  else { bits := if FVal.lt true y x then b else a, flags := fl }

/-- FMINP: minimum, propagating NaNs, R103. -/
def Fmt.minp (f : Fmt) (a b : Nat) : FRes :=
  let x := f.decode a
  let y := f.decode b
  if x.isNan || y.isNan then f.nanRes (x.isSnan || y.isSnan)
  else { bits := if FVal.lt true y x then b else a, flags := 0 }

/-- FSCALE: a x 2^k, rounded once, R103. -/
def Fmt.scale (f : Fmt) (rm : Rm) (a : Nat) (k : Int) : FRes :=
  match f.decode a with
  | .nan s => f.nanRes s
  | .inf n => f.infRes n
  | .fin n m e =>
    -- beyond 2^14 every result has overflowed or lies below half the smallest subnormal
    f.round rm n m (e + max (-16384) (min 16384 k))

/-- FRNDI and FRNDN, R104. -/
def Fmt.roundIntegral (f : Fmt) (rm : Rm) (nx : Bool) (a : Nat) : FRes :=
  match f.decode a with
  | .nan s => f.nanRes s
  | .inf _ => { bits := a, flags := 0 }
  | .fin n m e =>
    if m = 0 then { bits := a, flags := 0 }
    else
      let (k, ix) := roundAt rm n m e 0
      { bits := (f.round .rtz n k 0).bits, flags := Flags.when (nx && ix) Flags.nx }

/-- FCLASS's code, R104. -/
def Fmt.classCode (f : Fmt) (a : Nat) : Nat :=
  match f.decode a with
  | .nan s => if s then 0 else 1
  | .inf n => if n then 2 else 9
  | .fin n m _ =>
    if m = 0 then (if n then 5 else 6)
    else if m < 2 ^ f.m then (if n then 4 else 7)
    else if n then 3 else 8

/-- The precision of FRCPA and FRSQA, R105. -/
def Fmt.approxBits (f : Fmt) : Nat := if f.w = 16 then f.m + 1 else 12

/-- A magnitude rounded to nearest even to p significant bits, raising only OF, R105. -/
def Fmt.approx (f : Fmt) (neg : Bool) (mant : Nat) (exp : Int) : FRes :=
  let r := f.roundMag f.approxBits .rne neg mant exp
  if r.overflow then { bits := f.signed neg f.infinity, flags := Flags.of }
  else { bits := f.signed neg r.enc, flags := 0 }

/-- The quotient of two positive magnitudes to 128 bits below the point, with a sticky bit: exponent relative to the
operands' exponents. -/
def quotientSticky (a b : Nat) : Nat :=
  let n := a * 2 ^ 128
  2 * (n / b) + b2n (n % b != 0)

/-- FDIV, R106. -/
def Fmt.div (f : Fmt) (rm : Rm) (a b : Nat) : FRes :=
  match f.decode a, f.decode b with
  | .nan s, .nan t => f.nanRes (s || t)
  | .nan s, _ => f.nanRes s
  | _, .nan t => f.nanRes t
  | .inf _, .inf _ => f.nanRes true
  | .inf n, .fin k _ _ => f.infRes (n != k)
  | .fin n _ _, .inf k => f.zeroRes (n != k)
  | .fin n m e, .fin k l g =>
    if l = 0 then
      if m = 0 then f.nanRes true else { bits := f.signed (n != k) f.infinity, flags := Flags.dz }
    else if m = 0 then f.zeroRes (n != k)
    else f.round rm (n != k) (quotientSticky m l) (e - g - 129)

/-- The square root of a positive magnitude with a sticky bit; the operand's exponent is even. -/
def sqrtSticky (m : Nat) : Nat :=
  let n := m * 2 ^ 160
  let r := isqrt n
  2 * r + b2n (r * r != n)

/-- A magnitude with an even exponent. -/
def evenExp (m : Nat) (e : Int) : Nat × Int := if e % 2 = 0 then (m, e) else (2 * m, e - 1)

/-- FSQRT, R106. -/
def Fmt.sqrt (f : Fmt) (rm : Rm) (a : Nat) : FRes :=
  match f.decode a with
  | .nan s => f.nanRes s
  | .inf n => if n then f.nanRes true else f.infRes false
  | .fin n m e =>
    if m = 0 then f.zeroRes n
    else if n then f.nanRes true
    else
      let (m', e') := evenExp m e
      f.round rm false (sqrtSticky m') (e' / 2 - 81)

/-- FRCPA, R105. -/
def Fmt.rcpa (f : Fmt) (a : Nat) : FRes :=
  match f.decode a with
  | .nan s => f.nanRes s
  | .inf n => f.zeroRes n
  | .fin n m e =>
    if m = 0 then { bits := f.signed n f.infinity, flags := Flags.dz }
    else f.approx n (quotientSticky 1 m) (-e - 129)

/-- FRSQA, R105: the exact 1 / sqrt(a) to p bits, from the square root of 2^400 / m. -/
def Fmt.rsqa (f : Fmt) (a : Nat) : FRes :=
  match f.decode a with
  | .nan s => f.nanRes s
  | .inf n => if n then f.nanRes true else f.zeroRes false
  | .fin n m e =>
    if m = 0 then { bits := f.signed n f.infinity, flags := Flags.dz }
    else if n then f.nanRes true
    else
      let (m', e') := evenExp m e
      let q := 2 ^ 400 / m'
      let r := isqrt q
      f.approx false (2 * r + b2n (r * r * m' != 2 ^ 400)) (-(e' / 2) - 201)

/-- A comparison of FCMP: its condition code's truth and whether it raises NV, R98. -/
def Fmt.compare (f : Fmt) (c a b : Nat) : Bool × Bool :=
  let x := f.decode a
  let y := f.decode b
  let un := x.isNan || y.isNan
  let snan := x.isSnan || y.isSnan
  let lt := !un && FVal.lt false x y
  let gt := !un && FVal.lt false y x
  match c with
  | 0 => (!un && !lt && !gt, snan)
  | 1 => (un || lt || gt, snan)
  | 2 => (lt, un)
  | 3 => (!un && !gt, un)
  | 4 => (gt, un)
  | 5 => (!un && !lt, un)
  | 6 => (!un, snan)
  | _ => (un, snan)

/-! ## Dot blocks, R64 to R66 -/

/-- The largest exponent of the non-zero finite terms, R64 step 2. -/
def maxExp : List FVal → Option Int
  | [] => none
  | .fin _ m e :: r =>
    if m = 0 then maxExp r
    else match maxExp r with
      | none => some (magLog m e)
      | some x => some (max x (magLog m e))
  | _ :: r => maxExp r

/-- A term truncated toward zero to a multiple of 2^q, as that multiple, R64 step 3. -/
def truncTerm (q : Int) : FVal → Int
  | .fin n m e => signedMag n (roundAt .rtz n m e q).1
  | _ => 0

/-- The sum of a list of integers. -/
def sumInt : List Int → Int
  | [] => 0
  | x :: r => x + sumInt r

/-- A block: the accumulator value and the products, as one f32, R64 to R66. -/
def dotBlock (acc : FVal) (products : List FVal) : FRes :=
  let terms := acc :: products
  let infs := terms.filter (fun t => match t with
    | .inf _ => true
    | _ => false)
  let both := infs.any FVal.neg && infs.any (fun t => !t.neg)
  if terms.any FVal.isNan || both then
    { bits := Fmt.f32.nan, flags := Flags.when (terms.any FVal.isSnan || both) Flags.nv }
  else match infs with
    | t :: _ => { bits := Fmt.f32.signed t.neg Fmt.f32.infinity, flags := 0 }
    | [] =>
      match maxExp terms with
      | none => { bits := Fmt.f32.signed (terms.all FVal.neg) 0, flags := 0 }
      | some e =>
        let q := e - 40
        let s := sumInt (terms.map (truncTerm q))
        if s = 0 then { bits := 0, flags := 0 }
        else
          let r := Fmt.f32.roundMag 24 .rne (s < 0) s.natAbs q
          if r.overflow then { bits := Fmt.f32.signed (s < 0) Fmt.f32.infinity, flags := Flags.of }
          else { bits := Fmt.f32.signed (s < 0) r.enc, flags := 0 }

/-! ## Reductions, R67 and R68 -/

/-- A value passed on unchanged, but for a NaN, R67. -/
def Fmt.passOn (f : Fmt) (a : Nat) : FRes :=
  match f.decode a with
  | .nan s => f.nanRes s
  | _ => { bits := a, flags := 0 }

/-- A child passed on with an absent neighbour, its flags kept, R67. -/
def Fmt.passChild (f : Fmt) (a : FRes) : FRes :=
  { bits := (f.passOn a.bits).bits, flags := a.flags ||| (f.passOn a.bits).flags }

/-- One node of the tree of R67, over absent or present children; the flags gathered so far are kept. -/
def Fmt.redNode (f : Fmt) (op : Nat → Nat → FRes) (x y : Option FRes) : Option FRes :=
  match x, y with
  | none, z => z.map f.passChild
  | z, none => z.map f.passChild
  | some a, some b =>
    let r := op a.bits b.bits
    some { bits := r.bits, flags := a.flags ||| b.flags ||| r.flags }

/-- One level of the tree: neighbours combined in pairs. -/
def Fmt.redLevel (f : Fmt) (op : Nat → Nat → FRes) : List (Option FRes) → List (Option FRes)
  | a :: b :: r => f.redNode op a b :: f.redLevel op r
  | l => l

/-- The tree of R67 by levels. -/
def Fmt.redTree (f : Fmt) (op : Nat → Nat → FRes) : Nat → List (Option FRes) → Option FRes
  | 0, l => l.headD none
  | k + 1, l => f.redTree op k (f.redLevel op l)

/-- A leaf of the tree: absent where the element is disabled. -/
def leaf (present : Bool) (a : Nat) : Option FRes :=
  if present then some { bits := a, flags := 0 } else none

/-- FRED's value over its leaves, R67, R109: the tree has as many levels as halve the element count to one. -/
def Fmt.reduce (f : Fmt) (op : Nat → Nat → FRes) (leaves : List (Option FRes)) : FRes :=
  match f.redTree op (Nat.log2 leaves.length) leaves with
  | none => { bits := 0, flags := 0 }
  | some r => r

/-- FSCAN's prefixes: the running prefix, and each enabled element's prefix, R68. -/
def Fmt.scanSum (f : Fmt) (rm : Rm) : Option Nat → List (Bool × Nat) → List (Option Nat) × Flags
  | _, [] => ([], 0)
  | acc, (false, _) :: r =>
    let (l, fl) := f.scanSum rm acc r
    (none :: l, fl)
  | acc, (true, x) :: r =>
    let here := match acc with
      | none => f.passOn x
      | some a => f.add rm a x
    let (l, fl) := f.scanSum rm (some here.bits) r
    (some here.bits :: l, here.flags ||| fl)

end Sys2Proof.Machine
end

