-- ==== Sys2Proof/Machine/Sparse.lean ====
section
/-!
DEFINITION. Sparse tables: lists of key and value pairs with strictly rising keys. `Sp.put` keeps the canonical form in
which no entry equals the value an unlisted key reads as, so that equal tables are equal lists.
-/

namespace Sys2Proof.Machine

/-- A table from natural numbers to values. -/
abbrev Sp (α : Type) := List (Nat × α)

/-- The value a table lists for a key. -/
def Sp.look {α : Type} : Sp α → Nat → Option α
  | [], _ => none
  | (j, x) :: r, k => if j = k then some x else Sp.look r k

/-- The value of a key, with the value an unlisted key reads as. -/
def Sp.at {α : Type} (m : Sp α) (k : Nat) (dflt : α) : α :=
  match m.look k with
  | some x => x
  | none => dflt

/-- The table with one key's value replaced, or inserted in order. -/
def Sp.set {α : Type} : Sp α → Nat → α → Sp α
  | [], k, v => [(k, v)]
  | (j, x) :: r, k, v =>
    if k < j then (k, v) :: (j, x) :: r
    else if k = j then (k, v) :: r
    else (j, x) :: Sp.set r k v

/-- The table without one key. -/
def Sp.drop {α : Type} (m : Sp α) (k : Nat) : Sp α := m.filter (fun e => e.1 != k)

/-- The table with one key's value replaced, in the canonical form for the default value: writing the default removes
the entry. -/
def Sp.put {α : Type} [DecidableEq α] (dflt : α) (m : Sp α) (k : Nat) (v : α) : Sp α :=
  if v = dflt then m.drop k else m.set k v

/-- Keys rise strictly. -/
def Sp.sorted {α : Type} : Sp α → Bool
  | [] => true
  | [_] => true
  | (j, _) :: (k, y) :: r => j < k && Sp.sorted ((k, y) :: r)

/-- The canonical form: keys rise strictly and no entry holds the default. -/
def Sp.wf {α : Type} [DecidableEq α] (dflt : α) (m : Sp α) : Bool :=
  m.sorted && m.all (fun e => e.2 != dflt)

/-- The least key at or above a number that a table does not list, found within a bound. -/
def Sp.freeKey {α : Type} (m : Sp α) : Nat → Nat → Nat
  | 0, k => k
  | f + 1, k => if (m.look k).isSome then Sp.freeKey m f (k + 1) else k

end Sys2Proof.Machine
end

