-- ==== Sys2Proof/Machine/State.lean ====
section
/-!
DEFINITION. The state of the module, as plain data. Tables are sparse: a key that a table does not list reads as the
entry's reset value, which is written as the default of each field. A core is named by its logical number, plate [13:12],
x [11:7], y [6:2], core [1:0] (R123, R183), and a task by its core, its slot and the serial number of its creation.
-/

namespace Sys2Proof.Machine

/-! ## One task, R8 -/

/-- A general register: 1,024 bits and a tag, R8, R9. -/
structure Reg where
  v : Vec := 0
  tag : Bool := false
  deriving DecidableEq, Repr

/-- The prefix holding register that belongs to SR (R38): the pending payload of each kind, and the address of the first
prefix of the run. -/
structure Pfx where
  t : Option (BitVec 21) := none
  c : Option (BitVec 21) := none
  i : Option (BitVec 21) := none
  s : Option (BitVec 21) := none
  first : Option Word := none
  deriving DecidableEq, Repr

/-- The registers that an instruction of a task reads and writes: v1 to v63 (v0 is not stored, R10), p0 to p6 (p7 is not
stored, R18), SR, the code capability and the pc (R74), and the prefix holding register. The pc is the code capability's
ADDR; it stands apart from the 128 bits that give the capability's bounds, so that a pc written outside their representable
span (by ERET, R322, or trap entry, R320) leaves the bounds as they were and faults at the fetch. -/
structure Arch where
  regs : Sp Reg := []
  preds : Sp Word := []
  sr : Word := 0
  code : CapBits := 0
  /-- the tag of the code capability; that of a handler entry or context without one is null and untagged -/
  codeTag : Bool := false
  pc : Word := 0
  pfx : Pfx := {}
  deriving DecidableEq, Repr

/-- What a slot is doing: no task; its bank being cleared for a task already created (R124); a task that issues; a task
stopped by a fault that aborts its launch (R324 step 1), whose slot stays occupied. -/
inductive Phase where
  | free | clearing | live | stopped
  deriving DecidableEq, Repr

/-- Why the last attempt to issue made no progress. -/
inductive Stall where
  /-- a source or destination has a result outstanding, R172, R212 -/
  | scoreboard
  /-- the same, where the result is that of a parked full/empty request, R223 -/
  | parked
  /-- a counter at its limit or above its threshold, R22, R79 -/
  | counter
  /-- a barrier, R135 -/
  | barrier
  /-- an empty bound port, R163, R285 -/
  | port
  /-- a guest result outstanding, R173, R174 -/
  | guest
  /-- earlier accesses of the task not yet performed, R153, R335, R337 -/
  | order
  /-- a full buffer, inbox or queue, R153, R264 -/
  | full
  /-- a deferred check of a matrix command, R314 -/
  | check
  /-- a page walk, R204 -/
  | walk
  deriving DecidableEq, Repr

/-- A waiting entry of a port FIFO, R162: its 128 bytes, its tag, and for a strip that failed the cause and address of
R286. -/
structure PortEntry where
  v : Vec := 0
  tag : Bool := false
  err : Option (Nat × Nat) := none
  /-- the launch identity of the message, R145 -/
  lid : Nat := 0
  deriving DecidableEq, Repr

/-- A stream of R284: base capability, pattern, the next strip to fetch and the strips popped. -/
structure Stream where
  id : Nat := 0
  base : CapBits
  esz : Nat
  strip : Nat
  str : List Word
  cnt : List Nat
  next : Nat := 0
  popped : Nat := 0
  halted : Bool := false
  deriving DecidableEq, Repr

/-- A port register's configuration and queue, R159, R283: mode 0 unbound, 1 port, 2 stream. -/
structure Port where
  mode : Nat := 0
  chan : Nat := 0
  fifo : List PortEntry := []
  stream : Option Stream := none
  deriving DecidableEq, Repr

/-- A fault note of R220: its address space, cause and region [lo, hi). -/
structure Note where
  part : Nat
  asid : Nat
  root : Nat
  cause : Nat
  lo : Nat
  hi : Nat
  deriving DecidableEq, Repr

/-- What the scoreboard holds pending, R172, R212, R100. -/
inductive Dest where
  | reg (n : Nat)
  | pred (n : Nat)
  deriving DecidableEq, Repr

/-- The one outstanding shipped instruction or faulting redeem of a task with its carry-ahead window, R171 to R175, R228:
the guest or request it waits for, the registers as they were before it issued, the flags raised in the window, the
number of instructions in the window, and the port entries it popped. -/
structure Ship where
  id : Nat
  redeem : Bool := false
  saved : Arch
  tpc : Word
  raised : Flags := 0
  count : Nat := 0
  popped : List (Nat × PortEntry) := []
  deriving DecidableEq, Repr

/-- A FENCE whose order later accesses still keep, by the serial number of its place in program order, R233, R248. -/
structure FenceMark where
  id : Nat
  acquire : Bool
  release : Bool
  full : Bool
  /-- how far it orders, R247: 0 task, 1 core, 2 node, 3 plate, 4 device, 5 pod -/
  scope : Nat := 4
  deriving DecidableEq, Repr

/-- A task slot, R8, R19, R122. -/
structure Slot where
  phase : Phase := .free
  /-- serial number of the task's creation -/
  uid : Nat := 0
  arch : Arch := {}
  /-- TPC, TCAUSE, TVAL, TWIN, R19, R318 -/
  tpc : Word := 0
  tcause : Word := 0
  tval : Word := 0
  twin : Word := 0
  /-- what trap entry shadowed, R320 -/
  shadowV2 : Reg := {}
  shadowCode : CapBits := 0
  shadowTag : Bool := false
  shadowPc : Word := 0
  /-- TCOORD, GANG, CTXID, HEAT, R19 -/
  tcoord : Word := 0
  gang : Word := 0
  ctxid : Word := 0
  heat : Word := 0
  /-- the counters of CNT, R22 -/
  ldc : Nat := 0
  stc : Nat := 0
  cpc : Nat := 0
  mxc : Nat := 0
  /-- q0 to q7, R159 -/
  ports : Sp Port := []
  /-- the four sets of 20 engine registers, by 32 x SET + REG, R268 -/
  eregs : Sp Word := []
  /-- fault notes, oldest first, at most 8, R220 -/
  notes : List Note := []
  /-- pending destinations and the operation each waits for -/
  board : List (Dest × Nat) := []
  ship : Option Ship := none
  /-- the MTX whose deferred checks the task waits for, R314 -/
  checking : Option Ship := none
  fences : List FenceMark := []
  /-- the barrier (0 the gang's, else its handle) and phase that the task waits on, R135 -/
  barred : Option (Nat × Nat) := none
  /-- the launch the task belongs to, by the module's launch serial; none for the tasks of a freely set entry -/
  launch : Option Nat := none
  /-- the gang it belongs to, by the module's gang serial, and its index in it, R134 -/
  gangId : Option Nat := none
  gti : Nat := 0
  /-- the launch identity its messages carry, R144 -/
  lid : Nat := 0
  /-- the partition of its context, R317 -/
  part : Nat := 0
  /-- the last issue attempt's outcome, for the watchdog of R328 -/
  wait : Option Stall := none
  /-- the time of the first attempt in a row that stalled, R365, in units of the model's clock -/
  stalledAt : Nat := 0
  /-- global time before which the bank's clearing lasts, R124, in units of the model's clock -/
  readyAt : Nat := 0
  /-- stopped at a boundary by a halt or a migration, R339, R363 -/
  halted : Bool := false
  /-- whether an uncorrectable error was found in data that returned after issue, R431: the address -/
  dataError : Option Nat := none
  /-- registers whose stored bits cannot be corrected, R431 -/
  badRegs : List Nat := []
  deriving DecidableEq, Repr

/-! ## One core -/

/-- A message or card as it waits at its target, R123, R152. -/
structure Msg where
  lid : Nat := 0
  src : Nat := 0
  len : Nat := 0
  body : Nat := 0
  tag0 : Bool := false
  tag128 : Bool := false
  ctx : Nat := 0
  world : Bool := false
  deriving DecidableEq, Repr

/-- A handler entry, R126, R127. A null capability is none. The waiting time of R130 counts from `since`, in units of the
model's clock. -/
structure Handler where
  gen : Nat := 0
  lid : Nat := 0
  held : Bool := false
  pb : Bool := false
  esup : Bool := false
  esec : Bool := false
  ctx : Nat := 0
  eheat : Nat := 0
  mode : Nat := 0
  mask : Bool := false
  prio : Nat := 0
  code : Option CapBits := none
  arg : Option CapBits := none
  mail : List Msg := []
  /-- points of effective priority gained by ageing, R130 -/
  aged : Nat := 0
  since : Nat := 0
  /-- the launch that claimed it, by the module's launch serial, R140 -/
  launch : Option Nat := none
  deriving DecidableEq, Repr

/-- A codebook slot of a big core, R309. -/
structure Codebook where
  ctx : Nat
  part : Nat
  cb : Nat
  deriving DecidableEq, Repr

/-- An entry of a big core's context table, R304, R332. -/
structure CtxEntry where
  ctx : Nat
  part : Nat
  accsave : Word
  deriving DecidableEq, Repr

/-- The slice pair of R329 and R379: slot map, the two contexts, the quantum, the group that issues and since when. -/
structure SlicePair where
  slen : Bool := false
  xctx : Nat := 0
  yctx : Nat := 0
  smap : Nat := 0
  q : Nat := 12
  inY : Bool := false
  since : Nat := 0
  deriving DecidableEq, Repr

/-- The handler setup of a big core's host context, R330, R379. -/
structure HostCtx where
  ctx : Nat := 0
  part : Nat := 0
  tvec : Word := 0
  tcode : Option CapBits := none
  tstk : Option CapBits := none
  tsz : Nat := 0
  s : Bool := false
  deriving DecidableEq, Repr

/-- What a big core has beyond a little core: accumulators as 32 rows of 32 lanes with poison marks (R305, R306), ACCOWN
(R303), the context table (R304), codebook slots (R309), the buffer owner table (R295), the check mode (R314), the slice
pair, the host context, the guest queue (R167), and the state of the accumulator trap (R330, R333). -/
structure Big where
  accs : Sp (BitVec 32768) := []
  poison : Sp Bool := []
  accown : Word := 0
  ctab : Sp CtxEntry := []
  books : Sp Codebook := []
  owners : Sp Nat := []
  deferred : Bool := false
  pair : SlicePair := {}
  host : HostCtx := {}
  guests : List Nat := []
  trapped : Bool := false
  stopped : Bool := false
  deriving DecidableEq, Repr

/-- A core, by its logical number. -/
structure Core where
  slots : Sp Slot := []
  handlers : Sp Handler := []
  /-- the channel selected last, R130 -/
  lastSel : Nat := 31
  /-- SENT and RCVD by launch identity, R144 -/
  sent : Sp Nat := []
  rcvd : Sp Nat := []
  /-- packets in the retransmit buffer, oldest first, at most 32, R155 -/
  retx : List Nat := []
  /-- the sticky flag accumulators by partition, R58 -/
  flagAcc : Sp Flags := []
  /-- TVEC and ACCSAVE copies that a SETS changed, by context, R316 -/
  tvec : Sp Word := []
  /-- GSHARE, R168 -/
  gshare : Nat := 1
  /-- SPILLMAP, R188 -/
  spill : Word := 0
  /-- LOG of the LPCT window, R362: the selected logical core in the register's own bits -/
  lpctLog : Nat := 0
  /-- the contention predictor, R234 -/
  predictor : Sp Nat := []
  /-- firewall of an easel core, R380 -/
  fwall : Word := 1
  /-- the high-water mark of its scratchpad, R340 -/
  mark : Nat := 0
  /-- the offset of the cycle counter that belongs to the logical core, R369 -/
  cycOffset : Nat := 0
  /-- the partition the core belongs to, R389 -/
  part : Option Nat := none
  big : Big := {}
  /-- the next sequence number of shipped instructions, R166 -/
  seq : Nat := 0
  /-- the gang under which the core is lit or dark, R356 to R358 -/
  lit : Option Nat := none
  dark : Option Nat := none
  /-- task creation and issue stopped for a migration, R363 -/
  moving : Bool := false
  deriving DecidableEq, Repr

/-! ## Memory operations in flight -/

/-- Which task an operation belongs to: core, slot, serial number. -/
structure TaskRef where
  core : Nat
  slot : Nat
  uid : Nat
  deriving DecidableEq, Repr

/-- Whose request a page walk serves, R204: a task, a guest, an engine's job, a port's stream, the dispatcher of a launch, the
command processor or the port agent for a context. -/
inductive Asker where
  | task (t : TaskRef)
  | guest (id : Nat)
  | job (id : Nat)
  | stream (core slot port : Nat)
  | launch (id : Nat)
  | cp (ctx : Nat)
  | port (ctx : Nat)
  deriving DecidableEq, Repr

/-- On whose behalf an access is made: the core whose TLBs serve it, the context with its partition and world, and SR.SUP; and
who asks where a walk is needed. -/
structure Access where
  core : Nat
  ctx : Nat
  part : Nat
  world : Bool
  sup : Bool
  who : Asker
  deriving DecidableEq, Repr

/-- A read-modify-write, R236, R237, R221: the new value as a function of the old one. -/
inductive Rmw where
  | atom (w op v : Nat)
  | xchg (w v : Nat)
  | cas (w e n : Nat)
  | cas128 (e n : Nat) (et nt keep : Bool)
  | incw (b : Nat)
  | faddb (w v b : Nat)
  | addInt (w v : Nat)
  | addFloat (code v : Nat)
  deriving DecidableEq, Repr

/-- What an element does at the storage. Masks are of bytes of the element; full/empty masks are of its words. -/
inductive Act where
  | read
  | write (mask : Nat) (d : Nat) (setTag : Bool)
  | rmw (r : Rmw)
  | feLoad (words : Nat)
  | feStore (words : Nat) (d : Nat)
  | ldf (words : Nat)
  | stf (words : Nat) (d : Nat)
  | setE (words : Nat)
  | setF (words : Nat)
  | qtag (words : Nat)
  deriving DecidableEq, Repr

/-- How far an element has come: not yet performed, performed and waiting for a fill (R256), parked (R223), or performed
with its result. -/
inductive Stage where
  | queued | held | parked | done
  deriving DecidableEq, Repr

/-- One element of a memory operation: the storage key of its first byte, its length, its address as the instruction
formed it, its lane, what it does, whether its result may keep a tag, whether an L1 may hold it, and once performed what
it read. -/
structure Elem where
  key : Nat
  n : Nat
  va : Nat
  lane : Nat := 0
  act : Act := .read
  keepsTag : Bool := false
  cached : Bool := false
  stage : Stage := .queued
  val : Nat := 0
  valTag : Bool := false
  bad : Bool := false
  /-- refusals of the request so far, and the time before which it is not sent again, R353, R355 -/
  nacks : Nat := 0
  till : Nat := 0
  deriving DecidableEq, Repr

/-- How the data of an operation is written to its destination, R215, R216, R218, R224, R226, R228, R236, R237. -/
inductive Ret where
  | none
  | scalar (d : Nat)
  | cap (d : Nat)
  | vec (d : Nat) (lanes : Nat)
  | lanes (d : Nat) (w : Nat)
  | oldPred (d p v b : Nat)
  | ticket (d : Nat)
  | redeem (d : Nat) (status : Option Nat)
  deriving DecidableEq, Repr

/-- Which request an operation makes. -/
inductive OpKind where
  | mem
  | ticketAlloc (size : Nat)
  | ticketRedeem (ticket : CapBits)
  | ticketRelease (ticket : CapBits)
  | stageRelease (addr : Nat)
  | tlbi (kind asid root lo hi : Nat) (plates : List Nat)
  /-- LCTL: 0 cancel, 1 query, 2 wait, R410, with the handle and the mode -/
  | lctl (kind handle mode : Nat)
  | wcall (code : Nat) (data : Vec)
  deriving DecidableEq, Repr

/-- An operation in flight, counted in LDC or STC until it completes, R212, R249. Its key in the table is its place in
its task's program order. -/
structure Op where
  task : TaskRef
  kind : OpKind := .mem
  elems : List Elem := []
  ret : Ret := .none
  ldc : Bool := false
  stc : Bool := false
  loads : Bool := false
  stores : Bool := false
  acquire : Bool := false
  release : Bool := false
  /-- the scopes at which it acquires and releases, R247 -/
  acqScope : Nat := 4
  relScope : Nat := 4
  ctx : Nat := 0
  part : Nat := 0
  world : Bool := false
  sup : Bool := false
  /-- the address of its instruction or of its first prefix, to which a withdrawn request returns, R339 -/
  tpc : Word := 0
  /-- the guest that performs it, for a shipped CAS128, R170 -/
  guest : Option Nat := none
  /-- what a ticket operation answers: the ticket, or the redeem's status and data -/
  answered : Bool := false
  /-- the fetch of an LDT has been performed -/
  fetched : Bool := false
  status : Nat := 0
  val : Nat := 0
  deriving DecidableEq, Repr

/-- Bytes that observers within a scope of a task may not read, or not write, until some of its earlier operations have been
performed: a later one has been performed before them, which an acquire, release or fence of that scope forbids those
observers to see, R247, R248. -/
structure Guard where
  task : TaskRef
  scope : Nat
  key : Nat
  n : Nat
  reads : Bool := false
  writes : Bool := false
  past : List Nat
  deriving DecidableEq, Repr

/-! ## Translation -/

/-- A TLB entry, R203: tags, page and the leaf entry. -/
structure TlbEntry where
  part : Nat
  asid : Nat
  root : Nat
  va : Nat
  lg : Nat
  pte : Nat
  deriving DecidableEq, Repr

/-- A walk in the plate's queue or running, R204: who joined it, for GATHP lanes with the slot whose notes it fills. -/
structure Walk where
  plate : Nat
  part : Nat
  asid : Nat
  root : Nat
  va : Nat
  world : Bool := false
  started : Bool := false
  /-- the plate's queue was full: the network sends the request again, R204; how often so far, and not before when, R355 -/
  refused : Bool := false
  nacks : Nat := 0
  till : Nat := 0
  /-- the core whose request it is -/
  core : Nat := 0
  /-- the tasks whose GATHP lanes joined, with their SR.SUP, and the guests set aside for it -/
  joined : List (TaskRef × Bool) := []
  guests : List Nat := []
  /-- the others whose requests joined, each with its core -/
  askers : List (Nat × Asker) := []
  deriving DecidableEq, Repr

/-- A fault of a walk on its way to one who asked, R204: the code of R319 for a page of 64 KiB. -/
structure WalkFault where
  who : Asker
  part : Nat
  asid : Nat
  root : Nat
  page : Nat
  code : Nat
  deriving DecidableEq, Repr

/-- A line of a core's instruction cache, R192, with the partition, address space and address under which it was fetched,
and the older values that its words have held since, by storage key. -/
structure ILine where
  core : Nat
  line : Nat
  part : Nat
  asid : Nat
  va : Nat
  old : List (Nat × IWord) := []
  deriving DecidableEq, Repr

/-- A line that a core's L1 data cache holds, R191, with the partition, address space and address under which it was accessed.
Its bytes are those of its home slice, since every store invalidates the other copies (R192). -/
structure DLine where
  core : Nat
  line : Nat
  part : Nat := 0
  asid : Nat := 0
  va : Nat := 0
  deriving DecidableEq, Repr

/-! ## Home slices -/

/-- A line held by a slice, R195 to R197. -/
structure Line where
  line : Nat
  part : Nat
  dirty : Bool := false
  /-- the core whose L1 owns it, with the index of its predictor, R192, R234; for a fill still under way, the one that will -/
  owner : Option (Nat × Nat) := none
  /-- the partition, address space and address under which its owner holds it -/
  ownPart : Nat := 0
  ownAsid : Nat := 0
  ownVa : Nat := 0
  used : Nat := 0
  /-- the core that accessed it last, R234 -/
  last : Option Nat := none
  /-- the cores recorded as holding a copy in L1, at most four, or the mask of the plates that hold copies, R192 -/
  sharers : List Nat := []
  plates : Nat := 0
  /-- the matrix commands whose tile fetch has pinned it, R195, R302 -/
  pins : List Nat := []
  /-- the 8-byte units of it that went bad here while HBM still held them good, R430 -/
  soft : List Nat := []
  deriving DecidableEq, Repr

/-- A miss-table entry, R195, R256: the line as it will be installed, with the partition that missed, the waiting requests in
arrival order, and whether a way of its set awaits it. -/
structure Miss where
  row : Line
  waiting : List (Nat × Nat) := []
  /-- the L1 data caches that take the line when it arrives -/
  copies : List DLine := []
  alloc : Bool := false
  deriving DecidableEq, Repr

/-- A partition's counters at a slice, R196. -/
structure SliceCtr where
  fills : Nat := 0
  wbs : Nat := 0
  evc : Nat := 0
  deriving DecidableEq, Repr

/-- The states of a ticket entry, R227. -/
inductive TkState where
  | free | fetching | ready | waiting | dying
  deriving DecidableEq, Repr

/-- Why an entry was left, R227, R229. -/
inductive TkReason where
  | redeemed | released | expired
  deriving DecidableEq, Repr

/-- A ticket-table entry, R227. -/
structure Ticket where
  st : TkState := .free
  seq : Nat := 0
  ctx : Nat := 0
  launch : Option Nat := none
  part : Nat := 0
  size : Nat := 0
  deadline : Nat := 0
  reason : TkReason := .expired
  addr : Nat := 0
  /-- the fetch has read its line, R251: its bytes, and whether they could not be corrected -/
  read : Bool := false
  data : Nat := 0
  bad : Bool := false
  redeemer : Option Nat := none
  va : Nat := 0
  op : Nat := 0
  deriving DecidableEq, Repr

/-- A slice, R191, R195, R196, R227. -/
structure Slice where
  lines : List Line := []
  misses : List Miss := []
  ctr : Sp SliceCtr := []
  tickets : Sp Ticket := []
  /-- allocation requests held while the table is full, at most 16, R226 -/
  heldAlloc : List Nat := []
  /-- how many accesses came to it, by which the least recently used line is known, R197 -/
  age : Nat := 0
  deriving DecidableEq, Repr

/-! ## Packets, guests, jobs and matrix commands -/

/-- A router of the device: its plate, its position and its layer, 0 compute and 1 base, R349. -/
structure Router where
  plate : Nat
  x : Nat
  y : Nat
  z : Nat
  deriving DecidableEq, Repr

/-- A message packet, R153 to R156: kind 0 posted, 1 acknowledged, 2 reply, 3 engine card; its
target is the whole local-window address. -/
structure Packet where
  kind : Nat
  target : Nat
  gc : Bool := false
  gen : Nat := 0
  msg : Msg
  task : Option TaskRef := none
  dest : Nat := 0
  acquire : Bool := false
  retries : Nat := 0
  /-- the status word of its answer once decided, R154 -/
  answer : Option Nat := none
  /-- a negative acknowledgement or back-off is pending, R354, R355 -/
  nacked : Bool := false
  backoff : Option Nat := none
  escape : Bool := false
  /-- whether the NACK says that its target has moved, R363 -/
  remap : Bool := false
  /-- its way over the mesh, R351: the router it last left and the one it stands at (none before it leaves its source), those
  still ahead, the physical core it makes for, and the time until which its link, or the NACK's way back, takes -/
  at_ : Option (Router × Router) := none
  path : List Router := []
  goal : Nat := 0
  ready : Nat := 0
  /-- REFUSED answers to a launch message so far, R143 -/
  refused : Nat := 0
  /-- the launch whose dispatcher sent it as the k-th message of a message launch, R143 -/
  launchMsg : Option Nat := none
  /-- an engine's status reply, whose copy the engine keeps, R266, R354 -/
  engine : Bool := false
  /-- the command queue whose AMSG sent it, R398, and whether its answer has come back -/
  queue : Option Nat := none
  arrived : Bool := false
  /-- the identity under which its sender counts it, where the message carries that of another device's part, R406 -/
  lidHere : Option Nat := none
  /-- the port on which a packet to another device has left, R400 -/
  via : Option Nat := none
  deriving DecidableEq, Repr

/-- A guest, R166: the shipped instruction with its operands, and its result once executed, R171. -/
structure Guest where
  word : IWord
  pfxT : Option (BitVec 21) := none
  pfxC : Option (BitVec 21) := none
  pfxS : Option (BitVec 21) := none
  prec : Nat := 0
  a : Reg := {}
  b : Reg := {}
  d : Reg := {}
  /-- registers A + 1 and B + 1 of an MTX, R315 -/
  a1 : Reg := {}
  b1 : Reg := {}
  guard : Word := 0
  rm : Nat := 0
  ctx : Nat := 0
  world : Bool := false
  sup : Bool := false
  part : Nat := 0
  task : TaskRef
  /-- its number among the instructions that its core has shipped, modulo 256, R166, and the launch of its task -/
  seq : Nat := 0
  launch : Option Nat := none
  home : Nat := 0
  /-- 0 travelling to the queue, 1 queued, 2 aside for a walk, 3 in the matrix command path, 4 executed, 5 a matrix guest
  whose result has been delivered -/
  place : Nat := 0
  /-- the 64 KiB pages for whose walks it has stood aside, R169 -/
  walked : List Nat := []
  res : Vec := 0
  resTag : Bool := false
  flags : Flags := 0
  fault : Option (Nat × Nat × Nat) := none
  deriving DecidableEq, Repr

/-- A matrix command in the inbox of a big core, R299. -/
structure MtxCmd where
  word : IWord
  fa : Nat := 1
  fb : Nat := 1
  prs : Nat := 0
  prec : Nat := 0
  core : Nat
  ctx : Nat := 0
  part : Nat := 0
  world : Bool := false
  sup : Bool := false
  a : Reg := {}
  b : Reg := {}
  a1 : Reg := {}
  b1 : Reg := {}
  task : Option TaskRef := none
  guest : Option Nat := none
  job : Option Nat := none
  /-- the task as which a guest's command or a follow-on is observed, with its place in that task's program order, R247, R253 -/
  sender : Option (TaskRef × Nat) := none
  /-- refused since its burin belongs to the other world, R413 -/
  refused : Bool := false
  /-- an ACCLD or ACCST of the service slot, with the context, partition and world in which it translates, R330 -/
  service : Bool := false
  via : Option (Nat × Nat × Bool) := none
  checked : Bool := false
  /-- in the inbox; before that it waits for a free entry, R298 -/
  admitted : Bool := false
  /-- lines of its L2 operands fetched so far, R302 -/
  fetched : Nat := 0
  running : Bool := false
  /-- whether operand data could not be corrected, and the address of the first, R270, R306 -/
  bad : Bool := false
  badAt : Nat := 0
  flags : Flags := 0
  launch : Option Nat := none
  /-- the pages of its L2 operands, pinned from its checks on: the key of each 64 KiB of virtual address, R206, R298 -/
  pins : Sp Nat := []
  /-- the row that ACCMV moved, and the register it goes to, R308 -/
  row : Vec := 0
  rowTo : Option Nat := none
  deriving DecidableEq, Repr

/-- A job card with what the issuer carries, R265, R266, R280. -/
structure Card where
  src : Reg := {}
  dst : Reg := {}
  kind : Nat := 0
  esz : Nat := 0
  rank : Nat := 1
  dir : Bool := false
  scope : Nat := 4
  reply : Nat := 0
  pad : Word := 0
  base : Word := 0
  dims : List Word := []
  strs : List Word := []
  orgs : List Word := []
  aux : List Word := []
  /-- the number of elements of a COPY step's card, which has one dimension of that length, R395; else zero -/
  plain : Nat := 0
  /-- the matrix command that follows a copy, R280 -/
  follow : Option MtxCmd := none
  deriving DecidableEq, Repr

/-- A stage of a loop copy, R278. -/
inductive StageState where
  | free | filling | full
  deriving DecidableEq, Repr

/-- A 16-byte granule that a job has begun to write, R242: of this device's storage, by its number there, or of another
device's, by its address, with the bytes so far, and whether the destination's PERM.WRLD goes with it, R415. -/
structure Granule where
  far : Bool
  wrld : Bool := false
  at_ : Nat
  mask : Nat
  data : Nat
  deriving DecidableEq, Repr

/-- A job of an engine, R264, R270. -/
structure Job where
  /-- its serial number -/
  id : Nat := 0
  card : Card
  engine : Nat
  core : Nat
  task : Option TaskRef := none
  dest : Nat := 0
  bySend : Bool := false
  acquire : Bool := false
  valid : Bool := true
  /-- the command queue whose COPY step it is, R395 -/
  queue : Option Nat := none
  ctx : Nat := 0
  part : Nat := 0
  world : Bool := false
  sup : Bool := false
  lid : Nat := 0
  launch : Option Nat := none
  running : Bool := false
  cancelled : Bool := false
  /-- copy part done, waiting for its follow-on -/
  copied : Bool := false
  stages : List StageState := []
  /-- the iteration and the next element in it, and the table entries read so far, R277, R281 -/
  iter : Nat := 0
  pos : Nat := 0
  blocks : Sp Nat := []
  /-- the page that it reads (0) and the page that it writes (1), pinned, R206 -/
  pins : Sp TlbEntry := []
  /-- the granules read in this tile with their bytes, and those being written: each is read and written in one access, R242 -/
  rbuf : Sp Nat := []
  wbuf : List Granule := []
  read : Nat := 0
  written : Nat := 0
  padded : Nat := 0
  err : Nat := 0
  errAt : Nat := 0
  deriving DecidableEq, Repr

/-! ## Launches, gangs and slots of the plate pools -/

/-- The fields of a launch record that a launch keeps, R138. -/
structure LaunchRec where
  ndev : Nat := 0
  dev0 : Nat := 0
  dbase : Nat := 0
  dlen : Nat := 0
  dh : Nat := 0
  dw : Nat := 0
  dy0 : Nat := 0
  dx0 : Nat := 0
  dmode : Nat := 0
  glog : Nat := 0
  pmask : Nat := 0
  s : Bool := false
  sup : Bool := false
  tgt : Bool := false
  kind : Bool := false
  heat : Nat := 0
  prio : Nat := 0
  chan : Nat := 0
  gd : Nat := 0
  gh : Nat := 0
  gw : Nat := 0
  extz : Nat := 0
  exty : Nat := 0
  extx : Nat := 0
  keys : CapBits := 0
  keysTag : Bool := false
  done : CapBits := 0
  doneTag : Bool := false
  arg : CapBits := 0
  argTag : Bool := false
  code : CapBits := 0
  codeTag : Bool := false
  z : Bool := true
  deriving DecidableEq, Repr

/-- The root's state of a launch, R146, with the waiting in LAUNCH order that precedes it. -/
inductive Root where
  | queued | dealing | none | cand (s : Nat) | ended
  deriving DecidableEq, Repr

/-- The counts of a part of a pod grid, or of a part with those below it in the tree, R408: those of the completion record,
the first fault with its device, and FCOUNT by relative device. -/
structure PodCounts where
  dealt : Nat := 0
  tasks : Nat := 0
  finished : Nat := 0
  killed : Nat := 0
  fcount : Nat := 0
  fgt : Nat := 0
  fcause : Nat := 0
  fdev : Nat := 0
  each : List (Nat × Nat) := []
  deriving DecidableEq, Repr

/-- A launch of this device, R138 to R147, R324, R325, R411. -/
structure Launch where
  lid : Nat
  lr : LaunchRec
  ctx : Nat
  part : Nat
  world : Bool := false
  root : Root := .queued
  claimed : List (Nat × Nat) := []
  /-- blocks handed to plate dispatchers and blocks in all, R141 -/
  handed : Nat := 0
  total : Nat := 0
  /-- the ranges that each plate still holds: plate, next gang, end -/
  ranges : List (Nat × Nat × Nat) := []
  /-- the origin whose reservation for the plate's next gang was withdrawn last, R125 -/
  avoid : Sp (Nat × Nat) := []
  /-- message launches: the next message to send, R143 -/
  nextMsg : Nat := 0
  dealt : Nat := 0
  tasks : Nat := 0
  finished : Nat := 0
  killed : Nat := 0
  fcount : Nat := 0
  fgt : Nat := 0
  fcause : Nat := 0
  floc : Nat := 0
  status : Nat := 0
  /-- the root has sent ABORT or CANCEL(kill), or CANCEL(drain) -/
  aborting : Bool := false
  draining : Bool := false
  gtend : Nat := 0
  /-- the sweep under way: the core positions passed, the sums and the idle bits so far, and GT at its start, R146 -/
  swept : Nat := 0
  sumSent : Nat := 0
  sumRcvd : Nat := 0
  sumIdle : Bool := true
  sweepAt : Nat := 0
  /-- the task whose LAUNCH waits for the handle, and its destination, R402 -/
  asker : Option (TaskRef × Nat) := none
  /-- the launch sequence number, R404 -/
  seq : Nat := 0
  /-- a message launch held open by a command queue, R398 -/
  held : Bool := false
  /-- the pod grid it is part of, R405, R406: root device and the root's launch identity -/
  podRoot : Option (Nat × Nat) := none
  podMap : Bool := false
  podLids : List Nat := []
  /-- at the pod root: the local identities that devices have answered, by relative device, R406 -/
  podClaims : Sp Nat := []
  /-- sweep sums and idle bits, and counts, that relative devices below it have reported, R408 -/
  kids : Sp (Nat × Nat × Bool) := []
  kidCounts : Sp PodCounts := []
  /-- END has arrived for this part, R408 -/
  podEnded : Bool := false
  /-- the cores, and 16384 + plate for dispatchers, that ABORT or CANCEL has reached, R324, R412 -/
  reached : List Nat := []
  deriving DecidableEq, Repr

/-- A barrier, R135, R136: phase, expected count now and for later phases, and who has arrived. -/
structure Barrier where
  gang : Nat
  phase : Nat := 0
  e : Nat
  eNext : Nat
  arrived : List Nat := []
  ctx : Nat := 0
  part : Nat := 0
  launch : Nat := 0
  deriving DecidableEq, Repr

/-- A gang, R132, R133: its place, the slots of its tasks (core, slot, index; while it waits for its reservation the slot
is the ordinal on the core), and its barrier. -/
structure Gang where
  launch : Nat
  gnum : Nat
  plate : Nat
  members : List (Nat × Nat × Nat) := []
  /-- slots wanted on each core, and its nodes that stay dark, R132, R133, R357 -/
  wants : List (Nat × Nat) := []
  darkCores : List Nat := []
  /-- reservations that hold, as (core, slot) -/
  reserved : List (Nat × Nat) := []
  since : Nat := 0
  /-- the origin at which it was placed, R132 -/
  place : Nat × Nat := (0, 0)
  dealt : Bool := false
  /-- tasks still to be created from deal messages, and tasks still alive -/
  toCreate : List Nat := []
  alive : List Nat := []
  anyKilled : Bool := false
  bar : Barrier
  /-- the watchdog count, R328, as the global time at which it would have stood at zero had it never paused -/
  idleSince : Nat := 0
  deriving DecidableEq, Repr

/-- A queue or counter slot of a plate's pools, R137, R239, R240. -/
structure QueueSlot where
  depth : Nat
  head : Nat := 0
  tail : Nat := 0
  ctx : Nat := 0
  part : Nat := 0
  launch : Option Nat := none
  deriving DecidableEq, Repr

/-- A plate's pools, R137: barriers, queues and counters by index. -/
structure Pools where
  bars : Sp Barrier := []
  queues : Sp QueueSlot := []
  ctrs : Sp QueueSlot := []
  deriving DecidableEq, Repr

/-! ## Contexts and partitions -/

/-- A context record, R316. -/
structure Ctx where
  wdog : Nat := 0
  tsz : Nat := 0
  lease : Nat := 20
  s : Bool := false
  part : Nat := 0
  accsave : Word := 0
  tvec : Word := 0
  tstk : Option CapBits := none
  tcode : Option CapBits := none
  roots : List Word := []
  deriving DecidableEq, Repr

/-! ## Registers and tables of the module -/

/-- A column's power state, R367, R368. -/
inductive Power where
  | on | rampDown | off | rampUp
  deriving DecidableEq, Repr

/-- A column's power-state register, R368. -/
structure Column where
  st : Power := .on
  held : Bool := false
  dns : Nat := 0
  ups : Nat := 0
  /-- GT at which the ramp under way ends, and since when no core of it has been assigned -/
  till : Nat := 0
  idleFrom : Nat := 0
  deriving DecidableEq, Repr

/-- A register bank's state, R365. -/
inductive BankState where
  | awake | drowsy | gated
  deriving DecidableEq, Repr

/-- A register bank: its state, and whether it awaits refresh, R365. -/
structure Bank where
  st : BankState := .awake
  refresh : Bool := false
  /-- GT at the end of its last refresh -/
  last : Nat := 0
  deriving DecidableEq, Repr

/-- An entry of the LPCT other than at its reset value, R362, and the migration under way: STATE and the physical core. -/
structure Lpct where
  st : Nat := 0
  phys : Nat
  /-- the target reserved by the migration, and the time until which packets are forwarded to it, R363 -/
  target : Option Nat := none
  till : Nat := 0
  deriving DecidableEq, Repr

/-- How far a halt or swap of a partition has come, R339 to R342. -/
inductive Halt where
  | running | halting | halted | swappingOut | swapped | swappingIn
  deriving DecidableEq, Repr

/-- A partition's image while it is swapped out, R340: its cores by logical number, and the storage bytes, tags and full
bits of their local storage. -/
structure Image where
  cores : Sp Core := []
  /-- the typed-buffer units it holds: core and unit -/
  units : List (Nat × Nat) := []
  /-- the accumulators it holds, by 16 x core + index, with the poison mark -/
  accs : Sp (BitVec 32768 × Bool) := []
  mem : List Host.Cell := []
  tags : Sp Bool := []
  full : Sp Bool := []
  /-- the 8-byte units that hold uncorrectable data, R430, R431 -/
  bad : Sp Bool := []
  jobs : List (Nat × Job) := []
  deriving DecidableEq, Repr

/-- A partition, R338 to R342: its halt state, its image, and where the image is kept. -/
structure Part where
  halt : Halt := .running
  image : Option Image := none
  inHbm : Bool := false
  deriving DecidableEq, Repr

/-- The result of the last complete FLAGSUM sweep of a plate, R58. -/
structure FlagSweep where
  stamp : Nat := 0
  parts : Sp Flags := []
  deriving DecidableEq, Repr

/-- A location record of the health monitor, R433. -/
structure LocRecord where
  unit : Nat
  loc : Nat
  times : List Nat := []
  lasting : Bool := false
  deriving DecidableEq, Repr

/-- A packet that the device sends on a session and keeps until it is acknowledged, R385. -/
structure DevPacket where
  psn : Nat
  data : List Byte
  deriving DecidableEq, Repr

/-- The two PSN streams with one address, R385, R387. -/
structure Peer where
  addr : Nat
  expect : Nat := 0
  next : Nat := 0
  unacked : List DevPacket := []
  /-- GT of the last sending or acknowledgement, from which the 200 microseconds of R385 count -/
  since : Nat := 0
  owesAck : Bool := false
  deriving DecidableEq, Repr

/-- A window of a session, R386: a virtual range with its permissions. -/
structure Window where
  va : Nat
  len : Nat
  rd : Bool
  wr : Bool
  deriving DecidableEq, Repr

/-- A session, R386, R387. -/
structure Session where
  ctx : Nat
  peer : Peer
  windows : Sp Window := []
  deriving DecidableEq, Repr

/-- A packet of a command queue while it runs, R395 to R399: its words, the ring index of its header, the step that runs,
whether that step has begun and at which GT, the job or message it waits for, the last launch handle and the launches it started, and
once it has ended the failing entry, its status and word. -/
structure RunPacket where
  words : List Nat
  first : Nat
  step : Nat := 1
  begun : Bool := false
  since : Nat := 0
  waits : Option Nat := none
  /-- the ERR code with which its copy job ended -/
  result : Option Nat := none
  handle : Nat := 0
  launches : List Nat := []
  ended : Option (Nat × Nat × Nat) := none
  deriving DecidableEq, Repr

/-- A command queue, R394 to R399: STATE 0 disabled, 1 running, 2 halted. -/
structure CmdQueue where
  ctx : Nat
  session : Nat := 0
  desc : Nat
  qbase : Nat
  cbase : Nat
  qlog : Nat
  state : Nat := 1
  head : Nat := 0
  tail : Nat := 0
  amh : Nat := 0
  amcnt : Nat := 0
  err : Nat := 0
  /-- whether a message launch is open; its handle may be zero (assumption 103) -/
  amOpen : Bool := false
  /-- the ring index after a rejected packet, taken when the host resumes the queue -/
  resume : Nat := 0
  run : Option RunPacket := none
  /-- a MGMT QEND that waits for the running packet: who asked, and the request number, R389 -/
  ending : Option (Nat × Nat) := none
  deriving DecidableEq, Repr

/-- An entry of the pod context table, R393. -/
structure PodEntry where
  ctx : Nat
  dev0 : Nat
  ndev : Nat
  deriving DecidableEq, Repr

/-- A message between devices of the pod, or within this one, on the pod's own business: R393, R406, R408, R409. -/
inductive PodBody where
  /-- `am` is 0, or 1 for a launch that OPENAM holds open, or 2 for one that CLOSEAM has closed meanwhile, R398 -/
  | dispatch (root seq rank : Nat) (lr : LaunchRec) (ctx part : Nat) (world : Bool) (am : Nat)
  | close (root seq : Nat)
  | claimed (seq rank lid : Nat)
  | lidMap (root seq : Nat) (lids : List Nat)
  | sweep (root seq rank sent rcvd : Nat) (idle : Bool)
  | finish (root seq : Nat) (status : Nat)
  | fault (root seq rank gt cause : Nat)
  | stop (root seq : Nat) (kill : Bool)
  | counts (root seq rank : Nat) (c : PodCounts)
  | reg (ctx part : Nat) (world : Bool) (dev0 ndev : Nat)
  | regAnswer (ctx dev : Nat) (cause : Nat)
  /-- every entry of a context goes, or one entry of a registration that failed -/
  | unreg (ctx : Nat) (only : Option (Nat × Nat))
  /-- a cancel of the launch that a handle names there, R410 -/
  | cancel (handle mode : Nat)
  /-- those of n bytes that a mask selects, which a copy engine of another device writes to local storage of this one, or of this one to another's, R275, with its job's world and its capability's PERM.WRLD, R415 -/
  | write (addr n mask data : Nat) (world wrld : Bool)
  deriving DecidableEq, Repr

/-- A pod message with its sender and target device, and the port on which it leaves, R400. -/
structure PodMsg where
  src : Nat
  dst : Nat
  body : PodBody
  via : Option Nat := none
  deriving DecidableEq, Repr

/-- A registration under way on the device that answers MGMT PODREG, R393. -/
structure Registering where
  ctx : Nat
  peer : Nat
  reqid : Nat
  dev0 : Nat
  ndev : Nat
  answers : Sp Nat := []
  deriving DecidableEq, Repr

/-- The signed configuration table, R381, as the fields it holds; `valid` says whether its signature and the operator key
hash verify. -/
structure ConfigTable where
  ver : Nat := 1
  svn : Nat := 0
  serial : Nat := 0
  /-- ECOL: plate and column of each easel column -/
  columns : List (Nat × Nat) := [(0, 0)]
  /-- ROLEMAP: for each easel core the roles of its four slots, 0 free, 1 CP, 2 PD, 3 DD, 4 PLD, 5 CD, 6 PM, 7 SM, 8 HM;
  the default map of R439, with no role from there on -/
  roles : List (List Nat) := [[3, 2, 7, 6], [1, 1, 1, 1], [4, 4, 4, 4], [8, 8, 0, 0]] ++ List.replicate 16 [5, 0, 0, 0]
  podid : Nat := 0
  devnum : Nat := 0
  podsz : Nat := 1
  /-- LINKMAP: for each port the far device and its port -/
  links : Sp (Nat × Nat) := []
  mpri : Nat := 0
  /-- GHOME replacements, by plate, y and x, as entries of R165 -/
  ghome : Sp Nat := []
  mac : Nat := 0
  addr : Nat := 0
  prefixLen : Nat := 64
  udp : Nat := 45640
  mgmt : List Nat := []
  secureCores : Sp Bool := []
  secureEngines : Sp Bool := []
  securePort : Bool := false
  /-- the operator's public key, whose hash the image's manifest carries, and the signature under it -/
  operatorKey : List Byte := []
  signature : List Byte := []
  deriving DecidableEq, Repr

/-- Module flash, R381, R418, R421: the one image, the bytes written since the last FWCOMMIT, the table with the stored
minimum SVN, and the leaf counter; and the bytes received since recovery began, R392. -/
structure Flash where
  image : List Byte := []
  written : Nat := 0
  received : Nat := 0
  /-- whether power was lost while the image was being written -/
  torn : Bool := false
  table : ConfigTable := {}
  minSvn : Nat := 0
  leaf : Nat := 0
  /-- GT at which an image received in recovery verified, while the reset of R392 is due -/
  verified : Option Nat := none
  deriving DecidableEq, Repr

/-- An ATTEST request whose leaf is committed and whose signature is still to be made, R418 steps 2 and 3: its frame, its session,
the fields of R419 and the leaf. -/
structure Signing where
  frame : Frame
  session : Nat
  body : List Byte
  leaf : Nat
  deriving DecidableEq, Repr

/-- Where the module stands between power-on and service, R423, R436, R437. -/
inductive Boot where
  | off | recovery | service | tripped
  deriving DecidableEq, Repr

/-- Who takes the next step when no other choice is made: a core's slot. -/
structure Who where
  core : Nat := 0
  slot : Nat := 0
  deriving DecidableEq, Repr

/-- One turn of the schedule: a task's issue attempt, or an event. The schedule says in which order agents act and what
the outside world supplies; it is plain data of the state, and any list of turns is a schedule (assumption 2). -/
inductive Turn where
  | issue (core slot : Nat)
  | event (i : Instr)
  /-- a message packet or a pod message of another device reaches this one -/
  | packet (p : Packet)
  | pod (m : PodMsg)
  deriving DecidableEq, Repr

/-! ## The module -/

/-- The state of the module. -/
structure State where
  /-- the model's own: the schedule of turns still to come, and the events that the machine itself has under way, oldest
  first (assumption 2) -/
  agenda : List Turn := []
  due : List Instr := []
  /-- the model's own: whether an event under way comes before the next task's turn -/
  beat : Bool := false
  /-- the model's own: the counter with which free values are drawn (assumption 3) and the next serial number -/
  draws : Nat := 0
  serial : Nat := 1
  /-- the model's own: which task issues next when the schedule leaves it open -/
  cur : Who := {}
  /-- time since the module's timers started, in units of 1/63 ns, R369 -/
  now : Nat := 0
  /-- the time at which the column counters started, R369, R436 step 7 -/
  cycStart : Nat := 0
  cores : Sp Core := []
  /-- storage: bytes, capability tags by 16-byte granule, full bits by 32-bit word, and uncorrectable errors by granule,
  by storage key (R182 to R185, R193) -/
  mem : List Host.Cell := []
  tags : Sp Bool := []
  full : Sp Bool := []
  bad : Sp Bool := []
  /-- parked full/empty requests in arrival order by storage, R223: the storage and the operation's element -/
  parked : List (Nat × Nat × Nat) := []
  ops : Sp Op := []
  /-- what observers within a narrow scope may not see yet, R247, R248 -/
  guards : List Guard := []
  tlbL1 : Sp (List TlbEntry) := []
  tlbNode : Sp (List TlbEntry) := []
  tlbPlate : Sp (List TlbEntry) := []
  walks : Sp Walk := []
  /-- faults of walks that those who asked have not taken yet, R204 -/
  walkFaults : List WalkFault := []
  iLines : List ILine := []
  /-- the lines of the L1 data caches, R191 -/
  dLines : List DLine := []
  slices : Sp Slice := []
  packets : Sp Packet := []
  guests : Sp Guest := []
  jobs : Sp Job := []
  cmds : Sp MtxCmd := []
  /-- big cores' matrix inboxes in order, R299 -/
  mtxq : Sp (List Nat) := []
  launches : Sp Launch := []
  /-- LAUNCH order of the launches that wait or run, R140 -/
  launchq : List Nat := []
  nextLid : Nat := 0
  gangs : Sp Gang := []
  pools : Sp Pools := []
  ctxs : Sp Ctx := []
  /-- GHOME by plate and node, R165 -/
  ghome : Sp Nat := []
  /-- way quotas by partition, R197 -/
  quota : Sp Nat := []
  /-- the boot phase, the straps as last sampled and whether THERM_N is asserted, R436 to R438 -/
  boot : Boot := .off
  slotid : BitVec 4 := 0
  recov : Bool := false
  /-- whether PWRGD is asserted, R436, R438 -/
  pwrgd : Bool := false
  /-- the identity record as step 8 of R436 published it, R390, R420 -/
  ident : List Byte := []
  therm : Bool := false
  flash : Flash := {}
  /-- the configuration table in force, R382, and the role that each easel slot runs, by 16 x core + slot (R439) -/
  table : ConfigTable := {}
  roles : Sp Nat := []
  heartbeats : Sp Nat := []
  /-- the restarts of roles that have been reported: GT and role code; and GT of the last hash of the firmware's code, R435 -/
  restarts : List (Nat × Nat) := []
  hashAt : Nat := 0
  /-- column power, R368; the vector cap of a column and the burin cap of a big core in sixteenths, R360; the cores whose
  issue is held at 4/16, R361 -/
  columns : Sp Column := []
  vectorCap : Sp Nat := []
  burinCap : Sp Nat := []
  held : Sp Bool := []
  /-- the temperature last sampled at each node, in degrees Celsius, R361 -/
  temps : Sp Nat := []
  /-- register banks by 16 x core + slot, R365 -/
  banks : Sp Bank := []
  lpct : Sp Lpct := []
  parts : Sp Part := []
  flagsum : Sp FlagSweep := []
  /-- BWORLD, R413: the plates whose cores and engines are secure, and the port agent -/
  secureCores : Sp Bool := []
  secureEngines : Sp Bool := []
  securePort : Bool := false
  /-- the region table, R414 -/
  regions : Sp (BitVec 128) := []
  /-- the error ring with the index of its newest record, the location records, and corrected events by unit, R433, R434 -/
  errors : List (BitVec 128) := []
  errorIndex : Nat := 0
  locations : List LocRecord := []
  corrected : Sp Nat := []
  /-- the big cores that the health monitor has reported as stopped by an accumulator handler, and when, R333 -/
  serviceStops : List (Nat × Nat) := []
  /-- retired L2 ways by 64 x slice + set, retired banks by 16 x core + slot, cores to withdraw, retired typed-buffer units
  by core and unit, R433 -/
  lostWays : Sp Nat := []
  lostBanks : Sp Bool := []
  lostCores : Sp Bool := []
  lostUnits : Sp Bool := []
  /-- the routing table and the failed ports of the Nymbiso links, R400 -/
  routes : Sp (List Nat) := []
  failedPorts : Sp Bool := []
  /-- failed replays in a row of the flit under way at each port, R430 -/
  replays : Sp Nat := []
  /-- Lodjaup: sessions, the streams of session 0, what has left the port, and what has left on the links -/
  sessions : Sp Session := []
  managers : List Peer := []
  sentFrames : List Frame := []
  queues : Sp CmdQueue := []
  /-- the queue that each command processor serves and since which GT, R397 -/
  cpAt : Sp (Nat × Nat) := []
  podTable : List PodEntry := []
  podIn : Sp PodMsg := []
  podOut : List PodMsg := []
  /-- stops of pod grids whose dispatch has not reached this device yet: root device and sequence number, R412 -/
  podStops : List (Nat × Nat) := []
  registering : List Registering := []
  /-- accepted PARTCORES requests that wait for columns to be on, R367 -/
  opening : List Frame := []
  /-- attestations whose signatures are still to be made, R418 -/
  signing : List Signing := []
  /-- MGMT requests accepted behind one of their source that is not done yet, R388 -/
  waiting : List Frame := []
  /-- WRITE and READ packets accepted whose next item's translation or lines the port agent awaits, with that item's index -/
  portWork : List (Frame × Nat) := []
  /-- the host context, R330, R387 -/
  hostCtx : Nat := 0
  /-- the launch sequence number, R404, and the final answers of the last 256 ended launches, R411: sequence number, context,
  answer -/
  launchSeq : Nat := 0
  finals : List (Nat × Nat × Nat) := []
  deriving DecidableEq, Repr

/-- The machine right after reset. -/
def State.reset : State := {}

/-- The ways a run of the model can stop with a fault. -/
inductive Fault where
  /-- raised by no instruction: there is no address the specification says does not exist that an access reaches without
  taking the access fault the specification describes; safe -/
  | noSuchStorage
  deriving DecidableEq, Repr

/-- The ways an instruction or event can be refused. -/
inductive Refusal where
  /-- raised by an arm of exec whose meaning is not written; safe -/
  | notModelled (mnemonic : String)
  deriving DecidableEq, Repr

end Sys2Proof.Machine
end

