-- ==== Sys2Proof/Machine/Topology.lean ====
section
/-!
DEFINITION. Where cores stand: logical core numbers (R123, R183), big-core blocks and their grid (R132, R165), core
coordinates (R132), column clocks (R2), home slices (R193, R194), and the storage keys by which the model names a byte of
storage.
-/

namespace Sys2Proof.Machine

/-- A core's number from its plate, node and core, R123. -/
def coreId (plate x y k : Nat) : Nat := plate * 4096 + x * 128 + y * 4 + k

def corePlate (c : Nat) : Nat := c / 4096 % 4
def coreX (c : Nat) : Nat := c / 128 % 32
def coreY (c : Nat) : Nat := c / 4 % 32
def coreK (c : Nat) : Nat := c % 4

/-- The index of a column in the big-core column pairs 10-11, 13-14, 16-17 and 19-20, R165. -/
def blockCol (x : Nat) : Option Nat :=
  if x = 10 ∨ x = 11 then some 0 else if x = 13 ∨ x = 14 then some 1
  else if x = 16 ∨ x = 17 then some 2 else if x = 19 ∨ x = 20 then some 3 else none

/-- The index of a row in the row pairs 2-3, 8-9, 14-15 and 20-21, R165. -/
def blockRow (y : Nat) : Option Nat :=
  if y = 2 ∨ y = 3 then some 0 else if y = 8 ∨ y = 9 then some 1
  else if y = 14 ∨ y = 15 then some 2 else if y = 20 ∨ y = 21 then some 3 else none

/-- Whether a node position lies inside a big-core block. -/
def inBlock (x y : Nat) : Bool := (blockCol x).isSome && (blockRow y).isSome

/-- The lowest column and row of a block, R183. -/
def blockX (bx : Nat) : Nat := 10 + 3 * bx
def blockY (bY : Nat) : Nat := 2 + 6 * bY

/-- The number of the big core of a block. -/
def bigId (plate bx bY : Nat) : Nat := coreId plate (blockX bx) (blockY bY) 0

/-- Whether a number names a big core: the lowest x and y of its block and core 0, R183. -/
def isBig (c : Nat) : Bool :=
  match blockCol (coreX c), blockRow (coreY c) with
  | some bx, some bY => coreX c = blockX bx && coreY c = blockY bY && coreK c = 0
  | _, _ => false

/-- Whether a number names a little core, R183. -/
def isLittle (c : Nat) : Bool := c < 16384 && coreY c < 24 && !inBlock (coreX c) (coreY c)

/-- The node of a core, by plate, x and y. -/
def nodeOf (c : Nat) : Nat := c / 4

/-- The number of task slots of a core, without a big core's service slot, R122. -/
def slotCount (c : Nat) : Nat := if isBig c then 8 else 4

/-- The service slot of a big core, R330. -/
def serviceSlot : Nat := 8

/-- The position of a core in core coordinates, R132. -/
def coreCx (c : Nat) : Nat := 2 * coreX c + coreK c % 2
def coreCy (c : Nat) : Nat := 2 * coreY c + coreK c / 2

/-- The core at a core coordinate of a plate, R132. -/
def coreAtC (plate cx cy : Nat) : Nat := coreId plate (cx / 2) (cy / 2) (cx % 2 + 2 * (cy % 2))

/-- The length of a column clock's cycle in units of 1/63 ns: fast 2.1 GHz, medium 1.8 GHz, efficient 1.5 GHz, R2. -/
def cycleLen (x : Nat) : Nat := if x < 10 then 42 else if x < 22 then 30 else 35

/-- The model's units in one cycle of the mesh clock, 2.1 GHz, R349. -/
def meshLen : Nat := 30

/-- Package coordinates of a position of a plate, R349. -/
def packageX (plate x : Nat) : Nat := 32 * (plate % 2) + x
def packageY (plate y : Nat) : Nat := 24 * (plate / 2) + y

/-- Units of the model's clock in one tick of GT, 1.000 GHz, R2, R369. -/
def gtUnits : Nat := 63

/-- The plate on which a physical address lives, R193. -/
def platePa (pa : Nat) : Nat :=
  (bits pa 12 11) ^^^ (bits pa 22 21) ^^^ (bits pa 32 31) ^^^ (bits pa 42 41)

/-- The index of a line's home slice on its plate, R194. -/
def sliceIndex (pa : Nat) : Nat :=
  let l := bits pa 47 7
  let s := (bits l 15 0) ^^^ (bits l 31 16) ^^^ (bits l 40 32)
  3 * (s * 0x9E37 % 65536) / 256

/-- A slice's number: plate, then router position index, R194. -/
def sliceId (pa : Nat) : Nat := platePa pa * 768 + sliceIndex pa

/-- The HBM's physical addresses end below this, R193. -/
def hbmEnd : Nat := 0xC000000000

/-! ## Storage keys

The bytes of HBM have their physical addresses as keys. A byte of a core's local storage has the key of its local-window
address without the device field: 0xE in [63:60], the core in [49:36], the space in [35:32], the offset in [31:0]. Two
spaces the address map does not have hold what has no address of its own: space 9 the register banks that SPILLMAP lends
(R188), and space 10 of a plate's core 0 the queue and counter slots (R238 to R240). -/

/-- The key of a byte of local storage. -/
def localKey (core space off : Nat) : Nat := 0xE * 2 ^ 60 + core * 2 ^ 36 + space * 2 ^ 32 + off

/-- Whether a key names local storage. -/
def keyIsLocal (k : Nat) : Bool := k ≥ 0xE * 2 ^ 60

def keyCore (k : Nat) : Nat := bits k 49 36
def keySpace (k : Nat) : Nat := bits k 35 32
def keyOff (k : Nat) : Nat := bits k 31 0

/-- The key of word i of queue slot q of a plate, R239. -/
def queueKey (plate q i : Nat) : Nat := localKey (coreId plate 0 0 0) 10 (q * 4096 + 8 * i)

/-- The key of counter slot c of a plate, R240. -/
def counterKey (plate c : Nat) : Nat := localKey (coreId plate 0 0 0) 10 (0x1000000 + 8 * c)

end Sys2Proof.Machine
end

