-- ==== Sys2Proof/Machine/Ops.lean ====
section
/-!
DEFINITION. The named operations over registers, predicates, slots and cores; the clock; the two ways out of an
instruction other than its effect, a trap and a stall; taking an exception (R320) with the return from one (R322) beside
it; and the first step of a grid abort (R324).
-/

namespace Sys2Proof.Machine

/-! ## Registers and predicates -/

/-- A register as an instruction reads it: v0 reads as zero, untagged, R10. -/
def Arch.reg (a : Arch) (n : Nat) : Reg := if n = 0 then {} else a.regs.at n {}

/-- A register written whole; a write to v0 is discarded, R10. -/
def Arch.setReg (a : Arch) (n : Nat) (r : Reg) : Arch := if n = 0 then a else { a with regs := a.regs.set n r }

/-- A register written with data, which clears its tag, R11. -/
def Arch.setVec (a : Arch) (n : Nat) (v : Vec) : Arch := a.setReg n { v := v, tag := false }

/-- A scalar result: element 0 of width 64, lanes 2 to 31 zero, tag clear, R9. -/
def Arch.setScalar (a : Arch) (n x : Nat) : Arch := a.setVec n (scalarVec x)

/-- The register that holds 128 bits in lanes 0 to 3 and zero above. -/
def capReg (c : CapBits) (tag : Bool) : Reg := { v := c.setWidth 1024, tag := tag }

/-- write_cap of R42. -/
def Arch.writeCap (a : Arch) (n : Nat) (c : CapBits) : Arch := a.setReg n (capReg c true)

/-- The capability in a register's lanes 0 to 3, R12. -/
def Reg.cap (r : Reg) : Cap := Cap.ofBits (r.v.extractLsb' 0 128)

/-- A predicate as an instruction reads it: p7 reads as all ones, R18. -/
def Arch.pred (a : Arch) (p : Nat) : Word := if p = 7 then BitVec.allOnes 64 else a.preds.at p 0

/-- A predicate written whole; a write to p7 is discarded, R18. -/
def Arch.setPred (a : Arch) (p : Nat) (x : Word) : Arch := if p = 7 then a else { a with preds := a.preds.set p x }

/-- A code capability's 128 bits with another ADDR. -/
def codeAt (c : CapBits) (x : Word) : CapBits := c.extractLsb' 64 64 ++ x

/-- The code capability with another ADDR, R74. -/
def Arch.setPc (a : Arch) (x : Word) : Arch := { a with pc := x }

/-- The whole code capability replaced by a tagged one; its ADDR is the pc, R74, R76. -/
def Arch.setCode (a : Arch) (c : CapBits) : Arch := { a with code := c, codeTag := true, pc := c.extractLsb' 0 64 }

/-- The code capability of a task at its creation, R26, R74; a null one is untagged. -/
def Arch.startCode (a : Arch) : Option CapBits → Arch
  | some c => a.setCode c
  | none => { a with code := 0, codeTag := false, pc := 0 }

/-! ## SR, R20 -/

/-- SR.RM. -/
def Arch.rm (a : Arch) : Rm := Rm.ofCode (a.sr.toNat % 8)

/-- SR.PP, SR.S, SR.SUP and SR.TRAPPED. -/
def Arch.pp (a : Arch) : Bool := a.sr.getLsbD 8
def Arch.world (a : Arch) : Bool := a.sr.getLsbD 9
def Arch.sup (a : Arch) : Bool := a.sr.getLsbD 10
def Arch.trapped (a : Arch) : Bool := a.sr.getLsbD 11

/-- One bit of a 64-bit register replaced. -/
def putBit (x : Word) (k : Nat) (b : Bool) : Word :=
  (x &&& ~~~ (BitVec.twoPow 64 k)) ||| (if b then BitVec.twoPow 64 k else 0)

/-- SR with PP replaced. -/
def Arch.setPp (a : Arch) (b : Bool) : Arch := { a with sr := putBit a.sr 8 b }

/-- SR with SUP and TRAPPED replaced. -/
def Arch.setMode (a : Arch) (sup trapped : Bool) : Arch := { a with sr := putBit (putBit a.sr 10 sup) 11 trapped }

/-- SR with flags raised, R56: flags are only ever set. -/
def Arch.raise (a : Arch) (f : Flags) : Arch := { a with sr := a.sr ||| (f.setWidth 64 <<< 3) }

/-- The pending payloads discarded and SR.PP cleared, R37, R38. -/
def Arch.dropPfx (a : Arch) : Arch := { a.setPp false with pfx := {} }

/-! ## Slots, cores and the clock -/

def State.core (s : State) (c : Nat) : Core := s.cores.at c {}
def State.setCore (s : State) (c : Nat) (k : Core) : State := { s with cores := s.cores.set c k }
def State.updCore (s : State) (c : Nat) (f : Core → Core) : State := s.setCore c (f (s.core c))
def Core.slot (k : Core) (n : Nat) : Slot := k.slots.at n {}
def Core.setSlot (k : Core) (n : Nat) (x : Slot) : Core := { k with slots := k.slots.set n x }
def State.slot (s : State) (c n : Nat) : Slot := (s.core c).slot n
def State.setSlot (s : State) (c n : Nat) (x : Slot) : State := s.updCore c (fun k => k.setSlot n x)
def State.updSlot (s : State) (c n : Nat) (f : Slot → Slot) : State := s.setSlot c n (f (s.slot c n))

/-- The slot of the task that issues. -/
def State.me (s : State) : Slot := s.slot s.cur.core s.cur.slot
def State.updMe (s : State) (f : Slot → Slot) : State := s.updSlot s.cur.core s.cur.slot f
def State.updArch (s : State) (f : Arch → Arch) : State := s.updMe (fun x => { x with arch := f x.arch })

/-- GT, R369. -/
def State.gt (s : State) : Nat := s.now / gtUnits

/-- The physical core that runs a logical one, R362. -/
def State.phys (s : State) (c : Nat) : Nat :=
  match s.lpct.look c with
  | some e => e.phys
  | none => c

/-- The cycle counter of a core's column with the logical core's offset, R83, R369. -/
def State.cyc (s : State) (c : Nat) : Nat := ((s.now - s.cycStart) / cycleLen (coreX (s.phys c)) + (s.core c).cycOffset) % 2 ^ 64

/-- A free value (assumption 3). -/
def State.draw (s : State) : Nat × State := (Config.freeNat s.draws, { s with draws := s.draws + 1 })

/-- The local-window address of a byte of local storage of this device, R183. -/
def State.localVa (s : State) (c space off : Nat) : Nat := localKey c space off + s.table.devnum * 2 ^ 50

/-- A serial number. -/
def State.fresh (s : State) : Nat × State := (s.serial, { s with serial := s.serial + 1 })

/-- An event that the machine will take on its own. -/
def State.push (s : State) (i : Instr) : State := { s with due := s.due ++ [i] }

/-- An event that the machine will take on its own, where it is not under way already. -/
def State.pushOnce (s : State) (i : Instr) : State := if s.due.contains i then s else s.push i

/-- An event that has been performed is no longer under way. -/
def State.did (s : State) (i : Instr) : State := { s with due := s.due.erase i }

/-- The context record of a number; one that was never installed reads as its reset values, R316. -/
def State.ctx (s : State) (n : Nat) : Ctx := s.ctxs.at n {}

/-- Whether the partition of a context is halted or on its way there. -/
def State.haltedPart (s : State) (p : Nat) : Bool := (s.parts.at p {}).halt != .running
def State.haltedCtx (s : State) (ctx : Nat) : Bool := s.haltedPart (s.ctx ctx).part

/-- Whether a reference still names a living task. -/
def State.alive (s : State) (t : TaskRef) : Bool :=
  let x := s.slot t.core t.slot
  x.uid == t.uid && x.phase != .free

/-- A task's slot updated, when the task still lives. -/
def State.updTask (s : State) (t : TaskRef) (f : Slot → Slot) : State :=
  if s.alive t then s.updSlot t.core t.slot f else s

/-- The reference of the task that issues. -/
def State.myRef (s : State) : TaskRef := { core := s.cur.core, slot := s.cur.slot, uid := s.me.uid }

/-- Flags raised by a task's instruction or guest: its SR and its core's accumulator for its partition (R56, R58); inside
a carry-ahead window they wait in the window for the accumulator, R57. -/
def State.raiseFor (s : State) (c n : Nat) (f : Flags) : State :=
  if f = 0 then s
  else
    let x := s.slot c n
    match x.ship with
    | some sh =>
      s.setSlot c n { x with arch := x.arch.raise f, ship := some { sh with raised := sh.raised ||| f } }
    | none =>
      s.updCore c (fun k =>
        { k.setSlot n { x with arch := x.arch.raise f } with
          flagAcc := k.flagAcc.set x.part (k.flagAcc.at x.part 0 ||| f) })

/-- What reaches a slot's registers from an instruction before a carry-ahead window or a deferred check that is open: the
registers as they are and as they are kept for its failing change alike, R57, R175, R314. -/
def Slot.land (x : Slot) (f : Arch → Arch) : Slot :=
  let keep := fun (w : Ship) => ({ w with saved := f w.saved } : Ship)
  { x with arch := f x.arch, ship := x.ship.map keep, checking := x.checking.map keep }

/-- Flags ORed into the accumulator of a partition on a core, R58. -/
def State.sumFlags (s : State) (c p : Nat) (f : Flags) : State :=
  s.updCore c (fun k => { k with flagAcc := k.flagAcc.set p (k.flagAcc.at p 0 ||| f) })

/-- Flags raised by an instruction of a task that a carry-ahead window behind it does not undo, R57, R58, R315. -/
def State.raiseLate (s : State) (c n : Nat) (f : Flags) : State :=
  if f = 0 then s
  else (s.updSlot c n (fun x => x.land (fun a => a.raise f))).sumFlags c (s.slot c n).part f

/-- Flags raised by the task that issues. -/
def State.raise (s : State) (f : Flags) : State := s.raiseFor s.cur.core s.cur.slot f

/-! ## The ways out of an instruction -/

/-- How an instruction's body ends other than with its effect. -/
inductive Exit where
  /-- a fault of the code of R319, with TVAL and QUAL -/
  | trap (code tval qual : Nat)
  /-- no issue this time -/
  | wait (why : Stall)
  /-- no issue before a page walk has ended, R204 -/
  | walk (a : Access) (x : Nat)
  deriving DecidableEq, Repr

/-- The fault codes of R319 that instructions raise. -/
def causeIllegal : Nat := 1
def causePrivilege : Nat := 2
def causeTag : Nat := 3
def causeSeal : Nat := 4
def causePerm : Nat := 5
def causeBounds : Nat := 6
def causeAlign : Nat := 7
def causeAccess : Nat := 8
def causeRange : Nat := 9
def causeTranslation : Nat := 10
def causePageTable : Nat := 11
def causePagePerm : Nat := 12
def causeParam : Nat := 13
def causeSendFull : Nat := 14
def causeTicket : Nat := 15
def causeTrap : Nat := 16
def causeBreak : Nat := 17
def causeData : Nat := 18
def causeWatchdog : Nat := 19
def causeAcc : Nat := 20

/-- No cause of R319: what a check answers where it has to wait, for a page walk (R204) or for a home slice (R195). -/
def notYet : Nat := 0

/-- How an instruction ends whose access to an address is refused with a code. -/
def exitOf (a : Access) (code x : Nat) : Exit := if code = notYet then .walk a x else .trap code x 0

/-- A fault with no qualifier. -/
def faultAt {α : Type} (code tval : Nat) : Except Exit α := .error (.trap code tval 0)

/-- A check: the fault when the condition fails. -/
def check (c : Bool) (code tval : Nat) : Except Exit Unit := if c then .ok () else faultAt code tval

/-- A stall when the condition holds. -/
def stallIf (c : Bool) (why : Stall) : Except Exit Unit := if c then .error (.wait why) else .ok ()

/-! ## Taking an exception, R320, and returning from one, R322 -/

/-- TCAUSE's bits [31:0], R318. -/
def tcauseWord (code qual : Nat) (remote psup nest : Bool) : Nat :=
  code % 256 + 256 * (qual % 256) + 65536 * b2n remote + 131072 * b2n psup + 262144 * b2n nest

/-- TVEC as a core holds it for a context, R316. -/
def State.tvec (s : State) (c ctx : Nat) : Word := (s.core c).tvec.at ctx (s.ctx ctx).tvec

/-- Where a fault happened, in the order in which R325 breaks ties: plate, y, x, core, slot. -/
def faultPlace (c n : Nat) : Nat :=
  (((corePlate c * 32 + coreY c) * 32 + coreX c) * 4 + coreK c) * 16 + n

/-- Step 1 of a grid abort, R324: the task stops in its slot and a fault notice goes to the quiescence root. -/
def State.abortTask (s : State) (c n : Nat) (cause : Nat) : State :=
  let x := s.slot c n
  let s1 := s.setSlot c n { x with phase := .stopped, wait := none, arch := x.arch.dropPfx }
  match x.launch with
  | some l => s1.push (.faultNotice l s.gt cause (faultPlace c n))
  | none => s1

/-- What the trap path takes from a context: TVEC, TCODE, TSTK and TSZ, R320. -/
structure TrapSetup where
  tvec : Word
  tcode : Option CapBits
  tstk : Option CapBits
  tsz : Nat
  deriving DecidableEq, Repr

/-- The trap setup of a slot: the host context's for the service slot (R330), else its context's. -/
def State.trapSetup (s : State) (c n : Nat) : TrapSetup :=
  if n = serviceSlot then
    let h := (s.core c).big.host
    { tvec := h.tvec, tcode := h.tcode, tstk := h.tstk, tsz := h.tsz }
  else
    let k := (s.slot c n).ctxid.toNat
    let r := s.ctx k
    { tvec := s.tvec c k, tcode := r.tcode, tstk := r.tstk, tsz := r.tsz }

/-- v2 at trap entry: TSTK with ADDR := TSTK.base + (slot + 1) * 2^TSZ, untagged where that is not representable or the
record holds no TSTK, R320. -/
def trapStack (t : TrapSetup) (n : Nat) : Reg :=
  match t.tstk with
  | none => {}
  | some b =>
    let c := Cap.ofBits b
    let a := wrap (c.base + (((n + 1) * 2 ^ t.tsz : Nat) : Int)) 64
    capReg (c.withAddr a).toBits (c.representable a)

/-- The slot after trap entry, R320: what is saved, the stack, the handler's code capability and the mode. -/
def Slot.entered (x : Slot) (t : TrapSetup) (n code qual tval : Nat) (remote : Bool) (twin : Nat) (tpc : Word) : Slot :=
  let a := x.arch
  { x with
    tpc := tpc
    tcause := BitVec.ofNat 64 (tcauseWord code qual remote a.sup false)
    tval := BitVec.ofNat 64 tval
    twin := BitVec.ofNat 64 (if remote then twin else 0)
    shadowV2 := a.reg 2
    shadowCode := a.code
    shadowTag := a.codeTag
    shadowPc := tpc
    wait := none
    arch := (((a.dropPfx.startCode t.tcode).setPc t.tvec).setReg 2 (trapStack t n)).setMode true true }

/-- The trap path, R320: a handler of the context is entered, or the launch is aborted. -/
def State.enterTrap (s : State) (c n code tval qual : Nat) (remote : Bool) (twin : Nat) (tpc : Word) : State :=
  let x := s.slot c n
  let t := s.trapSetup c n
  if x.arch.trapped ∨ t.tvec = 0 ∨ code = causeWatchdog then
    s.abortTask c n (tcauseWord code qual remote x.arch.sup x.arch.trapped)
  else s.setSlot c n (x.entered t n code qual tval remote twin tpc)

/-- The slot after ERET, R322. -/
def Slot.returned (x : Slot) : Slot :=
  let a := (({ x.arch with code := x.shadowCode, codeTag := x.shadowTag } : Arch).setPc x.tpc).setReg 2 x.shadowV2
  { x with arch := a.setMode (x.tcause.getLsbD 17) false }

/-- The register bank of a slot awake after an access, R365. -/
def State.wakeBank (s : State) (c n : Nat) : State :=
  let b := s.banks.at (16 * c + n) {}
  if b.st = .awake then s else { s with banks := Sp.put {} s.banks (16 * c + n) { b with st := .awake } }

/-- An issue attempt that stalls: since when the attempts have stalled in a row counts for the task's bank, R365. -/
def Slot.stalls (x : Slot) (why : Stall) (now : Nat) : Slot :=
  { x with wait := some why, stalledAt := if x.wait.isSome then x.stalledAt else now }

/-! ## The order of turns -/

/-- Whether a slot holds a task that may issue. -/
def Slot.mayIssue (x : Slot) : Bool := x.phase == .live && !x.halted && x.checking.isNone && x.barred.isNone

/-- Whether a core lets a slot issue: its clock is not gated for a hatch (R357), it is not stopped for a migration (R363),
and under a slice pair the slot belongs to the group whose slice runs (R329). -/
def Core.lets (k : Core) (n : Nat) : Bool :=
  k.dark.isNone && !k.moving &&
    (!k.big.pair.slen || n == serviceSlot || bit k.big.pair.smap n == k.big.pair.inY)

/-- Whether the task of a slot may issue; a bank that awaits its refresh makes it wait, R366. -/
def State.mayIssue (s : State) (c n : Nat) : Bool :=
  (s.slot c n).mayIssue && (s.core c).lets n && !(s.banks.at (16 * c + n) {}).refresh

/-- The occupied slots that may issue, in the order of cores and slots. -/
def State.issuers (s : State) : List Who :=
  s.cores.flatMap (fun e =>
    (e.2.slots.filter (fun y => y.2.mayIssue && e.2.lets y.1)).map (fun y => { core := e.1, slot := y.1 }))

/-- The slot that issues after another in cyclic order. -/
def nextWho (w : Who) (l : List Who) : Who :=
  match l.find? (fun u => decide (u.core > w.core) || (u.core == w.core && decide (u.slot > w.slot))) with
  | some u => u
  | none => l.headD w

/-- The cursor moved to the next slot that may issue. -/
def State.rotate (s : State) : State := { s with cur := nextWho s.cur s.issuers }

end Sys2Proof.Machine
end

