-- ==== Sys2Proof/Machine/Homes.lean ====
section
/-!
DEFINITION. Home big cores, R165: the table GHOME with its default.
-/

namespace Sys2Proof.Machine

/-- The distance from a coordinate to the nearer of two neighbouring ones. -/
def gapTo (lo v : Nat) : Nat := if v < lo then lo - v else if v > lo + 1 then v - (lo + 1) else 0

/-- The distance from a node to the nearest router of block 4 BY + BX. -/
def blockDist (b x y : Nat) : Nat := gapTo (blockX (b % 4)) x + gapTo (blockY (b / 4)) y

/-- The nearest of some blocks to a node, ties to the lower BY, then to the lower BX. -/
def nearestOf (bs : List Nat) (x y : Nat) : Option Nat :=
  bs.foldl (fun best b => match best with
    | none => some b
    | some c => if blockDist b x y < blockDist c x y then some b else some c) none

/-- The nodes of a plate outside the big-core blocks and the easel columns, as (y, x), in order. -/
def appNodes (easel : Nat → Bool) : List (Nat × Nat) :=
  ((List.range 24).flatMap (fun y => (List.range 32).map (fun x => (y, x)))).filter
    (fun n => !inBlock n.2 n.1 && !easel n.2)

/-- Insertion of a node before the first one that must not precede it. -/
def insertNode (before : (Nat × Nat) → (Nat × Nat) → Bool) (n : Nat × Nat) : List (Nat × Nat) → List (Nat × Nat)
  | [] => [n]
  | m :: r => if before n m then n :: m :: r else m :: insertNode before n r

/-- The nodes that a block cannot take, farthest first, then by lower y, then by lower x. -/
def surplusOf (nodes : List (Nat × Nat)) (b : Nat) : List (Nat × Nat) :=
  let mine := nodes.filter (fun n => nearestOf (List.range 16) n.2 n.1 == some b)
  let order := fun (n m : Nat × Nat) =>
    let dn := blockDist b n.2 n.1
    let dm := blockDist b m.2 m.1
    decide (dn > dm) || (dn == dm && (decide (n.1 < m.1) || (n.1 == m.1 && decide (n.2 < m.2))))
  (mine.foldl (fun l n => insertNode order n l) []).take (mine.length - 48)

/-- The nodes moved away from their nearest block, with the block each is moved to: block by block in the order of BY and
BX, each surplus node to its next-nearest block with room (assumption 14). -/
def movedNodes (easel : Nat → Bool) : List ((Nat × Nat) × Nat) :=
  let nodes := appNodes easel
  let count := fun b => (nodes.filter (fun n => nearestOf (List.range 16) n.2 n.1 == some b)).length
  let counts := (List.range 16).map count
  ((List.range 16).foldl (fun (acc : List Nat × List ((Nat × Nat) × Nat)) b =>
    (surplusOf nodes b).foldl (fun acc n =>
      let room := (List.range 16).filter (fun k => k != b && decide ((acc.1[k]?.getD 0) < 48))
      match nearestOf room n.2 n.1 with
      | none => acc
      | some k => (acc.1.set k ((acc.1[k]?.getD 0) + 1), acc.2 ++ [(n, k)])) acc) (counts, [])).2

/-- The default home block of a node, R165. -/
def defaultHome (easel : Nat → Bool) (x y : Nat) : Nat :=
  match (movedNodes easel).find? (fun e => e.1 == (y, x)) with
  | some e => e.2
  | none => (nearestOf (List.range 16) x y).getD 0

/-- GHOME's entry of a node, R165: V in bit 7, BY, BX. -/
def State.ghomeEntry (s : State) (plate x y : Nat) : Nat :=
  match s.ghome.look (nodeOf (coreId plate x y 0)) with
  | some e => e
  | none =>
    let easel := fun c => s.table.columns.contains (plate, c)
    if easel x then 0 else 0x80 + defaultHome easel x y

/-- The home big core of a core, R165. -/
def State.homeOf (s : State) (c : Nat) : Nat :=
  let e := s.ghomeEntry (corePlate c) (coreX c) (coreY c)
  bigId (corePlate c) (e % 4) (e / 4 % 4)

end Sys2Proof.Machine
end

