-- ==== Sys2Proof/Machine/ControlSpace.lean ====
section
/-!
DEFINITION. The control space, R379: which registers there are (R165, R196, R197, R295, R314, R329, R330, R362, R368, R380,
R413, R414), what a load of one shows and what a store to one does. The specification gives no offset but FWALL's, so which
register a word of a position's offsets holds is a constant of Config without a body (assumption 11).
-/

namespace Sys2Proof.Machine

/-- A register of the control space. -/
inductive CtlReg where
  /-- GHOME's entry of a node of a plate, R165 -/
  | ghome (plate x y : Nat)
  /-- the 16 way quotas of a plate, R197 -/
  | quota (plate : Nat)
  /-- a column's power-state register, R368 -/
  | power (plate x : Nat)
  /-- a core's entry of the LPCT, R362 -/
  | lpct (core : Nat)
  /-- OCC, FILLS, WBS or EVC of a partition on a plate, R196 -/
  | telem (plate part k : Nat)
  /-- the world of a block, R413 -/
  | world (block : Block)
  /-- the owner of a unit of a big core's typed buffers, R295 -/
  | owner (core unit : Nat)
  /-- BCTL of a big core, R379 -/
  | bctl (core : Nat)
  /-- HOSTCTX of a big core, R330 -/
  | hostctx (core : Nat)
  /-- FWALL of an easel core, R380 -/
  | fwall (core : Nat)
  /-- the low or high half of an entry of the region table, R414 -/
  | region (n : Nat) (high : Bool)
  deriving DecidableEq, Repr

/-! ## What the registers hold -/

/-- Whether a core stands in an easel column, R349, R381. -/
def State.isEasel (s : State) (c : Nat) : Bool := s.table.columns.contains (corePlate c, coreX c)

/-- The host context's setup at a big core, from the context's record, R330. -/
def Ctx.host (k : Ctx) (n : Nat) : HostCtx :=
  { ctx := n, part := k.part, tvec := k.tvec, tcode := k.tcode, tstk := k.tstk, tsz := k.tsz, s := k.s }

/-- The way quota of a partition, R197. -/
def State.wayQuota (s : State) (p : Nat) : Nat := s.quota.at p 16

/-- OCC, FILLS, WBS and EVC of a partition, summed over a plate, R196. -/
def State.telemetry (s : State) (p plate : Nat) : List Nat :=
  let mine := s.slices.filter (fun e => e.1 / 768 == plate)
  let sum := fun (g : SliceCtr → Nat) => (mine.map (fun e => g (e.2.ctr.at p {}))).sum
  [(mine.map (fun e => (e.2.lines.filter (fun l => l.part == p)).length)).sum, sum (·.fills), sum (·.wbs), sum (·.evc)]

/-- Whether a block holds work of some partition, R413. -/
def State.blockBusy (s : State) : Block → Bool
  | .cores p => s.cores.any (fun e => corePlate e.1 == p.toNat && !s.isEasel e.1 && e.2.slots.any (fun x => x.2.phase != .free))
  | .engines p => s.jobs.any (fun j => corePlate j.2.core == p.toNat) || s.cmds.any (fun m => corePlate m.2.core == p.toNat)
  | .easel => true
  | .port => !s.sessions.isEmpty

/-- OWNTAB's entry of a unit with its valid bit at bit 4, R295. -/
def Big.ownerWord (b : Big) (unit : Nat) : Nat :=
  match b.owners.look unit with
  | some p => 16 + p % 16
  | none => 0

/-- BCTL, R379. -/
def Big.bctl (b : Big) : Nat :=
  let p := b.pair
  p.xctx % 2 ^ 16 * 2 ^ 48 + p.yctx % 2 ^ 16 * 2 ^ 32 + p.smap % 256 * 2 ^ 24 + p.q % 32 * 2 ^ 19 + b2n p.slen * 2 ^ 18 +
    b2n b.deferred * 2 ^ 17

/-- The power-state register of a column, R368. -/
def Column.word (c : Column) : Nat :=
  let st : Nat := (match c.st with
    | .on => 0
    | .rampDown => 1
    | .off => 2
    | .rampUp => 3)
  c.ups % 2 ^ 16 * 2 ^ 48 + c.dns % 2 ^ 16 * 2 ^ 32 + b2n c.held * 4 + st

/-- An entry of the LPCT as the window of R362 shows it, without LOG. -/
def State.lpctEntry (s : State) (c : Nat) : Nat :=
  let st : Nat := (match s.lpct.look c with
    | some e => e.st
    | none => 0)
  st * 2 ^ 62 + s.phys c * 4 * 2 ^ 16

/-- The world bit of a block, R413. -/
def State.blockWorld (s : State) : Block → Bool
  | .cores p => s.secureCores.at p.toNat false
  | .engines p => s.secureEngines.at p.toNat false
  | .easel => true
  | .port => s.securePort

/-- A register's value. -/
def State.control (s : State) : CtlReg → Nat
  | .ghome plate x y => s.ghomeEntry plate x y
  | .quota _ => packList 4 ((List.range 16).map (fun p => s.wayQuota p % 16))
  | .power plate x => (s.columns.at (32 * plate + x) {}).word
  | .lpct c => s.lpctEntry c
  | .telem plate part k => (s.telemetry part plate)[k]?.getD 0
  | .world b => b2n (s.blockWorld b)
  | .owner c unit => (s.core c).big.ownerWord unit
  | .bctl c => (s.core c).big.bctl
  | .hostctx c => (s.core c).big.host.ctx
  | .fwall c => (s.core c).fwall.toNat
  | .region n high => bits (s.regions.at n 0).toNat (if high then 127 else 63) (if high then 64 else 0)

/-! ## Their writes -/

/-- A write of FWALL, which its LOCK bit forbids until reset, R380. -/
def State.setFwall (s : State) (c : Nat) (v : Word) : State :=
  s.updCore c (fun k => if k.fwall.getLsbD 1 then k else { k with fwall := v &&& 0xFFFFFFFF0100000F })

/-- An entry of the LPCT, listed while it is not settled at its own place. -/
def State.settle (s : State) (c : Nat) : State :=
  match s.lpct.look c with
  | none => s
  | some e => { s with lpct := if e.phys = c then s.lpct.drop c else s.lpct.set c { st := 0, phys := e.phys } }

/-- The big core's registers replaced. -/
def State.updBig (s : State) (c : Nat) (f : Big → Big) : State := s.updCore c (fun k => { k with big := f k.big })

/-- HOSTCTX of a big core written, R330, R379: the core takes matrix commands again where a handler's END stopped it, and decides
the waiting one anew (R333, assumption 89). -/
def State.setHost (s : State) (c n : Nat) : State :=
  let host := (s.ctx n).host n
  let t := s.updBig c (fun b => { b with host := host, trapped := b.trapped && !b.stopped, stopped := false })
  if (s.core c).big.stopped then t.push (.matrixCommandStart c) else t

/-- The tasks that a core's slots hold or that a reservation of a gang will put there, as slot and context, R122, R329. -/
def State.slotHolders (s : State) (c : Nat) : List (Nat × Nat) :=
  let now := ((s.core c).slots.filter (fun e => e.1 != serviceSlot && e.2.phase != .free)).map (fun e => (e.1, e.2.ctxid.toNat))
  let soon := s.gangs.flatMap (fun g => match s.launches.look g.2.launch with
    | some l => (g.2.reserved.filter (fun r => r.1 == c)).map (fun r => (r.2, l.ctx))
    | none => [])
  now ++ soon

/-- The slice pair that a value of BCTL asks for. -/
def State.newPair (s : State) (c x : Nat) : SlicePair :=
  let p := (s.core c).big.pair
  { slen := bit x 18, xctx := bits x 63 48, yctx := bits x 47 32, smap := bits x 31 24, q := bits x 23 19,
    inY := if p.slen then p.inY else false, since := if p.slen then p.since else s.gt }

/-- Whether the slice pair's fields may be written, R329, R379: no slot whose group changes holds a task, no slot would hold a task
of another context than its group's, and Q lies in its range; a slot that a gang has reserved counts as holding its task
(assumption 88). -/
def State.pairAllowed (s : State) (c x : Nat) : Bool :=
  let p := (s.core c).big.pair
  let new := s.newPair c x
  let busy := s.slotHolders c
  let same := busy.all (fun e => bit new.smap e.1 == bit p.smap e.1)
  let fits := !new.slen || busy.all (fun e => e.2 == (if bit new.smap e.1 then new.yctx else new.xctx))
  isBig c && same && fits && decide (12 ≤ new.q) && decide (new.q ≤ 24)

/-- Whether CHK may be written: it changes only while the inbox is empty, R314. -/
def State.modeAllowed (s : State) (c x : Nat) : Bool :=
  isBig c && ((s.core c).big.deferred == bit x 17 || (s.mtxq.at c []).isEmpty)

/-- The slice pair's fields written, R329, R379: ignored where a condition is broken. -/
def State.setPair (s : State) (c x : Nat) : State :=
  if s.pairAllowed c x then s.updBig c (fun b => { b with pair := s.newPair c x }) else s

/-- CHK written, R314: ignored where its condition is broken. -/
def State.setCheckMode (s : State) (c x : Nat) : State :=
  if s.modeAllowed c x then s.updBig c (fun b => { b with deferred := bit x 17 }) else s

/-- A world bit written, R413: only while its block holds no work; the easel is always secure. -/
def State.setWorld (s : State) (block : Block) (secure : Bool) : State :=
  if s.blockBusy block then s
  else match block with
    | .cores p => { s with secureCores := Sp.put false s.secureCores p.toNat secure }
    | .engines p => { s with secureEngines := Sp.put false s.secureEngines p.toNat secure }
    | .easel => s
    | .port => { s with securePort := secure }

/-- An entry of the region table written, R414: a locked one stays, and Z fields stay zero. -/
def State.setRegion (s : State) (n : Nat) (v : BitVec 128) : State :=
  if (s.regions.at n 0).getLsbD 2 then s
  else { s with regions := Sp.put 0 s.regions n (v &&& 0x00000000FFFFFFFFFFFFFFFF00000007) }

/-- A way quota written, R197; 16 stands as 0 in its 4 bits (assumption 11). -/
def State.setQuota (s : State) (p x : Nat) : State :=
  if 1 ≤ x ∧ x ≤ 16 then { s with quota := Sp.put 16 s.quota p x } else s

/-- A register written; those that only show what the machine does keep their value. -/
def State.setControl (s : State) (r : CtlReg) (x : Nat) : State :=
  match r with
  | .ghome plate gx gy => { s with ghome := s.ghome.set (nodeOf (coreId plate gx gy 0)) (x % 256 / 128 * 128 + x % 16) }
  | .quota _ => (List.range 16).foldl (fun t p =>
      let q := bits x (4 * p + 3) (4 * p)
      t.setQuota p (if q = 0 then 16 else q)) s
  | .power .. => s
  | .lpct c => ({ s with lpct := s.lpct.set c { st := 0, phys := bits x 31 18 } } : State).settle c
  | .telem .. => s
  | .world b => s.setWorld b (bit x 0)
  | .owner c unit => s.updBig c (fun b => { b with owners := if bit x 4 then b.owners.set unit (x % 16) else b.owners.drop unit })
  | .bctl c => if s.pairAllowed c x ∧ s.modeAllowed c x then (s.setPair c x).setCheckMode c x else s
  | .hostctx c => s.setHost c (x % 2 ^ 16)
  | .fwall c => if s.isEasel c then s.setFwall c (BitVec.ofNat 64 x) else s
  | .region n high =>
    let v := (s.regions.at n 0).toNat
    s.setRegion n (BitVec.ofNat 128 (setBits v (if high then 127 else 63) (if high then 64 else 0) x))

/-! ## Where they stand -/

/-- The register of a plate's block that a number of Config names, R379. -/
def plateReg (plate kind i : Nat) : Option CtlReg :=
  let x := i / 32
  let y := i % 32
  match kind with
  | 1 => if x < 32 ∧ y < 24 ∧ !inBlock x y then some (.ghome plate x y) else none
  | 2 => some (.quota plate)
  | 3 => if i < 32 then some (.power plate i) else none
  | 4 => if isLittle (plate * 4096 + i) ∧ i < 4096 then some (.lpct (plate * 4096 + i)) else none
  | 5 => if i < 64 then some (.telem plate (i / 4) (i % 4)) else none
  | 6 => some (.world (.cores (BitVec.ofNat 2 plate)))
  | 7 => some (.world (.engines (BitVec.ofNat 2 plate)))
  | 8 => some (.world .easel)
  | 9 => some (.world .port)
  | _ => none

/-- The register of a big core's block that a number of Config names, R379. -/
def bigReg (c kind i : Nat) : Option CtlReg :=
  match kind with
  | 1 => if i < 112 then some (.owner c i) else none
  | 2 => some (.bctl c)
  | 3 => some (.hostctx c)
  | _ => none

/-- Whether an easel core runs the secure monitor, in whose control space the region table lies, R414, R439. -/
def State.isMonitor (s : State) (c : Nat) : Bool := (List.range 4).any (fun n => s.roles.at (16 * c + n) 0 == 7)

/-- The register at a word of a position's offsets, R379, R380: FWALL at offset 0 of an easel core; the plate's block at
router position (0, 0); a big core's at its own. -/
def State.controlReg (s : State) (c w : Nat) : Option CtlReg :=
  let v := Config.controlAt c w
  if s.isEasel c ∧ w = 0 then some (.fwall c)
  else if isBig c then bigReg c (v % 16) (v / 16)
  else if s.isMonitor c ∧ v % 16 = 10 then (if v / 16 < 128 then some (.region (v / 32) (v / 16 % 2 = 1)) else none)
  else if coreX c = 0 ∧ coreY c = 0 then plateReg (corePlate c) (v % 16) (v / 16)
  else none

/-- The 64 bits at a word of a position's offsets; a word that holds no register is never reached. -/
def State.controlWord (s : State) (c w : Nat) : Nat :=
  match s.controlReg c w with
  | some r => s.control r
  | none => 0

/-- A word of a position's offsets written. -/
def State.setControlWord (s : State) (c w x : Nat) : State :=
  match s.controlReg c w with
  | some r => s.setControl r x
  | none => s

end Sys2Proof.Machine
end

