-- ==== Sys2Proof/Machine/Storage.lean ====
section
/-!
DEFINITION. Storage by key: bytes, capability tags, full/empty bits, uncorrectable errors, the register view (R186), and
what a write to storage does beside writing bytes (R192, R340, R431).
-/

namespace Sys2Proof.Machine

/-! ## The register view, R186 -/

/-- Byte k of a number. -/
def byteOf (x k : Nat) : Byte := BitVec.ofNat 8 (x / 2 ^ (8 * k))

/-- The number of slots that a register view shows, R186. -/
def viewSlots (c : Nat) : Nat := slotCount c

/-- Whether an offset lies in the register view of a core, R186. -/
def viewOffset (c off : Nat) : Bool :=
  decide (off < 0x2000 * viewSlots c) || (decide (0x10000 ≤ off) && decide (off < 0x10000 + 0x40 * viewSlots c)) ||
    (decide (0x18000 ≤ off) && decide (off < 0x18000 + 0x80 * viewSlots c))

/-- The slot whose registers, predicates or shadows an offset of the register view shows, R186. -/
def viewSlot (off : Nat) : Nat :=
  if off < 0x10000 then off / 0x2000 else if off < 0x18000 then (off - 0x10000) / 0x40 else (off - 0x18000) / 0x80

/-- The registers as the register file holds them: without the results that wait in an open carry-ahead window, R172, R180.
-/
def Slot.committed (x : Slot) : Arch :=
  match x.ship with
  | some sh => sh.saved
  | none => x.arch

/-- The byte that the register view shows at an offset; a slot that holds no task reads as zero, and so does a gated bank
(R186, R366). -/
def State.viewByte (s : State) (c off : Nat) : Byte :=
  let x := s.slot c (viewSlot off)
  let a := x.committed
  if x.phase == .free || (s.banks.at (16 * c + viewSlot off) {}).st == .gated then 0
  else if off < 0x10000 then byteOf (a.reg (off % 0x2000 / 0x80)).v.toNat (off % 0x80)
  else if off < 0x18000 then byteOf (a.pred (off % 0x40 / 8)).toNat (off % 8)
  else if !x.arch.trapped then 0
  else if off % 0x80 < 16 then byteOf x.shadowV2.v.toNat (off % 0x80)
  else if off % 0x80 < 32 then byteOf (codeAt x.shadowCode x.shadowPc).toNat (off % 0x80 - 16)
  else 0

/-- A number with byte k replaced. -/
def putByteOf (v k : Nat) (b : Byte) : Nat := setBits v (8 * k + 7) (8 * k) b.toNat

/-- What trap entry shadowed, with byte k of the 32 replaced, R186; data has no tag (R11). -/
def Slot.putShadow (x : Slot) (k : Nat) (b : Byte) : Slot :=
  if !x.arch.trapped ∨ k ≥ 32 then x
  else if k < 16 then { x with shadowV2 := { v := BitVec.ofNat 1024 (putByteOf x.shadowV2.v.toNat k b), tag := false } }
  else
    let c := BitVec.ofNat 128 (putByteOf (codeAt x.shadowCode x.shadowPc).toNat (k - 16) b)
    { x with shadowCode := c, shadowPc := c.extractLsb' 0 64, shadowTag := false }

/-- A byte stored through the register view into a halted slot, R339: a slot without a task keeps none. -/
def State.setViewByte (s : State) (c off : Nat) (b : Byte) : State :=
  s.updSlot c (viewSlot off) (fun x =>
    if x.phase = .free then x
    else if off < 0x10000 then
      let r := off % 0x2000 / 0x80
      x.land (fun a => a.setVec r (BitVec.ofNat 1024 (putByteOf (a.reg r).v.toNat (off % 0x80) b)))
    else if off < 0x18000 then
      let p := off % 0x40 / 8
      x.land (fun a => a.setPred p (BitVec.ofNat 64 (putByteOf (a.pred p).toNat (off % 8) b)))
    else x.putShadow (off % 0x80) b)

/-- The register bank that a key names: by the register view, or where a SPILLMAP lends it. -/
def bankOfKey (k : Nat) : Option Nat :=
  if !keyIsLocal k then none
  else if keySpace k = 5 ∧ viewOffset (keyCore k) (keyOff k) then some (16 * keyCore k + viewSlot (keyOff k))
  else if keySpace k = 9 then some (16 * keyCore k + keyOff k / 0x2000) else none

/-- An access to a register bank from outside its task, R366: it waits for a refresh, which none says, and wakes a drowsy bank.
-/
def State.accessBank (s : State) (k : Nat) : Option State :=
  match bankOfKey k with
  | none => some s
  | some i =>
    let b := s.banks.at i {}
    if b.refresh then none else some (if b.st = .drowsy then { s with banks := Sp.put {} s.banks i { b with st := .awake } } else s)

/-! ## Bytes -/

/-- The canonical form of memory: addresses rise strictly, and no entry equals what an unlisted address reads as. -/
def Memory.wf (m : List Host.Cell) : Bool := Sp.wf (0 : Byte) m

/-- A key of the register view (R186) or of the control space (R379): what it reads as is no byte of storage. -/
def keyIsView (k : Nat) : Bool := keyIsLocal k && (keySpace k == 5 || keySpace k == 8)

/-- A byte of storage. An unlisted byte reads as zero: HBM by step 3 of R436, a scratchpad by R185. -/
def State.byte (s : State) (k : Nat) : Byte :=
  if keyIsLocal k && keySpace k == 5 then s.viewByte (keyCore k) (keyOff k)
  else if keyIsLocal k && keySpace k == 8 then byteOf (s.controlWord (keyCore k) (keyOff k / 8)) (keyOff k % 8)
  else Sp.at s.mem k 0

/-- n bytes from a key on, least significant first, R4. -/
def State.readMem (s : State) (k n : Nat) : Nat := leNat ((List.range n).map (fun i => s.byte (k + i)))

/-- One byte of storage replaced; memory keeps its canonical form. -/
def State.putByte (s : State) (k : Nat) (b : Byte) : State :=
  if keyIsLocal k && keySpace k == 5 then s.setViewByte (keyCore k) (keyOff k) b
  else { s with mem := Sp.put 0 s.mem k b }

/-- The bytes of a number that a mask selects, written from a key on. -/
def State.putBytes (s : State) (k n mask d : Nat) : State :=
  (List.range n).foldl (fun t i => if bit mask i then t.putByte (k + i) (byteOf d i) else t) s

/-! ## Tags, full bits and errors -/

/-- The tag of the 16-byte granule of a byte, R12, R202. -/
def State.tagAt (s : State) (k : Nat) : Bool := s.tags.at (k / 16) false

/-- A granule's tag replaced. -/
def State.setTag (s : State) (k : Nat) (b : Bool) : State := { s with tags := Sp.put false s.tags (k / 16) b }

/-- The full bit of the 32-bit word of a byte, R185. -/
def State.fullAt (s : State) (k : Nat) : Bool := s.full.at (k / 4) false

/-- A word's full bit replaced. -/
def State.setFull (s : State) (k : Nat) (b : Bool) : State := { s with full := Sp.put false s.full (k / 4) b }

/-- Whether a byte of the register view lies in a register whose stored bits cannot be corrected, R430. -/
def State.badView (s : State) (k : Nat) : Bool :=
  let x := s.slot (keyCore k) (viewSlot (keyOff k))
  keyIsLocal k && keySpace k == 5 && decide (keyOff k < 0x10000) && x.phase != .free && x.badRegs.contains (keyOff k % 0x2000 / 0x80)

/-- Whether any of n bytes holds uncorrectable data, R430: errors are kept by 8-byte unit, and those of registers by register. -/
def State.badAt (s : State) (k n : Nat) : Bool :=
  s.badView k || (List.range ((k + n + 7) / 8 - k / 8)).any (fun i => s.bad.at (k / 8 + i) false)

/-- Errors ended by a write: a whole 8-byte unit of local storage, all 32 bytes of HBM data, R430, R431. -/
def State.heal (s : State) (k n mask : Nat) : State :=
  let step := if keyIsLocal k then 8 else 32
  (List.range (n / step)).foldl (fun t i =>
    let o := i * step
    if (List.range step).all (fun j => bit mask (o + j)) ∧ (k + o) % step = 0 then
      { t with bad := (List.range (step / 8)).foldl (fun b j => Sp.put false b ((k + o) / 8 + j) false) t.bad }
    else t) s

/-! ## Writes -/

/-- An instruction-cache line about to be written beneath keeps the older values of the words, R192. -/
def ILine.keep (e : ILine) (words : List (Nat × IWord)) : ILine :=
  { e with old := e.old ++ words.filter (fun w => w.1 / 128 == e.line && !e.old.contains w) }

/-- Older values of the words about to be written are kept for the instruction caches that hold their lines, R192. -/
def State.keepStale (s : State) (k n : Nat) : State :=
  if keyIsLocal k ∨ s.iLines.isEmpty then s
  else
    let words := (List.range ((k + n + 3) / 4 - k / 4)).map (fun i => ((k / 4 + i) * 4, BitVec.ofNat 32 (s.readMem ((k / 4 + i) * 4) 4)))
    { s with iLines := s.iLines.map (fun e => e.keep words) }

/-- The high-water mark of a scratchpad, R340. -/
def State.raiseMark (s : State) (k n : Nat) : State :=
  if keyIsLocal k && keySpace k == 0 then
    s.updCore (keyCore k) (fun x => { x with mark := max x.mark (keyOff k + n) })
  else s

/-- A write of the bytes of a number that a mask selects to the control space: each register touched takes its new value
whole, R379. -/
def State.writeControl (s : State) (k n mask d : Nat) : State :=
  let c := keyCore k
  let o := keyOff k
  (List.range ((o + n + 7) / 8 - o / 8)).foldl (fun t i =>
    let w := o / 8 + i
    let hit := (List.range n).filter (fun j => bit mask j && (o + j) / 8 == w)
    if hit.isEmpty then t
    else t.setControlWord c w (hit.foldl (fun v j => putByteOf v ((o + j) % 8) (byteOf d j)) (t.controlWord c w))) s

/-- A write of the bytes of a number that a mask selects: the tags of the granules touched clear (R215, R216). -/
def State.writeMem (s : State) (k n mask d : Nat) : State :=
  if mask = 0 then s
  else if keyIsLocal k && keySpace k == 8 then s.writeControl k n mask d
  else
    let s1 := (((s.keepStale k n).raiseMark k n).heal k n mask).putBytes k n mask d
    (List.range ((k + n + 15) / 16 - k / 16)).foldl (fun t i =>
      let g := (k / 16 + i) * 16
      if (List.range n).any (fun j => bit mask j && (k + j) / 16 == k / 16 + i) then t.setTag g false else t) s1

/-- A whole write of n bytes. -/
def State.store (s : State) (k n d : Nat) : State := s.writeMem k n (2 ^ n - 1) d

/-- A write of 16 bytes with a tag, R215. -/
def State.storeCap (s : State) (k : Nat) (d : Nat) (tag : Bool) : State :=
  (s.store k 16 d).setTag k tag

end Sys2Proof.Machine
end

