-- ==== Sys2Proof/Machine/Lines.lean ====
section
/-!
DEFINITION. The lines that home slices hold (R191, R192, R195 to R197) with the contention predictor (R234): what an access to
a line does at its slice, whichever agent makes it; and the lines of the L1 data caches (R191, R192).
-/

namespace Sys2Proof.Machine

/-! ## Slices -/

def State.slice (s : State) (i : Nat) : Slice := s.slices.at i {}
def State.updSlice (s : State) (i : Nat) (f : Slice → Slice) : State := { s with slices := s.slices.set i (f (s.slice i)) }

/-- The line of a key of HBM. -/
def lineOf (k : Nat) : Nat := k / 128

/-- The set of a line. -/
def setOf (line : Nat) : Nat := Config.l2Set line % 64

/-- One partition's counters at a slice changed, R196. -/
def Slice.count (x : Slice) (p : Nat) (f : SliceCtr → SliceCtr) : Slice := { x with ctr := x.ctr.set p (f (x.ctr.at p {})) }

/-- A line's record at its slice changed. -/
def State.updLine (s : State) (i line : Nat) (f : Line → Line) : State :=
  s.updSlice i (fun x => { x with lines := x.lines.map (fun l => if l.line = line then f l else l) })

/-- A miss-table entry changed. -/
def State.updMiss (s : State) (i line : Nat) (f : Miss → Miss) : State :=
  s.updSlice i (fun x => { x with misses := x.misses.map (fun m => if m.row.line = line then f m else m) })

/-! ## Victims, R195, R197 -/

/-- The least recently used of some lines. -/
def oldest (l : List Line) : Option Line :=
  l.foldl (fun b x => match b with
    | none => some x
    | some y => if x.used < y.used then some x else some y) none

/-- The lines that take a way of a set: those held, and those whose fill a way awaits. -/
def Slice.setLines (x : Slice) (set : Nat) : List Line :=
  (x.lines ++ (x.misses.filter (·.alloc)).map (·.row)).filter (fun l => setOf l.line == set)

/-- Whether a held line may be a victim: no L1 owns it and no tile fetch unit has pinned it. -/
def Line.loose (l : Line) : Bool := l.owner.isNone && l.pins.isEmpty

/-- The line that makes room in a set for a partition's miss, R197: none and true where a way is free, none and false where
no line may go. -/
def State.victim (s : State) (i p line : Nat) : Option Line × Bool :=
  let here := (s.slice i).setLines (setOf line)
  let ways := 16 - s.lostWays.at (64 * i + setOf line) 0
  let free := (s.slice i).lines.filter (fun l => setOf l.line == setOf line && l.loose)
  let held := fun (q : Nat) => (here.filter (fun l => l.part == q)).length
  if here.length < ways then (none, true)
  else if held p ≥ s.wayQuota p then (oldest (free.filter (fun l => l.part == p)), false)
  else match oldest (free.filter (fun l => decide (held l.part > s.wayQuota l.part))) with
    | some l => (some l, false)
    | none => (oldest free, false)

/-- A line evicted for a partition's miss, with the charges of R196. -/
def Slice.evict (x : Slice) (p : Nat) (l : Line) : Slice :=
  let y := { x with lines := x.lines.erase l }
  let y := if l.dirty then y.count l.part (fun c => { c with wbs := (c.wbs + 1) % 2 ^ 48 }) else y
  if l.part = p then y else y.count p (fun c => { c with evc := (c.evc + 1) % 2 ^ 48 })

/-- Lines that leave a slice: what went bad in a clean one is good again, since HBM still holds it; a dirty one is written back with the
side-band poison code, R430. -/
def State.forgetSoft (s : State) (l : List Line) : State :=
  { s with bad := (l.filter (fun x => !x.dirty && x.owner.isNone)).foldl (fun b x => x.soft.foldl (fun b u => Sp.put false b u false) b) s.bad }

/-- A way taken for a miss, in place of its victim; none while no line of the set may go. With a line's record of sharers its
copies in L1 go, since no store could invalidate them any more (DESIGN CHOICE, assumption 112). -/
def State.takeWay (s : State) (i p line : Nat) : Option State :=
  match s.victim i p line with
  | (none, false) => none
  | (v, _) =>
    let t := ((s.forgetSoft v.toList).updSlice i (fun x => (v.map (x.evict p)).getD x)).updMiss i line (fun m => { m with alloc := true })
    some { t with dLines := t.dLines.filter (fun e => some e.line != v.map (·.line)) }

/-- A line whose fill has arrived takes the way that awaited it. -/
def Slice.install (x : Slice) (m : Miss) : Slice :=
  { x with lines := x.lines ++ [m.row], misses := x.misses.filter (fun y => y.row.line != m.row.line) }

/-! ## The contention predictor, R234 -/

/-- The contention predictor's index of an address. -/
def predIndex (va : Nat) : Nat := bits va 14 7 ^^^ bits va 22 15

/-- A predictor counter moved by one, saturating at 0 and 3. -/
def State.predict (s : State) (c i : Nat) (up : Bool) : State :=
  s.updCore c (fun k =>
    let v := k.predictor.at i 0
    { k with predictor := Sp.put 0 k.predictor i (if up then min 3 (v + 1) else v - 1) })

/-! ## L1 data caches, R191, R192 -/

/-- The sets and ways of a core's L1 data cache. -/
def l1Sets (c : Nat) : Nat := if isBig c then 64 else 32
def l1Ways (c : Nat) : Nat := if isBig c then 16 else 8

/-- Whether a core's L1 data cache holds a line. -/
def State.inL1 (s : State) (c line : Nat) : Bool := s.dLines.any (fun e => e.core == c && e.line == line)

/-- A line that a core holds with ownership written back to its slice, R192. -/
def State.writeBack (s : State) (c line : Nat) : State :=
  s.updLine (sliceId (128 * line)) line (fun l =>
    if l.owner.map (·.1) = some c then { l with owner := none, dirty := true } else l)

/-- A line enters a core's L1 data cache: in a full set a free choice names the line that it displaces, which is written back
where the core owns it. -/
def State.intoL1 (s : State) (e : DLine) : State :=
  if s.inL1 e.core e.line then s
  else
    let set := fun (l : Nat) => Config.l1DataSet l % l1Sets e.core
    let same := s.dLines.filter (fun o => o.core == e.core && set o.line == set e.line)
    if same.length < l1Ways e.core then { s with dLines := s.dLines ++ [e] }
    else
      let (v, s) := s.draw
      match same[v % same.length]? with
      | some o => ({ s with dLines := s.dLines.erase o ++ [e] } : State).writeBack o.core o.line
      | none => s

/-- A core recorded as a sharer of a line, R192: four exactly, and beyond four the plates. -/
def Line.share (l : Line) (c : Nat) (plate : Nat → Nat) : Line :=
  if l.plates ≠ 0 then { l with plates := l.plates ||| 2 ^ plate c }
  else if l.sharers.contains c then l
  else if l.sharers.length < 4 then { l with sharers := l.sharers ++ [c] }
  else { l with sharers := [], plates := (c :: l.sharers).foldl (fun m x => m ||| 2 ^ plate x) 0 }

/-- Whether a line's record takes a core for a holder of a copy. -/
def Line.sharedBy (l : Line) (c plate : Nat) : Bool := if l.plates = 0 then l.sharers.contains c else bit l.plates plate

/-- The copies that a line's record names are invalidated, R192, but for the writer's own, which its store updates (R191). -/
def State.invalidate (s : State) (l : Line) (keep : Option Nat) : Line × State :=
  let stays := (keep.toList).filter (fun c => s.inL1 c l.line)
  ({ l with sharers := stays, plates := 0 },
   { s with dLines := s.dLines.filter (fun e => e.line != l.line || some e.core == keep || !l.sharedBy e.core (corePlate (s.phys e.core))) })

/-! ## An access at its slice -/

/-- An access to a line: its storage key, for which partition, the core whose access it is, and whether it comes from that core's
own load and store unit, past its L1 data cache; whether the core's predictor places it (an atomic of an ATTR 0 page) with the
address and address space, whether it writes, and whether it brings the line into L1. -/
structure Visit where
  key : Nat
  part : Nat
  core : Option Nat := none
  asid : Nat := 0
  va : Nat := 0
  placed : Bool := false
  writes : Bool := false
  lsu : Bool := false
  fills : Bool := false
  deriving DecidableEq, Repr

/-- A line that an L1 owns is recalled first, R192, R234, unless the access is one of that core's own load and store unit. What
the spec leaves open there the model settles: its own access at the home slice (a store, SCATADD, an atomic placed there) does not
recall it (DESIGN CHOICE, assumption 113). -/
def State.recall (s : State) (l : Line) (v : Visit) : Line × State :=
  match l.owner with
  | none => (l, s)
  | some (o, idx) => if v.lsu ∧ some o = v.core then (l, s) else ({ l with owner := none, dirty := true }, s.predict o idx true)

/-- The lines of a slice that an L1 owns, or will own once filled, R192. -/
def Slice.owned (x : Slice) : Nat := ((x.lines ++ x.misses.map (·.row)).filter (fun l => l.owner.isSome)).length

/-- Where a core's atomic on a line is performed, R192, R234: its L1, with ownership, or the slice, whose answer reports
whether another core has touched the line since. The slice knows the core of the last access alone: without such a record it
reports none, and with another core's it reports a touch (DESIGN CHOICE, assumption 114). -/
def State.placeAtomic (s : State) (i : Nat) (l : Line) (c : Nat) (v : Visit) : Line × State :=
  let idx := predIndex v.va
  if (s.core c).predictor.at idx 0 ≥ 2 then (l, s.predict c idx (l.last.isSome && l.last != some c))
  else if l.owner.isSome then (l, s.predict c idx false)
  else if (s.slice i).owned < 16 then
    ({ l with owner := some (c, idx), ownPart := v.part, ownAsid := v.asid, ownVa := v.va, sharers := [c], plates := 0 }, s)
  else (l, s.predict c idx true)

/-- What an access changes in the record of its line. -/
def State.visit (s : State) (i : Nat) (l : Line) (v : Visit) : Line × State :=
  let (l, s) := s.recall l v
  let (l, s) := if v.writes then s.invalidate l (if v.lsu then v.core else none) else (l, s)
  let (l, s) := (match v.placed, v.core with
    | true, some c => s.placeAtomic i l c v
    | _, _ => (l, s))
  let l := (match v.fills, v.core with
    | true, some c => l.share c (fun x => corePlate (s.phys x))
    | _, _ => l)
  ({ l with used := (s.slice i).age, dirty := l.dirty || v.writes, last := v.core.orElse (fun _ => l.last) },
    s.updSlice i (fun x => { x with age := x.age + 1 }))

/-- The line that an access brings into its core's L1 data cache, by load or PREF, or with ownership. -/
def Visit.copy (v : Visit) : List DLine :=
  match v.core with
  | some c => if v.fills || v.placed then [{ core := c, line := lineOf v.key, part := v.part, asid := v.asid, va := v.va }] else []
  | none => []

/-- Copies of a line taken by the L1 data caches that its record names. -/
def State.takeCopies (s : State) (l : Line) (copies : List DLine) : State :=
  copies.foldl (fun t d => if l.sharedBy d.core (corePlate (t.phys d.core)) then t.intoL1 d else t) s

/-- An access at its home slice, R191, R195, R196: it hits a line, joins a pending fill, or takes a miss-table entry, with
`waiter` waiting there for the fill. The flag says whether it hit; none where the table has no room. -/
def State.reach (s : State) (v : Visit) (waiter : Option (Nat × Nat)) : Option (Bool × State) :=
  let i := sliceId v.key
  let line := lineOf v.key
  match (s.slice i).lines.find? (fun l => l.line == line), (s.slice i).misses.find? (fun m => m.row.line == line) with
  | some l, _ =>
    let (l, t) := s.visit i l v
    some (true, (t.updLine i line (fun _ => l)).takeCopies l v.copy)
  | none, some m =>
    let (l, t) := s.visit i m.row v
    some (false, t.updMiss i line (fun m => { m with row := l, waiting := m.waiting ++ waiter.toList, copies := m.copies ++ v.copy }))
  | none, none =>
    if (s.slice i).misses.length ≥ 64 then none
    else
      let (l, t) := s.visit i { line := line, part := v.part } v
      let t := t.updSlice i (fun y =>
        { y.count v.part (fun c => { c with fills := (c.fills + 1) % 2 ^ 48 }) with
          misses := y.misses ++ [{ row := l, waiting := waiter.toList, copies := v.copy }] })
      some (false, ((t.takeWay i v.part line).getD t).push (.fillArrival i line))

/-- An access of an agent that does not wait here for its line at its home slice; none where the slice does not accept it now.
-/
def State.touchHome (s : State) (part : Nat) (core : Option Nat) (key : Nat) (write : Bool) : Option State :=
  (s.reach { key := key, part := part, core := core, writes := write } none).map (·.2)

/-- An access of an agent that does not wait here for its line. Local storage has no home slice; a register bank may be awaiting
its refresh (R366). -/
def State.touchLine (s : State) (part : Nat) (core : Option Nat) (key : Nat) (write : Bool) : Option State :=
  if keyIsLocal key then s.accessBank key else s.touchHome part core key write

/-- The lines of a run of accesses, each of which lies in one, touched one after the other, as far as they are accepted now:
whether all are. -/
def State.touchRun (s : State) (part : Nat) (core : Option Nat) (write : Bool) : List (Nat × Nat × Nat) → Bool × State
  | [] => (true, s)
  | e :: rest => match s.touchLine part core e.2.2 write with
    | none => (false, s)
    | some t => t.touchRun part core write rest

/-- The lines of some keys touched one after the other, as far as the slices accept them: the rest of the keys. -/
def State.touchLines (s : State) (part : Nat) (core : Option Nat) (write : Bool) : List Nat → List Nat × State
  | [] => ([], s)
  | k :: rest => match s.touchHome part core k write with
    | none => (k :: rest, s)
    | some t => t.touchLines part core write rest

end Sys2Proof.Machine
end

