-- ==== Sys2Proof/Machine/Mesh.lean ====
section
/-!
DEFINITION. The mesh: routers and their package coordinates (R349), links and routes (R350, R351), the networks (R352), the
waits before a resend (R354, R355), and the way of a packet from its source to the router of its target, through the escape
slots and around a migration (R353, R355, R363).
-/

namespace Sys2Proof.Machine

/-! ## Routers, links and routes -/

/-- The router at package coordinates and a layer, R349. -/
def routerAt (z px py : Nat) : Router := { plate := px / 32 + 2 * (py / 24), x := px % 32, y := py % 24, z := z }

/-- The router of a physical core, on the compute layer. -/
def routerOf (c : Nat) : Router := { plate := corePlate c, x := coreX c, y := coreY c, z := 0 }

/-- A router's package coordinates, R349. -/
def Router.px (r : Router) : Nat := packageX r.plate r.x
def Router.py (r : Router) : Nat := packageY r.plate r.y

/-- The coordinates met on the way from one to another, without the first. -/
def ways (a b : Nat) : List Nat :=
  if a ≤ b then (List.range (b - a)).map (fun i => a + 1 + i) else (List.range (a - b)).map (fun i => a - 1 - i)

/-- The routers met on the way from a position to another on one layer, first along x and then along y, R351. -/
def along (z x y x' y' : Nat) : List Router :=
  (ways x x').map (fun v => routerAt z v y) ++ (ways y y').map (fun v => routerAt z x' v)

/-- The crossing between the layers at one position, R351. -/
def Router.cross (r : Router) (z : Nat) : List Router := if r.z = z then [] else [{ r with z := z }]

/-- The routers that a packet meets after its first, R351: on one plate it changes layer first; between plates it crosses layer 0
and changes layer last. -/
def route (a b : Router) : List Router :=
  if a.plate = b.plate then a.cross b.z ++ along b.z a.px a.py b.px b.py
  else a.cross 0 ++ along 0 a.px a.py b.px b.py ++ ({ b with z := 0 } : Router).cross b.z

/-- The mesh cycles of the link between two neighbours without load, R350: vertical, bridge or planar. -/
def crossing (a b : Router) : Nat := if a.z ≠ b.z then 2 else if a.plate ≠ b.plate then 80 else 1

/-! ## Waits before a resend -/

/-- The wait before the resend that follows the n-th refusal, R355: in cycles of the column on which the source stands, with
its own random number. -/
def State.nackWait (s : State) (core n : Nat) : Nat × State :=
  let (v, s) := s.draw
  ((32 * 2 ^ (min n 8 - 1) + v % 32) * cycleLen (coreX (s.phys core)), s)

/-! ## The way of a packet -/

/-- Whether two packets travel on the same network, R352: a reply on the reply network, the others on the request network. -/
def Packet.beside (p q : Packet) : Bool := (p.kind == 2) == (q.kind == 2)

/-- The port that a packet of a core takes to another device's core, R400: its number h, modulo the ports of the device's entry. -/
def State.portTo (s : State) (dev src dst : Nat) : Option Nat :=
  let l := s.routes.at dev []
  l[Config.pathHash dev src dst % l.length]?

/-- The device a packet goes to, and its core. -/
def Packet.device (p : Packet) : Nat := bits p.target 59 50
def Packet.core (p : Packet) : Nat := bits p.target 49 36

/-- The core that a packet left, and whether it is one of another device. -/
def Packet.source (p : Packet) : Nat := p.msg.src % 2 ^ 14
def Packet.foreign (p : Packet) (dev : Nat) : Bool := p.msg.src / 2 ^ 14 != dev

/-- A discarded packet's NACK, R353, on its way back over as many hops as the packet has come, at one hop a mesh cycle, R352.
-/
def State.nack (s : State) (id : Nat) (p : Packet) (remap : Bool) : State :=
  let hops := (match p.at_ with
    | some (_, r) => (route r (routerOf (s.phys p.source))).length
    | none => 0)
  ({ s with packets := s.packets.set id { p with nacked := true, remap := remap, ready := s.now + hops * meshLen } }).push (.nackArrival id)

/-- Whether the escape slot that a packet needs at the next router's input is taken, R355. -/
def State.slotTaken (s : State) (id : Nat) (p : Packet) (hop : Router × Router) : Bool :=
  s.packets.any (fun e => e.1 != id && e.2.escape && e.2.at_ == some hop && e.2.beside p && e.2.answer.isNone && !e.2.nacked)

/-- Whether a source holds a new packet back, R363: while its target moves, and afterwards behind its own earlier packets to it.
-/
def State.holdsBack (s : State) (id : Nat) (p : Packet) : Bool :=
  match s.lpct.look p.core with
  | some e => e.st == 1 || e.st == 2 && s.packets.any (fun q =>
      decide (q.1 < id) && q.2.answer.isNone && q.2.msg.src == p.msg.src && q.2.device == p.device && q.2.core == p.core)
  | none => false

/-- Whether an earlier packet to the same target still stands at its source, or awaits resending there, R156. -/
def State.waitsBehind (s : State) (id : Nat) (p : Packet) : Bool :=
  s.packets.any (fun q => decide (q.1 < id) && q.2.answer.isNone && q.2.msg.src == p.msg.src && q.2.target == p.target && q.2.beside p &&
    (q.2.nacked || (q.2.at_.isNone && q.2.via.isNone)))

/-- A packet's turn before it stands at its target's router, R351, R355, R363: it leaves its source, crosses a link, is sent on
from the core that its target has left, or, once that forwards no more, is sent back with a remap mark. None once it stands
there. A packet of another device takes no way of this mesh, and one to another device leaves by its pair's port (R400), which stands
at no router of it (assumption 102). -/
def State.enroute (s : State) (id : Nat) (p : Packet) : Option State :=
  if p.foreign s.table.devnum then none
  else if p.device ≠ s.table.devnum then
    match p.via, s.portTo p.device p.source p.core with
    | none, some port => some (if s.waitsBehind id p then s else { s with packets := s.packets.set id { p with via := some port } })
    | _, _ => none
  else
    let goal := s.phys p.core
    let put := fun (q : Packet) => { s with packets := s.packets.set id q }
    let b := routerOf goal
    match p.at_ with
    | none =>
      let a := routerOf (s.phys p.source)
      some (if s.holdsBack id p ∨ s.waitsBehind id p then s else put { p with at_ := some (a, a), path := route a b, goal := goal, ready := s.now })
    | some (_, r) =>
      if s.now < p.ready then some s
      else match p.path with
        | n :: rest =>
          some (if p.escape && s.slotTaken id p (r, n) then s
            else put { p with at_ := some (r, n), path := rest, ready := s.now + crossing r n * meshLen })
        | [] =>
          if p.goal = goal then none
          else if (s.lpct.look p.core).any (fun e => e.st == 2) then some (put { p with at_ := some (r, r), path := route r b, goal := goal })
          else some ((s.did (if p.kind = 3 then .engineCardArrival id else .messageArrival id)).nack id p true)

end Sys2Proof.Machine
end

