-- ==== Sys2Proof/Machine/Access.lean ====
section
/-!
DEFINITION. From an address to storage: the forms of an address (R182 to R184), the local spaces (R185 to R188),
translation (R198 to R204), the worlds (R415), and the checks of an access in their order (R190).
-/

namespace Sys2Proof.Machine

/-- An access as an instruction asks for it: address, length, alignment, the permissions it needs of the capability, and
what it needs of a page, R14, R202. -/
structure Req where
  x : Nat
  n : Nat
  align : Nat
  perms : List Perm := [.ld]
  rd : Bool := true
  wr : Bool := false
  ex : Bool := false
  /-- a store that would keep a set tag, R185, R202 -/
  keepTag : Bool := false
  /-- a full/empty access, R185 -/
  fe : Bool := false
  /-- how far into the instruction's access the element lies, for the alignment of the whole -/
  lead : Nat := 0
  /-- an instruction that R239 lists for queues, or R240 for counters -/
  queue : Bool := false
  counter : Bool := false
  deriving DecidableEq, Repr

/-- Where an access goes: the storage key, whether tags are kept and loaded there, whether it is local, whether the
storage is secure, and whether an L1 may hold the line (ATTR 0, R191). -/
structure Place where
  key : Nat
  tags : Bool
  isLocal : Bool
  secure : Bool
  attr0 : Bool := false
  deriving DecidableEq, Repr

/-! ## Blocks and worlds -/

/-- The world of a physical address: the S of the lowest-numbered valid entry that covers it, R414, R415. -/
def State.worldPa (s : State) (pa : Nat) : Bool :=
  let hit := s.regions.find? (fun e => e.2.getLsbD 0 &&
    decide ((e.2.extractLsb' 32 32).toNat ≤ pa / 65536) && decide (pa / 65536 ≤ (e.2.extractLsb' 64 32).toNat))
  match hit with
  | some e => e.2.getLsbD 1
  | none => false

/-- The world of a core's block, R413; the easel is always secure. -/
def State.worldCore (s : State) (c : Nat) : Bool := s.isEasel c || s.secureCores.at (corePlate c) false

/-! ## Local windows, R183 to R188 -/

/-- The core that lends its scratchpad and banks to a lit core, R358: core k of node (x xor 1, y), when it is dark for the
same gang. -/
def State.partner (s : State) (c : Nat) : Option Nat :=
  let p := coreId (corePlate c) (coreX c ^^^ 1) (coreY c) (coreK c)
  match (s.core c).lit with
  | none => none
  | some g => if (s.core p).dark = some g then some p else none

/-- Fields of SPILLMAP, R188. -/
def spillKind (v : Word) : Nat := bits v.toNat 63 62
def spillLen (v : Word) : Nat := bits v.toNat 47 40
def spillPlace (v : Word) : Nat := bits v.toNat 7 0

/-- The big core that a KIND 2 SPILLMAP of a core names, R188. -/
def spillBig (c : Nat) (v : Word) : Nat := bigId (corePlate c) (bits v.toNat 13 12) (bits v.toNat 15 14)

/-- The bank that a KIND 1 SPILLMAP of a core names: core and slot, R188, R358. -/
def State.spillBank (s : State) (c : Nat) (v : Word) : Option (Nat × Nat) :=
  let p := spillPlace v
  if isBig c then some (c, p % 8)
  else if bit p 4 then
    (s.partner c).map (fun q => (coreId (corePlate q) (coreX q) (coreY q) (bits p 3 2), p % 4))
  else some (coreId (corePlate c) (coreX c) (coreY c) (bits p 3 2), p % 4)

/-- The bank that a SPILLMAP names, if any. -/
def State.namedBank (t : State) (c : Nat) (v : Word) : Option (Nat × Nat) := if spillKind v = 1 then t.spillBank c v else none

/-- The storage of a bank in the spill window cleared, R26, R188. -/
def State.clearBank (t : State) (c n : Nat) : State :=
  let lo := localKey c 9 (n * 0x2000)
  { t with mem := t.mem.filter (fun e => decide (e.1 < lo) || decide (e.1 ≥ lo + 0x2000)),
           tags := t.tags.filter (fun e => decide (e.1 < lo / 16) || decide (e.1 ≥ (lo + 0x2000) / 16)) }

/-- Whether a SPILLMAP names the bank of a slot, R188. -/
def State.bankLent (s : State) (c n : Nat) : Bool :=
  s.cores.any (fun e => spillKind e.2.spill == 1 && s.spillBank e.1 e.2.spill == some (c, n))

/-- Whether a C-store offset of a big core lies in units that a SPILLMAP names, R188. -/
def State.cUnitLent (s : State) (big off : Nat) : Bool :=
  s.cores.any (fun e => spillKind e.2.spill == 2 && spillBig e.1 e.2.spill == big &&
    decide (spillPlace e.2.spill ≤ off / 4096) && decide (off / 4096 < spillPlace e.2.spill + spillLen e.2.spill))

/-- The key of an offset of space 4 of a core, R187; none where the window is absent. -/
def State.lentKey (s : State) (c off : Nat) : Option Nat :=
  if off < 0x20000 then (s.partner c).map (fun p => localKey p 0 off)
  else
    let v := (s.core c).spill
    let o := off - 0x1000000
    if off < 0x1000000 ∨ o ≥ 0x1000 * spillLen v then none
    else if spillKind v = 1 then (s.spillBank c v).map (fun b => localKey b.1 9 (b.2 * 0x2000 + o))
    else if spillKind v = 2 then some (localKey (spillBig c v) 3 (spillPlace v * 4096 + o))
    else none

/-- Whether the storage of a key keeps tags, R185, R187. -/
def keyKeepsTags (k : Nat) : Bool := keySpace k == 0 || keySpace k == 7 || keySpace k == 9

/-- The slot window, R238 to R240: the claim key of a queue, or the word of a counter. Space 11 of a plate's core 0 names a
queue before its word is claimed. -/
def State.slotWindow (s : State) (a : Access) (r : Req) (c off : Nat) : Except Nat Nat :=
  let pl := s.pools.at (corePlate c) {}
  let mine : Option QueueSlot → Bool := fun q => (match q with
    | some x => x.ctx == a.ctx
    | none => false)
  let i := off % 0x1000000 / 8
  if !isLittle c || s.isEasel c || off % 8 ≠ 0 then .error causeAccess
  else if off / 0x1000000 = 2 ∧ (r.queue && mine (pl.queues.look i)) ∧ 1 ≤ i ∧ i ≤ 256 then
    .ok (localKey (coreId (corePlate c) 0 0 0) 11 i)
  else if off / 0x1000000 = 3 ∧ (r.counter && mine (pl.ctrs.look i)) ∧ 1 ≤ i ∧ i ≤ 1024 then
    .ok (counterKey (corePlate c) i)
  else .error causeAccess

/-- A local-window access after the check of its form, R183 to R187: the storage key, or the code of the fault. The last
byte is checked too: no storage ends inside an aligned access. In the control space, which easel cores alone reach (R379),
an offset that holds no register takes an access fault (assumption 11), and so does a store to BWORLD by a core that does not
run the secure monitor, which alone writes it (R413, assumption 121). -/
def State.localPlace (s : State) (a : Access) (r : Req) : Except Nat Nat :=
  let c := bits r.x 49 36
  let sp := bits r.x 35 32
  let off := bits r.x 31 0
  if bits r.x 59 50 ≠ s.table.devnum then .error causeAccess
  else if coreY c ≥ 24 ∨ (inBlock (coreX c) (coreY c) ∧ !isBig c) then .error causeAccess
  else if s.isEasel c ∧ !s.isEasel a.core then .error causeAccess
  else
    let feOk := !r.fe || sp == 0 || (sp == 4 && decide (off < 0x20000)) || (sp == 7 && r.queue)
    let tagOk := fun (k : Nat) => !r.keepTag || keyKeepsTags k
    let give := fun (ok : Bool) (k : Nat) => if ok && feOk && tagOk k then Except.ok k else .error causeAccess
    match sp with
    | 0 => give (!isBig c && decide (off + r.n ≤ 0x20000)) (localKey c 0 off)
    | 1 => give (isBig c && decide (off + r.n ≤ 0x400000)) (localKey c 1 off)
    | 2 => give (isBig c && decide (off + r.n ≤ 0x200000)) (localKey c 2 off)
    | 3 => give (isBig c && decide (off + r.n ≤ 0x100000) && !s.cUnitLent c off) (localKey c 3 off)
    | 4 => match s.lentKey c off with
      | some k => give true k
      | none => .error causeAccess
    | 5 =>
      if !viewOffset c off || r.ex || r.fe || r.keepTag then .error causeAccess
      else if r.wr && !(s.isEasel a.core && a.sup && (s.slot c (viewSlot off)).halted) then .error causeAccess
      else if !a.sup then .error causePrivilege
      else .ok (localKey c 5 off)
    | 7 => if off ≥ 0x2000000 then s.slotWindow a r c off else
      give (!r.fe && decide (0x10000 ≤ off) && decide (off + r.n ≤ 0x10000 + 0x100 * slotCount c) && !r.wr && !r.ex)
        (localKey c 7 off)
    | 8 =>
      if !s.isEasel a.core then .error causeAccess
      else give (!r.ex && !r.fe && (List.range ((off + r.n + 7) / 8 - off / 8)).all (fun i => match s.controlReg c (off / 8 + i) with
        | none => false
        | some (.world _) => !r.wr || s.isMonitor a.core
        | some _ => true))
        (localKey c 8 off)
    | _ => .error causeAccess

/-! ## Page tables, R198 to R202 -/

/-- The lowest VA bit that a level indexes, R198. -/
def levelLow : Nat → Nat
  | 0 => 35
  | 1 => 30
  | 2 => 21
  | _ => 16

/-- The index of a VA below the root, R198. -/
def levelIndex (va : Nat) : Nat → Nat
  | 1 => bits va 34 30
  | 2 => bits va 29 21
  | _ => bits va 20 16

/-- Fields of a page-table entry, R200. -/
def pteLeaf (e : Nat) : Bool := bit e 1
def pteAdr (e : Nat) : Nat := bits e 47 8 * 256

/-- malformed(e, lvl) of R201. -/
def malformed (e lvl : Nat) : Bool :=
  let z := bits e 55 52 != 0 || bits e 49 48 != 0 || bit e 2
  let sz := (if lvl = 1 then 4096 else 256)
  z || decide (pteAdr e ≥ hbmEnd) ||
    (if pteLeaf e then decide (bits e 51 50 ≥ 2) || pteAdr e % 2 ^ levelLow lvl != 0
     else decide (lvl ≥ 3) || bits e 51 50 != 0 || bits e 8 2 != 0 || pteAdr e % sz != 0)

/-- The walk from an entry's address on, R201, R415: the leaf entry and the page size's log2, or the fault's code and the
log2 of the span of the entry at which it stopped. -/
def State.walkFrom (s : State) (world : Bool) (va : Nat) : Nat → Nat → Nat → Except (Nat × Nat) (Nat × Nat)
  | 0, lvl, _ => .error (causePageTable, levelLow lvl)
  | f + 1, lvl, pa =>
    if s.worldPa pa && !world then .error (causePageTable, levelLow lvl)
    else
      let e := s.readMem pa 8
      if !bit e 0 then .error (causeTranslation, levelLow lvl)
      else if malformed e lvl then .error (causePageTable, levelLow lvl)
      else if pteLeaf e then .ok (e, levelLow lvl)
      else s.walkFrom world va f (lvl + 1) (pteAdr e + 8 * levelIndex va (lvl + 1))

/-- A walk of a virtual address for a context, R201; a fault at the root descriptor spans every address of the ROOT, R220.
-/
def State.walk (s : State) (ctx : Nat) (world : Bool) (x : Nat) : Except (Nat × Nat) (Nat × Nat) :=
  let d := (((s.ctx ctx).roots)[bits x 62 60]?.getD 0).toNat
  let va := bits x 56 0
  if !bit d 63 || decide (va ≥ 2 ^ bits d 53 48) then .error (causeTranslation, 57)
  else s.walkFrom world va 4 0 (bits d 47 8 * 256 + 8 * bits va 56 35)

/-- The addresses of the entries that a walk from an entry's address on reads, R201. -/
def State.walkReads (s : State) (world : Bool) (va : Nat) : Nat → Nat → Nat → List Nat
  | 0, _, _ => []
  | f + 1, lvl, pa =>
    if s.worldPa pa && !world then []
    else
      let e := s.readMem pa 8
      pa :: (if !bit e 0 || malformed e lvl || pteLeaf e then [] else s.walkReads world va f (lvl + 1) (pteAdr e + 8 * levelIndex va (lvl + 1)))

/-- The entries that the walk of a virtual address reads at their home slices, R201: whether the slices accept all of them now. -/
def State.touchWalk (s : State) (part ctx : Nat) (world : Bool) (x : Nat) : Bool × State :=
  let d := (((s.ctx ctx).roots)[bits x 62 60]?.getD 0).toNat
  let va := bits x 56 0
  if !bit d 63 || decide (va ≥ 2 ^ bits d 53 48) then (true, s)
  else
    let r := s.touchLines part none false (s.walkReads world va 4 0 (bits d 47 8 * 256 + 8 * bits va 56 35))
    (r.1.isEmpty, r.2)

/-- Whether an entry translates an address for a partition and address space, R203. -/
def TlbEntry.covers (e : TlbEntry) (part asid x : Nat) : Bool :=
  e.part == part && e.asid == asid && e.root == bits x 62 60 && e.va / 2 ^ e.lg == bits x 56 0 / 2 ^ e.lg

/-- The TLB of a level, R203: the core's own, its node's (a big core has its own), and the plate's; those of the node and
the plate are those of the place where the core stands, R364. -/
def State.tlb1 (s : State) (c : Nat) : List TlbEntry := s.tlbL1.at c []
def State.tlb2 (s : State) (c : Nat) : List TlbEntry := s.tlbNode.at (nodeOf (s.phys c)) []
def State.tlb3 (s : State) (c : Nat) : List TlbEntry := s.tlbPlate.at (corePlate (s.phys c)) []

/-- The set of a level with `sets` sets that an entry indexes, R203. -/
def TlbEntry.set (lvl sets : Nat) (e : TlbEntry) : Nat := Config.tlbSet lvl e.lg (e.va / 2 ^ e.lg) % sets

/-- A TLB after a fill, R203: an entry that it holds stays; in a full set a free choice names the entry displaced. -/
def fillTlb (l : List TlbEntry) (ways : Nat) (set : TlbEntry → Nat) (victim : Nat) (e : TlbEntry) : List TlbEntry :=
  if l.contains e then l
  else
    let same := l.filter (fun o => set o == set e)
    (if same.length < ways then l else match same[victim % same.length]? with
      | some o => l.erase o
      | none => l) ++ [e]

/-- The first `n` of a core's three TLBs after a translation, R203, R204. -/
def State.fillTlbs (s : State) (c n : Nat) (e : TlbEntry) : State :=
  let (v, s) := s.draw
  let node := nodeOf (s.phys c)
  let plate := corePlate (s.phys c)
  { s with
    tlbL1 := if n < 1 then s.tlbL1 else s.tlbL1.set c (fillTlb (s.tlb1 c) 128 (fun _ => 0) v e),
    tlbNode := if n < 2 then s.tlbNode else s.tlbNode.set node (fillTlb (s.tlb2 c) 8 (TlbEntry.set 2 512) v e),
    tlbPlate := if n < 3 then s.tlbPlate else s.tlbPlate.set plate (fillTlb (s.tlb3 c) 16 (TlbEntry.set 3 4096) v e) }

/-- The entry of a TLB for an address. -/
def heldBy (l : List TlbEntry) (part asid x : Nat) : Option TlbEntry := l.find? (fun e => e.covers part asid x)

/-- The translation at hand for an access, R203: in the core's TLB, or in its node's, whose entry then fills the core's; none
where it is in neither. -/
def State.atHand (s : State) (a : Access) (x : Nat) : Option TlbEntry × State :=
  match heldBy (s.tlb1 a.core) a.part a.ctx x with
  | some e => (some e, s)
  | none => match heldBy (s.tlb2 a.core) a.part a.ctx x with
    | some e => (some e, s.fillTlbs a.core 1 e)
    | none => (none, s)

/-! ## Asking for a walk, R204 -/

/-- The requests in a plate's walk queue, oldest first, R204. -/
def State.walkQueue (s : State) (plate : Nat) : List (Nat × Walk) :=
  s.walks.filter (fun w => w.2.plate == plate && !w.2.started && !w.2.refused)

/-- A request refused by a full queue waits before it is sent again, R353, R355. -/
def State.refuseWalk (s : State) (w : Walk) : Walk × State :=
  let (d, t) := s.nackWait w.core (w.nacks + 1)
  ({ w with nacks := w.nacks + 1, till := s.now + d }, t)

/-- A request for a walk, R204: one for its page that is under way is joined; else it enters the queue of the plate on which
the core stands, or finds it full and is sent again. -/
def State.askWalk (t : State) (a : Access) (x : Nat) (join : Walk → Walk) : State :=
  let plate := corePlate (t.phys a.core)
  let same := fun (w : Walk) => w.plate == plate && w.part == a.part && w.asid == a.ctx && w.root == bits x 62 60 &&
    w.va / 65536 == bits x 56 0 / 65536
  match t.walks.find? (fun w => same w.2) with
  | some (k, w) => { t with walks := t.walks.set k (join w) }
  | none =>
    let (k, t) := t.fresh
    let w : Walk := { plate := plate, part := a.part, asid := a.ctx, root := bits x 62 60, va := bits x 56 0, world := a.world,
                      core := a.core, refused := decide ((t.walkQueue plate).length ≥ 512) }
    let (w, t) := if w.refused then t.refuseWalk w else (w, t)
    ({ t with walks := t.walks.set k (join w) }).push (.walkStart plate)

/-- A request for a walk by the one who makes an access. -/
def State.wantWalk (t : State) (a : Access) (x : Nat) : State :=
  t.askWalk a x (fun w => { w with askers := if w.askers.contains (a.core, a.who) then w.askers else w.askers ++ [(a.core, a.who)] })

/-- One who waits for no walk any more: no answer of a walk is kept for it. -/
def State.forget (s : State) (who : Asker) : State :=
  { s with walks := s.walks.map (fun (w : Nat × Walk) => (w.1, { w.2 with askers := w.2.askers.filter (fun k => k.2 != who) })),
           walkFaults := s.walkFaults.filter (fun f => f.who != who) }

/-- Whether a fault of a walk answers an access to an address. -/
def WalkFault.answers (f : WalkFault) (a : Access) (x : Nat) : Bool :=
  f.who == a.who && f.part == a.part && f.asid == a.ctx && f.root == bits x 62 60 && f.page == bits x 56 0 / 65536

/-- A translation, R203, R204: from the TLB of the core, of its node or of its plate; else the fault that a walk for this request
has found, or no answer yet, and a walk is asked for. -/
def State.translate (s : State) (a : Access) (x : Nat) : Except Nat TlbEntry × State :=
  match s.atHand a x with
  | (some e, s) => (.ok e, s)
  | (none, s) => match heldBy (s.tlb3 a.core) a.part a.ctx x with
    | some e => (.ok e, s.fillTlbs a.core 2 e)
    | none => match s.walkFaults.find? (fun f => f.answers a x) with
      | some f => (.error f.code, { s with walkFaults := s.walkFaults.erase f })
      | none => (.error notYet, s.wantWalk a x)

/-- Whether a leaf allows an access, R202. -/
def leafAllows (pte : Nat) (a : Access) (r : Req) : Bool :=
  (!r.rd || bit pte 3) && (!r.wr || bit pte 4) && (!r.ex || bit pte 5) && (!bit pte 6 || a.sup) &&
    (!r.keepTag || bit pte 7)

/-- The physical address under an entry. -/
def TlbEntry.pa (e : TlbEntry) (x : Nat) : Nat := pteAdr e.pte + bits x 56 0 % 2 ^ e.lg

/-! ## The checks of an access, R190 -/

/-- The capability check of R14: the code of the first check that fails. -/
def capCheck (tag : Bool) (c : Cap) (perms : List Perm) (x n : Nat) : Option Nat :=
  if !tag then some causeTag
  else if c.otype ≠ 0 then some causeSeal
  else if !perms.all c.has then some causePerm
  else if !c.covers x n then some causeBounds
  else none

/-- Where an access to a virtual address goes under a translation, R202. -/
def State.placeUnder (s : State) (e : TlbEntry) (a : Access) (r : Req) : Except Nat Place :=
  if leafAllows e.pte a r then .ok ⟨e.pa r.x, bit e.pte 7, false, s.worldPa (e.pa r.x), bits e.pte 51 50 == 0⟩
  else .error causePagePerm

/-- Steps 2 to 5 of R190 on an address. -/
def State.placeOf (s : State) (a : Access) (r : Req) : Except Nat Place × State :=
  let top := bits r.x 63 60
  if (r.x + 2 ^ 64 - r.lead) % r.align ≠ 0 then (.error causeAlign, s)
  else if top = 0xE then
    match s.localPlace a r with
    | .error c => (.error c, s)
    | .ok k => (.ok ⟨k, keyKeepsTags k, true, s.worldCore (bits r.x 49 36), false⟩, s)
  else if top ≥ 8 ∨ bits r.x 59 57 ≠ 0 ∨ r.fe then (.error causeAccess, s)
  else
    match s.translate a r.x with
    | (.error c, s') => (.error c, s')
    | (.ok e, s') => (s'.placeUnder e a r, s')

/-- Step 6 of R190, R415. -/
def worldCheck (a : Access) (hasWrld : Bool) (p : Place) : Option Nat :=
  if !p.secure then none
  else if !a.world then some causeAccess
  else if !hasWrld then some causePerm
  else none

/-- All the checks of one element of an access, in order, R190: the place, or the fault's code; TVAL is the address. -/
def State.checkAccess (s : State) (a : Access) (tag : Bool) (c : Cap) (r : Req) : Except Nat Place × State :=
  match capCheck tag c r.perms r.x r.n with
  | some code => (.error code, s)
  | none =>
    match s.placeOf a r with
    | (.error code, s') => (.error code, s')
    | (.ok p, s') =>
      match worldCheck a (c.has .wrld) p with
      | some code => (.error code, s')
      | none => (.ok p, s')

/-- The access of the task in a slot. -/
def State.accessOf (s : State) (c n : Nat) : Access :=
  let x := s.slot c n
  { core := c, ctx := x.ctxid.toNat, part := x.part, world := x.arch.world, sup := x.arch.sup, who := .task ⟨c, n, x.uid⟩ }

/-- The access of the task that issues. -/
def State.myAccess (s : State) : Access := s.accessOf s.cur.core s.cur.slot

end Sys2Proof.Machine
end

