-- ==== Sys2Proof/Machine/Operands.lean ====
section
/-!
DEFINITION. Operand forms: the guard (R17, R29), immediates under PFX.I (R31, R36), which prefixes an instruction takes
(R36, R37), the registers and predicates it reads and writes (R70), the pops of bound ports (R163), and the one operation
through which every instruction of a task issues: the checks of R40 in their order, the scoreboard, the carry-ahead window
(R172 to R174), and then the instruction's own effect.
-/

namespace Sys2Proof.Machine

/-! ## The guard -/

/-- The bit of a predicate that governs element j of width w, R17. -/
def govBit (w j : Nat) : Nat := w * j / 16

/-- The guard's predicate with N applied: the bits that enable, R29. -/
def Arch.guardMask (a : Arch) (g : BitVec 4) : Word :=
  let p := a.pred (g.toNat % 8)
  if g.toNat ≥ 8 then ~~~p else p

/-- Whether element j of width w is enabled, R29. -/
def enabled (m : Word) (w j : Nat) : Bool := m.getLsbD (govBit w j)

/-- A predicate with element j's span written, R17, R42: for bytes, element 2k alone writes bit k. -/
def writeSpan (p : Word) (w j : Nat) (b : Bool) : Word :=
  if w = 8 then (if j % 2 = 0 then putBit p (j / 2) b else p)
  else (List.range (w / 16)).foldl (fun q k => putBit q (govBit w j + k) b) p

/-- A predicate with the spans of the elements of a list of results written; an absent result leaves its span, R97. -/
def writeSpans (p : Word) (w : Nat) (l : List (Nat × Bool)) : Word :=
  l.foldl (fun q e => writeSpan q w e.1 e.2) p

/-- Which enabled elements keep an instruction from being guarded off, R29. -/
inductive Governs where
  | bit0
  | elems (w lo n : Nat)
  | always
  | laneOf (b : Nat)
  deriving DecidableEq, Repr

/-- The registers whose values decide which bit governs: the selector of LANE.PUT, R96. -/
def Governs.reads : Governs → List Nat
  | .laneOf b => [b]
  | _ => []

/-- All elements of a width. -/
def allElems (w : Nat) : Governs := .elems w 0 (1024 / w)

/-- The elements of a vector-size memory form, or bit 0, R210. -/
def sizeElems (s : BitVec 3) : Governs := if s = 5 then allElems 32 else .bit0

/-- The destination elements of a conversion's part, R62. -/
def partElems (ws wd part : Nat) : Governs :=
  let n := 1024 / max ws wd
  .elems wd (if wd < ws then part * n else 0) n

/-- The width of a SCATADD type, R217. -/
def scataddWidth (t : Nat) : Nat := if t = 2 then 64 else if t ≥ 4 then 16 else 32

/-- The width of a gather or scatter type, R217. -/
def gathWidth (t : BitVec 3) : Nat := if t.toNat % 4 = 2 then 32 else 64

/-- What governs an instruction, R29 and its entry. -/
def governsOf : Instr → Governs
  | .add _ _ _ _ t | .sub _ _ _ _ t | .mul _ _ _ _ t | .mulh _ _ _ _ t | .mad _ _ _ _ t | .min _ _ _ _ t
  | .max _ _ _ _ t | .absd _ _ _ _ t | .and _ _ _ _ t | .or _ _ _ _ t | .xor _ _ _ _ t | .andn _ _ _ _ t
  | .shl _ _ _ _ t | .shr _ _ _ _ t | .rot _ _ _ _ t | .shuf _ _ _ _ t | .bcast _ _ _ _ t
  | .reduce _ _ _ _ t | .scan _ _ _ _ t => allElems (intWidth t)
  | .unop _ _ _ o t => allElems (if o.toNat ≥ 7 then 2 * intWidth t else intWidth t)
  | .addi .. | .movi .. | .movu .. => allElems 32
  | .sel .. => .always
  | .lanePut _ _ _ b => .laneOf b.toNat
  | .cmp _ _ _ _ _ _ t => allElems (intWidth t)
  | .fcmp _ _ _ _ _ _ t => allElems (floatWidth t)
  | .fadd _ _ _ _ t | .fsub _ _ _ _ t | .fmul _ _ _ _ t | .fma _ _ _ _ t | .fnma _ _ _ _ t | .fmin _ _ _ _ t
  | .fmax _ _ _ _ t | .fminp _ _ _ _ t | .funop _ _ _ _ t | .fdiv _ _ _ _ t | .fsqrt _ _ _ t
  | .ftrans _ _ _ _ t | .fscale _ _ _ _ t | .fred _ _ _ _ t | .fscan _ _ _ t => allElems (floatWidth t)
  | .fcvt _ _ _ part dst src => partElems (floatWidth src) (floatWidth dst) part.toNat
  | .i2f _ _ _ part src dst => partElems (intWidth src) (floatWidth dst) part.toNat
  | .f2i _ _ _ part dst src => partElems (floatWidth src) (intWidth dst) part.toNat
  | .fdot2 .. | .fdot4 .. | .ldv .. | .stv .. | .feopQtag .. => allElems 32
  | .gath _ _ _ _ t | .gathp _ _ _ _ t | .scat _ _ _ _ t => allElems (gathWidth t)
  | .scatadd _ _ _ _ t => allElems (scataddWidth t.toNat)
  | .ldfe _ _ _ _ s | .stfe _ _ _ _ s => sizeElems s
  | .feopLdf _ _ _ z | .feopStf _ _ _ z | .feopSete _ _ z | .feopSetf _ _ z => sizeElems z
  | _ => .bit0

/-- Whether an instruction is guarded off, R29; `rd` reads a register, for the lane that LANE.PUT's selector names. -/
def guardedOff (gv : Governs) (m : Word) (rd : Nat → Reg) : Bool :=
  match gv with
  | .bit0 => !m.getLsbD 0
  | .elems w lo n => !(List.range n).any (fun j => enabled m w (lo + j))
  | .always => false
  | .laneOf b => !m.getLsbD (4 * (scalarOf (rd b).v % 16))

/-- Whether an instruction that is not guarded off writes its destination registers whole, R29: a REDUCE or FRED does, and an
instruction of elements where it acts in all of them. -/
def writesWhole (i : Instr) (m : Word) : Bool :=
  match i with
  | .reduce .. | .fred .. => true
  | _ => match governsOf i with
    | .elems w lo n => (w * n == 1024) && (List.range n).all (fun j => enabled m w (lo + j))
    | .laneOf _ => false
    | _ => true

/-! ## Prefixes -/

/-- FA, FB and PRS of a PFX.T payload, R36. -/
def pfxFa (p : BitVec 21) : Nat := bits p.toNat 20 17
def pfxFb (p : BitVec 21) : Nat := bits p.toNat 16 13
def pfxPrs (p : BitVec 21) : Nat := bits p.toNat 12 9

/-- MODE of a PFX.C payload, R36. -/
def pfxMode (p : BitVec 21) : Nat := bits p.toNat 20 19

/-- ORD and SCOPE of a PFX.S payload, R36. -/
def pfxOrd (p : BitVec 21) : Nat := bits p.toNat 20 19
def pfxScope (p : BitVec 21) : Nat := bits p.toNat 18 16

/-- The operand formats of MMA: code 15 or no prefix means bf16, R290. -/
def mmaFmt (f : Nat) : Nat := if f = 15 then 1 else f

/-- K of a legal pair of operand formats, R290; none for another pair. -/
def mmaPair (fa fb : Nat) : Option Nat :=
  if (fa = 0 ∨ fa = 1) ∧ (fb = 0 ∨ fb = 1) then some 32
  else if (fa = 4 ∨ fa = 5) ∧ (fb = 4 ∨ fb = 5) then some 64
  else if (fa = 0 ∨ fa = 1) ∧ fb = 6 then some 128
  else none

/-- Whether a pending PFX.T suits an instruction, R36, R37, R61, R108, R297. -/
def pfxTOk (i : Instr) (t : Option (BitVec 21)) : Bool :=
  match i, t with
  | .fcvt _ _ _ _ dst _, some p => pfxFa p = 15 && pfxFb p = 15 && (pfxPrs p = 0 || dst != 3)
  | .fdot2 .., some p =>
    (pfxFa p ≤ 1 || pfxFa p = 15) && (pfxFb p ≤ 1 || pfxFb p = 15) && pfxPrs p = 0
  | .fdot4 .., some p =>
    (pfxFa p = 4 || pfxFa p = 5) && (pfxFb p = 4 || pfxFb p = 5) && pfxPrs p = 0
  | .fdot4 .., none => false
  | .mtxMma .., some p | .mtxMmaz .., some p =>
    (mmaPair (mmaFmt (pfxFa p)) (mmaFmt (pfxFb p))).isSome && pfxPrs p = 0
  | .mtxCodeb .., some p => pfxFa p = 15 && pfxFb p = 15 && pfxPrs p ≠ 0
  | .mtxCodeb .., none => false
  | .mtxAccq .., some p => pfxFa p = 15 && (pfxFb p ≤ 1 || pfxFb p = 4 || pfxFb p = 5)
  | .mtxAccq .., none => false
  | _, none => true
  | _, some _ => false

/-- Whether a pending PFX.C suits an instruction, R36. -/
def pfxCOk (i : Instr) (c : Option (BitVec 21)) : Bool :=
  match c with
  | none => true
  | some _ => match i with
    | .cmp .. | .fcmp .. => true
    | _ => false

/-- Whether a pending PFX.I suits an instruction, R36, R82, R87, R102, R335. -/
def pfxIOk (i : Instr) (h : Option (BitVec 21)) : Bool :=
  match h with
  | none => true
  | some x => match i with
    | .br .. | .call .. | .loop .. | .trap .. | .brk .. | .addi .. | .addiX .. | .movi .. | .movlX .. | .ldx ..
    | .stx .. | .ldv .. | .stv .. | .ldfe .. | .stfe .. | .ldt .. | .pref .. => true
    | .gets .. | .sets .. | .movu .. | .pset .. | .wcall .. => x == 0
    | _ => false

/-- What PFX.S may add to an instruction, R36: acquire, release, pod scope. -/
def pfxSAllows : Instr → Option (Bool × Bool × Bool)
  | .ldx .. | .ldv .. | .gath .. | .gathp .. => some (true, false, false)
  | .stx .. | .stv .. | .scat .. => some (false, true, false)
  | .scatadd .. | .ldfe .. | .stfe .. | .feopLdf .. | .feopStf .. | .feopSete .. | .feopSetf .. | .feopQtag ..
  | .ldt .. | .rdm .. | .rdmS .. | .atom32 .. | .atom64 .. | .xatom .. => some (true, true, false)
  | .sendAck .. | .sendEng .. => some (true, true, true)
  | .sendPost .. | .sendReply .. => some (false, true, true)
  | .cpy .. | .cpyLoop .. | .cpyrel .. | .cpyMtx .. | .cpyBlk .. | .cpySlab .. => some (true, true, true)
  | _ => none

/-- Whether a pending PFX.S suits an instruction, R36. -/
def pfxSOk (i : Instr) (p : Option (BitVec 21)) : Bool :=
  match p with
  | none => true
  | some x => match pfxSAllows i with
    | none => false
    | some (acq, rel, pod) =>
      (acq || pfxOrd x % 2 = 0) && (rel || pfxOrd x < 2) && (pod || pfxScope x ≠ 5)

/-- Whether every pending prefix applies to an instruction, R37. -/
def pfxOk (i : Instr) (p : Pfx) : Bool := pfxTOk i p.t && pfxCOk i p.c && pfxIOk i p.i && pfxSOk i p.s

/-- The immediate: PFX.I's bits directly above the field's, R36. -/
def immNat (p : Pfx) (w : Nat) (x : Nat) : Nat :=
  match p.i with
  | none => x
  | some h => h.toNat * 2 ^ w + x

/-- The width of the immediate after PFX.I, R36. -/
def immWidth (p : Pfx) (w : Nat) : Nat := if p.i.isSome then w + 21 else w

/-- The sign-extended immediate, R31. -/
def immInt (p : Pfx) (w : Nat) (x : Nat) : Int := sext (immNat p w x) (immWidth p w)

/-- Acquire and release that PFX.S adds, R36. -/
def pfxAcquire (p : Pfx) : Bool := match p.s with
  | some x => pfxOrd x % 2 = 1
  | none => false
def pfxRelease (p : Pfx) : Bool := match p.s with
  | some x => pfxOrd x ≥ 2
  | none => false

/-- The scope of the acquire and release that PFX.S adds, R36, R247; without it, the device. -/
def pfxScopeOf (p : Pfx) : Nat := match p.s with
  | some x => pfxScope x
  | none => 4

/-! ## Registers read and written -/

/-- The registers and predicates an instruction names as sources and as destinations, R70, R163. -/
structure Uses where
  src : List Nat := []
  dst : List Nat := []
  psrc : List Nat := []
  pdst : List Nat := []
  deriving DecidableEq, Repr

/-- Two sources, one destination. -/
def usesDAB (d a b : BitVec 6) : Uses := { src := [a.toNat, b.toNat], dst := [d.toNat] }

/-- Three sources, one of them the destination. -/
def usesDABd (d a b : BitVec 6) : Uses := { src := [a.toNat, b.toNat, d.toNat], dst := [d.toNat] }

/-- One source, one destination. -/
def usesDA (d a : BitVec 6) : Uses := { src := [a.toNat], dst := [d.toNat] }

/-- The body registers of a SEND: B + 1 as well when LEN is above 128, R152. -/
def sendBody (b : BitVec 6) (desc : Nat) : List Nat :=
  if desc % 256 > 128 ∧ b.toNat < 63 then [b.toNat, b.toNat + 1] else [b.toNat]

/-- Whether an operand record names L2, R292. -/
def recordInL2 (r : Reg) : Bool := bits r.v.toNat 127 126 = 0

/-- A record register and, for an L2 record, the register after it, R296. -/
def recordRegs (n : Nat) (r : Reg) : List Nat := if recordInL2 r ∧ n < 63 then [n, n + 1] else [n]

/-- The operand record at lanes 4k to 4k + 3 of a copy with follow-on's D, R280. -/
def followRecord (v : Vec) (k : Nat) : Reg := capReg (v.extractLsb' (128 * k) 128) false

/-- The register whose capability a follow-on's record needs, R280: the one after the CPY's field, for a record in L2. -/
def followCap (d : Reg) (k : Nat) (f : BitVec 6) : List Nat :=
  if recordInL2 (followRecord d.v k) ∧ f.toNat < 63 then [f.toNat + 1] else []

/-- The registers and predicates of an instruction; `rd` is a register's value as the instruction would read it. The
guard's predicate is added at issue. -/
def usesOf (rd : Nat → Reg) : Instr → Uses
  | .call .. => { dst := [1] }
  | .jmp _ a => { src := [a.toNat] }
  | .jmpCall _ a => { src := [a.toNat], dst := [1] }
  | .jmpRet _ => { src := [1] }
  | .loop _ d _ => { src := [d.toNat], dst := [d.toNat] }
  | .gets _ d _ | .timeGt _ d | .timeCyc _ d => { dst := [d.toNat] }
  | .sets _ d _ => { src := [d.toNat] }
  | .tlbiRange _ a b | .tlbiL1inv _ a b | .tlbiL1clean _ a b => { src := [a.toNat, b.toNat] }
  | .tlbiCtx _ b => { src := [b.toNat] }
  | .wcall .. => { src := [4], dst := [4, 5] }
  | .add _ d a b _ | .sub _ d a b _ | .mul _ d a b _ | .mulh _ d a b _ | .min _ d a b _ | .max _ d a b _
  | .absd _ d a b _ | .and _ d a b _ | .or _ d a b _ | .xor _ d a b _ | .andn _ d a b _ | .shl _ d a b _
  | .shr _ d a b _ | .rot _ d a b _ | .sel _ d a b _ | .shuf _ d a b _ | .bcast _ d a b _ | .addX _ d a b _
  | .subX _ d a b _ | .mulX _ d a b _ | .logicX _ d a b _ | .divX _ d a b _ | .laneGet _ d a b
  | .fadd _ d a b _ | .fsub _ d a b _ | .fmul _ d a b _ | .fmin _ d a b _ | .fmax _ d a b _
  | .fminp _ d a b _ | .fdiv _ d a b _ | .fscale _ d a b _ | .csetb _ d a b | .candp _ d a b | .cinc _ d a b
  | .cseal _ d a b | .cunseal _ d a b | .ctest _ d a b => usesDAB d a b
  | .lanePut _ d a b | .mad _ d a b _ | .fma _ d a b _ | .fnma _ d a b _ | .fdot2 _ d a b _ | .fdot4 _ d a b _ => usesDABd d a b
  | .addi _ d a _ | .addiX _ d a _ | .unop _ d a _ _ | .reduce _ d a _ _ | .scan _ d a _ _ | .fsqrt _ d a _
  | .ftrans _ d a _ _ | .fcvt _ d a _ _ _ | .i2f _ d a _ _ _ | .f2i _ d a _ _ _ | .fred _ d a _ _
  | .fscan _ d a _ | .cget _ d a _ | .cclr _ d a => usesDA d a
  | .funop _ d a o _ => if o = 2 then { src := [a.toNat, d.toNat], dst := [d.toNat] } else usesDA d a
  | .movi _ d _ | .movlX _ d _ => { dst := [d.toNat] }
  | .movu _ d _ => usesDA d d
  | .cmp _ _ p e a b _ | .fcmp _ _ p e a b _ =>
    { src := [a.toNat, b.toNat], psrc := [p.toNat, e.toNat], pdst := [p.toNat, e.toNat] }
  | .plogic _ d a b _ => { psrc := [a.toNat, b.toNat], pdst := [d.toNat] }
  | .pmovPred _ d a => { psrc := [a.toNat], pdst := [d.toNat] }
  | .pmovFromReg _ d a => { src := [a.toNat], pdst := [d.toNat] }
  | .pmovToReg _ d a => { psrc := [a.toNat], dst := [d.toNat] }
  | .pcnt _ d a _ => { psrc := [a.toNat], dst := [d.toNat] }
  | .ptest _ d e a _ => { psrc := [a.toNat], pdst := [d.toNat, e.toNat] }
  | .pset _ p _ _ => { pdst := [p.toNat] }
  | .ldx _ d a _ _ | .ldv _ d a _ | .ldfe _ d a _ _ | .feopLdf _ d a _ | .feopQtag _ d a | .ldt _ d a _ _
  | .rdm _ d a => usesDA d a
  | .stx _ d a _ _ | .stv _ d a _ | .stfe _ d a _ _ | .feopStf _ d a _ => { src := [a.toNat, d.toNat] }
  | .gath _ d a b _ => usesDAB d a b
  | .gathp g d a b _ => { src := [a.toNat, b.toNat], dst := [d.toNat], pdst := [g.toNat % 8] }
  | .scat _ d a b _ | .scatadd _ d a b _ => { src := [a.toNat, b.toNat, d.toNat] }
  | .feopSete _ a _ | .feopSetf _ a _ | .tkrel _ a | .pref _ a _ _ | .cpyrel _ a => { src := [a.toNat] }
  | .rdmS _ d a b => { src := [a.toNat], dst := [d.toNat, b.toNat] }
  | .atom32 _ d a b _ | .atom64 _ d a b _ => usesDAB d a b
  | .xatom g d a b t =>
    if t.toNat ≥ 6 then { src := [a.toNat, b.toNat], dst := [d.toNat], pdst := [g.toNat % 8] }
    else if t.toNat = 2 ∨ t.toNat = 3 ∨ t.toNat = 4 then usesDABd d a b
    else usesDAB d a b
  | .barFull _ a => { src := [a.toNat] }
  | .barArrive _ d a => usesDA d a
  | .barWait _ a b => { src := [a.toNat, b.toNat] }
  | .slotAlloc _ d a _ | .slotFree _ d a _ | .launch _ d a | .lctlQuery _ d a | .lctlWait _ d a => usesDA d a
  | .lctlCancel _ d a b => usesDAB d a b
  | .sendPost _ d a b | .sendReply _ d a b =>
    { src := [d.toNat, a.toNat] ++ sendBody b (scalarOf (rd d.toNat).v) }
  | .sendAck _ d a b | .sendEng _ d a b =>
    { src := [d.toNat, a.toNat] ++ sendBody b (scalarOf (rd d.toNat).v), dst := [d.toNat] }
  | .portBind _ _ b => { src := [b.toNat] }
  | .portSbind _ _ b => { src := if b.toNat < 63 then [b.toNat, b.toNat + 1] else [b.toNat] }
  | .portQlen _ d _ | .portSstat _ d _ => { dst := [d.toNat] }
  | .htabRd _ d b => { src := [b.toNat], dst := [d.toNat] }
  | .htabWr _ a b => { src := [a.toNat, b.toNat] }
  | .cpy _ d a b | .cpyLoop _ d a b | .cpyBlk _ d a b | .cpySlab _ d a b => usesDABd d a b
  | .cpyMtx _ d a b =>
    { src := [a.toNat, b.toNat, d.toNat] ++ followCap (rd d.toNat) 1 a ++ followCap (rd d.toNat) 2 b, dst := [d.toNat] }
  | .mtxMma _ _ a b | .mtxMmaz _ _ a b =>
    { src := recordRegs a.toNat (rd a.toNat) ++ recordRegs b.toNat (rd b.toNat) }
  | .mtxAccld _ _ a | .mtxAccst _ _ a | .mtxAccq _ _ a => { src := recordRegs a.toNat (rd a.toNat) }
  | .mtxAccmv _ _ a b =>
    if bit (scalarOf (rd b.toNat).v) 8 then { src := [a.toNat, b.toNat] }
    else { src := [b.toNat], dst := [a.toNat] }
  | .eregRd _ d b => { src := [b.toNat], dst := [d.toNat] }
  | .eregWr _ a b => { src := [a.toNat, b.toNat] }
  | _ => {}

/-! ## Bound ports -/

/-- A slot's port register by its number. -/
def Slot.port (x : Slot) (n : Nat) : Port := x.ports.at n {}
def Slot.setPort (x : Slot) (n : Nat) (p : Port) : Slot := { x with ports := x.ports.set n p }

/-- The number of strips of a stream, R285. -/
def Stream.total (t : Stream) : Nat := ceilDiv (t.cnt.foldl (· * ·) 1) t.strip

/-- Whether every strip of a stream has been popped, R283. -/
def Port.exhausted (p : Port) : Bool :=
  match p.stream with
  | some t => t.popped = t.total
  | none => false

/-- Whether a register is a bound port, R163. -/
def Slot.bound (x : Slot) (r : Nat) : Bool := r ≥ 56 && (x.port (r - 56)).mode != 0

/-- The distinct bound ports among source registers, as port numbers. -/
def Slot.boundSources (x : Slot) (src : List Nat) : List Nat :=
  ((src.filter x.bound).map (· - 56)).dedup

/-- The entry a pop would take, R163, R285: none where the instruction stalls. -/
def Port.next? (p : Port) : Option PortEntry :=
  match p.fifo with
  | e :: _ => some e
  | [] => if p.exhausted then some {} else none

/-- A register's value as an instruction would read it: a bound port's next entry, R163. -/
def Slot.peek (x : Slot) (r : Nat) : Reg :=
  if x.bound r then
    match (x.port (r - 56)).next? with
    | some e => { v := e.v, tag := e.tag }
    | none => x.arch.reg r
  else x.arch.reg r

/-- A port after its pop. -/
def Port.popped (p : Port) : Port :=
  if p.fifo.isEmpty then p
  else
    let st := p.stream.map (fun t => ({ t with popped := t.popped + 1 } : Stream))
    { p with fifo := p.fifo.tail, stream := st }

/-- A slot after one port's pop: the entry stands in the register, R163. -/
def Slot.pop (x : Slot) (q : Nat) : Slot :=
  let r := x.peek (56 + q)
  let y := x.setPort q (x.port q).popped
  { y with arch := x.arch.setReg (56 + q) r }

/-- The fault of the first marked strip among the ports to pop, R286. -/
def Slot.popFault (x : Slot) (qs : List Nat) : Option (Nat × Nat × Nat) :=
  qs.findSome? (fun q => match (x.port q).next? with
    | some e => e.err.map (fun c => (q, c.1, c.2))
    | none => none)

/-- Why a value among source registers does not come as it was written: the first register whose stored bits cannot be
corrected (R431), or the first marked strip with its cause and address (R286). -/
inductive Unreadable where
  | reg (r : Nat)
  | strip (q cause va : Nat)
  deriving DecidableEq, Repr

/-- The first source of an instruction that cannot be read. -/
def Slot.unreadable (x : Slot) (src : List Nat) : Option Unreadable :=
  match src.find? x.badRegs.contains, x.popFault (x.boundSources src) with
  | some r, _ => some (.reg r)
  | none, some (q, cause, va) => some (.strip q cause va)
  | none, none => none

/-! ## Issue -/

/-- What an instruction's effect may look at: where it stands, its guard, its prefixes, and the registers as it reads
them, R70. -/
structure Env where
  core : Nat
  slot : Nat
  big : Bool
  word : IWord
  pc : Word
  first : Word
  mask : Word
  pfx : Pfx
  a : Arch
  sl : Slot
  deriving DecidableEq, Repr

/-- Whether a destination is a register or predicate that is stored: v0 and p7 are never pending. -/
def Dest.real : Dest → Bool
  | .reg n => n != 0
  | .pred p => p != 7

/-- A destination is outstanding on the scoreboard. -/
def Slot.pending (x : Slot) (d : Dest) : Bool := x.board.any (fun e => e.1 == d)

/-- The pending destinations that an instruction reads or writes; v0 and p7 are never pending. -/
def Slot.blockers (x : Slot) (u : Uses) (gp : Nat) : List Nat :=
  (x.board.filter (fun e => match e.1 with
    | .reg n => u.src.contains n || u.dst.contains n
    | .pred p => (gp :: u.psrc).contains p || u.pdst.contains p)).map (·.2)

/-- Whether one of an operation's elements is parked, R223. -/
def State.opParked (s : State) (id : Nat) : Bool :=
  match s.ops.look id with
  | some o => o.elems.any (fun e => e.stage == .parked)
  | none => false

/-- Whether an instruction stalls while a guest result of its task is outstanding, R173; float types decide whether it
ships. -/
def stallsInWindow (ships : Bool) : Instr → Bool
  | .ldx .. | .stx .. | .ldv .. | .stv .. | .gath .. | .gathp .. | .scat .. | .ldfe .. | .stfe .. | .feopLdf ..
  | .feopStf .. | .feopSete .. | .feopSetf .. | .feopQtag .. | .ldt .. | .rdm .. | .rdmS .. | .tkrel .. | .pref ..
  | .fence .. | .atom32 .. | .atom64 .. | .xatom .. | .scatadd .. | .barFull .. | .barArrive .. | .barWait ..
  | .slotAlloc .. | .slotFree .. | .launch .. | .lctlCancel .. | .lctlQuery .. | .lctlWait .. | .sendPost ..
  | .sendAck .. | .sendReply .. | .sendEng .. | .portBind .. | .portUnbind .. | .portQlen .. | .portSbind ..
  | .portSrel .. | .portSstat .. | .htabRd .. | .htabWr .. | .cpy .. | .cpyLoop .. | .cpyrel .. | .cpyMtx ..
  | .cpyBlk .. | .cpySlab .. | .mtxMma .. | .mtxMmaz .. | .mtxAccld .. | .mtxAccst .. | .mtxAccmv .. | .mtxCodeb ..
  | .mtxAccq .. | .mtxAccfree .. | .eregRd .. | .eregWr .. | .gets .. | .sets .. | .trap .. | .brk .. | .eret ..
  | .endTask .. | .wait .. | .wcall .. | .tlbiRange .. | .tlbiCtx .. | .tlbiL1inv .. | .tlbiL1clean ..
  | .tlbiPart .. => true
  | _ => ships

/-- Whether a little core ships an instruction, R35. -/
def shipped : Instr → Bool
  | .fdiv .. | .fsqrt .. | .ftrans .. | .mtxMma .. | .mtxMmaz .. | .mtxAccld .. | .mtxAccst .. | .mtxAccmv ..
  | .mtxCodeb .. | .mtxAccq .. | .mtxAccfree .. => true
  | .xatom _ _ _ _ t => t == 4
  | .fadd _ _ _ _ t | .fsub _ _ _ _ t | .fmul _ _ _ _ t | .fma _ _ _ _ t | .fnma _ _ _ _ t | .fmin _ _ _ _ t
  | .fmax _ _ _ _ t | .fminp _ _ _ _ t | .funop _ _ _ _ t | .fscale _ _ _ _ t | .fred _ _ _ _ t
  | .fscan _ _ _ t => t == 3
  | .fcmp _ _ _ _ _ _ t => t == 3
  | .fcvt _ _ _ _ dst src => dst == 3 || src == 3
  | .i2f _ _ _ _ _ dst => dst == 3
  | .f2i _ _ _ _ _ src => src == 3
  | _ => false

/-- The result of an issue attempt that ended without the instruction's effect: a fault inside a carry-ahead window waits
for the guest (R174); otherwise the trap path with TPC at the first prefix of the run (R38, R320); or a stall, for a page walk
with a request for it (R204). -/
def State.leave (s : State) (first : Word) : Exit → Host.Outcome State Fault Refusal
  | .trap code tval qual =>
    if s.me.ship.isSome then .next (s.updMe (fun x => x.stalls .guest s.now))
    else .next (s.enterTrap s.cur.core s.cur.slot code tval qual false 0 first)
  | .wait why => .next (s.updMe (fun x => x.stalls why s.now))
  | .walk a x => .next ((s.wantWalk a x).updMe (fun y => y.stalls .walk s.now))

/-- The pop of a marked strip faults and pops nothing; the engine fetches the same strip again, R286. -/
def State.refetch (s : State) (q : Nat) : State :=
  let t := s.updMe (fun x =>
    let p := x.port q
    x.setPort q { p with fifo := [], stream := p.stream.map (fun m => { m with next := m.popped, halted := false }) })
  t.push (.streamStripArrival s.cur.core s.cur.slot q)

/-- What an issue does beside the instruction's effect: a drowsy bank wakes (R365), and the watchdog count of the task's
gang returns to zero (R328). -/
def State.issued (s : State) (g : Option Nat) : State :=
  let s := s.wakeBank s.cur.core s.cur.slot
  match g with
  | none => s
  | some k => match s.gangs.look k with
    | none => s
    | some x => { s with gangs := s.gangs.set k { x with idleSince := s.gt } }

/-- One more instruction in the carry-ahead window, R172. -/
def Slot.counted (x : Slot) (popped : List (Nat × PortEntry)) : Slot :=
  let sh := x.ship.map (fun w => ({ w with count := w.count + 1, popped := w.popped ++ popped } : Ship))
  { x with wait := none, ship := sh }

/-- The slot past an instruction: the pc advanced by 4 and the prefixes consumed, R29, R37. -/
def Slot.advanced (x : Slot) : Slot :=
  { x with arch := (x.arch.setPc (x.arch.pc + 4)).dropPfx }

/-- The stall of an instruction whose guard cannot be decided yet: the guard's predicate, or the selector that names the
governing bit (R96), is outstanding (R172) or is a bound port that is empty (R163) or that no window pops (R173). -/
def Slot.guardStall (x : Slot) (parked : Nat → Bool) (reads : List Nat) (gp : Nat) : Option Stall :=
  let late := x.blockers { src := reads } gp
  let qs := x.boundSources reads
  if late ≠ [] then some (if late.any parked then .parked else .scoreboard)
  else if x.ship.isSome ∧ qs ≠ [] then some .guest
  else if qs.any (fun q => ((x.port q).next?).isNone) then some .port
  else none

/-- The fault of an instruction whose checks passed and that reads a source it cannot read, R286, R431. -/
def State.unreadableTrap (s : State) (first : Word) : Unreadable → Host.Outcome State Fault Refusal
  | .reg r => s.leave first (.trap causeData (0x2000 * s.cur.slot + 0x80 * r) 0)
  | .strip q cause va => (s.refetch q).leave first (.trap cause va 1)

/-- The issue of an instruction that is no prefix, R37, R39, R40, R163, R172 to R174: `body` is the instruction's
privilege check, operand checks and effect (steps 3 to 5 of R40), from the state in which the pc has advanced, the
prefixes are consumed and the ports popped. A source that cannot be read faults at step 5, after those checks. -/
def State.issue (s : State) (i : Instr) (body : Env → State → Except Exit State) : Host.Outcome State Fault Refusal :=
  let x := s.me
  if !s.mayIssue s.cur.core s.cur.slot then .next s
  else
    let a := x.arch
    let pc := a.pc
    let first := (match a.pfx.first with
      | some p => p
      | none => pc)
    let word := (encode i).getD 0
    let g := (i.guard?).getD 7
    let big := isBig s.cur.core
    if i.defect.isSome ∨ !pfxOk i a.pfx then s.leave first (.trap causeIllegal word.toNat 0)
    else
      let u := usesOf x.peek i
      let gp := g.toNat % 8
      let gv := governsOf i
      match x.guardStall s.opParked gv.reads gp with
      | some why => s.leave first (.wait why)
      | none =>
        let mask := a.guardMask g
        let full : Bool := (match x.ship with
          | some sh => decide (sh.count ≥ 16)
          | none => false)
        if guardedOff gv mask x.peek ∧ (x.unreadable gv.reads).isNone then
          if full then s.leave first (.wait .guest)
          else .next ((s.updMe (fun y => (y.advanced).counted [])).issued x.gangId)
        else
          let qs := x.boundSources u.src
          let blocked := x.blockers u gp
          if x.ship.isSome ∧ (full ∨ stallsInWindow (shipped i && !big) i ∨ qs ≠ []) then
            s.leave first (.wait .guest)
          else if blocked ≠ [] then s.leave first (.wait (if blocked.any s.opParked then .parked else .scoreboard))
          else if qs.any (fun q => ((x.port q).next?).isNone) then s.leave first (.wait .port)
          else
            let popped := qs.filterMap (fun q => ((x.port q).fifo.head?).map (fun e => (q, e)))
            let y := qs.foldl (fun z q => z.pop q) { x with badRegs := if writesWhole i mask then x.badRegs.filter (fun r => !u.dst.contains r) else x.badRegs }
            let env : Env := ⟨s.cur.core, s.cur.slot, big, word, pc, first, mask, a.pfx, y.arch, x⟩
            match body env ((s.updMe (fun _ => y.advanced.counted popped)).issued x.gangId), x.unreadable u.src with
            | .error e, _ => s.leave first e
            | .ok _, some w => s.unreadableTrap first w
            | .ok s', none => .next s'

/-- An instruction whose effect lies in its task's registers and flags alone, and that takes no fault. -/
def State.issueRegs (s : State) (i : Instr) (f : Env → (Arch → Arch) × Flags) : Host.Outcome State Fault Refusal :=
  s.issue i (fun e t => .ok ((t.updArch (f e).1).raise (f e).2))

/-- A prefix, R36 to R38: its payload becomes pending and SR.PP is set; a kind already pending is an illegal-instruction
fault. -/
def State.issuePrefix (s : State) (i : Instr) (pend : Pfx → Option (BitVec 21)) (hold : Pfx → Pfx) :
    Host.Outcome State Fault Refusal :=
  let x := s.me
  if !s.mayIssue s.cur.core s.cur.slot then .next s
  else
    let a := x.arch
    let first := (match a.pfx.first with
      | some p => p
      | none => a.pc)
    if i.defect.isSome ∨ (pend a.pfx).isSome then
      s.leave first (.trap causeIllegal ((encode i).getD 0).toNat 0)
    else
      let p := { hold a.pfx with first := some first }
      let b := { (a.setPc (a.pc + 4)).setPp true with pfx := p }
      .next ((s.updMe (fun y => { y with wait := none, arch := b })).issued x.gangId)

end Sys2Proof.Machine
end

