-- ==== Sys2Proof/Machine/Integer.lean ====
section
/-!
DEFINITION. Integer and address arithmetic, R84 to R96.
-/

namespace Sys2Proof.Machine

/-- A register's bits as an instruction reads them. -/
def Env.v (e : Env) (n : BitVec 6) : Vec := (e.a.reg n.toNat).v

/-- The scalar view of a register as an instruction reads it, R9. -/
def Env.x (e : Env) (n : BitVec 6) : Nat := scalarOf (e.v n)

/-- A register with its enabled elements replaced, R29. -/
def mapEnabled (m : Word) (w : Nat) (old : Vec) (f : Nat → Nat) : Vec :=
  updElems old w (fun j => if enabled m w j then some (f j) else none)

/-- An instruction that writes one data register. -/
def State.issueVec (s : State) (i : Instr) (d : BitVec 6) (f : Env → Vec) : Host.Outcome State Fault Refusal :=
  s.issueRegs i (fun e => (fun r => r.setVec d.toNat (f e), 0))

/-- An instruction that writes one scalar, R9. -/
def State.issueScalar (s : State) (i : Instr) (d : BitVec 6) (f : Env → Nat) : Host.Outcome State Fault Refusal :=
  s.issueVec i d (fun e => scalarVec (f e))

/-- A two-source integer instruction, R84: its element function takes the elements of vA, vB and old vD. -/
def State.issueInt (s : State) (i : Instr) (d a b : BitVec 6) (t : BitVec 3) (f : Nat → Nat → Nat → Nat) :
    Host.Outcome State Fault Refusal :=
  let w := intWidth t
  s.issueVec i d (fun e => mapEnabled e.mask w (e.v d) (fun j => f (elem (e.v a) w j) (elem (e.v b) w j) (elem (e.v d) w j)))

/-- An element read by a type's signedness, R50. -/
def typed (t : BitVec 3) (x : Nat) : Int := readInt (intSigned t) (intWidth t) x

/-- A difference reduced modulo 2^w. -/
def subMod (w x y : Nat) : Nat := wrap ((x : Int) - y) w

/-- The high w bits of the exact product, by signedness, R84. -/
def mulHigh (signed : Bool) (w x y : Nat) : Nat := wrap (readInt signed w x * readInt signed w y / ((2 ^ w : Nat) : Int)) w

/-- Shifts and rotates of w bits, R85: an amount of w or more gives 0, or copies of the sign bit. -/
def shiftLeft (w x k : Nat) : Nat := if k ≥ w then 0 else x * 2 ^ k % 2 ^ w
def shiftRight (w x k : Nat) : Nat := if k ≥ w then 0 else x / 2 ^ k
def shiftArith (w x k : Nat) : Nat := wrap (sext x w / ((2 ^ min k w : Nat) : Int)) w
def rotateLeft (w x k : Nat) : Nat :=
  let r := k % w
  (x * 2 ^ r) % 2 ^ w + x / 2 ^ (w - r)

/-- NOT of w bits. -/
def notBits (w x : Nat) : Nat := 2 ^ w - 1 - x % 2 ^ w

/-- a AND NOT b. -/
def andNot (w x y : Nat) : Nat := x &&& notBits w y

/-- ADD, R84. -/
def execAdd (g : BitVec 4) (d a b : BitVec 6) (t : BitVec 3) (s : State) : Host.Outcome State Fault Refusal :=
  s.issueInt (.add g d a b t) d a b t (fun x y _ => x + y)

/-- SUB, R84. -/
def execSub (g : BitVec 4) (d a b : BitVec 6) (t : BitVec 3) (s : State) : Host.Outcome State Fault Refusal :=
  s.issueInt (.sub g d a b t) d a b t (fun x y _ => subMod (intWidth t) x y)

/-- MUL, R84. -/
def execMul (g : BitVec 4) (d a b : BitVec 6) (t : BitVec 3) (s : State) : Host.Outcome State Fault Refusal :=
  s.issueInt (.mul g d a b t) d a b t (fun x y _ => x * y)

/-- MULH, R84. -/
def execMulh (g : BitVec 4) (d a b : BitVec 6) (t : BitVec 3) (s : State) : Host.Outcome State Fault Refusal :=
  s.issueInt (.mulh g d a b t) d a b t (fun x y _ => mulHigh (intSigned t) (intWidth t) x y)

/-- MAD, R84. -/
def execMad (g : BitVec 4) (d a b : BitVec 6) (t : BitVec 3) (s : State) : Host.Outcome State Fault Refusal :=
  s.issueInt (.mad g d a b t) d a b t (fun x y z => z + x * y)

/-- MIN, R84. -/
def execMin (g : BitVec 4) (d a b : BitVec 6) (t : BitVec 3) (s : State) : Host.Outcome State Fault Refusal :=
  s.issueInt (.min g d a b t) d a b t (fun x y _ => if typed t x ≤ typed t y then x else y)

/-- MAX, R84. -/
def execMax (g : BitVec 4) (d a b : BitVec 6) (t : BitVec 3) (s : State) : Host.Outcome State Fault Refusal :=
  s.issueInt (.max g d a b t) d a b t (fun x y _ => if typed t x ≤ typed t y then y else x)

/-- ABSD, R84. -/
def execAbsd (g : BitVec 4) (d a b : BitVec 6) (t : BitVec 3) (s : State) : Host.Outcome State Fault Refusal :=
  s.issueInt (.absd g d a b t) d a b t (fun x y _ => (typed t x - typed t y).natAbs)

/-- AND, R84. -/
def execAnd (g : BitVec 4) (d a b : BitVec 6) (t : BitVec 3) (s : State) : Host.Outcome State Fault Refusal :=
  s.issueInt (.and g d a b t) d a b t (fun x y _ => x &&& y)

/-- OR, R84. -/
def execOr (g : BitVec 4) (d a b : BitVec 6) (t : BitVec 3) (s : State) : Host.Outcome State Fault Refusal :=
  s.issueInt (.or g d a b t) d a b t (fun x y _ => x ||| y)

/-- XOR, R84. -/
def execXor (g : BitVec 4) (d a b : BitVec 6) (t : BitVec 3) (s : State) : Host.Outcome State Fault Refusal :=
  s.issueInt (.xor g d a b t) d a b t (fun x y _ => x ^^^ y)

/-- ANDN, R84. -/
def execAndn (g : BitVec 4) (d a b : BitVec 6) (t : BitVec 3) (s : State) : Host.Outcome State Fault Refusal :=
  s.issueInt (.andn g d a b t) d a b t (fun x y _ => andNot (intWidth t) x y)

/-- SHL, R85. -/
def execShl (g : BitVec 4) (d a b : BitVec 6) (t : BitVec 3) (s : State) : Host.Outcome State Fault Refusal :=
  s.issueInt (.shl g d a b t) d a b t (fun x y _ => shiftLeft (intWidth t) x y)

/-- SHR, R85: logical for n-types, arithmetic for i-types. -/
def execShr (g : BitVec 4) (d a b : BitVec 6) (t : BitVec 3) (s : State) : Host.Outcome State Fault Refusal :=
  s.issueInt (.shr g d a b t) d a b t (fun x y _ =>
    if intSigned t then shiftArith (intWidth t) x y else shiftRight (intWidth t) x y)

/-- ROT, R85. -/
def execRot (g : BitVec 4) (d a b : BitVec 6) (t : BitVec 3) (s : State) : Host.Outcome State Fault Refusal :=
  s.issueInt (.rot g d a b t) d a b t (fun x y _ => rotateLeft (intWidth t) x y)

/-- ADDI, R86. -/
def execAddi (g : BitVec 4) (d a : BitVec 6) (i : BitVec 9) (s : State) : Host.Outcome State Fault Refusal :=
  s.issueVec (.addi g d a i) d (fun e => mapEnabled e.mask 32 (e.v d) (fun j =>
    wrap ((elem (e.v a) 32 j : Int) + immInt e.pfx 9 i.toNat) 32))

/-- The element operations of UNOP, R88: 0 not, 1 neg, 2 abs, 3 clz, 4 popc, 5 brev, 6 bswap. -/
def unopElem (t : BitVec 3) (o x : Nat) : Nat :=
  let w := intWidth t
  match o with
  | 0 => notBits w x
  | 1 => subMod w 0 x
  | 2 => if typed t x < 0 then subMod w 0 x else x
  | 3 => clz w x
  | 4 => popCount x w
  | 5 => reverseBits w x
  | _ => reverseBytes w x

/-- UNOP, R88: SEXT and ZEXT widen the low half of vA from w to 2w. -/
def execUnop (g : BitVec 4) (d a o : BitVec 6) (t : BitVec 3) (s : State) : Host.Outcome State Fault Refusal :=
  s.issueVec (.unop g d a o t) d (fun e =>
    let w := intWidth t
    if o.toNat ≥ 7 then
      mapEnabled e.mask (2 * w) (e.v d) (fun j => wrap (readInt (o == 7) w (elem (e.v a) w j)) (2 * w))
    else mapEnabled e.mask w (e.v d) (fun j => unopElem t o.toNat (elem (e.v a) w j)))

/-- SEL, R89. -/
def execSel (g : BitVec 4) (d a b : BitVec 6) (t : BitVec 3) (s : State) : Host.Outcome State Fault Refusal :=
  s.issueVec (.sel g d a b t) d (fun e =>
    let w := intWidth t
    ofElems w (fun j => if enabled e.mask w j then elem (e.v a) w j else elem (e.v b) w j))

/-- An element by an index, zero outside the register, R90. -/
def pick (v : Vec) (w k : Nat) : Nat := if k < 1024 / w then elem v w k else 0

/-- SHUF, R90. -/
def execShuf (g : BitVec 4) (d a b : BitVec 6) (t : BitVec 3) (s : State) : Host.Outcome State Fault Refusal :=
  s.issueVec (.shuf g d a b t) d (fun e =>
    let w := intWidth t
    mapEnabled e.mask w (e.v d) (fun j => pick (e.v a) w (elem (e.v b) w j)))

/-- BCAST, R90. -/
def execBcast (g : BitVec 4) (d a b : BitVec 6) (t : BitVec 3) (s : State) : Host.Outcome State Fault Refusal :=
  s.issueVec (.bcast g d a b t) d (fun e =>
    let w := intWidth t
    mapEnabled e.mask w (e.v d) (fun _ => pick (e.v a) w (e.x b)))

/-- The operations of REDUCE and SCAN, R91: 0 add, 1 min, 2 max, 3 and, 4 or, 5 xor. -/
def combineInt (t : BitVec 3) (o x y : Nat) : Nat :=
  match o with
  | 0 => (x + y) % 2 ^ intWidth t
  | 1 => if typed t x ≤ typed t y then x else y
  | 2 => if typed t x ≤ typed t y then y else x
  | 3 => x &&& y
  | 4 => x ||| y
  | _ => x ^^^ y

/-- The combination of a list of elements; zero for none. -/
def combineAll (t : BitVec 3) (o : Nat) : List Nat → Nat
  | [] => 0
  | x :: r => r.foldl (combineInt t o) x

/-- The enabled elements of a register with index below n, R91. -/
def enabledBelow (m : Word) (v : Vec) (w n : Nat) : List Nat :=
  ((List.range n).filter (enabled m w)).map (elem v w)

/-- REDUCE, R91. -/
def execReduce (g : BitVec 4) (d a o : BitVec 6) (t : BitVec 3) (s : State) : Host.Outcome State Fault Refusal :=
  s.issueVec (.reduce g d a o t) d (fun e =>
    let w := intWidth t
    BitVec.ofNat 1024 (combineAll t o.toNat (enabledBelow e.mask (e.v a) w (1024 / w))))

/-- SCAN, R91. -/
def execScan (g : BitVec 4) (d a o : BitVec 6) (t : BitVec 3) (s : State) : Host.Outcome State Fault Refusal :=
  s.issueVec (.scan g d a o t) d (fun e =>
    let w := intWidth t
    mapEnabled e.mask w (e.v d) (fun j => combineAll t o.toNat (enabledBelow e.mask (e.v a) w (j + 1))))

/-- MOVI, R87. -/
def execMovi (g : BitVec 4) (d : BitVec 6) (i : BitVec 15) (s : State) : Host.Outcome State Fault Refusal :=
  s.issueVec (.movi g d i) d (fun e => mapEnabled e.mask 32 (e.v d) (fun _ => wrap (immInt e.pfx 15 i.toNat) 32))

/-- MOVU, R87. -/
def execMovu (g : BitVec 4) (d : BitVec 6) (i : BitVec 15) (s : State) : Host.Outcome State Fault Refusal :=
  s.issueVec (.movu g d i) d (fun e => mapEnabled e.mask 32 (e.v d) (fun j =>
    i.toNat * 2 ^ 17 + elem (e.v d) 32 j % 2 ^ 17))

/-! ## The scalar group -/

/-- The low w bits of a result extended to 64 bits by T's signedness, R92. -/
def extendTo64 (t : BitVec 3) (x : Int) : Nat := wrap (readInt (intSigned t) (intWidth t) (wrap x (intWidth t))) 64

/-- ADD.X, R92. -/
def execAddX (g : BitVec 4) (d a b : BitVec 6) (t : BitVec 3) (s : State) : Host.Outcome State Fault Refusal :=
  s.issueScalar (.addX g d a b t) d (fun e => extendTo64 t ((e.x a : Int) + e.x b))

/-- SUB.X, R92. -/
def execSubX (g : BitVec 4) (d a b : BitVec 6) (t : BitVec 3) (s : State) : Host.Outcome State Fault Refusal :=
  s.issueScalar (.subX g d a b t) d (fun e => extendTo64 t ((e.x a : Int) - e.x b))

/-- MUL.X, R93. -/
def execMulX (g : BitVec 4) (d a b : BitVec 6) (t : BitVec 3) (s : State) : Host.Outcome State Fault Refusal :=
  s.issueScalar (.mulX g d a b t) d (fun e =>
    if t.toNat ≤ 1 then e.x a * e.x b else mulHigh (t == 2) 64 (e.x a) (e.x b))

/-- ADDI.X, R94. -/
def execAddiX (g : BitVec 4) (d a : BitVec 6) (i : BitVec 9) (s : State) : Host.Outcome State Fault Refusal :=
  s.issueScalar (.addiX g d a i) d (fun e => wrap ((e.x a : Int) + immInt e.pfx 9 i.toNat) 64)

/-- The operations of LOGIC.X, R94: and, or, xor, andn, shl, shr, sha, rot. -/
def logicOp (t x y : Nat) : Nat :=
  match t with
  | 0 => x &&& y
  | 1 => x ||| y
  | 2 => x ^^^ y
  | 3 => andNot 64 x y
  | 4 => shiftLeft 64 x y
  | 5 => shiftRight 64 x y
  | 6 => shiftArith 64 x y
  | _ => rotateLeft 64 x y

/-- LOGIC.X, R94. -/
def execLogicX (g : BitVec 4) (d a b : BitVec 6) (t : BitVec 3) (s : State) : Host.Outcome State Fault Refusal :=
  s.issueScalar (.logicX g d a b t) d (fun e => logicOp t.toNat (e.x a) (e.x b))

/-- Quotients and remainders of DIV.X with their three fixed cases, R95: div, div.n, rem, rem.n. -/
def divOp (t x y : Nat) : Nat :=
  match t with
  | 0 => if y = 0 then 2 ^ 64 - 1 else wrap (Int.tdiv (sext x 64) (sext y 64)) 64
  | 1 => if y = 0 then 2 ^ 64 - 1 else x / y
  | 2 => if y = 0 then x else wrap (Int.tmod (sext x 64) (sext y 64)) 64
  | _ => if y = 0 then x else x % y

/-- DIV.X, R95. -/
def execDivX (g : BitVec 4) (d a b : BitVec 6) (t : BitVec 3) (s : State) : Host.Outcome State Fault Refusal :=
  s.issueScalar (.divX g d a b t) d (fun e => divOp t.toNat (e.x a) (e.x b))

/-- MOVL.X, R87. -/
def execMovlX (g : BitVec 4) (d : BitVec 6) (i : BitVec 15) (s : State) : Host.Outcome State Fault Refusal :=
  s.issueScalar (.movlX g d i) d (fun e => wrap (immInt e.pfx 15 i.toNat) 64)

/-- LANE.GET, R96. -/
def execLaneGet (g : BitVec 4) (d a b : BitVec 6) (s : State) : Host.Outcome State Fault Refusal :=
  s.issueScalar (.laneGet g d a b) d (fun e => elem (e.v a) 64 (e.x b % 16))

/-- LANE.PUT, R96. -/
def execLanePut (g : BitVec 4) (d a b : BitVec 6) (s : State) : Host.Outcome State Fault Refusal :=
  s.issueVec (.lanePut g d a b) d (fun e => setElem (e.v d) 64 (e.x b % 16) (e.x a))

end Sys2Proof.Machine
end

