-- ==== Sys2Proof/Machine/CapOps.lean ====
section
/-!
DEFINITION. The capability instructions, R110 to R115.
-/

namespace Sys2Proof.Machine

/-- The capability and tag of a register as an instruction reads it. -/
def Env.c (e : Env) (n : BitVec 6) : Cap := (e.a.reg n.toNat).cap
def Env.tag (e : Env) (n : BitVec 6) : Bool := (e.a.reg n.toNat).tag

/-- A source that must be derivable, R110. -/
def needDerivable (tag : Bool) (c : Cap) : Except Exit Unit := do
  check tag causeTag c.addr.toNat
  check (c.otype == 0) causeSeal c.addr.toNat

/-- CGET, R111: addr, base, len, perm, otype, tag. The spec does not say what base and len are where an untagged source decodes to
a base or a length that n64 cannot hold: they are reduced modulo 2^64 (DESIGN CHOICE, assumption 96). -/
def execCget (g : BitVec 4) (d a b : BitVec 6) (s : State) : Host.Outcome State Fault Refusal :=
  s.issueScalar (.cget g d a b) d (fun e =>
    let c := e.c a
    match b.toNat with
    | 0 => c.addr.toNat
    | 1 => wrap c.base 64
    | 2 => c.lengthField
    | 3 => c.perm.toNat
    | 4 => c.otype.toNat
    | _ => b2n (e.tag a))

/-- CSETB, R112. -/
def execCsetb (g : BitVec 4) (d a b : BitVec 6) (s : State) : Host.Outcome State Fault Refusal :=
  s.issue (.csetb g d a b) (fun e t => do
    let c := e.c a
    needDerivable (e.tag a) c
    match c.setBounds (e.x b) with
    | none => faultAt causeBounds c.addr.toNat
    | some k => .ok (t.updArch (fun r => r.writeCap d.toNat k.toBits)))

/-- CANDP, R113: the reserved permission bits stay zero. -/
def execCandp (g : BitVec 4) (d a b : BitVec 6) (s : State) : Host.Outcome State Fault Refusal :=
  s.issue (.candp g d a b) (fun e t => do
    let c := e.c a
    needDerivable (e.tag a) c
    let p := c.perm &&& BitVec.ofNat 16 (e.x b) &&& 0x7FF
    .ok (t.updArch (fun r => r.writeCap d.toNat { c with perm := p }.toBits)))

/-- CINC, R113: untagged where the new address is not representable. -/
def execCinc (g : BitVec 4) (d a b : BitVec 6) (s : State) : Host.Outcome State Fault Refusal :=
  s.issue (.cinc g d a b) (fun e t => do
    let c := e.c a
    needDerivable (e.tag a) c
    let x := wrap ((c.addr.toNat : Int) + sext (e.x b) 64) 64
    .ok (t.updArch (fun r => r.setReg d.toNat (capReg (c.withAddr x).toBits (c.representable x)))))

/-- Checks 1 to 4 of R114 on the authority. -/
def authority (tag : Bool) (c : Cap) (p : Perm) : Except Exit Unit := do
  check tag causeTag c.addr.toNat
  check (c.otype == 0) causeSeal c.addr.toNat
  check (c.has p) causePerm c.addr.toNat
  check (c.covers c.addr.toNat 1) causeBounds c.addr.toNat

/-- CSEAL, R114. -/
def execCseal (g : BitVec 4) (d a b : BitVec 6) (s : State) : Host.Outcome State Fault Refusal :=
  s.issue (.cseal g d a b) (fun e t => do
    let c := e.c a
    let k := e.c b
    let o := k.addr.toNat
    authority (e.tag b) k .seal
    check (e.tag a) causeTag c.addr.toNat
    check (c.otype == 0) causeSeal c.addr.toNat
    check (o != 0 && decide (o < 65536)) causeBounds o
    check (!(o == 1 || o == 2) || e.a.sup) causePrivilege o
    .ok (t.updArch (fun r => r.writeCap d.toNat { c with otype := BitVec.ofNat 16 o }.toBits)))

/-- CUNSEAL, R114. -/
def execCunseal (g : BitVec 4) (d a b : BitVec 6) (s : State) : Host.Outcome State Fault Refusal :=
  s.issue (.cunseal g d a b) (fun e t => do
    let c := e.c a
    let k := e.c b
    let o := k.addr.toNat
    authority (e.tag b) k .unsl
    check (e.tag a) causeTag c.addr.toNat
    check (c.otype != 0) causeSeal c.addr.toNat
    check (o == c.otype.toNat && o != 1) causeSeal c.addr.toNat
    check (o != 2 || e.a.sup) causePrivilege o
    .ok (t.updArch (fun r => r.writeCap d.toNat { c with otype := 0 }.toBits)))

/-- CTEST, R115. -/
def execCtest (g : BitVec 4) (d a b : BitVec 6) (s : State) : Host.Outcome State Fault Refusal :=
  s.issueScalar (.ctest g d a b) d (fun e =>
    let c := e.c a
    let k := e.c b
    b2n (e.tag a && e.tag b && k.otype == 0 && decide (c.base ≥ k.base) && decide (c.top ≤ k.top) &&
      c.perm &&& ~~~k.perm == 0))

/-- CCLR, R115. -/
def execCclr (g : BitVec 4) (d a : BitVec 6) (s : State) : Host.Outcome State Fault Refusal :=
  s.issueVec (.cclr g d a) d (fun e => e.v a)

end Sys2Proof.Machine
end

