-- ==== Sys2Proof/Machine/Convert.lean ====
section
/-!
DEFINITION. Conversions of one element (R59 to R62) and the fields of a parameter record (R53).
-/

namespace Sys2Proof.Machine

/-- The bits of a clamp bound in a parameter record, by destination format: place and width, R53; f64 has none. -/
def boundPlace : Nat → Option (Nat × Nat)
  | 0 => some (256, 16)
  | 1 => some (272, 16)
  | 2 => some (288, 32)
  | 4 => some (320, 8)
  | 5 => some (328, 8)
  | _ => none

/-- The bound field of a record for a destination code, R53. -/
def recordBound (rec : Nat) (dst : Nat) : Nat :=
  match boundPlace dst with
  | some (lo, w) => bits rec (lo + w - 1) lo
  | none => 0

/-- PAD[447:384] of a record, R53. -/
def recordPad (rec : Nat) : Nat := bits rec 447 384

/-- CB[255:0] of a record: entry i of the codebook, R53. -/
def recordCodebook (rec : Nat) : Nat := rec % 2 ^ 256

/-- A bound is valid when it encodes a finite value with sign 0, R53. -/
def validBound (f : Fmt) (b : Nat) : Bool := b ≤ f.maxFinite

/-- Whether one format's largest finite value is smaller than another's, R59. -/
def smallerRange (dst src : Fmt) : Bool := FVal.lt false (dst.decode dst.maxFinite) (src.decode src.maxFinite)

/-- A NaN converted to a float format, R60. -/
def nanTo (dst : Fmt) (signalling : Bool) : FRes :=
  if dst.special then dst.nanRes signalling else { bits := 0, flags := Flags.nv }

/-- A finite value converted with clamping at a bound, R59. -/
def clampFin (dst : Fmt) (rm : Rm) (bound : Nat) (neg : Bool) (m : Nat) (e : Int) : FRes :=
  if m = 0 then dst.zeroRes neg
  else
    let r := dst.roundMag (dst.m + 1) rm neg m e
    if r.overflow || r.enc > bound then
      { bits := dst.signed neg bound, flags := Flags.nx ||| Flags.when r.overflow Flags.of }
    else { bits := dst.signed neg r.enc,
           flags := Flags.when r.inexact Flags.nx ||| Flags.when (r.inexact && r.tiny) Flags.uf }

/-- A conversion to a float format: clamping at a bound, or not, R59, R60. -/
def toFloat (dst : Fmt) (rm : Rm) (bound : Option Nat) (x : FVal) : FRes :=
  match x with
  | .nan s => nanTo dst s
  | .inf n =>
    match bound with
    | some b => { bits := dst.signed n b, flags := 0 }
    | none => dst.infRes n
  | .fin n m e =>
    match bound with
    | some b => clampFin dst rm b n m e
    | none => dst.round rm n m e

/-- The bound at which FCVT clamps: the record's, the destination's largest finite value, or none, R59. -/
def fcvtBound (src dst : Fmt) (recBound : Option Nat) : Option Nat :=
  match recBound with
  | some b => some b
  | none => if smallerRange dst src then some dst.maxFinite else none

/-- FCVT of one element, R62. -/
def fcvtElem (src dst : Fmt) (rm : Rm) (recBound : Option Nat) (x : Nat) : FRes :=
  toFloat dst rm (fcvtBound src dst recBound) (src.decode x)

/-- I2F of one element, R62. -/
def i2fElem (signed : Bool) (ws : Nat) (dst : Fmt) (rm : Rm) (x : Nat) : FRes :=
  let i := readInt signed ws x
  clampFin dst rm dst.maxFinite (i < 0) i.natAbs 0

/-- The range of an integer type, R42. -/
def intMin (signed : Bool) (w : Nat) : Int := if signed then -((2 ^ (w - 1) : Nat) : Int) else 0
def intMax (signed : Bool) (w : Nat) : Int :=
  if signed then ((2 ^ (w - 1) - 1 : Nat) : Int) else ((2 ^ w - 1 : Nat) : Int)

/-- F2I of one element, R62. -/
def f2iElem (src : Fmt) (signed : Bool) (wd : Nat) (rm : Rm) (x : Nat) : FRes :=
  match src.decode x with
  | .nan _ => { bits := 0, flags := Flags.nv }
  | .inf n => { bits := wrap (if n then intMin signed wd else intMax signed wd) wd, flags := Flags.nv }
  | .fin n m e =>
    let (k, ix) := roundAt rm n m e 0
    let y := signedMag n k
    if y < intMin signed wd then { bits := wrap (intMin signed wd) wd, flags := Flags.nv }
    else if y > intMax signed wd then { bits := wrap (intMax signed wd) wd, flags := Flags.nv }
    else { bits := wrap y wd, flags := Flags.when ix Flags.nx }

end Sys2Proof.Machine
end

