-- ==== Sys2Proof/Machine/Predicate.lean ====
section
/-!
DEFINITION. Compares and predicates, R97 to R102.
-/

namespace Sys2Proof.Machine

/-- The results of an element for PD and PE, by the mode of PFX.C, R97: 0 none, 1 and, 2 or. -/
def combinePair (mode : Nat) (pd pe c : Bool) : Bool × Bool :=
  match mode with
  | 0 => (c, !c)
  | 1 => (pd && c, pe && !c)
  | _ => (pd || c, pe || !c)

/-- MODE of a pending PFX.C, 0 where none is pending. -/
def modeOf (c : Option (BitVec 21)) : Nat :=
  match c with
  | some p => pfxMode p
  | none => 0

/-- The two predicates written from per-element compare results, the old spans read before the writes, R97, R171. -/
def commitCompare (p e : BitVec 3) (mode w : Nat) (m : Word) (c : Nat → Bool) (a : Arch) : Arch :=
  let js := (List.range (1024 / w)).filter (enabled m w)
  let pd := a.pred p.toNat
  let pe := a.pred e.toNat
  let res := fun j => combinePair mode (pd.getLsbD (govBit w j)) (pe.getLsbD (govBit w j)) (c j)
  let a1 := a.setPred p.toNat (writeSpans pd w (js.map (fun j => (j, (res j).1))))
  a1.setPred e.toNat (writeSpans pe w (js.map (fun j => (j, (res j).2))))

/-- The conditions of CMP, R97: eq, ne, lt, le, gt, ge, tst, ntst. -/
def cmpCond (t : BitVec 3) (c x y : Nat) : Bool :=
  match c with
  | 0 => x == y
  | 1 => x != y
  | 2 => typed t x < typed t y
  | 3 => typed t x ≤ typed t y
  | 4 => typed t x > typed t y
  | 5 => typed t x ≥ typed t y
  | 6 => (x &&& y) != 0
  | _ => (x &&& y) == 0

/-- CMP, R97. -/
def execCmp (g : BitVec 4) (c p e : BitVec 3) (a b : BitVec 6) (t : BitVec 3) (s : State) :
    Host.Outcome State Fault Refusal :=
  s.issueRegs (.cmp g c p e a b t) (fun n =>
    let w := intWidth t
    (commitCompare p e (modeOf n.pfx.c) w n.mask (fun j => cmpCond t c.toNat (elem (n.v a) w j) (elem (n.v b) w j)), 0))

/-- The operations of PLOGIC, R99. -/
def plogicOp (t : Nat) (x y : Word) : Word :=
  match t with
  | 0 => x &&& y
  | 1 => x ||| y
  | 2 => x ^^^ y
  | 3 => x &&& ~~~y
  | 4 => x ||| ~~~y
  | 5 => ~~~(x &&& y)
  | 6 => ~~~(x ||| y)
  | _ => ~~~(x ^^^ y)

/-- PLOGIC, R99. -/
def execPlogic (g : BitVec 4) (d a b t : BitVec 3) (s : State) : Host.Outcome State Fault Refusal :=
  s.issueRegs (.plogic g d a b t) (fun e =>
    (fun r => r.setPred d.toNat (plogicOp t.toNat (e.a.pred a.toNat) (e.a.pred b.toNat)), 0))

/-- PMOV from a predicate, R100. -/
def execPmovPred (g : BitVec 4) (d a : BitVec 3) (s : State) : Host.Outcome State Fault Refusal :=
  s.issueRegs (.pmovPred g d a) (fun e => (fun r => r.setPred d.toNat (e.a.pred a.toNat), 0))

/-- PMOV from a register, R100. -/
def execPmovFromReg (g : BitVec 4) (d : BitVec 3) (a : BitVec 6) (s : State) : Host.Outcome State Fault Refusal :=
  s.issueRegs (.pmovFromReg g d a) (fun e => (fun r => r.setPred d.toNat (BitVec.ofNat 64 (e.x a)), 0))

/-- PMOV to a register, R100. -/
def execPmovToReg (g : BitVec 4) (d : BitVec 6) (a : BitVec 3) (s : State) : Host.Outcome State Fault Refusal :=
  s.issueScalar (.pmovToReg g d a) d (fun e => (e.a.pred a.toNat).toNat)

/-- The elements of a width whose governing bit is set, R101. -/
def governed (p : Word) (w : Nat) : List Bool := (List.range (1024 / w)).map (fun j => p.getLsbD (govBit w j))

/-- PCNT, R101. -/
def execPcnt (g : BitVec 4) (d : BitVec 6) (a t : BitVec 3) (s : State) : Host.Outcome State Fault Refusal :=
  s.issueScalar (.pcnt g d a t) d (fun e => (governed (e.a.pred a.toNat) (intWidth t)).count true)

/-- A predicate with every bit the same. -/
def allBits (b : Bool) : Word := if b then BitVec.allOnes 64 else 0

/-- PTEST, R101. -/
def execPtest (g : BitVec 4) (d e a t : BitVec 3) (s : State) : Host.Outcome State Fault Refusal :=
  s.issueRegs (.ptest g d e a t) (fun n =>
    let l := governed (n.a.pred a.toNat) (intWidth t)
    (fun r => (r.setPred d.toNat (allBits (l.any id))).setPred e.toNat (allBits (l.all id)), 0))

/-- PSET, R102: the span of element j is set when j < count. -/
def execPset (g : BitVec 4) (p w : BitVec 3) (c : BitVec 12) (s : State) : Host.Outcome State Fault Refusal :=
  s.issueRegs (.pset g p w c) (fun _ =>
    let n := 8 * 2 ^ w.toNat
    let l := (List.range (1024 / n)).map (fun j => (j, decide (j < c.toNat)))
    (fun r => r.setPred p.toNat (writeSpans 0 n l), 0))

end Sys2Proof.Machine
end

