-- ==== Sys2Proof/Machine/Ship.lean ====
section
/-!
DEFINITION. The shipping of an instruction (R35, R166, R172): the guest packet, the pending
destinations, and what the sender keeps for a remote fault (R175).
-/

namespace Sys2Proof.Machine

/-! ## Shipping -/

/-- The operands of a float instruction, R70, R166. -/
structure VecIn where
  a : Vec
  b : Vec
  d : Vec
  mask : Word
  rm : Rm
  deriving DecidableEq, Repr

/-- The operands of an instruction that executes at its own core. -/
def Env.vecIn (e : Env) (d a b : BitVec 6) : VecIn := ⟨e.v a, e.v b, e.v d, e.mask, e.a.rm⟩

/-- The operands that a guest packet carries. -/
def Guest.vecIn (g : Guest) : VecIn := ⟨g.a.v, g.b.v, g.d.v, g.guard, Rm.ofCode g.rm⟩

/-- The guest packet of an instruction that the task ships, R166, with its operand registers. -/
def Env.guest (e : Env) (t : State) (d a b : Reg) (prec : Nat) : Guest :=
  { word := e.word, pfxT := e.pfx.t, pfxC := e.pfx.c, pfxS := e.pfx.s, prec := prec, a := a, b := b, d := d,
    guard := e.mask, rm := e.a.sr.toNat % 8, ctx := e.sl.ctxid.toNat, world := e.a.world, sup := e.a.sup,
    part := e.sl.part, task := t.myRef, home := t.homeOf e.core, seq := (t.core e.core).seq, launch := e.sl.launch }

/-- A core's sequence number of shipped instructions after one more, R166. -/
def State.countShip (t : State) (c : Nat) : State := t.updCore c (fun k => { k with seq := (k.seq + 1) % 256 })

/-- The port entries that an instruction popped, R163, R175. -/
def Env.popped (e : Env) (src : List Nat) : List (Nat × PortEntry) :=
  (e.sl.boundSources src).filterMap (fun q => ((e.sl.port q).fifo.head?).map (fun p => (q, p)))

/-- The carry-ahead window opens behind an instruction whose result is outstanding, R172. -/
def Env.opened (e : Env) (id : Nat) (redeem : Bool) (src : List Nat) : Ship :=
  { id := id, redeem := redeem, saved := e.sl.arch, tpc := e.first, popped := e.popped src }

/-- An instruction shipped to the home big core, R166, R172: its destinations are pending until the result commits. -/
def State.ship (t : State) (e : Env) (i : Instr) (d a b : Reg) (prec : Nat) (dests : List Dest) : State :=
  let u := usesOf e.sl.peek i
  let (id, t) := t.fresh
  let g := e.guest t d a b prec
  let t1 := (t.countShip e.core).updMe (fun x => { x with board := x.board ++ (dests.filter Dest.real).map (fun k => (k, id)), ship := some (e.opened id false u.src) })
  ({ t1 with guests := t1.guests.set id g }).push (.guestPacketArrival id)

end Sys2Proof.Machine
end

