-- ==== Sys2Proof/Machine/Trans.lean ====
section
/-!
DEFINITION. The functions of FTRANS (R107), correctly rounded to nearest even. A function value is enclosed between two
fixed-point numbers; both ends are rounded, and the result is their common rounding. Arguments at which a function's
value is a dyadic number are answered exactly.
-/

namespace Sys2Proof.Machine

/-- Fraction bits of the two constants. -/
def constBits : Nat := 1700

/-- floor(pi * 2^1700). -/
def piFix : Nat :=
  0x3243f6a8885a308d313198a2e03707344a4093822299f31d0082efa98ec4e6c89452821e638d01377be5466cf34e90c6cc0ac29b7c97c50dd3f84d5b5b54709179216d5d98979fb1bd1310ba698dfb5ac2ffd72dbd01adfb7b8e1afed6a267e96ba7c9045f12c7f9924a19947b3916cf70801f2e2858efc16636920d871574e69a458fea3f4933d7e0d95748f728eb658718bcd5882154aee7b54a41dc25a59b59c30d5392af26013c5d1b023286085f0ca417918b8db38ef8e79dcb0603a180e6c9e0e8bb01e8a3ed71577c1bd314b2778af2fda5

/-- floor(ln 2 * 2^1700). -/
def ln2Fix : Nat :=
  0xb17217f7d1cf79abc9e3b39803f2f6af40f343267298b62d8a0d175b8baafa2be7b876206debac98559552fb4afa1b10ed2eae35c138214427573b291169b8253e96ca16224ae8c51acbda11317c387eb9ea9bc3b136603b256fa0ec7657f74b72ce87b19d6548caf5dfa6bd38303248655fa1872f20e3a2da2d97c50f3fd5c607f4ca11fb5bfb90610d30f88fe551a2ee569d6dfc1efa157d2e23de1400b39617460775db8990e5c943e732b479cd33cccc4e659393514c4c1a1e0bd1d6095d25669b333564a3376a9c7f8a5e148e82074db6015

/-- The terms of the exponential series from term n on, in fixed point with p fraction bits. -/
def expTerms (p r : Nat) : Nat → Nat → Nat → Nat
  | 0, _, _ => 0
  | k + 1, n, t => t + expTerms p r k (n + 1) (t * r / 2 ^ p / (n + 1))

/-- e^r for 0 <= r < 1 in fixed point with p fraction bits, from below. -/
def expFix (p r : Nat) : Nat := expTerms p r 160 0 (2 ^ p)

/-- The terms of a series in r^2 with alternating signs and factorial denominators, from term n on. -/
def altTerms (p r2 : Nat) : Nat → Nat → Int → Int
  | 0, _, _ => 0
  | k + 1, n, t => t - altTerms p r2 k (n + 2) (t * (r2 : Int) / ((2 ^ p : Nat) : Int) / (((n + 1) * (n + 2) : Nat) : Int))

/-- sin r for r in fixed point with p fraction bits. -/
def sinFix (p : Nat) (r : Int) : Int := altTerms p (r.natAbs * r.natAbs / 2 ^ p) 90 1 r

/-- cos r for r in fixed point with p fraction bits. -/
def cosFix (p : Nat) (r : Int) : Int := altTerms p (r.natAbs * r.natAbs / 2 ^ p) 90 0 ((2 ^ p : Nat) : Int)

/-- The terms z^n / n of the area-tangent series for odd n. -/
def artanhTerms (p z2 : Nat) : Nat → Nat → Nat → Nat
  | 0, _, _ => 0
  | k + 1, n, t => t / n + artanhTerms p z2 k (n + 2) (t * z2 / 2 ^ p)

/-- The natural logarithm of m / 2^p for 2^p <= m < 2^(p+1), in fixed point. -/
def lnFix (p m : Nat) : Nat :=
  let z := (m - 2 ^ p) * 2 ^ p / (m + 2 ^ p)
  2 * artanhTerms p (z * z / 2 ^ p) 200 1 z

/-- The half-width of the enclosures, in units of the last fraction bit. -/
def transSlack : Nat := 2 ^ 20

/-- The common rounding of an enclosure (num +- slack) * 2^exp of an inexact value, or nothing when its ends round
differently. -/
def Fmt.enclose (f : Fmt) (num : Int) (exp : Int) : Option FRes :=
  let neg := num < 0
  let lo := f.roundMag (f.m + 1) .rne neg (num.natAbs - transSlack) exp
  let hi := f.roundMag (f.m + 1) .rne neg (num.natAbs + transSlack) exp
  if lo.enc = hi.enc ∧ lo.overflow = hi.overflow ∧ lo.tiny = hi.tiny then
    if lo.overflow then some { bits := f.signed neg f.infinity, flags := Flags.of ||| Flags.nx }
    else some { bits := f.signed neg lo.enc, flags := Flags.nx ||| Flags.when lo.tiny Flags.uf }
  else none

/-- The value of an enclosure that does not decide its rounding: a free value (assumption 12). -/
def Fmt.unresolved (f : Fmt) (fn a : Nat) : FRes :=
  { bits := Config.freeTrans f.w fn a % 2 ^ f.w, flags := Flags.nx }

/-- Fraction bits that hold a value of exponent l with 400 significant bits to spare. -/
def fracBits (l : Int) : Nat := 400 + (-l).toNat

/-- The magnitude mant * 2^exp in fixed point, exact for the fraction bits used here. -/
def toFixed (p mant : Nat) (exp : Int) : Nat := (roundAt .rtz false mant exp (-(p : Int))).1

/-- e^a as v * 2^(k - p) for the signed fixed-point number a: (v, k). -/
def expParts (p : Nat) (a : Int) : Nat × Int :=
  let s := a * ((2 ^ (constBits - p) : Nat) : Int)
  let k := s / (ln2Fix : Int)
  let r := (s % (ln2Fix : Int)).toNat
  (expFix p (r / 2 ^ (constBits - p)), k)

/-- 2^a, R107. -/
def Fmt.exp2 (f : Fmt) (neg : Bool) (m : Nat) (e : Int) : Option FRes :=
  let l := magLog m e
  if l ≥ 14 then f.enclose ((2 ^ 400 : Nat) : Int) (if neg then -20000 else 20000)
  else
    let p := fracBits l
    let a := signedMag neg (toFixed p m e)
    let k := a / ((2 ^ p : Nat) : Int)
    let r := (a % ((2 ^ p : Nat) : Int)).toNat
    if r = 0 then some (f.round .rne false 1 k)
    else f.enclose (expFix p (r * ln2Fix / 2 ^ constBits)) (k - p)

/-- e^a for a non-zero, R107. -/
def Fmt.exp (f : Fmt) (neg : Bool) (m : Nat) (e : Int) : Option FRes :=
  let l := magLog m e
  if l ≥ 14 then f.enclose ((2 ^ 400 : Nat) : Int) (if neg then -20000 else 20000)
  else
    let p := fracBits l
    let (v, k) := expParts p (signedMag neg (toFixed p m e))
    f.enclose v (k - p)

/-- The logarithm of a positive magnitude in fixed point with 500 fraction bits. -/
def lnParts (m : Nat) (e : Int) : Int :=
  (magLog m e) * ((ln2Fix / 2 ^ (constBits - 500) : Nat) : Int) + (lnFix 500 (m * 2 ^ (500 - Nat.log2 m)) : Int)

/-- log2 a or ln a for a positive finite magnitude, R107. -/
def Fmt.log (f : Fmt) (base2 : Bool) (m : Nat) (e : Int) : Option FRes :=
  if m = 2 ^ Nat.log2 m ∧ (base2 ∨ magLog m e = 0) then
    let k := magLog m e
    some (f.round .rne (k < 0) k.natAbs 0)
  else if base2 then
    f.enclose (magLog m e * ((2 ^ 500 : Nat) : Int) +
      ((lnFix 500 (m * 2 ^ (500 - Nat.log2 m)) * 2 ^ constBits / ln2Fix : Nat) : Int)) (-500)
  else f.enclose (lnParts m e) (-500)

/-- sin or cos of a non-zero magnitude, R107: the quadrant and the reduced argument. -/
def sinCosParts (isCos : Bool) (p m : Nat) (e : Int) : Int :=
  let x := toFixed constBits m e
  let h := piFix / 2
  let k := (x + h / 2) / h
  let r := ((x : Int) - ((k * h : Nat) : Int)) / ((2 ^ (constBits - p) : Nat) : Int)
  match (k + b2n isCos) % 4 with
  | 0 => sinFix p r
  | 1 => cosFix p r
  | 2 => -sinFix p r
  | _ => -cosFix p r

/-- tanh of a non-zero magnitude, R107. Below 2^-240 it lies within one unit of 2^-400 times the argument's below the argument.
-/
def Fmt.tanh (f : Fmt) (neg : Bool) (m : Nat) (e : Int) : Option FRes :=
  let l := magLog m e
  if l ≥ 10 then f.enclose (signedMag neg (2 ^ 400)) (-400)
  else if l ≤ -240 then f.enclose (signedMag neg (m * 2 ^ 400 - transSlack - 1)) (e - 400)
  else
    let p := fracBits l
    let (v, k) := expParts p (-(2 * (toFixed p m e : Int)))
    let u := v / 2 ^ (-k).toNat
    f.enclose (signedMag neg ((2 ^ p - u) * 2 ^ p / (2 ^ p + u))) (-p)

/-- 1 / (1 + e^-a) for a non-zero, R107. -/
def Fmt.logistic (f : Fmt) (neg : Bool) (m : Nat) (e : Int) : Option FRes :=
  let l := magLog m e
  if l ≥ 14 then
    if neg then f.enclose ((2 ^ 400 : Nat) : Int) (-20000) else f.enclose ((2 ^ 400 : Nat) : Int) (-400)
  else
    let p := fracBits l
    let (v, k) := expParts p (-(toFixed p m e : Int))
    let u := v / 2 ^ (-k).toNat
    if neg then f.enclose ((v * 2 ^ p / (2 ^ p + u) : Nat) : Int) (k - p)
    else f.enclose ((2 ^ p * 2 ^ p / (2 ^ p + u) : Nat) : Int) (-p)

/-- A resolved value, or the free value. -/
def Fmt.orFree (f : Fmt) (fn a : Nat) : Option FRes → FRes
  | some r => r
  | none => f.unresolved fn a

/-- FTRANS on one element, R107: fn is the B field. -/
def Fmt.trans (f : Fmt) (fn a : Nat) : FRes :=
  match f.decode a with
  | .nan s => f.nanRes s
  | .inf n =>
    match fn with
    | 0 => if n then f.zeroRes false else f.infRes false
    | 1 => if n then f.zeroRes false else f.infRes false
    | 2 => if n then f.nanRes true else f.infRes false
    | 3 => if n then f.nanRes true else f.infRes false
    | 4 => f.nanRes true
    | 5 => f.nanRes true
    | 6 => f.round .rne n 1 0
    | _ => if n then f.zeroRes false else f.round .rne false 1 0
  | .fin n m e =>
    if m = 0 then
      match fn with
      | 0 => f.round .rne false 1 0
      | 1 => f.round .rne false 1 0
      | 2 => { bits := f.signed true f.infinity, flags := Flags.dz }
      | 3 => { bits := f.signed true f.infinity, flags := Flags.dz }
      | 4 => f.zeroRes n
      | 5 => f.round .rne false 1 0
      | 6 => f.zeroRes n
      | _ => f.round .rne false 1 (-1)
    else
      match fn with
      | 0 => f.orFree fn a (f.exp2 n m e)
      | 1 => f.orFree fn a (f.exp n m e)
      | 2 => if n then f.nanRes true else f.orFree fn a (f.log true m e)
      | 3 => if n then f.nanRes true else f.orFree fn a (f.log false m e)
      | 4 =>
        let p := fracBits (magLog m e)
        let y := sinCosParts false p m e
        f.orFree fn a (f.enclose (if n then -y else y) (-p))
      | 5 =>
        let p := fracBits (magLog m e)
        f.orFree fn a (f.enclose (sinCosParts true p m e) (-p))
      | 6 => f.orFree fn a (f.tanh n m e)
      | _ => f.orFree fn a (f.logistic n m e)

end Sys2Proof.Machine
end

