-- ==== Sys2Proof/Machine/FloatOps.lean ====
section
/-!
DEFINITION. Floating-point arithmetic (R103 to R109) and conversions (R59 to R63): for each instruction its value on given
operands, which a core computes for its own task and a big core for a guest (R170).
-/

namespace Sys2Proof.Machine

/-- The results of the enabled elements, with their flags ORed, R29, R56. -/
def collect (w : Nat) (m : Word) (old : Vec) (f : Nat → FRes) : Vec × Flags :=
  let rs := (List.range (1024 / w)).map (fun j => if enabled m w j then some (f j) else none)
  (updElems old w (fun j => (rs[j]?.getD none).map (·.bits)),
    rs.foldl (fun z r => match r with
      | some x => z ||| x.flags
      | none => z) 0)

/-- A float instruction on the elements of vA, vB and old vD, R103. -/
def floatMap (t : BitVec 3) (o : VecIn) (f : Fmt → Nat → Nat → Nat → FRes) : Vec × Flags :=
  let k := Fmt.ofCode t.toNat
  collect k.w o.mask o.d (fun j => f k (elem o.a k.w j) (elem o.b k.w j) (elem o.d k.w j))

/-- A float instruction at its own core or shipped, R72. -/
def State.issueFloat (s : State) (i : Instr) (d a b : BitVec 6) (f : VecIn → Vec × Flags) :
    Host.Outcome State Fault Refusal :=
  s.issue i (fun e t =>
    if shipped i && !e.big then
      .ok (t.ship e i (e.a.reg d.toNat) (e.a.reg a.toNat) (e.a.reg b.toNat) 0 [.reg d.toNat])
    else
      let r := f (e.vecIn d a b)
      .ok ((t.updArch (fun x => x.setVec d.toNat r.1)).raise r.2))

/-! ## Values, R103 -/

def valFadd (t : BitVec 3) (o : VecIn) : Vec × Flags := floatMap t o (fun f x y _ => f.add o.rm x y)
def valFsub (t : BitVec 3) (o : VecIn) : Vec × Flags := floatMap t o (fun f x y _ => f.sub o.rm x y)
def valFmul (t : BitVec 3) (o : VecIn) : Vec × Flags := floatMap t o (fun f x y _ => f.mul o.rm x y)
def valFma (t : BitVec 3) (o : VecIn) : Vec × Flags := floatMap t o (fun f x y z => f.fma o.rm false z x y)
def valFnma (t : BitVec 3) (o : VecIn) : Vec × Flags := floatMap t o (fun f x y z => f.fma o.rm true z x y)
def valFmin (t : BitVec 3) (o : VecIn) : Vec × Flags := floatMap t o (fun f x y _ => f.minMax false x y)
def valFmax (t : BitVec 3) (o : VecIn) : Vec × Flags := floatMap t o (fun f x y _ => f.minMax true x y)
def valFminp (t : BitVec 3) (o : VecIn) : Vec × Flags := floatMap t o (fun f x y _ => f.minp x y)
def valFscale (t : BitVec 3) (o : VecIn) : Vec × Flags := floatMap t o (fun f x y _ => f.scale o.rm x (sext y f.w))
def valFdiv (t : BitVec 3) (o : VecIn) : Vec × Flags := floatMap t o (fun f x y _ => f.div o.rm x y)
def valFsqrt (t : BitVec 3) (o : VecIn) : Vec × Flags := floatMap t o (fun f x _ _ => f.sqrt o.rm x)
def valFtrans (t : BitVec 3) (fn : Nat) (o : VecIn) : Vec × Flags := floatMap t o (fun f x _ _ => f.trans fn x)

/-- A value with another sign and no flag; the canonical NaN for a NaN, R104. -/
def withSign (f : Fmt) (x : Nat) (neg : Bool) : FRes :=
  { bits := if (f.decode x).isNan then f.nan else f.signed neg (x % f.signBit), flags := 0 }

/-- FUNOP, R104, R105: fabs, fneg, fcpys, frndi, frndn, frcpa, frsqa, fclass. -/
def funopElem (f : Fmt) (rm : Rm) (o x z : Nat) : FRes :=
  match o with
  | 0 => withSign f x false
  | 1 => withSign f x (decide (x < f.signBit))
  | 2 => withSign f x (decide (z ≥ f.signBit))
  | 3 => f.roundIntegral rm true x
  | 4 => f.roundIntegral .rne false x
  | 5 => f.rcpa x
  | 6 => f.rsqa x
  | _ => { bits := 2 ^ f.classCode x, flags := 0 }

def valFunop (t : BitVec 3) (op : Nat) (o : VecIn) : Vec × Flags :=
  floatMap t o (fun f x _ z => funopElem f o.rm op x z)

/-- The raw results of FCMP, one bit per enabled element, and its flags, R98, R171. -/
def valFcmp (t : BitVec 3) (c : Nat) (o : VecIn) : Nat × Flags :=
  let f := Fmt.ofCode t.toNat
  let rs := (List.range (1024 / f.w)).map (fun j =>
    if enabled o.mask f.w j then f.compare c (elem o.a f.w j) (elem o.b f.w j) else (false, false))
  (packList 1 (rs.map (fun r => b2n r.1)), Flags.when (rs.any (·.2)) Flags.nv)

/-- The products of FDOT2 and FDOT4 for a lane, R108. -/
def dotProducts (o : VecIn) (fa fb : Fmt) (k j : Nat) : List FVal :=
  (List.range k).map (fun i =>
    (fa.decode (elem o.a fa.w (k * j + i))).mul (fb.decode (elem o.b fb.w (k * j + i))))

/-- FDOT2 and FDOT4 on given formats, R64, R108. -/
def valDot (k : Nat) (fa fb : Fmt) (o : VecIn) : Vec × Flags :=
  collect 32 o.mask o.d (fun j => dotBlock (Fmt.f32.decode (elem o.d 32 j)) (dotProducts o fa fb k j))

/-- The operand formats of a dot product: code 15, or no PFX.T, means bf16, R108. -/
def dotFmt (c : Nat) : Fmt := Fmt.ofCode (if c = 15 then 1 else c)
def dotFa (p : Option (BitVec 21)) : Fmt := match p with
  | some x => dotFmt (pfxFa x)
  | none => Fmt.bf16
def dotFb (p : Option (BitVec 21)) : Fmt := match p with
  | some x => dotFmt (pfxFb x)
  | none => Fmt.bf16

/-- The elements of a reduction, each with whether it is enabled. -/
def presentElems (w : Nat) (m : Word) (v : Vec) : List (Bool × Nat) :=
  (List.range (1024 / w)).map (fun j => (enabled m w j, elem v w j))

/-- FRED, R67, R109: 0 sum, 1 minimumNumber, 2 maximumNumber. -/
def valFred (t : BitVec 3) (op : Nat) (o : VecIn) : Vec × Flags :=
  let f := Fmt.ofCode t.toNat
  let comb := fun x y => (match op with
    | 0 => f.add o.rm x y
    | 1 => f.minMax false x y
    | _ => f.minMax true x y)
  let r := f.reduce comb ((presentElems f.w o.mask o.a).map (fun e => leaf e.1 e.2))
  (BitVec.ofNat 1024 r.bits, r.flags)

/-- FSCAN, R68, R109. -/
def valFscan (t : BitVec 3) (o : VecIn) : Vec × Flags :=
  let f := Fmt.ofCode t.toNat
  let r := f.scanSum o.rm none (presentElems f.w o.mask o.a)
  (updElems o.d f.w (fun j => r.1[j]?.getD none), r.2)

/-! ## Instructions -/

/-- FADD, R103. -/
def execFadd (g : BitVec 4) (d a b : BitVec 6) (t : BitVec 3) (s : State) : Host.Outcome State Fault Refusal :=
  s.issueFloat (.fadd g d a b t) d a b (valFadd t)

/-- FSUB, R103. -/
def execFsub (g : BitVec 4) (d a b : BitVec 6) (t : BitVec 3) (s : State) : Host.Outcome State Fault Refusal :=
  s.issueFloat (.fsub g d a b t) d a b (valFsub t)

/-- FMUL, R103. -/
def execFmul (g : BitVec 4) (d a b : BitVec 6) (t : BitVec 3) (s : State) : Host.Outcome State Fault Refusal :=
  s.issueFloat (.fmul g d a b t) d a b (valFmul t)

/-- FMA, R103. -/
def execFma (g : BitVec 4) (d a b : BitVec 6) (t : BitVec 3) (s : State) : Host.Outcome State Fault Refusal :=
  s.issueFloat (.fma g d a b t) d a b (valFma t)

/-- FNMA, R103. -/
def execFnma (g : BitVec 4) (d a b : BitVec 6) (t : BitVec 3) (s : State) : Host.Outcome State Fault Refusal :=
  s.issueFloat (.fnma g d a b t) d a b (valFnma t)

/-- FMIN, R103. -/
def execFmin (g : BitVec 4) (d a b : BitVec 6) (t : BitVec 3) (s : State) : Host.Outcome State Fault Refusal :=
  s.issueFloat (.fmin g d a b t) d a b (valFmin t)

/-- FMAX, R103. -/
def execFmax (g : BitVec 4) (d a b : BitVec 6) (t : BitVec 3) (s : State) : Host.Outcome State Fault Refusal :=
  s.issueFloat (.fmax g d a b t) d a b (valFmax t)

/-- FMINP, R103. -/
def execFminp (g : BitVec 4) (d a b : BitVec 6) (t : BitVec 3) (s : State) : Host.Outcome State Fault Refusal :=
  s.issueFloat (.fminp g d a b t) d a b (valFminp t)

/-- FUNOP, R104, R105. -/
def execFunop (g : BitVec 4) (d a o : BitVec 6) (t : BitVec 3) (s : State) : Host.Outcome State Fault Refusal :=
  s.issueFloat (.funop g d a o t) d a 0 (valFunop t o.toNat)

/-- FSCALE, R103. -/
def execFscale (g : BitVec 4) (d a b : BitVec 6) (t : BitVec 3) (s : State) : Host.Outcome State Fault Refusal :=
  s.issueFloat (.fscale g d a b t) d a b (valFscale t)

/-- FDIV, R106. -/
def execFdiv (g : BitVec 4) (d a b : BitVec 6) (t : BitVec 3) (s : State) : Host.Outcome State Fault Refusal :=
  s.issueFloat (.fdiv g d a b t) d a b (valFdiv t)

/-- FSQRT, R106. -/
def execFsqrt (g : BitVec 4) (d a : BitVec 6) (t : BitVec 3) (s : State) : Host.Outcome State Fault Refusal :=
  s.issueFloat (.fsqrt g d a t) d a 0 (valFsqrt t)

/-- FTRANS, R107. -/
def execFtrans (g : BitVec 4) (d a o : BitVec 6) (t : BitVec 3) (s : State) : Host.Outcome State Fault Refusal :=
  s.issueFloat (.ftrans g d a o t) d a 0 (valFtrans t o.toNat)

/-- FRED, R109. -/
def execFred (g : BitVec 4) (d a o : BitVec 6) (t : BitVec 3) (s : State) : Host.Outcome State Fault Refusal :=
  s.issueFloat (.fred g d a o t) d a 0 (valFred t o.toNat)

/-- FSCAN, R109. -/
def execFscan (g : BitVec 4) (d a : BitVec 6) (t : BitVec 3) (s : State) : Host.Outcome State Fault Refusal :=
  s.issueFloat (.fscan g d a t) d a 0 (valFscan t)

/-- FDOT2, R108: executed by every core itself. -/
def execFdot2 (g : BitVec 4) (d a b : BitVec 6) (t : BitVec 3) (s : State) : Host.Outcome State Fault Refusal :=
  s.issueRegs (.fdot2 g d a b t) (fun e =>
    let r := valDot 2 (dotFa e.pfx.t) (dotFb e.pfx.t) (e.vecIn d a b)
    (fun x => x.setVec d.toNat r.1, r.2))

/-- FDOT4, R108. -/
def execFdot4 (g : BitVec 4) (d a b : BitVec 6) (t : BitVec 3) (s : State) : Host.Outcome State Fault Refusal :=
  s.issueRegs (.fdot4 g d a b t) (fun e =>
    let r := valDot 4 (dotFa e.pfx.t) (dotFb e.pfx.t) (e.vecIn d a b)
    (fun x => x.setVec d.toNat r.1, r.2))

/-- FCMP, R97, R98; of type f64 shipped from a little core, its result pending in PD and PE (R72). -/
def execFcmp (g : BitVec 4) (c p e : BitVec 3) (a b : BitVec 6) (t : BitVec 3) (s : State) :
    Host.Outcome State Fault Refusal :=
  s.issue (.fcmp g c p e a b t) (fun n u =>
    if shipped (.fcmp g c p e a b t) && !n.big then
      .ok (u.ship n (.fcmp g c p e a b t) {} (n.a.reg a.toNat) (n.a.reg b.toNat) 0 [.pred p.toNat, .pred e.toNat])
    else
      let r := valFcmp t c.toNat (n.vecIn 0 a b)
      .ok ((u.updArch (commitCompare p e (modeOf n.pfx.c) (floatWidth t) n.mask (bit r.1))).raise r.2))

/-! ## Conversions, R59 to R63 -/

/-- A conversion of the elements of a part, R62. -/
def convert (ws wd part : Nat) (o : VecIn) (f : Nat → FRes) : Vec × Flags :=
  let n := 1024 / max ws wd
  let dst := fun j => if wd < ws then part * n + j else j
  let src := fun j => if wd < ws then j else part * n + j
  let rs := (List.range n).map (fun j => if enabled o.mask wd (dst j) then some (f (elem o.a ws (src j))) else none)
  let at' := fun k => (if wd < ws then (if part * n ≤ k then rs[k - part * n]?.getD none else none) else rs[k]?.getD none)
  (updElems o.d wd (fun k => (at' k).map (·.bits)),
    rs.foldl (fun z r => match r with
      | some x => z ||| x.flags
      | none => z) 0)

def valFcvt (part dst src : BitVec 3) (bound : Option Nat) (o : VecIn) : Vec × Flags :=
  convert (floatWidth src) (floatWidth dst) part.toNat o
    (fcvtElem (Fmt.ofCode src.toNat) (Fmt.ofCode dst.toNat) o.rm bound)

def valI2f (part src dst : BitVec 3) (o : VecIn) : Vec × Flags :=
  convert (intWidth src) (floatWidth dst) part.toNat o (i2fElem (intSigned src) (intWidth src) (Fmt.ofCode dst.toNat) o.rm)

def valF2i (part dst src : BitVec 3) (o : VecIn) : Vec × Flags :=
  convert (floatWidth src) (intWidth dst) part.toNat o (f2iElem (Fmt.ofCode src.toNat) (intSigned dst) (intWidth dst) o.rm)

/-- The storage key of record PRS of a core's parameter table, R54. -/
def recordKey (c prs : Nat) : Nat :=
  if isBig c then localKey c 3 (0xFFC00 + 64 * prs) else localKey c 0 (0x1FC00 + 64 * prs)

/-- PRS of a pending PFX.T. -/
def prsOf (t : Option (BitVec 21)) : Nat :=
  match t with
  | some p => pfxPrs p
  | none => 0

/-- Whether an element is a write that has not been performed to any of n bytes from a key on. -/
def Elem.writesTo (e : Elem) (k n : Nat) : Bool :=
  e.stage != .done && decide (e.key < k + n) && decide (k < e.key + e.n) &&
    (match e.act with
      | .write .. => true
      | .feStore .. => true
      | .stf .. => true
      | .rmw _ => true
      | _ => false)

/-- Whether a task has a store to some bytes still under way. -/
def State.storesPending (s : State) (t : TaskRef) (k n : Nat) : Bool :=
  s.ops.any (fun o => o.2.task == t && o.2.elems.any (fun e => e.writesTo k n))

/-- A parameter record as the issuing task reads it, R54: after its own earlier stores to it. -/
def State.record (s : State) (c prs : Nat) : Except Exit Nat :=
  if s.storesPending s.myRef (recordKey c prs) 64 then .error (.wait .order)
  else .ok (s.readMem (recordKey c prs) 64)

/-- The record that a conversion names and the bound it takes from it, R53, R63: none where PRS is 0. -/
def State.boundOf (s : State) (c prs dst : Nat) : Except Exit (Nat × Option Nat) :=
  if prs = 0 then .ok (0, none)
  else do
    let r ← s.record c prs
    let b := recordBound r dst
    check (validBound (Fmt.ofCode dst) b) causeParam prs
    .ok (r, some b)

/-- FCVT, R61 to R63. -/
def execFcvt (g : BitVec 4) (d a : BitVec 6) (part dst src : BitVec 3) (s : State) :
    Host.Outcome State Fault Refusal :=
  s.issue (.fcvt g d a part dst src) (fun e t => do
    let (r, b) ← t.boundOf e.core (prsOf e.pfx.t) dst.toNat
    if shipped (.fcvt g d a part dst src) && !e.big then
      .ok (t.ship e (.fcvt g d a part dst src) (e.a.reg d.toNat) (e.a.reg a.toNat) {} r [.reg d.toNat])
    else
      let v := valFcvt part dst src b (e.vecIn d a 0)
      .ok ((t.updArch (fun x => x.setVec d.toNat v.1)).raise v.2))

/-- I2F, R61 to R63. -/
def execI2f (g : BitVec 4) (d a : BitVec 6) (part src dst : BitVec 3) (s : State) :
    Host.Outcome State Fault Refusal :=
  s.issueFloat (.i2f g d a part src dst) d a 0 (valI2f part src dst)

/-- F2I, R61 to R63. -/
def execF2i (g : BitVec 4) (d a : BitVec 6) (part dst src : BitVec 3) (s : State) :
    Host.Outcome State Fault Refusal :=
  s.issueFloat (.f2i g d a part dst src) d a 0 (valF2i part dst src)

/-! ## Guests, R170, R176 -/

/-- What a big core computes for a guest without a memory operand: the new vD, or the raw compare results, and the flags.
-/
def guestValue (i : Instr) (g : Guest) : Vec × Flags :=
  let o := g.vecIn
  match i with
  | .fadd _ _ _ _ t => valFadd t o
  | .fsub _ _ _ _ t => valFsub t o
  | .fmul _ _ _ _ t => valFmul t o
  | .fma _ _ _ _ t => valFma t o
  | .fnma _ _ _ _ t => valFnma t o
  | .fmin _ _ _ _ t => valFmin t o
  | .fmax _ _ _ _ t => valFmax t o
  | .fminp _ _ _ _ t => valFminp t o
  | .fscale _ _ _ _ t => valFscale t o
  | .funop _ _ _ p t => valFunop t p.toNat o
  | .fred _ _ _ p t => valFred t p.toNat o
  | .fscan _ _ _ t => valFscan t o
  | .fdiv _ _ _ _ t => valFdiv t o
  | .fsqrt _ _ _ t => valFsqrt t o
  | .ftrans _ _ _ p t => valFtrans t p.toNat o
  | .fcmp _ c _ _ _ _ t =>
    let r := valFcmp t c.toNat o
    (BitVec.ofNat 1024 r.1, r.2)
  | .fcvt _ _ _ part dst src =>
    valFcvt part dst src (if prsOf g.pfxT = 0 then none else some (recordBound g.prec dst.toNat)) o
  | .i2f _ _ _ part src dst => valI2f part src dst o
  | .f2i _ _ _ part dst src => valF2i part dst src o
  | _ => (g.d.v, 0)

end Sys2Proof.Machine
end

