-- ==== Sys2Proof/Machine/MemOps.lean ====
section
/-!
DEFINITION. Memory operations in flight: which orders of one task's accesses are kept (R243, R245, R246, R248), performing
an element at its storage (R221 to R224, R235 to R240), parked requests (R223), and the issue of an operation (R211,
R212).
-/

namespace Sys2Proof.Machine

/-! ## Kept orders -/

/-- Whether an element has been performed: its value is fixed and its write visible, R244, R256. -/
def Elem.performed (e : Elem) : Bool := e.stage == .held || e.stage == .done

/-- Whether an operation has been performed; a ticket's fetch and a redeem are, once they have left the table. -/
def Op.performed (o : Op) : Bool :=
  match o.kind with
  | .mem => o.elems.all Elem.performed
  | .ticketAlloc _ => o.fetched
  | .ticketRedeem _ => false
  | .stageRelease _ => o.answered
  | .lctl k _ _ => k != 2
  | _ => true

/-- Whether two elements share a byte. -/
def Elem.overlaps (x y : Elem) : Bool := decide (x.key < y.key + y.n) && decide (y.key < x.key + x.n)

/-- The write-buffer bank of an address, R246. -/
def bankOf (va : Nat) : Nat := bits va 8 7

/-- Whether an element is a store of R245 and R246; an LDFE, which empties its word, is none. -/
def Elem.writes (e : Elem) : Bool :=
  match e.act with
  | .read => false
  | .feLoad _ => false
  | .ldf _ => false
  | .qtag _ => false
  | _ => true

/-- The earlier operations of an operation's task, in program order. -/
def State.earlier (s : State) (id : Nat) (t : TaskRef) : List Op :=
  (s.ops.filter (fun e => decide (e.1 < id) && e.2.task == t)).map (·.2)

/-- The writes of a task, before element j of an operation in program order, that overlap the element and have not been
performed, oldest first. -/
def State.pendingWrites (s : State) (id : Nat) (o : Op) (j : Nat) (e : Elem) : List Elem :=
  ((s.earlier id o.task).flatMap (·.elems) ++ o.elems.take j).filter (fun x => x.writes && !x.performed && x.overlaps e)

/-- The earlier store whose bytes a load takes, R243: the latest overlapping one, where it writes every byte loaded. -/
def State.forwards (s : State) (id : Nat) (o : Op) (j : Nat) (e : Elem) : Option Elem :=
  match (s.pendingWrites id o j e).getLast?, e.act with
  | some x, .read =>
    match x.act with
    | .write m _ _ =>
      if x.key ≤ e.key ∧ (List.range e.n).all (fun i => bit m (e.key - x.key + i)) then some x else none
    | _ => none
  | _, _ => none

/-- Whether a task has a message not yet accepted or a copy not yet done from before a point of its program order. -/
def State.sentBefore (s : State) (id : Nat) (t : TaskRef) : Bool :=
  s.packets.any (fun e => decide (e.1 < id) && e.2.task == some t && e.2.answer.isNone) ||
    s.jobs.any (fun e => decide (e.1 < id) && e.2.task == some t)

/-- Whether the orders that fences add allow an operation, R233, R248, where only fences of a scope not below `least` count:
`st` says whether it is a store, SEND or copy. -/
def State.fencesAllowAt (s : State) (least id : Nat) (t : TaskRef) (st : Bool) : Bool :=
  (s.slot t.core t.slot).fences.all (fun f =>
    decide (f.id ≥ id) || decide (f.scope < least) ||
      ((s.ops.all (fun e =>
          decide (e.1 ≥ f.id) || e.2.task != t || e.2.performed ||
            !(f.full || (f.acquire && e.2.loads) || (f.release && st)))) &&
        !((f.full || (f.release && st)) && s.sentBefore f.id t)))

/-- Whether every order that fences add allows an operation. -/
def State.fencesAllow (s : State) (id : Nat) (t : TaskRef) (st : Bool) : Bool := s.fencesAllowAt 0 id t st

/-- Whether an acquire of a message or a copy holds later accesses back, R157, R248. -/
def State.sendAcquires (s : State) (id : Nat) (t : TaskRef) : Bool :=
  s.packets.any (fun e => decide (e.1 < id) && e.2.acquire && e.2.task == some t) ||
    s.jobs.any (fun e => decide (e.1 < id) && e.2.acquire && e.2.task == some t)

/-- Whether no earlier acquire, of a scope not below `least`, holds an operation back, R248. -/
def State.acquired (s : State) (least id : Nat) (t : TaskRef) : Bool :=
  (s.earlier id t).all (fun x => x.performed || !x.acquire || decide (x.acqScope < least)) && !s.sendAcquires id t

/-- Whether the kept orders of R245 and R248 allow an operation that starts or is sent as a whole, where only acquires,
releases and fences of a scope not below `least` count: `st` says whether it is a store, SEND or copy, which waits for every
earlier load, and `rel` whether it releases, which waits for every earlier access. -/
def State.mayStartAt (s : State) (least id : Nat) (t : TaskRef) (st rel : Bool) : Bool :=
  (s.earlier id t).all (fun x => x.performed || (!rel && !(x.loads && st))) && s.acquired least id t && s.fencesAllowAt least id t st

/-- Whether all the kept orders allow it. -/
def State.mayStart (s : State) (id : Nat) (t : TaskRef) (st release : Bool) : Bool := s.mayStartAt 0 id t st release

/-- Whether an element may be performed now, R243, R245, R246, R248: accesses that overlap keep their order, but for a load
that an earlier store forwards to. -/
def State.mayPerformAt (s : State) (least id : Nat) (o : Op) (j : Nat) (e : Elem) : Bool :=
  let before := (s.earlier id o.task).flatMap (·.elems)
  let bankFree := fun (x : Elem) => x.performed || !x.writes || bankOf x.va != bankOf e.va
  let clear := (s.pendingWrites id o j e).isEmpty || (s.forwards id o j e).isSome
  let reads := before.all (fun x => x.performed || x.writes || !x.overlaps e)
  let banks := !e.writes || (before.all bankFree && (o.elems.take j).all bankFree)
  s.mayStartAt least id o.task o.stores (o.release && decide (o.relScope ≥ least)) && clear && reads && banks

/-- Whether all the kept orders allow an element. -/
def State.mayPerform (s : State) (id : Nat) (o : Op) (j : Nat) (e : Elem) : Bool := s.mayPerformAt 0 id o j e

/-- Whether the issuing task's earlier accesses and messages are performed, as a release needs, R248, R275. -/
def State.releaseReady (t : State) (release : Bool) : Bool :=
  !release || (((t.earlier t.serial t.myRef).all (fun o => o.performed)) && !t.sentBefore t.serial t.myRef)

/-- Whether the orders of messages, copies and fences before a shipped memory operation allow it to leave, R170, R248. -/
def State.shipsNow (t : State) (e : Env) : Bool :=
  t.mayStart t.serial t.myRef true false && t.releaseReady (pfxRelease e.pfx)

/-! ## Scopes, R247

An order of a narrow scope binds only what observers within it see. An element that such an order alone holds back may be
performed early; a guard then keeps the observers within the scope from seeing it before what precedes it (assumption 24). -/

/-- Whether a core is an observer within a scope of another, R247. -/
def State.inScope (s : State) (scope c o : Nat) : Bool :=
  match scope with
  | 0 => false
  | 1 => c == o
  | 2 => nodeOf (s.phys c) == nodeOf (s.phys o)
  | 3 => corePlate (s.phys c) == corePlate (s.phys o)
  | _ => true

/-- The narrowest scope of a core that contains another core of this device. -/
def State.scopeTo (s : State) (c o : Nat) : Nat :=
  if c = o then 1 else if nodeOf (s.phys c) = nodeOf (s.phys o) then 2 else if corePlate (s.phys c) = corePlate (s.phys o) then 3 else 4

/-- Whether a guard still holds: an operation that it waits for has not been performed. -/
def State.guardLive (s : State) (g : Guard) : Bool :=
  g.past.any (fun k => match s.ops.look k with
    | some o => !o.performed
    | none => false)

/-- Whether a guard keeps a core, for a task or none, from reading or writing some bytes now. -/
def State.guardedFrom (s : State) (c : Nat) (t : Option TaskRef) (key n : Nat) (rd wr : Bool) : Bool :=
  s.guards.any (fun g => some g.task != t && s.inScope g.scope g.task.core c && decide (g.key < key + n) &&
    decide (key < g.key + g.n) && ((rd && g.reads) || (wr && g.writes)) && s.guardLive g)

/-- Whether an element reads. -/
def Elem.readsMem (e : Elem) : Bool :=
  match e.act with
  | .write .. => false
  | .feStore .. => false
  | .stf .. => false
  | .setE _ => false
  | .setF _ => false
  | _ => true

/-- Whether a guard keeps an engine's job from reading or writing some bytes now: every scope contains the jobs that its own
task issues. -/
def State.jobGuarded (s : State) (c : Nat) (t : Option TaskRef) (key n : Nat) (wr : Bool) : Bool :=
  s.guards.any (fun g => (some g.task == t || s.inScope g.scope g.task.core c) && decide (g.key < key + n) &&
    decide (key < g.key + g.n) && (if wr then g.writes else g.reads) && s.guardLive g)

/-- Whether a guard of another task holds an element back. -/
def State.elemGuarded (s : State) (o : Op) (e : Elem) : Bool :=
  s.guardedFrom o.task.core (some o.task) e.key e.n e.readsMem e.writes

/-- Whether an element that only orders of narrow scopes hold back may be performed early: everything of its task that is
still to be performed before it could be performed now, so that no guard ever waits for another one's guard. -/
def State.mayPerformEarly (s : State) (id : Nat) (o : Op) (j : Nat) (e : Elem) : Bool :=
  let late := s.ops.filter (fun x => decide (x.1 < id) && x.2.task == o.task && !x.2.performed)
  s.mayPerformAt 4 id o j e && !s.sentBefore id o.task &&
    late.all (fun x => x.2.kind == .mem && x.2.elems.zipIdx.all (fun y =>
      y.1.performed || (y.1.stage == .queued && s.mayPerform x.1 x.2 y.2 y.1 && !s.elemGuarded x.2 y.1)))

/-- The guards that an element performed early leaves: for a release or a fence before a store, on its own bytes, against reads and
writes, until what precedes has been performed; for an acquire or a fence behind loads, on the bytes of those loads. -/
def State.guardsOf (s : State) (id : Nat) (o : Op) (e : Elem) : List Guard :=
  let late := s.ops.filter (fun x => decide (x.1 < id) && x.2.task == o.task && !x.2.performed)
  let own := fun (scope upTo : Nat) (rd wr : Bool) =>
    ({ task := o.task, scope := scope, key := e.key, n := e.n, reads := rd, writes := wr,
       past := (late.filter (fun x => decide (x.1 < upTo))).map (·.1) } : Guard)
  let theirs := fun (scope upTo : Nat) (some_ : Op → Bool) =>
    (late.filter (fun x => decide (x.1 < upTo) && some_ x.2)).flatMap (fun x => (x.2.elems.filter (fun y => !y.performed)).map (fun y =>
      ({ task := o.task, scope := scope, key := y.key, n := y.n, writes := true, past := [x.1] } : Guard)))
  let rel := if o.release then [own o.relScope id true true] else []
  let acq := late.flatMap (fun x => if x.2.acquire then theirs x.2.acqScope (x.1 + 1) (fun y => y.acquire) else [])
  let fences := (s.slot o.task.core o.task.slot).fences.flatMap (fun f =>
    if f.id ≥ id then []
    else (if f.acquire ∨ f.full then theirs f.scope f.id (·.loads) else []) ++
      (if (f.release ∨ f.full) ∧ e.writes then [own f.scope f.id true true] else []) ++
      (if f.full ∧ !e.writes then [own f.scope f.id false true] else []))
  (rel ++ acq ++ fences).filter (fun g => decide (g.scope < 4) && !g.past.isEmpty)

/-- The state from which an element may be performed now; none where it has to wait. Whether one is performed early that only
narrow scopes hold back is a free choice. -/
def State.clears (s : State) (id : Nat) (o : Op) (j : Nat) (e : Elem) : Option State :=
  if s.elemGuarded o e then none
  else if s.mayPerform id o j e then some s
  else if s.mayPerformEarly id o j e then
    let (v, t) := s.draw
    if v % 2 = 0 then some { t with guards := t.guards.filter t.guardLive ++ s.guardsOf id o e } else none
  else none

/-! ## Performing an element -/

/-- The old value's replacement by a read-modify-write, R221, R236, R237; none where memory keeps its value. The flag says
the old tag. SCATADD clears the tag even where the sum leaves the bytes as they were (DESIGN CHOICE, assumption 100). -/
def Rmw.apply (r : Rmw) (o : Nat) (otag : Bool) : Option Nat :=
  let changed := fun (x : Nat) => if x = o then none else some x
  match r with
  | .atom w op v =>
    changed (match op with
      | 0 => (o + v) % 2 ^ w
      | 1 => o &&& v
      | 2 => o ||| v
      | 3 => o ^^^ v
      | 4 => if sext o w ≤ sext v w then o else v
      | 5 => if sext o w ≤ sext v w then v else o
      | 6 => min o v
      | _ => max o v)
  | .xchg _ v => changed v
  | .cas _ e n => if o = e then changed n else none
  | .cas128 e n et _ _ => if o = e ∧ otag = et then some n else none
  | .incw b => changed (if o ≥ b then 0 else o + 1)
  | .faddb _ v b => if o + v ≤ b then changed (o + v) else none
  | .addInt w v => some ((o + v) % 2 ^ w)
  | .addFloat code v => some ((Fmt.ofCode code).add .rne o v).bits

/-- The tag that a CAS128 writes with its new value, R237. -/
def Rmw.newTag : Rmw → Bool
  | .cas128 _ _ _ nt keep => nt && keep
  | _ => false

/-- Whether all the words of a mask have a given full bit, R222. -/
def State.wordsAre (s : State) (k n words : Nat) (b : Bool) : Bool :=
  (List.range (n / 4)).all (fun i => !bit words i || s.fullAt (k + 4 * i) == b)

/-- The full bits of the words of a mask replaced, R222. -/
def State.setWords (s : State) (k n words : Nat) (b : Bool) : State :=
  (List.range (n / 4)).foldl (fun t i => if bit words i then t.setFull (k + 4 * i) b else t) s

/-- The mask of the bytes of the words of a mask. -/
def bytesOfWords (n words : Nat) : Nat := packList 4 ((List.range (n / 4)).map (fun i => if bit words i then 15 else 0))

/-- Whether an element has to park, R222 to R224. -/
def State.mustPark (s : State) (e : Elem) : Bool :=
  match e.act with
  | .feLoad w => !s.wordsAre e.key e.n w true
  | .ldf w => !s.wordsAre e.key e.n w true
  | .feStore w _ => !s.wordsAre e.key e.n w false
  | _ => false

/-- What an element reads: forwarded from a store of its own task, or from storage; a granule's tag with it. -/
def State.fetchElem (s : State) (e : Elem) (fwd : Option Elem) : Elem :=
  match fwd with
  | some x =>
    match x.act with
    | .write _ d st => { e with val := d / 2 ^ (8 * (e.key - x.key)) % 2 ^ (8 * e.n), valTag := st && e.keepsTag }
    | _ => e
  | none => { e with val := s.readMem e.key e.n, valTag := s.tagAt e.key && e.keepsTag, bad := s.badAt e.key e.n }

/-- An element performed at its storage: what it read, and the storage afterwards. -/
def State.performElem (s : State) (e : Elem) (fwd : Option Elem) : Elem × State :=
  match e.act with
  | .read => (s.fetchElem e fwd, s)
  | .write m d tag =>
    let t := s.writeMem e.key e.n m d
    (e, if tag then t.setTag e.key true else t)
  | .rmw r =>
    let f := s.fetchElem e none
    if f.bad then (f, s)
    else match r.apply f.val (s.tagAt e.key) with
      | none => (f, s)
      | some x =>
        let t := s.store e.key e.n x
        (f, if r.newTag then t.setTag e.key true else t)
  | .feLoad w =>
    let f := s.fetchElem { e with keepsTag := false } none
    (f, s.setWords e.key e.n w false)
  | .ldf _ => (s.fetchElem { e with keepsTag := false } none, s)
  | .feStore w d => (e, (s.writeMem e.key e.n (bytesOfWords e.n w) d).setWords e.key e.n w true)
  | .stf w d => (e, (s.writeMem e.key e.n (bytesOfWords e.n w) d).setWords e.key e.n w true)
  | .setE w => (e, s.setWords e.key e.n w false)
  | .setF w => (e, s.setWords e.key e.n w true)
  | .qtag w =>
    let f := (List.range (e.n / 4)).map (fun i => b2n (bit w i && s.fullAt (e.key + 4 * i)))
    ({ e with val := packList 1 f }, s)

/-! ## Operations in the table -/

/-- An element of an operation replaced. -/
def State.setElemOf (s : State) (id j : Nat) (e : Elem) : State :=
  match s.ops.look id with
  | none => s
  | some o => { s with ops := s.ops.set id { o with elems := o.elems.set j e } }

/-- The follow-up of an operation once all its elements have their results: the data's arrival or the acknowledgement,
R212. -/
def State.finishOp (s : State) (id : Nat) : State :=
  match s.ops.look id with
  | none => s
  | some o =>
    if o.elems.all (fun e => e.stage == .done) then
      if o.ldc then s.push (.loadCompletion id) else if o.stc then s.push (.storeAcknowledgement id) else s
    else s

/-- The storage at which a request parks, R223: a scratchpad, or a plate's queue pool. -/
def parkPlace (k : Nat) : Nat := k / 2 ^ 32

/-- Whether an element's store covers a byte. -/
def Elem.covers (e : Elem) (k : Nat) : Bool :=
  match e.act with
  | .write m _ _ => decide (e.key ≤ k) && decide (k < e.key + e.n) && bit m (k - e.key)
  | _ => false

/-- One instruction's store that has overwritten all 32 bytes of some HBM, by several elements, ends their error, R431; the copy
engines' granules of 16 bytes each end none (assumption 27). -/
def State.healBy (s : State) (id : Nat) (e : Elem) : State :=
  let lo := e.key / 32 * 32
  let l := e :: (match s.ops.look id with
    | some o => o.elems.filter (fun f => f.stage == .done)
    | none => [])
  if !keyIsLocal e.key && s.badAt lo 32 && (List.range 32).all (fun b => l.any (fun f => f.covers (lo + b))) then
    { s with bad := (List.range 4).foldl (fun b j => Sp.put false b (lo / 8 + j) false) s.bad }
  else s

/-- An element performed, with its stage, and the operation's follow-up. -/
def State.performAt (s : State) (id j : Nat) (e : Elem) (fwd : Option Elem) (stage : Stage) : State :=
  let (f, t) := s.performElem e fwd
  let t := t.healBy id e
  (t.setElemOf id j { f with stage := stage }).finishOp id

/-- Parked requests of a storage served in arrival order until none can proceed, R223; one that a guard still holds back (R247)
takes another turn. -/
def State.serve (s : State) (place : Nat) : Nat → State
  | 0 => s
  | f + 1 =>
    let ready := s.parked.find? (fun p => p.1 == place && (match s.ops.look p.2.1 with
      | some o => match o.elems[p.2.2]? with
        | some e => !s.mustPark e
        | none => true
      | none => true))
    match ready with
    | none => s
    | some p =>
      let t := { s with parked := s.parked.erase p }
      match t.ops.look p.2.1 with
      | none => t.serve place f
      | some o => match o.elems[p.2.2]? with
        | none => t.serve place f
        | some e =>
          if s.elemGuarded o e then s.pushOnce (.localWindowRequest p.2.1 p.2.2)
          else (t.performAt p.2.1 p.2.2 e none .done).serve place f

/-- Whether an element may change full bits. -/
def Elem.fullEmpty (e : Elem) : Bool :=
  match e.act with
  | .read => false
  | .write .. => false
  | .rmw _ => false
  | .qtag _ => false
  | _ => true

/-- A queue access claims its word on arrival, R239: a pop the head, a push the tail. -/
def State.claim (s : State) (e : Elem) : Elem × State :=
  if keyIsLocal e.key && keySpace e.key == 11 then
    let pl := corePlate (keyCore e.key)
    let i := keyOff e.key
    let ps := s.pools.at pl {}
    match ps.queues.look i with
    | none => ({ e with key := queueKey pl i 0 }, s)
    | some q =>
      let pop : Bool := (match e.act with
        | .feLoad _ => true
        | _ => false)
      let t := (if pop then q.head else q.tail)
      let n := (t + 1) % q.depth
      let q' := (if pop then { q with head := n } else { q with tail := n })
      ({ e with key := queueKey pl i t }, { s with pools := s.pools.set pl { ps with queues := ps.queues.set i q' } })
  else (e, s)

/-- An element performed at local storage, or parked there; none where the storage has no room for a parked request, R223.
-/
def State.performLocal (s : State) (id j : Nat) (o : Op) (e : Elem) : Option State :=
  let (e, s) := s.claim e
  if s.mustPark e then
    if (s.parked.filter (fun p => p.1 == parkPlace e.key)).length ≥ 32 then none
    else
      let t := s.setElemOf id j { e with stage := .parked }
      some { t with parked := t.parked ++ [(parkPlace e.key, id, j)] }
  else
    let t := s.performAt id j e (s.forwards id o j e) .done
    some (if e.fullEmpty then t.serve (parkPlace e.key) (t.parked.length + 1) else t)

/-- A request that its target refused, R353, R355: sent again after its wait. -/
def State.refuseElem (s : State) (id j : Nat) (o : Op) (e : Elem) : State :=
  let (w, t) := s.nackWait o.task.core (e.nacks + 1)
  t.setElemOf id j { e with nacks := e.nacks + 1, till := s.now + w }

/-! ## Issue -/

/-- The limit on the LDC operations of all tasks of a core, R22. -/
def coreLdcLimit (c : Nat) : Nat := if isBig c then 128 else 48

/-- The LDC operations of all tasks of a core. -/
def Core.ldc (k : Core) : Nat := (k.slots.map (fun e => e.2.ldc)).sum

/-- Whether an address names the issuing core's own local storage. -/
def ownAddress (c va : Nat) : Bool := bits va 63 60 == 0xE && bits va 49 36 == c && bits va 35 32 != 7

/-- An element sent on its way: to the task's own local storage it is performed at issue where the kept orders allow; else
the request travels (assumption 15). -/
def State.sendElem (s : State) (c id j : Nat) : State :=
  match s.ops.look id with
  | none => s
  | some o => match o.elems[j]? with
    | none => s
    | some e =>
      if !keyIsLocal e.key then s.push (.homeSliceRequest id j)
      else if ownAddress c e.va && s.mayPerform id o j e && !s.elemGuarded o e then
        match (s.accessBank e.key).bind (fun t => t.performLocal id j o e) with
        | some t => t
        | none => s.push (.localWindowRequest id j)
      else s.push (.localWindowRequest id j)

/-- The write-buffer entries that the writes of some elements take, by their addresses, R246: one for a store, whose granules lie in
one line, and one for each element of a scatter. -/
def entriesOf (els : List Elem) : List Nat :=
  let l := (els.filter (fun x => x.writes && !x.performed)).map (·.va)
  if els.any (·.n == 16) then l.take 1 else l

/-- How many of some entries lie in a bank. -/
def inBank (l : List Nat) (b : Nat) : Nat := (l.filter (fun va => bankOf va == b)).length

/-- Whether a write-buffer bank has no room for the writes of some elements: each task has 16 entries in each of 4, R246. A scatter
with more than 16 elements for one bank waits until that is empty; its later elements take the entries that its earlier ones leave,
and so are performed after them. -/
def State.bankFull (t : State) (r : TaskRef) (els : List Elem) : Bool :=
  let held := (t.ops.filter (fun x => x.2.task == r)).flatMap (fun x => entriesOf x.2.elems)
  let own := entriesOf els
  (List.range 4).any (fun b => decide (0 < inBank own b) && decide (inBank held b + min 16 (inBank own b) > 16))

/-- An operation entered in the table, R22, R212, R246: the counters and write buffers with their limits, and the pending
destinations. -/
def State.enterOp (t : State) (o : Op) (dests : List Dest) : Except Exit (Nat × State) := do
  let x := t.me
  let c := t.cur.core
  stallIf (t.bankFull t.myRef o.elems) .full
  stallIf (o.ldc && (decide (x.ldc ≥ 48) || decide ((t.core c).ldc ≥ coreLdcLimit c))) .counter
  stallIf (o.stc && decide (x.stc ≥ 64)) .counter
  let (id, t) := t.fresh
  let t := { t with ops := t.ops.set id o }
  let add := fun (y : Slot) => ({ y with ldc := y.ldc + b2n o.ldc, stc := y.stc + b2n o.stc, board := y.board ++ (dests.filter Dest.real).map (fun d => (d, id)) } : Slot)
  .ok (id, t.updMe add)

/-- An operation issued: entered, and its elements on their way. -/
def State.startOp (t : State) (o : Op) (dests : List Dest) : Except Exit State := do
  let (id, t) ← t.enterOp o dests
  .ok ((List.range o.elems.length).foldl (fun u j => u.sendElem t.cur.core id j) t)

/-- The operation of the issuing task with the prefix's order, R36, R213. -/
def Env.op (e : Env) (t : State) (loads stores : Bool) : Op :=
  { task := t.myRef, loads := loads, stores := stores, ldc := loads, stc := !loads, acquire := pfxAcquire e.pfx,
    release := pfxRelease e.pfx, acqScope := pfxScopeOf e.pfx, relScope := pfxScopeOf e.pfx, ctx := e.sl.ctxid.toNat, part := e.sl.part, world := e.a.world, sup := e.a.sup, tpc := e.first }

/-- All elements of an instruction checked in ascending order, the first failure being the fault, R211; the places go into
the elements. -/
def State.checkAll (t : State) (a : Access) (tag : Bool) (c : Cap) :
    List (Req × (Place → Elem)) → Except Exit (List Elem × State)
  | [] => .ok ([], t)
  | (r, f) :: rest =>
    match t.checkAccess a tag c r with
    | (.error code, _) => .error (exitOf a code r.x)
    | (.ok p, t1) => do
      let (l, t2) ← t1.checkAll a tag c rest
      .ok (f p :: l, t2)

/-- An element at a place. -/
def Place.elem (p : Place) (r : Req) (lane : Nat) (act : Act) (keepsTag : Bool) : Elem :=
  { key := p.key, n := r.n, va := r.x, lane := lane, act := act, keepsTag := keepsTag && p.tags, cached := p.attr0 }

end Sys2Proof.Machine
end

