-- ==== Sys2Proof/Machine/Slice.lean ====
section
/-!
DEFINITION. The storage side of memory operations: requests at a home slice and fills (R191 to R197, R256), requests at local
storage (R185, R223, R239), and the completion of an operation in its task (R212, R215, R216, R431).
-/

namespace Sys2Proof.Machine

/-! ## Requests at a home slice -/

/-- Whether an element is an atomic that its core's predictor places, R234. -/
def Elem.placed (e : Elem) : Bool :=
  e.cached && (match e.act with
    | .rmw (.addInt ..) => false
    | .rmw (.addFloat ..) => false
    | .rmw _ => true
    | _ => false)

/-- An element's access to its line. -/
def Op.visit (o : Op) (e : Elem) : Visit :=
  { key := e.key, part := o.part, core := some o.task.core, asid := o.ctx, va := e.va, placed := e.placed, writes := e.writes,
    lsu := true, fills := e.cached && e.act == .read }

/-- The state after an access that its core's L1 data cache serves, R191, R192, R234: a load of a line that it holds, or an atomic
placed there on a line that it owns; none for any other, which goes to the home slice. -/
def State.servedByL1 (s : State) (o : Op) (e : Elem) : Option State :=
  let c := o.task.core
  let line := lineOf e.key
  let idx := predIndex e.va
  if !e.cached || !s.inL1 c line then none
  else if e.placed then
    (if (s.slice (sliceId e.key)).lines.any (fun l => l.line == line && l.owner.map (·.1) == some c) && decide ((s.core c).predictor.at idx 0 < 2)
      then some (s.predict c idx false) else none)
  else if e.act = .read then some s else none

/-- Whether an element's answer waits for the line: a write is performed at its arrival, R256. -/
def Elem.waits (e : Elem) : Bool :=
  !e.writes || (match e.act with
    | .rmw _ => true
    | _ => false)

/-- A request at its home slice, R191, R192, R195, R256: in arrival order, one line at a time. Writes are performed at their
arrival; a read or atomic that meets a pending fill waits for it with the value fixed at its arrival; a load that an earlier
store of its task forwards to needs no line (R243), and what the core's own L1 serves does not come to the slice. -/
def execHomeSliceRequest (op elem : Nat) (s : State) : Host.Outcome State Fault Refusal :=
  let done := s.did (.homeSliceRequest op elem)
  match s.ops.look op with
  | none => .next done
  | some o => match o.elems[elem]? with
    | none => .next done
    | some e =>
      if e.stage ≠ .queued then .next done
      else if keyIsLocal e.key ∨ s.now < e.till then .next s
      else match done.clears op o elem e with
        | none => .next s
        | some t => match s.forwards op o elem e with
          | some x => .next (t.performAt op elem e (some x) .done)
          | none => match t.servedByL1 o e with
            | some t => .next (t.performAt op elem e none .done)
            | none => match t.reach (o.visit e) (if e.waits then some (op, elem) else none) with
            | none => .next (s.refuseElem op elem o e)
            | some (hit, t) => .next (t.performAt op elem e none (if hit || !e.waits then .done else .held))

/-- Elements that waited for a fill have their results. -/
def State.release (s : State) (w : List (Nat × Nat)) : State :=
  w.foldl (fun t p => match t.ops.look p.1 with
    | none => t
    | some o => match o.elems[p.2]? with
      | none => t
      | some e => (t.setElemOf p.1 p.2 { e with stage := .done }).finishOp p.1) s

/-- A fill arrives, R195, R197, R256: the line is installed and the waiting reads are answered. A miss whose set has had no
line to give up waits for one. -/
def execFillArrival (slice line : Nat) (s : State) : Host.Outcome State Fault Refusal :=
  let done := s.did (.fillArrival slice line)
  match (s.slice slice).misses.find? (fun m => m.row.line == line) with
  | none => .next done
  | some m =>
    match (if m.alloc then some done else done.takeWay slice m.row.part line) with
    | none => .next s
    | some t => .next (((t.updSlice slice (fun x => x.install m)).takeCopies m.row m.copies).release m.waiting)

/-- A request arrives at local storage, R185, R223, R239: performed, parked, or refused and resent while 32 are parked; or a parked
one that a guard held back takes its turn, R247. -/
def execLocalWindowRequest (op elem : Nat) (s : State) : Host.Outcome State Fault Refusal :=
  let done := s.did (.localWindowRequest op elem)
  match s.ops.look op with
  | none => .next done
  | some o => match o.elems[elem]? with
    | none => .next done
    | some e =>
      if e.stage = .parked ∧ s.parked.any (fun p => p.2 == (op, elem)) ∧ !s.mustPark e then
        .next (if s.elemGuarded o e then s else done.serve (parkPlace e.key) (s.parked.length + 1))
      else if e.stage ≠ .queued then .next done
      else if !keyIsLocal e.key ∨ s.now < e.till then .next s
      else match done.clears op o elem e with
        | none => .next s
        | some t => match t.accessBank e.key with
          | none => .next s
          | some t => match t.performLocal op elem o e with
          | some t => .next t
          | none => .next (s.refuseElem op elem o e)

/-! ## Completion in the task -/

/-- The bytes that the elements of a vector load brought, at 16 bytes a lane. -/
def Op.gathered (o : Op) : Nat := o.elems.foldl (fun a e => a + e.val * 2 ^ (128 * e.lane)) 0

/-- The first element. -/
def Op.first (o : Op) : Elem := o.elems.headD { key := 0, n := 1, va := 0 }

/-- The destinations of an operation written, R215, R216, R218, R224, R226, R228, R236, R237. -/
def Arch.deliver (a : Arch) (o : Op) : Arch :=
  let e := o.first
  match o.ret with
  | .none => a
  | .scalar d => a.setScalar d e.val
  | .cap d => a.setReg d { v := BitVec.ofNat 1024 e.val, tag := e.valTag }
  | .vec d lanes =>
    let x := o.gathered
    let v := updElems (a.reg d).v 32 (fun j => if bit lanes j then some (x / 2 ^ (32 * j) % 2 ^ 32) else none)
    a.setReg d { v := v, tag := lanes == 2 ^ 32 - 1 && e.valTag && x / 2 ^ 128 == 0 }
  | .lanes d w =>
    a.setVec d (updElems (a.reg d).v w (fun j => (o.elems.find? (fun x => x.lane == j)).map (·.val)))
  | .oldPred d p v b => (a.setScalar d e.val).setPred p (writeSpan (a.pred p) 64 0 (decide (e.val + v ≤ b)))
  | .ticket d => a.writeCap d (BitVec.ofNat 128 o.val)
  | .redeem d st =>
    let a1 := a.setVec d (BitVec.ofNat 1024 o.val)
    match st with
    | none => a1
    | some b => a1.setScalar b o.status

/-- A slot once an operation has ended in it. -/
def Slot.ended (x : Slot) (id : Nat) (o : Op) : Slot :=
  { x with ldc := x.ldc - b2n o.ldc, stc := x.stc - b2n o.stc, board := x.board.filter (fun b => b.2 != id) }

/-- The first prefix of the run that is pending, or the pc: where an interrupted task resumes, R38. -/
def Arch.resume (a : Arch) : Word :=
  match a.pfx.first with
  | some p => p
  | none => a.pc

/-- A data error found in data that returned after issue, R431: taken at the next instruction boundary, after the
carry-ahead window or the deferred check (R314) where one is open. -/
def State.dataTrap (s : State) (t : TaskRef) (va : Nat) : State :=
  let x := s.slot t.core t.slot
  if x.phase ≠ .live then s
  else if x.ship.isSome ∨ x.checking.isSome then s.setSlot t.core t.slot { x with dataError := some (x.dataError.getD va) }
  else s.enterTrap t.core t.slot causeData va 2 false 0 x.arch.resume

/-- A data error that waited for an instruction boundary is taken there, R431. -/
def State.takeDataError (s : State) (t : TaskRef) : State :=
  let x := s.slot t.core t.slot
  match x.dataError with
  | none => s
  | some va => if s.alive t then (s.setSlot t.core t.slot { x with dataError := none }).dataTrap t va else s

/-- The carry-ahead window discarded and a remote fault taken, R175. -/
def State.remoteFault (s : State) (t : TaskRef) (code tval qual : Nat) : State :=
  let x := s.slot t.core t.slot
  match x.ship with
  | none => s
  | some sh =>
    let y := sh.popped.foldr (fun p (z : Slot) =>
      let q := z.port p.1
      z.setPort p.1 { q with fifo := p.2 :: q.fifo, stream := q.stream.map (fun m => { m with popped := m.popped - 1 }) }) x
    let y := { y with arch := sh.saved, ship := none, board := y.board.filter (fun b => b.2 != sh.id) }
    let s := s.setSlot t.core t.slot y
    if y.dataError.isSome then s.takeDataError t else s.enterTrap t.core t.slot code tval qual true sh.count sh.tpc

/-- The carry-ahead window committed, R57, R171: the flags raised in it reach the accumulator of R58, and a data error that
waited for the window is taken. -/
def State.closeWindow (s : State) (t : TaskRef) : State :=
  let x := s.slot t.core t.slot
  match x.ship with
  | none => s
  | some sh => ((s.setSlot t.core t.slot { x with ship := none }).raiseFor t.core t.slot sh.raised).takeDataError t

/-- The operation leaves the table, or stays while its fetch is still to be performed, R226, R231. -/
def State.dropOp (s : State) (id : Nat) (o : Op) : State :=
  match o.kind with
  | .ticketAlloc _ =>
    if o.fetched then { s with ops := s.ops.drop id }
    else { s with ops := s.ops.set id { o with ldc := false, stc := false, ret := .none } }
  | _ => { s with ops := s.ops.drop id }

/-- Whether an operation has its answer. -/
def Op.ready (o : Op) : Bool :=
  match o.kind with
  | .mem => o.elems.all (fun e => e.stage == .done)
  | _ => o.answered

/-- The data of a load, atomic, ticket or redeem arrives in its task, R212, R228, R431. -/
def execLoadCompletion (op : Nat) (s : State) : Host.Outcome State Fault Refusal :=
  let done := s.did (.loadCompletion op)
  match s.ops.look op with
  | none => .next done
  | some o =>
    if !o.ldc then .next done
    else if !o.ready then .next s
    else
      let t := done.dropOp op o
      if !t.alive o.task then .next t
      else
        let x := t.slot o.task.core o.task.slot
        let bad := if o.kind = .mem then o.elems.find? (·.bad) else none
        match bad with
        | some e => .next ((t.setSlot o.task.core o.task.slot (x.ended op o)).dataTrap o.task e.va)
        | none =>
          let refused : Bool := (match o.ret with
            | .redeem _ none => o.status != 0
            | _ => false)
          if refused then
            let t := t.setSlot o.task.core o.task.slot (x.ended op o)
            let addr : Nat := (match o.kind with
              | .ticketRedeem k => (Cap.ofBits k).addr.toNat
              | _ => 0)
            .next (t.remoteFault o.task causeTicket addr o.status)
          else
            let t := t.setSlot o.task.core o.task.slot ((x.ended op o).land (fun a => a.deliver o))
            match o.ret with
            | .redeem _ none => .next (t.closeWindow o.task)
            | _ => .next t

/-- An acknowledgement reaches the task, R191, R212, R249. -/
def execStoreAcknowledgement (op : Nat) (s : State) : Host.Outcome State Fault Refusal :=
  let done := s.did (.storeAcknowledgement op)
  match s.ops.look op with
  | none => .next done
  | some o =>
    if !o.stc then .next done
    else if !o.ready then .next s
    else .next ((done.dropOp op o).updTask o.task (fun x => x.ended op o))

end Sys2Proof.Machine
end

