-- ==== Sys2Proof/Machine/Engines.lean ====
section
/-!
DEFINITION. Copy engines: engine registers (R268, R269), the checks and the issue of CPY (R274, R275), the geometry of a
copy (R272, R277, R281, R282), and the running of jobs with their stages (R264, R271, R277 to R280).
-/

namespace Sys2Proof.Machine

/-! ## Engines and geometry -/

/-- The number of an engine, R264: a node's copy engine, or engine e of a big core. -/
def engineId (c e : Nat) : Nat := if isBig c then 65536 + 4 * c + e else nodeOf c

/-- Fields of the geometry registers, R268. -/
def ctrlRank (x : Nat) : Nat := bits x 2 0
def ctrlEsz (x : Nat) : Nat := bits x 4 3
def ctrlDir (x : Nat) : Bool := bit x 5
def ctrlPrs (x : Nat) : Nat := bits x 9 6
def dimTile (x : Word) : Nat := bits x.toNat 47 32
def dimExt (x : Word) : Nat := bits x.toNat 31 0

/-- An element of a list of words. -/
def wordAt (l : List Word) (k : Nat) : Nat := (l[k]?.getD 0).toNat

/-- The failing dimension register of R275 step 2, with the running product of the tile. -/
def dimFault : List Word → Nat → Nat → Option Nat
  | [], _, _ => none
  | d :: r, p, k =>
    let q := p * dimTile d
    if bits d.toNat 63 48 ≠ 0 ∨ dimTile d = 0 ∨ dimExt d = 0 ∨ q > 2 ^ 32 then some k else dimFault r q (k + 1)

/-- The failing AUX register of a kind, R276, R277, R281, R282. -/
def auxFault (kind rank a0 a1 a2 : Nat) : Option Nat :=
  let bad0 : Bool := (match kind with
    | 1 => bits a0 63 32 == 0 || bits a0 31 11 != 0 || decide (bits a0 10 8 ≥ rank) || bits a0 7 4 != 0 ||
        decide (bits a0 3 0 < 2) || decide (bits a0 3 0 > 8)
    | 4 => a0 % 8 != 0
    | 5 => bits a0 63 32 == 0 || bits a0 31 22 != 0 || bits a0 15 14 != 0 || bits a0 7 3 != 0 || decide (bits a0 2 0 ≥ rank)
    | _ => a0 != 0)
  let bad1 : Bool := (match kind with
    | 1 => false
    | 4 => bits a1 63 32 == 0 || bits a1 31 0 == 0
    | _ => a1 != 0)
  if bad0 then some 17 else if bad1 then some 18 else if a2 ≠ 0 then some 19 else none

/-- R275 step 2 on a set's twenty registers: the register that fails first. The AUX limits of loop and slab copies are checked
at step 6, as their own entries say (R277, R282, assumption 56). -/
def geomFault (g : List Word) (kind : Nat) : Option Nat :=
  let c := wordAt g 0
  let rank := ctrlRank c
  if c ≥ 2 ^ 10 ∨ rank = 0 ∨ rank > 5 then some 0
  else match dimFault ((g.drop 2).take rank) (2 ^ ctrlEsz c) 2 with
    | some k => some k
    | none => if kind = 1 ∨ kind = 5 then none else auxFault kind rank (wordAt g 17) (wordAt g 18) (wordAt g 19)

/-- A card's geometry from a set's registers; registers above the rank take no part, R268. -/
def Card.withGeometry (k : Card) (g : List Word) : Card :=
  let c := wordAt g 0
  let rank := ctrlRank c
  { k with esz := ctrlEsz c, rank := rank, dir := ctrlDir c, base := g[1]?.getD 0, dims := (g.drop 2).take rank,
           strs := (g.drop 7).take rank, orgs := (g.drop 12).take rank, aux := g.drop 17 }

def Card.es (k : Card) : Nat := 2 ^ k.esz
def Card.tiles (k : Card) : List Nat := if k.plain = 0 then k.dims.map dimTile else [k.plain]
def Card.count (k : Card) : Nat := k.tiles.foldl (· * ·) 1
def Card.total (k : Card) : Nat := k.es * k.count
def Card.auxAt (k : Card) (i : Nat) : Nat := wordAt k.aux i
def Card.tensor (k : Card) : Cap := if k.dir then k.dst.cap else k.src.cap
def Card.dense (k : Card) : Cap := if k.dir then k.src.cap else k.dst.cap
def Card.iters (k : Card) : Nat := if k.kind = 1 then bits (k.auxAt 0) 63 32 else 1
def Card.nstg (k : Card) : Nat := bits (k.auxAt 0) 3 0
def Card.sdim (k : Card) : Nat := bits (k.auxAt 0) 10 8

/-- TB, R272, unreduced, and modulo 2^64. -/
def Card.tbInt (k : Card) : Int := (k.tensor.addr.toNat : Int) + sext k.base.toNat 64
def Card.tb (k : Card) : Nat := wrap k.tbInt 64

/-- The origins of an iteration, R277. -/
def Card.orgAt (k : Card) (iter : Nat) : List Int :=
  let l := k.orgs.map (fun w => sext w.toNat 64)
  if k.kind = 1 then l.set k.sdim ((l[k.sdim]?.getD 0) + (iter : Int) * sext (k.auxAt 1) 64) else l

/-- The signed strides. -/
def Card.strides (k : Card) : List Int := k.strs.map (fun w => sext w.toNat 64)

/-- The position of an element in a tile, dimension 0 fastest. -/
def digitsOf : List Nat → Nat → List Nat
  | [], _ => []
  | n :: r, m => m % n :: digitsOf r (m / n)

/-- The linear index of a position in given sizes. -/
def linearOf : List Nat → List Nat → Nat
  | n :: r, t :: u => t + n * linearOf r u
  | _, _ => 0

/-- The sum of products of two lists. -/
def dotInt : List Int → List Int → Int
  | x :: r, y :: u => x * y + dotInt r u
  | _, _ => 0

/-- The coordinates of an element, R272. -/
def Card.coords (k : Card) (iter m : Nat) : List Int :=
  ((k.orgAt iter).zip (digitsOf k.tiles m)).map (fun p => p.1 + (p.2 : Int))

/-- Whether coordinates lie inside the tensor. -/
def Card.inside (k : Card) (c : List Int) : Bool :=
  (c.zip k.dims).all (fun p => decide (0 ≤ p.1) && decide (p.1 < (dimExt p.2 : Int)))

/-- Fields of a slab copy, R282. -/
def Card.mblk (k : Card) : Nat := bits (k.auxAt 0) 63 32
def Card.rh (k : Card) : Nat := bits (k.auxAt 0) 21 16
def Card.rw (k : Card) : Nat := bits (k.auxAt 0) 13 8
def Card.mdim (k : Card) : Nat := bits (k.auxAt 0) 2 0
def Card.nr (k : Card) : Nat := (k.rw + 1) * (k.rh + 1)

/-- The sizes of a core's share, R282. -/
def Card.shareSizes (k : Card) : List Nat :=
  k.tiles.set k.mdim (k.mblk * ceilDiv (ceilDiv (k.tiles[k.mdim]?.getD 1) k.mblk) k.nr)

/-- The bytes of a core's share, R282. -/
def Card.share (k : Card) : Nat := k.es * k.shareSizes.foldl (· * ·) 1

/-- Core r of a slab's rectangle, R282; none where the rectangle leaves what it may name. -/
def State.slabCore (s : State) (k : Card) (r : Nat) : Option Nat :=
  let a := k.dst.cap.addr.toNat
  let c := bits a 49 36
  let dx := r % (k.rw + 1)
  let dy := r / (k.rw + 1)
  let sp := bits a 35 32
  if bits a 63 60 ≠ 0xE ∨ coreY c ≥ 24 then none
  else if sp = 0 ∨ sp = 4 then
    let x := coreCx c + dx
    let y := coreCy c + dy
    let t := coreAtC (corePlate c) x y
    if x < 64 ∧ y < 48 ∧ isLittle t ∧ !s.isEasel t then some t else none
  else if sp = 2 then
    match blockCol (coreX c), blockRow (coreY c) with
    | some bx, some bY => if isBig c ∧ bx + dx < 4 ∧ bY + dy < 4 then some (bigId (corePlate c) (bx + dx) (bY + dy)) else none
    | _, _ => none
  else none

/-- The dense address of an element, R272, R277, R282. -/
def State.denseAddr (s : State) (k : Card) (iter m : Nat) : Nat :=
  let a := k.dense.addr.toNat
  if k.kind = 5 then
    let t := digitsOf k.tiles m
    let tm := t[k.mdim]?.getD 0
    let q := tm / k.mblk
    let l := q / k.nr * k.mblk + tm % k.mblk
    let o := k.es * linearOf k.shareSizes (t.set k.mdim l)
    match s.slabCore k (q % k.nr) with
    | some c => (setBits a 49 36 c + o) % 2 ^ 64
    | none => a
  else
    let stage := if k.kind = 1 then iter % k.nstg else 0
    (a + stage * k.total + k.es * m) % 2 ^ 64

/-! ## The checks of CPY, R275 -/

/-- A fault of a card's check. -/
abbrev CardFault := Nat × Nat

/-- R275 step 3 on one capability. -/
def capRole (r : Reg) (p : Perm) : Option CardFault :=
  let c := r.cap
  let x := c.addr.toNat
  if !r.tag then some (causeTag, x) else if c.otype ≠ 0 then some (causeSeal, x)
  else if !(c.has .eng && c.has p) then some (causePerm, x) else none

/-- The least and greatest origin, among those of the iterations, at which a tile meets a dimension, R273, R277; none where
none does. -/
def metOrigins (o step : Int) (iters : Nat) (tile ext : Int) : Option (Int × Int) :=
  let span := fun (i j : Int) =>
    let i := max 0 i
    let j := min ((iters - 1 : Nat) : Int) j
    if i ≤ j then some (min (o + i * step) (o + j * step), max (o + i * step) (o + j * step)) else none
  if step = 0 then (if o < ext ∧ 0 < o + tile then some (o, o) else none)
  else if step > 0 then span ((-(tile + o)) / step + 1) ((ext - 1 - o) / step)
  else span ((o - ext) / (-step) + 1) ((o + tile - 1) / (-step))

/-- The least and greatest coordinates of the inside elements in each dimension, R275 step 3; none where a dimension has
none. -/
def Card.insideBox (k : Card) : Option (List (Int × Int)) :=
  let row := fun (d : Nat) (o : Int) (w : Word) =>
    let step := if k.kind = 1 ∧ d = k.sdim then sext (k.auxAt 1) 64 else 0
    (metOrigins o step k.iters (dimTile w) (dimExt w)).map (fun p => (max 0 p.1, min (dimExt w : Int) (p.2 + (dimTile w : Int)) - 1))
  (((k.orgAt 0).zip k.dims).zipIdx).mapM (fun p => row p.2 p.1.1 p.1.2)

/-- The least and the greatest address of an inside element, R275 step 3: at the corners of their box, the least one modulo 2^64.
-/
def Card.corners (k : Card) : Option (Int × Int) :=
  k.insideBox.map (fun l =>
    let lo := k.tbInt + (l.zip k.strides).foldl (fun s p => s + min (p.1.1 * p.2) (p.1.2 * p.2)) (0 : Int)
    let hi := k.tbInt + (l.zip k.strides).foldl (fun s p => s + max (p.1.1 * p.2) (p.1.2 * p.2)) (0 : Int)
    (lo % 2 ^ 64, lo % 2 ^ 64 + (hi - lo)))

/-- Whether the inside elements lie within the tensor's bounds. -/
def Card.tensorFits (k : Card) : Bool :=
  match k.corners with
  | none => true
  | some (lo, hi) => decide (k.tensor.base ≤ lo) && decide (hi + (k.es : Int) ≤ k.tensor.top)

/-- The address whose form step 5 of R275 checks on the tensor side: TB, or where that is no address of 64 bits the least one of
an inside element (DESIGN CHOICE, assumption 111). -/
def Card.formAt (k : Card) : Nat :=
  match k.corners with
  | some (lo, _) => if 0 ≤ k.tbInt ∧ k.tbInt < 2 ^ 64 then k.tb else lo.toNat
  | none => k.tb

/-- The dense ranges of a card: address and length. -/
def State.denseRanges (s : State) (k : Card) : List (Nat × Nat) :=
  let a := k.dense.addr.toNat
  if k.kind = 5 then
    (List.range k.nr).filterMap (fun r => (s.slabCore k r).map (fun c => (setBits a 49 36 c, k.share)))
  else [(a, k.total * (if k.kind = 1 then k.nstg else 1))]

/-- R275 step 3. -/
def State.cardCaps (s : State) (k : Card) : Option CardFault :=
  match capRole k.src .ld, capRole k.dst .st with
  | some f, _ => some f
  | none, some f => some f
  | none, none =>
    let t := k.tensor
    if (s.denseRanges k).any (fun r => !k.dense.covers r.1 r.2) then some (causeBounds, k.dense.addr.toNat)
    else if k.kind = 4 then
      let lo := (t.addr.toNat : Int) + sext (k.auxAt 0) 64
      if lo < t.base ∨ lo + ((8 * bits (k.auxAt 1) 63 32 : Nat) : Int) > t.top then some (causeBounds, t.addr.toNat) else none
    else if !k.tensorFits then some (causeBounds, t.addr.toNat)
    else none

/-- R275 step 4: the first misaligned value. -/
def Card.misaligned (k : Card) : Option Nat :=
  ((k.tb :: k.strs.map (·.toNat)) ++ [k.dense.addr.toNat]).find? (fun x => x % k.es != 0)

/-- Whether an address names local storage of another device. -/
def State.otherDevice (s : State) (x : Nat) : Bool := bits x 63 60 == 0xE && bits x 59 50 != s.table.devnum

/-- Whether a range of a local window is storage that copy engines use in a direction, R185, R189: its space, its size, and
whole granules of a typed buffer. -/
def localDense (x n : Nat) (dir : Bool) : Bool :=
  let c := bits x 49 36
  let off := bits x 31 0
  let fits := fun (size gran : Nat) => decide (off + n ≤ size) && off % gran == 0 && n % gran == 0
  match bits x 35 32 with
  | 0 => isLittle c && fits 0x20000 1
  | 1 => isBig c && !dir && fits 0x400000 512
  | 2 => isBig c && fits 0x200000 128
  | 3 => isBig c && fits 0x100000 4096
  | 4 => off < 0x20000 → off + n ≤ 0x20000
  | _ => false

/-- Whether a dense range may be used by a copy engine in the job's direction, R185, R189, R275 step 5, R277. C-store units
that a SPILLMAP names end the job with an error instead, R188, R271. -/
def State.denseOk (s : State) (a : Access) (k : Card) (r : Nat × Nat) : Bool :=
  let x := r.1
  let sp := bits x 35 32
  let reached := fun (y : Nat) => (match s.localPlace a { x := y, n := 1, align := 1, rd := k.dir, wr := !k.dir } with
    | .ok _ => true
    | .error _ => false)
  if k.kind = 1 ∧ !(bits x 63 60 == 0xE && bits x 59 50 == s.table.devnum && nodeOf (bits x 49 36) == nodeOf a.core &&
      !isBig a.core && (sp == 0 || sp == 4)) then false
  else if s.otherDevice x then decide (bits x 59 50 < s.table.podsz) && localDense x r.2 k.dir
  else if bits x 63 60 < 8 then bits x 59 57 == 0
  else bits x 63 60 == 0xE && localDense x r.2 k.dir && (sp == 3 || (reached x && reached (x + r.2 - 1)))

/-- Whether an address may be of the tensor side: a virtual address, or space 0 or 4 of this device, R275 step 5. -/
def State.tensorForm (s : State) (x : Nat) : Bool :=
  let sp := bits x 35 32
  (decide (bits x 63 60 < 8) && bits x 59 57 == 0) || (bits x 63 60 == 0xE && bits x 59 50 == s.table.devnum && (sp == 0 || sp == 4))

/-- R275 step 5: the address that fails. -/
def State.cardStorage (s : State) (a : Access) (k : Card) : Option Nat :=
  let t := k.formAt
  let reached := bits t 63 60 != 0xE || (match s.localPlace a { x := t, n := 1, align := 1 } with
    | .ok _ => true
    | .error _ => false)
  if !(s.tensorForm t && reached) then some t
  else ((s.denseRanges k).find? (fun r => !s.denseOk a k r)).map (·.1)

/-- R275 step 6 for the kinds without a follow-on: the register that fails, R277, R282. -/
def State.cardKind (s : State) (k : Card) : Option Nat :=
  if k.kind ≠ 1 ∧ k.kind ≠ 5 then none
  else if k.dir ∨ (k.kind = 1 ∧ k.total % 4 ≠ 0) then some 0
  else match auxFault k.kind k.rank (k.auxAt 0) (k.auxAt 1) (k.auxAt 2) with
    | some r => some (if k.kind = 5 then 17 else r)
    | none => if k.kind = 5 ∧ !(List.range k.nr).all (fun r => (s.slabCore k r).isSome) then some 17 else none

/-- Steps 3 to 6 of R275. -/
def State.cardFault (s : State) (a : Access) (k : Card) (sel : Nat) : Option CardFault :=
  match s.cardCaps k with
  | some f => some f
  | none => match k.misaligned with
    | some x => some (causeAlign, x)
    | none => match s.cardStorage a k with
      | some x => some (causeAccess, x)
      | none => (s.cardKind k).map (fun r => (causeRange, sel + r))

/-! ## Jobs in their inboxes -/

/-- A region of a job's footprint, R267, as [base, top). -/
def capRegion (c : Cap) : Int × Int := (c.base, c.top)

/-- The region of an operand: the bounds of its capability, or the bytes that a COPY step names, R395. -/
def Card.region (k : Card) (c : Cap) : Int × Int :=
  if k.plain = 0 then capRegion c else ((c.addr.toNat : Int), ((c.addr.toNat + k.total : Nat) : Int))

/-- Whether two regions share a byte. -/
def meets (x y : Int × Int) : Bool := decide (x.1 < y.2) && decide (y.1 < x.2)

/-- The read regions and the write region of a card, R267. -/
def Card.reads (k : Card) : List (Int × Int) :=
  let t := (k.tensor.addr.toNat : Int) + sext (k.auxAt 0) 64
  k.region k.src.cap :: (if k.kind = 4 then [(t, t + ((8 * bits (k.auxAt 1) 63 32 : Nat) : Int))] else [])
def Card.writes (k : Card) : Int × Int := k.region k.dst.cap

/-- A dependence edge of R252 from an earlier job to a later one. -/
def Card.before (x y : Card) : Bool :=
  y.reads.any (meets x.writes) || x.reads.any (meets y.writes) || meets x.writes y.writes

/-- The jobs of an engine, in inbox order. -/
def State.jobsOf (s : State) (e : Nat) : List (Nat × Job) := s.jobs.filter (fun j => j.2.engine == e)

/-- Cards waiting in an inbox, and those of them that SEND.eng brought, R264. -/
def State.inboxLen (s : State) (e : Nat) : Nat := ((s.jobsOf e).filter (fun j => !j.2.running)).length
def State.sendCards (s : State) (e : Nat) : Nat := ((s.jobsOf e).filter (fun j => !j.2.running && j.2.bySend)).length

/-- Whether a region holds an element's first byte address as the instruction formed it. -/
def inRegion (r : Int × Int) (e : Elem) : Bool := meets r ((e.va : Int), ((e.va + e.n : Nat) : Int))

/-- Whether the issuing task's earlier accesses that overlap a job's regions have been performed, R253. -/
def State.issuerDone (s : State) (id : Nat) (t : Option TaskRef) (rd : List (Int × Int)) (wr : List (Int × Int)) : Bool :=
  match t with
  | none => true
  | some t => ((s.earlier id t).flatMap (·.elems)).all (fun e =>
      e.performed || (!wr.any (fun r => inRegion r e) && !(e.writes && rd.any (fun r => inRegion r e))))

/-- Whether an engine's block belongs to the other world than its job, R413. -/
def State.foreignWorld (s : State) (j : Job) : Bool := s.secureEngines.at (corePlate j.core) false != j.world

/-- Whether a job may start, R264, R252, R253, R339, behind what R245 and R248 keep before it. -/
def State.jobMayStart (s : State) (id : Nat) (j : Job) : Bool :=
  let l := s.jobsOf j.engine
  decide ((l.filter (fun o => o.2.running)).length < 4) && !s.haltedPart j.part &&
    l.all (fun o => decide (o.1 ≥ id) || (o.2.running && !o.2.card.before j.card)) &&
    s.issuerDone id j.task j.card.reads [j.card.writes] &&
    (match j.task with
      | some t => s.mayStart id t true false
      | none => true)

/-- An engine takes a job from its inbox, R264. -/
def execJobStart (job : Nat) (s : State) : Host.Outcome State Fault Refusal :=
  let done := s.did (.jobStart job)
  match s.jobs.look job with
  | none => .next done
  | some j =>
    if j.running then .next done
    else if j.valid ∧ !j.cancelled ∧ !s.jobMayStart job j then .next s
    else
      let loop := j.card.kind = 1 ∧ j.valid
      let t := { done with jobs := s.jobs.set job { j with running := true, stages := List.replicate j.card.nstg .free } }
      .next (t.push (if loop then .stageFilled job 0 else .jobCompletion job))

/-! ## Moving elements -/

/-- The access that an engine makes for a job. -/
def Job.access (j : Job) : Access := ⟨j.core, j.ctx, j.part, j.world, j.sup, .job j.id⟩

/-- The ERR code of a fault, R271; none for an access that has to wait for its walk, R204. -/
def errOf (code : Nat) : Nat :=
  if code = notYet then 0 else if code = causeTranslation then 1 else if code = causePageTable then 2 else if code = causePagePerm then 3 else 4

/-- Where an engine's access goes under the page that its operand has pinned, R206, or under a new translation, which is
then pinned; `w` says the operand that is written. -/
def State.placePinned (s : State) (j : Job) (r : Req) (w : Bool) : Except Nat Place × Job × State :=
  let a := j.access
  let virt : Bool := decide (bits r.x 63 60 < 8) && bits r.x 59 57 == 0
  let held : Option TlbEntry := (match j.pins.look (b2n w) with
    | some e => if virt && e.covers a.part a.ctx r.x then some e else none
    | none => none)
  match held with
  | some e => (s.placeUnder e a r, j, s)
  | none =>
    let (p, t) := s.placeOf a r
    let pin := (t.tlb1 a.core).find? (fun e => virt && e.covers a.part a.ctx r.x)
    let pins := (match pin with
      | some e => j.pins.set (b2n w) e
      | none => j.pins.drop (b2n w))
    (p, { j with pins := pins }, t)

/-- Whether the core of another device that a job's access names is one of the secure world and so refuses it, R413, R415: a free
choice, where neither the job's world nor PERM.WRLD of its capability lets it pass. -/
def State.farSecure (s : State) (world wrld : Bool) : Bool × State :=
  if world ∧ wrld then (false, s)
  else
    let (v, s) := s.draw
    (v % 2 == 1, s)

/-- Where an engine's access goes, R271: the storage, or the ERR code. The footprint is the capability's bounds, R267. -/
def State.engineAt (s : State) (j : Job) (c : Cap) (x : Nat) (wr tensor : Bool) : Except Nat Nat × Job × State :=
  let n := j.card.es
  if !c.covers x n then (.error 5, j, s)
  else if tensor && !s.tensorForm x then (.error 4, j, s)
  else match s.placePinned j { x := x, n := n, align := 1, rd := !wr, wr := wr } wr with
    | (.error code, j, t) => (.error (errOf code), j, t)
    | (.ok p, j, t) =>
      if p.secure && !(j.world && c.has .wrld) then (.error 4, j, t) else (.ok p.key, j, t)

/-! Granules are read and written whole, R242, R264; none where the storage does not accept the access now. -/

/-- n bytes read, with those of their granule that the job has read already: the value, or the ERR code. -/
def State.readBytes (s : State) (j : Job) (key n : Nat) : Option (Except Nat Nat × Job × State) :=
  let g := key / 16
  let cut := fun (v : Nat) (j : Job) (t : State) => (if t.badAt key n then .error 6 else .ok (v / 2 ^ (8 * (key % 16)) % 2 ^ (8 * n)), j, t)
  match j.rbuf.look g with
  | some v => some (cut v j s)
  | none =>
    if s.jobGuarded j.core j.task (16 * g) 16 false then none
    else (s.touchLine j.part (some j.core) (16 * g) false).map (fun t =>
      let v := t.readMem (16 * g) 16
      cut v { j with rbuf := j.rbuf.set g v } t)

/-- A granule leaves for its storage, in one access. -/
def State.sendGranule (s : State) (j : Job) (b : Granule) : Option State :=
  if b.far then
    let m : PodBody := .write (16 * b.at_) 16 b.mask b.data j.world b.wrld
    let dev := bits (16 * b.at_) 59 50
    some { s with podOut := s.podOut ++ [{ src := s.table.devnum, dst := dev, body := m, via := s.portTo dev j.core (bits (16 * b.at_) 49 36) }] }
  else if s.jobGuarded j.core j.task (16 * b.at_) 16 true then none
  else (s.touchLine j.part (some j.core) (16 * b.at_) true).map (fun t => t.writeMem (16 * b.at_) 16 b.mask b.data)

/-- The oldest granule that a job has begun to write leaves. -/
def State.flushJob (s : State) (j : Job) : Option (Job × State) :=
  match j.wbuf with
  | [] => some (j, s)
  | b :: r => (s.sendGranule j b).map (fun t => ({ j with wbuf := r }, t))

/-- A granule with n more of its bytes, from byte o on. -/
def Granule.put (b : Granule) (o n d : Nat) : Granule :=
  { b with mask := b.mask ||| (2 ^ n - 1) * 2 ^ o, data := setBits b.data (8 * o + 8 * n - 1) (8 * o) d }

/-- n bytes of a job's granule written, R272: a whole granule leaves at once, and one in part when the tile ends. -/
def State.putJobBytes (s : State) (j : Job) (far wrld : Bool) (x n d : Nat) : Option (Job × State) :=
  let same := fun (b : Granule) => b.far == far && b.at_ == x / 16
  let b := ((j.wbuf.find? same).getD { far := far, wrld := wrld, at_ := x / 16, mask := 0, data := 0 }).put (x % 16) n d
  let rest := j.wbuf.filter (fun c => !same c)
  if b.mask = 0xFFFF then (s.sendGranule j b).map (fun t => ({ j with wbuf := rest }, t))
  else some ({ j with wbuf := rest ++ [b] }, s)

/-! Elements, R272, R281: none where one waits, else the result or the error that ends the job. -/

/-- Bytes of a table read in pieces that no granule's end divides: their value above those read before. -/
def State.tablePieces (s : State) (j : Job) : List (Nat × Nat) → Nat → Nat → Option (Except (Nat × Nat) Nat × Job × State)
  | [], v, _ => some (.ok v, j, s)
  | (x, n) :: r, v, o =>
    match s.placeOf j.access { x := x, n := n, align := 1 } with
    | (.error code, t) => some (.error (errOf code, x), j, t)
    | (.ok p, t) =>
      if p.secure && !(j.world && j.card.tensor.has .wrld) then some (.error (4, x), j, t)
      else if t.jobGuarded j.core j.task p.key n false then none
      else match t.touchLine j.part (some j.core) p.key false with
        | none => none
        | some t =>
          if t.badAt p.key n then some (.error (6, x), j, t)
          else t.tablePieces j r (v + t.readMem p.key n * 2 ^ (8 * o)) (o + n)

/-- A block-table entry of a job, read once per block, R281: TBLOFF alone is a multiple of 8, and an entry may lie across two
granules. -/
def State.blockEntry (s : State) (j : Job) (e : Nat) : Option (Except (Nat × Nat) Nat × Job × State) :=
  match j.blocks.look e with
  | some v => some (.ok v, j, s)
  | none =>
    let c := j.card.tensor
    let x := wrap ((c.addr.toNat : Int) + sext (j.card.auxAt 0) 64 + ((8 * e : Nat) : Int)) 64
    let n := min 8 (16 - x % 16)
    (s.tablePieces j (if n = 8 then [(x, 8)] else [(x, n), ((x + n) % 2 ^ 64, 8 - n)]) 0 0).map (fun r => match r with
      | (.error f, j, t) => (.error f, j, t)
      | (.ok v, j, t) => (.ok v, { j with blocks := j.blocks.set e v }, t))

/-- The tensor address of an element: none where it is outside, R272, R281. -/
def State.tensorAddr (s : State) (j : Job) (m : Nat) : Option (Except (Nat × Nat) (Option Nat) × Job × State) :=
  let k := j.card
  let co := k.coords j.iter m
  if !k.inside co then some (.ok none, j, s)
  else if k.kind ≠ 4 then some (.ok (some (wrap ((k.tb : Int) + dotInt co k.strides) 64)), j, s)
  else
    let d := k.rank - 1
    let cd := (co[d]?.getD 0).toNat
    let brows := bits (k.auxAt 1) 31 0
    let e := cd / brows
    if e ≥ bits (k.auxAt 1) 63 32 then some (.ok none, j, s)
    else (s.blockEntry j e).map (fun r => match r with
      | (.error f, j, t) => (.error f, j, t)
      | (.ok v, j, t) =>
        if v = 2 ^ 64 - 1 then (.ok none, j, t)
        else
          let low := dotInt (co.take d) (k.strides.take d)
          let a := wrap ((k.tensor.addr.toNat : Int) + (v : Int) + sext k.base.toNat 64 +
            ((cd % brows : Nat) : Int) * (k.strides[d]?.getD 0) + low) 64
          if !k.tensor.covers a k.es ∨ a % k.es ≠ 0 then (.error (5, a), j, t) else (.ok (some a), j, t))

/-- One side of an element written; `tensor` says which. A dense side may lie on another device of the pod, whose acceptance of
the granule is not known here; one that no link reaches ends the job with ERR 4, R400, and so may, by a free choice, a core of the
secure world, R413, R415. -/
def State.writeSide (s : State) (j : Job) (tensor : Bool) (x d : Nat) : Option (Except Nat Unit × Job × State) :=
  let done := fun (p : Job × State) => ((.ok () : Except Nat Unit), ({ p.1 with written := p.1.written + j.card.es } : Job), p.2)
  if !tensor && s.otherDevice x then
    let (far, s) := s.farSecure j.world (j.card.dst.cap.has .wrld)
    if far ∨ (s.routes.at (bits x 59 50) []).isEmpty then some (.error 4, j, s)
    else (s.putJobBytes j true (j.card.dst.cap.has .wrld) x j.card.es d).map done
  else match s.engineAt j j.card.dst.cap x true tensor with
    | (.error e, j, t) => some (.error e, j, t)
    | (.ok key, j, t) => (t.putJobBytes j false false key j.card.es d).map done

/-- One side of an element read; `tensor` says which. Storage of another device of the pod supplies any value, or is one of the
secure world. -/
def State.readSide (s : State) (j : Job) (tensor : Bool) (x : Nat) : Option (Except Nat Nat × Job × State) :=
  if !tensor && s.otherDevice x then
    let (far, s) := s.farSecure j.world (j.card.src.cap.has .wrld)
    if far ∨ (s.routes.at (bits x 59 50) []).isEmpty then some (.error 4, j, s)
    else
      let (v, s) := s.draw
      some (.ok (v % 2 ^ (8 * j.card.es)), j, s)
  else match s.engineAt j j.card.src.cap x false tensor with
    | (.error e, j, t) => some (.error e, j, t)
    | (.ok key, j, t) => t.readBytes j key j.card.es

/-- A job that ends with an error; with 0 it goes on. -/
def Job.failed (j : Job) (err at_ : Nat) : Job := { j with err := err, errAt := at_ }

/-- The address of the first element that a job's engine would touch, R270, R272: the first inside one, or of a job to a dense
block the pad in its place. -/
def State.firstTouch (s : State) (j : Job) : Nat :=
  let k := j.card
  let inside := fun (m : Nat) => k.inside (k.coords j.iter m)
  if k.dir then s.denseAddr k j.iter (((List.range k.count).find? inside).getD 0)
  else if !inside 0 then s.denseAddr k j.iter 0
  else if k.kind = 4 then wrap ((k.tensor.addr.toNat : Int) + sext (k.auxAt 0) 64) 64
  else wrap (k.tbInt + dotInt (k.coords j.iter 0) k.strides) 64

/-- A job refused because its engine's block belongs to the other world, R413. -/
def State.refusedJob (s : State) (j : Job) : Job := j.failed 4 (s.firstTouch j)

/-- One element of a job moved, R272; where one of its accesses waits for a walk the job stands as before. -/
def State.moveElem (s : State) (j : Job) : Option (Job × State) :=
  let fail := fun (x : Job) (e at_ : Nat) => if e = 0 then j else x.failed e at_
  let k := j.card
  let m := j.pos
  let d := s.denseAddr k j.iter m
  let put := fun (x pad : Nat) (r : Option (Except Nat Unit × Job × State)) => r.map (fun r => match r with
    | (.error e, j, t) => (fail j e x, t)
    | (.ok _, j, t) => ({ j with padded := j.padded + pad }, t))
  match s.tensorAddr { j with pos := m + 1 } m with
  | none => none
  | some (.error f, j, t) => some (fail j f.1 f.2, t)
  | some (.ok none, j, t) =>
    if k.dir then some ({ j with padded := j.padded + 1 }, t) else put d 1 (t.writeSide j false d (k.pad.toNat % 2 ^ (8 * k.es)))
  | some (.ok (some a), j, t) =>
    let (src, dst) := if k.dir then (d, a) else (a, d)
    match t.readSide j (!k.dir) src with
    | none => none
    | some (.error e, j, u) => some (fail j e src, u)
    | some (.ok v, j, u) => put dst 0 (u.writeSide { j with read := j.read + k.es } k.dir dst v)

/-- Elements of a job moved, up to a number of them, to the end of the tile, or to one that waits; behind the last the granules
written in part leave. -/
def State.moveSome (s : State) (j : Job) : Nat → Job × State
  | 0 => (j, s)
  | f + 1 =>
    if j.err ≠ 0 ∨ j.pos ≥ j.card.count then
      match j.wbuf, s.flushJob j with
      | _ :: _, some (j, t) => t.moveSome j f
      | _, _ => (j, s)
    else match s.moveElem j with
      | none => (j, s)
      | some (j, t) => t.moveSome j f

/-- Whether all of a tile has been moved, or the part before an error, and has been written. -/
def Job.moved (j : Job) : Bool := (j.err != 0 || decide (j.pos ≥ j.card.count)) && j.wbuf.isEmpty

/-! ## The end of a job, R270 -/

/-- The status word of a job, R270. -/
def Job.statusWord (j : Job) (gt : Nat) : Nat :=
  j.read % 2 ^ 64 + j.written % 2 ^ 64 * 2 ^ 64 + j.err * 2 ^ 128 + j.card.kind * 2 ^ 136 + j.padded % 2 ^ 48 * 2 ^ 144 +
    (if j.err = 0 then gt else j.errAt) % 2 ^ 64 * 2 ^ 192

/-- A message counted as sent or received for a launch at a core, R144. -/
def State.countSent (s : State) (c lid : Nat) : State :=
  s.updCore c (fun k => { k with sent := Sp.put 0 k.sent lid ((k.sent.at lid 0 + 1) % 2 ^ 32) })
def State.countRcvd (s : State) (c lid : Nat) : State :=
  s.updCore c (fun k => { k with rcvd := Sp.put 0 k.rcvd lid ((k.rcvd.at lid 0 + 1) % 2 ^ 32) })

/-- The identity under which a packet counts in SENT: that of its sender's own device, R144, R406. -/
def Packet.ownLid (p : Packet) : Nat := p.lidHere.getD p.msg.lid

/-- The identity that a message of a launch to a device carries, R406: in a pod grid, that of the device's part. -/
def Launch.lidFor (l : Launch) (dev : Nat) : Nat :=
  if l.podRoot.isSome ∧ l.lr.dev0 ≤ dev then (l.podLids[dev - l.lr.dev0]?).getD l.lid else l.lid

/-- The identity that a message of a task or job of a launch carries to an address's device, R144, R406. -/
def State.lidAt (s : State) (launch : Option Nat) (dev lid : Nat) : Nat :=
  match launch.bind s.launches.look with
  | some l => if dev = s.table.devnum then lid else l.lidFor dev
  | none => lid

/-- A packet on its way to its target, R153. -/
def State.putPacket (s : State) (c : Nat) (p : Packet) : Nat × State :=
  let (id, s) := s.fresh
  let s := { s with packets := s.packets.set id p }
  let ev := if p.kind = 3 then Instr.engineCardArrival id else Instr.messageArrival id
  (id, (s.countSent c p.ownLid).push ev)

/-- A packet that a core sends, with its copy in the core's retransmit buffer, R155. -/
def State.sendPacket (s : State) (c : Nat) (p : Packet) : Nat × State :=
  let (id, s) := s.putPacket c p
  (id, s.updCore c (fun k => { k with retx := k.retx ++ [id] }))

/-- The status of a SEND.eng card as a reply, R266: the engine keeps its copy, R354. -/
def State.replyStatus (s : State) (j : Job) : State :=
  if j.card.reply = 0 then s
  else
    let lid := s.lidAt j.launch (bits j.card.reply 59 50) j.lid
    let m : Msg := { lid := lid, src := s.table.devnum * 2 ^ 14 + j.core, len := 32, body := j.statusWord s.gt, ctx := j.ctx, world := j.world }
    (s.putPacket j.core { kind := 2, target := j.card.reply, msg := m, engine := true, lidHere := some j.lid }).2

/-- The packet that a command queue runs changed. -/
def State.updQueueRun (s : State) (q : Nat) (f : RunPacket → RunPacket) : State :=
  match s.queues.look q with
  | none => s
  | some x => { s with queues := s.queues.set q { x with run := x.run.map f } }

/-- A job leaves its engine: the status word, CPC and, behind a follow-on, MXC, at one moment, R275. The status of a card of an
aborted launch is discarded, R326. -/
def State.finishJob (s : State) (id : Nat) (j : Job) (flags : Flags) : State :=
  let t := { s with jobs := s.jobs.drop id }
  match j.task with
  | none => match j.queue with
    | some q => t.updQueueRun q (fun r => if r.waits = some id then { r with result := some j.err } else r)
    | none => if j.bySend ∧ !j.cancelled then t.replyStatus j else t
  | some r =>
    let w := BitVec.ofNat 1024 (j.statusWord s.gt)
    let n := b2n (j.card.kind = 3)
    let t := t.updTask r (fun x =>
      ({ x with cpc := x.cpc - 1, mxc := x.mxc - n, board := x.board.filter (fun b => b.2 != id) } : Slot).land (fun a => a.setVec j.dest w))
    if t.alive r then t.raiseLate r.core r.slot flags else t

/-- A matrix command joins the inbox of a big core, R299, with its serial as its place. -/
def State.queueCmd (s : State) (m : MtxCmd) : Nat × State :=
  let (id, s) := s.fresh
  (id, ({ s with cmds := s.cmds.set id m, mtxq := s.mtxq.set m.core (s.mtxq.at m.core [] ++ [id]) }).push (.matrixCommandStart m.core))

/-- The capacity of an inbox, R264. -/
def inboxSize : Nat := 32

/-- A job's engine works on it, R271, R280: some elements each time, and at the end the status or the follow-on command. -/
def execJobCompletion (job : Nat) (s : State) : Host.Outcome State Fault Refusal :=
  let ev := Instr.jobCompletion job
  match s.jobs.look job with
  | none => .next (s.did ev)
  | some j =>
    if !j.running ∨ j.copied ∨ (j.card.kind = 1 ∧ j.valid ∧ !j.cancelled) then .next (s.did ev)
    else if !j.valid then .next ((s.did ev).finishJob job { j with err := 8 } 0)
    else if j.cancelled then .next ((s.did ev).finishJob job { j with err := 7, errAt := 0 } 0)
    else if s.foreignWorld j then .next ((s.did ev).finishJob job (s.refusedJob j) 0)
    else
      let (v, t) := s.draw
      let (j, t) := t.moveSome j (v + 2)
      let t := { t with jobs := t.jobs.set job j }
      if !j.moved then .next t
      else match j.err, j.card.follow with
        | 0, some m =>
          if ((t.mtxq.at m.core []).filter (fun k => ((t.cmds.look k).map (fun c => c.admitted && !c.service)).getD false)).length ≥ inboxSize then .next t
          else
            let (_, t) := t.queueCmd { m with job := some job, admitted := true, sender := j.task.map (fun r => (r, job)) }
            .next ({ t with jobs := t.jobs.set job { j with copied := true } }.did ev)
        | _, _ => .next ((t.did ev).finishJob job j 0)

/-- The words of a stage of a loop copy, R277, R278. -/
def Card.stageKey (k : Card) (st : Nat) : Nat := (k.dst.cap.addr.toNat + st * k.total) % 2 ^ 64

/-- The key of a local address for a job; the ring lies in local storage of its node. -/
def State.ringKey (s : State) (j : Job) (x : Nat) : Nat :=
  match s.localPlace j.access { x := x, n := 4, align := 4, fe := true } with
  | .ok k => k
  | .error _ => 0

/-- Every word of a stage marked full or empty, R278, with the parked requests served. -/
def State.markStage (s : State) (j : Job) (st : Nat) (b : Bool) : State :=
  let a := j.card.stageKey st
  let t := (List.range (j.card.total / 4)).foldl (fun u i => u.setFull (u.ringKey j ((a + 4 * i) % 2 ^ 64)) b) s
  t.serve (parkPlace (s.ringKey j a)) (t.parked.length + 1)

/-- A stage of a loop copy fills, R277, R278: some elements each time; when the last is written the stage is marked full,
and the next iteration follows. -/
def execStageFilled (job stage : Nat) (s : State) : Host.Outcome State Fault Refusal :=
  let ev := Instr.stageFilled job stage
  match s.jobs.look job with
  | none => .next (s.did ev)
  | some j =>
    if j.cancelled then .next ((s.did ev).finishJob job { j with err := 7, errAt := 0 } 0)
    else if !j.running ∨ j.iter % j.card.nstg ≠ stage then .next (s.did ev)
    else if s.foreignWorld j then .next ((s.did ev).finishJob job (s.refusedJob j) 0)
    else if j.stages[stage]? = some .full then .next s
    else
      let (v, t) := s.draw
      let (j, t) := t.moveSome { j with stages := j.stages.set stage .filling } (v + 2)
      let t := { t with jobs := t.jobs.set job j }
      if !j.moved then .next t
      else if j.err ≠ 0 then .next ((t.did ev).finishJob job j 0)
      else
        let t := (t.did ev).markStage j stage true
        let j := { j with stages := j.stages.set stage .full, iter := j.iter + 1, pos := 0, rbuf := [] }
        let t := { t with jobs := t.jobs.set job j }
        if j.iter ≥ j.card.iters then .next (t.finishJob job j 0)
        else .next (t.push (.stageFilled job (j.iter % j.card.nstg)))

/-- A CPYREL at its engine, R278, R279. -/
def execStageRelease (op : Nat) (s : State) : Host.Outcome State Fault Refusal :=
  let done := s.did (.stageRelease op)
  match s.ops.look op with
  | none => .next done
  | some o => match o.kind with
    | .stageRelease addr =>
      if o.answered then .next done
      else if !s.mayStart op o.task true o.release then .next s
      else
        let hit := s.jobs.findSome? (fun e =>
          let j := e.2
          if j.running && j.card.kind == 1 && j.engine == engineId o.task.core 0 && j.ctx == o.ctx then
            ((List.range j.card.nstg).find? (fun st => j.card.stageKey st == addr && j.stages[st]? == some .full)).map (fun st => (e.1, j, st))
          else none)
        let t := (match hit with
          | none => done
          | some (k, j, st) =>
            let t := done.markStage j st false
            { t with jobs := t.jobs.set k { j with stages := j.stages.set st .free } })
        .next (({ t with ops := t.ops.set op { o with answered := true } }).push (.storeAcknowledgement op))
    | _ => .next done

/-! ## EREG, R269 -/

/-- The selector of an EREG: a range fault where it names no register. -/
def eregSelector (x : Nat) : Except Exit Nat :=
  if x ≥ 128 ∨ x % 32 ≥ 20 then faultAt causeRange x else .ok x

/-- EREG read, R269. -/
def execEregRd (g : BitVec 4) (d b : BitVec 6) (s : State) : Host.Outcome State Fault Refusal :=
  s.issue (.eregRd g d b) (fun e t => do
    let k ← eregSelector (e.x b)
    .ok (t.updArch (fun r => r.setScalar d.toNat ((e.sl.eregs.at k 0).toNat))))

/-- EREG write, R269. -/
def execEregWr (g : BitVec 4) (a b : BitVec 6) (s : State) : Host.Outcome State Fault Refusal :=
  s.issue (.eregWr g a b) (fun e t => do
    let k ← eregSelector (e.x b)
    .ok (t.updMe (fun x => { x with eregs := Sp.put 0 x.eregs k (BitVec.ofNat 64 (e.x a)) })))

end Sys2Proof.Machine
end

