-- ==== Sys2Proof/Machine/Matrix.lean ====
section
/-!
DEFINITION. The burin: operand records (R292 to R296), the checks of MTX (R298), the matrix command inbox (R299, R305), the
effect of each command (R300, R306 to R311), accumulator traps (R330 to R332), and deferred checks (R314).
-/

namespace Sys2Proof.Machine

/-! ## Commands and their operands -/

/-- The sub-value, the index and the formats of a command's word. -/
def MtxCmd.t (m : MtxCmd) : Nat := (m.word.extractLsb' 0 3).toNat
def MtxCmd.n (m : MtxCmd) : Nat := (m.word.extractLsb' 15 5).toNat
def MtxCmd.k (m : MtxCmd) : Nat := (mmaPair m.fa m.fb).getD 32

/-- A record's fields, R292. -/
def recSpace (r : Reg) : Nat := bits r.v.toNat 127 126
def recCbs (r : Reg) : Nat := bits r.v.toNat 122 120
def recTrans (r : Reg) : Bool := bit r.v.toNat 119
def recStride (r : Reg) : Nat := bits r.v.toNat 95 64
def recAddr (r : Reg) : Nat := bits r.v.toNat 63 0
def recZ (r : Reg) : Bool := bits r.v.toNat 125 123 != 0 || bits r.v.toNat 118 96 != 0

/-- What a command reads or writes through one of its records: the record, its capability, whether it is written, the
format code (16 for a whole accumulator), and how many stored rows of how many bytes. -/
structure Operand where
  r : Reg
  cap : Reg
  regNum : Nat
  wr : Bool
  fmt : Nat
  rows : Nat
  rb : Nat
  deriving DecidableEq, Repr

/-- The width of a format code of an operand, 4 for q4. -/
def opWidth (f : Nat) : Nat := if f = 6 then 4 else (Fmt.ofCode f).w

/-- A multiply operand, R293. -/
def mulOperand (r cap : Reg) (regNum f k : Nat) : Operand :=
  if recTrans r then ⟨r, cap, regNum, false, f, k, 32 * opWidth f / 8⟩ else ⟨r, cap, regNum, false, f, 32, k * opWidth f / 8⟩

/-- The record operands of a command, A before B, R297. -/
def MtxCmd.operands (m : MtxCmd) : List Operand :=
  let a := (m.word.extractLsb' 9 6).toNat
  let b := (m.word.extractLsb' 3 6).toNat
  match m.t with
  | 0 => [mulOperand m.a m.a1 a m.fa m.k, mulOperand m.b m.b1 b m.fb m.k]
  | 1 => [mulOperand m.a m.a1 a m.fa m.k, mulOperand m.b m.b1 b m.fb m.k]
  | 2 => [⟨m.a, m.a1, a, false, 16, 32, 128⟩]
  | 3 => [⟨m.a, m.a1, a, true, 16, 32, 128⟩]
  | 6 => [⟨m.a, m.a1, a, true, m.fb, 32, 32 * opWidth m.fb / 8⟩]
  | _ => []

/-- Whether a command multiplies. -/
def MtxCmd.isMul (m : MtxCmd) : Bool := m.t == 0 || m.t == 1

/-- The extent of a record, R293. -/
def Operand.extent (o : Operand) : Nat := (o.rows - 1) * recStride o.r + o.rb

/-- The access of a command to its L2 operands: in the issuer's context, partition and world, at the executing big core; in the
context that SEL names for an ACCLD or ACCST of the service slot, R330. -/
def MtxCmd.access (m : MtxCmd) : Access :=
  let who := (match m.task, m.guest, m.job with
    | some r, _, _ => Asker.task r
    | none, some g, _ => .guest g
    | none, none, j => .job (j.getD 0))
  match m.via with
  | some (ctx, part, world) => ⟨m.core, ctx, part, world, m.sup, who⟩
  | none => ⟨m.core, m.ctx, m.part, m.world, m.sup, who⟩

/-! ## The checks of R298 -/

/-- Step 3 on one record, R292 to R294, R296. -/
def Operand.rangeOk (o : Operand) (mul : Bool) : Bool :=
  let sp := recSpace o.r
  !o.r.tag && !recZ o.r && (if mul then sp != 3 else sp == 0 || sp == 3) &&
    (o.fmt == 6 || recCbs o.r == 0) && !(recTrans o.r && (o.fmt == 6 || !mul)) && !(sp == 0 && o.regNum == 63)

/-- Step 4 on one record, R296. -/
def Operand.capFault (o : Operand) : Option CardFault :=
  if recSpace o.r ≠ 0 then none
  else
    let c := o.cap.cap
    match capRole o.cap (if o.wr then .st else .ld) with
    | some f => some f
    | none => if c.covers (recAddr o.r) o.extent then none else some (causeBounds, c.addr.toNat)

/-- Step 5 on one record, R294. -/
def Operand.aligned (o : Operand) (acc : Bool) : Bool :=
  let a := recAddr o.r
  let st := recStride o.r
  match recSpace o.r with
  | 1 => a % 512 == 0 && st == o.rb
  | 2 => a % 128 == 0 && st == o.rb
  | 3 => a % 4096 == 0 && st == o.rb
  | _ => if acc then a % 128 == 0 && st % 128 == 0 && (!o.wr || decide (st ≥ 128)) else a % 32 == 0 && st % 32 == 0

/-- The unit of the owner table for a byte of a buffer, R295: W, then A, then C. -/
def ownerUnit (sp off : Nat) : Nat := (if sp = 1 then 0 else if sp = 2 then 64 else 96) + off / 65536

/-- Step 6 on one record, R182, R188, R294, R295. -/
def State.recordAccess (s : State) (m : MtxCmd) (o : Operand) : Bool :=
  let a := recAddr o.r
  let sp := recSpace o.r
  if sp = 0 then decide (bits a 63 60 < 8) && bits a 59 57 == 0
  else
    let top := a + o.extent
    let size := if sp = 1 then 0x400000 else if sp = 2 then 0x200000 else 0x100000
    let units := (List.range ((top - 1) / 65536 + 1 - a / 65536)).map (fun i => a / 65536 + i)
    decide (top ≤ size) &&
      units.all (fun u => (s.core m.core).big.owners.look (ownerUnit sp (u * 65536)) == some m.part) &&
      (sp != 3 || !(List.range ((top - 1) / 4096 + 1 - a / 4096)).any (fun i => s.cUnitLent m.core ((a / 4096 + i) * 4096)))

/-- Step 7 on one record: the pages of an L2 extent, with the keys of its 64 KiB pieces, R201, R202, R206. -/
def State.pinPages (s : State) (m : MtxCmd) (o : Operand) : List Nat → Sp Nat → Except CardFault (Sp Nat) × State
  | [], l => (.ok l, s)
  | x :: r, l =>
    match s.placeOf m.access { x := x, n := 1, align := 1, rd := !o.wr, wr := o.wr } with
    | (.error code, t) => (.error (code, x), t)
    | (.ok p, t) =>
      match worldCheck m.access (o.cap.cap.has .wrld) p with
      | some code => (.error (code, x), t)
      | none => t.pinPages m o r (l.set (x / 65536) (p.key - x % 65536))

/-- The first byte of each 64 KiB piece that an extent touches. -/
def Operand.pieces (o : Operand) : List Nat :=
  let a := recAddr o.r
  (List.range ((a + o.extent - 1) / 65536 + 1 - a / 65536)).map (fun i => max a ((a / 65536 + i) * 65536))

/-- Step 7 over a command's records. -/
def State.pinAll (s : State) (m : MtxCmd) : List Operand → Sp Nat → Except CardFault (Sp Nat) × State
  | [], l => (.ok l, s)
  | o :: r, l =>
    if recSpace o.r ≠ 0 then s.pinAll m r l
    else match s.pinPages m o o.pieces l with
      | (.error f, t) => (.error f, t)
      | (.ok l, t) => t.pinAll m r l

/-- Step 8: the codebook slot of a q4 operand belongs to the issuing context, R309. -/
def State.bookOk (s : State) (m : MtxCmd) (o : Operand) : Bool :=
  o.fmt != 6 || (match (s.core m.core).big.books.look (recCbs o.r) with
    | some b => b.ctx == m.ctx && b.part == m.part
    | none => false)

/-- Step 3 beyond the records: the slot of CODEB, the selector of ACCMV, the bound of ACCQ, R298, R308, R310. -/
def MtxCmd.fieldFault (m : MtxCmd) : Option CardFault :=
  let sel := scalarOf m.b.v
  if m.t = 5 ∧ m.n ≥ 8 then some (causeRange, m.n)
  else if m.t = 4 ∧ (bits sel 63 9 ≠ 0 ∨ bits sel 7 5 ≠ 0) then some (causeRange, sel)
  else if m.t = 6 ∧ m.prs ≠ 0 ∧ !validBound (Fmt.ofCode m.fb) (recordBound m.prec m.fb) then some (causeParam, m.prs)
  else none

/-- Steps 3 to 6 of R298 in their order: the step that fails, with the fault. -/
def State.mtxForm (s : State) (m : MtxCmd) : Option (Nat × CardFault) :=
  let ops := m.operands
  let acc := m.t == 2 || m.t == 3
  match ops.find? (fun o => !o.rangeOk m.isMul), m.fieldFault with
  | some o, _ => some (3, causeRange, recAddr o.r)
  | none, some f => some (3, f)
  | none, none => match ops.findSome? Operand.capFault with
    | some f => some (4, f)
    | none => match ops.find? (fun o => !o.aligned acc) with
      | some o => some (5, causeAlign, recAddr o.r)
      | none => (ops.find? (fun o => !s.recordAccess m o)).map (fun o => (6, causeAccess, recAddr o.r))

/-- Steps 3 to 8 of R298 in their order, with the step that fails: the command with its pinned pages, or the fault. -/
def State.mtxCheck (s : State) (m : MtxCmd) : Except (Nat × CardFault) MtxCmd × State :=
  match s.mtxForm m with
  | some f => (.error f, s)
  | none => match s.pinAll m m.operands [] with
    | (.error f, t) => (.error (7, f), t)
    | (.ok pins, t) => match m.operands.find? (fun o => !t.bookOk m o) with
      | some o => (.error (8, causeRange, recAddr o.r), t)
      | none => (.ok { m with pins := pins, checked := true }, t)

/-! ## Entering the inbox -/

/-- A command of the service slot goes ahead of the waiting command, R330; any other goes to the end, R299. -/
def joinQueue (s : State) (l : List Nat) (id : Nat) (service : Bool) : List Nat :=
  if service then
    let ahead := l.takeWhile (fun k => match s.cmds.look k with
      | some m => m.service || m.running
      | none => false)
    ahead ++ [id] ++ l.drop ahead.length
  else l ++ [id]

/-- A CODEB that has passed its checks takes its slot's ownership, R309. -/
def State.takeBook (s : State) (m : MtxCmd) : State :=
  if m.t = 5 ∧ m.checked then
    s.updCore m.core (fun k =>
      let old := (match k.big.books.look m.n with
        | some b => b.cb
        | none => 0)
      { k with big := { k.big with books := k.big.books.set m.n { ctx := m.ctx, part := m.part, cb := old } } })
  else s

/-- The commands that hold an entry of a big core's inbox; those of the service slot need none, R330. -/
def State.inboxLoad (s : State) (c : Nat) : Nat :=
  ((s.mtxq.at c []).filter (fun k => match s.cmds.look k with
    | some m => m.admitted && !m.service
    | none => false)).length

/-- Whether a big core's inbox has a free entry, R264. -/
def State.inboxFree (s : State) (c : Nat) : Bool := decide (s.inboxLoad c < inboxSize)

/-- A command that waited for a free entry is in the inbox, R298, R309: a checked one lets its task go on. -/
def State.admitCmd (s : State) (id : Nat) (m : MtxCmd) : State :=
  let m := { m with admitted := true }
  let t := ({ s with cmds := s.cmds.set id m }).takeBook m
  if !m.checked then t
  else match m.task with
    | some r =>
      let mine : Bool := (match (t.slot r.core r.slot).checking with
        | some w => w.id == id
        | none => false)
      if mine then (t.updTask r (fun x => { x with checking := none })).takeDataError r else t
    | none => t

/-- The oldest commands that wait take the free entries of the inbox, R298, R299. -/
def State.fillInbox (s : State) (c : Nat) : State :=
  (s.mtxq.at c []).foldl (fun t k => match t.cmds.look k with
    | some m => if m.admitted ∨ (!m.service ∧ !t.inboxFree c) then t else t.admitCmd k m
    | none => t) s

/-- A command enters the inbox under a serial number, R299, or waits for a free entry there, R298. -/
def State.enterInbox (s : State) (id : Nat) (m : MtxCmd) : State :=
  let q := joinQueue s (s.mtxq.at m.core []) id m.service
  (({ s with cmds := s.cmds.set id m, mtxq := s.mtxq.set m.core q }).fillInbox m.core).push (.matrixCommandStart m.core)

/-! ## The context table, R332 -/

/-- The code of a context on a big core. -/
def Big.code (b : Big) (ctx part : Nat) : Nat :=
  match b.ctab.find? (fun e => e.2.ctx == ctx && e.2.part == part) with
  | some (i, _) => i + 1
  | none => 0

/-- The owner field of an accumulator, R303. -/
def Big.owner (b : Big) (i : Nat) : Nat := bits b.accown.toNat (4 * i + 3) (4 * i)

/-- ACCOWN with one field replaced. -/
def Big.setOwner (b : Big) (i c : Nat) : Big := { b with accown := BitVec.ofNat 64 (setBits b.accown.toNat (4 * i + 3) (4 * i) c) }

/-- An accumulator made +0 with its poison mark clear, R303. -/
def Big.zeroAcc (b : Big) (i : Nat) : Big := { b with accs := Sp.put 0 b.accs i 0, poison := Sp.put false b.poison i false }

/-- A context installed at its first MTX on the core, R332: in a free entry, or in that of a context that owns no
accumulator, whose ACCSAVE goes back to its record. -/
def State.installCtx (s : State) (c ctx part : Nat) : State :=
  let b := (s.core c).big
  if b.code ctx part ≠ 0 then s
  else
    let put := fun (s : State) (i : Nat) => s.updCore c (fun k =>
      { k with big := { k.big with ctab := k.big.ctab.set i { ctx := ctx, part := part, accsave := (s.ctx ctx).accsave } } })
    match (List.range 15).find? (fun i => (b.ctab.look i).isNone) with
    | some i => put s i
    | none =>
      match b.ctab.find? (fun e => !(List.range 16).any (fun i => b.owner i == e.1 + 1)) with
      | none => s
      | some (i, e) =>
        let s := { s with ctxs := s.ctxs.set e.ctx { s.ctx e.ctx with accsave := e.accsave } }
        put s i

/-! ## Operand bytes -/

/-- The key of a byte of a command's operand, R292. -/
def MtxCmd.key (m : MtxCmd) (sp a : Nat) : Nat :=
  if sp = 0 then m.pins.at (a / 65536) 0 + a % 65536 else localKey m.core sp a

/-- The value of a multiply operand's element M[r][k], R52, R293; q4 codes through the codebook. -/
def State.operandElem (s : State) (m : MtxCmd) (o : Operand) (book : Nat) (r k : Nat) : FVal :=
  let w := opWidth o.fmt
  let a := recAddr o.r
  let st := recStride o.r
  let sp := recSpace o.r
  if o.fmt = 6 then
    let b := s.readMem (m.key sp (a + r * st + k / 2)) 1
    let code := if k % 2 = 0 then b % 16 else b / 16
    Fmt.bf16.decode (book / 2 ^ (16 * code) % 2 ^ 16)
  else
    let x := if recTrans o.r then a + k * st + r * (w / 8) else a + r * st + k * (w / 8)
    (Fmt.ofCode o.fmt).decode (s.readMem (m.key sp x) (w / 8))

/-- The 32-byte pieces of an operand's rows, as addresses in its space; none crosses a page, R294. -/
def Operand.chunks (o : Operand) : List Nat :=
  (List.range o.rows).flatMap (fun r => (List.range (o.rb / 32)).map (fun i => recAddr o.r + r * recStride o.r + 32 * i))

/-- The address of a byte of an operand as accesses form it: of a buffer, that of its local window. -/
def State.operandVa (s : State) (m : MtxCmd) (o : Operand) (a : Nat) : Nat :=
  if recSpace o.r = 0 then a else s.localVa m.core (recSpace o.r) a

/-- The address of the first operand data that cannot be corrected, R270, R306. -/
def State.operandBad (s : State) (m : MtxCmd) (o : Operand) : Option Nat :=
  ((o.chunks.flatMap (fun x => (List.range 4).map (fun i => x + 8 * i))).find? (fun x => s.badAt (m.key (recSpace o.r) x) 8)).map
    (s.operandVa m o)

/-- Row r of an accumulator and lane j of it, R305. -/
def accRow (a : BitVec 32768) (r : Nat) : Vec := a.extractLsb' (1024 * r) 1024
def accElem (a : BitVec 32768) (r j : Nat) : Nat := elem (accRow a r) 32 j

/-- An accumulator from its rows. -/
def accOf (f : Nat → Vec) : BitVec 32768 := BitVec.ofNat 32768 (packList 1024 (listOf 32 (fun r => (f r).toNat)))

/-- A row as ACCST, ACCQ and ACCMV read it: canonical NaN where the accumulator is poisoned, R306. -/
def Big.readRow (b : Big) (i r : Nat) : Vec :=
  if b.poison.at i false then ofElems 32 (fun _ => Fmt.f32.nan) else accRow (b.accs.at i 0) r

/-- The flags of a read of a poisoned accumulator, R306. -/
def Big.readFlags (b : Big) (i : Nat) : Flags := Flags.when (b.poison.at i false) Flags.nv

/-- MMA and MMAZ, R300: the new accumulator and the flags NV and OF. -/
def State.multiply (s : State) (m : MtxCmd) : BitVec 32768 × Flags :=
  let b := (s.core m.core).big
  let old := b.accs.at m.n 0
  let book := fun (o : Operand) => (match b.books.look (recCbs o.r) with
    | some k => k.cb
    | none => 0)
  match m.operands with
  | [x, y] =>
    let va := fun (i : Nat) => (List.range m.k).map (s.operandElem m x (book x) i)
    let vb := fun (j : Nat) => (List.range m.k).map (s.operandElem m y (book y) j)
    let bs := (List.range 32).map vb
    let rows := (List.range 32).map (fun i =>
      let a := va i
      (bs.zip (List.range 32)).map (fun q =>
        dotBlock (if m.t = 1 then .fin false 0 0 else Fmt.f32.decode (accElem old i q.2)) ((a.zip q.1).map (fun p => p.1.mul p.2))))
    let fl := rows.foldl (fun f r => r.foldl (fun f e => f ||| e.flags) f) (0 : Flags)
    (BitVec.ofNat 32768 (packList 1024 (rows.map (fun r => packList 32 (r.map (·.bits))))), fl &&& (Flags.nv ||| Flags.of))
  | _ => (old, 0)

/-- ACCLD, R307. -/
def State.loadTile (s : State) (m : MtxCmd) : BitVec 32768 :=
  match m.operands with
  | [o] => accOf (fun r => BitVec.ofNat 1024 (s.readMem (m.key (recSpace o.r) (recAddr o.r + r * recStride o.r)) 128))
  | _ => 0

/-- Rows of bytes written through a destination record, 32 bytes at a time, R307, R310. -/
def State.storeRows (s : State) (m : MtxCmd) (o : Operand) (f : Nat → Nat) : State :=
  (List.range 32).foldl (fun t r => (List.range (o.rb / 32)).foldl (fun t i =>
    t.store (m.key (recSpace o.r) (recAddr o.r + r * recStride o.r + 32 * i)) 32 (f r / 2 ^ (256 * i) % 2 ^ 256)) t) s

/-- A row of ACCQ with its flags, R310. -/
def quantRow (dst : Fmt) (bound : Nat) (v : Vec) : Nat × Flags :=
  let l := (elems v 32).map (fun x => toFloat dst .rne (some bound) (Fmt.f32.decode x))
  (packList dst.w (l.map (·.bits)), (l.foldl (fun f e => f ||| e.flags) (0 : Flags)) &&& (Flags.nv ||| Flags.of))

/-! ## The effect of a command -/

/-- The effect of a command on the accumulator, memory and codebooks, R300, R306 to R311: the command with its flags and
row, and the state. -/
def State.runCmd (s : State) (m : MtxCmd) (code : Nat) : MtxCmd × State :=
  let b := (s.core m.core).big
  let hit := (m.operands.filter (fun o => !o.wr)).findSome? (s.operandBad m)
  let bad := hit.isSome
  let m := { m with bad := bad, badAt := hit.getD 0 }
  let i := m.n
  match m.t with
  | 2 =>
    let v := s.loadTile m
    (m, s.updBig m.core (fun g => { g with accs := Sp.put 0 g.accs i v, poison := Sp.put false g.poison i bad }))
  | 3 =>
    match m.operands with
    | [o] => ({ m with flags := b.readFlags i }, s.storeRows m o (fun r => (b.readRow i r).toNat))
    | _ => (m, s)
  | 4 =>
    let sel := scalarOf m.b.v
    let row := sel % 32
    if bit sel 8 then
      let v := accOf (fun r => if r = row then m.a.v else accRow (b.accs.at i 0) r)
      (m, s.updBig m.core (fun g => { g with accs := Sp.put 0 g.accs i v }))
    else ({ m with row := b.readRow i row, flags := b.readFlags i }, s)
  | 5 =>
    (m, s.updBig m.core (fun g =>
      match g.books.look i with
      | some k => { g with books := g.books.set i { k with cb := recordCodebook m.prec } }
      | none => g))
  | 6 =>
    let dst := Fmt.ofCode m.fb
    let bound := if m.prs = 0 then dst.maxFinite else recordBound m.prec m.fb
    let rows := (List.range 32).map (fun r => quantRow dst bound (b.readRow i r))
    let fl := (rows.foldl (fun f r => f ||| r.2) (0 : Flags)) ||| b.readFlags i
    match m.operands with
    | [o] => ({ m with flags := fl }, s.storeRows m o (fun r => (rows[r]?.getD (0, 0)).1))
    | _ => (m, s)
  | 7 =>
    if b.owner i = code ∧ code ≠ 0 then (m, s.updBig m.core (fun g => (g.setOwner i 0).zeroAcc i))
    else if code = 0 then
      (m, { s with ctxs := s.ctxs.set m.ctx { s.ctx m.ctx with accsave := putBit (s.ctx m.ctx).accsave i false } })
    else
      (m, s.updBig m.core (fun g => match g.ctab.look (code - 1) with
        | some e => { g with ctab := g.ctab.set (code - 1) { e with accsave := putBit e.accsave i false } }
        | none => g))
  | _ =>
    let (v, fl) := s.multiply m
    let stay := m.t == 0 && b.poison.at i false
    ({ m with flags := fl },
     s.updBig m.core (fun g => { g with accs := Sp.put 0 g.accs i v, poison := Sp.put false g.poison i (bad || stay) }))

/-! ## Accumulator traps, R330, R331 -/

/-- TVAL of an accumulator trap, R331. -/
def accTrapVal (own req i : Nat) : Nat := (if own = 0 then req else own) * 4096 + own * 256 + req * 16 + i

/-- The capability of v3 in the service slot, R330: PERM.LD, PERM.ST and PERM.ENG over every virtual address. -/
def serviceCap : Reg :=
  match Cap.make 0x43 0 0 (2 ^ 63) 0 with
  | some c => capReg c.toBits true
  | none => {}

/-- A big core stops taking matrix commands, and the health monitor reports it, R333. -/
def State.stopBig (s : State) (c : Nat) : State :=
  { s.updBig c (fun b => { b with stopped := true }) with serviceStops := s.serviceStops ++ [(c, s.gt)] }

/-- The accumulator trap enters the service slot of a big core, R305, R320, R330. A host context without a handler leaves
the command waiting and the core without matrix commands (DESIGN CHOICE, assumption 119). -/
def State.accTrap (s : State) (c own req i : Nat) : State :=
  let h := (s.core c).big.host
  if h.tvec = 0 then s.stopBig c
  else
    let (u, s) := s.fresh
    let s := s.updBig c (fun b => { b with trapped := true })
    let s := s.updSlot c serviceSlot (fun x =>
      let a := (x.arch.setReg 3 serviceCap).setMode true false
      { x with phase := .live, uid := u, ctxid := BitVec.ofNat 64 h.ctx, part := h.part, halted := false, wait := none,
               arch := { a with sr := putBit a.sr 9 h.s } })
    s.enterTrap c serviceSlot causeAcc (accTrapVal own req i) 0 false 0 (s.slot c serviceSlot).arch.pc

/-! ## The head of the inbox -/

/-- What R305 decides for a command. -/
inductive Decision where
  | run (take : Bool)
  | trap (own req : Nat)
  deriving DecidableEq, Repr

/-- Whether the core's host context issued a command with SR.SUP = 1, R305. -/
def State.hosted (s : State) (m : MtxCmd) : Bool :=
  let h := (s.core m.core).big.host
  m.sup && m.ctx == h.ctx && m.part == h.part

/-- The decision of R305. -/
def State.decideCmd (s : State) (m : MtxCmd) : Decision :=
  let b := (s.core m.core).big
  let c := b.code m.ctx m.part
  let own := b.owner m.n
  let saved : Bool := (match b.ctab.look (c - 1) with
    | some e => e.accsave.getLsbD m.n
    | none => false)
  if s.hosted m ∨ m.t = 5 ∨ m.t = 7 then .run false
  else if c = 0 then .trap own 0
  else if own = c then .run false
  else if own = 0 ∧ !saved then .run true
  else .trap own c

/-! The tile fetch unit, R302: the lines of L2 operands, pinned from their fetch until the command is done. -/

/-- The lines of a command's L2 operands as storage keys, those read first. -/
def MtxCmd.fetches (m : MtxCmd) (wr : Bool) : List Nat :=
  ((m.operands.filter (fun o => o.wr == wr && recSpace o.r == 0)).flatMap (fun o => o.chunks.map (fun x => m.key 0 x / 128 * 128))).dedup

/-- The line of a key pinned by a command at its slice, or in the miss that brings it. -/
def State.pinLine (s : State) (key id : Nat) : State :=
  let pin := fun (l : Line) => ({ l with pins := if l.pins.contains id then l.pins else l.pins ++ [id] } : Line)
  (s.updLine (sliceId key) (lineOf key) pin).updMiss (sliceId key) (lineOf key) (fun m => { m with row := pin m.row })

/-- The pins of a command ended. -/
def State.unpin (s : State) (id : Nat) : State :=
  let drop := fun (l : Line) => ({ l with pins := l.pins.erase id } : Line)
  { s with slices := s.slices.map (fun e =>
      (e.1, { e.2 with lines := e.2.lines.map drop, misses := e.2.misses.map (fun m => { m with row := drop m.row }) })) }

/-- The lines that a command reads fetched and pinned, from the first that it has not fetched, and those that it writes
touched: the number fetched, and whether all are. Where a slice does not accept one now, the burin consumes those before it. -/
def State.fetchTile (s : State) (id : Nat) (m : MtxCmd) : Bool × Nat × State :=
  let rd := m.fetches false
  let todo := (rd.drop m.fetched)
  let (rest, t) := s.touchLines m.access.part (some m.core) false todo
  let t := (todo.take (todo.length - rest.length)).foldl (fun u k => u.pinLine k id) t
  if rest.isEmpty then
    let (late, u) := t.touchLines m.access.part (some m.core) true (m.fetches true)
    if late.isEmpty then (true, rd.length, u) else (false, rd.length, t)
  else (false, rd.length - rest.length, t.unpin id)

/-- The region of an operand as accesses form its addresses, R253, R292. -/
def State.operandRegion (s : State) (m : MtxCmd) (o : Operand) : Int × Int :=
  let a := s.operandVa m o (recAddr o.r)
  ((a : Int), ((a + o.extent : Nat) : Int))

/-- The task as which a command is observed, with its place in that task's program order, R247, R253: its own task's, or that of
a guest's sender or of the copy that it follows. -/
def MtxCmd.issuer (m : MtxCmd) (id : Nat) : Nat × Option TaskRef :=
  match m.sender with
  | some (r, k) => (k, some r)
  | none => (id, m.task)

/-- Whether the orders of its task's accesses and fences, and those of other tasks' narrow scopes, let a command start, R247,
R248, R253, R312. -/
def State.cmdMayStart (s : State) (id : Nat) (m : MtxCmd) : Bool :=
  let regions := fun (wr : Bool) => (m.operands.filter (fun o => o.wr == wr)).map (s.operandRegion m)
  let (place, by_) := m.issuer id
  let core := (by_.map (·.core)).getD m.core
  s.issuerDone place by_ (regions false) (regions true) &&
    (match m.task with
      | some r => s.fencesAllow id r true && s.acquired 0 id r
      | none => true) &&
    m.operands.all (fun o => o.chunks.all (fun x => !s.jobGuarded core by_ (m.key (recSpace o.r) x) 32 o.wr))

/-- Whether a burin's block belongs to the other world than a command, R413. -/
def State.foreignCmd (s : State) (m : MtxCmd) : Bool := s.secureEngines.at (corePlate m.core) false != m.access.world

/-- A command at the head of the inbox, R299, R302, R305, R330: decided and executed, or the accumulator trap. Commands are
executed one at a time, in the inbox's order. One of the other world than its burin is refused, R413: it has no effect on
accumulators or memory, the row of an ACCMV is a free value, and only a follow-on has a status that says so (assumption 76).
-/
def execMatrixCommandStart (core : Nat) (s : State) : Host.Outcome State Fault Refusal :=
  let done := s.did (.matrixCommandStart core)
  match s.mtxq.at core [] with
  | [] => .next done
  | id :: _ => match s.cmds.look id with
    | none => .next { done with mtxq := s.mtxq.set core ((s.mtxq.at core []).tail) }
    | some m =>
      let b := (s.core core).big
      if m.running then .next done
      else if b.stopped ∨ (b.trapped ∧ !m.service) then .next s
      else if !m.checked then .next (done.push (.deferredCheckDone id))
      else if s.foreignCmd m then
        let (v, t) := done.draw
        .next (({ t with cmds := t.cmds.set id { m with running := true, refused := true, row := BitVec.ofNat 1024 v } } : State).push (.matrixCommandDone id))
      else if !s.cmdMayStart id m then .next s
      else
        let t := if m.service then done else done.installCtx core m.ctx m.part
        match t.decideCmd m with
        | .trap own req => .next (t.accTrap core own req m.n)
        | .run take =>
          match t.fetchTile id m with
          | (false, n, u) => .next ({ u with cmds := u.cmds.set id { m with fetched := n } }.push (.matrixCommandStart core))
          | (true, n, u) =>
            let c := (u.core core).big.code m.ctx m.part
            let u := if take then u.updBig core (fun g => (g.setOwner m.n c).zeroAcc m.n) else u
            let (m, u) := u.runCmd m c
            .next (({ u with cmds := u.cmds.set id { m with running := true, fetched := n } }).push (.matrixCommandDone id))

/-- A command leaves the inbox, a waiting one takes its entry, and the next one comes to its head. -/
def State.leaveInbox (s : State) (id : Nat) (m : MtxCmd) : State :=
  let q := (s.mtxq.at m.core []).erase id
  let s := (({ s with cmds := s.cmds.drop id, mtxq := s.mtxq.set m.core q }).unpin id).fillInbox m.core
  if q.isEmpty then s else s.push (.matrixCommandStart m.core)

/-- How a copy whose follow-on is done ends, R270, R280, R413: an error names the address of its first element. -/
def State.followEnd (s : State) (m : MtxCmd) (x : Job) : Job :=
  if m.refused then x.failed 4 (match m.operands with
    | o :: _ => (s.operandRegion m o).1.toNat
    | [] => 0)
  else { x with err := if m.bad then 20 else 0, errAt := m.badAt }

/-- A command is done, R299, R315: MXC and the flags of its task, the row of an ACCMV, the notice to a guest's sender, or
the end of the copy it followed. -/
def execMatrixCommandDone (cmd : Nat) (s : State) : Host.Outcome State Fault Refusal :=
  let done := s.did (.matrixCommandDone cmd)
  match s.cmds.look cmd with
  | none => .next done
  | some m =>
    if !m.running then .next done
    else
      let t := done.leaveInbox cmd m
      let t := (match m.task with
        | none => t
        | some r =>
          let t := t.updTask r (fun x =>
            let y := { x with mxc := x.mxc - 1, board := x.board.filter (fun b => b.2 != cmd) }
            match m.rowTo with
            | some d => y.land (fun a => a.setVec d m.row)
            | none => y)
          if t.alive r then t.raiseLate r.core r.slot m.flags else t)
      let t := (match m.guest with
        | none => t
        | some g => match t.guests.look g with
          | none => t
          | some x =>
            let y := { x with flags := m.flags, res := if m.rowTo.isSome then m.row else x.res }
            let t := { t with guests := t.guests.set g (if x.place = 3 then { y with place := 4 } else y) }
            (if x.place = 3 then t.push (.guestResult g) else t).push (.doneNotice g))
      match m.job with
      | none => .next t
      | some j => match t.jobs.look j with
        | none => .next t
        | some x => .next (t.finishJob j (s.followEnd m x) m.flags)

/-- The ERR code of a follow-on whose deferred checks fail, R314. -/
def followErr (step code : Nat) : Nat :=
  if step = 3 then 16 else if step = 5 then 17 else if step = 6 then 18 else if step = 8 then 19 else errOf code

/-- The checks made as the burin fetches, R314: the issuer goes on, or takes its fault with nothing done. -/
def execDeferredCheckDone (cmd : Nat) (s : State) : Host.Outcome State Fault Refusal :=
  let done := s.did (.deferredCheckDone cmd)
  match s.cmds.look cmd with
  | none => .next done
  | some m =>
    if m.checked then .next done
    else
      match done.mtxCheck m with
      | (.ok m, t) =>
        let t := (({ t with cmds := t.cmds.set cmd m }).takeBook m).push (.matrixCommandStart m.core)
        let t := (match m.task with
          | some r => (t.updTask r (fun x => { x with checking := none })).takeDataError r
          | none => t)
        match m.guest with
        | none => .next t
        | some g => match t.guests.look g with
          | none => .next t
          | some x =>
            if m.rowTo.isSome then .next t
            else .next (({ t with guests := t.guests.set g { x with place := 4 } }).push (.guestResult g))
      | (.error (step, code, tval), t) =>
        if code = notYet then .next (t.push (.deferredCheckDone cmd)) else
        let t := t.leaveInbox cmd m
        match m.task, m.guest, m.job with
        | some r, _, _ =>
          let x := t.slot r.core r.slot
          (match x.checking with
            | none => .next t
            | some sh =>
              let y := sh.popped.foldr (fun p (z : Slot) =>
                let q := z.port p.1
                z.setPort p.1 { q with fifo := p.2 :: q.fifo, stream := q.stream.map (fun n => { n with popped := n.popped - 1 }) }) x
              let y := { y with arch := sh.saved, checking := none, mxc := y.mxc - 1, board := y.board.filter (fun b => b.2 != cmd) }
              let t := t.setSlot r.core r.slot y
              .next (if y.dataError.isSome then t.takeDataError r else t.enterTrap r.core r.slot code tval 0 false 0 sh.tpc))
        | none, some g, _ => (match t.guests.look g with
            | none => .next t
            | some x => .next (({ t with guests := t.guests.set g { x with place := 4, fault := some (code, tval, 0) } }).push (.guestResult g)))
        | none, none, some j => (match t.jobs.look j with
            | none => .next t
            | some x => .next (t.finishJob j { x with err := followErr step code, errAt := tval } 0))
        | none, none, none => .next t

/-! ## MTX, R297, R298, R315 -/

/-- The formats that a PFX.T gives a command, R290, R310. -/
def cmdFa (p : Option (BitVec 21)) : Nat := match p with
  | some x => mmaFmt (pfxFa x)
  | none => 1
def cmdFb (p : Option (BitVec 21)) : Nat := match p with
  | some x => mmaFmt (pfxFb x)
  | none => 1

/-- The command that a task's MTX makes, without its place. -/
def Env.mtxCmd (e : Env) (t : State) (a b : BitVec 6) (prec : Nat) : MtxCmd :=
  let form := (e.word.extractLsb' 0 3).toNat
  let service := e.slot = serviceSlot ∧ (form = 2 ∨ form = 3)
  let sel := bits e.sl.tval.toNat 15 12
  let of := if sel = 0 then none else (t.core e.core).big.ctab.look (sel - 1)
  { word := e.word, fa := cmdFa e.pfx.t, fb := cmdFb e.pfx.t, prs := prsOf e.pfx.t, prec := prec, core := e.core,
    ctx := e.sl.ctxid.toNat, part := e.sl.part, world := e.a.world, sup := e.a.sup, a := e.a.reg a.toNat, b := e.a.reg b.toNat,
    a1 := e.a.reg (a.toNat + 1), b1 := e.a.reg (b.toNat + 1), task := some t.myRef, service := service,
    via := if service then of.map (fun c => (c.ctx, c.part, (t.ctx c.ctx).s)) else none, launch := e.sl.launch }

/-- An MTX of a big core's own task, R298, R314: its checks, then its count, then its entry in the inbox, for which its task
waits. -/
def State.mtxHere (t : State) (e : Env) (m : MtxCmd) (srcs : List Nat) : Except Exit State := do
  let (m, t) ← (if (t.core e.core).big.deferred then .ok (m, t) else match t.mtxCheck m with
    | (.error (_, code, tval), _) => .error (exitOf m.access code tval)
    | (.ok m, u) => .ok (m, u))
  stallIf (decide (e.sl.mxc ≥ 16)) .counter
  let (id, t) := t.fresh
  let dest := (match m.rowTo with
    | some d => if d = 0 then [] else [(Dest.reg d, id)]
    | none => [])
  let t := t.updMe (fun x =>
    { x with mxc := x.mxc + 1, board := x.board ++ dest, checking := some { e.opened id false srcs with id := id } })
  .ok (t.enterInbox id m)

/-- An MTX of a little core, R170, R315: shipped once LDC and STC are 0, counted in MXC. -/
def State.mtxShip (t : State) (e : Env) (i : Instr) (a b : BitVec 6) (prec : Nat) (dests : List Dest) : Except Exit State := do
  stallIf (e.sl.ldc != 0 || e.sl.stc != 0) .counter
  stallIf (!t.shipsNow e) .order
  stallIf (decide (e.sl.mxc ≥ 16)) .counter
  let (id, t) := t.fresh
  let g := { e.guest t {} (e.a.reg a.toNat) (e.a.reg b.toNat) prec with a1 := e.a.reg (a.toNat + 1), b1 := e.a.reg (b.toNat + 1) }
  let t := (t.countShip e.core).updMe (fun x =>
    { x with mxc := x.mxc + 1, board := x.board ++ (dests.filter Dest.real).map (fun k => (k, id)),
             ship := some (e.opened id false (usesOf e.sl.peek i).src) })
  .ok (({ t with guests := t.guests.set id g }).push (.guestPacketArrival id))

/-- An MTX wherever it issues; `prs` says whether its parameter record is read at issue, R54. -/
def State.mtx (s : State) (i : Instr) (a b : BitVec 6) (prs : Bool) (rowTo : Env → Option Nat) : Host.Outcome State Fault Refusal :=
  s.issue i (fun e t => do
    let prec ← (if prs ∧ prsOf e.pfx.t ≠ 0 then t.record e.core (prsOf e.pfx.t) else .ok 0)
    if e.big then t.mtxHere e { e.mtxCmd t a b prec with rowTo := rowTo e } (usesOf e.sl.peek i).src
    else t.mtxShip e i a b prec (match rowTo e with
      | some d => [.reg d]
      | none => []))

/-- MMA, R300. -/
def execMtxMma (g : BitVec 4) (n : BitVec 5) (a b : BitVec 6) (s : State) : Host.Outcome State Fault Refusal :=
  s.mtx (.mtxMma g n a b) a b false (fun _ => none)

/-- MMAZ, R300. -/
def execMtxMmaz (g : BitVec 4) (n : BitVec 5) (a b : BitVec 6) (s : State) : Host.Outcome State Fault Refusal :=
  s.mtx (.mtxMmaz g n a b) a b false (fun _ => none)

/-- ACCLD, R307. -/
def execMtxAccld (g : BitVec 4) (n : BitVec 5) (a : BitVec 6) (s : State) : Host.Outcome State Fault Refusal :=
  s.mtx (.mtxAccld g n a) a 0 false (fun _ => none)

/-- ACCST, R307. -/
def execMtxAccst (g : BitVec 4) (n : BitVec 5) (a : BitVec 6) (s : State) : Host.Outcome State Fault Refusal :=
  s.mtx (.mtxAccst g n a) a 0 false (fun _ => none)

/-- ACCMV, R308: a row to vA when DIR is 0. -/
def execMtxAccmv (g : BitVec 4) (n : BitVec 5) (a b : BitVec 6) (s : State) : Host.Outcome State Fault Refusal :=
  s.mtx (.mtxAccmv g n a b) a b false (fun e => if bit (e.x b) 8 then none else some a.toNat)

/-- CODEB, R309. -/
def execMtxCodeb (g : BitVec 4) (n : BitVec 5) (s : State) : Host.Outcome State Fault Refusal :=
  s.mtx (.mtxCodeb g n) 0 0 true (fun _ => none)

/-- ACCQ, R310. -/
def execMtxAccq (g : BitVec 4) (n : BitVec 5) (a : BitVec 6) (s : State) : Host.Outcome State Fault Refusal :=
  s.mtx (.mtxAccq g n a) a 0 true (fun _ => none)

/-- ACCFREE, R311. -/
def execMtxAccfree (g : BitVec 4) (n : BitVec 5) (s : State) : Host.Outcome State Fault Refusal :=
  s.mtx (.mtxAccfree g n) 0 0 false (fun _ => none)

end Sys2Proof.Machine
end

