-- ==== Sys2Proof/Machine/Ports.lean ====
section
/-!
DEFINITION. Port registers: binding to a channel (R159 to R164), streams (R283 to R288), and what PORTCFG shows.
-/

namespace Sys2Proof.Machine

/-! ## Handler entries -/

/-- A core's handler entry, R126. -/
def Core.handler (k : Core) (n : Nat) : Handler := k.handlers.at n {}
def Core.setHandler (k : Core) (n : Nat) (h : Handler) : Core := { k with handlers := k.handlers.set n h }
def State.handler (s : State) (c n : Nat) : Handler := (s.core c).handler n
def State.updHandler (s : State) (c n : Nat) (f : Handler → Handler) : State :=
  s.updCore c (fun k => k.setHandler n (f (k.handler n)))

/-- GEN advances: the messages that wait are discarded, R129. -/
def Handler.advance (h : Handler) : Handler := { h with gen := (h.gen + 1) % 2 ^ 16, mail := [], aged := 0 }

/-- The slot and port that a channel of a core is bound to, R161. -/
def Core.boundTo (k : Core) (c : Nat) : Option (Nat × Nat) :=
  k.slots.findSome? (fun e => (e.2.ports.find? (fun p => p.2.mode == 1 && p.2.chan == c)).map (fun p => (e.1, p.1)))

/-- Entries of a core's port pool in use, and their number in all, R162. -/
def Core.poolUsed (k : Core) : Nat := (k.slots.map (fun e => (e.2.ports.map (fun p => p.2.fifo.length)).sum)).sum
def poolSize (c : Nat) : Nat := if isBig c then 128 else 64

/-- Whether a port of a core can take one more entry, R162. -/
def State.portRoom (s : State) (c : Nat) (p : Port) : Bool :=
  decide (p.fifo.length < 16) && decide ((s.core c).poolUsed < poolSize c)

/-! ## Unbinding -/

/-- The handler entry after its port is unbound, R161. -/
def Handler.unbound (h : Handler) : Handler :=
  let h := { h with mode := 0 }.advance
  if h.pb then { h with ctx := 0, pb := false } else h

/-- PORT.UNBIND on a port of a slot, R161, R287: a stream ends as SREL ends it. -/
def State.unbind (s : State) (c n q : Nat) : State :=
  let p := (s.slot c n).port q
  let t := s.updSlot c n (fun x => { x with ports := x.ports.drop q })
  if p.mode = 1 then t.updHandler c p.chan Handler.unbound else t

/-- Every port of a task unbound, R164. -/
def State.unbindAll (s : State) (c n : Nat) : State := (List.range 8).foldl (fun t q => t.unbind c n q) s

/-! ## PORTCFG -/

/-- The strips not yet popped, R283. -/
def Stream.left (t : Stream) : Nat := t.total - t.popped

/-- EXH and ERR of a port, R283. -/
def Port.exh (p : Port) : Bool := p.stream.isSome && p.exhausted
def Port.headErr (p : Port) : Bool := match p.fifo with
  | e :: _ => e.err.isSome
  | [] => false

/-- PORTCFGn as GETS reads it, R159, R283. -/
def Port.config (p : Port) : Nat :=
  match p.stream with
  | some t =>
    2 * 2 ^ 62 + b2n p.exh * 2 ^ 61 + b2n p.headErr * 2 ^ 60 + min t.left (2 ^ 36 - 1) * 2 ^ 24 + t.esz * 2 ^ 21 +
      p.fifo.length * 2 ^ 16 + t.strip * 2 ^ 5
  | none => if p.mode = 0 then 0 else p.mode * 2 ^ 62 + p.fifo.length * 2 ^ 16 + p.chan

/-- A SETS of PORTCFGn with zero, R159. -/
def State.portClear (s : State) (q : Nat) : State := s.unbind s.cur.core s.cur.slot q

/-! ## PORT, port mode -/

/-- The port that a register field names. -/
def portOf (d : BitVec 6) : Nat := d.toNat - 56

/-- PORT.BIND, R161. -/
def execPortBind (g : BitVec 4) (d b : BitVec 6) (s : State) : Host.Outcome State Fault Refusal :=
  s.issue (.portBind g d b) (fun e t => do
    let x := e.x b
    let q := portOf d
    let ctx := e.sl.ctxid.toNat
    check (x / 32 == 0) causeRange x
    let h := t.handler e.core (x % 32)
    check (h.ctx == 0 || h.ctx == ctx) causePrivilege e.word.toNat
    check (h.mode == 0 && !h.held && (e.sl.port q).mode == 0 && ((t.core e.core).boundTo (x % 32)).isNone) causeRange x
    let t := t.updHandler e.core (x % 32) (fun h =>
      let h := if h.ctx = 0 then { h with ctx := ctx, pb := true } else h
      { h with mode := 2 }.advance)
    .ok (t.updMe (fun y => y.setPort q { mode := 1, chan := x % 32 })))

/-- PORT.UNBIND, R161, R287. -/
def execPortUnbind (g : BitVec 4) (d : BitVec 6) (s : State) : Host.Outcome State Fault Refusal :=
  s.issue (.portUnbind g d) (fun e t => .ok (t.unbind e.core e.slot (portOf d)))

/-- PORT.QLEN, R161. -/
def execPortQlen (g : BitVec 4) (d a : BitVec 6) (s : State) : Host.Outcome State Fault Refusal :=
  s.issue (.portQlen g d a) (fun e t =>
    let p := e.sl.port (portOf a)
    .ok (t.updArch (fun r => r.setScalar d.toNat (p.mode * 2 ^ 62 + p.fifo.length))))

/-! ## PORT, streams -/

/-- The stream that SBIND's two registers describe, R284. -/
def streamOf (c : CapBits) (v : Vec) : Stream :=
  let w := fun (k : Nat) => BitVec.ofNat 64 (elem v 64 k)
  { base := c, esz := bits (elem v 64 0) 1 0, strip := bits (elem v 64 0) 15 8, str := [w 1, w 2, w 3],
    cnt := [bits (elem v 64 4) 31 0, bits (elem v 64 4) 63 32, bits (elem v 64 5) 31 0] }

/-- The element of B + 1 that breaks the limits of R284. -/
def patternFault (v : Vec) : Option Nat :=
  let e := fun (k : Nat) => elem v 64 k
  let es := 2 ^ bits (e 0) 1 0
  let n := bits (e 0) 15 8
  if bits (e 0) 63 16 ≠ 0 ∨ bits (e 0) 7 2 ≠ 0 ∨ n = 0 ∨ n > 128 / es then some (e 0)
  else if bits (e 4) 31 0 = 0 ∨ bits (e 4) 63 32 = 0 then some (e 4)
  else if bits (e 5) 63 32 ≠ 0 ∨ bits (e 5) 31 0 = 0 then some (e 5)
  else match (List.range 10).find? (fun k => e (k + 6) != 0) with
    | some k => some (e (k + 6))
    | none => if bits (e 4) 31 0 * bits (e 4) 63 32 * bits (e 5) 31 0 > 2 ^ 48 then some (e 5) else none

/-- The steps of a stream as an affine walk: the least and greatest element addresses, at the corners, R284. -/
def Stream.corners (t : Stream) : Int × Int :=
  let a : Int := (t.base.extractLsb' 0 64).toNat
  let far := (t.str.zip t.cnt).map (fun p => sext p.1.toNat 64 * ((p.2 - 1 : Nat) : Int))
  (a + (far.map (fun d => min d 0)).sum, a + (far.map (fun d => max d 0)).sum)

/-- The address of element m of a stream, R285. -/
def Stream.addr (t : Stream) (m : Nat) : Nat :=
  wrap (((t.base.extractLsb' 0 64).toNat : Int) + dotInt ((digitsOf t.cnt m).map (fun (x : Nat) => (x : Int))) (t.str.map (fun w => sext w.toNat 64))) 64

/-- The elements of a strip: their lane in the strip and address. -/
def Stream.strips (t : Stream) (j : Nat) : List (Nat × Nat) :=
  let n := t.cnt.foldl (· * ·) 1
  (List.range (min t.strip (n - j * t.strip))).map (fun i => (i, t.addr (j * t.strip + i)))

/-- PORT.SBIND, R284. -/
def execPortSbind (g : BitVec 4) (d b : BitVec 6) (s : State) : Host.Outcome State Fault Refusal :=
  s.issue (.portSbind g d b) (fun e t => do
    let q := portOf d
    check (b != 63) causeRange 63
    let v := (e.a.reg (b.toNat + 1)).v
    match patternFault v with
    | some x => faultAt causeRange x
    | none => .ok ()
    let c := e.c b
    let a := c.addr.toNat
    let (id, t) := t.fresh
    let st := { streamOf c.toBits v with id := id }
    let es : Nat := 2 ^ st.esz
    check (e.tag b) causeTag a
    check (c.otype == 0) causeSeal a
    check (c.has .ld && c.has .eng) causePerm a
    check (decide (c.base ≤ st.corners.1) && decide (st.corners.2 + (es : Int) ≤ c.top)) causeBounds a
    match (a :: st.str.map (·.toNat)).find? (fun x => x % es != 0) with
    | some x => faultAt causeAlign x
    | none => .ok ()
    let sp := bits a 35 32
    let place := (match t.localPlace t.myAccess { x := a, n := es, align := 1 } with
      | .ok _ => true
      | .error _ => false)
    check ((decide (bits a 63 60 < 8) && bits a 59 57 == 0) || (bits a 63 60 == 0xE && (sp == 0 || sp == 4) && place)) causeAccess a
    check ((e.sl.port q).mode == 0) causeRange d.toNat
    .ok ((t.updMe (fun y => y.setPort q { mode := 2, stream := some st })).push (.streamStripArrival e.core e.slot q)))

/-- PORT.SREL, R287. -/
def execPortSrel (g : BitVec 4) (d : BitVec 6) (s : State) : Host.Outcome State Fault Refusal :=
  s.issue (.portSrel g d) (fun e t => do
    check ((e.sl.port (portOf d)).mode != 1) causeRange d.toNat
    .ok (t.unbind e.core e.slot (portOf d)))

/-- PORT.SSTAT, R287. -/
def execPortSstat (g : BitVec 4) (d a : BitVec 6) (s : State) : Host.Outcome State Fault Refusal :=
  s.issue (.portSstat g d a) (fun e t =>
    let p := e.sl.port (portOf a)
    let left := (match p.stream with
      | some m => m.left % 2 ^ 48
      | none => 0)
    let x := p.mode * 2 ^ 62 + b2n p.exh * 2 ^ 61 + b2n p.headErr * 2 ^ 60 + p.fifo.length * 2 ^ 48 + left
    .ok (t.updArch (fun r => r.setScalar d.toNat x)))

/-! ## Strips -/

/-- One element of a strip fetched for a task, R286: its value, or the cause that marks the strip; none where its storage does not
accept the access now (R195, R366), its translation needs a walk (R204), or a guard holds it back (R247). -/
def State.stripElem (s : State) (a : Access) (ref : TaskRef) (st : Stream) (x : Nat) : Option (Except Nat Nat) × State :=
  let es : Nat := 2 ^ st.esz
  match s.placeOf a { x := x, n := es, align := 1 } with
  | (.error code, t) => (if code = notYet then none else some (.error code), t)
  | (.ok p, t) => match worldCheck a ((Cap.ofBits st.base).has .wrld) p with
    | some code => (some (.error code), t)
    | none =>
      if t.jobGuarded a.core (some ref) p.key es false then (none, t)
      else match t.touchLine a.part (some a.core) p.key false with
        | none => (none, t)
        | some t => (some (if t.badAt p.key es then .error causeData else .ok (t.readMem p.key es)), t)

/-- The bytes of a strip, or its mark; none where an element has to wait. -/
def State.stripOf (s : State) (a : Access) (ref : TaskRef) (st : Stream) : List (Nat × Nat) → Nat → Option PortEntry × State
  | [], v => (some { v := BitVec.ofNat 1024 v }, s)
  | (i, x) :: r, v =>
    match s.stripElem a ref st x with
    | (none, t) => (none, t)
    | (some (.error code), t) => (some { err := some (code, x) }, t)
    | (some (.ok d), t) => t.stripOf a ref st r (v + d * 2 ^ (8 * 2 ^ st.esz * i))

/-- A strip arrives at its port, R285, R286, R288: fetched behind the task's stores from before SBIND; the engine fetches
the next one, unless this one is marked. -/
def execStreamStripArrival (core slot port : Nat) (s : State) : Host.Outcome State Fault Refusal :=
  let ev := Instr.streamStripArrival core slot port
  let x := s.slot core slot
  let p := x.port port
  match p.stream with
  | none => .next (s.did ev)
  | some st =>
    let l := st.strips st.next
    let ref : TaskRef := ⟨core, slot, x.uid⟩
    if st.halted ∨ st.next ≥ st.total then .next (s.did ev)
    else if !s.portRoom core p ∨ !s.issuerDone st.id (some ref) (l.map (fun e => ((e.2 : Int), ((e.2 + 2 ^ st.esz : Nat) : Int)))) [] then .next s
    else match s.stripOf { s.accessOf core slot with who := .stream core slot port } ref st l 0 with
    | (none, t) => .next t
    | (some en, t) =>
      let st := { st with next := st.next + 1, halted := en.err.isSome }
      let t := (t.did ev).updSlot core slot (fun y => y.setPort port { p with fifo := p.fifo ++ [en], stream := some st })
      .next (if st.halted ∨ st.next ≥ st.total then t else t.push ev)

end Sys2Proof.Machine
end

