-- ==== Sys2Proof/Machine/Handlers.lean ====
section
/-!
DEFINITION. The handler table (R126 to R131), the creation of tasks (R26, R122 to R124), the freeing of slots, and the
selection among runnable entries (R130).
-/

namespace Sys2Proof.Machine

/-! ## Launches by their identity -/

/-- The active launch that holds an identity, R144. -/
def State.launchOf (s : State) (lid : Nat) : Option Nat :=
  (s.launches.find? (fun e => e.2.lid == lid && e.2.root != .queued && e.2.root != .ended)).map (·.1)

/-- A launch's record changed. -/
def State.updLaunch (s : State) (l : Nat) (f : Launch → Launch) : State :=
  match s.launches.look l with
  | none => s
  | some x => { s with launches := s.launches.set l (f x) }

/-! ## Creating a task -/

/-- What a new task starts with, R26, R122. -/
structure NewTask where
  code : Option CapBits
  arg : Reg
  sup : Bool
  world : Bool
  heat : Nat
  ctx : Nat
  tcoord : Nat := 0
  gang : Nat := 0
  lid : Nat
  launch : Option Nat
  gangId : Option Nat := none
  gti : Nat := 0
  deriving DecidableEq, Repr

/-- The slot of a new task while its bank is cleared, R26, R124. -/
def NewTask.slot (k : NewTask) (uid part readyAt : Nat) : Slot :=
  let a : Arch := ({ sr := putBit (putBit 0 10 k.sup) 9 k.world } : Arch).startCode k.code
  { phase := .clearing, uid := uid, arch := a.setReg 3 k.arg, tcoord := BitVec.ofNat 64 k.tcoord,
    gang := BitVec.ofNat 64 k.gang, ctxid := BitVec.ofNat 64 k.ctx, heat := BitVec.ofNat 64 k.heat, launch := k.launch,
    gangId := k.gangId, gti := k.gti, lid := k.lid, part := part, readyAt := readyAt }

/-- A task created in a free slot, R122, R124: it is counted in TASKS of its launch (R147), its bank is awake (R365: a gated one
takes 32 mesh cycles to wake before it is cleared), and it does not issue while its partition is halted (R339). -/
def State.createTask (s : State) (c n : Nat) (k : NewTask) : State :=
  let (u, s) := s.fresh
  let part := (s.ctx k.ctx).part
  let b := s.banks.at (16 * c + n) {}
  let len := cycleLen (coreX (s.phys c))
  let ready := if b.st = .gated then max ((s.slot c n).readyAt + 32 * len) (s.now + 32 * meshLen + 64 * len) else (s.slot c n).readyAt
  let x := { k.slot u part ready with halted := s.haltedPart part }
  let s := (s.setSlot c n x).push (.slotClearingEnd c n)
  let s := s.wakeBank c n
  match k.launch with
  | none => s
  | some l => s.updLaunch l (fun y => { y with tasks := y.tasks + 1 })

/-- The 64 cycles of R124 have passed: the task may issue. -/
def execSlotClearingEnd (core slot : Nat) (s : State) : Host.Outcome State Fault Refusal :=
  let done := s.did (.slotClearingEnd core slot)
  let x := s.slot core slot
  if x.phase ≠ .clearing then .next done
  else if s.now < x.readyAt then .next s
  else .next (done.setSlot core slot { x with phase := .live })

/-- A slot freed, R124: its task is gone, and the clearing of its bank begins. -/
def State.freeSlot (s : State) (c n : Nat) : State :=
  (s.setSlot c n { readyAt := s.now + 64 * cycleLen (coreX (s.phys c)) }).pushOnce (.taskSelection c)

/-! ## Free slots -/

/-- Whether a slot of a core may take a task of a context: free, not withdrawn by the health monitor (R433), in a block of the
context's world (R413), and under a slice pair of the context's group (R329). -/
def State.slotOpen (s : State) (c n ctx : Nat) : Bool :=
  let k := s.core c
  let p := k.big.pair
  (k.slot n).phase == .free && !s.lostBanks.at (16 * s.phys c + n) false && !s.bankLent c n && !s.lostCores.at c false && !k.moving &&
    s.worldCore c == (s.ctx ctx).s &&
    (!p.slen || (if bit p.smap n then p.yctx == ctx else p.xctx == ctx))

/-- The slots that pending reservations hold on a core, R125, R133. -/
def State.reservedSlots (s : State) (c : Nat) : List Nat :=
  s.gangs.flatMap (fun g => (g.2.reserved.filter (fun r => r.1 == c)).map (·.2))

/-- The slots of a core open to handler selection for a context, R125: not those that a reservation holds or waits for. -/
def State.openSlots (s : State) (c ctx : Nat) : List Nat :=
  let held := s.reservedSlots c
  let waits := s.gangs.any (fun g => !g.2.dealt &&
    g.2.wants.any (fun w => w.1 == c && decide ((g.2.reserved.filter (fun r => r.1 == c)).length < w.2)))
  if waits ∨ (s.core c).dark.isSome then []
  else (List.range (slotCount c)).filter (fun n => s.slotOpen c n ctx && !held.contains n)

/-! ## The control word, R127 -/

/-- A handler entry's control word. -/
def Handler.control (h : Handler) : Nat :=
  h.gen * 2 ^ 48 + h.lid * 2 ^ 40 + b2n h.held * 2 ^ 39 + h.mail.length * 2 ^ 35 + b2n h.pb * 2 ^ 34 + b2n h.esup * 2 ^ 33 +
    b2n h.esec * 2 ^ 32 + h.ctx * 2 ^ 16 + h.eheat * 2 ^ 6 + h.mode * 2 ^ 4 + b2n h.mask * 2 ^ 3 + h.prio

/-- A write of part 0 with its checks passed, R129, R131. -/
def Handler.setControl (h : Handler) (v : Nat) (sup : Bool) : Handler :=
  let h1 := { h with mode := bits v 5 4, mask := bit v 3, prio := bits v 1 0, ctx := if sup then bits v 31 16 else h.ctx }
  if h1.mode = h.mode then h1 else h1.advance

/-- HTAB read, R131. -/
def execHtabRd (g : BitVec 4) (d b : BitVec 6) (s : State) : Host.Outcome State Fault Refusal :=
  s.issue (.htabRd g d b) (fun e t => do
    let x := e.x b
    check (decide (x < 128) && bits x 6 5 != 3) causeRange x
    let h := t.handler e.core (x % 32)
    check (h.ctx == e.sl.ctxid.toNat || e.a.sup) causePrivilege e.word.toNat
    let show_ := fun (c : Option CapBits) (r : Arch) => (match c with
      | some k => r.writeCap d.toNat k
      | none => r.setVec d.toNat 0)
    .ok (t.updArch (fun r => match bits x 6 5 with
      | 0 => r.setScalar d.toNat h.control
      | 1 => show_ h.code r
      | _ => show_ h.arg r)))

/-- HTAB write, R131. -/
def execHtabWr (g : BitVec 4) (a b : BitVec 6) (s : State) : Host.Outcome State Fault Refusal :=
  s.issue (.htabWr g a b) (fun e t => do
    let x := e.x b
    let v := e.x a
    let k := e.c a
    check (decide (x < 128) && bits x 6 5 != 3) causeRange x
    let h := t.handler e.core (x % 32)
    check (h.ctx == e.sl.ctxid.toNat || e.a.sup) causePrivilege e.word.toNat
    let put := fun (h : Handler) => (t.updHandler e.core (x % 32) (fun _ => h)).pushOnce (.taskSelection e.core)
    match bits x 6 5 with
    | 0 =>
      let m := bits v 5 4
      check (m != 3 && (m == 2) == (h.mode == 2)) causeRange v
      check (!h.held || m == h.mode || e.a.sup) causePrivilege e.word.toNat
      .ok (put (h.setControl v e.a.sup))
    | 1 =>
      check (e.tag a) causeTag k.addr.toNat
      check (k.otype == 0) causeSeal k.addr.toNat
      check (k.has .ex) causePerm k.addr.toNat
      check (!h.held || e.a.sup) causePrivilege e.word.toNat
      .ok (put { h.advance with code := some k.toBits, esup := e.a.sup, esec := e.a.world, eheat := 0 })
    | _ =>
      check (e.tag a) causeTag k.addr.toNat
      check (!h.held || e.a.sup) causePrivilege e.word.toNat
      .ok (put { h.advance with arg := some k.toBits }))

/-! ## Selection, R130 -/

/-- Whether an entry is runnable, R128. -/
def Handler.runnable (h : Handler) : Bool := h.mode == 1 && !h.mail.isEmpty

/-- The points that an entry of a core at physical place c has gained by waiting, R130. -/
def Handler.gained (h : Handler) (c now : Nat) : Nat := max h.aged ((now - h.since) / (4096 * cycleLen (coreX c)))

/-- The effective priority, R130. -/
def Handler.effective (h : Handler) (c now : Nat) : Nat := min 3 (h.prio + h.gained c now)

/-- The channels after the one selected last, in ascending order with wrap, R130. -/
def channelsAfter (last : Nat) : List Nat := (List.range 32).map (fun i => (last + 1 + i) % 32)

/-- The channel to select, R130: the first of the highest effective priority among those whose context has an open slot. -/
def State.selects (s : State) (c : Nat) : Option Nat :=
  let k := s.core c
  let ok := (channelsAfter k.lastSel).filter (fun n =>
    let h := k.handler n
    h.runnable && !h.mask && !s.haltedCtx h.ctx && !(s.openSlots c h.ctx).isEmpty)
  let top := (ok.map (fun n => (k.handler n).effective (s.phys c) s.now)).foldl max 0
  ok.find? (fun n => (k.handler n).effective (s.phys c) s.now == top)

/-- The message frame of R123 as a number of 256 bytes, and its three granules that may be tagged. -/
def frameOf (h : Handler) (chan : Nat) (m : Msg) : Nat :=
  let arg : Nat := (match h.arg with
    | some a => a.toNat
    | none => 0)
  arg + m.len * 2 ^ 128 + chan * 2 ^ 136 + m.src % 2 ^ 24 * 2 ^ 144 + m.lid * 2 ^ 168 + m.body * 2 ^ 256

/-- The frame written into its slot's area, R123. -/
def State.putFrame (s : State) (c n : Nat) (h : Handler) (chan : Nat) (m : Msg) : State :=
  let k := localKey c 7 (0x10000 + 0x100 * n)
  let t := s.store k 256 (frameOf h chan m)
  ((t.setTag k h.arg.isSome).setTag (k + 32) m.tag0).setTag (k + 160) m.tag128

/-- The capability to a slot's message frame, R123. -/
def State.frameCap (s : State) (c n : Nat) : Reg :=
  let a := s.localVa c 7 (0x10000 + 0x100 * n)
  match Cap.make 9 0 a 0x100 a with
  | some k => capReg k.toBits true
  | none => {}

/-- A task created for the oldest message of a channel, R122, R128. -/
def State.createFor (s : State) (c n chan : Nat) : State :=
  let h := s.handler c chan
  match h.mail with
  | [] => s
  | m :: r =>
    let s := s.updCore c (fun k => { k.setHandler chan { h with mail := r, aged := 0, since := s.now } with lastSel := chan })
    let s := s.putFrame c n h chan m
    s.createTask c n { code := h.code, arg := s.frameCap c n, sup := h.esup, world := h.esec, heat := h.eheat, ctx := h.ctx, lid := m.lid, launch := s.launchOf m.lid }

/-- Handler selection, R125, R130: the event stays under way while entries are runnable. The slot among several free ones
is a free choice. -/
def execTaskSelection (core : Nat) (s : State) : Host.Outcome State Fault Refusal :=
  match s.selects core with
  | none =>
    if (s.core core).handlers.any (fun e => e.2.runnable) then .next s else .next (s.did (.taskSelection core))
  | some chan =>
    let l := s.openSlots core (s.handler core chan).ctx
    let (v, t) := s.draw
    .next (t.createFor core (l[v % l.length]?.getD 0) chan)

/-- An entry has waited another 4,096 cycles, R130. -/
def execHandlerAging (core chan : Nat) (s : State) : Host.Outcome State Fault Refusal :=
  let h := s.handler core chan
  if h.runnable then .next (s.updHandler core chan (fun h => { h with aged := h.gained (s.phys core) s.now })) else .next s

end Sys2Proof.Machine
end

