-- ==== Sys2Proof/Machine/Messages.lean ====
section
/-!
DEFINITION. Messages: SEND (R150 to R157), the decision of a message at its target (R158, R342, R380), its answer (R154),
the drops and retransmissions of the mesh (R353 to R355), and cards at engine inboxes (R264, R266).
-/

namespace Sys2Proof.Machine

/-! ## Addresses, R150 -/

/-- The fields of a local-window address. -/
def addrDevice (x : Nat) : Nat := bits x 59 50
def addrCore (x : Nat) : Nat := bits x 49 36

/-- Whether an address names a handler channel, R150. -/
def isChannel (x : Nat) : Bool := bits x 35 32 == 7 && bits x 31 13 == 0 && bits x 7 0 == 0

/-- Whether an address names an engine inbox, R150. -/
def isInbox (x : Nat) : Bool := bits x 35 32 == 6 && bits x 31 10 == 0 && bits x 7 0 == 0

/-- Whether coordinates name a core, R183. -/
def isCore (c : Nat) : Bool := isBig c || isLittle c

/-- The channel or engine that a packet names. -/
def Packet.chan (p : Packet) : Nat := bits p.target 12 8

/-! ## SEND -/

/-- The checks of R153 in their order, after the registers are read. -/
def State.sendChecks (t : State) (kind : Nat) (d : Nat) (b : BitVec 6) (r : Reg) : Except Exit Unit := do
  let c := r.cap
  let x := c.addr.toNat
  check (bits d 63 32 == 0 && bits d 15 9 == 0 && decide (bits d 7 0 ≤ 224)) causeRange d
  check (!(decide (bits d 7 0 > 128) && b == 63)) causeRange d
  check r.tag causeTag x
  check (c.has .snd) causePerm x
  check (!(c.otype == 2 && kind == 3) && (c.otype == 0 || c.otype == 2)) causeSeal x
  check (c.covers x 1) causeBounds x
  check (bits x 63 60 == 0xE) causeAccess x
  check (if kind = 3 then isInbox x else isChannel x) causeRange x
  check (addrDevice x != t.table.devnum || isCore (addrCore x)) causeAccess x

/-- The body of a SEND, R152. -/
def Env.sendBody (e : Env) (b : BitVec 6) (len : Nat) : Nat :=
  let hi := if len > 128 then (e.a.reg (b.toNat + 1)).v.toNat else 0
  ((e.v b).toNat + hi * 2 ^ 1024) % 2 ^ (8 * len)

/-- The source field of a message, R123, R166. -/
def State.srcField (s : State) (c : Nat) : Nat := s.table.devnum * 2 ^ 14 + c

/-- SEND, R153: kinds 0 posted, 1 acknowledged, 2 reply, 3 engine inbox. A release waits whatever the target, and a message to
another device of the launch's pod grid carries that device's identity of the launch, R406. -/
def State.send (s : State) (i : Instr) (kind : Nat) (d a b : BitVec 6) : Host.Outcome State Fault Refusal :=
  s.issue i (fun e t => do
    let x := e.x d
    let dst := e.a.reg a.toNat
    t.sendChecks kind x b dst
    let full := decide ((t.core e.core).retx.length ≥ 32)
    if full ∧ kind = 2 then faultAt causeSendFull dst.cap.addr.toNat
    else do
      stallIf full .full
      stallIf (kind != 2 && decide (e.sl.stc ≥ 64)) .counter
      stallIf (!t.releaseReady (pfxRelease e.pfx)) .order
      let len := bits x 7 0
      let m : Msg :=
        { lid := t.lidAt e.sl.launch (addrDevice dst.cap.addr.toNat) e.sl.lid, src := t.srcField e.core, len := len, body := e.sendBody b len,
          tag0 := e.tag b && decide (len ≥ 16), tag128 := decide (len ≥ 144) && (e.a.reg (b.toNat + 1)).tag,
          ctx := e.sl.ctxid.toNat, world := e.a.world }
      let p : Packet :=
        { kind := kind, target := dst.cap.addr.toNat, gc := bit x 8, gen := bits x 31 16, msg := m,
          task := some t.myRef, dest := d.toNat, acquire := pfxAcquire e.pfx, lidHere := some e.sl.lid }
      let (id, t) := t.sendPacket e.core p
      let board := if (kind = 1 ∨ kind = 3) ∧ d ≠ 0 then [(Dest.reg d.toNat, id)] else []
      .ok (t.updMe (fun y => { y with stc := y.stc + b2n (kind != 2), board := y.board ++ board })))

/-- SEND.post, R151. -/
def execSendPost (g : BitVec 4) (d a b : BitVec 6) (s : State) : Host.Outcome State Fault Refusal :=
  s.send (.sendPost g d a b) 0 d a b

/-- SEND.ack, R151. -/
def execSendAck (g : BitVec 4) (d a b : BitVec 6) (s : State) : Host.Outcome State Fault Refusal :=
  s.send (.sendAck g d a b) 1 d a b

/-- SEND.reply, R151. -/
def execSendReply (g : BitVec 4) (d a b : BitVec 6) (s : State) : Host.Outcome State Fault Refusal :=
  s.send (.sendReply g d a b) 2 d a b

/-- SEND.eng, R151. -/
def execSendEng (g : BitVec 4) (d a b : BitVec 6) (s : State) : Host.Outcome State Fault Refusal :=
  s.send (.sendEng g d a b) 3 d a b

/-! ## The decision at the target, R158 -/

/-- The status codes of an answer, R154. -/
def ansAccepted : Nat := 0
def ansRefused : Nat := 1
def ansStale : Nat := 2
def ansOversize : Nat := 3

/-- An answer's status word, R154. -/
def answerWord (status gen qcnt retries : Nat) : Nat :=
  status * 2 ^ 48 + gen * 2 ^ 32 + min qcnt 255 * 2 ^ 24 + min retries 255 * 2 ^ 16

/-- Whether a message comes from an easel core of this device. -/
def State.fromEasel (s : State) (m : Msg) : Bool := m.src / 2 ^ 14 == s.table.devnum && s.isEasel (m.src % 2 ^ 14)

/-- Whether the firewall of an easel core admits a message from a non-easel source, R380. -/
def State.admits (s : State) (c : Nat) (inbox : Bool) (n : Nat) (m : Msg) : Bool :=
  let w := (s.core c).fwall
  !s.isEasel c || s.fromEasel m || !w.getLsbD 0 ||
    ((if inbox then w.getLsbD 24 else w.getLsbD (32 + n)) && (if m.world then w.getLsbD 2 else w.getLsbD 3))

/-- The task of a port-mode entry, when it lives, R158. A task that is being created, or that a grid abort has stopped, counts
as none (DESIGN CHOICE, assumption 94). -/
def State.portTask (s : State) (c chan : Nat) : Option (Nat × Nat) :=
  match (s.core c).boundTo chan with
  | some (n, q) => if (s.slot c n).phase = .live then some (n, q) else none
  | none => none

/-- Whether a grid abort has reached a core that holds an entry claimed by the aborted launch, R326. -/
def State.abortedEntry (s : State) (c : Nat) (h : Handler) : Bool :=
  match h.launch.bind s.launches.look with
  | some l => h.held && l.aborting && l.reached.contains c
  | none => false

/-- What an entry decides, R158, with the entries waiting before: none for a reply that finds no room, R155. The spec does not
say what an entry's world is: it is that of its context's record (DESIGN CHOICE, assumption 94). -/
def State.judge (s : State) (c chan : Nat) (p : Packet) : Option Nat × Nat :=
  let h := s.handler c chan
  let full := fun (q : Nat) => (if p.kind = 2 then none else some ansRefused, q)
  let fifo := (match s.portTask c chan with
    | some (n, q) => some ((s.slot c n).port q)
    | none => none)
  let waiting := (match fifo with
    | some f => f.fifo.length
    | none => h.mail.length)
  if p.gc ∧ p.gen ≠ h.gen then (some ansStale, waiting)
  else if h.mode = 0 ∨ s.abortedEntry c h then (some ansStale, waiting)
  else if h.ctx ≠ p.msg.ctx ∨ (s.ctx h.ctx).s ≠ p.msg.world then (some ansStale, waiting)
  else if h.mode = 2 then
    match fifo with
    | none => (some ansStale, 0)
    | some f =>
      if p.msg.len > 128 then (some ansOversize, waiting)
      else if s.haltedCtx h.ctx ∨ !s.portRoom c f then full waiting
      else (some ansAccepted, waiting + 1)
  else if s.haltedCtx h.ctx ∨ h.mail.length ≥ 8 then full waiting
  else (some ansAccepted, waiting + 1)

/-- An accepted message stored: in the mailbox, or behind the port, R128, R158. -/
def State.deliverMsg (s : State) (c chan : Nat) (m : Msg) : State :=
  let h := s.handler c chan
  if h.mode = 2 then
    match s.portTask c chan with
    | none => s
    | some (n, q) =>
      s.updSlot c n (fun x =>
        let f := x.port q
        x.setPort q { f with fifo := f.fifo ++ [{ v := BitVec.ofNat 1024 m.body, tag := m.tag0, lid := m.lid }] })
  else
    let since := if h.mail.isEmpty then s.now else h.since
    (s.updHandler c chan (fun h => { h with mail := h.mail ++ [m], since := since })).pushOnce (.taskSelection c)

/-- A packet's answer on its way back, R154. -/
def State.answer (s : State) (id : Nat) (p : Packet) (w : Nat) : State :=
  ({ s with packets := s.packets.set id { p with answer := some w } }).push (.answerArrival id)

/-- Whether an earlier packet of the same core to the same target on the same network is still undecided, R156. -/
def State.behind (s : State) (id : Nat) (p : Packet) : Bool :=
  s.packets.any (fun e => decide (e.1 < id) && e.2.answer.isNone && e.2.msg.src == p.msg.src && e.2.target == p.target && e.2.beside p)

/-- The statuses with which a target may decide a packet, R155, R158: an engine inbox never answers OVERSIZE, and a message
that fits a port never is; a reply that finds no room is dropped, which none says. -/
def Packet.mayAnswer (p : Packet) : List (Option Nat) :=
  [some ansAccepted, some ansStale, if p.kind = 2 then none else some ansRefused] ++
    (if p.kind ≠ 3 ∧ p.msg.len > 128 then [some ansOversize] else [])

/-- The numbers of waiting entries that an answer may report, R154, from the least to the most: at an engine inbox of 32, a
mailbox of 8 or a port of 16 (R128, R162, R264); one accepted counts itself, and a body above 128 bytes is accepted into a
mailbox alone. -/
def Packet.waitingFor (p : Packet) (status : Nat) : Nat × Nat :=
  let most := if p.kind = 3 then (if status = ansStale then 0 else inboxSize)
    else if status = ansAccepted ∧ p.msg.len > 128 then 8 else 16
  (b2n (status == ansAccepted), most)

/-- The GEN that an answer may report, R154, R158: none of an inbox; that of the packet where it asks for one and is not
answered STALE; else whatever the entry's is. -/
def Packet.genFor (p : Packet) (status v : Nat) : Nat :=
  if p.kind = 3 then 0 else if p.gc ∧ status ≠ ansStale then p.gen else v % 2 ^ 16

/-- The decision of another device on a packet: a free choice of those that R158 allows, none for a reply that it drops. Where
no link leads there the link front end answers STALE, R153, R400, and no core counts the message as received (assumption 104).
-/
def State.farAnswer (s : State) (p : Packet) : Option Nat × State :=
  if p.device ≥ s.table.podsz ∨ (s.routes.at p.device []).isEmpty then (some (answerWord ansStale 0 0 p.retries), s)
  else
    let (v, s) := s.draw
    let l := p.mayAnswer
    ((l[v % l.length]?.getD none).map (fun st =>
      let (lo, hi) := p.waitingFor st
      answerWord st (p.genFor st (v / 4)) (lo + v / 2 ^ 18 % (hi + 1 - lo)) p.retries), s)

/-- Whether the orders that its task keeps allow a packet to reach its target now, R157, R233, R245, R248: earlier loads, and
acquires and fences of a scope that contains the target, as every scope contains the jobs that the task issues. -/
def State.maySend (s : State) (id : Nat) (p : Packet) : Bool :=
  match p.task with
  | none => true
  | some r => s.mayStartAt (if p.kind = 3 then 0 else if p.device = s.table.devnum then s.scopeTo r.core p.core else 5) id r true false

/-- A message reaches the router of its target and is decided, R156, R158. -/
def execMessageArrival (packet : Nat) (s : State) : Host.Outcome State Fault Refusal :=
  let done := s.did (.messageArrival packet)
  match s.packets.look packet with
  | none => .next done
  | some p =>
    if p.kind = 3 ∨ p.answer.isSome ∨ p.nacked then .next done
    else match s.enroute packet p with
    | some t => .next t
    | none =>
    if s.behind packet p ∨ !s.maySend packet p then .next s
    else if p.device ≠ s.table.devnum then
      match done.farAnswer p with
      | (some w, t) => .next (t.answer packet p w)
      | (none, t) => .next (t.nack packet p false)
    else
      let c := p.core
      let h := s.handler c p.chan
      if !s.admits c false p.chan p.msg then
        .next ((done.countRcvd c p.msg.lid).answer packet p (answerWord ansStale h.gen 0 p.retries))
      else match s.judge c p.chan p with
        | (none, _) => .next (done.nack packet p false)
        | (some st, q) =>
          let t := done.countRcvd c p.msg.lid
          let t := if st = ansAccepted then t.deliverMsg c p.chan p.msg else t
          .next (t.answer packet p (answerWord st h.gen q p.retries))

/-! ## Engine inboxes, R264, R266 -/

/-- The card of a SEND.eng, R265. -/
def Msg.card (m : Msg) : Card :=
  let w := fun (o : Nat) => BitVec.ofNat 64 (m.body / 2 ^ (8 * o) % 2 ^ 64)
  let hdr := (w 16).toNat
  let words := fun (o n : Nat) => (List.range n).map (fun k => w (o + 8 * k))
  let rank := bits hdr 10 8
  { src := capReg (BitVec.ofNat 128 (m.body % 2 ^ 128)) m.tag0, dst := capReg (BitVec.ofNat 128 (m.body / 2 ^ 1024 % 2 ^ 128)) m.tag128,
    kind := bits hdr 3 0, esz := bits hdr 12 11, rank := rank, dir := bit hdr 13, scope := bits hdr 18 16, reply := (w 24).toNat,
    pad := w 32, base := w 40, dims := (words 48 5).take rank, strs := (words 88 5).take rank, orgs := (words 144 5).take rank,
    aux := words 184 3 }

/-- Whether a SEND.eng card passes the checks of CPY, R266: the header, the geometry, and steps 3 to 6 of R275. -/
def State.cardValid (s : State) (a : Access) (m : Msg) : Bool :=
  let hdr := m.body / 2 ^ 128 % 2 ^ 64
  let k := m.card
  let tail := m.body / 2 ^ (8 * 208) == 0
  let ctrl := bits hdr 10 8 + bits hdr 12 11 * 8 + b2n (bit hdr 13) * 32
  let words := fun (o n : Nat) => (List.range n).map (fun i => BitVec.ofNat 64 (m.body / 2 ^ (8 * (o + 8 * i)) % 2 ^ 64))
  let g := BitVec.ofNat 64 ctrl :: words 40 11 ++ words 144 8
  m.len == 224 && tail && bits hdr 63 19 == 0 && bits hdr 15 14 == 0 && bits hdr 7 4 == 0 && decide (k.scope ≤ 5) && (k.scope != 5 || s.otherDevice k.dense.addr.toNat) &&
    (k.kind == 0 || k.kind == 1 || k.kind == 4 || k.kind == 5) && (geomFault g k.kind).isNone && (s.cardFault a k 0).isNone

/-- A card reaches an engine's inbox, R264, R266: QCNT counts the cards that wait there. An inbox has no GEN, so the GEN test of
R152 does not apply to it (DESIGN CHOICE, assumption 99). -/
def execEngineCardArrival (packet : Nat) (s : State) : Host.Outcome State Fault Refusal :=
  let done := s.did (.engineCardArrival packet)
  match s.packets.look packet with
  | none => .next done
  | some p =>
    if p.kind ≠ 3 ∨ p.answer.isSome ∨ p.nacked then .next done
    else match s.enroute packet p with
    | some t => .next t
    | none =>
    if s.behind packet p ∨ !s.maySend packet p then .next s
    else if p.device ≠ s.table.devnum then
      match done.farAnswer p with
      | (some w, t) => .next (t.answer packet p w)
      | (none, t) => .next (t.nack packet p false)
    else
      let c := p.core
      let n := bits p.target 9 8
      let t := done.countRcvd c p.msg.lid
      let say := fun (t : State) (st q : Nat) => Host.Outcome.next (t.answer packet p (answerWord st 0 q p.retries))
      let e := engineId c n
      if !s.admits c true 0 p.msg ∨ (if isBig c then n > 2 else n ≠ 0) then say t ansStale 0
      else if s.haltedCtx p.msg.ctx ∨ s.sendCards e ≥ 16 ∨ s.inboxLen e ≥ inboxSize then say t ansRefused (s.inboxLen e)
      else
        let part := (s.ctx p.msg.ctx).part
        let a : Access := ⟨c, p.msg.ctx, part, p.msg.world, false, .job 0⟩
        let valid := n != 2 && s.cardValid a p.msg
        let (id, t) := t.fresh
        let j : Job :=
          { id := id, card := p.msg.card, engine := e, core := c, bySend := true, valid := valid, ctx := p.msg.ctx, part := part,
            world := p.msg.world, lid := p.msg.lid, launch := s.launchOf p.msg.lid }
        say (({ t with jobs := t.jobs.set id j }).push (.jobStart id)) ansAccepted (s.inboxLen e + 1)

/-! ## Drops and retransmissions, R353 to R355 -/

/-- A router discards a packet that has waited too long, or whose check failed, R353: never one that still waits at its source,
nor one with the escape mark. -/
def execPacketDiscard (packet : Nat) (s : State) : Host.Outcome State Fault Refusal :=
  match s.packets.look packet with
  | none => .next s
  | some p =>
    if p.answer.isSome ∨ p.nacked ∨ p.escape ∨ (p.at_.isNone ∧ p.via.isNone) then .next s
    else .next (((s.did (.messageArrival packet)).did (.engineCardArrival packet)).nack packet p false)

/-- The event with which a packet goes on its way. -/
def Packet.travels (p : Packet) (id : Nat) : Instr := if p.kind = 3 then .engineCardArrival id else .messageArrival id

/-- A NACK reaches the source, R354, R355: the wait before the next send, with J a free choice, and the escape mark from the
ninth send on. A remap mark, R363, sends the packet again at once, and counts no retry. -/
def execNackArrival (packet : Nat) (s : State) : Host.Outcome State Fault Refusal :=
  let done := s.did (.nackArrival packet)
  match s.packets.look packet with
  | none => .next done
  | some p =>
    if !p.nacked ∨ p.backoff.isSome then .next done
    else if s.now < p.ready then .next s
    else if p.remap then
      .next (({ done with packets := done.packets.set packet { p with nacked := false, remap := false, at_ := none } } : State).push (p.travels packet))
    else
      let n := p.retries + 1
      let (wait, t) := done.nackWait p.source n
      let p := { p with retries := n, backoff := some (t.now + wait), escape := decide (n ≥ 8), at_ := none, via := none }
      .next (({ t with packets := t.packets.set packet p }).push (.backoffExpiry packet))

/-- A packet's copy freed, R155. -/
def State.freeCopy (s : State) (id : Nat) (p : Packet) : State :=
  if p.msg.src / 2 ^ 14 = s.table.devnum then s.updCore p.source (fun k => { k with retx := k.retx.erase id }) else s

/-- A packet gone, and its copy freed. -/
def State.dropPacket (s : State) (id : Nat) (p : Packet) : State := ({ s with packets := s.packets.drop id } : State).freeCopy id p

/-- Whether the launch of a launch message sends no further message, R324, R412. -/
def State.stopping (s : State) (launch : Option Nat) : Bool :=
  match launch.bind s.launches.look with
  | some l => l.aborting || l.draining
  | none => false

/-- A message of a launch that will not be sent again is gone, and its dispatcher goes on. -/
def State.lastMessage (s : State) (id : Nat) (p : Packet) : State :=
  let t := s.dropPacket id p
  match p.launchMsg with
  | some l => t.pushOnce (.launchMessageSend l)
  | none => t

/-- The wait of R355 is over: the packet, or a launch message that was refused (R143), is sent again; the latter takes a new
entry of the retransmit buffer, and is not sent once its launch has stopped. -/
def execBackoffExpiry (packet : Nat) (s : State) : Host.Outcome State Fault Refusal :=
  let done := s.did (.backoffExpiry packet)
  match s.packets.look packet with
  | none => .next done
  | some p => match p.backoff with
    | none => .next done
    | some w =>
      if s.now < w then .next s
      else
        let again := p.answer.isSome
        if again ∧ s.stopping p.launchMsg then .next (done.lastMessage packet p)
        else if again ∧ (s.core p.source).retx.length ≥ 32 then .next s
        else
        let t := if again then (done.countSent p.source p.ownLid).updCore p.source (fun k => { k with retx := k.retx ++ [packet] }) else done
        let p := { p with nacked := false, backoff := none, answer := none, at_ := none, via := none, retries := if again then 0 else p.retries, escape := p.escape && !again }
        .next (({ t with packets := t.packets.set packet p }).push (p.travels packet))

/-! ## Answers, R154 -/

/-- An answer reaches the sender, R143, R154: the status word, STC and the freed copy, R155; a refused message of a message
launch waits to be sent again, unless the launch has stopped, R412. -/
def execAnswerArrival (packet : Nat) (s : State) : Host.Outcome State Fault Refusal :=
  let done := s.did (.answerArrival packet)
  match s.packets.look packet with
  | none => .next done
  | some p => match p.answer with
    | none => .next done
    | some w =>
      if p.backoff.isSome then .next done
      else if p.queue.isSome then .next (({ done with packets := done.packets.set packet { p with arrived := true } } : State).freeCopy packet p)
      else if p.launchMsg.isSome ∧ bits w 63 48 = ansRefused ∧ !s.stopping p.launchMsg then
        let (wait, t) := (done.freeCopy packet p).nackWait p.source (p.refused + 1)
        .next (({ t with packets := t.packets.set packet { p with refused := p.refused + 1, backoff := some (t.now + wait) } }).push (.backoffExpiry packet))
      else
        let t := done.lastMessage packet p
        match (if p.kind = 2 then none else p.task) with
        | none => .next t
        | some r =>
          .next (t.updTask r (fun x =>
            let y := { x with stc := x.stc - 1, board := x.board.filter (fun b => b.2 != packet) }
            if p.kind = 0 then y
            else y.land (fun a => a.setScalar p.dest w)))

end Sys2Proof.Machine
end

