-- ==== Sys2Proof/Machine/Gangs.lean ====
section
/-!
DEFINITION. Gangs and barriers: the cut of a launch into gangs (R141), placement and reservation (R132, R133, R357), the
dealing of tasks, BAR (R135, R136), SLOT (R137), and END (R78, R321, R359).
-/

namespace Sys2Proof.Machine

/-! ## Dispatchers -/

/-- The core on which a firmware role runs, R439; roles are coded 1 CP, 2 PD, 3 DD, 4 PLD, 5 CD, 6 PM, 7 SM, 8 HM, with 16
times the number of the role among those of its kind in the order of the map. -/
def State.roleCore (s : State) (role : Nat) : Nat :=
  match s.roles.find? (fun e => e.2 % 16 == role) with
  | some (k, _) => k / 16
  | none => match s.table.columns with
    | (p, x) :: _ => coreId p x 0 0
    | [] => 0

/-- The slot in which it runs there. -/
def State.roleSlot (s : State) (role : Nat) : Nat := ((s.roles.find? (fun e => e.2 % 16 == role)).map (fun e => e.1 % 16)).getD 0

/-- The core of the column dispatcher that serves a column, R439: by the default map's rule, taken over as many column
dispatchers as the map has. -/
def State.columnCore (s : State) (plate x : Nat) : Nat :=
  let n := (s.roles.filter (fun e => e.2 % 16 == 5)).length
  match s.roles.find? (fun e => e.2 == 5 + 16 * ((4 * plate + x / 8) % max n 1)) with
  | some (k, _) => k / 16
  | none => s.roleCore 5

/-- Plates of a mask. -/
def platesOf (mask : Nat) : List Nat := (List.range 4).filter (bit mask)

/-! ## The cut of a tile launch, R141 -/

def LaunchRec.w (r : LaunchRec) : Nat := r.gw + 1
def LaunchRec.h (r : LaunchRec) : Nat := r.gh + 1
def LaunchRec.d (r : LaunchRec) : Nat := r.gd + 1
def LaunchRec.nx (r : LaunchRec) : Nat := ceilDiv (r.extx + 1) r.w
def LaunchRec.ny (r : LaunchRec) : Nat := ceilDiv (r.exty + 1) r.h
def LaunchRec.nz (r : LaunchRec) : Nat := ceilDiv (r.extz + 1) r.d
/-- The number of gangs. -/
def LaunchRec.gangs (r : LaunchRec) : Nat := r.nx * r.ny * r.nz

/-- The local coordinates of a task index, R134. -/
def LaunchRec.local (r : LaunchRec) (i : Nat) : Nat × Nat × Nat := (i % r.w, i / r.w % r.h, i / (r.w * r.h))

/-- The coordinate of a task of a gang, R141. -/
def LaunchRec.coord (r : LaunchRec) (g i : Nat) : Nat × Nat × Nat :=
  let (a, b, c) := r.local i
  (g % r.nx * r.w + a, g / r.nx % r.ny * r.h + b, g / (r.nx * r.ny) * r.d + c)

/-- The task indexes of a gang: those whose coordinates lie inside the extents, R133. -/
def LaunchRec.tasksOf (r : LaunchRec) (g : Nat) : List Nat :=
  (List.range (r.w * r.h * r.d)).filter (fun i =>
    let (x, y, z) := r.coord g i
    decide (x ≤ r.extx) && decide (y ≤ r.exty) && decide (z ≤ r.extz))

/-- TCOORD of a task, R19. -/
def LaunchRec.tcoord (r : LaunchRec) (g i : Nat) : Nat :=
  let (x, y, z) := r.coord g i
  x + y * 2 ^ 16 + z * 2 ^ 32

/-- Whether a launch is placed in a hatch, R132, R142. -/
def LaunchRec.hatch (r : LaunchRec) : Bool := !r.tgt && decide (r.heat ≥ 2)

/-! ## Placement, R132, R357 -/

/-- The core of a task for an origin: a node (x0, y0), or a block for big cores. -/
def LaunchRec.place (r : LaunchRec) (plate x0 y0 i : Nat) : Option Nat :=
  let (a, b, _) := r.local i
  if r.tgt then
    if x0 + a < 4 ∧ y0 + b < 4 then some (bigId plate (x0 + a) (y0 + b)) else none
  else
    let y := y0 + b / 2
    let x := if r.hatch then x0 + (x0 + y) % 2 + 2 * (a / 2) else x0 + a / 2
    if x < 32 ∧ y < 24 then some (coreId plate x y (a % 2 + 2 * (b % 2))) else none

/-- Whether a little core may lie in the rectangle of a launch. -/
def State.coreOk (s : State) (r : LaunchRec) (part c : Nat) : Bool :=
  !inBlock (coreX c) (coreY c) && !s.isEasel c && (r.heat != 3 || (decide (10 ≤ coreX c) && decide (coreX c ≤ 21))) &&
    (s.core c).part == some part && !s.lostCores.at c false

/-- Numbers from lo to hi. -/
def rangeOf (lo hi : Nat) : List Nat := (List.range (hi + 1 - lo)).map (fun i => lo + i)

/-- The dark cores of a rectangle, R357: every core of the nodes whose x + y is odd. -/
def darkOf (plate : Nat) (cores : List Nat) : List Nat :=
  let xs := cores.map coreX
  let ys := cores.map coreY
  let box := (rangeOf (ys.foldl Nat.min 31) (ys.foldl Nat.max 0)).flatMap (fun y =>
    (rangeOf (xs.foldl Nat.min 31) (xs.foldl Nat.max 0)).map (fun x => (x, y)))
  (box.filter (fun n => (n.1 + n.2) % 2 == 1)).flatMap (fun n => (List.range 4).map (fun k => coreId plate n.1 n.2 k))

/-- A gang's cores and dark cores for an origin: none where the rectangle breaks a condition of R132. -/
def State.rectangle (s : State) (r : LaunchRec) (part plate x0 y0 : Nat) (tasks : List Nat) : Option (List Nat × List Nat) :=
  let at_ := tasks.map (r.place plate x0 y0)
  if at_.any Option.isNone then none
  else
    let cores := (at_.filterMap id).dedup
    let dark := if r.hatch then darkOf plate cores else []
    let ok := if r.tgt then cores.all (fun c => (s.core c).part == some part && !s.lostCores.at c false)
      else (cores ++ dark).all (s.coreOk r part)
    if ok then some (cores, dark) else none

/-- The slots that a rectangle wants on each core, R133, R357: of a gang clipped by the extents, those of its tasks alone
(assumption 90). -/
def wantsOf (r : LaunchRec) (plate x0 y0 : Nat) (tasks : List Nat) (rect : List Nat × List Nat) : List (Nat × Nat) :=
  rect.1.map (fun c => (c, (tasks.filter (fun i => r.place plate x0 y0 i == some c)).length)) ++ rect.2.map (fun c => (c, 4))

/-- The origins at which a gang's rectangle meets R132. -/
def State.origins (s : State) (r : LaunchRec) (part plate g : Nat) : List (Nat × Nat) :=
  let tasks := r.tasksOf g
  let w := if r.tgt then 4 else 32
  let h := if r.tgt then 4 else 24
  ((List.range h).flatMap (fun y => (List.range w).map (fun x => (x, y)))).filter
    (fun o => (s.rectangle r part plate o.1 o.2 tasks).isSome)

/-- The free slots of a core that a reservation for a context may take: open, and not held by another one. -/
def State.reservable (s : State) (c ctx : Nat) : List Nat :=
  let held := s.reservedSlots c
  if (s.core c).dark.isSome ∨ (s.core c).moving then [] else (List.range (slotCount c)).filter (fun n => s.slotOpen c n ctx && !held.contains n)

/-- The origins at which a gang would find all its slots free now. -/
def State.freeOrigins (s : State) (r : LaunchRec) (ctx part plate g : Nat) : List (Nat × Nat) :=
  let tasks := r.tasksOf g
  (s.origins r part plate g).filter (fun o => match s.rectangle r part plate o.1 o.2 tasks with
    | none => false
    | some q => (wantsOf r plate o.1 o.2 tasks q).all (fun w => decide (w.2 ≤ (s.reservable w.1 ctx).length)))

/-! ## Ranges and placement, R125, R133, R141 -/

/-- Whether a plate's dispatchers still deal a launch, R324, R412. -/
def Launch.deals (l : Launch) (plate : Nat) : Bool := l.root == .dealing && !l.reached.contains (16384 + plate)

/-- The next gang of a plate's range. -/
def Launch.nextOf (l : Launch) (plate : Nat) : Option (Nat × Nat) :=
  (l.ranges.find? (fun e => e.1 == plate && decide (e.2.1 < e.2.2))).map (·.2)

/-- A plate's range replaced. -/
def Launch.setRange (l : Launch) (plate a b : Nat) : Launch :=
  { l with ranges := l.ranges.filter (fun e => e.1 != plate) ++ [(plate, a, b)] }

/-- Whether a plate dispatcher has a reservation pending, R133. -/
def State.placing (s : State) (plate : Nat) : Bool := s.gangs.any (fun g => g.2.plate == plate && !g.2.dealt)

/-- The origins among some at which a gang may be tried again: elsewhere than where its reservation was withdrawn, R125, where
there is another. -/
def Launch.elsewhere (x : Launch) (plate : Nat) (l : List (Nat × Nat)) : List (Nat × Nat) :=
  match x.avoid.look plate with
  | some o => if (l.erase o).isEmpty then l else l.erase o
  | none => l

/-- The placement of a plate's next gang at a freely chosen origin, where one is free or else where one fits. -/
def State.pushPlacement (s : State) (l : Nat) (x : Launch) (plate g : Nat) : State :=
  let fits := x.elsewhere plate (s.origins x.lr x.part plate g)
  let free := (s.freeOrigins x.lr x.ctx x.part plate g).filter fits.contains
  let all := if free.isEmpty then fits else free
  let (v, s) := s.draw
  match all[v % all.length]? with
  | some o => s.push (.gangPlacement l plate o.1 o.2)
  | none => s.pushOnce (.gangRangeRequest l plate)

/-- A plate dispatcher asks for more work, R141: a run of at most 64 gangs, once it has room for one and none of its
reservations is pending, R133. -/
def execGangRangeRequest (launch plate : Nat) (s : State) : Host.Outcome State Fault Refusal :=
  let ev := Instr.gangRangeRequest launch plate
  let done := s.did ev
  match s.launches.look launch with
  | none => .next done
  | some l =>
    if !l.deals plate ∨ l.lr.kind ∨ !bit l.lr.pmask plate then .next done
    else match l.nextOf plate with
      | some (g, _) => .next (done.pushPlacement launch l plate g)
      | none =>
        if l.handed ≥ l.total ∨ l.aborting ∨ l.draining then .next done
        else if s.placing plate ∨ s.haltedPart l.part ∨ (s.freeOrigins l.lr l.ctx l.part plate l.handed).isEmpty then .next s
        else
          let (v, t) := done.draw
          let n := min (1 + v % 64) (l.total - l.handed)
          let l' := { l.setRange plate l.handed (l.handed + n) with handed := l.handed + n }
          let t := { t with launches := t.launches.set launch l' }
          .next (t.pushPlacement launch l' plate l.handed)

/-- Slots reserved for a gang as far as they are free, R125, R133: those wanted on each core that it does not hold yet. -/
def State.reserveMore (s : State) (g : Gang) (ctx : Nat) : Gang :=
  g.wants.foldl (fun g w =>
    let have_ := (g.reserved.filter (fun r => r.1 == w.1)).length
    let more := ((s.reservable w.1 ctx).filter (fun n => !g.reserved.contains (w.1, n))).take (w.2 - have_)
    { g with reserved := g.reserved ++ more.map (fun n => (w.1, n)) }) g

/-- Whether every reservation of a gang holds. -/
def Gang.whole (g : Gang) : Bool := g.wants.all (fun w => (g.reserved.filter (fun r => r.1 == w.1)).length == w.2)

/-- Whether a plate's next gang may not go to an origin because its reservation there was withdrawn and it fits elsewhere, R125.
-/
def State.withdrawnAt (s : State) (l : Launch) (plate g : Nat) (o : Nat × Nat) : Bool :=
  l.avoid.look plate == some o && !((s.origins l.lr l.part plate g).erase o).isEmpty

/-- A column dispatcher places the next gang of a plate at an origin, R132, R133. -/
def execGangPlacement (launch plate x y : Nat) (s : State) : Host.Outcome State Fault Refusal :=
  let done := s.did (.gangPlacement launch plate x y)
  match s.launches.look launch with
  | none => .next done
  | some l => match l.nextOf plate with
    | none => .next done
    | some (n, stop) =>
      if !l.deals plate then .next done
      else if s.placing plate ∨ s.haltedPart l.part then .next s
      else
        let tasks := l.lr.tasksOf n
        match (if s.withdrawnAt l plate n (x, y) then none else s.rectangle l.lr l.part plate x y tasks) with
        | none => .next (done.pushOnce (.gangRangeRequest launch plate))
        | some q =>
          let (id, t) := done.fresh
          let members := tasks.filterMap (fun i => (l.lr.place plate x y i).map (fun c => (c, (l.lr.local i).2.2, i)))
          let bar : Barrier := { gang := id, e := tasks.length, eNext := tasks.length, ctx := l.ctx, part := l.part, launch := launch }
          let g : Gang :=
            { launch := launch, gnum := n, plate := plate, members := members, wants := wantsOf l.lr plate x y tasks q,
              darkCores := q.2, since := t.now, place := (x, y), bar := bar, idleSince := t.gt }
          let g := t.reserveMore g l.ctx
          let t := { t with gangs := t.gangs.set id g, launches := t.launches.set launch { l.setRange plate (n + 1) stop with avoid := l.avoid.drop plate } }
          .next ((t.push (.reservationComplete id)).push (.reservationWithdrawal id))

/-- Dealing done once no gang is left, R146. -/
def State.maybeDealt (s : State) (launch : Nat) : State :=
  match s.launches.look launch with
  | none => s
  | some l =>
    if l.root = .dealing ∧ !l.lr.kind ∧ (l.handed ≥ l.total ∨ l.aborting ∨ l.draining) ∧ l.ranges.all (fun e => decide (e.2.1 ≥ e.2.2)) ∧
        !s.gangs.any (fun g => g.2.launch == launch && !g.2.dealt) then s.pushOnce (.dealingDone launch)
    else s

/-- The cores of a gang go dark or are lit, R357, R358. -/
def State.setHatch (s : State) (id : Nat) (g : Gang) : State :=
  let t := g.darkCores.foldl (fun u c => u.updCore c (fun k => { k with dark := some id })) s
  (g.members.map (·.1)).foldl (fun u c =>
    let p := coreId (corePlate c) (coreX c ^^^ 1) (coreY c) (coreK c)
    if g.darkCores.contains p then u.updCore c (fun k => { k with lit := some id }) else u) t

/-- Every reservation of a gang holds, R133: the deal messages go out, counted in SENT (R144). Where the slots reserved on a core
are not its first ones, its slot c of R132 is the c-th of them in ascending order (DESIGN CHOICE, assumption 108). No core from
which a migration starts takes part, R363. -/
def execReservationComplete (gang : Nat) (s : State) : Host.Outcome State Fault Refusal :=
  let done := s.did (.reservationComplete gang)
  match s.gangs.look gang with
  | none => .next done
  | some g => match s.launches.look g.launch with
    | none => .next done
    | some l =>
      if g.dealt then .next done
      else if s.haltedPart l.part ∨ g.wants.any (fun w => (s.core w.1).moving) then .next s
      else
        let g := s.reserveMore g l.ctx
        if !g.whole then .next { s with gangs := s.gangs.set gang g }
        else
          let slots := fun (c : Nat) => (g.reserved.filter (fun r => r.1 == c)).map (·.2)
          let members := g.members.map (fun m => (m.1, ((slots m.1).mergeSort)[m.2.1]?.getD 0, m.2.2))
          let g := { g with members := members, dealt := true, toCreate := members.map (·.2.2), idleSince := s.gt }
          let t := { done.did (.reservationWithdrawal gang) with gangs := s.gangs.set gang g }
          let t := (t.updLaunch g.launch (fun l => { l with dealt := l.dealt + 1 })).setHatch gang g
          let from_ := t.columnCore g.plate (coreX ((members.map (·.1)).headD 0))
          let t := members.foldl (fun u m => (u.countSent from_ l.lid).push (.dealMessage gang m.2.2)) t
          .next ((t.pushOnce (.gangRangeRequest g.launch g.plate)).maybeDealt g.launch)

/-- A reservation that has waited 2^16 cycles is withdrawn, and its gang is placed again elsewhere, R125: cycles of the column
dispatcher's core (assumption 91). -/
def execReservationWithdrawal (gang : Nat) (s : State) : Host.Outcome State Fault Refusal :=
  let done := s.did (.reservationWithdrawal gang)
  match s.gangs.look gang with
  | none => .next done
  | some g =>
    if g.dealt then .next done
    else if s.now < g.since + 2 ^ 16 * cycleLen (coreX (s.columnCore g.plate g.place.1)) then .next s
    else
      let t := { done.did (.reservationComplete gang) with gangs := s.gangs.drop gang }
      let t := g.wants.foldl (fun u w => u.pushOnce (.taskSelection w.1)) t
      let t := t.updLaunch g.launch (fun l =>
        let stop := (match l.nextOf g.plate with
          | some (_, e) => e
          | none => g.gnum + 1)
        { l.setRange g.plate g.gnum stop with avoid := l.avoid.set g.plate g.place })
      .next (t.pushOnce (.gangRangeRequest g.launch g.plate))

/-! ## Barriers, R135, R136 -/

/-- The end of a phase, R135. -/
def Barrier.settle (b : Barrier) : Barrier :=
  if b.arrived.length = b.e then { b with phase := (b.phase + 1) % 2 ^ 32, arrived := [], e := b.eNext } else b

/-- A task's arrival. -/
def Barrier.arrive (b : Barrier) (i : Nat) : Barrier := ({ b with arrived := b.arrived ++ [i] } : Barrier).settle

/-- The END of a task of the gang, R136: its arrival in the current phase, and one task fewer in all later ones. -/
def Barrier.leave (b : Barrier) (i : Nat) : Barrier :=
  let l := if b.arrived.contains i then b.arrived else b.arrived ++ [i]
  ({ b with arrived := l, eNext := b.eNext - 1 } : Barrier).settle

/-- Whether a wait for a phase is over, R135. -/
def Barrier.past (b : Barrier) (v : Nat) : Bool :=
  let d := (b.phase + 2 ^ 32 - v % 2 ^ 32) % 2 ^ 32
  decide (1 ≤ d) && decide (d < 2 ^ 31)

/-- A plate's pools. -/
def State.pool (s : State) (plate : Nat) : Pools := s.pools.at plate {}
def State.updPool (s : State) (plate : Nat) (f : Pools → Pools) : State := { s with pools := s.pools.set plate (f (s.pool plate)) }

/-- The barrier that a handle names for a task of a gang: 0 the gang's own, else one of its plate's pool. -/
def State.barrier (s : State) (gang h : Nat) : Option Barrier :=
  match s.gangs.look gang with
  | none => none
  | some g =>
    if h = 0 then some g.bar
    else match (s.pool g.plate).bars.look h with
      | some b => if b.gang = gang then some b else none
      | none => none

/-- A barrier replaced, and the tasks of the gang that waited for its phase go on. -/
def State.setBarrier (s : State) (gang h : Nat) (b : Barrier) : State :=
  match s.gangs.look gang with
  | none => s
  | some g =>
    let t := if h = 0 then { s with gangs := s.gangs.set gang { g with bar := b } }
      else s.updPool g.plate (fun p => { p with bars := p.bars.set h b })
    g.members.foldl (fun u m =>
      let x := u.slot m.1 m.2.1
      match x.barred with
      | some (k, v) => if x.gangId = some gang ∧ k = h ∧ b.past v then u.setSlot m.1 m.2.1 { x with barred := none, wait := none } else u
      | none => u) t

/-- The barrier that BAR names, R135, with the gang. -/
def Env.bar (e : Env) (t : State) (a : BitVec 6) : Except Exit (Nat × Nat × Barrier) :=
  let h := e.x a
  if h ≥ 2 ^ 32 then faultAt causeRange h
  else match e.sl.gangId with
    | none => faultAt causeRange h
    | some g => match t.barrier g h with
      | none => faultAt causeRange h
      | some b => .ok (g, h, b)

/-- The arrival of BAR, R135: its stalls, which make it a release (R250), then the phase in which the task arrived. -/
def Env.arrive (e : Env) (t : State) (g h : Nat) (b : Barrier) : Except Exit (Nat × State) := do
  stallIf (b.arrived.contains e.sl.gti) .barrier
  stallIf (e.sl.stc != 0) .barrier
  stallIf (!t.releaseReady true) .order
  .ok (b.phase, t.setBarrier g h (b.arrive e.sl.gti))

/-- A task waits until a barrier has passed a phase, R135: the instruction is past, and the task issues no more until then.
-/
def State.barWait (t : State) (g h v : Nat) : State :=
  match t.barrier g h with
  | none => t
  | some b => if b.past v then t else t.updMe (fun x => { x.stalls .barrier t.now with barred := some (h, v) })

/-- BAR.full, R135. -/
def execBarFull (g : BitVec 4) (a : BitVec 6) (s : State) : Host.Outcome State Fault Refusal :=
  s.issue (.barFull g a) (fun e t => do
    let (k, h, b) ← e.bar t a
    let (q, t) ← e.arrive t k h b
    .ok (t.barWait k h q))

/-- BAR.arrive, R135. -/
def execBarArrive (g : BitVec 4) (d a : BitVec 6) (s : State) : Host.Outcome State Fault Refusal :=
  s.issue (.barArrive g d a) (fun e t => do
    let (k, h, b) ← e.bar t a
    let (q, t) ← e.arrive t k h b
    .ok (t.updArch (fun r => r.setScalar d.toNat q)))

/-- BAR.wait, R135. -/
def execBarWait (g : BitVec 4) (a b : BitVec 6) (s : State) : Host.Outcome State Fault Refusal :=
  s.issue (.barWait g a b) (fun e t => do
    let (k, h, _) ← e.bar t a
    .ok (t.barWait k h (elem (e.v b) 32 0)))

/-! ## SLOT, R137 -/

/-- The answer of SLOT. -/
def slotWord (status handle : Nat) : Nat := status * 2 ^ 48 + handle

/-- The handle of a queue or counter slot, R238. -/
def slotHandle (plate i : Nat) : Nat := plate * 2 ^ 16 + i

/-- The least free index from 1 on of a pool with n places. -/
def freeIndex {α : Type} (m : Sp α) (n : Nat) : Option Nat := ((List.range n).map (· + 1)).find? (fun i => (m.look i).isNone)

/-- Whether the quota that the easel sets for a partition leaves room in a pool: its size is not given, so a free choice says
so once the partition holds a slot there. -/
def State.underQuota (s : State) (held : Nat) : Bool × State :=
  if held = 0 then (true, s)
  else
    let (v, s) := s.draw
    (v % 2 = 0, s)

/-- The storage of a queue or counter slot at its allocation, R239, R240: words zero and empty. -/
def State.clearSlot (s : State) (k words : Nat) : State :=
  let t := s.store k (8 * words) 0
  (List.range (2 * words)).foldl (fun u i => u.setFull (k + 4 * i) false) t

/-- SLOT alloc, R137. Of several STATUS values that apply the first of 5, 2 and 1 is given; the index is the least free one; and
the handle of a barrier, whose layout the spec does not give, is that index (DESIGN CHOICE, assumption 109). -/
def execSlotAlloc (g : BitVec 4) (d a : BitVec 6) (k : BitVec 3) (s : State) : Host.Outcome State Fault Refusal :=
  s.issue (.slotAlloc g d a k) (fun e t =>
    let n := e.x a
    let plate := corePlate e.core
    let ctx := e.sl.ctxid.toNat
    let part := e.sl.part
    let p := t.pool plate
    let give := fun (t : State) (w : Nat) => Except.ok (ε := Exit) (t.updArch (fun r => r.setScalar d.toNat w))
    let mk : QueueSlot := { depth := if k = 1 then n else 0, ctx := ctx, part := part, launch := e.sl.launch }
    match k.toNat with
    | 0 => match e.sl.gangId with
      | none => give t (slotWord 5 0)
      | some gid =>
        if n = 0 ∨ n > 1024 ∨ n > bits e.sl.gang.toNat 51 42 + 1 then give t (slotWord 2 0)
        else
          let (ok, t) := t.underQuota (p.bars.filter (fun b => b.2.part == part)).length
          match freeIndex p.bars 256 with
          | some i =>
            if ok then
              let b : Barrier := { gang := gid, e := n, eNext := n, ctx := ctx, part := part, launch := (e.sl.launch).getD 0 }
              give (t.updPool plate (fun p => { p with bars := p.bars.set i b })) (slotWord 0 i)
            else give t (slotWord 1 0)
          | none => give t (slotWord 1 0)
    | 1 =>
      if n = 0 ∨ n > 256 then give t (slotWord 2 0)
      else
        let (ok, t) := t.underQuota (p.queues.filter (fun b => b.2.part == part)).length
        match freeIndex p.queues 256 with
        | some i =>
          if ok then give ((t.updPool plate (fun p => { p with queues := p.queues.set i mk })).clearSlot (queueKey plate i 0) n) (slotWord 0 (slotHandle plate i))
          else give t (slotWord 1 0)
        | none => give t (slotWord 1 0)
    | _ =>
      let (ok, t) := t.underQuota (p.ctrs.filter (fun b => b.2.part == part)).length
      match freeIndex p.ctrs 1024 with
      | some i =>
        if ok then give ((t.updPool plate (fun p => { p with ctrs := p.ctrs.set i mk })).clearSlot (counterKey plate i) 1) (slotWord 0 (slotHandle plate i))
        else give t (slotWord 1 0)
      | none => give t (slotWord 1 0))

/-- Whether a queue holds entries, R239: a full word. -/
def State.queueHolds (s : State) (plate i n : Nat) : Bool := (List.range n).any (fun w => s.fullAt (queueKey plate i w))

/-- SLOT free, R137: a barrier by its index on the task's plate, a queue or counter by the handle of R238, of whichever plate. A
task stalled at a second arrival on a barrier does not wait on it (DESIGN CHOICE, assumption 110). -/
def execSlotFree (g : BitVec 4) (d a : BitVec 6) (k : BitVec 3) (s : State) : Host.Outcome State Fault Refusal :=
  s.issue (.slotFree g d a k) (fun e t =>
    let h := e.x a
    let ctx := e.sl.ctxid.toNat
    let plate := (if k = 0 then corePlate e.core else bits h 17 16)
    let i := bits h 10 0
    let p := t.pool plate
    let give := fun (t : State) (w : Nat) => Except.ok (ε := Exit) (t.updArch (fun r => r.setScalar d.toNat w))
    match k.toNat with
    | 0 => match p.bars.look h with
      | none => give t (slotWord 3 0)
      | some b =>
        if b.ctx ≠ ctx ∨ e.sl.gangId ≠ some b.gang then give t (slotWord 3 0)
        else if t.cores.any (fun c => c.2.slots.any (fun x => x.2.gangId == some b.gang && (match x.2.barred with
            | some (j, _) => j == h
            | none => false))) then give t (slotWord 4 0)
        else give (t.updPool plate (fun p => { p with bars := p.bars.drop h })) (slotWord 0 h)
    | 1 => match p.queues.look i with
      | none => give t (slotWord 3 0)
      | some q =>
        if q.ctx ≠ ctx ∨ h ≠ slotHandle plate i then give t (slotWord 3 0)
        else if t.queueHolds plate i q.depth then give t (slotWord 4 0)
        else give (t.updPool plate (fun p => { p with queues := p.queues.drop i })) (slotWord 0 h)
    | _ => match p.ctrs.look i with
      | none => give t (slotWord 3 0)
      | some q =>
        if q.ctx ≠ ctx ∨ h ≠ slotHandle plate i then give t (slotWord 3 0)
        else give (t.updPool plate (fun p => { p with ctrs := p.ctrs.drop i })) (slotWord 0 h))

/-! ## Deals -/

/-- The GANG register of a task, R134. -/
def gangWord (lid size index gnum : Nat) : Nat :=
  lid % 256 * 2 ^ 56 + 2 ^ 52 + (size - 1) % 1024 * 2 ^ 42 + index % 1024 * 2 ^ 32 + gnum % 2 ^ 32

/-- A loan ended, R359: SPILLMAP's partner banks are given back and cleared (R188), and the partner core's slots are released, so that it issues
and selects again. -/
def State.endLoan (s : State) (c : Nat) : State :=
  let k := s.core c
  match k.lit with
  | none => s
  | some g =>
    let p := coreId (corePlate c) (coreX c ^^^ 1) (coreY c) (coreK c)
    let spill := if spillKind k.spill = 1 ∧ bit (spillPlace k.spill) 4 then 0 else k.spill
    let t := s.updCore c (fun k => { k with lit := none, spill := spill })
    let t := (if spill = k.spill then t else match s.namedBank c k.spill with
      | some b => t.clearBank b.1 b.2
      | none => t)
    let t := (match t.gangs.look g with
      | some x => ({ t with gangs := t.gangs.set g { x with reserved := x.reserved.filter (fun r => r.1 != p) } } : State)
      | none => t)
    if (t.core p).dark = some g then (t.updCore p (fun k => { k with dark := none })).pushOnce (.taskSelection p) else t

/-- A task of a gang is gone, by END or killed: its reservations end with the gang's last task, its launch counts the gang
(R325), and the dark nodes return (R357, R359). -/
def State.leaveGang (s : State) (gang index : Nat) (killed : Bool) : State :=
  match s.gangs.look gang with
  | none => s
  | some g =>
    let g := { g with toCreate := g.toCreate.erase index, alive := g.alive.erase index, anyKilled := g.anyKilled || killed }
    let t := { s with gangs := s.gangs.set gang g }
    let t := (match (g.members.find? (fun m => m.2.2 == index)).map (·.1) with
      | none => t
      | some c =>
        if g.members.any (fun m => m.1 == c && (g.toCreate.contains m.2.2 || g.alive.contains m.2.2)) then t
        else if (t.core c).lit = some gang then t.endLoan c else t)
    if !g.toCreate.isEmpty ∨ !g.alive.isEmpty then t
    else
      let t := { t with gangs := t.gangs.drop gang }
      let t := g.darkCores.foldl (fun u c =>
        if (u.core c).dark = some gang then (u.updCore c (fun k => { k with dark := none })).pushOnce (.taskSelection c) else u) t
      t.updLaunch g.launch (fun l => if g.anyKilled then { l with killed := l.killed + 1 } else { l with finished := l.finished + 1 })

/-- A deal message lands, R122, R133, R144: its task is created in its reserved slot; after an abort it creates nothing. It waits
while its core stands before a migration, R363 step 1. -/
def execDealMessage (gang index : Nat) (s : State) : Host.Outcome State Fault Refusal :=
  let done := s.did (.dealMessage gang index)
  match s.gangs.look gang with
  | none => .next done
  | some g => match s.launches.look g.launch, g.members.find? (fun m => m.2.2 == index) with
    | some l, some (c, n, _) =>
      if !g.toCreate.contains index then .next done
      else if s.haltedPart l.part ∨ (s.core c).moving then .next s
      else
        let t := done.countRcvd c l.lid
        let g' := { g with reserved := g.reserved.erase (c, n) }
        if l.aborting ∧ l.reached.contains c then .next ({ t with gangs := t.gangs.set gang g' }.leaveGang gang index true)
        else
          let h := t.handler c l.lr.chan
          let arg : Reg := (match h.arg with
            | some a => capReg a true
            | none => {})
          let t := { t with gangs := t.gangs.set gang { g' with toCreate := g.toCreate.erase index, alive := g.alive ++ [index] } }
          .next (t.createTask c n
            { code := h.code, arg := arg, sup := l.lr.sup, world := l.lr.s, heat := l.lr.heat, ctx := l.ctx,
              tcoord := l.lr.tcoord g.gnum index, gang := gangWord l.lid g.members.length index g.gnum, lid := l.lid,
              launch := some g.launch, gangId := some gang, gti := index })
    | _, _ => .next done

/-! ## END -/

/-- The task of a slot is gone: its ports, its gang and its slot, R124, R136, R164. Only an END counts as an arrival on the
barriers of the gang (R136); a kill does not (R326). -/
def State.removeTask (s : State) (c n : Nat) (killed : Bool) : State :=
  let x := s.slot c n
  let t := s.unbindAll c n
  let t := t.freeSlot c n
  match x.gangId with
  | none => t
  | some g =>
    let t := (match t.gangs.look g with
      | none => t
      | some k =>
        if killed then t else
        let own : Sp Barrier := (0, k.bar) :: (t.pool k.plate).bars.filter (fun b => b.2.gang == g)
        own.foldl (fun (u : State) (b : Nat × Barrier) => u.setBarrier g b.1 (b.2.leave x.gti)) t)
    t.leaveGang g x.gti killed

/-- END, R78, R321, R333. -/
def execEndTask (g : BitVec 4) (s : State) : Host.Outcome State Fault Refusal :=
  s.issue (.endTask g) (fun e t => do
    stallIf (e.sl.ldc != 0 || e.sl.stc != 0 || e.sl.cpc != 0 || e.sl.mxc != 0) .counter
    if e.slot = serviceSlot then
      .ok ((t.updMe (fun x => { x with phase := .free })).stopBig e.core)
    else if e.a.trapped then .ok (t.abortTask e.core e.slot e.sl.tcause.toNat)
    else .ok (t.removeTask e.core e.slot false))

/-! ## The watchdog, R328 -/

/-- Whether a task is stalled on a parked full/empty request, R223: at an instruction that reads its destination, or at one that
waits on a counter or for earlier accesses. A task with copies or matrix commands outstanding may be waiting on those instead, and
is taken to (assumption 120). -/
def State.onParked (s : State) (c n : Nat) (x : Slot) : Bool :=
  x.wait == some .parked || ((x.wait == some .counter || x.wait == some .order) && x.cpc == 0 && x.mxc == 0 &&
    s.ops.any (fun o => o.2.task == ⟨c, n, x.uid⟩ && s.opParked o.1))

/-- Whether every live task of a gang is stalled as R328 says. -/
def State.gangStalled (s : State) (id : Nat) (g : Gang) : Bool :=
  g.toCreate.isEmpty && g.members.all (fun m =>
    let x := s.slot m.1 m.2.1
    x.gangId != some id || x.phase != .live || x.wait == some .barrier || s.onParked m.1 m.2.1 x || x.wait == some .port)

/-- Whether the watchdog of a gang is paused, R314, R328, R342. -/
def State.gangPaused (s : State) (id : Nat) (g : Gang) : Bool :=
  s.haltedCtx g.bar.ctx || g.members.any (fun m =>
    let x := s.slot m.1 m.2.1
    x.gangId == some id && (x.arch.trapped || x.checking.isSome))

/-- The watchdog counts of all gangs after some ticks, R328: time in which a gang is not stalled, or is paused, does not
count. -/
def State.watchGangs (s : State) (ticks : Nat) : Sp Gang :=
  s.gangs.map (fun g => (g.1, if s.gangStalled g.1 g.2 && !s.gangPaused g.1 g.2 then g.2 else { g.2 with idleSince := g.2.idleSince + ticks }))

/-- The watchdog of a gang reaches its limit, R328: its task 0, or where that has ended its lowest living task (assumption 92),
takes code 19, and the launch aborts. -/
def execGangWatchdogExpiry (gang : Nat) (s : State) : Host.Outcome State Fault Refusal :=
  match s.gangs.look gang with
  | none => .next s
  | some g =>
    let wdog := (s.ctx g.bar.ctx).wdog
    if wdog = 0 ∨ !g.dealt ∨ s.gt < g.idleSince + 2 ^ wdog then .next s
    else match g.members.find? (fun m => m.2.2 == g.alive.foldl min (g.alive.headD 0)) with
      | none => .next s
      | some m => .next (s.enterTrap m.1 m.2.1 causeWatchdog (g.gnum % 2 ^ 32) 0 false 0 (s.slot m.1 m.2.1).arch.resume)

end Sys2Proof.Machine
end

