-- ==== Sys2Proof/Machine/Runs.lean ====
section
/-!
DEFINITION. Runs of accesses by which the easel's agents read and write memory (R255, R386, R395, R147): each run is split
where alignment requires, translated, taken past the home slices, and then read or written.
-/

namespace Sys2Proof.Machine

/-- n bytes of a list from an offset on, as a number; bytes beyond the list count as zero. -/
def leAt (l : List Byte) (off n : Nat) : Nat := leNat ((List.range n).map (fun i => (l[off + i]?).getD 0))

/-- A run of naturally aligned accesses of at most 128 bytes, in ascending order, R386. -/
def alignedRun : Nat → Nat → Nat → List (Nat × Nat)
  | 0, _, _ => []
  | f + 1, x, n =>
    if n = 0 then []
    else
      let k := ([128, 64, 32, 16, 8, 4, 2].find? (fun k => decide (k ≤ n) && x % k == 0)).getD 1
      (x, k) :: alignedRun f (x + k) (n - k)

/-- Where the accesses of a run go, or the code of the first that fails; `wrld` says whether the run may reach secure storage,
R415. -/
def State.placeRun (s : State) (a : Access) (wr wrld : Bool) : List (Nat × Nat) → Except Nat (List (Nat × Nat × Nat)) × State
  | [] => (.ok [], s)
  | (x, n) :: r =>
    match s.placeOf a { x := x, n := n, align := n, rd := !wr, wr := wr } with
    | (.error c, t) => (.error c, t)
    | (.ok p, t) => match worldCheck a wrld p with
      | some c => (.error c, t)
      | none => match t.placeRun a wr wrld r with
        | (.error c, u) => (.error c, u)
        | (.ok l, u) => (.ok ((x, n, p.key) :: l), u)

/-- A run on its way, R192, R195, R204: the storage of its accesses, once all are translated and their home slices have taken them;
or the code of a failure. Where one has to wait the state keeps what has been asked for. -/
def State.reachRun (s : State) (a : Access) (wr wrld : Bool) (x n : Nat) : Except Nat (List (Nat × Nat × Nat)) × State :=
  match s.placeRun a wr wrld (alignedRun n x n) with
  | (.error c, t) => (.error c, t)
  | (.ok l, t) => match t.touchRun a.part (some a.core) wr l with
    | (true, u) => (.ok l, u)
    | (false, u) => (.error notYet, u)

/-- A run through a capability, R14, R147, R143. -/
def State.reachCap (s : State) (a : Access) (tag : Bool) (c : Cap) (wr : Bool) (x n : Nat) : Except Nat (List (Nat × Nat × Nat)) × State :=
  match capCheck tag c [if wr then .st else .ld] x n with
  | some code => (.error code, s)
  | none => s.reachRun a wr (c.has .wrld) x n

/-- The bytes of a run of accesses, ascending. -/
def State.readRun (s : State) (l : List (Nat × Nat × Nat)) : List Byte := l.flatMap (fun e => leBytes e.2.1 (s.readMem e.2.2 e.2.1))

/-- Bytes that start at an address written by a run of accesses. -/
def State.writeRun (s : State) (x : Nat) (d : List Byte) (l : List (Nat × Nat × Nat)) : State :=
  l.foldl (fun u e => u.store e.2.2 e.2.1 (leAt d (e.1 - x) e.2.1)) s

/-- Whether a run of accesses meets data that cannot be corrected, R431. -/
def State.badRun (s : State) (l : List (Nat × Nat × Nat)) : Bool := l.any (fun e => s.badAt e.2.2 e.2.1)

end Sys2Proof.Machine
end

