-- ==== Sys2Proof/Machine/Tickets.lean ====
section
/-!
DEFINITION. The ticket tables of the home slices, R225 to R231.
-/

namespace Sys2Proof.Machine

/-- A ticket-table entry. -/
def State.ticket (s : State) (i k : Nat) : Ticket := (s.slice i).tickets.at k {}
def State.setTicket (s : State) (i k : Nat) (x : Ticket) : State :=
  s.updSlice i (fun y => { y with tickets := y.tickets.set k x })

/-- An entry whose lease has run out by a given GT, R227. -/
def Ticket.aged (x : Ticket) (gt : Nat) : Ticket :=
  if gt < x.deadline then x
  else match x.st with
    | .fetching => { x with st := .dying, reason := .expired }
    | .ready => { x with st := .free, reason := .expired }
    | _ => x

/-- The ticket of an entry, R225. -/
def ticketCap (dev slice entry seq size : Nat) : CapBits :=
  let i := slice % 768
  let addr := dev * 2 ^ 50 + slice / 768 * 2 ^ 48 + i % 32 * 2 ^ 43 + i / 32 * 2 ^ 38 + entry * 2 ^ 30 + seq * 2 ^ 8 + size * 2 ^ 6
  Cap.toBits { otype := 1, perm := 0x80, exp := 0, basem := 0, topm := 0, addr := BitVec.ofNat 64 addr }

/-- The slice and entry that a ticket names, R225. -/
def ticketSlice (addr : Nat) : Nat := bits addr 49 48 * 768 + bits addr 42 38 * 32 + bits addr 47 43
def ticketEntry (addr : Nat) : Nat := bits addr 37 30
def ticketSeq (addr : Nat) : Nat := bits addr 29 8
def ticketBytes (size : Nat) : Nat := 16 * 2 ^ size

/-- The FREE entries of a slice at a GT. -/
def State.freeEntries (s : State) (i : Nat) : List Nat :=
  (List.range 256).filter (fun k => ((s.ticket i k).aged s.gt).st == .free)

/-- Whether an LDT's allocation may reach its slice: behind the task's earlier stores of its write-buffer bank and of its
bytes (R251), and after what its order requires (R231). -/
def State.mayAllocate (s : State) (id : Nat) (o : Op) : Bool :=
  let e := o.first
  s.mayPerform id o 0 e && !s.elemGuarded o e && (s.pendingWrites id o 0 e).isEmpty &&
    ((s.earlier id o.task).flatMap (·.elems)).all (fun x => x.performed || !x.writes || bankOf x.va != bankOf e.va)

/-- An allocation at a slice, R226, R227, with a free choice among the FREE entries. -/
def execTicketAllocation (op : Nat) (s : State) : Host.Outcome State Fault Refusal :=
  let done := s.did (.ticketAllocation op)
  match s.ops.look op with
  | none => .next done
  | some o => match o.kind with
    | .ticketAlloc size =>
      let i := sliceId o.first.key
      let held := (s.slice i).heldAlloc
      let free := s.freeEntries i
      let turn := held.head? = some op ∨ held = []
      if !s.mayAllocate op o ∨ s.now < o.first.till then .next s
      else if free = [] ∨ !turn then
        if held.contains op then .next s
        else if held.length ≥ 16 then .next (s.refuseElem op 0 o o.first)
        else .next (s.updSlice i (fun x => { x with heldAlloc := x.heldAlloc ++ [op] }))
      else
        let (v, t) := done.draw
        let k := free[v % free.length]?.getD 0
        let old := t.ticket i k
        let seq := (old.seq + 1) % 2 ^ 22
        let launch := (t.slot o.task.core o.task.slot).launch
        let x : Ticket :=
          { st := .fetching, seq := seq, ctx := o.ctx, launch := launch, part := o.part, size := size,
            deadline := t.gt + 2 ^ (t.ctx o.ctx).lease, reason := old.reason, addr := o.first.key, va := o.first.va, op := op }
        let t := (t.updSlice i (fun y => { y with heldAlloc := y.heldAlloc.erase op })).setTicket i k x
        let o' := { o with answered := true, val := (ticketCap t.table.devnum i k seq size).toNat }
        .next ((({ t with ops := t.ops.set op o' }).push (.loadCompletion op)).push (.ticketDataArrival i k))
    | _ => .next done

/-- A redeem answered, R228, R229. -/
def State.answerRedeem (s : State) (op status data : Nat) : State :=
  match s.ops.look op with
  | none => s
  | some o =>
    ({ s with ops := s.ops.set op { o with answered := true, status := status, val := data } }).push (.loadCompletion op)

/-- The fetch of an LDT has been performed, R226, R231. -/
def State.fetched (s : State) (op : Nat) : State :=
  match s.ops.look op with
  | none => s
  | some o => match o.kind with
    | .ticketAlloc _ =>
      if o.ldc then { s with ops := s.ops.set op { o with fetched := true } } else { s with ops := s.ops.drop op }
    | _ => s

/-- An entry with what its fetch reads, R251: the bytes present now. -/
def Ticket.fetch (x : Ticket) (s : State) : Ticket :=
  { x with read := true, data := s.readMem x.addr (ticketBytes x.size), bad := s.badAt x.addr (ticketBytes x.size) }

/-- The fetch of an entry, R226, R227, R251: first it reads its line at the home slice, which fixes its bytes and performs it, and
later its data arrives at the entry. An entry that is left takes no line any more. -/
def execTicketDataArrival (slice entry : Nat) (s : State) : Host.Outcome State Fault Refusal :=
  let done := s.did (.ticketDataArrival slice entry)
  let x := (s.ticket slice entry).aged s.gt
  let guarded : Bool := (match s.ops.look x.op with
    | some o => s.elemGuarded o o.first
    | none => false)
  if (x.st = .fetching ∨ x.st = .waiting) ∧ !x.read then
    match (if guarded then none else s.touchLine x.part none x.addr false) with
    | none => .next s
    | some t => .next ((t.setTicket slice entry (x.fetch s)).fetched x.op)
  else match x.st with
  | .fetching => .next (done.setTicket slice entry { x with st := .ready })
  | .waiting =>
    let t := done.setTicket slice entry { x with st := .free, reason := .redeemed, redeemer := none }
    match x.redeemer with
    | none => .next t
    | some r => .next (t.answerRedeem r (if x.bad then 6 else 0) (if x.bad then 0 else x.data))
  | .dying => .next ((done.setTicket slice entry { x with st := .free }).fetched x.op)
  | _ => .next done

/-- The status of a redeem, R229, in the order of the table. -/
def Ticket.status (x : Ticket) (seq ctx : Nat) : Nat :=
  if seq ≠ x.seq then 5
  else if ctx ≠ x.ctx then 4
  else if x.st = .waiting ∨ (x.st = .free ∧ x.reason = .redeemed) then 1
  else if (x.st = .dying ∨ x.st = .free) ∧ x.reason = .released then 3
  else if x.st = .dying ∨ x.st = .free then 2
  else if x.st = .ready ∧ x.bad then 6
  else 0

/-- A redeem reaches its slice, R227 to R229. -/
def execTicketRedeem (op : Nat) (s : State) : Host.Outcome State Fault Refusal :=
  let done := s.did (.ticketRedeem op)
  match s.ops.look op with
  | none => .next done
  | some o => match o.kind with
    | .ticketRedeem c =>
      let a := (Cap.ofBits c).addr.toNat
      let i := ticketSlice a
      let k := ticketEntry a
      let x := (s.ticket i k).aged s.gt
      if o.answered then .next done
      else if !s.mayStart op o.task false o.release then .next s
      else
        let t := done.setTicket i k x
        match x.status (ticketSeq a) o.ctx with
        | 0 =>
          if x.st = .fetching then .next (t.setTicket i k { x with st := .waiting, redeemer := some op })
          else .next ((t.setTicket i k { x with st := .free, reason := .redeemed }).answerRedeem op 0 x.data)
        | 6 => .next ((t.setTicket i k { x with st := .free, reason := .redeemed }).answerRedeem op 6 0)
        | n => .next (t.answerRedeem op n 0)
    | _ => .next done

/-- A release reaches its slice, R230. -/
def execTicketRelease (op : Nat) (s : State) : Host.Outcome State Fault Refusal :=
  let done := s.did (.ticketRelease op)
  match s.ops.look op with
  | none => .next done
  | some o => match o.kind with
    | .ticketRelease c =>
      let a := (Cap.ofBits c).addr.toNat
      let i := ticketSlice a
      let k := ticketEntry a
      let x := (s.ticket i k).aged s.gt
      let x' : Ticket := (if x.seq ≠ ticketSeq a ∨ x.ctx ≠ o.ctx then x
        else match x.st with
          | .fetching => { x with st := .dying, reason := .released }
          | .ready => { x with st := .free, reason := .released }
          | _ => x)
      if o.answered then .next done
      else if !s.mayStart op o.task false o.release then .next s
      else
        let t := done.setTicket i k x'
        .next (({ t with ops := t.ops.set op { o with answered := true } }).push (.storeAcknowledgement op))
    | _ => .next done

/-- GT reaches an entry's deadline, R227. -/
def execTicketExpiry (slice entry : Nat) (s : State) : Host.Outcome State Fault Refusal :=
  .next (s.setTicket slice entry ((s.ticket slice entry).aged s.gt))

/-- The end of a launch reclaims its tickets, R147 step 3, R227. -/
def State.reclaimTickets (s : State) (launch : Nat) : State :=
  let gone := fun (x : Ticket) => if x.launch ≠ some launch then x
    else match x.st with
      | .fetching => { x with st := .dying, reason := .expired }
      | .ready => { x with st := .free, reason := .expired }
      | _ => x
  { s with slices := s.slices.map (fun e => (e.1, { e.2 with tickets := e.2.tickets.map (fun k => (k.1, gone k.2)) })) }

end Sys2Proof.Machine
end

