-- ==== Sys2Proof/Machine/Launches.lean ====
section
/-!
DEFINITION. Launches: the launch record and LAUNCH (R138, R139, R402 to R405), claims (R140), message launches (R143),
quiescence and the end of a launch (R144 to R147), grid abort (R324 to R326), cancel (R412) and LCTL (R410, R411).
-/

namespace Sys2Proof.Machine

/-! ## The launch record, R138 -/

/-- The launch record of 128 bytes with the tags of its first four granules. -/
def LaunchRec.ofBits (x tags : Nat) : LaunchRec :=
  let cap := fun (k : Nat) => BitVec.ofNat 128 (x / 2 ^ (128 * k) % 2 ^ 128)
  let zero := [(1023, 788), (639, 600), (595, 589), (575, 575)].all (fun p => bits x p.1 p.2 == 0)
  { ndev := bits x 787 778, dev0 := bits x 777 768, dbase := bits x 767 704, dlen := bits x 703 672, dh := bits x 671 666,
    dw := bits x 665 660, dy0 := bits x 659 654, dx0 := bits x 653 648, dmode := bits x 647 646, glog := bits x 645 640,
    pmask := bits x 599 596, s := bit x 588, sup := bit x 587, tgt := bit x 586, kind := bit x 585, heat := bits x 584 583,
    prio := bits x 582 581, chan := bits x 580 576, gd := bits x 574 572, gh := bits x 571 566, gw := bits x 565 560,
    extz := bits x 559 544, exty := bits x 543 528, extx := bits x 527 512, keys := cap 3, keysTag := bit tags 3, done := cap 2,
    doneTag := bit tags 2, arg := cap 1, argTag := bit tags 1, code := cap 0, codeTag := bit tags 0, z := zero }

/-- Whether a record starts a pod grid on a device, R405. -/
def LaunchRec.isPod (r : LaunchRec) (dev : Nat) : Bool := r.ndev != 0 || r.dev0 != dev

/-- The target rectangle of a message launch on a plate, in the order of its owners, R143. -/
def LaunchRec.targets (r : LaunchRec) (plate : Nat) : List Nat :=
  (List.range ((r.dw + 1) * (r.dh + 1))).map (fun i => coreAtC plate (r.dx0 + i % (r.dw + 1)) (r.dy0 + i / (r.dw + 1)))

/-- A capability of a record checked as R14 does, R403: the code and TVAL of the first check that fails. -/
def recordCap (tag : Bool) (bits_ : CapBits) (perms : List Perm) (n : Nat) : Option (Nat × Nat) :=
  let c := Cap.ofBits bits_
  let x := c.addr.toNat
  if !tag then some (causeTag, x) else if c.otype ≠ 0 then some (causeSeal, x)
  else if !perms.all c.has then some (causePerm, x) else if n ≠ 0 ∧ !c.covers x n then some (causeBounds, x) else none

/-- The shape conditions of R139 and R405 that are range faults. -/
def State.recordShape (s : State) (r : LaunchRec) (ctx part : Nat) (keys : Bool) : Bool :=
  let plates := platesOf r.pmask
  let mine := fun (c : Nat) => isLittle c && !s.isEasel c && (s.core c).part == some part
  let pod := r.isPod s.table.devnum
  r.z && r.dmode != 3 && decide (r.glog ≤ 40) && r.pmask != 0 && (Cap.ofBits r.done).addr.toNat % 64 == 0 &&
    (if r.tgt then decide (r.gw ≤ 3) && decide (r.gh ≤ 3) else decide (r.gd ≤ 3)) && decide (r.w * r.h * r.d ≤ 1024) &&
    (!r.kind || (!r.tgt && r.exty == 0 && r.extz == 0 && (keys || r.extx == 0) && decide (r.dx0 + r.dw < 64) && decide (r.dy0 + r.dh < 48) &&
      (r.dmode != 0 || r.dlen != 0) && plates.all (fun p => (r.targets p).all mine))) &&
    (!pod || (decide (r.dev0 + r.ndev < s.table.podsz) &&
      (List.range (r.ndev + 1)).all (fun i => decide (r.dev0 + i = s.table.devnum) || !(s.routes.at (r.dev0 + i) []).isEmpty) &&
      s.podTable.any (fun e => e.ctx == ctx && decide (e.dev0 ≤ r.dev0) && decide (r.dev0 + r.ndev ≤ e.dev0 + e.ndev))))

/-- The launch-record fault of R139, R403: code and TVAL; `keys` says whether KEYS is used, R398. -/
def State.recordFault (s : State) (r : LaunchRec) (ctx part : Nat) (sup world keys : Bool) (at_ word : Nat) : Option (Nat × Nat) :=
  let n := if r.isPod s.table.devnum then 72 + 4 * (r.ndev + 1) else 64
  match recordCap r.codeTag r.code [.ex] 0 with
  | some f => some f
  | none =>
    if !r.argTag then some (causeTag, (Cap.ofBits r.arg).addr.toNat)
    else match recordCap r.doneTag r.done [.st] 64 with
      | some f => some f
      | none =>
        match (if r.kind ∧ keys then recordCap r.keysTag r.keys [.ld] (8 * (r.extx + 1)) else none) with
        | some f => some f
        | none =>
          if (r.s ∧ !world) ∨ (r.sup ∧ !sup) then some (causePrivilege, word)
          else if !s.recordShape r ctx part keys ∨ !(Cap.ofBits r.done).covers (Cap.ofBits r.done).addr.toNat n then some (causeRange, at_)
          else none

/-! ## LAUNCH, R402 -/

/-- The handle of a launch, R404. -/
def State.launchHandle (s : State) (l : Launch) : Nat := s.table.devnum * 2 ^ 48 + l.lid * 2 ^ 40 + l.seq

/-- A launch joins the device's launch queue, R402. -/
def State.queueLaunch (s : State) (l : Launch) : Nat × State :=
  let (id, s) := s.fresh
  let l := { l with seq := s.launchSeq }
  let s := { s with launches := s.launches.set id l, launchq := s.launchq ++ [id], launchSeq := (s.launchSeq + 1) % 2 ^ 32 }
  (id, s.push (.launchClaim id))

/-- The launches of the queue that have not been claimed. -/
def State.queued (s : State) : List Nat :=
  s.launchq.filter (fun k => match s.launches.look k with
    | some l => l.root == .queued
    | none => false)

/-- LAUNCH, R402 to R405. -/
def execLaunch (g : BitVec 4) (d a : BitVec 6) (s : State) : Host.Outcome State Fault Refusal :=
  s.issue (.launch g d a) (fun e t => do
    let c := e.c a
    let x := c.addr.toNat
    let acc := t.myAccess
    match t.checkAccess acc (e.tag a) c { x := x, n := 128, align := 128, perms := [.ld, .cld] } with
    | (.error code, _) => .error (exitOf acc code x)
    | (.ok p, t) =>
      stallIf (t.storesPending t.myRef p.key 128 || t.guardedFrom e.core (some t.myRef) p.key 128 true false) .order
      check (!t.badAt p.key 128) causeData x
      let t ← (match t.touchLine acc.part (some e.core) p.key false with
        | none => .error (.wait .full)
        | some t => .ok t)
      let tags := if p.tags then packList 1 ((List.range 4).map (fun k => b2n (t.tagAt (p.key + 16 * k)))) else 0
      let r := LaunchRec.ofBits (t.readMem p.key 128) tags
      let ctx := e.sl.ctxid.toNat
      match t.recordFault r ctx e.sl.part e.a.sup e.a.world true x e.word.toNat with
      | some f => faultAt f.1 f.2
      | none =>
        stallIf (!t.releaseReady true) .order
        stallIf (decide (t.queued.length ≥ 256)) .full
        let l : Launch := { lid := 0, lr := r, ctx := ctx, part := e.sl.part, world := (t.ctx ctx).s, asker := some (t.myRef, d.toNat) }
        let (id, t) := t.queueLaunch l
        let board := if d = 0 then [] else [(Dest.reg d.toNat, id)]
        .ok ((t.updMe (fun y => { y with board := y.board ++ board })).push (.launchHandleReturn id)))

/-- A value delivered to a task's scalar destination, with the scoreboard entry of an identity. -/
def State.giveScalar (s : State) (t : TaskRef) (d id x : Nat) : State :=
  s.updTask t (fun y =>
    ({ y with board := y.board.filter (fun b => b.2 != id) } : Slot).land (fun a => a.setScalar d x))

/-- The handle reaches the task that launched, R402. -/
def execLaunchHandleReturn (launch : Nat) (s : State) : Host.Outcome State Fault Refusal :=
  let done := s.did (.launchHandleReturn launch)
  match s.launches.look launch with
  | none => .next done
  | some l => match l.asker with
    | none => .next done
    | some (t, d) => .next ((done.updLaunch launch (fun l => { l with asker := none })).giveScalar t d launch (s.launchHandle { l with lid := 0 }))

/-! ## The end of a launch, R147 -/

/-- A claimed entry back at its reset state, with GEN advanced, R147 step 1. -/
def Handler.released (h : Handler) : Handler := { gen := h.advance.gen }

/-- Steps 1 to 3 of R147. -/
def State.releaseLaunch (s : State) (id : Nat) (l : Launch) : State :=
  let t := l.claimed.foldl (fun u p => u.updHandler p.1 p.2 Handler.released) s
  let keep := fun (q : Sp QueueSlot) => q.filter (fun e => e.2.launch != some id)
  let t := { t with pools := t.pools.map (fun (p : Nat × Pools) => (p.1, { p.2 with bars := p.2.bars.filter (fun b => b.2.launch != id), queues := keep p.2.queues, ctrs := keep p.2.ctrs })) }
  t.reclaimTickets id

/-- The completion record, R147: its DEALT counts gangs, so a message launch has none. -/
def Launch.record (l : Launch) (gtend : Nat) : Nat :=
  gtend % 2 ^ 64 + l.status * 2 ^ 64 + l.lid % 256 * 2 ^ 96 + l.tasks % 2 ^ 64 * 2 ^ 128 + (if l.lr.kind then 0 else l.dealt) % 2 ^ 64 * 2 ^ 192 + l.finished % 2 ^ 64 * 2 ^ 256 +
    l.killed % 2 ^ 64 * 2 ^ 320 + l.fcount % 2 ^ 32 * 2 ^ 384 + l.fcause % 2 ^ 32 * 2 ^ 416 + l.fgt % 2 ^ 64 * 2 ^ 448

/-- The access of a launch's dispatcher: the launching context, at the device dispatcher's core. -/
def State.dispatcher (s : State) (id : Nat) (l : Launch) : Access := ⟨s.roleCore 3, l.ctx, l.part, l.world, l.lr.sup, .launch id⟩

/-- The bytes that a launch has stored through DONE when it ends, R147 step 4, R408 steps 2 and 3: the record, and a pod grid's
report, each with its place behind DONE.ADDR. A part of a pod grid stores nothing. -/
def State.doneSizes (s : State) (l : Launch) : List (Nat × Nat) :=
  if l.podRoot.isSome then [] else (0, 64) :: (if l.lr.isPod s.table.devnum then [(64, 8 + 4 * (l.lr.ndev + 1))] else [])

/-- Where they go: nowhere where the store fails, and then they are lost, R147 step 4; none where one has to wait (R195, R204). -/
def State.placeDone (s : State) (id : Nat) (l : Launch) : List (Nat × Nat) → Option (List (Nat × Nat × Nat)) × State
  | [] => (some [], s)
  | (off, n) :: r =>
    let c := Cap.ofBits l.lr.done
    let x := c.addr.toNat + off
    match s.reachCap (s.dispatcher id l) l.lr.doneTag c true x n with
    | (.error code, t) =>
      if code = notYet then (none, t) else t.placeDone id l r
    | (.ok p, t) =>
      let q := t.placeDone id l r
      (q.1.map (fun w => p ++ w), q.2)

/-- The answer of LCTL for a launch, R411. -/
def Launch.answer (l : Launch) : Nat :=
  let st := (match l.root with
    | .queued => 0
    | .dealing => if l.lid = 256 && !l.podMap then 1 else 2
    | .ended => 4
    | _ => 3)
  (if l.root = .ended then l.status else 0xFFFE) * 2 ^ 48 + st * 2 ^ 40 + l.dealt % 2 ^ 32

/-- The fault report that follows a pod grid's record, R408 step 3. -/
def faultReport (c : PodCounts) (d : Nat) : List Byte :=
  leBytes 4 c.fdev ++ leBytes 4 d ++ (List.range d).flatMap (fun r => leBytes 4 (((c.each.find? (fun e => e.1 == r)).map (·.2)).getD 0))

/-- A launch reaches ENDED, R146, R147, R411: its record and report go where they have been placed, and its last 256 final answers
stay with the dispatcher. -/
def State.endLaunch (s : State) (id : Nat) (at_ : List (Nat × Nat × Nat)) (c : PodCounts) : State :=
  match s.launches.look id with
  | none => s
  | some l =>
    let l := { l with root := .ended, gtend := s.gt }
    let t := (s.releaseLaunch id l).writeRun (Cap.ofBits l.lr.done).addr.toNat (leBytes 64 (l.record l.gtend) ++ faultReport c (l.lr.ndev + 1)) at_
    let f := t.finals ++ [(l.seq, l.ctx, l.answer)]
    let f := if f.length > 256 then f.drop (f.length - 256) else f
    ({ t with launches := t.launches.set id l, launchq := t.launchq.erase id, finals := if l.podRoot.isSome then t.finals else f } : State).forget (.launch id)

/-- What follows once a launch's record can be stored: until then the event stays under way. -/
def State.whenPlaced (s : State) (id : Nat) (l : Launch) (act : List (Nat × Nat × Nat) → State → State) : Host.Outcome State Fault Refusal :=
  match s.placeDone id l (s.doneSizes l) with
  | (none, t) => .next t
  | (some p, t) => .next (act p t)

/-! ## Claims, R140 -/

/-- The cores that a launch claims, R140. -/
def State.claimCores (s : State) (l : Launch) : List Nat :=
  if l.lr.kind then (platesOf l.lr.pmask).flatMap l.lr.targets
  else (s.cores.filter (fun e => e.2.part == some l.part && bit l.lr.pmask (corePlate e.1) && isBig e.1 == l.lr.tgt && !s.isEasel e.1)).map (·.1)

/-- A claimed entry, R140. The spec does not say what becomes of a binding to the entry: PB stays, and the UNBIND or END of the
port still sets MODE off (DESIGN CHOICE, assumption 97). -/
def Handler.claimed (h : Handler) (id : Nat) (l : Launch) : Handler :=
  { h.advance with lid := l.lid, held := true, ctx := l.ctx, mode := 1, mask := false, prio := l.lr.prio, esup := l.lr.sup,
                   esec := l.lr.s, eheat := l.lr.heat, code := some l.lr.code, arg := some l.lr.arg, launch := some id }

/-- The number of active launches, R144; a pod root's own record, which has no identity, is none of them. -/
def State.activeCount (s : State) : Nat :=
  (s.launches.filter (fun e => e.2.root != .queued && e.2.root != .ended && decide (e.2.lid < 256))).length

/-- The next identity from nextLid on that no active launch holds, R144. -/
def State.freeLid (s : State) : Nat :=
  ((List.range 256).map (fun i => (s.nextLid + i) % 256)).find? (fun i => (s.launchOf i).isNone) |>.getD s.nextLid

/-- A launch begins, once it is claimed (a pod grid's part also has the map of identities, R406): dealing, and the sweeps. -/
def State.beginLaunch (s : State) (id : Nat) (l : Launch) : State :=
  let t := s.push (.quiescenceSweep id 16384)
  if l.lr.kind then (if l.held then t else t.push (.launchMessageSend id))
  else ((platesOf l.lr.pmask).foldl (fun u p => u.push (.gangRangeRequest id p)) t).maybeDealt id

/-- The gangs of a launch that this device deals, R141, R405. -/
def State.gangShare (s : State) (l : Launch) : Nat × Nat :=
  let g := l.lr.gangs
  let d := l.lr.ndev + 1
  let r := s.table.devnum - l.lr.dev0
  if l.podRoot.isSome then (g * r / d, g * (r + 1) / d) else (0, g)

/-- The event with which a device takes a message on the pod's business. -/
def PodBody.event (k : Nat) : PodBody → Option Instr
  | .dispatch .. => some (.podDispatch k)
  | .claimed .. => some (.podClaimed k)
  | .lidMap .. => some (.podLidMap k)
  | .sweep .. => some (.podSweepReport k)
  | .finish .. => some (.podEnd k)
  | .counts .. => some (.podEndReport k)
  | .reg .. => some (.podReg k)
  | .regAnswer .. => some (.podRegAnswer k)
  | .unreg .. => some (.podUnreg k)
  | .fault .. | .stop .. | .write .. | .close .. | .cancel .. => none

/-- The record of a pod grid launched here, by its sequence number, R406. -/
def State.podRecord (s : State) (seq : Nat) : Option (Nat × Launch) :=
  s.launches.find? (fun e => e.2.podRoot.isNone && e.2.lr.isPod s.table.devnum && e.2.seq == seq && e.2.root != .ended)

/-- The part of a pod grid on this device, by its root device and sequence number, R406. -/
def State.podPart (s : State) (root seq : Nat) : Option (Nat × Launch) :=
  s.launches.find? (fun e => e.2.podRoot == some (root, seq) && e.2.root != .ended)

/-- A pod grid's dispatch that waits to be taken in, once CLOSEAM has come, R398. -/
def PodMsg.closed (m : PodMsg) (root seq : Nat) : PodMsg :=
  match m.body with
  | .dispatch r q rank lr ctx part world am => if r = root ∧ q = seq ∧ am = 1 then { m with body := .dispatch r q rank lr ctx part world 2 } else m
  | _ => m

/-- CLOSEAM reaches a pod grid's part on this device, R398. -/
def State.closePart (s : State) (root seq : Nat) : State :=
  match s.podPart root seq with
  | some (id, l) => ({ s with launches := s.launches.set id { l with held := false } } : State).pushOnce (.launchMessageSend id)
  | none => { s with podIn := s.podIn.map (fun (e : Nat × PodMsg) => (e.1, e.2.closed root seq)) }

/-- A message on the pod's business taken in; a fault notice goes to the pod root as one of R324, with its device first in
the place that breaks ties (R409, R325). -/
def State.podTake (s : State) (m : PodMsg) : State :=
  let (k, s) := s.fresh
  match m.body with
  | .fault _ seq rank gt cause => match s.podRecord seq with
    | some (id, l) => s.push (.faultNotice id gt cause ((l.lr.dev0 + rank) * 2 ^ 32))
    | none => s
  | .close root seq => s.closePart root seq
  | b => match b.event k with
    | some i => ({ s with podIn := s.podIn.set k m } : State).push i
    | none => s

/-- A message between devices on the pod's business; one to this device is taken in at once. Its port is that of the pod dispatchers'
cores (assumption 102). -/
def State.podSend (s : State) (dst : Nat) (b : PodBody) : State :=
  let m : PodMsg := { src := s.table.devnum, dst := dst, body := b, via := s.portTo dst (s.roleCore 2) (s.roleCore 2) }
  if dst = s.table.devnum then s.podTake m else { s with podOut := s.podOut ++ [m] }

/-- Claims, made whole, in LAUNCH order, R140, R144: the entries, the identity and the root's state; a tile launch whose gang
fits nowhere ends at once with status 3, R141. A pod grid goes to its pod root, R406. -/
def execLaunchClaim (launch : Nat) (s : State) : Host.Outcome State Fault Refusal :=
  let done := s.did (.launchClaim launch)
  match s.launches.look launch with
  | none => .next done
  | some l =>
    if l.root ≠ .queued then .next done
    else if s.queued.head? ≠ some launch then .next s
    else if l.lr.isPod s.table.devnum ∧ l.podRoot.isNone then
      let d := l.lr.ndev + 1
      let t := { done with launches := done.launches.set launch { l with root := .dealing, lid := 256 } }
      .next ((List.range d).foldl (fun u r => u.podSend (l.lr.dev0 + r) (.dispatch s.table.devnum l.seq r l.lr l.ctx l.part l.world (if l.held then 1 else 2 * l.nextMsg))) t)
    else
      let cores := s.claimCores l
      if s.activeCount ≥ 64 ∨ s.haltedPart l.part ∨ cores.any (fun c => (s.handler c l.lr.chan).held) then .next s
      else
        let lid := s.freeLid
        let (lo, hi) := s.gangShare l
        let l := { l with lid := lid, root := .dealing, claimed := cores.map (fun c => (c, l.lr.chan)), handed := lo, total := hi, sweepAt := s.gt }
        let claim := fun (s : State) =>
          let t := { s.did (.launchClaim launch) with nextLid := (lid + 1) % 256, launches := s.launches.set launch l }
          let t := { t with cores := t.cores.map (fun (e : Nat × Core) => (e.1, { e.2 with sent := e.2.sent.drop lid, rcvd := e.2.rcvd.drop lid })) }
          cores.foldl (fun (u : State) (c : Nat) => u.updHandler c l.lr.chan (fun h => h.claimed launch l)) t
        let t := claim s
        let fits := l.lr.kind || (platesOf l.lr.pmask).any (fun p => !(t.origins l.lr l.part p 0).isEmpty)
        match l.podRoot with
        | some (dev, seq) => .next (t.podSend dev (.claimed seq (s.table.devnum - l.lr.dev0) (if fits then lid else 256)))
        | none =>
          if fits then .next (t.beginLaunch launch l)
          else s.whenPlaced launch l (fun p u => ((claim u).updLaunch launch (fun l => { l with status := 3 })).endLaunch launch p {})

/-! ## Message launches, R143 -/

/-- The owner of an address, R143, R405: its device and core. -/
def LaunchRec.owner (r : LaunchRec) (x : Nat) : Nat × Nat :=
  let plates := platesOf r.pmask
  let rect := (r.dw + 1) * (r.dh + 1)
  let nc1 := rect * plates.length
  let nc := nc1 * (r.ndev + 1)
  let g := (x + 2 ^ 64 - r.dbase) % 2 ^ 57 / 2 ^ r.glog
  let i := (match r.dmode with
    | 0 => min (nc - 1) (g * nc / r.dlen)
    | 1 => g % nc
    | _ => g * 0x9F4A7C156C8E9CF5 % 2 ^ 64 / 2 ^ 32 * nc / 2 ^ 32)
  let j := i % nc1
  let p := plates[j / rect]?.getD 0
  let q := j % rect
  (r.dev0 + i / nc1, coreAtC p (r.dx0 + q % (r.dw + 1)) (r.dy0 + q / (r.dw + 1)))

/-- The channel address of a device's core. -/
def chanAddr (dev core chan : Nat) : Nat := localKey core 7 (chan * 256) + dev * 2 ^ 50

/-- The identity under which this device counts what it sends for a launch, R144, R406: its own part's; what the root device of
a pod grid sends by AMSG without a part of its own counts under a number beyond all identities, which the pod root adds
(assumption 105). -/
def State.lidHere (s : State) (id : Nat) (l : Launch) : Nat :=
  if l.lid < 256 then l.lid else ((s.podPart s.table.devnum l.seq).map (fun e => e.2.lid)).getD (256 + id)

/-- The packet of a launch message or AMSG, R143, R398. -/
def State.launchPacket (s : State) (id : Nat) (l : Launch) (from_ x len extra : Nat) : Packet :=
  let (dev, core) := l.lr.owner x
  { kind := 1, target := chanAddr dev core l.lr.chan, launchMsg := some id, lidHere := some (s.lidHere id l),
    msg := { lid := l.lidFor dev, src := s.srcField from_, len := len, body := x + extra * 2 ^ 64, ctx := l.ctx, world := l.world } }

/-- A fault of a launch's dispatcher, R143. -/
def State.dispatcherFault (s : State) (id cause : Nat) : State := s.push (.faultNotice id s.gt cause (faultPlace (s.roleCore 3) (s.roleSlot 3)))

/-- Whether a message of a launch that its dispatcher sent is still undecided. -/
def State.launchSending (s : State) (id : Nat) : Bool := s.packets.any (fun e => e.2.launchMsg == some id)

/-- The device dispatcher sends a launch's next message, R143, or finds that every one has been accepted or dropped. The spec
does not say what a KEYS array not aligned to 8 does: it is read as it stands (DESIGN CHOICE, assumption 93). -/
def execLaunchMessageSend (launch : Nat) (s : State) : Host.Outcome State Fault Refusal :=
  let ev := Instr.launchMessageSend launch
  let done := s.did ev
  match s.launches.look launch with
  | none => .next done
  | some l =>
    if l.root ≠ .dealing ∨ !l.lr.kind then .next done
    else if l.aborting ∨ l.draining ∨ (!l.held ∧ l.nextMsg > l.lr.extx) then
      .next (if s.launchSending launch then done else done.pushOnce (.dealingDone launch))
    else if l.held then .next done
    else
      let from_ := s.roleCore 3
      if s.haltedPart l.part ∨ (s.core from_).retx.length ≥ 32 then .next s
      else
        let c := Cap.ofBits l.lr.keys
        let x := c.addr.toNat + 8 * l.nextMsg
        match s.reachCap (s.dispatcher launch l) l.lr.keysTag c false x 8 with
        | (.error code, t) => .next (if code = notYet then t else done.dispatcherFault launch code)
        | (.ok p, t) =>
          if t.badRun p then .next (done.dispatcherFault launch causeData)
          else
            let k := l.nextMsg
            let pk := t.launchPacket launch l from_ (leNat (t.readRun p)) 12 k
            let t := (t.did ev).updLaunch launch (fun l => { l with nextMsg := k + 1, dealt := l.dealt + 1 })
            .next ((t.sendPacket from_ pk).2.push ev)

/-- The device dispatcher reports that dealing is done, R146. -/
def execDealingDone (launch : Nat) (s : State) : Host.Outcome State Fault Refusal :=
  let done := s.did (.dealingDone launch)
  match s.launches.look launch with
  | none => .next done
  | some l =>
    let goes := !l.aborting && !l.draining
    let left := if l.lr.kind then goes && (l.held || decide (l.nextMsg ≤ l.lr.extx))
      else goes && decide (l.handed < l.total) || s.gangs.any (fun g => g.2.launch == launch && !g.2.dealt) || l.ranges.any (fun e => decide (e.2.1 < e.2.2))
    if l.root ≠ .dealing ∨ left ∨ s.launchSending launch then .next done
    else .next (done.updLaunch launch (fun l => { l with root := .none }))

/-! ## Quiescence, R145, R146 -/

/-- Whether a core is idle for a launch, R145; those of a halted or swapped partition are not, R342. -/
def State.idleCore (s : State) (c : Nat) (k : Core) (id : Nat) (l : Launch) : Bool :=
  !s.haltedPart l.part && k.slots.all (fun e => (e.2.phase == .free || (e.2.launch != some id)) &&
    e.2.ports.all (fun p => p.2.fifo.all (fun f => p.2.mode != 1 || f.lid != l.lid))) &&
    k.handlers.all (fun h => h.2.mail.all (fun m => m.lid != l.lid)) &&
    !s.jobs.any (fun j => j.2.core == c && (j.2.launch == some id)) &&
    !s.packets.any (fun p => p.2.engine && p.2.answer.isNone && p.2.msg.lid == l.lid && p.2.msg.src % 2 ^ 14 == c) && !s.cmds.any (fun m => m.2.core == c && m.2.launch == some id)

/-- Whether the dispatchers are idle for a launch. -/
def State.idleDispatchers (s : State) (id : Nat) (l : Launch) : Bool :=
  !s.gangs.any (fun g => g.2.launch == id && (!g.2.dealt || !g.2.toCreate.isEmpty)) && l.ranges.all (fun e => decide (e.2.1 ≥ e.2.2))

/-- The transition of R146 on a sweep's result: the root's next state. -/
def Root.swept (r : Root) (qualifies : Bool) (sum : Nat) : Root :=
  match r with
  | .none => if qualifies then .cand sum else .none
  | .cand s1 => if qualifies then (if s1 = sum then .ended else .cand sum) else .none
  | r => r

/-- A sweep passes more cores, R146: each core's counters and idle bit are captured as it passes; after the last core the
root takes the result. The next sweep starts no sooner than 1,000 ticks after this one did. -/
def execQuiescenceSweep (launch upto : Nat) (s : State) : Host.Outcome State Fault Refusal :=
  let ev := Instr.quiescenceSweep launch upto
  let done := s.did ev
  match s.launches.look launch with
  | none => .next done
  | some l =>
    if l.root = .ended ∨ l.root = .queued then .next done
    else if l.swept = 0 ∧ s.gt < l.sweepAt + 1000 then .next s
    else
      let upto := if upto < 16384 then max upto (l.swept + 1) else upto
      let at_ := if l.swept = 0 then s.gt else l.sweepAt
      let here := s.cores.filter (fun e => decide (l.swept ≤ e.1) && decide (e.1 < upto))
      let sent := l.sumSent + (here.map (fun e => e.2.sent.at l.lid 0)).sum
      let rcvd := l.sumRcvd + (here.map (fun e => e.2.rcvd.at l.lid 0)).sum
      let idle := l.sumIdle && here.all (fun e => s.idleCore e.1 e.2 launch l)
      if upto < 16384 then
        let (v, t) := done.draw
        let l := { l with swept := upto, sumSent := sent, sumRcvd := rcvd, sumIdle := idle, sweepAt := at_ }
        .next ({ t with launches := t.launches.set launch l }.push (.quiescenceSweep launch (upto + 1 + v % 16384)))
      else
        let idle := idle && s.idleDispatchers launch l
        let l0 := { l with swept := 0, sumSent := 0, sumRcvd := 0, sumIdle := true, sweepAt := at_ }
        let (v, t) := done.draw
        match l.podRoot with
        | some (dev, seq) =>
          let rank := s.table.devnum - l.lr.dev0
          let below := (List.range 8).map (fun i => 8 * rank + 1 + i) |>.filter (fun r => decide (r ≤ l.lr.ndev))
          if below.any (fun r => (l.kids.look r).isNone) then .next s
          else
            let kids := l.kids.map (·.2)
            let sent := sent + (kids.map (·.1)).sum
            let rcvd := rcvd + (kids.map (·.2.1)).sum
            let ready := idle && l.root != .dealing && kids.all (·.2.2)
            let t := { t with launches := t.launches.set launch { l0 with kids := [] } }
            let up := if rank = 0 then dev else l.lr.dev0 + (rank - 1) / 8
            let t := t.podSend up (.sweep dev seq rank (sent % 2 ^ 32) (rcvd % 2 ^ 32) ready)
            .next (if l.podEnded then t else t.push (.quiescenceSweep launch (1 + v % 16384)))
        | none =>
          let r := l.root.swept (idle && sent % 2 ^ 32 == rcvd % 2 ^ 32) (sent % 2 ^ 32)
          if r = .ended then s.whenPlaced launch l (fun p u => ({ u.did ev with launches := u.launches.set launch l0 } : State).endLaunch launch p {})
          else .next ({ t with launches := t.launches.set launch { l0 with root := r } }.push (.quiescenceSweep launch (1 + v % 16384)))

/-! ## Grid abort and cancel, R324 to R326, R412 -/

/-- ABORT or CANCEL goes to every core and every plate's dispatchers; for a pod grid to every device, R324, R409, R412. -/
def State.sendStop (s : State) (id : Nat) (l : Launch) (ev : Nat → Instr) : State :=
  if l.lr.isPod s.table.devnum ∧ l.podRoot.isNone then
    (List.range (l.lr.ndev + 1)).foldl (fun u r => u.push (ev (32768 + l.lr.dev0 + r))) s
  else
    let t := s.cores.foldl (fun u e => u.push (ev e.1)) s
    ((List.range 4).foldl (fun u p => u.push (ev (16384 + p))) t).pushOnce (.launchMessageSend id)

/-- The earlier of two faults in the order of R325. -/
def earlierFault (gt1 p1 gt2 p2 : Nat) : Bool := decide (gt1 < gt2) || (gt1 == gt2 && decide (p1 < p2))

/-- A fault notice reaches the quiescence root, R324, R325, R409, R412. -/
def execFaultNotice (launch gt cause place : Nat) (s : State) : Host.Outcome State Fault Refusal :=
  let done := s.did (.faultNotice launch gt cause place)
  match s.launches.look launch with
  | none => .next done
  | some l =>
    if l.root = .ended then .next done
    else
      let first := l.fcount = 0
      let l1 := if first ∨ earlierFault gt place l.fgt l.floc then { l with fgt := gt, fcause := cause % 2 ^ 32, floc := place } else l
      let l1 := { l1 with fcount := l.fcount + 1 }
      match l.podRoot with
      | some (dev, seq) =>
        let t := { done with launches := done.launches.set launch l1 }
        .next (if first then t.podSend dev (.fault dev seq (s.table.devnum - l.lr.dev0) gt cause) else t)
      | none =>
        if l.aborting then .next { done with launches := done.launches.set launch l1 }
        else
          let l1 := { l1 with aborting := true, status := if l.draining then 2 else 1 }
          .next ({ done with launches := done.launches.set launch l1 }.sendStop launch l1 (fun k => .abort launch k))

/-- The parked requests of a task withdrawn, R326, R339. -/
def State.unpark (s : State) (t : TaskRef) : State :=
  let mine := fun (k : Nat) => (match s.ops.look k with
    | some o => o.task == t
    | none => false)
  let gone := (s.parked.filter (fun p => mine p.2.1)).map (·.2.1)
  { s with parked := s.parked.filter (fun p => !gone.contains p.2.1), ops := s.ops.filter (fun e => !gone.contains e.1) }

/-- A task killed, R326. -/
def State.killTask (s : State) (c n : Nat) : State :=
  let x := s.slot c n
  (s.unpark ⟨c, n, x.uid⟩).removeTask c n true

/-- Matrix commands of a launch that have not started are discarded at a core, R326, a little core's with what is kept of its
guest: its sender is killed. -/
def State.dropCmds (s : State) (c id : Nat) : State :=
  let gone := s.cmds.filter (fun e => e.2.core == c && e.2.launch == some id && !e.2.running)
  (gone.foldl (fun u e =>
    let v := { u with cmds := u.cmds.drop e.1, mtxq := u.mtxq.set c ((u.mtxq.at c []).erase e.1), guests := (e.2.guest.map u.guests.drop).getD u.guests }
    match e.2.job with
    | none => v
    | some j => match v.jobs.look j with
      | none => v
      | some x => v.finishJob j { x with err := 7, errAt := 0 } 0) s).fillInbox c

/-- What a core does on ABORT, R324 step 4, R326. -/
def State.killCore (s : State) (id c : Nat) : State :=
  let t := ((s.core c).slots.filter (fun e => e.2.phase != .free && e.2.launch == some id)).foldl (fun u e => u.killTask c e.1) s
  let t := t.updCore c (fun k => { k with handlers := k.handlers.map (fun h => (h.1, if h.2.held && h.2.launch == some id then h.2.advance else h.2)) })
  let t := { t with jobs := t.jobs.map (fun (j : Nat × Job) => (j.1, if j.2.core == c && j.2.launch == some id then { j.2 with cancelled := true } else j.2)) }
  t.dropCmds c id

/-- What a plate's dispatchers do on ABORT or CANCEL, R324 step 3, R412: no more dealing, and reservations withdrawn. -/
def State.stopPlate (s : State) (id p : Nat) : State :=
  let gone := s.gangs.filter (fun g => g.2.launch == id && g.2.plate == p && !g.2.dealt)
  let t := { s with gangs := s.gangs.filter (fun g => !(g.2.launch == id && g.2.plate == p && !g.2.dealt)) }
  let t := gone.foldl (fun u g => g.2.wants.foldl (fun u w => u.pushOnce (.taskSelection w.1)) u) t
  (t.updLaunch id (fun l => { l with ranges := l.ranges.filter (fun r => r.1 != p) })).maybeDealt id

/-- The stop of a launch's local part that a pod root has sent, R409, R412: a part not yet dispatched or not yet dealing
deals nothing, and takes part in the sweeps with counts of 0. -/
def State.stopPart (s : State) (root seq : Nat) (kill : Bool) : State :=
  match s.podPart root seq with
  | none => { s with podStops := s.podStops ++ [(root, seq)] }
  | some (id, l) =>
    if l.aborting ∨ (l.draining ∧ !kill) then s
    else
      let l := if kill then { l with aborting := true } else { l with draining := true }
      if l.root = .queued ∨ (l.root = .dealing ∧ !l.podMap) then
        let lid := if l.root = .queued then 256 else l.lid
        ({ s with launches := s.launches.set id { l with root := .none, lid := lid, ranges := [] }, launchq := s.launchq.erase id } : State).push
          (.quiescenceSweep id 16384)
      else { s with launches := s.launches.set id l }.sendStop id l (fun k => if kill then .abort id k else .cancel id k)

/-- A stop sent to a device of a pod grid: this one, or another over the links. -/
def State.stopDevice (s : State) (id dev : Nat) (kill : Bool) : State :=
  match s.launches.look id with
  | none => s
  | some l => if dev = s.table.devnum then s.stopPart s.table.devnum l.seq kill else s.podSend dev (.stop s.table.devnum l.seq kill)

/-- A core, or a plate's dispatchers, or a device of a pod grid, that a stop has reached. -/
def State.stopAt (s : State) (id target : Nat) (kill : Bool) : State :=
  let t := s.updLaunch id (fun l => { l with reached := l.reached ++ [target] })
  if target ≥ 32768 then t.stopDevice id (target - 32768) kill
  else if target ≥ 16384 then t.stopPlate id (target - 16384)
  else if kill then t.killCore id target else t

/-- ABORT reaches a core or dispatcher, R324, R326. -/
def execAbort (launch target : Nat) (s : State) : Host.Outcome State Fault Refusal :=
  let done := s.did (.abort launch target)
  match s.launches.look launch with
  | none => .next done
  | some l => if l.root = .ended ∨ !l.aborting ∨ l.reached.contains target ∧ !l.draining then .next done else .next (done.stopAt launch target true)

/-- A cancel is decided at the launch's root, R412: mode 0 drain, 1 kill. One that kills follows one that drains; any other that
reaches a stopping launch changes nothing. -/
def execCancelDecision (launch mode : Nat) (s : State) : Host.Outcome State Fault Refusal :=
  let done := s.did (.cancelDecision launch mode)
  match s.launches.look launch with
  | none => .next done
  | some l =>
    if l.root = .ended ∨ l.aborting ∨ (l.draining ∧ mode ≠ 1) ∨ l.podRoot.isSome then .next done
    else if l.root = .queued then
      s.whenPlaced launch l (fun p u => ((u.did (.cancelDecision launch mode)).updLaunch launch (fun l => { l with status := 2 })).endLaunch launch p {})
    else
      let l := { l with status := if l.draining then l.status else 2, aborting := mode == 1, draining := l.draining || mode == 0 }
      .next ({ done with launches := done.launches.set launch l }.sendStop launch l (fun k => .cancel launch k))

/-- CANCEL reaches a core or dispatcher, R412: in kill mode with the fates of R326. -/
def execCancel (launch target : Nat) (s : State) : Host.Outcome State Fault Refusal :=
  let done := s.did (.cancel launch target)
  match s.launches.look launch with
  | none => .next done
  | some l =>
    if l.root = .ended ∨ !(l.aborting ∨ l.draining) ∨ l.reached.contains target ∧ !(l.aborting ∧ l.draining) then .next done
    else .next (done.stopAt launch target l.aborting)

/-! ## LCTL, R410, R411 -/

/-- The launch that a handle names on this device: by LDEV and SEQ, R404. -/
def State.launchNamed (s : State) (h : Nat) : Option (Nat × Launch) :=
  if bits h 57 48 = s.table.devnum then s.launches.find? (fun e => e.2.podRoot.isNone && e.2.seq == h % 2 ^ 32) else none

/-- A cancel of a launch of another device that the links reach, R410. -/
def State.cancelFar (s : State) (h mode : Nat) : State :=
  let dev := bits h 57 48
  if dev = s.table.devnum ∨ (s.routes.at dev []).isEmpty then s else s.podSend dev (.cancel h mode)

/-- Whether a handle names a launch of another device that the links reach. -/
def State.farLaunch (s : State) (h : Nat) : Bool :=
  let dev := bits h 57 48
  dev != s.table.devnum && decide (dev < s.table.podsz) && !(s.routes.at dev []).isEmpty

/-- The issue of LCTL, R410: a wait is an acquire, at device scope, or at pod scope for a pod grid; kind 0 cancel, 1 query, 2
wait. Whether a launch of another device is a pod grid, and whether it is one of another context, are free choices. -/
def State.lctl (s : State) (i : Instr) (kind : Nat) (d a : BitVec 6) (mode : Env → Nat) : Host.Outcome State Fault Refusal :=
  s.issue i (fun e t => do
    let h := e.x a
    check (bits h 63 58 == 0 && bits h 39 32 == 0) causeRange h
    check (decide (mode e ≤ 1)) causeRange (mode e)
    let named := t.launchNamed h
    let other : Bool := (match named with
      | some (_, l) => l.ctx != e.sl.ctxid.toNat
      | none => false)
    let far := t.farLaunch h
    let (v, t) := if far then t.draw else (0, t)
    check (e.a.sup || !(other || v % 2 == 1)) causePrivilege e.word.toNat
    let pod : Bool := (match named with
      | some (_, l) => l.lr.isPod t.table.devnum
      | none => v / 2 % 2 == 1)
    let o := { e.op t false false with kind := .lctl kind h (mode e), ldc := false, stc := false, acquire := kind == 2, acqScope := 4 + b2n pod, ret := .scalar d.toNat }
    let (id, t) ← t.enterOp o [.reg d.toNat]
    let t := (match kind, named with
      | 0, some (l, _) => t.push (.cancelDecision l (mode e))
      | 0, none => t.cancelFar h (mode e)
      | _, _ => t)
    .ok (t.push (.lctlAnswer id)))

/-- LCTL.cancel, R410. -/
def execLctlCancel (g : BitVec 4) (d a b : BitVec 6) (s : State) : Host.Outcome State Fault Refusal :=
  s.lctl (.lctlCancel g d a b) 0 d a (fun e => e.x b)

/-- LCTL.query, R410. -/
def execLctlQuery (g : BitVec 4) (d a : BitVec 6) (s : State) : Host.Outcome State Fault Refusal :=
  s.lctl (.lctlQuery g d a) 1 d a (fun _ => 0)

/-- LCTL.wait, R410. -/
def execLctlWait (g : BitVec 4) (d a : BitVec 6) (s : State) : Host.Outcome State Fault Refusal :=
  s.lctl (.lctlWait g d a) 2 d a (fun _ => 0)

/-- The answer for a handle, R411: 0xFFFF where the launch is unknown. -/
def State.lctlWord (s : State) (h : Nat) : Nat :=
  let unknown := 0xFFFF * 2 ^ 48
  match s.launchNamed h with
  | none => unknown
  | some (_, l) => if l.root ≠ .ended then l.answer else match s.finals.find? (fun f => f.1 == h % 2 ^ 32) with
    | some f => f.2.2
    | none => unknown

/-- STATUS and STATE of an answer, R411: of an unknown launch, of an ended one, and, but for a wait, of an active one. -/
def lctlPairs (wait : Bool) : List (Nat × Nat) :=
  [(0xFFFF, 0), (0, 4), (1, 4), (2, 4), (3, 4)] ++ if wait then [] else [(0xFFFE, 0), (0xFFFE, 1), (0xFFFE, 2), (0xFFFE, 3)]

/-- Any answer that another device may give, R411: no gangs are dealt of a launch that is unknown, queued or claiming. A device
that no link reaches knows no launch. -/
def State.farLctl (s : State) (h : Nat) (wait : Bool) : Nat × State :=
  if !s.farLaunch h then (0xFFFF * 2 ^ 48, s)
  else
    let (v, s) := s.draw
    let l := lctlPairs wait
    let (st, state) := l[v % l.length]?.getD (0xFFFF, 0)
    (st * 2 ^ 48 + state * 2 ^ 40 + (if state < 2 then 0 else v / 16 % 2 ^ 32), s)

/-- The answer for an active pod grid at its root, R411, once the map of identities has gone out: the gangs (or messages) that
this device has dealt and, of those dealt elsewhere, which the spec gives the root no way to know, a free choice; it reads as
dealing until all are dealt, or while OPENAM holds it open (assumption 106). -/
def State.podAnswer (s : State) (l : Launch) (v : Nat) : Nat :=
  let d := l.lr.ndev + 1
  let (own, mine) := (match s.podPart s.table.devnum l.seq with
    | some (_, p) => (p.dealt, if l.lr.kind then l.lr.extx + 1 else (s.gangShare p).2 - (s.gangShare p).1)
    | none => (l.dealt, 0))
  let total := if l.lr.kind then (l.lr.extx + 1) * d else l.lr.gangs
  let dealt := if l.held then v else own + v % (total - mine + 1)
  let more := l.held || decide (dealt < total)
  let st := if more ∧ !l.aborting ∧ !l.draining then 2 else if more then 2 + v % 2 else 3
  0xFFFE * 2 ^ 48 + st * 2 ^ 40 + dealt % 2 ^ 32

/-- The answer of LCTL reaches the task, R410: a query at once, a wait when the launch has ended, a cancel once it is
decided. -/
def execLctlAnswer (op : Nat) (s : State) : Host.Outcome State Fault Refusal :=
  let done := s.did (.lctlAnswer op)
  match s.ops.look op with
  | none => .next done
  | some o => match o.kind with
    | .lctl kind h mode =>
      let d := (match o.ret with
        | .scalar d => d
        | _ => 0)
      let far := bits h 57 48 ≠ s.table.devnum
      let active : Bool := (match s.launchNamed h with
        | some (_, l) => l.root != .ended
        | none => false)
      let undecided : Bool := (match s.launchNamed h with
        | some (l, _) => s.due.contains (.cancelDecision l mode)
        | none => false)
      if !far ∧ ((kind = 2 ∧ active) ∨ (kind = 0 ∧ undecided)) then .next s
      else
        let t := { done with ops := done.ops.drop op }
        let grid := (match s.launchNamed h with
          | some (_, l) => if active && l.podMap then some l else none
          | none => none)
        let (v, t) := t.draw
        let (w, t) := if far then t.farLctl h (kind == 2) else (match grid with
          | some l => (t.podAnswer l v, t)
          | none => (t.lctlWord h, t))
        .next (t.giveScalar o.task d op w)
    | _ => .next done

end Sys2Proof.Machine
end

