-- ==== Sys2Proof/Machine/Special.lean ====
section
/-!
DEFINITION. Special registers: GETS and SETS with their faults (R19, R21, R82), and each register that a SETS writes (R20,
R159, R168, R188, R303, R304, R316, R318, R331, R362).
-/

namespace Sys2Proof.Machine

/-! ## The table of R19 -/

/-- The numbers of R19. -/
def isSpecial (n : Nat) : Bool :=
  [0x000, 0x001, 0x010, 0x011, 0x012, 0x013, 0x014, 0x020, 0x021, 0x022, 0x023, 0x024, 0x030, 0x031, 0x032, 0x050, 0x060].contains n ||
    (decide (0x040 ≤ n) && decide (n ≤ 0x047))

/-- Big only, read only, and supervisor registers, R19. -/
def specialBig (n : Nat) : Bool := [0x030, 0x031, 0x032].contains n
def specialRo (n : Nat) : Bool := [0x001, 0x010, 0x011, 0x012, 0x013, 0x014].contains n
def specialSup (n : Nat) : Bool :=
  [0x001, 0x020, 0x021, 0x022, 0x023, 0x024, 0x030, 0x031, 0x032, 0x050, 0x060].contains n

/-- The faults of R19, the illegal-instruction faults first. -/
def Env.specialCheck (e : Env) (n : Nat) (write : Bool) : Except Exit Unit := do
  check (isSpecial n && (e.big || !specialBig n) && !(write && specialRo n)) causeIllegal e.word.toNat
  check (!specialSup n || e.a.sup) causePrivilege n

/-! ## Reading -/

/-- The context-table entry whose ACCSAVE a task names: the one that TVAL.SEL names in the service slot (R330), else its own
context's (R304). -/
def State.accEntry (s : State) (c n : Nat) : Option (Nat × CtxEntry) :=
  let x := s.slot c n
  let b := (s.core c).big
  let code := (if n = serviceSlot then bits x.tval.toNat 15 12 else b.code x.ctxid.toNat x.part)
  if code = 0 then none else (b.ctab.look (code - 1)).map (fun k => (code - 1, k))

/-- ACCSAVE as a task reads it; a context without an entry reads its record, R304, R316. -/
def State.accSave (s : State) (c n : Nat) : Nat :=
  match s.accEntry c n with
  | some e => e.2.accsave.toNat
  | none => (s.ctx (s.slot c n).ctxid.toNat).accsave.toNat

/-- CNT, R22. -/
def Slot.cnt (x : Slot) : Nat := x.ldc + 2 ^ 8 * x.stc + 2 ^ 16 * x.cpc + 2 ^ 24 * x.mxc

/-- FLAGSUM, R58. -/
def State.flagSum (s : State) (plate part : Nat) : Nat :=
  let f := s.flagsum.at plate {}
  f.stamp % 2 ^ 56 * 2 ^ 8 + (f.parts.at part 0).toNat * 8

/-- The LPCT entry that a core's LOG selects, R362: logical and physical numbers stand at four times their value. -/
def State.lpctWindow (s : State) (c : Nat) : Nat :=
  let log := (s.core c).lpctLog
  let st : Nat := (match s.lpct.look (log / 4) with
    | some e => e.st
    | none => 0)
  st * 2 ^ 62 + 4 * s.phys (log / 4) * 2 ^ 16 + log

/-- A special register's value for the task of a slot, R19. -/
def State.special (s : State) (c n num : Nat) : Nat :=
  let x := s.slot c n
  let k := s.core c
  match num with
  | 0x000 => x.arch.sr.toNat
  | 0x001 => s.flagSum (corePlate c) x.part
  | 0x010 => x.tcoord.toNat
  | 0x011 => x.gang.toNat
  | 0x012 => x.ctxid.toNat
  | 0x013 => x.heat.toNat
  | 0x014 => x.cnt
  | 0x020 => (s.tvec c x.ctxid.toNat).toNat
  | 0x021 => x.tpc.toNat
  | 0x022 => x.tcause.toNat
  | 0x023 => x.tval.toNat
  | 0x024 => x.twin.toNat
  | 0x030 => k.gshare
  | 0x031 => k.big.accown.toNat
  | 0x032 => s.accSave c n
  | 0x050 => s.lpctWindow c
  | 0x060 => k.spill.toNat
  | _ => (x.port (num - 0x040)).config

/-- GETS and SETS of SR wait until MXC is 0, so that they see every earlier instruction's flags, R57, R299; on a little core
too, whose done notices bring flags after the results (R315, assumption 85). -/
def Env.srReady (e : Env) (n : Nat) : Except Exit Unit := stallIf (n = 0 && decide (e.sl.mxc > 0)) .counter

/-- GETS, R82: SR.PP is shown as it stands while the instruction runs, R37. -/
def execGets (g : BitVec 4) (d : BitVec 6) (n : BitVec 12) (s : State) : Host.Outcome State Fault Refusal :=
  s.issue (.gets g d n) (fun e t => do
    e.specialCheck n.toNat false
    e.srReady n.toNat
    let v := if n = 0 then e.a.sr.toNat else t.special e.core e.slot n.toNat
    .ok (t.updArch (fun r => r.setScalar d.toNat v)))

/-! ## Writing -/

/-- SETS of SR, R21: RM and the flags as given; a reserved RM is illegal. Flags that it sets enter the accumulator, R58. -/
def State.setSr (t : State) (c n : Nat) (word : IWord) (v : Nat) : Except Exit State := do
  check (decide (v % 8 ≤ 4)) causeIllegal word.toNat
  let flags : Flags := BitVec.ofNat 5 (v / 8)
  let t := t.updSlot c n (fun x => { x with arch := { x.arch with sr := BitVec.ofNat 64 (setBits x.arch.sr.toNat 7 0 v) } })
  .ok (if flags = 0 then t else t.sumFlags c (t.slot c n).part flags)

/-- SETS of PORTCFGq, R159: zero unbinds, any other value is illegal. -/
def State.setPortcfg (t : State) (c n q : Nat) (word : IWord) (v : Nat) : Except Exit State := do
  check (v == 0) causeIllegal word.toNat
  .ok (t.unbind c n q)

/-- SETS of GSHARE, R168. -/
def State.setGshare (t : State) (c : Nat) (word : IWord) (v : Nat) : Except Exit State := do
  check (decide (v % 32 ≤ 16)) causeIllegal word.toNat
  .ok (t.updCore c (fun k => { k with gshare := v % 32 }))

/-- The accumulators whose owner field a value changes, R303. -/
def Big.changed (b : Big) (v : Nat) : List Nat := (List.range 16).filter (fun i => b.owner i != bits v (4 * i + 3) (4 * i))

/-- SETS of ACCOWN, R303: it waits for a command that runs on an accumulator whose field changes, and those accumulators
become +0. -/
def State.setAccown (t : State) (c : Nat) (v : Nat) : Except Exit State := do
  let b := (t.core c).big
  let l := b.changed v
  stallIf (t.cmds.any (fun m => m.2.core == c && m.2.running && l.contains m.2.n)) .order
  .ok (t.updCore c (fun k => { k with big := { l.foldl Big.zeroAcc k.big with accown := BitVec.ofNat 64 v } }))

/-- SETS of ACCSAVE, R304, R330; without an entry the context's record takes the value. -/
def State.setAccsave (t : State) (c n : Nat) (v : Nat) : State :=
  match t.accEntry c n with
  | some (i, e) =>
    t.updCore c (fun k => { k with big := { k.big with ctab := k.big.ctab.set i { e with accsave := BitVec.ofNat 64 v } } })
  | none =>
    let k := (t.slot c n).ctxid.toNat
    { t with ctxs := t.ctxs.set k { t.ctx k with accsave := BitVec.ofNat 64 v } }

/-- Whether a SPILLMAP value breaks check 1 of R188; with KIND 0 every other field is unused. -/
def spillIllegal (big : Bool) (v : Nat) : Bool :=
  let len := bits v 47 40
  bits v 61 48 != 0 || bits v 39 16 != 0 || bits v 11 8 != 0 ||
    (match bits v 63 62 with
      | 0 => v != 0
      | 1 => len != 2 || bits v 15 12 != 0 || (if big then bits v 7 3 != 0 else bits v 7 5 != 0)
      | 2 => len == 0 || decide (len > 64) || decide (bits v 7 0 + len > 255)
      | _ => true)

/-- Whether a SPILLMAP value breaks check 2 of R188. -/
def State.spillRange (t : State) (c : Nat) (v : Word) : Bool :=
  let others := t.cores.filter (fun e => e.1 != c && spillKind e.2.spill == spillKind v)
  if spillKind v = 1 then
    match t.spillBank c v with
    | none => true
    | some b => (t.slot b.1 b.2).phase != .free || others.any (fun e => t.spillBank e.1 e.2.spill == some b)
  else if spillKind v = 2 then
    others.any (fun e => spillBig e.1 e.2.spill == spillBig c v &&
      decide (spillPlace e.2.spill < spillPlace v + spillLen v) && decide (spillPlace v < spillPlace e.2.spill + spillLen e.2.spill))
  else false

/-- SETS of SPILLMAP, R188: a bank that is released is cleared, and a bank that is named wakes; where it was gated, it is
cleared (R365). -/
def State.setSpillmap (t : State) (c : Nat) (word : IWord) (v : Nat) : Except Exit State := do
  let w := BitVec.ofNat 64 v
  check (!spillIllegal (isBig c) v) causeIllegal word.toNat
  check (!t.spillRange c w) causeRange v
  let old := t.namedBank c (t.core c).spill
  let new := t.namedBank c w
  let t := (match old with
    | some b => if new = some b then t else (t.clearBank b.1 b.2).pushOnce (.taskSelection b.1)
    | none => t)
  let t := (match new with
    | some b => (if (t.banks.at (16 * b.1 + b.2) {}).st = BankState.gated then t.clearBank b.1 b.2 else t).wakeBank b.1 b.2
    | none => t)
  .ok (t.updCore c (fun k => { k with spill := w }))

/-- SETS of LPCT, R362: LOG must name an application little core. -/
def State.setLpct (t : State) (c : Nat) (v : Nat) : Except Exit State := do
  let log := bits v 15 0
  check (log % 4 == 0 && isLittle (log / 4) && !t.isEasel (log / 4)) causeRange v
  .ok (t.updCore c (fun k => { k with lpctLog := log }))

/-- TVAL as SETS writes it: in the service slot SEL alone, R331. -/
def setTval (n : Nat) (old : Word) (v : Nat) : Word :=
  if n = serviceSlot then BitVec.ofNat 64 (setBits old.toNat 15 12 (bits v 15 12)) else BitVec.ofNat 64 v

/-- A special register written, with its own faults. -/
def State.setSpecial (t : State) (c n num : Nat) (word : IWord) (v : Nat) : Except Exit State :=
  match num with
  | 0x000 => t.setSr c n word v
  | 0x020 => .ok (t.updCore c (fun k => { k with tvec := k.tvec.set (t.slot c n).ctxid.toNat (BitVec.ofNat 64 v) }))
  | 0x021 => .ok (t.updSlot c n (fun x => { x with tpc := BitVec.ofNat 64 v }))
  | 0x022 => .ok (t.updSlot c n (fun x => { x with tcause := BitVec.ofNat 64 (v % 2 ^ 19) }))
  | 0x023 => .ok (t.updSlot c n (fun x => { x with tval := setTval n x.tval v }))
  | 0x024 => .ok (t.updSlot c n (fun x => { x with twin := BitVec.ofNat 64 (v % 2 ^ 5) }))
  | 0x030 => t.setGshare c word v
  | 0x031 => t.setAccown c v
  | 0x032 => .ok (t.setAccsave c n v)
  | 0x050 => t.setLpct c v
  | 0x060 => t.setSpillmap c word v
  | _ => t.setPortcfg c n (num - 0x040) word v

/-- SETS, R82. -/
def execSets (g : BitVec 4) (d : BitVec 6) (n : BitVec 12) (s : State) : Host.Outcome State Fault Refusal :=
  s.issue (.sets g d n) (fun e t => do
    e.specialCheck n.toNat true
    e.srReady n.toNat
    t.setSpecial e.core e.slot n.toNat e.word (e.x d))

/-! ## The writes as events of the table

Each is the write that a SETS of the register makes for the task that issues, with the register's own faults; the word
that an illegal-instruction fault reports is that of the SETS with v1 as its source. -/

/-- The outcome of a register's write on its own. -/
def State.writes (s : State) (num : BitVec 12) (v : Word) : Host.Outcome State Fault Refusal :=
  match s.setSpecial s.cur.core s.cur.slot num.toNat ((encode (.sets 7 1 num)).getD 0) v.toNat with
  | .ok t => .next t
  | .error e => s.leave s.me.arch.resume e

/-- SETS of SR, R21. -/
def execSetsSr (v : BitVec 64) (s : State) : Host.Outcome State Fault Refusal := s.writes 0x000 v

/-- SETS of PORTCFGn, R159. -/
def execSetsPortcfg (n : BitVec 3) (v : BitVec 64) (s : State) : Host.Outcome State Fault Refusal :=
  s.writes (0x040 + n.setWidth 12) v

/-- SETS of GSHARE, R168. -/
def execSetsGshare (v : BitVec 64) (s : State) : Host.Outcome State Fault Refusal := s.writes 0x030 v

/-- SETS of ACCOWN, R303. -/
def execSetsAccown (v : BitVec 64) (s : State) : Host.Outcome State Fault Refusal := s.writes 0x031 v

/-- SETS of SPILLMAP, R188. -/
def execSetsSpillmap (v : BitVec 64) (s : State) : Host.Outcome State Fault Refusal := s.writes 0x060 v

/-- SETS of LPCT, R362. -/
def execSetsLpct (v : BitVec 64) (s : State) : Host.Outcome State Fault Refusal := s.writes 0x050 v

/-! ## FLAGSUM, R58 -/

/-- A sweep of a plate's accumulators: the union by partition, with the time at which it began, the last multiple of 256
ticks. A sweep that is complete already is not made again. -/
def execFlagsumSweep (plate : Nat) (s : State) : Host.Outcome State Fault Refusal :=
  if s.gt / 256 ≤ (s.flagsum.at plate {}).stamp then .next s
  else
    let here := s.cores.filter (fun e => corePlate e.1 == plate)
    let all := here.foldl (fun (m : Sp Flags) (e : Nat × Core) =>
      e.2.flagAcc.foldl (fun (q : Sp Flags) (f : Nat × Flags) => q.set f.1 (q.at f.1 0 ||| f.2)) m) []
    .next { s with flagsum := s.flagsum.set plate { stamp := s.gt / 256, parts := all } }

end Sys2Proof.Machine
end

