-- ==== Sys2Proof/Machine/Partition.lean ====
section
/-!
DEFINITION. Partitions: giving and returning cores (R338, R389), halting (R339), swapping (R340 to R342) and resuming.
-/

namespace Sys2Proof.Machine

/-! ## Cores of a partition -/

/-- The cores of a partition. -/
def State.coresOf (s : State) (p : Nat) : Sp Core := s.cores.filter (fun e => e.2.part == some p)

/-- Every core's record changed where a condition on the core holds. -/
def State.mapCores (s : State) (f : Nat → Core → Core) : State :=
  { s with cores := s.cores.map (fun (e : Nat × Core) => (e.1, f e.1 e.2)) }

/-- Every slot that holds a task of a partition changed; a service slot belongs to the host context, R330. -/
def State.mapSlots (s : State) (p : Nat) (f : Slot → Slot) : State :=
  s.mapCores (fun _ k => { k with slots := k.slots.map (fun (e : Nat × Slot) =>
    if e.1 != serviceSlot && e.2.part == p && e.2.phase != .free then (e.1, f e.2) else e) })

/-- Whether a key is a byte of some cores' local storage in an offset range of a space. -/
def inLocal (cores : List Nat) (sp lo hi k : Nat) : Bool :=
  keyIsLocal k && keySpace k == sp && cores.contains (keyCore k) && decide (lo ≤ keyOff k) && decide (keyOff k < hi)

/-- Bytes, tags, full bits and errors dropped where a condition on the byte's key holds: they read as zero, untagged and empty. -/
def State.wipe (s : State) (gone : Nat → Bool) : State :=
  { s with mem := s.mem.filter (fun e => !gone e.1), tags := s.tags.filter (fun e => !gone (16 * e.1)), full := s.full.filter (fun e => !gone (4 * e.1)),
           bad := s.bad.filter (fun e => !gone (8 * e.1)) }

/-! ## Clearing for a new tenant, R338 -/

/-- Whether a context of a partition owns an accumulator, R303, R304. -/
def Big.ownedBy (b : Big) (p i : Nat) : Bool :=
  match b.ctab.look (b.owner i - 1) with
  | some e => b.owner i != 0 && e.part == p
  | none => false

/-- A big core's share of the clearing: the accumulators that the partition's contexts own, their SAVED bits and codebook slots.
-/
def Big.cleared (b : Big) (p : Nat) : Big :=
  let b := ((List.range 16).filter (b.ownedBy p)).foldl Big.zeroAcc b
  { b with books := b.books.filter (fun e => e.2.part != p),
           ctab := b.ctab.map (fun (e : Nat × CtxEntry) =>
             if e.2.part = p then (e.1, { e.2 with accsave := e.2.accsave &&& 0xFFFFFFFFFFFF0000 }) else e) }

/-- Lines of a partition written back and invalidated, with its write-back counter, and its ticket entries freed. -/
def Slice.cleared (x : Slice) (p : Nat) : Slice :=
  let dirty := (x.lines.filter (fun l => l.part == p && l.dirty)).length
  let y := if dirty = 0 then x else x.count p (fun c => { c with wbs := (c.wbs + dirty) % 2 ^ 48 })
  { y with lines := x.lines.filter (fun l => l.part != p),
           tickets := x.tickets.map (fun (e : Nat × Ticket) => if e.2.part = p then (e.1, { e.2 with st := .free }) else e) }

/-- The TLBs without a partition's entries, as TLBI of the whole partition leaves them. -/
def dropPart (m : Sp (List TlbEntry)) (p : Nat) : Sp (List TlbEntry) :=
  m.map (fun (e : Nat × List TlbEntry) => (e.1, e.2.filter (fun x => x.part != p)))

/-- The clearing of R338 for a partition's new tenant. -/
def State.newTenant (s : State) (p : Nat) : State :=
  let cores := (s.coresOf p).map (·.1)
  let s := s.wipe (fun k => inLocal cores 0 0 (2 ^ 32) k || inLocal cores 1 0 (2 ^ 32) k || inLocal cores 2 0 (2 ^ 32) k || inLocal cores 3 0 (2 ^ 32) k)
  let s := s.mapCores (fun _ k =>
    let k := { k with flagAcc := k.flagAcc.drop p, big := k.big.cleared p }
    if k.part = some p then { k with handlers := [], mark := 0 } else k)
  let s := { s with ctxs := s.ctxs.map (fun (e : Nat × Ctx) =>
    if e.2.part = p then (e.1, { e.2 with accsave := e.2.accsave &&& 0xFFFFFFFFFFFF0000 }) else e) }
  let s := s.forgetSoft (s.slices.flatMap (fun e => e.2.lines.filter (fun l => l.part == p)))
  { s with slices := s.slices.map (fun (e : Nat × Slice) => (e.1, e.2.cleared p)), tlbL1 := dropPart s.tlbL1 p,
           tlbNode := dropPart s.tlbNode p, tlbPlate := dropPart s.tlbPlate p, parts := s.parts.drop p }

/-! ## Giving and returning cores, R295, R389 -/

/-- The units of a big core that the owner table gives to a partition, R295: all but those retired, R433. -/
def State.unitsFor (s : State) (c p : Nat) : Sp Nat :=
  ((List.range 112).filter (fun u => !s.lostUnits.at (128 * c + u) false)).map (fun u => (u, p))

/-- A core given to a partition. -/
def State.giveCore (s : State) (c p : Nat) : State :=
  s.updCore c (fun k => { k with part := some p, mark := 0, big := if isBig c then { k.big with owners := s.unitsFor c p } else k.big })

/-- The columns on which some cores stand. -/
def State.columnsOf (s : State) (cores : List Nat) : List (Nat × Nat) := (cores.map (fun c => (corePlate (s.phys c), coreX (s.phys c)))).dedup

/-- Some columns may have no assigned core any more: the time of R367 starts. -/
def State.idleColumns (s : State) (l : List (Nat × Nat)) : State :=
  { s with columns := l.foldl (fun m k => Sp.put {} m (32 * k.1 + k.2) { m.at (32 * k.1 + k.2) {} with idleFrom := s.gt }) s.columns }

/-- Every core of a partition returned to no partition. -/
def State.freeCores (s : State) (p : Nat) : State :=
  (s.idleColumns (s.columnsOf ((s.coresOf p).map (·.1)))).mapCores (fun _ k => if k.part = some p then { k with part := none, big := { k.big with owners := [] } } else k)

/-! ## Halting, R339 -/

/-- A command queue's packet of a partition runs, R397; one that waits only for SERIAL launches does not. -/
def State.packetRuns (s : State) (p : Nat) (but : Nat) : Bool :=
  s.queues.any (fun e => e.1 != but && (s.ctx e.2.ctx).part == p && (match e.2.run with
    | some r => r.ended.isNone
    | none => false))

/-- Steps 1 and 2 of R339: dealing and issue stop. -/
def State.haltPart (s : State) (p : Nat) : State :=
  ((s.mapSlots p (fun x => { x with halted := true })).push (.haltComplete p)) |> fun t =>
    { t with parts := t.parts.set p { t.parts.at p {} with halt := .halting } }

/-- Whether an operation has a parked element. -/
def Op.isParked (o : Op) : Bool := o.elems.any (fun e => e.stage == .parked)

/-- A task's parked requests withdrawn, its pc at the earliest of them, R339. -/
def State.withdraw (s : State) (t : TaskRef) : State :=
  let mine := s.ops.filter (fun e => e.2.task == t && e.2.isParked)
  match mine with
  | [] => s
  | (_, o) :: _ =>
    let gone := mine.map (·.1)
    let s := mine.foldl (fun u e => u.updTask t (fun x => x.ended e.1 e.2)) s
    let s := s.updTask t (fun x => { x with arch := (x.arch.setPc o.tpc).dropPfx, wait := none })
    { s with ops := s.ops.filter (fun e => !gone.contains e.1), parked := s.parked.filter (fun q => !gone.contains q.2.1) }

/-- Whether the work of a partition that R339 waits for has ended. -/
def State.quiet (s : State) (p : Nat) : Bool :=
  let mine := fun (t : TaskRef) => s.alive t && (s.slot t.core t.slot).part == p
  s.ops.all (fun e => e.2.part != p || !(e.2.ldc || e.2.stc) || e.2.isParked) &&
    s.guests.all (fun g => g.2.part != p) && s.jobs.all (fun j => j.2.part != p || !j.2.running) &&
    s.cmds.all (fun m => m.2.part != p) &&
    s.packets.all (fun k => match k.2.task with
      | some t => k.2.kind == 2 || !mine t
      | none => true) &&
    s.cores.all (fun e => e.2.slots.all (fun x => x.1 == serviceSlot || x.2.part != p || x.2.phase == .free ||
      (x.2.ship.isNone && x.2.checking.isNone)))

/-- Owned lines of a partition written back, and its lines gone from the L1 caches, R339 step 5. -/
def State.cleanL1 (s : State) (p : Nat) : State :=
  { s with iLines := s.iLines.filter (fun l => l.part != p), dLines := s.dLines.filter (fun l => l.part != p),
           slices := s.slices.map (fun (e : Nat × Slice) => (e.1, { e.2 with lines := e.2.lines.map (fun (l : Line) =>
             if l.owner.isSome && l.ownPart == p then { l with owner := none, dirty := true } else l) })) }

/-- The tasks of a partition. -/
def State.tasksOf (s : State) (p : Nat) : List TaskRef :=
  s.cores.flatMap (fun e => (e.2.slots.filter (fun x => x.1 != serviceSlot && x.2.part == p && x.2.phase != .free)).map
    (fun x => ⟨e.1, x.1, x.2.uid⟩))

/-- The parked requests of some stopped tasks withdrawn, R339, R363: first, so that what waits behind them completes. A task with
a guest outstanding keeps its own until the result commits. -/
def State.withdrawAll (s : State) (l : List TaskRef) : State :=
  l.foldl (fun u r => if (u.slot r.core r.slot).ship.isNone then u.withdraw r else u) s

/-- The halt is complete, R339 steps 3 to 5: parked requests are withdrawn, and then everything else has ended. -/
def execHaltComplete (part : Nat) (s : State) : Host.Outcome State Fault Refusal :=
  let x := s.parts.at part {}
  let t := s.withdrawAll (s.tasksOf part)
  if x.halt ≠ .halting then .next (s.did (.haltComplete part))
  else if !t.quiet part then .next t
  else
    let t := (t.did (.haltComplete part)).cleanL1 part
    .next { t with parts := t.parts.set part { x with halt := .halted } }

/-- A partition resumes issue, R342, R395. -/
def State.resumePart (s : State) (p : Nat) : State :=
  let t := s.mapSlots p (fun x => { x with halted := false })
  let t := { t with parts := t.parts.drop p }
  (t.coresOf p).foldl (fun u e => u.pushOnce (.taskSelection e.1)) t

/-! ## Swapping, R340, R341 -/

/-- A scratchpad's high-water mark, rounded up to 4 KiB, R340. -/
def Core.top (k : Core) : Nat := (k.mark + 4095) / 4096 * 4096

/-- The typed-buffer unit of a key of space 1, 2 or 3, R295. -/
def keyUnit (key : Nat) : Nat := (if keySpace key = 1 then 0 else if keySpace key = 2 then 64 else 96) + keyOff key / 65536

/-- Whether a byte of local storage is in a partition's image, R340: of its cores' scratchpads the bytes below the mark, and the
units that it owns, on whichever core. -/
def State.saves (s : State) (p key : Nat) : Bool :=
  let c := keyCore key
  let k := s.core c
  if keySpace key = 0 then k.part == some p && inLocal [c] 0 0 k.top key
  else (inLocal [c] 1 0 (2 ^ 32) key || inLocal [c] 2 0 (2 ^ 32) key || inLocal [c] 3 0 (2 ^ 32) key) &&
    k.big.owners.look (keyUnit key) == some p

/-- The bytes of a core's own share of an image, R340. -/
def Core.imageBytes (k : Core) : Nat :=
  let slots := (k.slots.filter (fun e => e.1 != serviceSlot && e.2.phase != .free)).length
  let ports := (k.slots.map (fun e => (e.2.ports.map (fun q => q.2.fifo.length)).sum)).sum
  let mail := (k.handlers.map (fun h => h.2.mail.length)).sum
  9216 * slots + k.top + 128 * ports + 64 * k.handlers.length + 256 * mail

/-- The bytes of an image on a plate, R340. -/
def Image.bytesOn (i : Image) (plate : Nat) : Nat :=
  let on := fun (c : Nat) => corePlate c == plate
  ((i.cores.filter (fun e => on e.1)).map (fun e => e.2.imageBytes)).sum + 224 * (i.jobs.filter (fun j => on j.2.core)).length +
    65536 * (i.units.filter (fun u => on u.1)).length + 4096 * (i.accs.filter (fun a => on (a.1 / 16))).length

/-- The bytes of images in a plate's vellum, R341. -/
def State.vellumUsed (s : State) (plate : Nat) : Nat :=
  (s.parts.map (fun e => match e.2.image with
    | some i => if e.2.inHbm then 0 else i.bytesOn plate
    | none => 0)).sum

/-- The image of a halted partition, R340; uncorrectable data stays so in it, R431. -/
def State.imageOf (s : State) (p : Nat) : Image :=
  { cores := s.coresOf p, units := s.cores.flatMap (fun e => (e.2.big.owners.filter (fun u => u.2 == p)).map (fun u => (e.1, u.1))),
    accs := s.cores.flatMap (fun e => ((List.range 16).filter (e.2.big.ownedBy p)).map (fun i =>
      (16 * e.1 + i, (e.2.big.accs.at i 0, e.2.big.poison.at i false)))),
    mem := s.mem.filter (fun e => s.saves p e.1), tags := s.tags.filter (fun e => s.saves p (16 * e.1)),
    full := s.full.filter (fun e => s.saves p (4 * e.1)), bad := s.bad.filter (fun e => s.saves p (8 * e.1)), jobs := s.jobs.filter (fun j => j.2.part == p && !j.2.running) }

/-- Whether an image fits the free vellum of each plate it occupies, 160 MiB each, R341. -/
def State.fitsVellum (s : State) (i : Image) : Bool :=
  (List.range 4).all (fun plate => i.bytesOn plate == 0 || decide (s.vellumUsed plate + i.bytesOn plate ≤ 160 * 2 ^ 20))

/-- A table with the entries of another put in. -/
def Sp.merge {α : Type} (m l : Sp α) : Sp α := l.foldl (fun a e => Sp.set a e.1 e.2) m

/-- The slots of an image's core beside the core's own service slot, R338: one without an image is clear. -/
def Core.restored (k old : Core) : Sp Slot :=
  old.slots.filter (fun e => e.1 != serviceSlot && e.2.phase != .free) ++ k.slots.filter (fun e => e.1 == serviceSlot)

/-- An accumulator of an image back in its core, where a context of the partition owns it still: otherwise its tile was spilled
meanwhile, R331 (assumption 95). -/
def State.restoreAcc (s : State) (p : Nat) (a : Nat × BitVec 32768 × Bool) : State :=
  let i := a.1 % 16
  s.updBig (a.1 / 16) (fun b =>
    if b.ownedBy p i then { b with accs := Sp.put 0 b.accs i a.2.1, poison := Sp.put false b.poison i a.2.2 } else b)

/-- The slots and handler entries of an image back at their cores, R340, with the banks of the cores awake, R365. -/
def State.restoreCores (s : State) (i : Image) : State :=
  let t := i.cores.foldl (fun u e => u.updCore e.1 (fun k =>
    { k with slots := k.restored e.2, handlers := e.2.handlers, lastSel := e.2.lastSel, mark := e.2.mark })) s
  t.banks.foldl (fun u b => if (i.cores.look (b.1 / 16)).isSome then u.wakeBank (b.1 / 16) (b.1 % 16) else u) t

/-- An image back at the same logical cores, R340, R342: scratchpad bytes above its mark and units that it does not hold are
cleared, R338; the codebook slots, the predictor and the module's own fields stay as they are. -/
def State.restore (s : State) (p : Nat) (i : Image) : State :=
  let s := s.restoreCores i
  let s := s.wipe (fun k => inLocal (i.cores.map (·.1)) 0 0 (2 ^ 32) k || s.saves p k)
  let s := { s with mem := Sp.merge s.mem (i.mem.filter (fun e => s.saves p e.1)), tags := Sp.merge s.tags (i.tags.filter (fun e => s.saves p (16 * e.1))),
                    full := Sp.merge s.full (i.full.filter (fun e => s.saves p (4 * e.1))), bad := Sp.merge s.bad (i.bad.filter (fun e => s.saves p (8 * e.1))), jobs := Sp.merge s.jobs i.jobs }
  i.accs.foldl (fun u a => u.restoreAcc p a) s

/-- Whether a bank that an image is read from or written to awaits its refresh, R366. -/
def State.refreshing (s : State) (cores : List Nat) : Bool := s.banks.any (fun b => b.2.refresh && cores.contains (b.1 / 16))

/-- A swap's movement has ended, R341, R342. -/
def execSwapComplete (part : Nat) (s : State) : Host.Outcome State Fault Refusal :=
  let done := s.did (.swapComplete part)
  let x := s.parts.at part {}
  let cores := (s.coresOf part).map (·.1)
  if s.refreshing cores then .next s
  else match x.halt, x.image with
  | .swappingOut, _ =>
    let i := done.imageOf part
    let done := (done.tasksOf part).foldl (fun u r => u.wakeBank r.core r.slot) done
    .next { done with parts := done.parts.set part { x with halt := .swapped, image := some i, inHbm := !done.fitsVellum i } }
  | .swappingIn, some i => .next ((done.restore part i).resumePart part)
  | _, _ => .next done

end Sys2Proof.Machine
end

