-- ==== Sys2Proof/Machine/Power.lean ====
section
/-!
DEFINITION. Power and heat: the caps of R360, migration (R361 to R364, R369), register banks (R365), column power (R367,
R368), and the slices of a slice pair (R329).
-/

namespace Sys2Proof.Machine

/-! ## What a reset leaves -/

/-- The state that survives every reset: the schedule with its counters, the straps, PWRGD and flash. -/
def State.bare (s : State) : State :=
  { agenda := s.agenda, draws := s.draws, serial := s.serial, slotid := s.slotid, recov := s.recov, pwrgd := s.pwrgd,
    flash := { s.flash with written := 0, received := 0, verified := none } }

/-- Power lost, R421: an image whose writing was not finished is marked. -/
def State.powerLost (s : State) : State :=
  let f := s.flash
  let t := s.bare
  { t with flash := { t.flash with torn := f.torn || f.written != 0 || (f.received != 0 && f.verified.isNone) } }

/-- A thermal trip, R437: the compute layers lose their power, and THERM_N is asserted. -/
def State.trip (s : State) : State := if s.boot = .off then s else { s.powerLost with boot := .tripped, therm := true }

/-! ## Caps, R360 -/

/-- The keys of the vector caps, by 32 x plate + column, and of the burin caps, by big core. -/
def columnKeys : List Nat := List.range 128
def bigKeys : List Nat := (List.range 64).map (fun i => bigId (i / 16) (i % 4) (i / 4 % 4))

/-- The columns whose vector cap is held at 4/16 until a core of theirs is cool, R361. -/
def State.heldColumns (s : State) : List Nat := (s.held.filter (·.2)).map (fun e => 32 * corePlate e.1 + coreX e.1)

/-- The keys of the vector caps that the power manager may move, R360, R361. -/
def State.freeColumns (s : State) : List Nat := columnKeys.filter (fun k => !s.heldColumns.contains k)

/-- Caps of one kind lowered or raised by 1/16, within 4/16 and 16/16. -/
def moveCaps (m : Sp Nat) (keys : List Nat) (down : Bool) : Sp Nat :=
  keys.foldl (fun a k =>
    let v := Sp.at a k 16
    Sp.put 16 a k (if down then max 4 (v - 1) else min 16 (v + 1))) m

/-- Whether some cap of a kind can still move. -/
def canMove (m : Sp Nat) (keys : List Nat) (down : Bool) : Bool := keys.any (fun k => if down then decide (m.at k 16 > 4) else decide (m.at k 16 < 16))

/-- Caps moved by 1/16 in the order of MPRI, R360. -/
def State.capBy (s : State) (down : Bool) : State :=
  let vec := { s with vectorCap := moveCaps s.vectorCap s.freeColumns down }
  let bur := { s with burinCap := moveCaps s.burinCap bigKeys down }
  let v := canMove s.vectorCap s.freeColumns down
  let b := canMove s.burinCap bigKeys down
  match s.table.mpri with
  | 0 => if down then (if v then vec else bur) else if b then bur else vec
  | 1 => if down then (if b then bur else vec) else if v then vec else bur
  | _ => { vec with burinCap := bur.burinCap }

/-- A reading of the supply power, R360. -/
def execPowerReading (watts : Nat) (s : State) : Host.Outcome State Fault Refusal :=
  .next (if watts > 2400 then s.capBy true else if watts < 2300 then s.capBy false else s)

/-- Peak power beyond its limit: every cap at 4/16, R437. -/
def execPeakPowerCap (s : State) : Host.Outcome State Fault Refusal :=
  .next { s with vectorCap := columnKeys.foldl (fun m k => Sp.put 16 m k 4) [], burinCap := bigKeys.foldl (fun m k => Sp.put 16 m k 4) [] }

/-! ## Migration, R361 to R364 -/

/-- The logical core that a physical core runs. -/
def State.logical (s : State) (p : Nat) : Nat :=
  match s.lpct.find? (fun e => e.2.phys == p) with
  | some e => e.1
  | none => p

/-- The temperature last sampled at a physical core's node; none sampled counts as cool. -/
def State.temp (s : State) (p : Nat) : Nat := s.temps.at (nodeOf p) 0

/-- Whether a core may migrate, R361: all its conditions but the target. -/
def State.movable (s : State) (c : Nat) : Bool :=
  let k := s.core c
  isLittle c && !s.isEasel c && k.lit.isNone && k.dark.isNone && !k.moving && k.spill == 0 &&
    (match k.part with
      | some p => !s.haltedPart p
      | none => false) &&
    k.slots.all (fun e => e.2.phase == .free || (decide (e.2.heat.toNat % 4 < 2) && e.2.cpc == 0 && e.2.mxc == 0 &&
      e.2.ports.all (fun q => q.2.mode != 2))) &&
    (List.range 4).all (fun n => !s.bankLent c n)

/-- Whether a core may be a migration's target, R361. -/
def State.mayReceive (s : State) (c from_ : Nat) : Bool :=
  let k := s.core c
  c != from_ && isLittle c && !s.isEasel c && k.part.isSome && k.part == (s.core from_).part && decide (s.temp (s.phys c) < 95) &&
    k.slots.all (fun e => e.2.phase == .free) && k.lit.isNone && k.dark.isNone && !k.moving && (s.reservedSlots c).isEmpty &&
    !s.lostCores.at c false && (List.range 4).all (fun n => !s.bankLent c n)

/-- The distance between two physical cores: the links along x and y between their package coordinates, R349. -/
def coreDistance (a b : Nat) : Nat :=
  (ways (routerOf a).px (routerOf b).px).length + (ways (routerOf a).py (routerOf b).py).length

/-- The targets to choose from, R361: the nearest in the core's column class, failing that the nearest in any. -/
def State.targets (s : State) (c : Nat) : List Nat :=
  let all := (s.cores.filter (fun e => s.mayReceive e.1 c)).map (·.1)
  let near := fun (l : List Nat) =>
    let d := (l.map (fun x => coreDistance (s.phys c) (s.phys x))).foldl min 100000
    l.filter (fun x => coreDistance (s.phys c) (s.phys x) == d)
  let same := all.filter (fun x => cycleLen (coreX (s.phys x)) == cycleLen (coreX (s.phys c)))
  if same.isEmpty then near all else near same

/-- Step 1 of R363: the target is reserved, and the core stops. -/
def State.startMove (s : State) (c t : Nat) : State :=
  let s := (s.updCore c (fun k => { k with moving := true })).updCore t (fun k => { k with moving := true })
  ({ s with lpct := s.lpct.set c { st := 0, phys := s.phys c, target := some t } } : State).push (.migrationDrained c)

/-- A sensor's sample at a physical core, R361: above the limit the core migrates, or its issue and its column's are held at
4/16 until it is cool. Which of several nearest targets is taken is a free choice. Above 115 degrees the module trips, R437. -/
def execThermalSample (core celsius : Nat) (s : State) : Host.Outcome State Fault Refusal :=
  let t := { s with temps := Sp.put 0 s.temps (nodeOf core) celsius }
  let c := t.logical core
  if celsius > 115 then .next t.trip
  else if celsius > 105 then
    let l := if t.movable c then t.targets c else []
    if (t.core c).moving then .next t
    else if l.isEmpty then
      .next { t with held := Sp.put false t.held core true, vectorCap := Sp.put 16 t.vectorCap (32 * corePlate core + coreX core) 4 }
    else
      let (v, t) := t.draw
      .next (t.startMove c (l[v % l.length]?.getD c))
  else if celsius < 95 then .next { t with held := Sp.put false t.held core false }
  else .next t

/-- Step 2 of R363: parked requests are withdrawn, and then nothing of the core's tasks is outstanding. -/
def execMigrationDrained (core : Nat) (s : State) : Host.Outcome State Fault Refusal :=
  let tasks := (s.core core).slots.filter (fun x => x.2.phase != .free)
  match s.lpct.look core with
  | none => .next (s.did (.migrationDrained core))
  | some e =>
    let s := s.withdrawAll (tasks.map (fun x => ⟨core, x.1, x.2.uid⟩))
    let mine := s.ops.filter (fun o => o.2.task.core == core && (o.2.ldc || o.2.stc))
    let busy := mine.any (fun o => !o.2.isParked) || s.packets.any (fun p => match p.2.task with
      | some t => t.core == core && p.2.kind != 2
      | none => false)
    let open_ := (s.core core).slots.any (fun x => x.2.phase != .free &&
      (x.2.ship.isSome || x.2.board.any (fun b => !mine.any (fun o => o.1 == b.2))))
    if busy || open_ then .next s
    else
      let t := s.did (.migrationDrained core)
      .next ((({ t with lpct := t.lpct.set core { e with st := 1 } }) : State).push (.migrationCopyDone core))

/-- Steps 3 to 5 of R363, R364, R369: the core's state stands at the target, from banks that do not await a refresh (R366); the copy
wakes a drowsy bank, and a gated one stays gated (R365). What
does not move starts afresh: L1 contents, the core's TLB entries and the predictor; the cycle offset keeps TIME from falling,
for any time that a counter of 2^63 cycles measures. The target's own logical core takes the place that was left, which sends
packets on for 4,096 mesh cycles. -/
def execMigrationCopyDone (core : Nat) (s : State) : Host.Outcome State Fault Refusal :=
  let done := s.did (.migrationCopyDone core)
  match s.lpct.look core with
  | none => .next done
  | some e => match e.target with
    | none => .next done
    | some t =>
      if s.refreshing [core] then .next s else
      let old := s.cyc core
      let (v, u) := done.draw
      let p := u.phys t
      let u := { u with lpct := (u.lpct.set core { st := 2, phys := p, target := some t, till := u.now + 4096 * meshLen }).set t { st := 0, phys := e.phys },
                        iLines := u.iLines.filter (fun l => l.core != core), dLines := u.dLines.filter (fun l => l.core != core), tlbL1 := u.tlbL1.drop core,
                        slices := u.slices.map (fun (x : Nat × Slice) => (x.1, { x.2 with lines := x.2.lines.map (fun (l : Line) =>
                          if (l.owner.map (fun (o : Nat × Nat) => o.1)) == some core then { l with owner := none, dirty := true } else l) })) }
      let u := (List.range 4).foldl (fun (w : State) n => if (w.banks.at (16 * core + n) {}).st = .gated then w else w.wakeBank core n) u
      let off := (old + v % max 1 (2 ^ 63 - old) + 2 ^ 64 - (s.now - s.cycStart) / cycleLen (coreX p) % 2 ^ 64) % 2 ^ 64
      .next ((u.updCore core (fun k => { k with predictor := [], cycOffset := off })).push (.migrationForwardEnd core))

/-- Step 6 of R363: both cores may create and issue tasks again. -/
def execMigrationForwardEnd (core : Nat) (s : State) : Host.Outcome State Fault Refusal :=
  let done := s.did (.migrationForwardEnd core)
  match s.lpct.look core with
  | none => .next done
  | some e => match e.target with
    | none => .next done
    | some t =>
      if s.now < e.till then .next s else
      let u := (done.settle core).settle t
      let u := (u.updCore core (fun k => { k with moving := false })).updCore t (fun k => { k with moving := false })
      .next ((u.pushOnce (.taskSelection core)).pushOnce (.taskSelection t))

/-! ## Register banks, R365 -/

/-- A bank's record. -/
def State.bank (s : State) (c n : Nat) : Bank := s.banks.at (16 * c + n) {}
def State.setBank (s : State) (c n : Nat) (b : Bank) : State := { s with banks := Sp.put {} s.banks (16 * c + n) b }

/-- The time at which a slot's last task ended, R124. -/
def State.endedAt (s : State) (c n : Nat) : Nat := (s.slot c n).readyAt - 64 * cycleLen (coreX (s.phys c))

/-- A bank left alone for 1,024 mesh cycles, R365: its slot holds no task, or a stalled one. -/
def execBankDrowsy (core slot : Nat) (s : State) : Host.Outcome State Fault Refusal :=
  let b := s.bank core slot
  let x := s.slot core slot
  let since := if x.phase = .free then s.endedAt core slot else x.stalledAt
  if b.st = .awake ∧ !b.refresh ∧ (x.phase = .free ∨ x.wait.isSome) ∧ s.now ≥ since + 1024 * meshLen then .next (s.setBank core slot { b with st := .drowsy }) else .next s

/-- A refresh is due, R365: every 2^15 ticks of GT, every 2^14 where the bank is drowsy. -/
def execRefreshDue (core slot : Nat) (s : State) : Host.Outcome State Fault Refusal :=
  let b := s.bank core slot
  if b.st = .gated ∨ b.refresh ∨ s.gt < b.last + (if b.st = .drowsy then 2 ^ 14 else 2 ^ 15) then .next s
  else .next ((s.setBank core slot { b with refresh := true }).push (.refreshEnd core slot))

/-- A refresh ends, R365. -/
def execRefreshEnd (core slot : Nat) (s : State) : Host.Outcome State Fault Refusal :=
  let done := s.did (.refreshEnd core slot)
  .next (done.setBank core slot { done.bank core slot with refresh := false, last := s.gt })

/-- A drowsy bank is gated, R365: its slot empty for 2^16 mesh cycles, the bank not lent, not named by a SPILLMAP, and not part of a halted or
swapped partition. Its contents are lost: its storage reads as zero from then on. -/
def execBankGated (core slot : Nat) (s : State) : Host.Outcome State Fault Refusal :=
  let b := s.bank core slot
  let k := s.core core
  let halted : Bool := (match k.part with
    | some p => s.haltedPart p
    | none => false)
  if b.st = .drowsy ∧ !b.refresh ∧ (k.slot slot).phase = .free ∧ s.now ≥ s.endedAt core slot + 2 ^ 16 * meshLen ∧ !s.bankLent core slot ∧ k.dark.isNone ∧ !halted then
    .next ((s.clearBank core slot).setBank core slot { b with st := .gated })
  else .next s

/-! ## Column power, R367, R368 -/

/-- A column's record. -/
def State.column (s : State) (plate x : Nat) : Column := s.columns.at (32 * plate + x) {}
def State.setColumn (s : State) (plate x : Nat) (k : Column) : State := { s with columns := Sp.put {} s.columns (32 * plate + x) k }

/-- The power-state register of a column, R368. -/
def Column.reg (k : Column) : Nat :=
  k.ups * 2 ^ 48 + k.dns * 2 ^ 32 + b2n k.held * 4 + (match k.st with
    | .on => 0
    | .rampDown => 1
    | .off => 2
    | .rampUp => 3)

/-- Whether a column may be gated, R367: no core in any partition, no big-core block and no easel node. -/
def State.columnFree (s : State) (plate x : Nat) : Bool :=
  (blockCol x).isNone && !s.table.columns.contains (plate, x) &&
    s.cores.all (fun e => corePlate (s.phys e.1) != plate || coreX (s.phys e.1) != x || e.2.part.isNone)

/-- A column without an assigned core for 1 ms ramps down, R367. -/
def execColumnIdleTimeout (plate x : Nat) (s : State) : Host.Outcome State Fault Refusal :=
  let k := s.column plate x
  if k.st = .on ∧ s.columnFree plate x ∧ s.gt ≥ k.idleFrom + 1000000 then
    .next ((s.setColumn plate x { k with st := .rampDown, till := s.gt + 2000 }).push (.rampDownEnd plate x))
  else .next s

/-- A wake request, R367. -/
def State.wake (s : State) (plate x : Nat) : State :=
  let k := s.column plate x
  match k.st with
  | .on => s
  | .rampDown => s.setColumn plate x { k with held := true }
  | .off => (s.setColumn plate x { k with st := .rampUp, till := s.gt + 6000 }).push (.rampUpEnd plate x)
  | .rampUp => s

/-- A wake request reaches a column, R367. -/
def execWakeRequest (plate x : Nat) (s : State) : Host.Outcome State Fault Refusal :=
  .next ((s.did (.wakeRequest plate x)).wake plate x)

/-- A ramp down ends, R367. -/
def execRampDownEnd (plate x : Nat) (s : State) : Host.Outcome State Fault Refusal :=
  let done := s.did (.rampDownEnd plate x)
  let k := s.column plate x
  if k.st ≠ .rampDown then .next done
  else if s.gt < k.till then .next s
  else
    let k := { k with dns := (k.dns + 1) % 2 ^ 16 }
    if k.held then
      .next ((done.setColumn plate x { k with st := .rampUp, held := false, till := s.gt + 6000 }).push (.rampUpEnd plate x))
    else .next (done.setColumn plate x { k with st := .off })

/-- A column whose ramp up has ended, R367. -/
def Column.up (k : Column) (gt : Nat) : Column := { k with st := .on, ups := (k.ups + 1) % 2 ^ 16, till := 0, idleFrom := gt }

/-! ## Slices of a slice pair, R329 -/

/-- A slice ends at the quantum, or sooner when its group has no task. -/
def execSliceEnd (core : Nat) (s : State) : Host.Outcome State Fault Refusal :=
  let k := s.core core
  let p := k.big.pair
  let empty := k.slots.all (fun e => e.1 == serviceSlot || e.2.phase == .free || bit p.smap e.1 != p.inY)
  if p.slen ∧ (empty ∨ s.gt ≥ p.since + 2 ^ p.q) then
    .next (s.updBig core (fun b => { b with pair := { p with inY := !p.inY, since := s.gt } }))
  else .next s

end Sys2Proof.Machine
end

