-- ==== Sys2Proof/Machine/Health.lean ====
section
/-!
DEFINITION. Errors and health: location records and retirement (R433), error records (R434), the patrol (R430), Nymbiso
links (R400, R430), and the checks of the easel's roles (R435).
-/

namespace Sys2Proof.Machine

/-! ## Error records, R434 -/

/-- The kinds and units of a record. -/
def errUncorrectable : Nat := 1
def errLasting : Nat := 2
def errRetired : Nat := 3
def unitHbm : Nat := 0
def unitL2 : Nat := 1
def unitScratch : Nat := 2
def unitTyped : Nat := 3
def unitBank : Nat := 4
def unitLink : Nat := 6
def unitVellum : Nat := 7

/-- The coordinates by which records of equal GT are ordered, R433: the unit, and where it lies (DESIGN CHOICE, assumption 122). -/
def recordPlace (r : BitVec 128) : Nat := bits r.toNat 59 56 * 2 ^ 48 + bits r.toNat 47 0

/-- A record put behind the others, but before those of the same GT at higher coordinates; the list's newest come first. -/
def putRecordIn (r : BitVec 128) : List (BitVec 128) → List (BitVec 128)
  | [] => [r]
  | x :: l => if bits x.toNat 127 64 = bits r.toNat 127 64 ∧ recordPlace r < recordPlace x then x :: putRecordIn r l else r :: x :: l

/-- A record added to the ring of 1,024. -/
def State.report (s : State) (kind unit part loc : Nat) : State :=
  let r := BitVec.ofNat 128 (loc % 2 ^ 48 + part % 16 * 2 ^ 52 + unit % 16 * 2 ^ 56 + kind % 16 * 2 ^ 60 + s.gt % 2 ^ 64 * 2 ^ 64)
  let l := (putRecordIn r s.errors.reverse).reverse
  { s with errors := l.drop (l.length - 1024), errorIndex := s.errorIndex + 1 }

/-! ## Locations, R433 -/

/-- The bits of LOC for core storage: the physical core of PHYS (R362), and the offset. -/
def locCore (loc : Nat) : Nat := bits loc 47 34
def locOff (loc : Nat) : Nat := bits loc 31 0

/-- The location of an event, with the way of its L2 set, which LOC does not tell. -/
def locationOf (unit loc way : Nat) : Nat :=
  if unit = unitHbm then loc / 2048
  else if unit = unitL2 then 16 * (64 * sliceId loc + setOf (loc / 128)) + way % 16
  else if unit = unitScratch then locCore loc
  else if unit = unitTyped then 128 * locCore loc + locOff loc / 65536
  else if unit = unitBank then 16 * locCore loc + locOff loc / 8192
  else loc

/-- Whether an event makes its location lasting. -/
def makesLasting (uncorrectable : Bool) (times : List Nat) (gt : Nat) : Bool :=
  uncorrectable || decide (2 ≤ (times.filter (fun t => decide (gt ≤ t + 2 ^ 30))).length)

/-- The location records with one updated: at most 4,096, of which the oldest is replaced. -/
def putLocation (l : List LocRecord) (r : LocRecord) : List LocRecord :=
  if l.any (fun x => x.unit == r.unit && x.loc == r.loc) then l.map (fun x => if x.unit = r.unit ∧ x.loc = r.loc then r else x)
  else (if l.length ≥ 4096 then l.drop 1 else l) ++ [r]

/-- The line that leaves an L2 set whose ways have become too few: the one at the event's address, which stands in the way that is
retired, or else the oldest that may go; with it the L1 copies (assumption 112). -/
def State.shrinkSet (s : State) (i line : Nat) : State :=
  let here := (s.slice i).setLines (setOf line)
  if here.length ≤ 16 - s.lostWays.at (64 * i + setOf line) 0 then s
  else
    let held := (s.slice i).lines.filter (fun l => setOf l.line == setOf line)
    match (held.find? (fun l => l.line == line)).orElse (fun _ => oldest (held.filter Line.loose)) with
    | none => s
    | some l =>
      let t := (s.forgetSoft [l]).updSlice i (fun x => x.evict l.part l)
      { t with dLines := t.dLines.filter (fun e => e.line != l.line) }

/-- What retiring a location does; HBM rows are repaired at the next reset, scratchpads when the tenant changes, and mesh
links are only reported. -/
def State.retire (s : State) (unit part loc place : Nat) : State :=
  let told := s.report errRetired unit part loc
  if unit = unitL2 then
    ({ told with lostWays := told.lostWays.set (place / 16) (min 16 (told.lostWays.at (place / 16) 0 + 1)) } : State).shrinkSet (sliceId loc) (loc / 128)
  else if unit = unitBank then { told with lostBanks := Sp.put false told.lostBanks place true }
  else if unit = unitTyped then
    ({ told with lostUnits := Sp.put false told.lostUnits place true } : State).updBig (place / 128) (fun b => { b with owners := b.owners.drop (place % 128) })
  else s

/-- Uncorrectable data in a partition's image in vellum, R430: 8 bytes of it, which LOC names as the core and the scratchpad offset that
they came from (DESIGN CHOICE, assumption 123). -/
def Part.spoil (x : Part) (k : Nat) : Part :=
  { x with image := if x.inHbm then x.image else x.image.map (fun i => { i with bad := Sp.put false i.bad (k / 8) true }) }

/-- Uncorrectable data in an L2 line, R430: 32 bytes of it; where the line is clean, HBM still holds them good. -/
def State.spoilLine (s : State) (loc : Nat) : State :=
  let u := (List.range 4).map (fun i => loc / 32 * 4 + i)
  match (s.slice (sliceId loc)).lines.find? (fun l => l.line == lineOf loc) with
  | none => s
  | some l =>
    let fresh := u.filter (fun k => !s.bad.at k false)
    let t := { s with bad := u.foldl (fun b k => Sp.put false b k true) s.bad }
    if l.dirty ∨ l.owner.isSome then t else t.updLine (sliceId loc) (lineOf loc) (fun l => { l with soft := l.soft ++ fresh })

/-- Uncorrectable data in storage, R430, R431: an 8-byte unit of local storage, 32 bytes of HBM or of an L2 line, a register, or an
image in vellum. -/
def State.spoil (s : State) (unit part loc : Nat) : State :=
  let c := s.logical (locCore loc)
  let o := locOff loc
  let mark := fun (t : State) (k n : Nat) => { t with bad := (List.range n).foldl (fun b i => Sp.put false b (k / 8 + i) true) t.bad }
  if unit = unitHbm then mark s (loc / 32 * 32) 4
  else if unit = unitL2 then s.spoilLine loc
  else if unit = unitVellum then
    (match s.parts.look (part % 16) with
      | some x => { s with parts := s.parts.set (part % 16) (x.spoil (localKey c 0 (o / 8 * 8))) }
      | none => s)
  else if unit = unitScratch then mark s (localKey c 0 (o / 8 * 8)) 1
  else if unit = unitTyped then
    let u := o / 65536
    let sp := if u < 64 then 1 else if u < 96 then 2 else 3
    let base := if u < 64 then 0 else if u < 96 then 64 else 96
    mark s (localKey c sp ((u - base) * 65536 + o % 65536 / 8 * 8)) 1
  else if unit = unitBank ∧ (s.slot c (o / 8192)).phase ≠ .free then
    s.updSlot c (o / 8192) (fun x => { x with badRegs := x.badRegs.filter (· != o % 8192 / 128) ++ [o % 8192 / 128] })
  else s

/-- An event reaches the health monitor, R433. An uncorrectable one is also the moment at which the data goes bad. -/
def execErrorEvent (uncorrectable : Bool) (unit loc part : Nat) (s : State) : Host.Outcome State Fault Refusal :=
  if unit > 7 then .next s
  else
    let (v, s) := s.draw
    let place := locationOf unit loc v
    let old := (s.locations.find? (fun r => r.unit == unit && r.loc == place)).getD { unit := unit, loc := place }
    let lasting := makesLasting uncorrectable old.times s.gt
    let new : LocRecord := { old with times := if uncorrectable then old.times else old.times ++ [s.gt], lasting := old.lasting || lasting }
    let t := { s with locations := putLocation s.locations new }
    let t := if uncorrectable then (t.report errUncorrectable unit part loc).spoil unit part loc
      else { t with corrected := t.corrected.set unit (t.corrected.at unit 0 + 1) }
    .next (if lasting ∧ !old.lasting then (t.report errLasting unit part loc).retire unit part loc place else t)

/-- The patrol reads HBM at an address, R430: it changes no value and no tag. -/
def execHbmPatrol (addr : Nat) (s : State) : Host.Outcome State Fault Refusal :=
  if addr < hbmEnd ∧ s.badAt (addr / 32 * 32) 32 then .next (s.report errUncorrectable unitHbm 0 addr) else .next s

/-! ## Links, R400, R430 -/

/-- What left on a failed link and is not acknowledged goes again, on the pair's new port, R400: undecided packets take their way
anew, each pair's in order, and so do the pod messages of which a free choice says that they were not acknowledged. -/
def State.reroute (s : State) (port : Nat) : State :=
  let t := { s with packets := s.packets.map (fun (e : Nat × Packet) =>
    if e.2.via = some port ∧ e.2.answer.isNone then (e.1, { e.2 with via := none }) else e) }
  (s.podOut.filter (fun m => m.via == some port)).foldl (fun u m =>
    let (v, u) := u.draw
    if bit v 0 then u else { u with podOut := u.podOut ++ [{ m with via := (u.routes.at m.dst [])[v / 2 % (u.routes.at m.dst []).length]? }] }) t

/-- A failed link, R400, R433: its port leaves every entry of the routing table, and it is declared lasting and retired. -/
def State.dropPort (s : State) (port : Nat) : State :=
  if port > 15 ∨ s.failedPorts.at port false then s
  else
    let t := { s with failedPorts := s.failedPorts.set port true,
                      routes := s.routes.map (fun (e : Nat × List Nat) => (e.1, e.2.filter (· != port))) }
    ((t.report errLasting unitLink 0 port).report errRetired unitLink 0 port).reroute port

/-- A flit is replayed, R430: whether the replay passes is a free choice, and after 16 failed ones of a flit the link has
failed. -/
def execLinkReplay (port : Nat) (s : State) : Host.Outcome State Fault Refusal :=
  if port > 15 ∨ s.failedPorts.at port false then .next s
  else
    let (v, t) := s.draw
    let n := if bit v 0 then t.replays.at port 0 + 1 else 0
    let t := { t with replays := Sp.put 0 t.replays port n }
    .next (if n ≥ 16 then t.dropPort port else t)

/-- A link fails, R400. -/
def execLinkFailure (port : Nat) (s : State) : Host.Outcome State Fault Refusal := .next (s.dropPort port)

/-! ## Firmware roles, R435 -/

/-- A role, named by its easel slot, stores its heartbeat word. -/
def execHeartbeat (role : Nat) (s : State) : Host.Outcome State Fault Refusal :=
  if (s.roles.look role).isSome then .next { s with heartbeats := s.heartbeats.set role s.gt } else .next s

/-- Whether a dispatcher role held a launch: the pod dispatcher its pod grids, the device dispatcher every launch, a plate's
or a column's dispatcher those that are placed on its plate. -/
def Launch.heldBy (l : Launch) (s : State) (code index : Nat) : Bool :=
  l.root != .ended && (match code with
    | 2 => l.podRoot.isNone && l.lr.isPod s.table.devnum
    | 3 => true
    | 4 => bit l.lr.pmask index
    | 5 => bit l.lr.pmask (index / 4)
    | _ => false)

/-- A role silent for 1 ms is restarted in a free easel slot, and the restart is reported, R435, R439; launches that a dispatcher held
are aborted, with a cause that is left open. -/
def execRoleRestart (role place : Nat) (s : State) : Host.Outcome State Fault Refusal :=
  match s.roles.look role with
  | none => .next s
  | some code =>
    if s.gt < s.heartbeats.at role 0 + 1000000 ∨ (s.roles.look place).isSome ∨ place % 16 ≥ 4 ∨ !s.isEasel (place / 16) ∨ !isLittle (place / 16) then .next s
    else
      let (v, t) := s.draw
      let t := { t with roles := (t.roles.drop role).set place code, heartbeats := (t.heartbeats.drop role).set place t.gt, restarts := t.restarts ++ [(t.gt, code)] }
      let held := t.launches.filter (fun e => e.2.heldBy t (code % 16) (code / 16))
      .next (held.foldl (fun (u : State) (e : Nat × Launch) => u.push (.faultNotice e.1 u.gt (v % 2 ^ 32) (faultPlace (role / 16) (role % 16)))) t)

end Sys2Proof.Machine
end

