-- ==== Sys2Proof/Machine/Xmss.lean ====
section
/-!
DEFINITION. SHAKE256 and the signatures of R416: XMSS-SHAKE256_20_256 as RFC 8391 and NIST SP 800-208 define it, its public
keys, its signing and its verification. The algorithms are those two standards', which the specification names and does
not repeat (PRESUMED, assumption 17).
-/

namespace Sys2Proof.Machine

/-! ## SHAKE256 -/

/-- A 64-bit lane rotated left. -/
def laneRot (x n : Nat) : Nat := (x * 2 ^ n + x / 2 ^ (64 - n)) % 2 ^ 64

/-- The rotation of each lane, lane 5y + x. -/
def laneTurns : List Nat := [0, 1, 62, 28, 27, 36, 44, 6, 55, 20, 3, 10, 43, 25, 39, 41, 45, 15, 21, 8, 18, 2, 61, 56, 14]

/-- The round constants of Keccak-f[1600]. -/
def roundConsts : List Nat :=
  [0x0000000000000001, 0x0000000000008082, 0x800000000000808A, 0x8000000080008000, 0x000000000000808B, 0x0000000080000001,
   0x8000000080008081, 0x8000000000008009, 0x000000000000008A, 0x0000000000000088, 0x0000000080008009, 0x000000008000000A] ++
  [0x000000008000808B, 0x800000000000008B, 0x8000000000008089, 0x8000000000008003, 0x8000000000008002, 0x8000000000000080,
   0x000000000000800A, 0x800000008000000A, 0x8000000080008081, 0x8000000000008080, 0x0000000080000001, 0x8000000080008008]

/-- One round of Keccak-f[1600] over its 25 lanes. -/
def keccakRound (a : List Nat) (rc : Nat) : List Nat :=
  let at_ := fun (l : List Nat) (x y : Nat) => l[5 * (y % 5) + x % 5]?.getD 0
  let par := (List.range 5).map (fun x => at_ a x 0 ^^^ at_ a x 1 ^^^ at_ a x 2 ^^^ at_ a x 3 ^^^ at_ a x 4)
  let d := (List.range 5).map (fun x => par[(x + 4) % 5]?.getD 0 ^^^ laneRot (par[(x + 1) % 5]?.getD 0) 1)
  let t := (List.range 25).map (fun i => laneRot (a[i]?.getD 0 ^^^ d[i % 5]?.getD 0) (laneTurns[i]?.getD 0))
  let b := (List.range 25).map (fun i => at_ t (i % 5 + 3 * (i / 5)) (i % 5))
  (List.range 25).map (fun i =>
    let x := i % 5
    let y := i / 5
    at_ b x y ^^^ ((2 ^ 64 - 1 - at_ b (x + 1) y) &&& at_ b (x + 2) y) ^^^ (if i = 0 then rc else 0))

/-- Keccak-f[1600]. -/
def keccak (a : List Nat) : List Nat := roundConsts.foldl keccakRound a

/-- A message absorbed in blocks of 136 bytes. -/
def absorb : Nat → List Byte → List Nat → List Nat
  | 0, _, a => a
  | n + 1, m, a => absorb n (m.drop 136) (keccak ((List.range 25).map (fun i => a[i]?.getD 0 ^^^ leNat ((m.take 136).drop (8 * i) |>.take 8))))

/-- SHAKE256 with 32 bytes of output, R416. -/
def shake256 (m : List Byte) : List Byte :=
  let n := m.length / 136 + 1
  let pad := n * 136 - m.length
  let tail : List Byte := if pad = 1 then [0x9F] else [0x1F] ++ List.replicate (pad - 2) 0 ++ [0x80]
  (((absorb n (m ++ tail) (List.replicate 25 0)).take 4).flatMap (leBytes 8))

/-! ## The functions of XMSS with SHAKE256, n = 32, w = 16, h = 20 -/

/-- The first n bytes of a number, most significant first. -/
def beBytes (n x : Nat) : List Byte := (leBytes n x).reverse

/-- The keyed functions, by their number: 0 F, 1 H, 2 H_msg, 3 PRF, 4 PRF_keygen. -/
def keyed (f : Nat) (key m : List Byte) : List Byte := shake256 (beBytes 32 f ++ key ++ m)

/-- Two byte strings added without carry. -/
def xorBytes (a b : List Byte) : List Byte := List.zipWith (· ^^^ ·) a b

/-- An address: its type (0 a one-time key, 1 an L-tree, 2 the hash tree) and its last four words. -/
def hashAddr (kind a b c mask : Nat) : List Byte := beBytes 12 0 ++ (beBytes 4 kind ++ (beBytes 4 a ++ (beBytes 4 b ++ (beBytes 4 c ++ beBytes 4 mask))))

/-- A chain from its step i on, s steps. -/
def chain (seed : List Byte) (leaf j i : Nat) : Nat → List Byte → List Byte
  | 0, x => x
  | s + 1, x =>
    let prf := fun (mask : Nat) => keyed 3 seed (hashAddr 0 leaf j (i + s) mask)
    keyed 0 (prf 0) (xorBytes (chain seed leaf j i s x) (prf 1))

/-- Two nodes hashed to one. -/
def randHash (seed : List Byte) (kind a b c : Nat) (l r : List Byte) : List Byte :=
  let prf := fun (mask : Nat) => keyed 3 seed (hashAddr kind a b c mask)
  keyed 1 (prf 0) (xorBytes l (prf 1) ++ xorBytes r (prf 2))

/-- The 67 digits of a digest: its 64, the high one of each byte first, and the three of their sum. -/
def digits (m : List Byte) : List Nat :=
  let d := m.flatMap (fun b => [b.toNat / 16, b.toNat % 16])
  let sum := (d.map (fun x => 15 - x)).sum
  d ++ [sum / 256 % 16, sum / 16 % 16, sum % 16]

/-- One level of an L-tree: neighbours hashed, an odd last one passed on. -/
def ltreeLevel (seed : List Byte) (leaf h : Nat) : Nat → List (List Byte) → List (List Byte)
  | i, l :: r :: rest => randHash seed 1 leaf h i l r :: ltreeLevel seed leaf h (i + 1) rest
  | _, l => l

/-- The L-tree of a one-time public key: 67 nodes fall to one in 7 levels. -/
def ltree (seed : List Byte) (leaf : Nat) (pk : List (List Byte)) : List Byte :=
  ((List.range 7).foldl (fun l h => ltreeLevel seed leaf h 0 l) pk).headD []

/-- The node above a leaf's path: each level's other node is in a list, the lowest first. -/
def climb (seed : List Byte) (leaf : Nat) (auth : List (List Byte)) (node : List Byte) : List Byte :=
  (List.range auth.length).foldl (fun x k =>
    let y := auth[k]?.getD []
    let i := leaf / 2 ^ (k + 1)
    if leaf / 2 ^ k % 2 = 0 then randHash seed 2 0 k i x y else randHash seed 2 0 k i y x) node

/-- 32-byte strings out of a longer one. -/
def hashes (n : Nat) (l : List Byte) : List (List Byte) := (List.range n).map (fun i => (l.drop (32 * i)).take 32)

/-! ## Keys and signatures, R416 -/

/-- The OID that SP 800-208 gives XMSS-SHAKE256_20_256. -/
def xmssOid : Nat := 0x12

/-- The bytes of a signature. -/
def signatureBytes : Nat := 4 + 32 + (67 + 20) * 32

/-- Whether a signature over a message verifies under a 68-byte public key: the OID, a root and a seed. -/
def xmssVerify (key m sig : List Byte) : Bool :=
  let root := (key.drop 4).take 32
  let seed := key.drop 36
  let leaf := leNat (sig.take 4).reverse
  let digest := keyed 2 ((sig.drop 4).take 32 ++ root ++ beBytes 32 leaf) m
  let ots := hashes 67 (sig.drop 36)
  let pk := (List.range 67).map (fun j =>
    let d := (digits digest)[j]?.getD 0
    chain seed leaf j d (15 - d) (ots[j]?.getD []))
  key.length == 68 && key.take 4 == beBytes 4 xmssOid && sig.length == signatureBytes && decide (leaf < 2 ^ 20) &&
    climb seed leaf (hashes 20 (sig.drop 2180)) (ltree seed leaf pk) == root

/-- The private part of a key: the seed of its one-time keys, the seed of its randomness, and the public seed. -/
structure XmssSeeds where
  ots : List Byte
  rand : List Byte
  pub : List Byte

/-- The start of a chain of a leaf's one-time key. -/
def XmssSeeds.start (k : XmssSeeds) (leaf j : Nat) : List Byte := keyed 4 k.ots (k.pub ++ hashAddr 0 leaf j 0 0)

/-- A node of the hash tree, by its height and place. -/
def XmssSeeds.node (k : XmssSeeds) : Nat → Nat → List Byte
  | 0, i => ltree k.pub i ((List.range 67).map (fun j => chain k.pub i j 0 15 (k.start i j)))
  | h + 1, i => randHash k.pub 2 0 h i (k.node h (2 * i)) (k.node h (2 * i + 1))

/-- The public key. -/
def XmssSeeds.key (k : XmssSeeds) : List Byte := beBytes 4 xmssOid ++ k.node 20 0 ++ k.pub

/-- The signature with a leaf over a message. -/
def XmssSeeds.sign (k : XmssSeeds) (leaf : Nat) (m : List Byte) : List Byte :=
  let r := keyed 3 k.rand (beBytes 32 leaf)
  let d := digits (keyed 2 (r ++ k.node 20 0 ++ beBytes 32 leaf) m)
  beBytes 4 leaf ++ r ++ (List.range 67).flatMap (fun j => chain k.pub leaf j 0 (d[j]?.getD 0) (k.start leaf j)) ++
    (List.range 20).flatMap (fun h => k.node h (leaf / 2 ^ h ^^^ 1))

/-! ## The machine's keys, R417, R418 -/

/-- The vendor's key pair and the identity key's, R417, R418: their seeds are fixed at manufacture. -/
def vendorSeeds : XmssSeeds := ⟨leBytes 32 (Config.vendorSeed 0).toNat, leBytes 32 (Config.vendorSeed 1).toNat, leBytes 32 (Config.vendorSeed 2).toNat⟩
def identitySeeds : XmssSeeds := ⟨leBytes 32 (Config.identitySeed 0).toNat, leBytes 32 (Config.identitySeed 1).toNat, leBytes 32 (Config.identitySeed 2).toNat⟩

/-- The hash of the vendor's public key in the fuses, R417. -/
def fusedKeyHash : List Byte := shake256 vendorSeeds.key

/-- PARTNO and SERIAL, R390. -/
def partNumber : List Byte := ([0x4B, 0x4E, 0x34, 0x2D, 0x4D, 0x37, 0x36, 0x38] : List Byte) ++ leBytes 8 0
def serialBytes : List Byte := leBytes 16 Config.serialNumber

/-- The identity certificate, R418: the public key, and the vendor's signature over the part number, the serial number and that
key. -/
def identityCertificate : List Byte :=
  identitySeeds.key ++ vendorSeeds.sign Config.certLeaf (shake256 (partNumber ++ serialBytes ++ identitySeeds.key))

/-- The check of R417 that an image fails first: its vendor key's hash, its signature, its SVN. -/
def imageFault (img : List Byte) : Option Nat :=
  if shake256 (Config.imageKey img) ≠ fusedKeyHash then some 1
  else if !xmssVerify (Config.imageKey img) (shake256 (Config.imageBody img)) (Config.imageSignature img) then some 2
  else if Config.imageSvn img < Config.fusedMinSvn then some 3
  else none

/-- Whether an image passes the three checks of R417. -/
def imageOk (img : List Byte) : Bool := (imageFault img).isNone

end Sys2Proof.Machine
end

