-- ==== Sys2Proof/Machine/Lodjaup.lean ====
section
/-!
DEFINITION. The Ethernet port (R383), Lodjaup packets (R384), their sequence numbers and acknowledgements (R385), sessions
(R387), WRITE and READ (R386), and the two ICMPv6 answers.
-/

namespace Sys2Proof.Machine

/-! ## Headers, R384 -/

/-- The kinds of R384. -/
def kWrite : Nat := 0
def kRead : Nat := 1
def kRdata : Nat := 2
def kAck : Nat := 3
def kNak : Nat := 4
def kCompl : Nat := 5
def kAttest : Nat := 6
def kIdent : Nat := 7
def kRecover : Nat := 8
def kMgmt : Nat := 9

/-- A Lodjaup packet with its header read. -/
structure LPacket where
  kind : Nat
  now : Bool
  session : Nat
  psn : Nat
  apsn : Nat
  body : List Byte
  deriving DecidableEq, Repr

/-- The longest UDP payload: a frame of 9,216 bytes with its Ethernet, IPv6 and UDP headers and check sequence, R383. -/
def maxPayload : Nat := 9216 - 66

/-- A packet whose header is right, R384; none is dropped without an answer. -/
def parsePacket (l : List Byte) : Option LPacket :=
  let b0 := leAt l 0 1
  let kind := b0 % 16
  if l.length < 32 ∨ l.length > maxPayload ∨ b0 / 16 ≠ 1 ∨ kind > 9 ∨ leAt l 1 1 > 1 ∨ leAt l 12 2 ≠ l.length - 32 ∨ leAt l 14 18 ≠ 0 then none
  else some { kind := kind, now := leAt l 1 1 == 1, session := leAt l 2 2, psn := leAt l 4 4, apsn := leAt l 8 4, body := l.drop 32 }

/-- The header of a packet that the device sends. -/
def header (kind session psn apsn plen : Nat) : List Byte :=
  leBytes 1 (16 + kind) ++ leBytes 1 0 ++ leBytes 2 session ++ leBytes 4 psn ++ leBytes 4 apsn ++ leBytes 2 plen ++ leBytes 18 0

/-- The bytes of a frame with its Ethernet, IPv6 and UDP headers and its check sequence. -/
def frameBytes (f : Frame) : Nat := f.data.length + (if f.proto = 17 then 66 else 58)

/-- Whether the port lets a frame pass, R383: at most 9,216 bytes, IPv6 without a fragment or extension header, and UDP with a
checksum to the port that NET names, or an ICMPv6 message; at the port's own address, which in recovery is the link-local one
(R423), where an ICMPv6 message may also come to a multicast address. -/
def State.portTakes (s : State) (f : Frame) (icmp : Bool) : Bool :=
  f.ipv6 && !f.extended && decide (frameBytes f ≤ 9216) && (if icmp then f.proto == 58 else f.proto == 17 && f.checksum != 0 && f.port.getD s.table.udp == s.table.udp) &&
    f.dst.all (fun d => d == s.table.addr || (icmp && decide (d / 2 ^ 120 = 0xFF)))

/-- The Lodjaup packet that a frame brings past the port. -/
def State.arrived (s : State) (f : Frame) : Option LPacket := if s.portTakes f false then parsePacket f.data else none

/-! ## Sessions and streams, R385, R387 -/

/-- The context of a session: session 0 is that of the host context. -/
def State.sessionCtx (s : State) (n : Nat) : Option Nat :=
  if n = 0 then some s.hostCtx else (s.sessions.look n).map (·.ctx)

/-- The stream of a session and an address, where the session admits the address: session 0 and every session of the host
context take management source addresses alone, R386, R387. In recovery every address has a stream, R423. -/
def State.peer (s : State) (n addr : Nat) : Option Peer :=
  let mgmt := s.table.mgmt.contains addr
  if n = 0 ∨ s.boot = .recovery then
    if mgmt ∨ s.boot = .recovery then some ((s.managers.find? (fun p => p.addr == addr)).getD { addr := addr }) else none
  else match s.sessions.look n with
    | none => none
    | some x => if x.peer.addr = addr ∧ (x.ctx ≠ s.hostCtx ∨ mgmt) then some x.peer else none

/-- A stream replaced. -/
def State.setPeer (s : State) (n : Nat) (p : Peer) : State :=
  if n = 0 ∨ s.boot = .recovery then { s with managers := s.managers.filter (fun q => q.addr != p.addr) ++ [p] }
  else match s.sessions.look n with
    | none => s
    | some x => { s with sessions := s.sessions.set n { x with peer := p } }

/-- A frame leaves the port; its address is that of the host it goes to. -/
def State.emit (s : State) (addr : Nat) (data : List Byte) : State := { s with sentFrames := s.sentFrames ++ [{ src := addr, data := data }] }

/-- An ACK or NAK, which carries no number of its own, R385; it covers every packet accepted so far. -/
def State.sendCtl (s : State) (kind n : Nat) (p : Peer) (body : List Byte) : State :=
  (s.setPeer n { p with owesAck := false }).emit p.addr (header kind n 0 p.expect body.length ++ body)

/-- A packet of the device's own stream, kept until it is acknowledged, R385. -/
def State.sendData (s : State) (kind n addr : Nat) (body : List Byte) : State :=
  match s.peer n addr with
  | none => s
  | some p =>
    let data := header kind n p.next 0 body.length ++ body
    (s.setPeer n { p with next := (p.next + 1) % 2 ^ 32, unacked := p.unacked ++ [⟨p.next, data⟩], since := if p.unacked.isEmpty then s.gt else p.since }).emit addr data

/-- What becomes of a packet on its arrival: dropped, answered for its number alone, or accepted. -/
inductive Admitted where
  | other
  | turned (s : State)
  | taken (h : LPacket) (s : State)

/-- The admission of a sequenced packet of one kind, R384, R385, R387: `ok` says whether the table of R387 admits it. An
accepted packet is acknowledged at once when it asks for that. -/
def State.takePacket (s : State) (f : Frame) (kind : Nat) (ok : LPacket → Bool) : Admitted :=
  match s.arrived f with
  | none => .other
  | some h =>
    let up : Bool := (match s.boot with
      | .service => kind != kRecover
      | .recovery => kind == kRecover
      | _ => false)
    match (if up then s.peer h.session f.src else none) with
    | none => .other
    | some p =>
      if h.kind ≠ kind ∨ !ok h then .other
      else
        let ahead := (h.psn + 2 ^ 32 - p.expect) % 2 ^ 32
        if ahead = 0 then
          let q := { p with expect := (p.expect + 1) % 2 ^ 32, owesAck := true }
          .taken h (if h.now then s.sendCtl kAck h.session q [] else (s.setPeer h.session q).push (.ackDue h.session f.src))
        else .turned (s.sendCtl (if ahead < 2 ^ 31 then kNak else kAck) h.session p [])

/-- An acknowledgement that is due within 10 microseconds, R385. -/
def execAckDue (session peer : Nat) (s : State) : Host.Outcome State Fault Refusal :=
  let done := s.did (.ackDue session peer)
  match done.peer session peer with
  | none => .next done
  | some p => .next (if p.owesAck then done.sendCtl kAck session p [] else done)

/-- The device's packets that the host has received, R385: every one below a number; the time without an acknowledgement starts anew.
-/
def Peer.acked (p : Peer) (apsn gt : Nat) : Peer :=
  { p with since := gt, unacked := p.unacked.filter (fun d => decide ((d.psn + 2 ^ 32 - apsn) % 2 ^ 32 < 2 ^ 31)) }

/-- Whether an acknowledgement's number can be: not beyond the next packet to send. -/
def Peer.mayAck (p : Peer) (apsn : Nat) : Bool := decide ((p.next + 2 ^ 32 - apsn) % 2 ^ 32 < 2 ^ 31)

/-- Every unacknowledged packet sent again in order, R385. -/
def State.resend (s : State) (p : Peer) : State := p.unacked.foldl (fun t d => t.emit p.addr d.data) s

/-- A host's ACK or NAK: its stream, R385, R387. -/
def State.controlFrame (s : State) (f : Frame) (kind : Nat) : Option (LPacket × Peer) :=
  match s.arrived f with
  | none => none
  | some h =>
    if h.kind ≠ kind ∨ h.psn ≠ 0 ∨ (s.boot ≠ .service ∧ s.boot ≠ .recovery) then none
    else (s.peer h.session f.src).map (fun p => (h, p))

/-- A host ACK, R385; in recovery it also lets the reset of R392 follow. -/
def execLodjaupAck (f : Frame) (s : State) : Host.Outcome State Fault Refusal :=
  match s.controlFrame f kAck with
  | none => .next s
  | some (h, p) => .next (if p.mayAck h.apsn then s.setPeer h.session (p.acked h.apsn s.gt) else s)

/-- A host NAK, R385. -/
def execLodjaupNak (f : Frame) (s : State) : Host.Outcome State Fault Refusal :=
  match s.controlFrame f kNak with
  | none => .next s
  | some (h, p) =>
    if p.mayAck h.apsn then
      let q := p.acked h.apsn s.gt
      .next ((s.setPeer h.session q).resend q)
    else .next s

/-- 200 microseconds without an acknowledgement, R385: once they have passed, every packet not acknowledged is sent again. -/
def execDeviceResendTimeout (session peer : Nat) (s : State) : Host.Outcome State Fault Refusal :=
  match s.peer session peer with
  | none => .next s
  | some p =>
    if p.unacked.isEmpty ∨ s.gt < p.since + 200000 then .next s
    else .next ((s.setPeer session { p with since := s.gt }).resend p)

/-! ## WRITE and READ, R386 -/

/-- The access of a session's port agent: its context, in the port's world, R386. -/
def State.portAccess (s : State) (ctx : Nat) : Access := ⟨s.roleCore 1, ctx, (s.ctx ctx).part, s.securePort, false, .port ctx⟩

/-- Whether a range lies in a window of the session with the permission, R386. -/
def Session.allows (x : Session) (wr : Bool) (va n : Nat) : Bool :=
  x.windows.any (fun w => (if wr then w.2.wr else w.2.rd) && decide (w.2.va ≤ va) && decide (va + n ≤ w.2.va + w.2.len))

/-- The items of a WRITE payload, R386: address and data; none where the payload is malformed. -/
def parseItems : Nat → List Byte → Option (List (Nat × List Byte))
  | 0, l => if l.isEmpty then some [] else none
  | f + 1, l =>
    if l.isEmpty then some []
    else
      let n := leAt l 8 4
      let pad := (n + 7) / 8 * 8
      if l.length < 16 + pad ∨ n = 0 ∨ n > 8192 ∨ leAt l 12 4 ≠ 0 then none
      else (parseItems f (l.drop (16 + pad))).map (fun r => (leAt l 0 8, (l.drop 16).take n) :: r)

/-- An item performed whole, or its code: outside the windows an access fault, R386. -/
def State.writeItem (s : State) (x : Session) (va : Nat) (d : List Byte) : Option Nat × State :=
  if !x.allows true va d.length then (some causeAccess, s)
  else match s.reachRun (s.portAccess x.ctx) true true va d.length with
    | (.error c, t) => (some c, t)
    | (.ok l, t) => (none, t.writeRun va d l)

/-- The items of a packet in order: after the first that fails or has to wait, its index and code. -/
def State.writeItems (s : State) (x : Session) : Nat → List (Nat × List Byte) → Option (Nat × Nat) × State
  | _, [] => (none, s)
  | k, (va, d) :: r => match s.writeItem x va d with
    | (some c, t) => (some (k, c), t)
    | (none, t) => t.writeItems x (k + 1) r

/-- A NAK of R386 with the item's index and the cause. -/
def State.nakItem (s : State) (n addr item cause : Nat) : State :=
  match s.peer n addr with
  | none => s
  | some p => s.sendCtl kNak n p (leBytes 4 item ++ leBytes 4 cause)

/-- Whether the port's block runs a context's world, R413. -/
def State.portWorldOk (s : State) (ctx : Nat) : Bool := (s.ctx ctx).s == s.securePort

/-- The arrival of a WRITE or READ packet, or its next turn with the index of its next item where the port agent had to wait, R204,
R195. -/
def State.portTurn (s : State) (f : Frame) (ev : Instr) (kind : Nat) (ok : LPacket → Bool) : Admitted × Nat :=
  match s.portWork.find? (fun e => e.1 == f), parsePacket f.data with
  | some e, some h =>
    if h.kind = kind then (.taken h { s.did ev with portWork := s.portWork.erase e }, e.2) else (s.takePacket f kind ok, 0)
  | _, _ => (s.takePacket f kind ok, 0)

/-- The port agent waits with a packet's item. -/
def State.portWaits (s : State) (f : Frame) (ev : Instr) (item : Nat) : State := { s with portWork := s.portWork ++ [(f, item)] }.push ev

/-- A WRITE packet, R386: its items in order from its acceptance on, each as soon as its translations are there and its home slices
take it. R255 promises no order between packets (DESIGN CHOICE, assumption 101). -/
def execLodjaupWrite (f : Frame) (s : State) : Host.Outcome State Fault Refusal :=
  let ev := Instr.lodjaupWrite f
  match s.portTurn f ev kWrite (fun h => h.session != 0 && (parseItems h.body.length h.body).isSome) with
  | (.other, _) => .next s
  | (.turned t, _) => .next t
  | (.taken h t, i) => match t.sessions.look h.session, parseItems h.body.length h.body with
    | some x, some items =>
      if !t.portWorldOk x.ctx then .next (t.nakItem h.session f.src 0 causeAccess)
      else
        let (bad, u) := t.writeItems x i (items.drop i)
        match bad with
        | none => .next u
        | some (k, c) => .next (if c = notYet then u.portWaits f ev k else u.nakItem h.session f.src k c)
    | _, _ => .next t

/-- Bytes padded to a multiple of 8. -/
def padded8 (l : List Byte) : List Byte := l ++ List.replicate ((8 - l.length % 8) % 8) 0

/-- A READ packet, R386: answered by RDATA. -/
def execLodjaupRead (f : Frame) (s : State) : Host.Outcome State Fault Refusal :=
  let ev := Instr.lodjaupRead f
  match s.portTurn f ev kRead (fun h => h.session != 0 && h.body.length == 16 && decide (leAt h.body 8 4 ≥ 1) &&
      decide (leAt h.body 8 4 ≤ 8192) && leAt h.body 12 4 == 0) with
  | (.other, _) => .next s
  | (.turned t, _) => .next t
  | (.taken h t, _) => match t.sessions.look h.session with
    | none => .next t
    | some x =>
      let va := leAt h.body 0 8
      let n := leAt h.body 8 4
      if !t.portWorldOk x.ctx ∨ !x.allows false va n then .next (t.nakItem h.session f.src 0 causeAccess)
      else match t.reachRun (t.portAccess x.ctx) false true va n with
        | (.error c, u) => .next (if c = notYet then u.portWaits f ev 0 else u.nakItem h.session f.src 0 c)
        | (.ok l, u) =>
          if u.badRun l then .next (u.nakItem h.session f.src 0 causeData)
          else .next (u.sendData kRdata h.session f.src (leBytes 8 va ++ leBytes 4 n ++ leBytes 4 0 ++ padded8 (u.readRun l)))

/-! ## MGMT answers, R388 -/

/-- The answer to a MGMT request, R388. -/
def State.mgmtAnswer (s : State) (session addr op status reqid : Nat) (results : List Byte) : State :=
  s.sendData kMgmt session addr (leBytes 1 op ++ leBytes 1 status ++ leBytes 2 0 ++ leBytes 4 reqid ++ results)

/-! ## ICMPv6, R383 -/

/-- The one's complement sum of 16-bit words in network order. -/
def onesSum (l : List Byte) : Nat :=
  (List.range ((l.length + 1) / 2)).foldl (fun a i =>
    let v := a + ((l[2 * i]?).getD 0).toNat * 256 + ((l[2 * i + 1]?).getD 0).toNat
    v % 65536 + v / 65536) 0

/-- The ICMPv6 checksum of a message between two addresses. -/
def icmpSum (src dst : Nat) (l : List Byte) : Nat :=
  65535 - onesSum (beBytes 16 src ++ beBytes 16 dst ++ beBytes 4 l.length ++ beBytes 4 58 ++ l)

/-- An ICMPv6 message with its checksum in place. -/
def icmp (src dst type : Nat) (rest : List Byte) : List Byte :=
  let zero := leBytes 1 type ++ leBytes 3 0 ++ rest
  leBytes 1 type ++ leBytes 1 0 ++ beBytes 2 (icmpSum src dst zero) ++ rest

/-- A Neighbor Solicitation for the device's address is answered with its MAC address, R383. -/
def execNeighborSolicitation (f : Frame) (s : State) : Host.Outcome State Fault Refusal :=
  let mine := beBytes 16 s.table.addr
  if s.boot = .service ∧ s.portTakes f true ∧ leAt f.data 0 2 = 135 ∧ f.data.length ≥ 24 ∧ (f.data.drop 8).take 16 = mine then
    .next (s.emit f.src (icmp s.table.addr f.src 136 (beBytes 4 0x60000000 ++ mine ++ leBytes 1 2 ++ leBytes 1 1 ++ beBytes 6 s.table.mac)))
  else .next s

/-- An Echo Request is answered with its own data, R383. -/
def execEchoRequest (f : Frame) (s : State) : Host.Outcome State Fault Refusal :=
  if s.boot = .service ∧ s.portTakes f true ∧ leAt f.data 0 2 = 128 ∧ f.data.length ≥ 8 then
    .next (s.emit f.src (icmp s.table.addr f.src 129 (f.data.drop 4)))
  else .next s

end Sys2Proof.Machine
end

