-- ==== Sys2Proof/Machine/Pod.lean ====
section
/-!
DEFINITION. The pod: pod grids at their devices and at the pod root (R405, R406, R408, R409, R412), the pod context table
(R393), and what else reaches this device over the links (R275).
-/

namespace Sys2Proof.Machine

/-- A message of the pod's business, taken from the messages that have arrived. -/
def State.podMsg (s : State) (k : Nat) : Option (PodMsg × State) :=
  (s.podIn.look k).map (fun m => (m, { s with podIn := s.podIn.drop k }))

/-! ## Dispatch, R406 -/

/-- Step 2 reaches a device: its part of the grid joins the launch queue; after a stop that came first it deals nothing and
takes part in the sweeps, R412. -/
def execPodDispatch (msg : Nat) (s : State) : Host.Outcome State Fault Refusal :=
  let done := s.did (.podDispatch msg)
  match done.podMsg msg with
  | none => .next done
  | some (m, t) => match m.body with
    | .dispatch root seq _ lr ctx part world am =>
      let (id, t) := t.fresh
      let l : Launch := { lid := 256, lr := lr, ctx := ctx, part := part, world := world, podRoot := some (root, seq),
                          held := am == 1, nextMsg := min am 1 }
      if t.podStops.contains (root, seq) then
        let t := { t with podStops := t.podStops.erase (root, seq), launches := t.launches.set id { l with root := .none, draining := true } }
        .next (t.push (.quiescenceSweep id 16384))
      else .next (({ t with launches := t.launches.set id l, launchq := t.launchq ++ [id] } : State).push (.launchClaim id))
    | _ => .next t

/-- Steps 3 and 4 at the pod root: once every device has answered, the map of the local identities goes to each. A device
on which the grid's gangs fit nowhere ends it with status 3, R141. -/
def execPodClaimed (msg : Nat) (s : State) : Host.Outcome State Fault Refusal :=
  let done := s.did (.podClaimed msg)
  match done.podMsg msg with
  | none => .next done
  | some (m, t) => match m.body with
    | .claimed seq rank lid => match t.podRecord seq with
      | none => .next t
      | some (id, l) =>
        let l := { l with podClaims := l.podClaims.set rank lid }
        let devs := List.range (l.lr.ndev + 1)
        if lid ≥ 256 ∧ !l.aborting ∧ !l.draining then
          let l := { l with status := 3, draining := true }
          .next ({ t with launches := t.launches.set id l }.sendStop id l (fun k => .cancel id k))
        else if devs.all (fun r => (l.podClaims.look r).isSome) ∧ !l.podMap then
          let lids := devs.map (fun r => l.podClaims.at r 0)
          let t := { t with launches := t.launches.set id { l with podMap := true, root := .none } }
          .next (devs.foldl (fun u r => u.podSend (l.lr.dev0 + r) (.lidMap t.table.devnum seq lids)) t)
        else .next { t with launches := t.launches.set id l }
    | _ => .next t

/-- Step 5 at a device: with the map it deals or sends. -/
def execPodLidMap (msg : Nat) (s : State) : Host.Outcome State Fault Refusal :=
  let done := s.did (.podLidMap msg)
  match done.podMsg msg with
  | none => .next done
  | some (m, t) => match m.body with
    | .lidMap root seq lids => match t.podPart root seq with
      | none => .next t
      | some (id, l) =>
        let l1 := { l with podMap := true, podLids := lids }
        let t := { t with launches := t.launches.set id l1 }
        .next (if l.root = .dealing ∧ !l.podMap then t.beginLaunch id l1 else t)
    | _ => .next t

/-! ## Sweeps and the end, R408 -/

/-- A report of the tree: at the pod root the table of R146 on the pod totals, and END once it gives ENDED; at a device, its
child's report kept for its own next total. -/
def execPodSweepReport (msg : Nat) (s : State) : Host.Outcome State Fault Refusal :=
  let done := s.did (.podSweepReport msg)
  match done.podMsg msg with
  | none => .next done
  | some (m, t) => match m.body with
    | .sweep root seq rank sent rcvd idle =>
      if rank = 0 then
        match (if root = t.table.devnum then t.podRecord seq else none) with
        | none => .next t
        | some (id, l) =>
          let sent := (sent + (t.cores.map (fun e => e.2.sent.at (256 + id) 0)).sum) % 2 ^ 32
          let now := if l.root = .dealing ∧ (l.aborting ∨ l.draining) then Root.none else l.root
          let r := now.swept (idle && sent == rcvd) sent
          if r = .ended ∧ !l.podEnded then
            let t := { t with launches := t.launches.set id { l with podEnded := true } }
            .next ((List.range (l.lr.ndev + 1)).foldl (fun u k => u.podSend (l.lr.dev0 + k) (.finish t.table.devnum seq l.status)) t)
          else .next { t with launches := t.launches.set id { l with root := if l.podEnded then l.root else r } }
      else
        match t.podPart root seq with
        | none => .next t
        | some (id, l) => .next { t with launches := t.launches.set id { l with kids := l.kids.set rank (sent, rcvd, idle) } }
    | _ => .next t

/-- Counts added, R408: the first fault is that of the least GT, then of the least device, R401. -/
def PodCounts.add (a b : PodCounts) : PodCounts :=
  let first := if b.fcount = 0 then a else if a.fcount = 0 then b
    else if b.fgt < a.fgt ∨ (b.fgt = a.fgt ∧ b.fdev < a.fdev) then b else a
  { dealt := a.dealt + b.dealt, tasks := a.tasks + b.tasks, finished := a.finished + b.finished, killed := a.killed + b.killed,
    fcount := a.fcount + b.fcount, fgt := first.fgt, fcause := first.fcause, fdev := first.fdev, each := a.each ++ b.each }

/-- A part's own counts. -/
def State.ownCounts (s : State) (l : Launch) : PodCounts :=
  { dealt := l.dealt, tasks := l.tasks, finished := l.finished, killed := l.killed, fcount := l.fcount, fgt := l.fgt,
    fcause := l.fcause, fdev := s.table.devnum, each := [(s.table.devnum - l.lr.dev0, l.fcount)] }

/-- A part that END has reached reports its counts up the tree once its children have reported theirs, and is gone. -/
def State.podReport (s : State) (id : Nat) : State :=
  match s.launches.look id with
  | none => s
  | some l => match l.podRoot with
    | none => s
    | some (dev, seq) =>
      let rank := s.table.devnum - l.lr.dev0
      let below := (List.range 8).map (fun i => 8 * rank + 1 + i) |>.filter (fun r => decide (r ≤ l.lr.ndev))
      if !l.podEnded ∨ l.root = .ended ∨ below.any (fun r => (l.kidCounts.look r).isNone) then s
      else
        let c := (l.kidCounts.map (·.2)).foldl PodCounts.add (s.ownCounts l)
        (s.endLaunch id [] {}).podSend (if rank = 0 then dev else l.lr.dev0 + (rank - 1) / 8) (.counts dev seq rank c)

/-- END reaches a device, R408 step 1: steps 1 to 3 of R147, and its counts. -/
def execPodEnd (msg : Nat) (s : State) : Host.Outcome State Fault Refusal :=
  let done := s.did (.podEnd msg)
  match done.podMsg msg with
  | none => .next done
  | some (m, t) => match m.body with
    | .finish root seq status => match t.podPart root seq with
      | none => .next t
      | some (id, l) =>
        let u := t.releaseLaunch id l
        .next ({ u with launches := u.launches.set id { l with podEnded := true, claimed := [], status := status } }.podReport id)
    | _ => .next t

/-- Counts come up the tree: at the pod root, steps 2 and 3 of R408. -/
def execPodEndReport (msg : Nat) (s : State) : Host.Outcome State Fault Refusal :=
  let done := s.did (.podEndReport msg)
  match done.podMsg msg with
  | none => .next done
  | some (m, t) => match m.body with
    | .counts root seq rank c =>
      if rank = 0 then
        match (if root = t.table.devnum then t.podRecord seq else none) with
        | none => .next t
        | some (id, l) =>
          let l := { l with dealt := c.dealt, tasks := c.tasks, finished := c.finished, killed := c.killed, fcount := c.fcount,
                            fgt := c.fgt, fcause := c.fcause }
          let c := if c.fcount = 0 then { c with fdev := 0 } else c
          s.whenPlaced id l (fun p u =>
            ({ u.did (.podEndReport msg) with podIn := u.podIn.drop msg, launches := u.launches.set id l } : State).endLaunch id p c)
      else
        match t.podPart root seq with
        | none => .next t
        | some (id, l) =>
          .next ({ t with launches := t.launches.set id { l with kidCounts := l.kidCounts.set rank c } }.podReport id)
    | _ => .next t

/-! ## The pod context table, R393 -/

/-- Whether another entry can be recorded: the table holds 64. -/
def State.podRoom (s : State) : Bool := decide (s.podTable.length < 64)

/-- The entries left once those of a context, or one of a registration, are removed. -/
def unregister (l : List PodEntry) (ctx : Nat) : Option (Nat × Nat) → List PodEntry
  | none => l.filter (fun e => e.ctx != ctx)
  | some (dev0, ndev) => l.erase { ctx := ctx, dev0 := dev0, ndev := ndev }

/-- REG reaches a device, R393 step 3. -/
def execPodReg (msg : Nat) (s : State) : Host.Outcome State Fault Refusal :=
  let done := s.did (.podReg msg)
  match done.podMsg msg with
  | none => .next done
  | some (m, t) => match m.body with
    | .reg ctx part world dev0 ndev =>
      let held : Bool := (match t.ctxs.look ctx with
        | some k => k.part == part && k.s == world
        | none => false)
      let cause := if !held then 5 else if t.podRoom then 0 else 3
      let t := if cause = 0 then { t with podTable := t.podTable ++ [{ ctx := ctx, dev0 := dev0, ndev := ndev }] } else t
      .next (t.podSend m.src (.regAnswer ctx t.table.devnum cause))
    | _ => .next t

/-- An entry removed, R393. -/
def execPodUnreg (msg : Nat) (s : State) : Host.Outcome State Fault Refusal :=
  let done := s.did (.podUnreg msg)
  match done.podMsg msg with
  | none => .next done
  | some (m, t) => match m.body with
    | .unreg ctx only => .next { t with podTable := unregister t.podTable ctx only }
    | _ => .next t

/-! ## Other messages of the links -/

/-- Bytes that a copy engine of another device stores in local storage of this one, R275: in a core of the secure world for a job
of that world under PERM.WRLD alone, R415. -/
def State.farWrite (s : State) (x n mask d : Nat) (world wrld : Bool) : State :=
  let c := bits x 49 36
  match s.localPlace ⟨c, 0, 0, false, false, .port 0⟩ { x := x, n := n, align := 1, rd := false, wr := true } with
  | .ok k => if s.worldCore c ∧ !(world ∧ wrld) then s else s.writeMem k n mask d
  | .error _ => s

/-- A message of the pod's business arrives from another device. -/
def State.podArrives (s : State) (m : PodMsg) : State :=
  match m.body with
  | .stop root seq kill => s.stopPart root seq kill
  | .write x n m d w k => s.farWrite x n m d w k
  | .cancel h mode => match s.launchNamed h with
    | some (id, _) => s.push (.cancelDecision id mode)
    | none => s
  | _ => s.podTake m

end Sys2Proof.Machine
end

