-- ==== Sys2Proof/Machine/Mgmt.lean ====
section
/-!
DEFINITION. Management (R388, R389), the identity record and attestation (R390, R391, R416 to R420), the firmware image
(R421, R422) with its recovery (R392, R423), and a column's coming up, on which PARTCORES may wait (R367).
-/

namespace Sys2Proof.Machine

/-! ## Requests, R388 -/

/-- The operation of a MGMT payload. -/
def LPacket.op (h : LPacket) : Nat := leAt h.body 0 1

/-- The answer to a request, with a status and results. -/
def State.reply (s : State) (h : LPacket) (addr status : Nat) (results : List Byte) : State :=
  s.mgmtAnswer h.session addr h.op status (leAt h.body 4 4) results

/-- Whether every byte that an operation does not name is zero. -/
def zeroBut (named : List (Nat × Nat)) (l : List Byte) : Bool :=
  (List.range l.length).all (fun i => named.any (fun r => decide (r.1 ≤ i) && decide (i < r.1 + r.2)) || l[i]?.getD 0 == 0)

/-- A frame that carries a MGMT packet of one operation, or of none that R389 lists. -/
def mgmtFor (op : Nat) (h : LPacket) : Bool := h.op == op || h.op == 0 || decide (h.op > 15)

/-- Whether an accepted request of a source is not done yet, R388: a PARTCORES, a QEND or a PODREG that waits. -/
def State.mgmtBusy (s : State) (src : Nat) : Bool :=
  s.opening.any (fun f => f.src == src) || s.registering.any (fun r => r.peer == src) ||
    s.queues.any (fun q => (q.2.ending.map (·.1)) == some src)

/-- What a request that is accepted does: an unknown operation or a stray byte is answered with status 1, R388. -/
def State.mgmtDo (s : State) (f : Frame) (op : Nat) (named : List (Nat × Nat)) (act : LPacket → State → State) (h : LPacket) : State :=
  if h.op ≠ op ∨ !zeroBut ([(0, 1), (4, 4)] ++ named) h.body then s.reply h f.src 1 [] else act h s

/-- Whether a request that waits is the next of its source. -/
def State.mgmtFree (s : State) (f : Frame) : Bool := !s.mgmtBusy f.src && (s.waiting.find? (fun g => g.src == f.src)) == some f

/-- A packet that comes again while the request that it brought waits is acknowledged again, R385. -/
def State.reAck (s : State) (f : Frame) : State :=
  match s.takePacket f kMgmt (fun _ => true) with
  | .turned t => t
  | _ => s

/-- A MGMT request, R387, R388: on a session other than 0 it is answered with status 4 and takes no number; on session 0 it is
performed in the order of its source, behind a request of the same source that still waits. -/
def State.mgmt (s : State) (f : Frame) (op : Nat) (named : List (Nat × Nat)) (act : LPacket → State → State) :
    Host.Outcome State Fault Refusal :=
  let other : Option LPacket := (match s.arrived f with
    | some h => if h.kind = kMgmt ∧ h.session ≠ 0 ∧ mgmtFor op h ∧ s.boot = .service ∧ (s.peer h.session f.src).isSome then some h else none
    | none => none)
  match other with
  | some h => .next (s.reply h f.src 4 [])
  | none => match (if s.waiting.contains f then parsePacket f.data else none) with
    | some h =>
      if !s.mgmtFree f then .next (s.reAck f)
      else .next (({ s with waiting := s.waiting.erase f } : State).mgmtDo f op named act h)
    | none => match s.takePacket f kMgmt (fun h => h.session == 0 && mgmtFor op h) with
      | .other => .next s
      | .turned t => .next t
      | .taken h t =>
        if t.mgmtBusy f.src ∨ t.waiting.any (fun g => g.src == f.src) then .next { t with waiting := t.waiting ++ [f] }
        else .next (t.mgmtDo f op named act h)

/-! ## Context records, R316 -/

/-- The fields of a record's 128 bytes. A capability of the record counts as tagged where it is not zero. -/
def Ctx.ofRecord (x : Nat) : Ctx :=
  let cap := fun (v : Nat) => if v = 0 then none else some (BitVec.ofNat 128 v)
  { wdog := bits x 943 936, tsz := bits x 931 928, lease := bits x 924 920, s := bit x 916, part := bits x 915 912,
    accsave := BitVec.ofNat 64 (bits x 895 832), tvec := BitVec.ofNat 64 (bits x 831 768), tstk := cap (bits x 767 640),
    tcode := cap (bits x 639 512), roots := (List.range 8).map (fun i => BitVec.ofNat 64 (bits x (64 * i + 63) (64 * i))) }

/-- A record's 128 bytes as a number. -/
def Ctx.record (k : Ctx) (n : Nat) : Nat :=
  let cap := fun (c : Option CapBits) => (match c with
    | some b => b.toNat
    | none => 0)
  packList 64 (k.roots.map (·.toNat)) + 2 ^ 512 * (cap k.tcode + 2 ^ 128 * (cap k.tstk + 2 ^ 128 * (k.tvec.toNat + 2 ^ 64 * (k.accsave.toNat +
    2 ^ 64 * (n + 2 ^ 16 * (k.part + 2 ^ 4 * (b2n k.s + 2 ^ 4 * (k.lease + 2 ^ 8 * (k.tsz + 2 ^ 8 * k.wdog)))))))))

/-- A root descriptor as R199 allows it. -/
def rootOk (w : Nat) : Bool := bits w 62 54 == 0 && bits w 7 0 == 0 && (!bit w 63 || (decide (35 ≤ bits w 53 48) && decide (bits w 53 48 ≤ 57)))

/-- Whether the easel accepts a record, R316. -/
def recordOk (x : Nat) : Bool :=
  let k := Ctx.ofRecord x
  bits x 1023 944 == 0 && bits x 935 932 == 0 && bits x 927 925 == 0 && bits x 919 917 == 0 && bits x 911 896 != 0 &&
    (k.wdog == 0 || (decide (16 ≤ k.wdog) && decide (k.wdog ≤ 40))) && decide (10 ≤ k.tsz) && decide (k.tsz ≤ 16) &&
    decide (16 ≤ k.lease) && decide (k.lease ≤ 30) && k.roots.all (fun r => rootOk r.toNat) &&
    (k.tvec == 0 || (k.tcode.isSome && k.tstk.isSome))

/-- MGMT CTXNEW, R316, R389. -/
def execMgmtCtxnew (f : Frame) (s : State) : Host.Outcome State Fault Refusal :=
  s.mgmt f 1 [(8, 128)] (fun h t =>
    let x := leAt h.body 8 128
    let n := bits x 911 896
    if !recordOk x then t.reply h f.src 2 []
    else if (t.ctxs.look n).isSome then t.reply h f.src 6 []
    else ({ t with ctxs := t.ctxs.set n (Ctx.ofRecord x) } : State).reply h f.src 0 [])

/-- Whether a context is in use, R389. -/
def State.ctxBusy (s : State) (n : Nat) : Bool :=
  n == s.hostCtx || s.launches.any (fun l => l.2.ctx == n && l.2.root != .ended) || s.queues.any (fun q => q.2.ctx == n) ||
    s.sessions.any (fun x => x.2.ctx == n) || s.podTable.any (fun e => e.ctx == n)

/-- MGMT CTXEND, R389: the record and its cores' copies of it are gone. -/
def execMgmtCtxend (f : Frame) (s : State) : Host.Outcome State Fault Refusal :=
  s.mgmt f 2 [(8, 2)] (fun h t =>
    let n := leAt h.body 8 2
    if (t.ctxs.look n).isNone then t.reply h f.src 5 []
    else if t.ctxBusy n then t.reply h f.src 6 []
    else (({ t with ctxs := t.ctxs.drop n } : State).mapCores (fun _ k => { k with tvec := k.tvec.drop n })).reply h f.src 0 [])

/-! ## Partitions, R389 -/

/-- The cores that a PARTCORES request names on a plate: little cores of a rectangle of nodes, and big cores. -/
def namedCores (b : List Byte) (p : Nat) : List Nat :=
  let o := 16 + 8 * p
  let w := leAt b (o + 2) 1
  let h := leAt b (o + 3) 1
  let littles := (List.range (4 * w * h)).map (fun i => coreId p (leAt b o 1 + i / 4 % w) (leAt b (o + 1) 1 + i / 4 / w) (i % 4))
  littles.filter isLittle ++ ((List.range 16).filter (fun i => bit (leAt b (o + 4) 2) i)).map (fun i => bigId p (i % 4) (i / 4))

/-- Whether a rectangle lies on its plate. -/
def rectOk (b : List Byte) (p : Nat) : Bool :=
  let o := 16 + 8 * p
  leAt b (o + 2) 1 == 0 || (decide (leAt b o 1 + leAt b (o + 2) 1 ≤ 32) && decide (leAt b (o + 1) 1 + leAt b (o + 3) 1 ≤ 24))

/-- Whether an active launch is of a partition. -/
def State.partActive (s : State) (p : Nat) : Bool := s.launches.any (fun l => l.2.part == p && l.2.root != .ended)

/-- The status of a PARTCORES request, or the cores it gives: those withdrawn from use are passed over. -/
def State.partPlan (s : State) (b : List Byte) : Except Nat (List Nat) :=
  let p := leAt b 8 1
  let cores := (List.range 4).flatMap (namedCores b)
  if p > 15 ∨ !(List.range 4).all (rectOk b) then .error 2
  else if cores.any (fun c => s.isEasel c || ((s.core c).part.isSome && (s.core c).part != some p)) then .error 2
  else if bit (leAt b 9 1) 0 ∧ s.partActive p then .error 6
  else .ok (cores.filter (fun c => !s.lostCores.at c false))

/-- A core with a lasting fault in its scratchpad, R433. -/
def State.scratchLost (s : State) (c : Nat) : Bool := s.locations.any (fun r => r.unit == 2 && r.lasting && r.loc == s.phys c)

/-- The partition changes tenant: the clearing of R338, and cores with a lasting fault are withdrawn, R433. -/
def State.changeTenant (s : State) (p : Nat) : State :=
  let gone := ((s.coresOf p).map (·.1)).filter s.scratchLost
  let s := s.newTenant p
  gone.foldl (fun (t : State) (c : Nat) =>
    let t := t.report errRetired unitScratch p (s.phys c * 2 ^ 34)
    { t.updCore c (fun k => { k with part := none, big := { k.big with owners := [] } }) with lostCores := Sp.put false t.lostCores c true }) s

/-- A PARTCORES request that has been accepted, done once its columns are on, R367: none while one is not. -/
def State.partcores (s : State) (f : Frame) : Option State :=
  match parsePacket f.data with
  | none => some s
  | some h => match s.partPlan h.body with
    | .error e => some (s.reply h f.src e [])
    | .ok cores =>
      let p := leAt h.body 8 1
      if (s.columnsOf cores).all (fun k => (s.column k.1 k.2).st == .on) then
        let t := cores.foldl (fun u c => u.giveCore c p) s
        some ((if bit (leAt h.body 9 1) 0 then t.changeTenant p else t).reply h f.src 0 [])
      else none

/-- The wake requests of a PARTCORES request for the columns of its cores, R367. -/
def State.wakeFor (s : State) (f : Frame) : State :=
  match (parsePacket f.data).map (fun h => s.partPlan h.body) with
  | some (.ok cores) => (s.columnsOf cores).foldl (fun u k => u.pushOnce (.wakeRequest k.1 k.2)) s
  | _ => s

/-- MGMT PARTCORES, R389, R367. -/
def execMgmtPartcores (f : Frame) (s : State) : Host.Outcome State Fault Refusal :=
  s.mgmt f 3 ([(8, 2)] ++ (List.range 4).map (fun p => (16 + 8 * p, 6))) (fun h t =>
    if leAt h.body 9 1 > 1 then t.reply h f.src 1 []
    else match t.partcores f with
      | some u => u
      | none => { t with opening := t.opening ++ [f] }.wakeFor f)

/-- MGMT PARTFREE, R389. -/
def execMgmtPartfree (f : Frame) (s : State) : Host.Outcome State Fault Refusal :=
  s.mgmt f 4 [(8, 1)] (fun h t =>
    let p := leAt h.body 8 1
    if p > 15 then t.reply h f.src 2 []
    else if t.partActive p ∨ t.ctxs.any (fun c => c.2.part == p) ∨ t.haltedPart p then t.reply h f.src 6 []
    else (t.freeCores p).reply h f.src 0 [])

/-! ## Sessions, R386, R387, R389 -/

/-- MGMT OPEN, R387, R389: the lowest session number free. R389 gives the host's IPv6 address at bytes 16 to 31 no byte order, where
R4 and R384 take the least significant byte first and R423 writes such addresses most significant byte first: it is read most
significant byte first (DESIGN CHOICE, assumption 116). -/
def execMgmtOpen (f : Frame) (s : State) : Host.Outcome State Fault Refusal :=
  s.mgmt f 5 [(8, 2), (16, 16)] (fun h t =>
    let c := leAt h.body 8 2
    let addr := leNat ((h.body.drop 16).take 16).reverse
    let n := t.sessions.freeKey 4096 1
    if (t.ctxs.look c).isNone then t.reply h f.src 5 []
    else if t.sessions.length ≥ 256 then t.reply h f.src 3 []
    else ({ t with sessions := t.sessions.set n { ctx := c, peer := { addr := addr } } } : State).reply h f.src 0 (leBytes 2 n))

/-- MGMT CLOSE, R387, R389: queues that named the session send their copies nowhere from now on. -/
def execMgmtClose (f : Frame) (s : State) : Host.Outcome State Fault Refusal :=
  s.mgmt f 6 [(8, 2)] (fun h t =>
    let n := leAt h.body 8 2
    if n = 0 then t.reply h f.src 2 []
    else if (t.sessions.look n).isNone then t.reply h f.src 5 []
    else
      let qs := t.queues.map (fun (q : Nat × CmdQueue) => (q.1, if q.2.session = n then { q.2 with session := 0 } else q.2))
      ({ t with sessions := t.sessions.drop n, queues := qs } : State).reply h f.src 0 [])

/-- Whether a range is a virtual one, R182. -/
def virtualRange (va len : Nat) : Bool := bits va 63 63 == 0 && bits va 59 57 == 0 && decide (va % 2 ^ 57 + len ≤ 2 ^ 57)

/-- MGMT WINDOW, R386, R389. -/
def execMgmtWindow (f : Frame) (s : State) : Host.Outcome State Fault Refusal :=
  s.mgmt f 7 [(8, 4), (16, 16)] (fun h t =>
    let n := leAt h.body 8 2
    let i := leAt h.body 10 1
    let fl := leAt h.body 11 1
    let va := leAt h.body 16 8
    let len := leAt h.body 24 8
    if fl > 3 then t.reply h f.src 1 []
    else if n = 0 ∨ i > 15 ∨ !virtualRange va len then t.reply h f.src 2 []
    else match t.sessions.look n with
      | none => t.reply h f.src 5 []
      | some x =>
        let w := if len = 0 then x.windows.drop i else x.windows.set i { va := va, len := len, rd := bit fl 0, wr := bit fl 1 }
        ({ t with sessions := t.sessions.set n { x with windows := w } } : State).reply h f.src 0 [])

/-! ## Command queues, R389, R394 -/

/-- The access of the command processor for a queue's context, R395: as a task of that context with SR.SUP = 0. -/
def State.cpAccess (s : State) (ctx : Nat) : Access := ⟨s.roleCore 1, ctx, (s.ctx ctx).part, (s.ctx ctx).s, false, .cp ctx⟩

/-- Bytes stored by the command processor, whole or not at all; or the code of a failure. -/
def State.cpStore (s : State) (ctx x : Nat) (d : List Byte) : Except Nat State :=
  match s.reachRun (s.cpAccess ctx) true true x d.length with
  | (.error c, _) => .error c
  | (.ok l, t) => .ok (t.writeRun x d l)

/-- Bytes loaded by the command processor with the state after the load; or the code of a failure, R431. -/
def State.cpLoad (s : State) (ctx x n : Nat) : Except Nat (List Byte × State) :=
  match s.reachRun (s.cpAccess ctx) false true x n with
  | (.error c, _) => .error c
  | (.ok l, t) => if t.badRun l then .error causeData else .ok (t.readRun l, t)

/-- The state in which the command processor waits for an access: what it needs, a walk (R204) or lines (R195), has been asked for.
-/
def State.cpAsk (s : State) (ctx : Nat) (wr : Bool) (x n : Nat) : State := (s.reachRun (s.cpAccess ctx) wr true x n).2

/-- Bytes [55:0] of a descriptor, all but TAIL, R394. -/
def CmdQueue.bytes (q : CmdQueue) : List Byte :=
  leBytes 12 0 ++ leBytes 1 q.state ++ leBytes 1 (q.qlog * 16) ++ leBytes 2 q.ctx ++ leBytes 3 0 ++ leBytes 1 q.err ++ leBytes 4 q.amcnt ++
    leBytes 8 q.amh ++ leBytes 8 q.qbase ++ leBytes 8 q.cbase ++ leBytes 8 q.head

/-- A queue's record and its descriptor updated; a descriptor that cannot be written stays as it is, and one that has to wait is
written when the queue's TAIL is read next. -/
def State.putQueue (s : State) (n : Nat) (q : CmdQueue) : State :=
  let t := { s with queues := s.queues.set n q }
  match t.cpStore q.ctx q.desc q.bytes with
  | .ok u => u
  | .error c => if c = notYet then t.cpAsk q.ctx true q.desc 56 else t

/-- MGMT QNEW, R389, R394: the lowest queue number free; it waits while its descriptor cannot be written yet. -/
def execMgmtQnew (f : Frame) (s : State) : Host.Outcome State Fault Refusal :=
  s.mgmt f 8 [(8, 3), (12, 2), (16, 24)] (fun h t =>
    let c := leAt h.body 8 2
    let g := leAt h.body 10 1
    let n := leAt h.body 12 2
    let d := leAt h.body 16 8
    let qb := leAt h.body 24 8
    let cb := leAt h.body 32 8
    let fits := 6 ≤ g ∧ g ≤ 20 ∧ d % 64 = 0 ∧ qb % (64 * 2 ^ g) = 0 ∧ cb % (32 * 2 ^ g) = 0
    if (t.ctxs.look c).isNone ∨ (n ≠ 0 ∧ (t.sessions.look n).isNone) then t.reply h f.src 5 []
    else if !decide fits ∨ (n ≠ 0 ∧ t.sessionCtx n ≠ some c) then t.reply h f.src 2 []
    else if t.queues.length ≥ 256 then t.reply h f.src 3 []
    else
      let k := t.queues.freeKey 256 0
      let q : CmdQueue := { ctx := c, session := n, desc := d, qbase := qb, cbase := cb, qlog := g }
      match t.cpStore c d (q.bytes ++ leBytes 8 0) with
      | .error code =>
        if code = notYet then (({ t.cpAsk c true d 64 with waiting := f :: t.waiting } : State).did (.mgmtQnew f)).push (.mgmtQnew f)
        else t.reply h f.src 2 []
      | .ok u => (({ u with queues := u.queues.set k q } : State).push (.tailRead k)).reply h f.src 0 (leBytes 2 k))

/-- A queue ends: STATE becomes 0 and the command processor serves it no more; none where its descriptor cannot be written yet. -/
def State.endQueue (s : State) (n : Nat) (q : CmdQueue) : Option State :=
  let gone := fun (t : State) => ({ t with queues := t.queues.drop n, due := t.due.erase (.tailRead n) } : State)
  match s.cpStore q.ctx q.desc { q with state := 0 }.bytes with
  | .ok u => some (gone u)
  | .error c => if c = notYet then none else some (gone s)

/-- A queue that is to end once its descriptor can be written. -/
def State.endLater (s : State) (n : Nat) (q : CmdQueue) : State :=
  ({ s.cpAsk q.ctx true q.desc 56 with queues := s.queues.set n { q with state := 0, run := none } } : State).pushOnce (.tailRead n)

/-- Whether a queue's packet runs, R397: one that waits only for SERIAL launches does not. -/
def CmdQueue.runs (q : CmdQueue) : Bool :=
  match q.run with
  | some r => r.ended.isNone
  | none => false

/-- MGMT QEND, R389: at once, or once the running packet runs no more; a packet that waits for its launches keeps its queue until
its record is written. -/
def execMgmtQend (f : Frame) (s : State) : Host.Outcome State Fault Refusal :=
  s.mgmt f 9 [(8, 2)] (fun h t =>
    let n := leAt h.body 8 2
    match t.queues.look n with
    | none => t.reply h f.src 5 []
    | some q =>
      if q.ending.isSome ∨ q.state = 0 then t.reply h f.src 6 []
      else if q.run.isNone then
        match t.endQueue n q with
        | some u => u.reply h f.src 0 []
        | none => t.endLater n { q with ending := some (f.src, leAt h.body 4 4) }
      else if !q.runs then (t.putQueue n { q with state := 0 }).reply h f.src 0 []
      else { t with queues := t.queues.set n { q with ending := some (f.src, leAt h.body 4 4) } })

/-! ## The pod context table, R393 -/

/-- MGMT PODREG, R393 steps 1 to 4. -/
def execMgmtPodreg (f : Frame) (s : State) : Host.Outcome State Fault Refusal :=
  s.mgmt f 10 [(8, 6)] (fun h t =>
    let c := leAt h.body 8 2
    let d0 := leAt h.body 10 2
    let nd := leAt h.body 12 2
    let me := t.table.devnum
    let far := fun (d : Nat) => decide (d ≥ t.table.podsz) || (d != me && (t.routes.at d []).isEmpty)
    match t.ctxs.look c with
    | none => t.reply h f.src 5 (leBytes 2 me)
    | some k =>
      match ((List.range (min nd 1024 + 1)).map (d0 + ·)).find? far with
      | some d => t.reply h f.src 5 (leBytes 2 d)
      | none =>
        if t.registering.any (fun r => r.ctx == c) then t.reply h f.src 6 []
        else if !t.podRoom then t.reply h f.src 3 (leBytes 2 me)
        else
          let r : Registering := { ctx := c, peer := f.src, reqid := leAt h.body 4 4, dev0 := d0, ndev := nd }
          let own := if d0 ≤ me ∧ me ≤ d0 + nd then [] else [{ ctx := c, dev0 := d0, ndev := nd }]
          let u := { t with podTable := t.podTable ++ own, registering := t.registering ++ [r] }
          (List.range (nd + 1)).foldl (fun v i => v.podSend (d0 + i) (.reg c k.part k.s d0 nd)) u)

/-- MGMT PODUNREG, R393. -/
def execMgmtPodunreg (f : Frame) (s : State) : Host.Outcome State Fault Refusal :=
  s.mgmt f 11 [(8, 2)] (fun h t =>
    let c := leAt h.body 8 2
    match t.podTable.filter (fun e => e.ctx == c) with
    | [] => t.reply h f.src 5 []
    | l =>
      if t.launches.any (fun l => l.2.ctx == c && l.2.root != .ended && (l.2.podRoot.isSome || l.2.lr.isPod t.table.devnum)) then
        t.reply h f.src 6 []
      else
        let u := { t with podTable := t.podTable.filter (fun e => e.ctx != c) }
        let devs := (l.flatMap (fun e => (List.range (e.ndev + 1)).map (e.dev0 + ·))).dedup
        (devs.foldl (fun v d => v.podSend d (.unreg c none)) u).reply h f.src 0 [])

/-! ## The firmware image, R421, R422 -/

/-- Bytes put into an image at an offset. -/
def putImage (l : List Byte) (off : Nat) (d : List Byte) : List Byte := l.take off ++ List.replicate (off - l.length) 0 ++ d ++ l.drop (off + d.length)

/-- MGMT FWWRITE, R388, R389, R421; where the write to flash fails, some of its bytes may be there. -/
def execMgmtFwwrite (f : Frame) (s : State) : Host.Outcome State Fault Refusal :=
  s.mgmt f 12 [(8, 12), (24, 8192)] (fun h t =>
    let o := leAt h.body 8 8
    let n := leAt h.body 16 4
    let d := (h.body.drop 24).take n
    if n = 0 ∨ n > 8192 ∨ o ≠ t.flash.written ∨ d.length ≠ n then t.reply h f.src 2 []
    else if !zeroBut [(0, 24 + n)] h.body then t.reply h f.src 1 []
    else if Config.flashFails t.draws then
      let (v, t) := t.draw
      ({ t with flash := { t.flash with image := putImage t.flash.image o (d.take (v % (n + 1))) } } : State).reply h f.src 7 []
    else ({ t with flash := { t.flash with image := putImage t.flash.image o d, written := o + n } } : State).reply h f.src 0 [])

/-- MGMT FWCOMMIT, R389, R417, R422. -/
def execMgmtFwcommit (f : Frame) (s : State) : Host.Outcome State Fault Refusal :=
  s.mgmt f 13 [(8, 8)] (fun h t =>
    let n := leAt h.body 8 8
    if n > t.flash.image.length then t.reply h f.src 2 []
    else
      let img := t.flash.image.take n
      let u := { t with flash := { t.flash with image := img, written := 0, torn := false } }
      if imageOk img then u.reply h f.src 0 (leBytes 4 (Config.imageSvn img)) else u.reply h f.src 7 [])

/-! ## Telemetry and the error ring, R389, R434 -/

/-- MGMT TELEM, R389. -/
def execMgmtTelem (f : Frame) (s : State) : Host.Outcome State Fault Refusal :=
  s.mgmt f 14 [(8, 2)] (fun h t =>
    let p := leAt h.body 8 1
    let plate := leAt h.body 9 1
    if p > 15 ∨ plate > 3 then t.reply h f.src 2 []
    else t.reply h f.src 0 ((t.telemetry p plate ++ (List.range 8).map (fun u => t.corrected.at u 0)).flatMap (leBytes 8)))

/-- The record of an index, which counts records from 1 on; zero where the ring does not hold it. -/
def State.errorAt (s : State) (i : Nat) : BitVec 128 :=
  let first := s.errorIndex - s.errors.length
  if i ≤ first then 0 else s.errors[i - first - 1]?.getD 0

/-- MGMT ERRLOG, R389, R434. -/
def execMgmtErrlog (f : Frame) (s : State) : Host.Outcome State Fault Refusal :=
  s.mgmt f 15 [(8, 6)] (fun h t =>
    let i := leAt h.body 8 4
    let n := leAt h.body 12 2
    if n = 0 ∨ n > 64 then t.reply h f.src 2 []
    else t.reply h f.src 0 (leBytes 4 t.errorIndex ++ leBytes 4 0 ++ (List.range n).flatMap (fun k => leBytes 16 (t.errorAt (i + k)).toNat)))

/-! ## Requests that waited, R388 -/

/-- A request that waited, in its turn. -/
def State.mgmtTurn (s : State) (f : Frame) : Host.Outcome State Fault Refusal :=
  match ((parsePacket f.data).map LPacket.op).getD 0 with
  | 1 => execMgmtCtxnew f s
  | 2 => execMgmtCtxend f s
  | 3 => execMgmtPartcores f s
  | 4 => execMgmtPartfree f s
  | 5 => execMgmtOpen f s
  | 6 => execMgmtClose f s
  | 7 => execMgmtWindow f s
  | 8 => execMgmtQnew f s
  | 9 => execMgmtQend f s
  | 10 => execMgmtPodreg f s
  | 11 => execMgmtPodunreg f s
  | 12 => execMgmtFwwrite f s
  | 13 => execMgmtFwcommit f s
  | 14 => execMgmtTelem f s
  | _ => execMgmtErrlog f s

/-- The requests that waited, performed in order as far as no one before them of their source waits still. -/
def State.mgmtRest (s : State) : State :=
  s.waiting.foldl (fun u f => if u.mgmtFree f then (match u.mgmtTurn f with
    | .next v => v
    | _ => u) else u) s

/-- A ramp up ends, R367: accepted PARTCORES requests whose columns are now on are done; for the others, a column that has gone
down meanwhile is woken again. -/
def execRampUpEnd (plate x : Nat) (s : State) : Host.Outcome State Fault Refusal :=
  let done := s.did (.rampUpEnd plate x)
  let k := s.column plate x
  if k.st ≠ .rampUp then .next done
  else if s.gt < k.till then .next s
  else
    let t := done.setColumn plate x (k.up s.gt)
    .next (t.opening.foldl (fun (u : State) (f : Frame) => match u.partcores f with
      | some v => { v with opening := v.opening.erase f }
      | none => u.wakeFor f) t).mgmtRest

/-- An answer reaches the device that registers, R393 step 5: with the last one MGMT is answered. -/
def execPodRegAnswer (msg : Nat) (s : State) : Host.Outcome State Fault Refusal :=
  let done := s.did (.podRegAnswer msg)
  match done.podMsg msg with
  | none => .next done
  | some (m, t) => match m.body with
    | .regAnswer ctx dev cause => match t.registering.find? (fun r => r.ctx == ctx) with
      | none => .next t
      | some r =>
        let r1 := { r with answers := r.answers.set dev cause }
        let rest := t.registering.erase r
        if r1.answers.length ≤ r.ndev then .next { t with registering := rest ++ [r1] }
        else
          let t := { t with registering := rest }
          match r1.answers.find? (fun a => a.2 != 0) with
          | none => .next (t.mgmtAnswer 0 r.peer 0x0A 0 r.reqid []).mgmtRest
          | some (bad, why) =>
            let mine := some (r.dev0, r.ndev)
            let own := decide (r.dev0 ≤ t.table.devnum) && decide (t.table.devnum ≤ r.dev0 + r.ndev)
            let t := if own then t else { t with podTable := unregister t.podTable ctx mine }
            let t := (r1.answers.filter (fun a => a.2 == 0)).foldl (fun u a => u.podSend a.1 (.unreg ctx mine)) t
            .next (t.mgmtAnswer 0 r.peer 0x0A why r.reqid (leBytes 2 bad)).mgmtRest
    | _ => .next t

/-! ## Identity and attestation -/

/-- IDENT, R390. -/
def execIdent (f : Frame) (s : State) : Host.Outcome State Fault Refusal :=
  match s.takePacket f kIdent (fun h => h.body.isEmpty) with
  | .other => .next s
  | .turned t => .next t
  | .taken h t => .next (t.sendData kIdent h.session f.src t.ident)

/-- The fields of the configuration table in order, as numbers. -/
def ConfigTable.words (c : ConfigTable) : List Nat :=
  [c.ver, c.svn, c.serial, c.columns.length] ++ c.columns.flatMap (fun e => [e.1, e.2]) ++ [c.roles.length] ++ c.roles.flatten ++
    [c.podid, c.devnum, c.podsz, c.links.length] ++ c.links.flatMap (fun e => [e.1, e.2.1, e.2.2]) ++ [c.mpri, c.ghome.length] ++
    c.ghome.flatMap (fun e => [e.1, e.2]) ++ [c.mac, c.addr, c.prefixLen, c.udp, c.mgmt.length] ++ c.mgmt ++
    (List.range 4).map (fun p => b2n (c.secureCores.at p false) + 2 * b2n (c.secureEngines.at p false)) ++ [b2n c.securePort]

/-- The context records of a partition in the order of their numbers. -/
def State.partRecords (s : State) (p : Nat) : List Byte :=
  (s.ctxs.filter (fun e => e.2.part == p)).flatMap (fun e => leBytes 128 (e.2.record e.1))

/-- The fields of R419 for a nonce, a named partition and a leaf. -/
def State.attestFields (s : State) (nonce : List Byte) (part : Option Nat) (leaf : Nat) : List Byte :=
  nonce ++ serialBytes ++ partNumber ++ shake256 s.flash.image ++ shake256 (Config.tableBytes s.table.words ++ s.table.signature) ++
    leBytes 4 (Config.imageSvn s.flash.image) ++ leBytes 4 s.table.svn ++
    (match part with
      | some p => shake256 (s.partRecords p)
      | none => leBytes 32 0) ++ leBytes 4 leaf ++ identityCertificate

/-- Whether a partition exists: it has a core or a context. -/
def State.partExists (s : State) (p : Nat) : Bool := !(s.coresOf p).isEmpty || s.ctxs.any (fun c => c.2.part == p)

/-- ATTEST, R391, R418. The request's first turn reads the leaf counter and commits the next leaf; its second, unless power is lost
before, signs and answers. -/
def execAttest (f : Frame) (s : State) : Host.Outcome State Fault Refusal :=
  match s.signing.find? (fun g => g.frame == f) with
  | some g =>
    let t := { s.did (.attest f) with signing := s.signing.erase g }
    .next (t.sendData kAttest g.session f.src (leBytes 8 0 ++ (g.body ++ identitySeeds.sign g.leaf (shake256 g.body))))
  | none => match s.takePacket f kAttest (fun h => h.body.length == 40 && decide (leAt h.body 32 1 ≤ 1) && leAt h.body 34 6 == 0) with
  | .other => .next s
  | .turned t => .next t
  | .taken h t =>
    let say := fun (u : State) (st : Nat) (l : List Byte) => Host.Outcome.next (u.sendData kAttest h.session f.src (leBytes 8 st ++ l))
    let p := leAt h.body 33 1
    let part := if leAt h.body 32 1 = 1 then some p else none
    if part.isSome ∧ !t.partExists p then say t 2 []
    else if t.flash.leaf ≥ 2 ^ 20 then say t 1 []
    else
      let i := t.flash.leaf
      let g : Signing := { frame := f, session := h.session, body := t.attestFields (h.body.take 32) part i, leaf := i }
      .next (({ t with flash := { t.flash with leaf := i + 1 }, signing := t.signing ++ [g] } : State).push (.attest f))

/-! ## Recovery, R392, R423 -/

/-- A RECOVER packet, R392: its chunk, and after the last one the verdict. -/
def execRecover (f : Frame) (s : State) : Host.Outcome State Fault Refusal :=
  let fits := fun (h : LPacket) => decide (1 ≤ leAt h.body 8 4) && decide (leAt h.body 8 4 ≤ 8192) && h.body.length == 16 + leAt h.body 8 4 &&
    decide (leAt h.body 12 1 ≤ 1) && leAt h.body 13 3 == 0
  match s.takePacket f kRecover fits with
  | .other => .next s
  | .turned t => .next t
  | .taken h t =>
    let say := fun (u : State) (st : Nat) => u.sendData kRecover h.session f.src (leBytes 8 st)
    let o := leAt h.body 0 8
    if o ≠ t.flash.received then .next (say t 2)
    else
      let img := t.flash.image.take o ++ h.body.drop 16
      let u := { t with flash := { t.flash with image := img, received := img.length } }
      if leAt h.body 12 1 = 0 then .next u
      else if imageOk img then .next (say ({ u with flash := { u.flash with verified := some u.gt, torn := false } } : State) 0 |>.pushOnce .recoveryReset)
      else .next (say { u with flash := { u.flash with image := [], received := 0 } } 7)

end Sys2Proof.Machine
end

