-- ==== Sys2Proof/Machine/Boot.lean ====
section
/-!
DEFINITION. Power-on, bring-up and resets: the check of the configuration table (R382), the role map (R378, R439), the
order of R436 to service or to recovery (R423), the published identity record (R420), and the events that end service
(R392, R435, R437, R438).
-/

namespace Sys2Proof.Machine

/-! ## The configuration table, R382 -/

/-- The role codes of a map in the order of its slots, as (16 x core + slot, code). -/
def ConfigTable.slots (c : ConfigTable) : List (Nat × Nat) :=
  let at_ := fun (k i : Nat) => match c.columns[k / 96]? with
    | some (p, x) => 16 * coreId p x (k % 96 / 4) (k % 4) + i
    | none => 0
  (List.range c.roles.length).flatMap (fun k => (List.range 4).map (fun i => (at_ k i, ((c.roles[k]?).getD [])[i]?.getD 0)))

/-- How many slots a map gives a role. -/
def ConfigTable.roleCount (c : ConfigTable) (code : Nat) : Nat := (c.slots.filter (fun e => e.2 == code)).length

/-- The map as the roles that run, each with its number among its kind. -/
def ConfigTable.roleMap (c : ConfigTable) : Sp Nat :=
  (c.slots.foldl (fun (acc : Sp Nat) (e : Nat × Nat) =>
    if e.2 = 0 then acc else acc.set e.1 (e.2 + 16 * (acc.filter (fun a => a.2 % 16 == e.2)).length)) [])

/-- The minima of R378. -/
def roleMinima : List (Nat × Nat) := [(1, 1), (2, 1), (3, 1), (4, 4), (5, 12), (6, 1), (7, 1), (8, 1)]

/-- Whether GHOME with a table's replacements homes at most 48 nodes on every block of a plate, R165. -/
def ConfigTable.homesOk (c : ConfigTable) (plate : Nat) : Bool :=
  let easel := fun (x : Nat) => c.columns.contains (plate, x)
  let moved := movedNodes easel
  let home := fun (n : Nat × Nat) => match c.ghome.look (nodeOf (coreId plate n.2 n.1 0)) with
    | some e => e % 16
    | none => match moved.find? (fun m => m.1 == n) with
      | some m => m.2
      | none => (nearestOf (List.range 16) n.2 n.1).getD 0
  let homes := (appNodes easel).map home
  (List.range 16).all (fun b => decide ((homes.filter (fun h => h == b)).length ≤ 48))

/-- Whether a table's signature verifies under the operator key whose hash an image's manifest carries, R381, R416. -/
def ConfigTable.signed (c : ConfigTable) (img : List Byte) : Bool :=
  shake256 c.operatorKey == Config.imageOperator img && xmssVerify c.operatorKey (shake256 (Config.tableBytes c.words)) c.signature

/-- Whether the firmware accepts a table, R381, R382, given the image whose manifest names the operator's key. -/
def ConfigTable.accepted (c : ConfigTable) (img : List Byte) (minSvn : Nat) : Bool :=
  c.signed img && c.ver == 1 && decide (c.podsz ≤ 1024) && decide (c.mgmt.length ≤ 8) && decide (minSvn ≤ c.svn) && c.serial == Config.serialNumber % 2 ^ 128 && decide (1 ≤ c.columns.length) && decide (c.columns.length ≤ 4) &&
    c.columns.all (fun e => (blockCol e.2).isNone && decide (e.1 < 4) && decide (e.2 < 32)) && c.columns.Nodup &&
    decide (c.roles.length ≤ 96 * c.columns.length) &&
    roleMinima.all (fun m => decide (m.2 ≤ c.roleCount m.1)) && (List.range 4).all c.homesOk && decide (c.devnum < c.podsz)

/-! ## The identity record, R390, R420 -/

/-- The application little cores and the big cores left after the self-test. -/
def State.littleCount (s : State) : Nat :=
  11264 - 96 * s.table.columns.length - (s.lostCores.filter (fun e => e.2 && isLittle e.1 && !s.isEasel e.1)).length
def State.bigCount (s : State) : Nat := 64 - (s.lostCores.filter (fun e => e.2 && isBig e.1)).length

/-- The identity record's 128 bytes. -/
def State.identity (s : State) : List Byte :=
  let t := s.table
  partNumber ++ serialBytes ++ leBytes 4 (Config.imageSvn s.flash.image) ++ leBytes 4 t.svn ++ leBytes 8 t.podid ++ leBytes 2 t.devnum ++ leBytes 2 t.podsz ++
    leBytes 1 t.columns.length ++ leBytes 1 s.slotid.toNat ++ leBytes 2 0 ++ leBytes 4 2100000 ++ leBytes 4 1800000 ++ leBytes 4 1500000 ++ leBytes 4 0 ++
    leBytes 8 hbmEnd ++ leBytes 4 s.littleCount ++ leBytes 2 s.bigCount ++ leBytes 42 0

/-! ## Bring-up, R436 -/

/-- Recovery, R423: the port comes up at the link-local address of the serial number. -/
def State.enterRecovery (s : State) : State :=
  let t := s.bare
  { t with boot := .recovery, table := { t.table with addr := 0xFE80 * 2 ^ 112 + Config.serialNumber % 2 ^ 64 } }

/-- What the self-test of step 6 finds, R436, by place: failed cores, failed ways of each L2 set, failed register banks and failed
buffer units; all are open. -/
structure SelfTest where
  cores : Sp Bool
  ways : Sp Nat
  banks : Sp Bool
  units : Sp Bool

def selfTest (d : Nat) : SelfTest :=
  let cores := (List.range 16384).filter (fun c => isLittle c || isBig c)
  { cores := (cores.filter (fun c => Config.testFails d 0 c 0)).map (fun c => (c, true)),
    ways := ((List.range 196608).map (fun i => (i, ((List.range 16).filter (fun w => Config.testFails d 1 i w)).length))).filter (fun e => e.2 != 0),
    banks := (cores.flatMap (fun c => (List.range (slotCount c)).filter (fun n => Config.testFails d 3 c n) |>.map (fun n => (16 * c + n, true)))),
    units := ((cores.filter isBig).flatMap (fun c => (List.range 112).filter (fun u => Config.testFails d 4 c u) |>.map (fun u => (128 * c + u, true)))) }

/-- The retirements that the self-test makes, R433, R434; LOC of an L2 way is some address of its set, which is open. -/
def SelfTest.retired (x : SelfTest) (d : Nat) : List (Nat × Nat) :=
  x.cores.map (fun e => (unitScratch, e.1 * 2 ^ 34)) ++ x.ways.flatMap (fun e => List.replicate e.2 (unitL2, Config.freeNat (d + e.1))) ++
    x.banks.map (fun e => (unitBank, e.1 / 16 * 2 ^ 34 + e.1 % 16 * 8192)) ++ x.units.map (fun e => (unitTyped, e.1 / 128 * 2 ^ 34 + e.1 % 128 * 65536))

/-- Whether a step of bring-up fails as a whole, R436: the training of HBM at step 3, a router with its links or a bridge at step 6. -/
def stepFails (d : Nat) : Bool :=
  Config.testFails d 5 0 0 || (List.range 6144).any (fun r => Config.testFails d 6 r 0) || (List.range 112).any (fun b => Config.testFails d 7 b 0)

/-- The routing table built from LINKMAP, R400: the ports of a direct link; to other devices of the pod a free choice of
the ports. -/
def ConfigTable.routing (c : ConfigTable) (d : Nat) : Sp (List Nat) :=
  ((List.range c.podsz).map (fun dev =>
    let direct := (c.links.filter (fun e => e.2.1 == dev)).map (·.1)
    (dev, if dev = c.devnum then [] else if direct.isEmpty then (c.links.map (·.1)).filter (fun p => bit (Config.freeNat (d + dev)) p) else direct))).filter
      (fun e => !e.2.isEmpty)

/-- FWALL of an easel core as the firmware locks it, R380: channel 31 of the device dispatcher's core alone is open. -/
def bootFwall (dd : Bool) : Word := if dd then 0x800000000000000F else 3

/-- The host context's record, R330, R387: its fields are open. -/
def freeCtx (d : Nat) : Ctx :=
  { wdog := 0, s := bit (Config.freeNat d) 0, part := Config.freeNat d / 2 % 16,
    roots := (List.range 8).map (fun i => BitVec.ofNat 64 (Config.freeNat (d + 1 + i))) }

/-- Steps 5 to 8: the easel with its roles, the tables of step 6, the counters and links of step 7 (a link that fails its
training is left out of the routing table and reported), and service. -/
def State.startService (s : State) : State :=
  let b := s.bare
  let c := b.flash.table
  let d := b.draws
  let test := selfTest d
  let roles := c.roleMap
  let dd := ((roles.find? (fun e => e.2 == 3)).map (fun e => e.1 / 16)).getD 0
  let start := Config.freeNat (d + 1)
  let host := 1 + Config.freeNat (d + 2) % 65535
  let u : State :=
    { b with boot := .service, table := c, roles := roles, ghome := c.ghome, lostCores := test.cores, lostWays := test.ways, lostBanks := test.banks, lostUnits := test.units, hashAt := start / gtUnits,
             secureCores := c.secureCores, secureEngines := c.secureEngines, securePort := c.securePort,
             routes := c.routing (d + 3), heartbeats := roles.map (fun e => (e.1, start / gtUnits)),
             now := start, cycStart := start, hostCtx := host, ctxs := [(host, freeCtx (d + 1027))],
             flash := { b.flash with minSvn := c.svn }, draws := d + 200000 }
  let easel := c.columns.flatMap (fun e => (List.range 96).map (fun k => coreId e.1 e.2 (k / 4) (k % 4)))
  let u := easel.foldl (fun (t : State) (k : Nat) => t.updCore k (fun x => { x with fwall := bootFwall (k == dd) })) u
  let u := (test.retired (d + 2000)).foldl (fun (t : State) (e : Nat × Nat) => t.report errRetired e.1 0 e.2) u
  let u := ((c.links.map (·.1)).filter (fun p => Config.testFails d 2 p 0)).foldl State.dropPort u
  { u with ident := u.identity }

/-- Bring-up to service or to recovery once the straps are sampled, R436: RECOV_N at step 1, HBM at step 3, the image at step 4 (R417,
R421), the table at step 5 (R382), the self-test at step 6. -/
def State.bringUp (s : State) : State :=
  if s.recov ∨ stepFails s.draws ∨ s.flash.torn ∨ !imageOk s.flash.image ∨ !s.flash.table.accepted s.flash.image s.flash.minSvn then s.enterRecovery
  else s.startService

/-- A reset's bring-up: the straps are sampled again, whose levels at that moment are inputs that no event names (assumption 124). -/
def State.restart (s : State) : State :=
  let (v, t) := s.draw
  ({ t with recov := bit v 0, slotid := BitVec.ofNat 4 (v / 2) } : State).bringUp

/-- The supplies come within limits, PWRGD is asserted, and the straps are sampled, R436. -/
def execPowerOn (recovN : Bool) (slotid : BitVec 4) (s : State) : Host.Outcome State Fault Refusal :=
  if s.boot = .off then .next ({ s with recov := !recovN, slotid := slotid, pwrgd := true } : State).bringUp else .next s

/-- RESET_N, R438. -/
def execResetN (s : State) : Host.Outcome State Fault Refusal := if s.boot = .off then .next s else .next s.restart

/-- The supply leaves its limits, R437: PWRGD drops, and the module resets once they are back. -/
def execSupplyFault (s : State) : Host.Outcome State Fault Refusal := .next { s.powerLost with boot := .off, pwrgd := false }

/-- A thermal trip, R437, by a sensor that no sample of a node reads; a sample above the limit trips by itself. -/
def execThermalTrip (s : State) : Host.Outcome State Fault Refusal := .next s.trip

/-- The hash of the firmware's code, R435, every 2^30 ticks of GT: a mismatch resets the module. -/
def execFirmwareHashCheck (good : Bool) (s : State) : Host.Outcome State Fault Refusal :=
  if s.boot ≠ .service ∨ s.gt < s.hashAt + 2 ^ 30 then .next s
  else if good then .next { s with hashAt := s.gt } else .next s.restart

/-- The reset after a verified recovery image, R392: once the answer is acknowledged, or 200 microseconds have passed. -/
def execRecoveryReset (s : State) : Host.Outcome State Fault Refusal :=
  match s.flash.verified with
  | none => .next (s.did .recoveryReset)
  | some g => if s.managers.any (fun p => !p.unacked.isEmpty) ∧ s.gt < g + 200000 then .next s else .next s.restart

end Sys2Proof.Machine
end

