-- ==== Sys2Proof/Machine/Control.lean ====
section
/-!
DEFINITION. Control flow, prefixes, waits, timers and the trap instructions: R36 to R38, R41, R74 to R83, R322.
-/

namespace Sys2Proof.Machine

/-! ## Prefixes -/

/-- PFX.T, R36. -/
def execPfxT (a b p : BitVec 4) (s : State) : Host.Outcome State Fault Refusal :=
  s.issuePrefix (.pfxT a b p) (·.t) (fun h => { h with t := some (a ++ b ++ p ++ (0 : BitVec 9)) })

/-- PFX.C, R36. -/
def execPfxC (m : BitVec 2) (s : State) : Host.Outcome State Fault Refusal :=
  s.issuePrefix (.pfxC m) (·.c) (fun h => { h with c := some (m ++ (0 : BitVec 19)) })

/-- PFX.I, R36. -/
def execPfxI (h : BitVec 21) (s : State) : Host.Outcome State Fault Refusal :=
  s.issuePrefix (.pfxI h) (·.i) (fun p => { p with i := some h })

/-- PFX.S, R36. -/
def execPfxS (o : BitVec 2) (c : BitVec 3) (s : State) : Host.Outcome State Fault Refusal :=
  s.issuePrefix (.pfxS o c) (·.s) (fun h => { h with s := some (o ++ c ++ (0 : BitVec 16)) })

/-! ## Branches -/

/-- NOP, R41. -/
def execNop (g : BitVec 4) (s : State) : Host.Outcome State Fault Refusal :=
  s.issue (.nop g) (fun _ t => .ok t)

/-- The target of a PC-relative branch, checked against the code capability as a fetch would be, R75. -/
def Env.target (e : Env) (off : Int) : Except Exit Word :=
  let x : Int := (e.pc.toNat : Int) + 4 * off
  let w := wrap x 64
  if x < 0 ∨ x ≥ (2 ^ 64 : Nat) then faultAt causeBounds w
  else match capCheck e.a.codeTag (Cap.ofBits e.a.code) [.ex] w 4 with
    | some code => faultAt code w
    | none => .ok (BitVec.ofNat 64 w)

/-- The return capability that CALL writes, R75. -/
def Env.returnCap (e : Env) : CapBits := codeAt e.a.code (e.pc + 4)

/-- BR, R75. -/
def execBr (g : BitVec 4) (o : BitVec 21) (s : State) : Host.Outcome State Fault Refusal :=
  s.issue (.br g o) (fun e t => do
    let x ← e.target (immInt e.pfx 21 o.toNat)
    .ok (t.updArch (fun a => a.setPc x)))

/-- CALL, R75. -/
def execCall (g : BitVec 4) (o : BitVec 21) (s : State) : Host.Outcome State Fault Refusal :=
  s.issue (.call g o) (fun e t => do
    let x ← e.target (immInt e.pfx 21 o.toNat)
    .ok (t.updArch (fun a => (a.writeCap 1 e.returnCap).setPc x)))

/-- The checks of JMP on its new code capability, in order, R76. Its check 3 takes R14 without the PERM.WRLD part, which R190 step 6 and
R415 place at an access: the next fetch takes that fault (DESIGN CHOICE, assumption 117). -/
def jumpTo (r : Reg) : Except Exit CapBits :=
  let c := r.cap
  let x := c.addr.toNat
  if !r.tag then faultAt causeTag x
  else if c.otype ≠ 0 then faultAt causeSeal x
  else if !c.has .ex then faultAt causePerm x
  else if x % 4 ≠ 0 then faultAt causeAlign x
  else if !c.covers x 4 then faultAt causeBounds x
  else .ok c.toBits

/-- JMP, R76. -/
def execJmp (g : BitVec 4) (a : BitVec 6) (s : State) : Host.Outcome State Fault Refusal :=
  s.issue (.jmp g a) (fun e t => do
    let c ← jumpTo (e.a.reg a.toNat)
    .ok (t.updArch (fun r => r.setCode c)))

/-- JMP.CALL, R76. -/
def execJmpCall (g : BitVec 4) (a : BitVec 6) (s : State) : Host.Outcome State Fault Refusal :=
  s.issue (.jmpCall g a) (fun e t => do
    let c ← jumpTo (e.a.reg a.toNat)
    .ok (t.updArch (fun r => (r.writeCap 1 e.returnCap).setCode c)))

/-- JMP.RET, R76. -/
def execJmpRet (g : BitVec 4) (s : State) : Host.Outcome State Fault Refusal :=
  s.issue (.jmpRet g) (fun e t => do
    let c ← jumpTo (e.a.reg 1)
    .ok (t.updArch (fun r => r.setCode c)))

/-- LOOP, R77: the target is checked when the branch is taken, before vD is written. -/
def execLoop (g : BitVec 4) (d : BitVec 6) (i : BitVec 9) (s : State) : Host.Outcome State Fault Refusal :=
  s.issue (.loop g d i) (fun e t =>
    let c := e.x d
    if c = 0 then .ok t
    else if c = 1 then .ok (t.updArch (fun r => r.setScalar d.toNat 0))
    else do
      let x ← e.target (immInt e.pfx 9 i.toNat)
      .ok (t.updArch (fun r => (r.setScalar d.toNat (c - 1)).setPc x)))

/-! ## Waits, hints and timers -/

/-- A WAIT field is met, R79. -/
def metBy (n : Nat) (f : BitVec 5) : Bool := f == 31 || decide (n ≤ f.toNat)

/-- WAIT, R79. -/
def execWait (g : BitVec 4) (l st c m : BitVec 5) (s : State) : Host.Outcome State Fault Refusal :=
  s.issue (.wait g l st c m) (fun e t => do
    stallIf (!(metBy e.sl.ldc l && metBy e.sl.stc st && metBy e.sl.cpc c && metBy e.sl.mxc m)) .counter
    .ok t)

/-- OPF, R25, R80: no architectural effect. -/
def execOpf (g : BitVec 4) (d a b : BitVec 6) (s : State) : Host.Outcome State Fault Refusal :=
  s.issue (.opf g d a b) (fun _ t => .ok t)

/-- TIME.GT, R83. -/
def execTimeGt (g : BitVec 4) (d : BitVec 6) (s : State) : Host.Outcome State Fault Refusal :=
  s.issue (.timeGt g d) (fun _ t => .ok (t.updArch (fun r => r.setScalar d.toNat s.gt)))

/-- TIME.CYC, R83. -/
def execTimeCyc (g : BitVec 4) (d : BitVec 6) (s : State) : Host.Outcome State Fault Refusal :=
  s.issue (.timeCyc g d) (fun e t => .ok (t.updArch (fun r => r.setScalar d.toNat (s.cyc e.core))))

/-! ## Traps -/

/-- TRAP, R81: the trap is taken after TRAP completes, with TPC at the next word. -/
def execTrap (g : BitVec 4) (i : BitVec 15) (s : State) : Host.Outcome State Fault Refusal :=
  s.issue (.trap g i) (fun e t =>
    .ok (t.enterTrap e.core e.slot causeTrap (immNat e.pfx 15 i.toNat) 0 false 0 (e.pc + 4)))

/-- BRK, R81: a fault whose TPC is the BRK or its first prefix. -/
def execBrk (g : BitVec 4) (i : BitVec 15) (s : State) : Host.Outcome State Fault Refusal :=
  s.issue (.brk g i) (fun e _ => faultAt causeBreak (immNat e.pfx 15 i.toNat))

/-- ERET, R322; from the service slot it ends the slot's run and the waiting command is decided again, R330. -/
def execEret (g : BitVec 4) (s : State) : Host.Outcome State Fault Refusal :=
  s.issue (.eret g) (fun e t => do
    check e.a.trapped causePrivilege e.word.toNat
    if e.slot = serviceSlot then
      let t := t.updMe (fun x => { x.returned with phase := .free })
      .ok ((t.updCore e.core (fun k => { k with big := { k.big with trapped := false } })).push
        (.matrixCommandStart e.core))
    else .ok (t.updMe Slot.returned))

end Sys2Proof.Machine
end

