-- ==== Sys2Proof/Machine/Cpy.lean ====
section
/-!
DEFINITION. CPY in every kind (R274 to R282) and CPYREL (R279).
-/

namespace Sys2Proof.Machine

/-! ## The descriptor and the card -/

/-- The set and the engine that a CPY's descriptor names, R274. -/
def cpySet (x : Nat) : Nat := bits x 1 0
def cpyEng (x : Nat) : Nat := bits x 2 2

/-- Step 1 of R275: the reserved bits of the descriptor and of D, and the engine. -/
def cpyShape (v : Vec) (kind : Nat) (big : Bool) : Bool :=
  let x := scalarOf v
  let upper := v.toNat / 2 ^ (if kind = 3 then 384 else 64)
  bits x 63 3 == 0 && upper == 0 && (big || cpyEng x == 0)

/-- The twenty registers of a geometry set, R268. -/
def Slot.geometry (x : Slot) (set : Nat) : List Word := (List.range 20).map (fun r => x.eregs.at (32 * set + r) 0)

/-- The scope that a card carries, R254, R266: pod scope only where a region lies on another device. -/
def Env.cpyScope (e : Env) (away : Bool) : Nat :=
  match e.pfx.s with
  | some x => if away then pfxScope x else min 4 (pfxScope x)
  | none => if away then 5 else 4

/-- The card of a CPY, R265, without its pad. -/
def Env.card (e : Env) (t : State) (a b : BitVec 6) (kind : Nat) (g : List Word) : Card :=
  let k : Card := { src := e.a.reg a.toNat, dst := e.a.reg b.toNat, kind := kind }
  let k := k.withGeometry g
  { k with scope := e.cpyScope (t.otherDevice k.dense.addr.toNat) }

/-! ## The follow-on, R280 -/

/-- A follow-on's word with the fields A and B of the CPY, whose following registers hold the capabilities. -/
def followWord (w : IWord) (a b : BitVec 6) : IWord := w.extractLsb' 15 17 ++ a ++ b ++ w.extractLsb' 0 3

/-- The PFX.T payload that a follow-on's lane 3 holds, R280. -/
def followPfx (v : Vec) : Option (BitVec 21) := if elem v 32 3 = 0 then none else some (BitVec.ofNat 21 (elem v 32 3))

/-- Whether a follow-on's lanes 2 and 3 keep the rules of R280: G, OP and T of the word, and zero above the payload. -/
def followRules (v : Vec) : Bool :=
  let w := elem v 32 2
  decide (elem v 32 3 < 2 ^ 21) && bits w 31 28 == 7 && bits w 27 21 == 0x7D && decide (bits w 2 0 ≤ 1)

/-- The MTX instruction of a follow-on's lane 2, step 1 of R298: none for an encoding that is not one. -/
def followInstr (v : Vec) : Option Instr :=
  match decode (BitVec.ofNat 32 (elem v 32 2)) with
  | .ok i => some i
  | .error _ => none

/-- The matrix command of a follow-on, R280. -/
def Env.follow (e : Env) (t : State) (v : Vec) (a b : BitVec 6) : MtxCmd :=
  let x := followPfx v
  let m := e.mtxCmd t a b 0
  { m with word := followWord (BitVec.ofNat 32 (elem v 32 2)) a b, fa := cmdFa x, fb := cmdFb x, prs := 0, task := none, service := false, via := none,
           a := followRecord v 1, b := followRecord v 2 }

/-- The authority of a follow-on's records, checked at step 6 in deferred mode too, R280, R296. -/
def MtxCmd.followAuthority (m : MtxCmd) : Option CardFault :=
  match m.operands.find? (fun o => recSpace o.r == 0 && o.regNum == 63) with
  | some o => some (causeRange, recAddr o.r)
  | none => m.operands.findSome? Operand.capFault

/-- Step 6 of R275 for a copy with follow-on: the command with its checks made, or, in deferred mode, with the checks of its
records left to the burin, R314. A word that keeps the rules but is no MTX, a payload that no PFX.T has, or a pair of formats that
is not legal, is an illegal instruction (R36, R290, R298 step 1). The issuing task waits for the walks of its pages (R204). -/
def Env.followCheck (e : Env) (t : State) (v : Vec) (a b : BitVec 6) : Except Exit (MtxCmd × State) := do
  check e.big causeRange (scalarOf v)
  check (followRules v) causeRange (scalarOf v)
  match followInstr v with
  | none => faultAt causeIllegal (elem v 32 2)
  | some i =>
    check (pfxTOk i (followPfx v) && elem v 32 3 % 2 ^ 9 == 0) causeIllegal (elem v 32 2)
    let m := e.follow t v a b
    if (t.core e.core).big.deferred then (match m.followAuthority with
      | some f => faultAt f.1 f.2
      | none => .ok (m, t))
    else match t.mtxCheck { m with task := some t.myRef } with
      | (.error (_, code, tval), _) => .error (exitOf t.myAccess code tval)
      | (.ok m, u) => .ok ({ m with task := none }, u)

/-! ## CPY -/

/-- A CPY, R275: its checks in order, then its card in the inbox. The card, which never leaves its core, is counted neither in
SENT nor in RCVD of R144 (DESIGN CHOICE, assumption 98). -/
def State.cpyIssue (s : State) (i : Instr) (kind : Nat) (d a b : BitVec 6) : Host.Outcome State Fault Refusal :=
  s.issue i (fun e t => do
    let v := e.v d
    let x := scalarOf v
    let sel := 32 * cpySet x
    check (cpyShape v kind e.big) causeRange x
    let g := e.sl.geometry (cpySet x)
    match geomFault g kind with
    | some r => faultAt causeRange (sel + r)
    | none => .ok ()
    let k := e.card t a b kind g
    match t.cardFault t.myAccess k sel with
    | some f => faultAt f.1 f.2
    | none => .ok ()
    let (follow, t) ← (if kind = 3 then do
        let (m, t) ← e.followCheck t v a b
        .ok (some m, t)
      else .ok (none, t))
    let prs := ctrlPrs (wordAt g 0)
    let pad ← (if prs = 0 then .ok 0 else do
        let r ← t.record e.core prs
        .ok (recordPad r))
    let eng := engineId e.core (cpyEng x)
    stallIf (decide (e.sl.cpc ≥ 16) || (kind == 3 && decide (e.sl.mxc ≥ 16))) .counter
    stallIf (decide (t.inboxLen eng ≥ inboxSize)) .full
    stallIf (!t.releaseReady (pfxRelease e.pfx)) .order
    let (id, t) := t.fresh
    let j : Job :=
      { id := id, card := { k with pad := BitVec.ofNat 64 pad, follow := follow }, engine := eng, core := e.core, task := some t.myRef,
        dest := d.toNat, acquire := pfxAcquire e.pfx, ctx := e.sl.ctxid.toNat, part := e.sl.part, world := e.a.world,
        sup := e.a.sup, lid := e.sl.lid, launch := e.sl.launch }
    let board := if d = 0 then [] else [(Dest.reg d.toNat, id)]
    let n := b2n (kind == 3)
    let t := t.updMe (fun y => { y with cpc := y.cpc + 1, mxc := y.mxc + n, board := y.board ++ board })
    .ok (({ t with jobs := t.jobs.set id j }).push (.jobStart id)))

/-- CPY, the plain copy, R276. -/
def execCpy (g : BitVec 4) (d a b : BitVec 6) (s : State) : Host.Outcome State Fault Refusal :=
  s.cpyIssue (.cpy g d a b) 0 d a b

/-- The loop copy, R277. -/
def execCpyLoop (g : BitVec 4) (d a b : BitVec 6) (s : State) : Host.Outcome State Fault Refusal :=
  s.cpyIssue (.cpyLoop g d a b) 1 d a b

/-- The copy with follow-on, R280. -/
def execCpyMtx (g : BitVec 4) (d a b : BitVec 6) (s : State) : Host.Outcome State Fault Refusal :=
  s.cpyIssue (.cpyMtx g d a b) 3 d a b

/-- The block-table copy, R281. -/
def execCpyBlk (g : BitVec 4) (d a b : BitVec 6) (s : State) : Host.Outcome State Fault Refusal :=
  s.cpyIssue (.cpyBlk g d a b) 4 d a b

/-- The slab copy, R282. -/
def execCpySlab (g : BitVec 4) (d a b : BitVec 6) (s : State) : Host.Outcome State Fault Refusal :=
  s.cpyIssue (.cpySlab g d a b) 5 d a b

/-- CPYREL, R279: on a big core always the access fault. -/
def execCpyrel (g : BitVec 4) (a : BitVec 6) (s : State) : Host.Outcome State Fault Refusal :=
  s.issue (.cpyrel g a) (fun e t => do
    let c := e.c a
    let x := c.addr.toNat
    check (!e.big) causeAccess x
    check (e.tag a) causeTag x
    check (c.otype == 0) causeSeal x
    check (c.has .eng) causePerm x
    let sp := bits x 35 32
    check (bits x 63 60 == 0xE && bits x 59 50 == t.table.devnum && (sp == 0 || sp == 4) &&
      nodeOf (bits x 49 36) == nodeOf e.core) causeAccess x
    stallIf (e.sl.ldc != 0) .counter
    let (id, t) ← t.enterOp { e.op t false false with kind := .stageRelease x } []
    .ok (t.push (.stageRelease id)))

end Sys2Proof.Machine
end

