-- ==== Sys2Proof/Machine/Walks.lean ====
section
/-!
DEFINITION. The page walks that accesses, GATHP lanes and guests wait for, R204, R207, R219, R220.
-/

namespace Sys2Proof.Machine

/-! ## The queue -/

/-- A refused request sent again after its wait enters the queue, or finds it full once more, R204, R353, R355. -/
def State.readmitWalk (s : State) (plate : Nat) : State :=
  match s.walks.find? (fun w => w.2.plate == plate && w.2.refused && decide (w.2.till ≤ s.now)) with
  | none => s
  | some (k, w) =>
    if (s.walkQueue plate).length ≥ 512 then
      let (w, s) := s.refuseWalk w
      { s with walks := s.walks.set k w }
    else
      let (n, s) := s.fresh
      { s with walks := (s.walks.drop k).set n { w with refused := false } }

/-! ## The end of a walk -/

/-- The note that a walk leaves for a slot, R220: a fault of the walk over the span where it stopped, or a leaf that forbids
the load. -/
def Walk.note (w : Walk) (sup : Bool) (r : Except (Nat × Nat) (Nat × Nat)) : Option Note :=
  let span := fun (cause lg : Nat) =>
    ({ part := w.part, asid := w.asid, root := w.root, cause := cause, lo := w.va / 2 ^ lg * 2 ^ lg, hi := (w.va / 2 ^ lg + 1) * 2 ^ lg } : Note)
  match r with
  | .error (cause, lg) => some (span cause lg)
  | .ok (pte, lg) => if bit pte 3 && (!bit pte 6 || sup) then none else some (span causePagePerm lg)

/-- A note left in a slot, one for each walk, at most 8, the newest in place of the oldest, R220. -/
def Slot.addNote (x : Slot) (n : Note) : Slot :=
  let l := x.notes ++ [n]
  { x with notes := if l.length > 8 then l.drop (l.length - 8) else l }

/-- The faults that a walk sends to those who asked, R204. -/
def Walk.faults (w : Walk) (r : Except (Nat × Nat) (Nat × Nat)) : List WalkFault :=
  match r with
  | .ok _ => []
  | .error (cause, _) =>
    (w.askers.map (·.2) ++ w.guests.map Asker.guest).map (fun who => ⟨who, w.part, w.asid, w.root, w.va / 65536, cause⟩)

/-- A request ends with the plate TLB's entry or with its walk's result, R204: the entry fills the TLBs of those who joined it,
or its fault goes to each of them. -/
def State.finishWalk (s : State) (k : Nat) (w : Walk) (levels : Nat) (r : Except (Nat × Nat) (Nat × Nat)) : State :=
  let t := { s with walks := s.walks.drop k, walkFaults := s.walkFaults ++ w.faults r }
  let cores := w.askers.map (·.1) ++ w.joined.map (fun j => j.1.core) ++ w.guests.filterMap (fun g => (t.guests.look g).map (·.home))
  let t := (match r with
    | .error _ => t
    | .ok (pte, lg) =>
      let e : TlbEntry := ⟨w.part, w.asid, w.root, w.va / 2 ^ lg * 2 ^ lg, lg, pte⟩
      cores.foldl (fun u c => u.fillTlbs c levels e) t)
  let t := w.joined.foldl (fun u j => match w.note j.2 r with
    | none => u
    | some n => u.updTask j.1 (fun x => x.addNote n)) t
  w.guests.foldl (fun u g => u.push (.guestWalkDone g)) t

/-- The oldest request of a plate's queue takes its turn, R203, R204, R219: one whose page the plate TLB holds ends with that
entry; else a free walker takes it, of 64 on each plate. While a refused request is still to be sent again the event stays under way.
-/
def execWalkStart (plate : Nat) (s : State) : Host.Outcome State Fault Refusal :=
  let s := s.readmitWalk plate
  let done := s.did (.walkStart plate)
  match s.walkQueue plate with
  | [] => .next (if s.walks.any (fun w => w.2.plate == plate && w.2.refused) then s else done)
  | (k, w) :: _ =>
    match heldBy (s.tlbPlate.at plate []) w.part w.asid (w.root * 2 ^ 60 + w.va) with
    | some e => .next (done.finishWalk k w 2 (.ok (e.pte, e.lg)))
    | none =>
      if (s.walks.filter (fun w => w.2.plate == plate && w.2.started)).length ≥ 64 then .next s
      else .next (({ done with walks := s.walks.set k { w with started := true } }).push (.walkCompletion k))

/-- A walk ends, R204, R207: it reads the tables as they stand, so that a TLBI that has reached the plate meanwhile restarts
it. It waits where a slice does not accept one of its reads, R195. -/
def execWalkCompletion (walk : Nat) (s : State) : Host.Outcome State Fault Refusal :=
  let done := s.did (.walkCompletion walk)
  match s.walks.look walk with
  | none => .next done
  | some w =>
    let x := w.root * 2 ^ 60 + w.va
    match s.touchWalk w.part w.asid w.world x with
    | (false, t) => .next t
    | (true, t) => .next ((t.did (.walkCompletion walk)).finishWalk walk w 3 (s.walk w.asid w.world x))

end Sys2Proof.Machine
end

