-- ==== Sys2Proof/Machine/Memory.lean ====
section
/-!
DEFINITION. The memory instructions of a task: loads and stores, gathers and scatters, full/empty operations, prefetch,
fences, atomics and the issue of ticket operations, R209 to R237.
-/

namespace Sys2Proof.Machine

/-! ## Addresses and checks -/

/-- The address of format M, R209. -/
def Env.addrM (e : Env) (a o : BitVec 6) (size : Nat) : Nat := ((e.c a).addr.toNat + immNat e.pfx 6 o.toNat * size) % 2 ^ 64

/-- The access size of SZ 0 to 4, R214. -/
def sizeOf (z : BitVec 3) : Nat := 2 ^ z.toNat

/-- The lanes of a vector access that the guard enables, R210. -/
def Env.lanes (e : Env) : List Nat := (List.range 32).filter (enabled e.mask 32)

/-- The checks of the enabled lanes of a 128-byte access, R210, R211: lane by lane, each of 4 bytes, under the alignment of
the whole; all lanes lie in one place. The answer is the place of the first byte. -/
def State.checkLanes (t : State) (a : Access) (tag : Bool) (c : Cap) (r : Req) (l : List Nat) : Except Exit (Place × State) :=
  match l with
  | [] => .error (.trap causeIllegal 0 0)
  | j :: rest =>
    let x := (r.x + 4 * j) % 2 ^ 64
    match t.checkAccess a tag c { r with x := x, n := 4, lead := 4 * j, align := 128 } with
    | (.error code, _) => .error (exitOf a code x)
    | (.ok p, t1) =>
      match rest.find? (fun k => (capCheck tag c r.perms ((r.x + 4 * k) % 2 ^ 64) 4).isSome) with
      | some k => .error (.trap ((capCheck tag c r.perms ((r.x + 4 * k) % 2 ^ 64) 4).getD 0) ((r.x + 4 * k) % 2 ^ 64) 0)
      | none => .ok ({ p with key := p.key - 4 * j }, t1)

/-- One access checked. -/
def State.checkOne (t : State) (a : Access) (tag : Bool) (c : Cap) (r : Req) : Except Exit (Place × State) :=
  match t.checkAccess a tag c r with
  | (.error code, _) => .error (exitOf a code r.x)
  | (.ok p, t1) => .ok (p, t1)

/-- What a load and a store ask for, R202, R214. -/
def loadReq (x n : Nat) : Req := { x := x, n := n, align := n }
def storeReq (x n : Nat) : Req := { x := x, n := n, align := n, perms := [.st], rd := false, wr := true }
def rmwReq (x n : Nat) : Req := { x := x, n := n, align := n, perms := [.ld, .st], rd := true, wr := true }

/-! ## Loads and stores, R214 to R216 -/

/-- LDX, R215. -/
def execLdx (g : BitVec 4) (d a o : BitVec 6) (z : BitVec 3) (s : State) : Host.Outcome State Fault Refusal :=
  s.issue (.ldx g d a o z) (fun e t => do
    let n := sizeOf z
    let r := { loadReq (e.addrM a o n) n with counter := z == 3 }
    let (p, t) ← t.checkOne t.myAccess (e.tag a) (e.c a) r
    let el := p.elem r 0 .read (z == 4 && (e.c a).has .cld)
    t.startOp { e.op t true false with elems := [el], ret := if z = 4 then .cap d.toNat else .scalar d.toNat } [.reg d.toNat])

/-- STX, R215: a capability keeps its tag only through PERM.CST. -/
def execStx (g : BitVec 4) (d a o : BitVec 6) (z : BitVec 3) (s : State) : Host.Outcome State Fault Refusal :=
  s.issue (.stx g d a o z) (fun e t => do
    let n := sizeOf z
    let keep := z == 4 && e.tag d && (e.c a).has .cst
    let r := { storeReq (e.addrM a o n) n with keepTag := keep, counter := z == 3 }
    let (p, t) ← t.checkOne t.myAccess (e.tag a) (e.c a) r
    let el := p.elem r 0 (.write (2 ^ n - 1) ((e.v d).toNat % 2 ^ (8 * n)) keep) false
    t.startOp { e.op t false true with elems := [el] } [])

/-- The 16-byte granules of a line that some lane touches. -/
def granulesOf (l : List Nat) : List Nat := (List.range 8).filter (fun q => l.any (fun j => j / 4 == q))

/-- LDV, R216: a granule at a time (R242). -/
def execLdv (g : BitVec 4) (d a o : BitVec 6) (s : State) : Host.Outcome State Fault Refusal :=
  s.issue (.ldv g d a o) (fun e t => do
    let x := e.addrM a o 128
    let (p, t) ← t.checkLanes t.myAccess (e.tag a) (e.c a) (loadReq x 128) e.lanes
    let part := fun (q : Nat) => { p with key := p.key + 16 * q }.elem (loadReq (x + 16 * q) 16) q .read (q == 0 && (e.c a).has .cld)
    t.startOp { e.op t true false with elems := (granulesOf e.lanes).map part, ret := .vec d.toNat (packList 1 ((List.range 32).map (fun j => b2n (enabled e.mask 32 j)))) }
      [.reg d.toNat])

/-- The bytes of a granule that the enabled lanes cover. -/
def laneMask (l : List Nat) (q : Nat) : Nat := packList 4 ((List.range 4).map (fun i => if l.contains (4 * q + i) then 15 else 0))

/-- STV, R216. -/
def execStv (g : BitVec 4) (d a o : BitVec 6) (s : State) : Host.Outcome State Fault Refusal :=
  s.issue (.stv g d a o) (fun e t => do
    let x := e.addrM a o 128
    let l := e.lanes
    let (p, t) ← t.checkLanes t.myAccess (e.tag a) (e.c a) (storeReq x 128) l
    let keep := e.tag d && laneMask l 0 == 0xFFFF && (e.c a).has .cst && p.tags
    let part := fun (q : Nat) => { p with key := p.key + 16 * q }.elem (storeReq (x + 16 * q) 16) q
      (.write (laneMask l q) (elem (e.v d) 128 q) (q == 0 && keep)) false
    t.startOp { e.op t false true with elems := (granulesOf l).map part } [])

/-! ## Gathers and scatters, R217 to R221 -/

/-- The enabled elements of a gather or scatter with their addresses, R217. -/
def Env.gatherAddrs (e : Env) (a b : BitVec 6) (w : Nat) (signed : Bool) : List (Nat × Nat) :=
  ((List.range (1024 / w)).filter (enabled e.mask w)).map (fun j =>
    (j, wrap (((e.c a).addr.toNat : Int) + readInt signed w (elem (e.v b) w j) * ((w / 8 : Nat) : Int)) 64))

/-- Whether a gather or scatter type reads its indices as signed, R217. -/
def gathSigned (t : BitVec 3) : Bool := t.toNat < 4

/-- GATH, R218. -/
def execGath (g : BitVec 4) (d a b : BitVec 6) (t : BitVec 3) (s : State) : Host.Outcome State Fault Refusal :=
  s.issue (.gath g d a b t) (fun e u => do
    let w := gathWidth t
    let l := (e.gatherAddrs a b w (gathSigned t)).map (fun j =>
      let r := loadReq j.2 (w / 8)
      (r, fun (p : Place) => p.elem r j.1 .read false))
    let (els, u) ← u.checkAll u.myAccess (e.tag a) (e.c a) l
    u.startOp { e.op u true false with elems := els, ret := .lanes d.toNat w } [.reg d.toNat])

/-- SCAT, R218: elements that share an address are performed in ascending order. -/
def execScat (g : BitVec 4) (d a b : BitVec 6) (t : BitVec 3) (s : State) : Host.Outcome State Fault Refusal :=
  s.issue (.scat g d a b t) (fun e u => do
    let w := gathWidth t
    let l := (e.gatherAddrs a b w (gathSigned t)).map (fun j =>
      let r := storeReq j.2 (w / 8)
      (r, fun (p : Place) => p.elem r j.1 (.write (2 ^ (w / 8) - 1) (elem (e.v d) w j.1) false) false))
    let (els, u) ← u.checkAll u.myAccess (e.tag a) (e.c a) l
    u.startOp { e.op u false true with elems := els } [])

/-- The addition of a SCATADD type, R221. -/
def scataddOp (t : Nat) (v : Nat) : Rmw :=
  match t with
  | 0 => .addInt 32 v
  | 1 => .addInt 32 v
  | 2 => .addInt 64 v
  | 3 => .addFloat 2 v
  | 4 => .addFloat 0 v
  | _ => .addFloat 1 v

/-- SCATADD, R221. -/
def execScatadd (g : BitVec 4) (d a b : BitVec 6) (t : BitVec 3) (s : State) : Host.Outcome State Fault Refusal :=
  s.issue (.scatadd g d a b t) (fun e u => do
    let w := scataddWidth t.toNat
    let l := (e.gatherAddrs a b w (t != 1)).map (fun j =>
      let r := rmwReq j.2 (w / 8)
      (r, fun (p : Place) => p.elem r j.1 (.rmw (scataddOp t.toNat (elem (e.v d) w j.1))) false))
    let (els, u) ← u.checkAll u.myAccess (e.tag a) (e.c a) l
    u.startOp { e.op u false true with elems := els } [])

/-! ## GATHP, R219, R220 -/

/-- Checks 1 to 4 of R190 on a GATHP lane, R219 step 1. -/
def State.gathpCheck (t : State) (a : Access) (tag : Bool) (c : Cap) (r : Req) : Option Nat :=
  match capCheck tag c r.perms r.x r.n with
  | some code => some code
  | none =>
    if r.x % r.align ≠ 0 then some causeAlign
    else if bits r.x 63 60 = 0xE then
      match t.localPlace a r with
      | .error code => some code
      | .ok _ => none
    else if bits r.x 63 60 ≥ 8 ∨ bits r.x 59 57 ≠ 0 then some causeAccess
    else none

/-- The fault note whose region holds a virtual address, R219 step 2. -/
def Slot.noteFor (x : Slot) (asid va : Nat) : Option Note :=
  x.notes.find? (fun n => n.part == x.part && n.asid == asid && n.root == bits va 62 60 &&
    decide (n.lo ≤ bits va 56 0) && decide (bits va 56 0 < n.hi))

/-- An issued GATHP lane's remaining checks, with the translation at hand, R202, R415; none where the lane is not issued. -/
def State.gathpPlace (t : State) (a : Access) (c : Cap) (r : Req) : Except Nat (Option Place) × State :=
  if bits r.x 63 60 = 0xE then
    match t.localPlace a r with
    | .error code => (.error code, t)
    | .ok k =>
      let p : Place := ⟨k, keyKeepsTags k, true, t.worldCore (bits r.x 49 36), false⟩
      match worldCheck a (c.has .wrld) p with
      | some code => (.error code, t)
      | none => (.ok (some p), t)
  else
    match t.atHand a r.x with
    | (none, u) => (.ok none, u)
    | (some e, u) =>
      let p : Place := ⟨e.pa r.x, bit e.pte 7, false, u.worldPa (e.pa r.x), bits e.pte 51 50 == 0⟩
      if !leafAllows e.pte a r then (.error causePagePerm, u)
      else match worldCheck a (c.has .wrld) p with
        | some code => (.error code, u)
        | none => (.ok (some p), u)

/-- The issued lanes with their places, and the others, R219 step 3. -/
def State.gathpSplit (t : State) (a : Access) (c : Cap) :
    List (Nat × Req) → Except Exit (List (Nat × Req × Place) × List (Nat × Req) × State)
  | [] => .ok ([], [], t)
  | (j, r) :: rest =>
    match t.gathpPlace a c r with
    | (.error code, _) => .error (.trap code r.x 0)
    | (.ok p, u) => do
      let (l, m, u) ← u.gathpSplit a c rest
      match p with
      | some q => .ok ((j, r, q) :: l, m, u)
      | none => .ok (l, (j, r) :: m, u)

/-- A walk for a GATHP lane, R219 step 4. -/
def State.joinWalk (t : State) (a : Access) (x : Nat) : State :=
  t.askWalk a x (fun w => { w with joined := if w.joined.contains (t.myRef, a.sup) then w.joined else w.joined ++ [(t.myRef, a.sup)] })

/-- GATHP, R219: the issued lanes' guard spans take the value of N. -/
def execGathp (g : BitVec 4) (d a b : BitVec 6) (t : BitVec 3) (s : State) : Host.Outcome State Fault Refusal :=
  s.issue (.gathp g d a b t) (fun e u => do
    let w := gathWidth t
    let acc := u.myAccess
    let c := e.c a
    let l := (e.gatherAddrs a b w (gathSigned t)).map (fun j => (j.1, loadReq j.2 (w / 8)))
    match l.findSome? (fun j => (u.gathpCheck acc (e.tag a) c j.2).map (fun code => (code, j.2.x))) with
    | some (code, x) => .error (.trap code x 0)
    | none =>
      match l.findSome? (fun j => if bits j.2.x 63 60 = 0xE then none else (e.sl.noteFor acc.ctx j.2.x).map (fun n => (n, j.2.x))) with
      | some (n, x) =>
        .ok ((u.updMe (fun _ => { e.sl with notes := e.sl.notes.erase n })).enterTrap e.core e.slot n.cause x 0 false 0 e.first)
      | none =>
        let (here, there, u) ← u.gathpSplit acc c l
        let u := there.foldl (fun v j => v.joinWalk acc j.2.x) u
        let p := g.toNat % 8
        let off := here.map (fun j => (j.1, decide (g.toNat ≥ 8)))
        let u := u.updArch (fun r => r.setPred p (writeSpans (r.pred p) w off))
        if here.isEmpty then .ok u
        else
          let els := here.map (fun j => j.2.2.elem j.2.1 j.1 .read false)
          u.startOp { e.op u true false with elems := els, ret := .lanes d.toNat w } [.reg d.toNat])

/-! ## Full/empty operations, R222 to R224 -/

/-- The words that a full/empty access touches: both or the one of a scalar, or the enabled lanes, R210, R222. -/
def Env.feWords (e : Env) (z : BitVec 3) : Nat :=
  if z = 5 then packList 1 ((List.range 32).map (fun j => b2n (enabled e.mask 32 j))) else 2 ^ (2 ^ (z.toNat - 2)) - 1

/-- The size of a full/empty access, R222. -/
def feSize (z : BitVec 3) : Nat := if z = 5 then 128 else sizeOf z

/-- A full/empty instruction after its issue: its one element, checked as R211 says. R242 keeps each granule of size v whole
separately; here the 128 bytes are performed in one access (DESIGN CHOICE, assumption 118). -/
def State.feElem (t : State) (e : Env) (a : BitVec 6) (x : Nat) (z : BitVec 3) (load queue : Bool) (act : Act) :
    Except Exit (Elem × State) := do
  let n := feSize z
  let r := { (if load then loadReq x n else storeReq x n) with fe := true, queue := queue && z == 3 }
  let (p, t) ← if z = 5 then t.checkLanes t.myAccess (e.tag a) (e.c a) r e.lanes else t.checkOne t.myAccess (e.tag a) (e.c a) r
  .ok (p.elem r 0 act false, t)

/-- What a full/empty load writes, R222. -/
def feRet (d : BitVec 6) (z : BitVec 3) (words : Nat) : Ret := if z = 5 then .vec d.toNat words else .scalar d.toNat

/-- LDFE, R222: always an acquire. -/
def execLdfe (g : BitVec 4) (d a o : BitVec 6) (z : BitVec 3) (s : State) : Host.Outcome State Fault Refusal :=
  s.issue (.ldfe g d a o z) (fun e t => do
    let w := e.feWords z
    let (el, t) ← t.feElem e a (e.addrM a o (feSize z)) z true true (.feLoad w)
    t.startOp { e.op t true false with acquire := true, acqScope := 4, elems := [el], ret := feRet d z w } [.reg d.toNat])

/-- STFE, R222: always a release. -/
def execStfe (g : BitVec 4) (d a o : BitVec 6) (z : BitVec 3) (s : State) : Host.Outcome State Fault Refusal :=
  s.issue (.stfe g d a o z) (fun e t => do
    let (el, t) ← t.feElem e a (e.addrM a o (feSize z)) z false true (.feStore (e.feWords z) (e.v d).toNat)
    t.startOp { e.op t false true with release := true, relScope := 4, elems := [el] } [])

/-- FEOP LDF, R224. -/
def execFeopLdf (g : BitVec 4) (d a : BitVec 6) (z : BitVec 3) (s : State) : Host.Outcome State Fault Refusal :=
  s.issue (.feopLdf g d a z) (fun e t => do
    let w := e.feWords z
    let (el, t) ← t.feElem e a (e.c a).addr.toNat z true false (.ldf w)
    t.startOp { e.op t true false with elems := [el], ret := feRet d z w } [.reg d.toNat])

/-- FEOP STF, R224. -/
def execFeopStf (g : BitVec 4) (d a : BitVec 6) (z : BitVec 3) (s : State) : Host.Outcome State Fault Refusal :=
  s.issue (.feopStf g d a z) (fun e t => do
    let (el, t) ← t.feElem e a (e.c a).addr.toNat z false false (.stf (e.feWords z) (e.v d).toNat)
    t.startOp { e.op t false true with elems := [el] } [])

/-- FEOP SETE, R224. -/
def execFeopSete (g : BitVec 4) (a : BitVec 6) (z : BitVec 3) (s : State) : Host.Outcome State Fault Refusal :=
  s.issue (.feopSete g a z) (fun e t => do
    let (el, t) ← t.feElem e a (e.c a).addr.toNat z false false (.setE (e.feWords z))
    t.startOp { e.op t false true with elems := [el] } [])

/-- FEOP SETF, R224. -/
def execFeopSetf (g : BitVec 4) (a : BitVec 6) (z : BitVec 3) (s : State) : Host.Outcome State Fault Refusal :=
  s.issue (.feopSetf g a z) (fun e t => do
    let (el, t) ← t.feElem e a (e.c a).addr.toNat z false false (.setF (e.feWords z))
    t.startOp { e.op t false true with elems := [el] } [])

/-- FEOP QTAG, R224. -/
def execFeopQtag (g : BitVec 4) (d a : BitVec 6) (s : State) : Host.Outcome State Fault Refusal :=
  s.issue (.feopQtag g d a) (fun e t => do
    let (el, t) ← t.feElem e a (e.c a).addr.toNat 5 true false (.qtag (e.feWords 5))
    t.startOp { e.op t true false with elems := [el], ret := .scalar d.toNat } [.reg d.toNat])

/-! ## Tickets, R225 to R231 -/

/-- LDT, R226: the allocation request leaves for the home slice. -/
def execLdt (g : BitVec 4) (d a o : BitVec 6) (z : BitVec 3) (s : State) : Host.Outcome State Fault Refusal :=
  s.issue (.ldt g d a o z) (fun e t => do
    let n := 16 * sizeOf z
    let x := e.addrM a o n
    let r := { loadReq x n with perms := [.ld, .tkt] }
    match capCheck (e.tag a) (e.c a) r.perms x n with
    | some code => faultAt code x
    | none =>
      check (x % n == 0) causeAlign x
      check (decide (bits x 63 60 < 8)) causeAccess x
      let (p, t) ← t.checkOne t.myAccess (e.tag a) (e.c a) r
      let o := { e.op t true false with kind := .ticketAlloc z.toNat, elems := [p.elem r 0 .read false], ret := .ticket d.toNat }
      let (id, t) ← t.enterOp o [.reg d.toNat]
      .ok (t.push (.ticketAllocation id)))

/-- The checks on a ticket, R228 step 1. -/
def State.checkTicket (t : State) (r : Reg) : Except Exit Unit := do
  let c := r.cap
  let x := c.addr.toNat
  check r.tag causeTag x
  check (c.otype == 1) causeSeal x
  check (c.has .tkt) causePerm x
  check (bits x 59 50 == t.table.devnum) causeAccess x

/-- RDM, R228: the redeem takes the place of the task's one outstanding guest. -/
def execRdm (g : BitVec 4) (d a : BitVec 6) (s : State) : Host.Outcome State Fault Refusal :=
  s.issue (.rdm g d a) (fun e t => do
    let r := e.a.reg a.toNat
    t.checkTicket r
    let o := { e.op t true false with kind := .ticketRedeem r.cap.toBits, ret := .redeem d.toNat none }
    let (id, t) ← t.enterOp o [.reg d.toNat]
    .ok ((t.updMe (fun x => { x with ship := some (e.opened id true [a.toNat]) })).push (.ticketRedeem id)))

/-- RDM.S, R228: never faults after issue. -/
def execRdmS (g : BitVec 4) (d a b : BitVec 6) (s : State) : Host.Outcome State Fault Refusal :=
  s.issue (.rdmS g d a b) (fun e t => do
    let r := e.a.reg a.toNat
    t.checkTicket r
    let o := { e.op t true false with kind := .ticketRedeem r.cap.toBits, ret := .redeem d.toNat (some b.toNat) }
    let (id, t) ← t.enterOp o [.reg d.toNat, .reg b.toNat]
    .ok (t.push (.ticketRedeem id)))

/-- TKREL, R230. -/
def execTkrel (g : BitVec 4) (a : BitVec 6) (s : State) : Host.Outcome State Fault Refusal :=
  s.issue (.tkrel g a) (fun e t => do
    let r := e.a.reg a.toNat
    t.checkTicket r
    let (id, t) ← t.enterOp { e.op t false false with kind := .ticketRelease r.cap.toBits } []
    .ok (t.push (.ticketRelease id)))

/-! ## Prefetch and fences, R232, R233 -/

/-- PREF, R232: SZ 0 brings the line into L1 and 1 into its home slice alone, and every form fills the TLBs; it never faults, and
does nothing where a walk would be needed and finds the walk queue full; for its walk it waits. The spec gives it no length and no
alignment: its checks of R190 are those of a load of one byte (DESIGN CHOICE, assumption 115). -/
def execPref (g : BitVec 4) (a o : BitVec 6) (z : BitVec 3) (s : State) : Host.Outcome State Fault Refusal :=
  s.issue (.pref g a o z) (fun e t =>
    let x := e.addrM a o 128
    let acc := t.myAccess
    if bits x 63 60 ≥ 8 then .ok t
    else match t.checkOne acc (e.tag a) (e.c a) { loadReq x 1 with align := 1 } with
      | .error (.walk b y) => if (t.walkQueue (corePlate (t.phys e.core))).length ≥ 512 then .ok t else .error (.walk b y)
      | .error _ => .ok t
      | .ok (p, u) => .ok (if z = 2 then u else ((u.reach { key := p.key, part := acc.part, core := some e.core, asid := acc.ctx, va := x, lsu := true, fills := z == 0 && p.attr0 } none).map (·.2)).getD u))

/-- A fence's marks are kept while an earlier operation, message or copy of the task is still under way. -/
def State.addFence (t : State) (f : FenceMark) : State :=
  let me := t.myRef
  let live := fun (m : FenceMark) => t.ops.any (fun o => decide (o.1 < m.id) && o.2.task == me && !o.2.performed) || t.sentBefore m.id me
  t.updMe (fun x => { x with fences := (x.fences ++ [f]).filter live })

/-- FENCE, R233, R248, R249: with drain it waits for STC and for what its release orders. -/
def execFence (g k : BitVec 4) (c : BitVec 3) (s : State) : Host.Outcome State Fault Refusal :=
  s.issue (.fence g k c) (fun e t => do
    stallIf (k.getLsbD 3 && e.sl.stc != 0) .counter
    stallIf (k.getLsbD 3 && !t.releaseReady (k.getLsbD 1 || k.getLsbD 2)) .order
    if k.toNat % 8 = 0 then .ok t
    else
      let (id, t) := t.fresh
      .ok (t.addFence { id := id, acquire := k.getLsbD 0, release := k.getLsbD 1, full := k.getLsbD 2, scope := c.toNat }))

/-! ## Atomics, R236, R237 -/

/-- An atomic's one access, checked and on its way. -/
def State.atomic (t : State) (e : Env) (a : BitVec 6) (n : Nat) (keep cld counter : Bool) (r : Rmw) (ret : Ret) (dests : List Dest) :
    Except Exit State := do
  let q := { rmwReq (e.c a).addr.toNat n with keepTag := keep, counter := counter }
  let (p, t) ← t.checkOne t.myAccess (e.tag a) (e.c a) q
  t.startOp { e.op t true true with elems := [p.elem q 0 (.rmw r) cld], ret := ret } dests

/-- ATOM of 32 bits, R236. -/
def execAtom32 (g : BitVec 4) (d a b : BitVec 6) (t : BitVec 3) (s : State) : Host.Outcome State Fault Refusal :=
  s.issue (.atom32 g d a b t) (fun e u =>
    u.atomic e a 4 false false false (.atom 32 t.toNat (elem (e.v b) 32 0)) (.scalar d.toNat) [.reg d.toNat])

/-- ATOM of 64 bits, R236. -/
def execAtom64 (g : BitVec 4) (d a b : BitVec 6) (t : BitVec 3) (s : State) : Host.Outcome State Fault Refusal :=
  s.issue (.atom64 g d a b t) (fun e u =>
    u.atomic e a 8 false false true (.atom 64 t.toNat (e.x b)) (.scalar d.toNat) [.reg d.toNat])

/-- The read-modify-write of an XATOM, R237. -/
def xatomOp (t : Nat) (vb vd : Vec) (tb td cst : Bool) : Rmw :=
  match t with
  | 0 => .xchg 32 (elem vb 32 0)
  | 1 => .xchg 64 (elem vb 64 0)
  | 2 => .cas 32 (elem vb 32 0) (elem vd 32 0)
  | 3 => .cas 64 (elem vb 64 0) (elem vd 64 0)
  | 4 => .cas128 (elem vb 128 0) (elem vd 128 0) tb td cst
  | 5 => .incw (elem vb 32 0)
  | 6 => .faddb 32 (elem vb 32 0) (elem vb 32 1)
  | _ => .faddb 64 (elem vb 64 0) (elem vb 64 1)

/-- The bytes that an XATOM accesses, R237. -/
def xatomBytes (t : Nat) : Nat := if t = 4 then 16 else if t = 1 ∨ t = 3 ∨ t = 7 then 8 else 4

/-- XATOM, R237: CAS128 of a little core is shipped. -/
def execXatom (g : BitVec 4) (d a b : BitVec 6) (t : BitVec 3) (s : State) : Host.Outcome State Fault Refusal :=
  s.issue (.xatom g d a b t) (fun e u =>
    if t = 4 ∧ !e.big then do
      stallIf (e.sl.ldc != 0 || e.sl.stc != 0) .counter
      stallIf (!u.shipsNow e) .order
      .ok (u.ship e (.xatom g d a b t) (e.a.reg d.toNat) (e.a.reg a.toNat) (e.a.reg b.toNat) 0 [.reg d.toNat])
    else do
      let n := xatomBytes t.toNat
      let cst := (e.c a).has .cst
      let p := g.toNat % 8
      let vb := e.v b
      let ret : Ret := (match t.toNat with
        | 4 => .cap d.toNat
        | 6 => .oldPred d.toNat p (elem vb 32 0) (elem vb 32 1)
        | 7 => .oldPred d.toNat p (elem vb 64 0) (elem vb 64 1)
        | _ => .scalar d.toNat)
      let dests := if t.toNat ≥ 6 then [Dest.reg d.toNat, Dest.pred p] else [Dest.reg d.toNat]
      u.atomic e a n (t == 4 && e.tag d && cst) (t == 4 && (e.c a).has .cld) (t == 1 || t == 3 || t == 7)
        (xatomOp t.toNat vb (e.v d) (e.tag b) (e.tag d) cst) ret dests)

end Sys2Proof.Machine
end

