-- ==== Sys2Proof/Machine/Guests.lean ====
section
/-!
DEFINITION. Guests: the guest queue of a big core (R167), their issue and execution (R168 to R170, R176), and the result at
the sender (R171, R175, R315).
-/

namespace Sys2Proof.Machine

/-! ## The guest queue, R167 -/

/-- The nodes of a plate whose home is a big core. -/
def State.homeNodes (s : State) (big : Nat) : Nat :=
  ((List.range 768).filter (fun i =>
    let c := coreId (corePlate big) (i % 32) (i / 32) 0
    isLittle c && !s.isEasel c && s.homeOf c == big)).length

/-- The guests that hold an entry of a big core's queue, until their results have been returned. -/
def State.entriesOf (s : State) (big : Nat) : List Guest :=
  (s.guests.filter (fun g => g.2.home == big && decide (1 ≤ g.2.place) && decide (g.2.place ≤ 4))).map (·.2)

/-- Whether an entry is free for a node: its reserved one, or a shared one. -/
def State.entryFree (s : State) (big node : Nat) : Bool :=
  let l := s.entriesOf big
  let count := fun (n : Nat) => (l.filter (fun g => nodeOf g.task.core == n)).length
  let nodes := (l.map (fun g => nodeOf g.task.core)).dedup
  let shared := (nodes.map (fun n => count n - 1)).sum
  count node == 0 || decide (shared + s.homeNodes big < 64)

/-- A guest replaced. -/
def State.setGuest (s : State) (k : Nat) (g : Guest) : State := { s with guests := s.guests.set k g }

/-- A guest packet enters the guest queue of its home, R167: in ship order within its node. -/
def execGuestPacketArrival (guest : Nat) (s : State) : Host.Outcome State Fault Refusal :=
  let done := s.did (.guestPacketArrival guest)
  match s.guests.look guest with
  | none => .next done
  | some g =>
    let node := nodeOf g.task.core
    let older := s.guests.any (fun x => decide (x.1 < guest) && x.2.place == 0 && nodeOf x.2.task.core == node)
    if g.place ≠ 0 then .next done
    else if older ∨ !s.entryFree g.home node then .next s
    else
      let t := done.setGuest guest { g with place := 1 }
      .next ((t.updBig g.home (fun b => { b with guests := b.guests ++ [guest] })).push (.guestIssue g.home))

/-! ## Execution, R170 -/

/-- The access that a guest makes, R170. -/
def Guest.access (g : Guest) (k : Nat) : Access := ⟨g.home, g.ctx, g.part, g.world, g.sup, .guest k⟩

/-- A guest's result, R171. -/
def State.answerGuest (s : State) (k : Nat) (g : Guest) : State := (s.setGuest k { g with place := 4 }).push (.guestResult k)

/-- The request of a CAS128 guest, R170, R237. -/
def Guest.casReq (g : Guest) : Req :=
  { rmwReq g.a.cap.addr.toNat 16 with keepTag := g.d.tag && g.a.cap.has .cst }

/-- The address for whose walk a CAS128 guest has to stand aside, R169. -/
def Guest.casWalk (g : Guest) : List Nat :=
  let x := g.a.cap.addr.toNat
  if bits x 63 60 ≥ 8 ∨ bits x 59 57 ≠ 0 ∨ (capCheck g.a.tag g.a.cap g.casReq.perms x 16).isSome ∨ x % 16 ≠ 0 then [] else [x]

/-- The first of some addresses whose translation is not at hand and for whose walk the guest has not stood aside yet, R169. -/
def State.asideFor (s : State) (k : Nat) (g : Guest) : List Nat → Option Nat × State
  | [] => (none, s)
  | x :: r =>
    if g.walked.contains (x / 65536) then s.asideFor k g r
    else match s.atHand (g.access k) x with
      | (some _, t) => t.asideFor k g r
      | (none, t) => (some x, t)

/-- A guest set aside for a walk, R169, R204. -/
def State.setAside (s : State) (k : Nat) (g : Guest) (x : Nat) : State :=
  (s.setGuest k { g with place := 2, walked := g.walked ++ [x / 65536] }).askWalk (g.access k) x (fun w => { w with guests := if w.guests.contains k then w.guests else w.guests ++ [k] })

/-- A CAS128 guest performed, R170, R237: at its home slice, where the big core's predictor places it (R234), or at local
storage; none where the storage does not accept it now. -/
def State.runCas (s : State) (k : Nat) (g : Guest) : Option State :=
  let c := g.a.cap
  match s.checkAccess (g.access k) g.a.tag c g.casReq with
  | (.error code, t) =>
    some (if code = notYet then s.setAside k g c.addr.toNat else t.answerGuest k { g with fault := some (code, c.addr.toNat, 0) })
  | (.ok p, t) =>
    let el := p.elem g.casReq 0 (.rmw (xatomOp 4 g.b.v g.d.v g.b.tag g.d.tag (c.has .cst))) (c.has .cld)
    let v : Visit := { key := p.key, part := g.part, core := some g.home, asid := g.ctx, va := c.addr.toNat, placed := el.placed, writes := true, lsu := true }
    if t.guardedFrom g.task.core (some g.task) p.key 16 true true then none
    else (if p.isLocal then t.accessBank p.key else (t.reach v none).map (·.2)).map (fun t =>
      let (f, u) := t.performElem el none
      if f.bad then u.answerGuest k { g with fault := some (causeData, c.addr.toNat, 0) }
      else u.answerGuest k { g with res := BitVec.ofNat 1024 f.val, resTag := f.valTag })

/-- The command of an MTX guest, R315. -/
def Guest.cmd (g : Guest) (k : Nat) : MtxCmd :=
  let sel := scalarOf g.b.v
  let t := (g.word.extractLsb' 0 3).toNat
  { word := g.word, fa := cmdFa g.pfxT, fb := cmdFb g.pfxT, prs := prsOf g.pfxT, prec := g.prec, core := g.home, ctx := g.ctx,
    part := g.part, world := g.world, sup := g.sup, a := g.a, b := g.b, a1 := g.a1, b1 := g.b1, guest := some k,
    sender := some (g.task, k), launch := g.launch,
    rowTo := if t = 4 ∧ !bit sel 8 then some ((g.word.extractLsb' 9 6).toNat) else none }

/-- An MTX guest enters the matrix command path, R169, R298, R314, R315: its checks first, in normal mode; its result returns
as soon as they have passed, and that of an ACCMV to a register once it is done. -/
def State.runMtxGuest (s : State) (k : Nat) (g : Guest) : State :=
  let (id, t) := s.fresh
  let enter := fun (m : MtxCmd) (t : State) => (t.setGuest k { g with place := 3 }).enterInbox id m
  if (s.core g.home).big.deferred then enter (g.cmd k) t
  else match t.mtxCheck (g.cmd k) with
    | (.error (_, code, tval), u) => if code = notYet then t.setAside k g tval else u.answerGuest k { g with fault := some (code, tval, 0) }
    | (.ok m, t) =>
      if m.rowTo.isSome then enter m t
      else (t.enterInbox id m).answerGuest k g

/-- The addresses whose walks step 7 of R298 needs for an MTX guest in normal mode, where its earlier steps pass, R169. -/
def State.mtxWalks (s : State) (k : Nat) (g : Guest) : List Nat :=
  let m := g.cmd k
  if (s.core g.home).big.deferred ∨ (s.mtxForm m).isSome then []
  else (m.operands.filter (fun o => recSpace o.r == 0)).flatMap Operand.pieces

/-- Whether an instruction is an MTX. -/
def isMtx : Instr → Bool
  | .mtxMma .. | .mtxMmaz .. | .mtxAccld .. | .mtxAccst .. | .mtxAccmv .. | .mtxCodeb .. | .mtxAccq .. | .mtxAccfree .. => true
  | _ => false

/-- A guest issues in its turn, R168, R169, R176: one whose memory operand needs a walk stands aside while later ones issue. -/
def execGuestIssue (core : Nat) (s : State) : Host.Outcome State Fault Refusal :=
  let done := s.did (.guestIssue core)
  match (s.core core).big.guests with
  | [] => .next done
  | k :: _ =>
    let t := done.updBig core (fun b => { b with guests := b.guests.erase k })
    match s.guests.look k with
    | none => .next t
    | some g => match decode g.word with
      | .error _ => .next t
      | .ok i =>
        let cas : Bool := (match i with
          | .xatom .. => true
          | _ => false)
        match t.asideFor k g (if cas then g.casWalk else if isMtx i then t.mtxWalks k g else []) with
        | (some x, t) => .next (t.setAside k g x)
        | (none, t) =>
          if cas then (match t.runCas k g with
            | some u => .next u
            | none => .next s)
          else if isMtx i then .next (t.runMtxGuest k g)
          else
            let v := guestValue i g
            .next (t.answerGuest k { g with res := v.1, flags := v.2 })

/-- A guest that stood aside returns to the head of the queue, R169. -/
def execGuestWalkDone (guest : Nat) (s : State) : Host.Outcome State Fault Refusal :=
  let done := s.did (.guestWalkDone guest)
  match s.guests.look guest with
  | none => .next done
  | some g =>
    if g.place ≠ 2 then .next done
    else
      let t := done.setGuest guest { g with place := 1 }
      .next ((t.updBig g.home (fun b => { b with guests := guest :: b.guests })).push (.guestIssue g.home))

/-! ## The result at the sender -/

/-- What a guest's result writes, R171: the enabled elements of D, or PD and PE; the flags come apart. -/
def Guest.commit (g : Guest) (i : Instr) (a : Arch) : Arch :=
  match i with
  | .fcmp _ _ p e _ _ t =>
    commitCompare p e (modeOf g.pfxC) (floatWidth t) g.guard (fun j => bit g.res.toNat j) a
  | .xatom _ d _ _ _ => a.setReg d.toNat { v := g.res, tag := g.resTag }
  | .mtxAccmv _ _ r b => if bit (scalarOf g.b.v) 8 then a else a.setVec r.toNat g.res
  | .mtxMma .. | .mtxMmaz .. | .mtxAccld .. | .mtxAccst .. | .mtxCodeb .. | .mtxAccq .. | .mtxAccfree .. => a
  | .fadd _ d _ _ _ | .fsub _ d _ _ _ | .fmul _ d _ _ _ | .fma _ d _ _ _ | .fnma _ d _ _ _ | .fmin _ d _ _ _
  | .fmax _ d _ _ _ | .fminp _ d _ _ _ | .fscale _ d _ _ _ | .fdiv _ d _ _ _ | .funop _ d _ _ _ | .fred _ d _ _ _
  | .ftrans _ d _ _ _ | .fsqrt _ d _ _ | .fscan _ d _ _ | .fcvt _ d _ _ _ _ | .i2f _ d _ _ _ _ | .f2i _ d _ _ _ _ =>
    a.setVec d.toNat g.res
  | _ => a

/-- A guest result reaches its sender, R171, R175: committed with the carry-ahead window, or a remote fault. -/
def execGuestResult (guest : Nat) (s : State) : Host.Outcome State Fault Refusal :=
  let done := s.did (.guestResult guest)
  match s.guests.look guest with
  | none => .next done
  | some g => match decode g.word with
    | .error _ => .next done
    | .ok i =>
      if g.place ≠ 4 then .next done
      else
        let x := done.slot g.task.core g.task.slot
        let mine : Bool := done.alive g.task && (match x.ship with
          | some sh => sh.id == guest
          | none => false)
        match g.fault with
        | some (code, tval, qual) =>
          let t := { done with guests := done.guests.drop guest }
          if mine then
            let t := if isMtx i then t.updTask g.task (fun y => { y with mxc := y.mxc - 1 }) else t
            .next (t.remoteFault g.task code tval qual)
          else .next t
        | none =>
          let t := (if isMtx i then done.setGuest guest { g with place := 5 } else { done with guests := done.guests.drop guest })
          if !mine then .next t
          else
            let y := { x with arch := g.commit i x.arch, board := x.board.filter (fun b => b.2 != guest) }
            let t := t.setSlot g.task.core g.task.slot y
            let t := if isMtx i then t else t.raiseFor g.task.core g.task.slot g.flags
            .next (t.closeWindow g.task)

/-- A done notice reaches the sender, R315: NV and OF enter SR and MXC falls. -/
def execDoneNotice (guest : Nat) (s : State) : Host.Outcome State Fault Refusal :=
  let done := s.did (.doneNotice guest)
  match s.guests.look guest with
  | none => .next done
  | some g =>
    if g.place ≠ 5 then .next s
    else
      let t := { done with guests := done.guests.drop guest }
      if !t.alive g.task then .next t
      else
        let t := t.updTask g.task (fun x => { x with mxc := x.mxc - 1 })
        .next (t.raiseLate g.task.core g.task.slot g.flags)

end Sys2Proof.Machine
end

