-- ==== Sys2Proof/Machine/Queues.lean ====
section
/-!
DEFINITION. Command queues: the descriptor and the ring (R394), packets and their check (R395, R396), the order of packets
and steps (R397), the steps (R395, R398), and completion records (R399).
-/

namespace Sys2Proof.Machine

/-! ## Rings and packets -/

/-- The number of entries of a ring. -/
def CmdQueue.size (q : CmdQueue) : Nat := 2 ^ q.qlog

/-- Entries written and not yet consumed, R394. -/
def CmdQueue.have (q : CmdQueue) : Nat := (q.tail + 2 ^ 64 - q.head % 2 ^ 64) % 2 ^ 64

/-- The eight words of an entry. -/
def entryWords (l : List Byte) : List Nat := (List.range 8).map (fun j => leAt l (8 * j) 8)

/-- The address of the k-th entry from HEAD on. -/
def CmdQueue.entryAt (q : CmdQueue) (k : Nat) : Nat := q.qbase + 64 * ((q.head + k) % q.size)

/-- The words of n entries from the k-th on, with the state after the loads; or the code and address of the first that fails. -/
def State.entries (s : State) (q : CmdQueue) : Nat → Nat → Except (Nat × Nat) (List Nat × State)
  | 0, _ => .ok ([], s)
  | n + 1, k => match s.cpLoad q.ctx (q.entryAt k) 64 with
    | .error c => .error (c, q.entryAt k)
    | .ok (l, t) => match t.entries q n (k + 1) with
      | .error c => .error c
      | .ok r => .ok (entryWords l ++ r.1, r.2)

/-- Word j of entry e of a packet. -/
def wordOf (l : List Nat) (e j : Nat) : Nat := l[8 * e + j]?.getD 0

/-- Whether a word is zero beyond the named bytes, which are counted from byte 0 of word `from_`. -/
def tailClear (w j from_ len : Nat) : Bool := w / 2 ^ (8 * min 8 (len - 8 * (j - from_))) == 0

/-- Whether word 0 of a step is right: OPC, SUB and LEN in range and zero above, R395. -/
def stepHeadOk (w : Nat) : Bool :=
  let opc := bits w 7 0
  let sub := bits w 15 8
  let len := bits w 23 16
  decide (w < 2 ^ 24) && match opc with
    | 1 => sub == 0 && decide (1 ≤ len) && decide (len ≤ 48)
    | 2 => decide (sub ≤ 1) && len == 0
    | 3 => decide (sub ≤ 3) && len == 0
    | 4 => sub == 0 && len == 0
    | 5 => sub == 0 && len == 0
    | 6 => sub == 0 && decide (len ≤ 40)
    | 7 => decide (sub ≤ 1) && len == 0
    | 8 => decide (sub ≤ 7) && len == 0
    | _ => false

/-- Whether operand word j of a step is right, R395: within its bound, and zero where the table names nothing. -/
def stepWordOk (w0 j w : Nat) : Bool :=
  let sub := bits w0 15 8
  let len := bits w0 23 16
  match bits w0 7 0 with
  | 1 => j == 1 || tailClear w j 2 len
  | 2 => if j = 1 then w % 8 == 0 else j == 2 || w == 0
  | 3 => if j = 3 then decide (1 ≤ w) && decide (w ≤ 1000) else decide (j < 3) || w == 0
  | 4 => if j = 3 then w % 16 == 0 && decide (w ≤ 2 ^ 24) else decide (j < 3) || w == 0
  | 6 => j == 1 || tailClear w j 2 len
  | 8 =>
    if j = 1 then sub == 0 || (if sub = 1 then w == 0 else decide (w ≤ 15))
    else if j = 2 ∧ sub = 7 then decide (1 ≤ w) && decide (w ≤ 16) else w == 0
  | _ => j == 1 || w == 0

/-- Whether word j of entry e of a packet is right, R396. -/
def packetWordOk (l : List Nat) (e j : Nat) : Bool :=
  let w := wordOf l e j
  if e = 0 then (if j = 0 then decide (1 ≤ bits w 7 0) && decide (bits w 7 0 ≤ 8) && bits w 31 10 == 0 else w == 0)
  else if j = 0 then stepHeadOk w else stepWordOk (wordOf l e 0) j w

/-- The first offending word of a packet in ring order: its place in the list, R396. -/
def firstBad (l : List Nat) : Option Nat := (List.range l.length).find? (fun i => !packetWordOk l (i / 8) (i % 8))

/-- NSTEP, SERIAL, COMPL and TAG of a packet, R395. -/
def packetSteps (l : List Nat) : Nat := bits (wordOf l 0 0) 7 0
def packetSerial (l : List Nat) : Bool := bit (wordOf l 0 0) 8
def packetCompl (l : List Nat) : Bool := bit (wordOf l 0 0) 9
def packetTag (l : List Nat) : Nat := bits (wordOf l 0 0) 63 32

/-! ## Completion records, R399 -/

/-- A completion record. -/
def recordBytes (gt word tag step status lstat next : Nat) : List Byte :=
  leBytes 8 next ++ leBytes 1 0 ++ leBytes 1 lstat ++ leBytes 1 status ++ leBytes 1 step ++ leBytes 4 tag ++ leBytes 8 word ++ leBytes 8 gt

/-- Where a queue's next completion record goes. -/
def CmdQueue.recordAt (q : CmdQueue) : Nat := q.cbase + 32 * (q.head % q.size)

/-- A record written at HEAD's index, and its copy sent where COMPL asks for it, R392, R399. A record that cannot be stored is
lost; none where it cannot be stored yet. -/
def State.putRecord (s : State) (n : Nat) (q : CmdQueue) (compl : Bool) (tag step status word lstat next : Nat) : Option State :=
  let b := recordBytes s.gt word tag step status lstat next
  let copy := fun (t : State) => (match (if compl then (s.sessions.look q.session).map (·.peer.addr) else none) with
    | none => t
    | some a => t.sendData kCompl q.session a (leBytes 2 n ++ leBytes 2 0 ++ leBytes 4 (q.head % q.size) ++ b))
  match s.cpStore q.ctx q.recordAt b with
  | .ok u => some (copy u)
  | .error c => if c = notYet then none else some (copy s)

/-- The wait for a record's place. -/
def State.askRecord (s : State) (q : CmdQueue) : State := s.cpAsk q.ctx true q.recordAt 32

/-- The LSTAT of a SERIAL packet, R399. -/
def State.lstat (s : State) (l : List Nat) : Nat :=
  (l.map (fun k => match s.launches.look k with
    | some x => x.status
    | none => 0)).find? (fun x => x != 0) |>.getD 0

/-- Whether every launch of a list has ended. -/
def State.allEnded (s : State) (l : List Nat) : Bool :=
  l.all (fun k => match s.launches.look k with
    | some x => x.root == .ended
    | none => true)

/-! ## Reading TAIL, R394 -/

/-- The descriptor's fields put back where the host has written over them: every host write but those that R394 names is
ignored. -/
def State.keepDesc (s : State) (q : CmdQueue) : State :=
  match s.cpLoad q.ctx q.desc 56 with
  | .error c => if c = notYet then s.cpAsk q.ctx false q.desc 56 else s
  | .ok (l, t) =>
    if l = q.bytes then t
    else match t.cpStore q.ctx q.desc q.bytes with
      | .ok u => u
      | .error c => if c = notYet then t.cpAsk q.ctx true q.desc 56 else t

/-- A queue ends, R389: a QEND that waits for that is answered. -/
def State.closeQueue (s : State) (n : Nat) (q : CmdQueue) : State :=
  match s.endQueue n q with
  | none => s.endLater n q
  | some t => match q.ending with
    | some (addr, req) => (t.mgmtAnswer 0 addr 9 0 req []).mgmtRest
    | none => t

/-- A queue halted with an error, R394, R396; its descriptor waits for the host. -/
def State.haltQueue (s : State) (n : Nat) (q : CmdQueue) (err resume : Nat) : State :=
  (s.putQueue n { q with state := 2, err := err, resume := resume }).pushOnce (.queueResume n)

/-- The number of command processors, R378. -/
def State.cpCount (s : State) : Nat := (s.roles.filter (fun r => r.2 % 16 == 1)).length

/-- The core of the command processor that serves a queue. -/
def State.cpCore (s : State) (n : Nat) : Nat :=
  match s.roles.find? (fun e => e.2 == 1 + 16 * (n % max 1 s.cpCount)) with
  | some (k, _) => k / 16
  | none => s.roleCore 1

/-- The queues of the command processor that serves a queue, in the order of their numbers: the queues are dealt out among the
processors (assumption 79). -/
def State.cpQueues (s : State) (n : Nat) : List Nat := (s.queues.map (·.1)).filter (fun k => k % max 1 s.cpCount == n % max 1 s.cpCount)

/-- The queue whose slice a command processor runs, with the GT at which it began, R397: where that queue has gone, the first. -/
def State.cpSlice (s : State) (n : Nat) : Option Nat × Nat :=
  match s.cpAt.look (n % max 1 s.cpCount) with
  | some (q, since) => if (s.cpQueues n).contains q then (some q, since) else ((s.cpQueues n).head?, since)
  | none => ((s.cpQueues n).head?, 0)

/-- The command processor reads TAIL of the queue whose slice runs while it has no packet to start, R394, R397; an overrun halts
the queue. A queue that has ended goes once its descriptor can be written. -/
def execTailRead (queue : Nat) (s : State) : Host.Outcome State Fault Refusal :=
  let done := s.did (.tailRead queue)
  match s.queues.look queue with
  | none => .next done
  | some q =>
    if q.state = 0 ∧ q.run.isNone then .next (done.closeQueue queue q)
    else if q.state ≠ 1 then .next done
    else if q.run.isSome ∨ s.due.contains (.packetStart queue) ∨ (s.cpSlice queue).1 ≠ some queue then .next s
    else match (s.keepDesc q).cpLoad q.ctx (q.desc + 56) 8 with
      | .error _ => .next ((s.keepDesc q).cpAsk q.ctx false (q.desc + 56) 8)
      | .ok (l, t) =>
        let q := { q with tail := leNat l }
        let t := { t with queues := t.queues.set queue q }
        if q.have > q.size then
          match t.putRecord queue q false 0 0 7 q.tail 0 q.head with
          | none => .next (t.askRecord q)
          | some u => .next ((u.haltQueue queue q 7 q.head).did (.tailRead queue))
        else if q.have = 0 then .next t
        else .next (t.push (.packetStart queue))

/-- The host has written STATE = 1 to a halted queue: it runs again, after a rejected packet from the record's NEXT on, R394.
-/
def execQueueResume (queue : Nat) (s : State) : Host.Outcome State Fault Refusal :=
  let done := s.did (.queueResume queue)
  match s.queues.look queue with
  | none => .next done
  | some q =>
    if q.state ≠ 2 then .next done
    else match s.cpLoad q.ctx (q.desc + 12) 1 with
      | .error _ => .next (s.cpAsk q.ctx false (q.desc + 12) 1)
      | .ok (l, t) =>
        if leNat l % 4 = 1 then
          .next (((t.did (.queueResume queue)).putQueue queue { q with state := 1, head := q.resume }).pushOnce (.tailRead queue))
        else .next (t.keepDesc q)

/-! ## Starting a packet, R396, R397 -/

/-- A packet starts, or is rejected, once its entries are there, in its queue's slice, R397. -/
def execPacketStart (queue : Nat) (s : State) : Host.Outcome State Fault Refusal :=
  let done := s.did (.packetStart queue)
  match s.queues.look queue with
  | none => .next done
  | some q =>
    if q.state ≠ 1 ∨ q.run.isSome ∨ q.have = 0 ∨ q.have > q.size then .next done
    else if (s.cpSlice queue).1 ≠ some queue then .next s
    else match done.entries q 1 0 with
      | .error (c, x) => .next (if c = notYet then s.cpAsk q.ctx false x 64 else done)
      | .ok (h, t) =>
        let n := bits (wordOf h 0 0) 7 0
        let n := if 1 ≤ n ∧ n ≤ 8 then n else 0
        if q.have < 1 + n then .next t
        else match t.entries q (1 + n) 0 with
          | .error (c, x) => .next (if c = notYet then s.cpAsk q.ctx false x 64 else t)
          | .ok (l, t) => match firstBad l with
            | some i =>
              let next := (q.head + 1 + n) % 2 ^ 64
              match t.putRecord queue q (packetCompl l) (packetTag l) (i / 8) 1 (l[i]?.getD 0) 0 next with
              | none => .next (s.askRecord q)
              | some u => .next (u.haltQueue queue q 1 next)
            | none =>
              let r : RunPacket := { words := l, first := q.head % q.size }
              .next (({ t with queues := t.queues.set queue { q with run := some r } } : State).push (.packetCompletion queue))

/-! ## Steps -/

/-- The step that runs ends with a status: the next step, or the packet's end, R397; what walks would still answer it goes. -/
def State.stepDone (s : State) (n status : Nat) : State :=
  (match s.queues.look n with
    | some q => s.forget (.cp q.ctx)
    | none => s).updQueueRun n (fun r =>
    let r := { r with begun := false, waits := none, result := none }
    if status ≠ 0 then { r with ended := some (r.step, status, r.handle) }
    else if r.step ≥ packetSteps r.words then { r with ended := some (0, 0, r.handle) }
    else { r with step := r.step + 1 })

/-- The step marked as begun. -/
def State.stepBegun (s : State) (n : Nat) (waits : Option Nat) : State :=
  s.updQueueRun n (fun r => if r.begun then { r with waits := waits } else { r with begun := true, since := s.gt, waits := waits })

/-- The bound of a step in GT ticks and the status with which it ends there, R395, R399. -/
def stepBound (w0 timeout : Nat) : Nat × Nat :=
  match bits w0 7 0 with
  | 1 => (2000, 3)
  | 2 => (2000, 3)
  | 3 => (1000 * timeout, 2)
  | 4 => (200000, 3)
  | 6 => (100000, 3)
  | 8 => (if 3 ≤ bits w0 15 8 ∧ bits w0 15 8 ≤ 5 then 1000000 else 50000, 3)
  | _ => (50000, 3)

/-- The bytes of a step from word 2 on. -/
def stepData (l : List Nat) (e n : Nat) : List Byte := ((List.range 6).flatMap (fun j => leBytes 8 (wordOf l e (2 + j)))).take n

/-- A launch record that a step names, R402, R395: the record, or a fault. -/
def State.cpRecord (s : State) (ctx x : Nat) : Except Nat (LaunchRec × State) :=
  match s.placeOf (s.cpAccess ctx) { x := x, n := 128, align := 128 } with
  | (.error c, _) => .error c
  | (.ok p, t) =>
    if p.secure && !(s.cpAccess ctx).world then .error causeAccess
    else match t.touchLine (s.ctx ctx).part (some (s.roleCore 1)) p.key false with
    | none => .error notYet
    | some t =>
      if t.badAt p.key 128 then .error causeData
      else
        let tags := if p.tags then packList 1 ((List.range 4).map (fun k => b2n (t.tagAt (p.key + 16 * k)))) else 0
        .ok (LaunchRec.ofBits (t.readMem p.key 128) tags, t)

/-- Whether a record fails its checks for a queue, R139, R395, R398: a queue of the host context may set S and SUP. -/
def State.cpRecordBad (s : State) (q : CmdQueue) (r : LaunchRec) (keys : Bool) (x : Nat) : Bool :=
  let host := q.ctx == s.hostCtx
  (s.recordFault r q.ctx (s.ctx q.ctx).part host (host && (s.ctx q.ctx).s) keys x x).isSome

/-- A launch of a queue joins the launch queue. -/
def State.cpLaunch (s : State) (n : Nat) (q : CmdQueue) (l : Launch) : Nat × Nat × State :=
  let (id, t) := s.queueLaunch l
  let h := s.launchHandle { l with seq := s.launchSeq }
  (id, h, t.updQueueRun n (fun r => { r with launches := r.launches ++ [id] }))

/-- The step of a queue's packet that runs, where it has an operation and sub-operation and has not run out of its bound;
what it does is given with its entry and words. -/
def State.cqStep (s : State) (n opc : Nat) (sub : Option Nat) (act : CmdQueue → RunPacket → Nat → State) : Host.Outcome State Fault Refusal :=
  match s.queues.look n with
  | none => .next s
  | some q => match q.run with
    | none => .next s
    | some r =>
      let w0 := wordOf r.words r.step 0
      let mine : Bool := bits w0 7 0 == opc && (match sub with
        | some k => bits w0 15 8 == k
        | none => true)
      if r.ended.isSome ∨ !mine then .next s else .next (act q r r.step)

/-- A step whose access fails, R395, or has to wait. -/
def State.stepFails (s : State) (n ctx : Nat) (code : Nat) (wr : Bool) (x len : Nat) : State :=
  if code = notYet then (s.cpAsk ctx wr x len).stepBegun n none else s.stepDone n 4

/-- WRITE, R395. -/
def execCqWrite (queue : Nat) (s : State) : Host.Outcome State Fault Refusal :=
  s.cqStep queue 1 none (fun q r e =>
    let n := bits (wordOf r.words e 0) 23 16
    match s.cpStore q.ctx (wordOf r.words e 1) (stepData r.words e n) with
    | .ok t => t.stepDone queue 0
    | .error c => s.stepFails queue q.ctx c true (wordOf r.words e 1) n)

/-- SIGNAL, R395: a release store, or a release add. -/
def execCqSignal (queue : Nat) (s : State) : Host.Outcome State Fault Refusal :=
  s.cqStep queue 2 none (fun q r e =>
    let x := wordOf r.words e 1
    let v := wordOf r.words e 2
    let put := fun (t : State) (v : Nat) => (match t.cpStore q.ctx x (leBytes 8 v) with
      | .ok u => u.stepDone queue 0
      | .error c => s.stepFails queue q.ctx c true x 8)
    if bits (wordOf r.words e 0) 15 8 = 0 then put s v
    else match s.cpLoad q.ctx x 8 with
      | .ok (l, t) => put t (leNat l + v)
      | .error c => s.stepFails queue q.ctx c false x 8)

/-- WAITV, R395. -/
def execCqWaitv (queue : Nat) (s : State) : Host.Outcome State Fault Refusal :=
  s.cqStep queue 3 none (fun q r e =>
    let x := wordOf r.words e 1
    let v := wordOf r.words e 2
    match (if x % 8 = 0 then s.cpLoad q.ctx x 8 else .error causeAlign) with
    | .error c => s.stepFails queue q.ctx c false x 8
    | .ok (l, t) =>
      let y := leNat l
      let met : Bool := (match bits (wordOf r.words e 0) 15 8 with
        | 0 => y == v
        | 1 => y != v
        | 2 => decide (y ≥ v)
        | _ => y &&& v != 0)
      if met then t.stepDone queue 0 else t.stepBegun queue none)

/-- The job of a COPY step, R395: a plain copy of bytes at the copy engine of the command processor's node, in the direction
whose tensor side is the source where that can be one. -/
def State.copyJob (s : State) (n : Nat) (q : CmdQueue) (src dst len : Nat) : Job :=
  let c := s.cpCore n
  let esz := if src % 8 = 0 ∧ dst % 8 = 0 then 3 else 0
  let cap := fun (perm x : Nat) => capReg (match Cap.make perm 0 x len x with
    | some k => k.toBits
    | none => 0) true
  let w := (s.ctx q.ctx).s
  let dir := !s.tensorForm src
  let k : Card := { dir := dir, src := cap (1 + 1024) src, dst := cap (2 + 1024) dst, esz := esz, strs := [BitVec.ofNat 64 (2 ^ esz)], orgs := [0], plain := len / 2 ^ esz }
  { card := k, engine := engineId c 0, core := c, queue := some n, ctx := q.ctx, part := (s.ctx q.ctx).part, world := w }

/-- COPY, R395; one of no bytes completes at once. -/
def execCqCopy (queue : Nat) (s : State) : Host.Outcome State Fault Refusal :=
  s.cqStep queue 4 none (fun q r e =>
    let len := wordOf r.words e 3
    match r.result with
    | some err => s.stepDone queue (if err = 0 then 0 else 4)
    | none =>
      if len = 0 then s.stepDone queue 0
      else if r.waits.isSome then s
      else
        let j := s.copyJob queue q (wordOf r.words e 1) (wordOf r.words e 2) len
        if (s.cardStorage j.access j.card).isSome then s.stepDone queue 4
        else if s.inboxLen j.engine ≥ inboxSize then s.stepBegun queue none
        else
          let (id, t) := s.fresh
          (({ t with jobs := t.jobs.set id { j with id := id } } : State).push (.jobStart id)).stepBegun queue (some id))

/-- LAUNCH, R395, R398: it waits while the launch queue is full. -/
def execCqLaunch (queue : Nat) (s : State) : Host.Outcome State Fault Refusal :=
  s.cqStep queue 5 none (fun q r e =>
    let x := wordOf r.words e 1
    match s.cpRecord q.ctx x with
    | .error c => s.stepFails queue q.ctx c false x 128
    | .ok (lr, t) =>
      if (lr.s ∨ lr.sup) ∧ q.ctx ≠ s.hostCtx then t.stepDone queue 5
      else if t.cpRecordBad q lr true x then t.stepDone queue 4
      else if t.queued.length ≥ 256 then t.stepBegun queue none
      else
        let l : Launch := { lid := 0, lr := lr, ctx := q.ctx, part := (t.ctx q.ctx).part, world := (t.ctx q.ctx).s }
        let (_, h, u) := t.cpLaunch queue q l
        (u.updQueueRun queue (fun r => { r with handle := h })).stepDone queue 0)

/-- The open message launch of a queue, R398. -/
def State.openLaunch (s : State) (q : CmdQueue) : Option (Nat × Launch) :=
  s.launches.find? (fun e => e.2.podRoot.isNone && e.2.seq == q.amh % 2 ^ 32 && e.2.ctx == q.ctx && e.2.root != .ended)

/-- The local part of an open launch through which messages are sent: itself, or of a pod grid its map of identities. -/
def State.amsgLids (s : State) (id : Nat) (l : Launch) : Option (Nat × Launch) :=
  if l.lr.isPod s.table.devnum then
    (if l.podMap then some (id, { l with podRoot := some (s.table.devnum, l.seq), podLids := (List.range (l.lr.ndev + 1)).map (fun r => l.podClaims.at r 0) }) else none)
  else if l.root = .queued then none else some (id, l)

/-- AMSG, R398. A launch that has stopped sends no further message, R412: the step then fails as for one that is gone, and so
does one whose message was refused (DESIGN CHOICE, assumption 107). -/
def execCqAmsg (queue : Nat) (s : State) : Host.Outcome State Fault Refusal :=
  s.cqStep queue 6 none (fun q r e =>
    if !q.amOpen then s.stepDone queue 3
    else match r.waits with
      | some p => match s.packets.look p with
        | none => s.stepDone queue 6
        | some k => match k.answer with
          | none => s
          | some w =>
            if !k.arrived then s
            else if bits w 63 48 = ansRefused ∧ !(s.openLaunch q).any (fun e => e.2.aborting || e.2.draining) then
              let (wait, t) := s.nackWait k.source (k.refused + 1)
              let k := { k with arrived := false, refused := k.refused + 1, backoff := some (t.now + wait) }
              (({ t with packets := t.packets.set p k } : State).push (.backoffExpiry p))
            else (s.dropPacket p k).stepDone queue (if bits w 63 48 = ansAccepted then 0 else 6)
      | none => match s.openLaunch q with
        | none => s.stepDone queue 6
        | some (id, l) =>
          if l.aborting ∨ l.draining then s.stepDone queue 6
          else match s.amsgLids id l with
          | none => s.stepBegun queue none
          | some (_, l) =>
            let from_ := s.cpCore queue
            if (s.core from_).retx.length ≥ 32 then s.stepBegun queue none
            else
              let n := bits (wordOf r.words e 0) 23 16
              let data := leNat (stepData r.words e n)
              let k := { s.launchPacket id l from_ (wordOf r.words e 1) (12 + n) (q.amcnt + data * 2 ^ 32) with launchMsg := none, queue := some queue }
              let (p, t) := s.sendPacket from_ k
              let t := t.updLaunch id (fun l => { l with dealt := l.dealt + 1 })
              (t.putQueue queue { q with amcnt := (q.amcnt + 1) % 2 ^ 32 }).stepBegun queue (some p))

/-- LCTL, R395: it completes once the cancel is decided; what another device answers is a free choice, done or another context's.
-/
def execCqLctl (queue : Nat) (s : State) : Host.Outcome State Fault Refusal :=
  s.cqStep queue 7 none (fun q r e =>
    let h := wordOf r.words e 1
    let mode := bits (wordOf r.words e 0) 15 8
    if bits h 63 58 ≠ 0 ∨ bits h 39 32 ≠ 0 then s.stepDone queue 4
    else match s.launchNamed h with
      | none =>
        if bits h 57 48 = s.table.devnum ∨ (s.routes.at (bits h 57 48) []).isEmpty then s.stepDone queue 0
        else if !r.begun then (s.cancelFar h mode).stepBegun queue none
        else
          let (v, t) := s.draw
          if v % 3 = 2 then t else t.stepDone queue (5 * (v % 3))
      | some (id, l) =>
        if l.ctx ≠ q.ctx then s.stepDone queue 5
        else if !r.begun then (s.push (.cancelDecision id mode)).stepBegun queue none
        else if s.due.contains (.cancelDecision id mode) then s
        else s.stepDone queue 0)

/-- PCTL OPENAM, R398: it completes once the launch has joined the launch queue, with its handle in AMH. -/
def execCqOpenam (queue : Nat) (s : State) : Host.Outcome State Fault Refusal :=
  s.cqStep queue 8 (some 0) (fun q r e =>
    let x := wordOf r.words e 1
    if q.amOpen then s.stepDone queue 3
    else match s.cpRecord q.ctx x with
      | .error c => s.stepFails queue q.ctx c false x 128
      | .ok (lr, t) =>
        if !lr.kind ∨ lr.extx ≠ 0 ∨ t.cpRecordBad q lr false x then t.stepDone queue 4
        else if t.queued.length ≥ 256 then t.stepBegun queue none
        else
          let l : Launch := { lid := 0, lr := lr, ctx := q.ctx, part := (t.ctx q.ctx).part, world := (t.ctx q.ctx).s, held := true, nextMsg := 1 }
          let (_, h, u) := t.cpLaunch queue q l
          match u.queues.look queue with
          | none => u
          | some q => (u.putQueue queue { q with amh := h, amOpen := true, amcnt := 0 }).stepDone queue 0)

/-- The open launch of a queue is closed, R398: on this device, or on every device of a pod grid. -/
def State.closeAm (s : State) (q : CmdQueue) : State :=
  match s.openLaunch q with
  | none => s
  | some (id, l) =>
    let t := s.updLaunch id (fun l => { l with held := false })
    if l.lr.isPod s.table.devnum ∧ l.root ≠ .queued then
      (List.range (l.lr.ndev + 1)).foldl (fun (u : State) (r : Nat) => u.podSend (l.lr.dev0 + r) (.close s.table.devnum l.seq)) t
    else t.pushOnce (.launchMessageSend id)

/-- PCTL CLOSEAM, R398. -/
def execCqCloseam (queue : Nat) (s : State) : Host.Outcome State Fault Refusal :=
  s.cqStep queue 8 (some 1) (fun q _ _ =>
    if !q.amOpen then s.stepDone queue 0
    else ((s.closeAm q).putQueue queue { q with amh := 0, amOpen := false }).stepDone queue 0)

/-- A PCTL step that needs a management session, R395, given the partition that it names. -/
def State.pctl (s : State) (n sub : Nat) (act : RunPacket → Nat → Nat → State) : Host.Outcome State Fault Refusal :=
  s.cqStep n 8 (some sub) (fun q r e =>
    if q.ctx ≠ s.hostCtx then s.stepDone n 5 else act r (wordOf r.words e 1) (wordOf r.words e 2))

/-- PCTL FLAGCLR, R58. -/
def execCqFlagclr (queue : Nat) (s : State) : Host.Outcome State Fault Refusal :=
  s.pctl queue 2 (fun _ p _ => (s.mapCores (fun _ k => { k with flagAcc := k.flagAcc.drop p })).stepDone queue 0)

/-- How far a partition's halt or swap has come. -/
def State.haltOf (s : State) (p : Nat) : Halt := (s.parts.at p {}).halt

/-- A halt asked for: it begins once no packet of the partition's other queues runs, R397. -/
def State.askHalt (s : State) (n p : Nat) : State := if s.packetRuns p n then s.stepBegun n none else (s.haltPart p).stepBegun n none

/-- PCTL HALT, R339. -/
def execCqHalt (queue : Nat) (s : State) : Host.Outcome State Fault Refusal :=
  s.pctl queue 3 (fun _ p _ => match s.haltOf p with
    | .running => s.askHalt queue p
    | .halting => s.stepBegun queue none
    | _ => s.stepDone queue 0)

/-- The movement of a swap begun, R341. -/
def State.startSwap (s : State) (p : Nat) (h : Halt) : State :=
  ({ s with parts := s.parts.set p { s.parts.at p {} with halt := h } } : State).push (.swapComplete p)

/-- PCTL SWAPOUT, R339 to R341: the partition is halted, and then its image moves. -/
def execCqSwapout (queue : Nat) (s : State) : Host.Outcome State Fault Refusal :=
  s.pctl queue 4 (fun _ p _ => match s.haltOf p with
    | .running => s.askHalt queue p
    | .halted => (s.startSwap p .swappingOut).stepBegun queue none
    | .swapped => s.stepDone queue 0
    | _ => s.stepBegun queue none)

/-- PCTL SWAPIN, R341, R342. -/
def execCqSwapin (queue : Nat) (s : State) : Host.Outcome State Fault Refusal :=
  s.pctl queue 5 (fun r p _ => match s.haltOf p with
    | .swapped =>
      if r.result.isSome then s.stepDone queue 0
      else ((s.startSwap p .swappingIn).stepBegun queue none).updQueueRun queue (fun r => { r with result := some 0 })
    | .swappingIn => s.stepBegun queue none
    | .swappingOut => s.stepBegun queue none
    | _ => s.stepDone queue 0)

/-- PCTL RESUME, R395: a halted partition resumes. -/
def execCqResume (queue : Nat) (s : State) : Host.Outcome State Fault Refusal :=
  s.pctl queue 6 (fun _ p _ => match s.haltOf p with
    | .halted => (s.resumePart p).stepDone queue 0
    | .halting => s.stepBegun queue none
    | _ => s.stepDone queue 0)

/-- PCTL QUOTA, R197. -/
def execCqQuota (queue : Nat) (s : State) : Host.Outcome State Fault Refusal :=
  s.pctl queue 7 (fun _ p v => ({ s with quota := Sp.put 16 s.quota p v } : State).stepDone queue 0)

/-- A step that has run out of its bound, R395: status 2 for WAITV, else 3. A message that it sent is left to its answer; one that was refused is not sent again, R398. -/
def execStepBoundExpiry (queue : Nat) (s : State) : Host.Outcome State Fault Refusal :=
  match s.queues.look queue with
  | none => .next s
  | some q => match q.run with
    | none => .next s
    | some r =>
      let b := stepBound (wordOf r.words r.step 0) (wordOf r.words r.step 3)
      if r.ended.isSome ∨ !r.begun ∨ s.gt ≤ r.since + b.1 then .next s
      else
        let t := (match r.waits with
          | none => s
          | some p => match s.packets.look p with
            | none => s
            | some k => if k.arrived ∨ (k.answer.isSome ∧ k.backoff.isSome) then s.dropPacket p k else { s with packets := s.packets.set p { k with queue := none } })
        .next (t.stepDone queue b.2)

/-! ## The end of a packet, R397, R399 -/

/-- Whether the running step has run out of its bound. -/
def RunPacket.late (r : RunPacket) (gt : Nat) : Bool :=
  r.begun && decide (gt > r.since + (stepBound (wordOf r.words r.step 0) (wordOf r.words r.step 3)).1)

/-- The step that runs makes progress. -/
def State.runStep (s : State) (n : Nat) (r : RunPacket) : Host.Outcome State Fault Refusal :=
  let w0 := wordOf r.words r.step 0
  if r.late s.gt then execStepBoundExpiry n s
  else match bits w0 7 0 with
    | 1 => execCqWrite n s
    | 2 => execCqSignal n s
    | 3 => execCqWaitv n s
    | 4 => execCqCopy n s
    | 5 => execCqLaunch n s
    | 6 => execCqAmsg n s
    | 7 => execCqLctl n s
    | _ => match bits w0 15 8 with
      | 0 => execCqOpenam n s
      | 1 => execCqCloseam n s
      | 2 => execCqFlagclr n s
      | 3 => execCqHalt n s
      | 4 => execCqSwapout n s
      | 5 => execCqSwapin n s
      | 6 => execCqResume n s
      | _ => execCqQuota n s

/-- A packet that runs: its step makes progress; after the last step, and with SERIAL once its launches have ended, the
record is written and HEAD advances; a MGMT QEND that waits for it is answered once it runs no more. -/
def execPacketCompletion (queue : Nat) (s : State) : Host.Outcome State Fault Refusal :=
  let done := s.did (.packetCompletion queue)
  match s.queues.look queue with
  | none => .next done
  | some q => match q.run with
    | none => .next done
    | some r => match r.ended with
      | none => s.runStep queue r
      | some (step, status, word) =>
        let serial := packetSerial r.words
        if serial ∧ !s.allEnded r.launches then
          match q.ending with
          | some (addr, req) => .next ((s.putQueue queue { q with state := 0, ending := none }).mgmtAnswer 0 addr 9 0 req []).mgmtRest
          | none => .next s
        else
          let next := (q.head + 1 + packetSteps r.words) % 2 ^ 64
          let lstat := if serial then s.lstat r.launches else 0
          match done.putRecord queue q (packetCompl r.words) (packetTag r.words) step status word lstat next with
          | none => .next (s.askRecord q)
          | some t =>
            let q := { q with head := next, run := none }
            .next (if q.ending.isSome ∨ q.state = 0 then t.closeQueue queue q else t.putQueue queue q)

/-- A slice of 2^14 ticks of a command processor ends, R397: it goes on to its next queue, unless a packet runs. -/
def execCpSliceEnd (queue : Nat) (s : State) : Host.Outcome State Fault Refusal :=
  let busy := ((s.queues.look queue).map (·.runs)).getD false
  let at_ := s.cpSlice queue
  if at_.1 ≠ some queue ∨ busy ∨ s.gt < at_.2 + 2 ^ 14 then .next s
  else
    let keys := s.cpQueues queue
    let next := (keys.find? (fun k => decide (k > queue))).getD (keys.headD 0)
    .next { s with cpAt := s.cpAt.set (queue % max 1 s.cpCount) (next, s.gt) }

end Sys2Proof.Machine
end

