-- ==== Sys2Proof/Machine/Registers.lean ====
section
/-!
DEFINITION. The control space: the big core's control block (R314, R379), firewalls (R380), the worlds of blocks (R413),
the region table (R414), and the other control registers (R165, R197, R295, R330, R362).
-/

namespace Sys2Proof.Machine

/-- A write of the easel's, which no firmware makes in recovery: there the boot ROM does nothing but R423. -/
def State.easelWrite (s : State) (t : State) : Host.Outcome State Fault Refusal := .next (if s.boot = .recovery then s else t)

/-! ## BCTL, R379 -/

/-- A write of the slice pair's fields, R329. -/
def execSlicePairSet (core : Nat) (v : BitVec 64) (s : State) : Host.Outcome State Fault Refusal := s.easelWrite (s.setPair core v.toNat)

/-- A write of CHK, R314. -/
def execCheckModeSet (core : Nat) (v : BitVec 64) (s : State) : Host.Outcome State Fault Refusal :=
  s.easelWrite (s.setCheckMode core v.toNat)

/-! ## Firewalls, worlds and regions -/

/-- A write of FWALL, R380. -/
def execFwallWrite (core : Nat) (v : BitVec 64) (s : State) : Host.Outcome State Fault Refusal :=
  s.easelWrite (s.setControl (.fwall core) v.toNat)

/-- A write of a region-table entry, R414. -/
def execRegionTableWrite (n : BitVec 6) (v : BitVec 128) (s : State) : Host.Outcome State Fault Refusal :=
  s.easelWrite (s.setRegion n.toNat v)

/-- The secure monitor writes a bit of BWORLD, R413. -/
def execBworldWrite (block : Block) (secure : Bool) (s : State) : Host.Outcome State Fault Refusal :=
  s.easelWrite (s.setWorld block secure)

/-! ## Other registers, R379 -/

/-- The easel writes a control register: GHOME (R165), QUOTA (R197), OWNTAB with its valid bit at bit 4 (R295), an LPCT entry
at boot (R436 step 6), HOSTCTX (R330). -/
def execControlRegisterWrite (reg : ControlReg) (v : BitVec 64) (s : State) : Host.Outcome State Fault Refusal :=
  let x := v.toNat
  match reg with
  | .ghome plate gx gy => s.easelWrite (s.setControl (.ghome plate gx gy) x)
  | .quota p => s.easelWrite (s.setQuota p.toNat x)
  | .owntab core unit => s.easelWrite (s.setControl (.owner core unit) x)
  | .lpct core => s.easelWrite (s.setControl (.lpct core) x)
  | .hostctx core => s.easelWrite (s.setControl (.hostctx core) x)

end Sys2Proof.Machine
end

