-- ==== Sys2Proof/Machine/Tlbi.lean ====
section
/-!
DEFINITION. TLBI (R205, R207, R220, R336, R337) and WCALL (R335).
-/

namespace Sys2Proof.Machine

/-! ## TLBI, R336, R337 -/

/-- What a TLBI covers: its kind, the issuer's partition, the ASID, the ROOT and the range. -/
structure Cover where
  kind : Nat
  part : Nat
  asid : Nat
  root : Nat
  lo : Nat
  hi : Nat
  deriving DecidableEq, Repr

/-- Whether a region [lo, hi) of an address space is covered, R337. -/
def Cover.has (k : Cover) (part asid root lo hi : Nat) : Bool :=
  k.part == part && (k.kind == 4 || (k.asid == asid && (k.kind == 1 ||
    (k.root == root && decide (lo < k.hi) && decide (k.lo < hi)))))

/-- Whether an entry of a TLB, a note, a line of 128 bytes, or an access of n bytes is covered. -/
def Cover.entry (k : Cover) (e : TlbEntry) : Bool := k.has e.part e.asid e.root e.va (e.va + 2 ^ e.lg)
def Cover.note (k : Cover) (n : Note) : Bool := k.has n.part n.asid n.root n.lo n.hi
def Cover.bytes (k : Cover) (part asid x n : Nat) : Bool :=
  decide (bits x 63 60 < 8) && k.has part asid (bits x 62 60) (bits x 56 0) (bits x 56 0 + n)

/-- The cover of an operation, when it is a TLBI. -/
def Op.cover (o : Op) : Option Cover :=
  match o.kind with
  | .tlbi kind asid root lo hi _ => some ⟨kind, o.part, asid, root, lo, hi⟩
  | _ => none

/-- A range that is empty: the TLBI only counts and is acknowledged, R336. -/
def Cover.empty (k : Cover) : Bool := k.kind != 1 && k.kind != 4 && decide (k.hi ≤ k.lo)

/-- The operands of the range forms, R336: ROOT, lo and hi, rounded outward to 64 KiB unless empty. -/
def tlbiRange (v : Vec) : Except Exit (Nat × Nat × Nat) :=
  let lo := elem v 64 0
  let hi := elem v 64 1
  let a := bits lo 56 0
  let b := bits hi 57 0
  if bit lo 63 || bits lo 59 57 != 0 || bit hi 63 || bits hi 59 58 != 0 || bits lo 62 60 != bits hi 62 60 then
    faultAt causeRange lo
  else if b ≤ a then .ok (bits lo 62 60, a, a)
  else .ok (bits lo 62 60, a / 65536 * 65536, (b + 65535) / 65536 * 65536)

/-- A TLBI issued, R336, R337: counted in STC, its requests sent to the plates' controllers. -/
def State.tlbi (s : State) (i : Instr) (kind : Nat) (a b : Option (BitVec 6)) : Host.Outcome State Fault Refusal :=
  s.issue i (fun e t => do
    check e.a.sup causePrivilege e.word.toNat
    let (root, lo, hi) ← (match a with
      | some r => tlbiRange (e.a.reg r.toNat).v
      | none => .ok (0, 0, 0))
    let asid : Nat := (match b with
      | some r => e.x r
      | none => 0)
    check (decide (asid < 65536)) causeRange asid
    let k := OpKind.tlbi kind asid root lo hi []
    let (id, t) ← t.enterOp { e.op t false true with kind := k, release := true, stores := false } []
    if kind ≠ 1 ∧ kind ≠ 4 ∧ hi ≤ lo then .ok (t.push (.tlbiAck id))
    else .ok ((List.range 4).foldl (fun u p => u.push (.tlbiControllerRequest id p)) t))

/-- TLBI range, R205. -/
def execTlbiRange (g : BitVec 4) (a b : BitVec 6) (s : State) : Host.Outcome State Fault Refusal :=
  s.tlbi (.tlbiRange g a b) 0 (some a) (some b)

/-- TLBI context, R337. -/
def execTlbiCtx (g : BitVec 4) (b : BitVec 6) (s : State) : Host.Outcome State Fault Refusal :=
  s.tlbi (.tlbiCtx g b) 1 none (some b)

/-- TLBI L1 invalidate, R337. -/
def execTlbiL1inv (g : BitVec 4) (a b : BitVec 6) (s : State) : Host.Outcome State Fault Refusal :=
  s.tlbi (.tlbiL1inv g a b) 2 (some a) (some b)

/-- TLBI L1 clean, R337. -/
def execTlbiL1clean (g : BitVec 4) (a b : BitVec 6) (s : State) : Host.Outcome State Fault Refusal :=
  s.tlbi (.tlbiL1clean g a b) 3 (some a) (some b)

/-- TLBI whole partition, R337. -/
def execTlbiPart (g : BitVec 4) (s : State) : Host.Outcome State Fault Refusal :=
  s.tlbi (.tlbiPart g) 4 none none

/-- The TLBs of one level with the covered entries of a plate removed; `at_` gives the plate of a table's key. -/
def cleanTlb (m : Sp (List TlbEntry)) (at_ : Nat → Nat) (plate : Nat) (k : Cover) : Sp (List TlbEntry) :=
  m.map (fun (e : Nat × List TlbEntry) => if at_ e.1 = plate then (e.1, e.2.filter (fun x => !k.entry x)) else e)

/-- Owned lines of a plate's cores that are covered, written back to their slices, R192, R337. -/
def Slice.written (x : Slice) (plate : Nat) (k : Cover) : Slice :=
  { x with lines := x.lines.map (fun (l : Line) => match l.owner with
      | some (c, _) =>
        if corePlate c = plate && k.bytes l.ownPart l.ownAsid (l.ownVa / 128 * 128) 128 then { l with owner := none, dirty := true } else l
      | none => l) }

/-- A slot's notes that a TLBI covers removed, R220. -/
def Slot.unnoted (x : Slot) (k : Cover) : Slot := { x with notes := x.notes.filter (fun n => !k.note n) }

/-- The request at a plate's controller, R205 steps 1 and 2, R337, after every earlier access of the task: covered TLB
entries and notes go, and so do faults of walks that no one has taken yet; for the cache kinds, covered lines. A walk under way reads its tables afresh when it completes, R207.
-/
def execTlbiControllerRequest (op plate : Nat) (s : State) : Host.Outcome State Fault Refusal :=
  let done := s.did (.tlbiControllerRequest op plate)
  match s.ops.look op with
  | none => .next done
  | some o => match o.cover with
    | none => .next done
    | some k =>
      if !s.mayStart op o.task true true then .next s
      else
        let t := (if k.kind = 2 ∨ k.kind = 3 then done else
          { done with walkFaults := done.walkFaults.filter (fun f => !k.bytes f.part f.asid (f.root * 2 ^ 60 + f.page * 65536) 65536), tlbL1 := cleanTlb done.tlbL1 (fun c => corePlate (done.phys c)) plate k, tlbNode := cleanTlb done.tlbNode (fun n => corePlate (4 * n)) plate k,
                      tlbPlate := cleanTlb done.tlbPlate id plate k })
        let t := (if k.kind = 2 then
          { t with iLines := t.iLines.filter (fun l => !(corePlate l.core == plate && k.bytes l.part l.asid (l.va * 128) 128)),
                   dLines := t.dLines.filter (fun l => !(corePlate l.core == plate && k.bytes l.part l.asid (l.va / 128 * 128) 128)) } else t)
        let t := (if k.kind = 2 ∨ k.kind = 3 then
          { t with slices := t.slices.map (fun (e : Nat × Slice) => (e.1, e.2.written plate k)) } else t)
        let t := { t with cores := t.cores.map (fun (e : Nat × Core) =>
          if corePlate e.1 = plate then (e.1, { e.2 with slots := e.2.slots.map (fun (x : Nat × Slot) => (x.1, x.2.unnoted k)) }) else e) }
        .next (t.push (.tlbiPlateDone op plate))

/-- Whether a plate holds an access or a pin under a covered translation, R205 steps 3 and 4, R206: accesses of its cores
not yet performed, pages of copies and of matrix commands, and fetches of tickets at its slices. -/
def State.covered (s : State) (plate : Nat) (k : Cover) : Bool :=
  s.ops.any (fun e => corePlate e.2.task.core == plate &&
      e.2.elems.any (fun x => !x.performed && k.bytes e.2.part e.2.ctx x.va x.n)) ||
    s.jobs.any (fun j => corePlate j.2.core == plate && !j.2.copied && j.2.pins.any (fun p => k.entry p.2)) ||
    s.cmds.any (fun m => corePlate m.2.core == plate && m.2.pins.any (fun p =>
      (match m.2.via with
        | some v => k.bytes v.2.1 v.1 (p.1 * 65536) 65536
        | none => k.bytes m.2.part m.2.ctx (p.1 * 65536) 65536))) ||
    s.slices.any (fun e => e.1 / 768 == plate && e.2.tickets.any (fun t =>
      (t.2.st == .fetching || t.2.st == .waiting || t.2.st == .dying) && k.bytes t.2.part t.2.ctx t.2.va (ticketBytes t.2.size)))

/-- A plate reports done, R205 step 4; the cache kinds wait for no pin. -/
def execTlbiPlateDone (op plate : Nat) (s : State) : Host.Outcome State Fault Refusal :=
  let done := s.did (.tlbiPlateDone op plate)
  match s.ops.look op with
  | none => .next done
  | some o => match o.kind with
    | .tlbi kind asid root lo hi plates =>
      if kind ≠ 2 ∧ kind ≠ 3 ∧ s.covered plate ⟨kind, o.part, asid, root, lo, hi⟩ then .next s
      else
        let l := if plates.contains plate then plates else plates ++ [plate]
        let t := { done with ops := done.ops.set op { o with kind := .tlbi kind asid root lo hi l } }
        .next (if l.length ≥ 4 then t.push (.tlbiAck op) else t)
    | _ => .next done

/-- The acknowledgement, R205 step 5: STC falls. -/
def execTlbiAck (op : Nat) (s : State) : Host.Outcome State Fault Refusal :=
  let done := s.did (.tlbiAck op)
  match s.ops.look op with
  | none => .next done
  | some o => match o.kind, o.cover with
    | .tlbi _ _ _ _ _ plates, some k =>
      if !k.empty && decide (plates.length < 4) || !s.mayStart op o.task true true then .next s
      else .next (({ done with ops := done.ops.drop op } : State).updTask o.task (fun x => x.ended op o))
    | _, _ => .next done

/-! ## WCALL, R335 -/

/-- WCALL, R335. The monitor's services are its firmware's: the answer is any status and any data. -/
def execWcall (g : BitVec 4) (i : BitVec 15) (s : State) : Host.Outcome State Fault Refusal :=
  s.issue (.wcall g i) (fun e t => do
    stallIf (!t.releaseReady true) .order
    let (id, t) ← t.enterOp { e.op t false true with kind := .wcall i.toNat (e.a.reg 4).v, stores := false } [.reg 4, .reg 5]
    let (v, t) := t.draw
    let (w, t) := t.draw
    .ok (t.push (.wcallAnswer id (v % 4) (BitVec.ofNat 1024 w))))

/-- The monitor's answer, R335: v4 and v5 written, and STC falls. The identity service answers with the identity record, R420; which code
asks for it is the firmware's (assumption 30). -/
def execWcallAnswer (op status : Nat) (data : BitVec 1024) (s : State) : Host.Outcome State Fault Refusal :=
  let done := s.did (.wcallAnswer op status data)
  match s.ops.look op with
  | none => .next done
  | some o => match o.kind with
    | .wcall code _ =>
      let own : Bool := code == Config.identityService
      let data := if own then BitVec.ofNat 1024 (leNat s.ident) else data
      let put := fun (a : Arch) => (a.setVec 4 data).setScalar 5 (if own then 0 else status % 4)
      .next (({ done with ops := done.ops.drop op } : State).updTask o.task (fun x => (x.ended op o).land put))
    | _ => .next done

end Sys2Proof.Machine
end

