-- ==== Sys2Proof/Machine/Dispatch.lean ====
section
/-!
DEFINITION. The meaning of each instruction and event, one arm each.
-/

namespace Sys2Proof.Machine

/-- What an instruction of the issuing task, or an event, does to the state. -/
def exec (i : Instr) (s : State) : Host.Outcome State Fault Refusal :=
  match i with
  | .nop g => Sys2Proof.Machine.execNop g s
  | .br g o => Sys2Proof.Machine.execBr g o s
  | .call g o => Sys2Proof.Machine.execCall g o s
  | .jmp g a => Sys2Proof.Machine.execJmp g a s
  | .jmpCall g a => Sys2Proof.Machine.execJmpCall g a s
  | .jmpRet g => Sys2Proof.Machine.execJmpRet g s
  | .loop g d i1 => Sys2Proof.Machine.execLoop g d i1 s
  | .endTask g => Sys2Proof.Machine.execEndTask g s
  | .wait g l s1 c m => Sys2Proof.Machine.execWait g l s1 c m s
  | .opf g d a b => Sys2Proof.Machine.execOpf g d a b s
  | .trap g i1 => Sys2Proof.Machine.execTrap g i1 s
  | .eret g => Sys2Proof.Machine.execEret g s
  | .gets g d n => Sys2Proof.Machine.execGets g d n s
  | .sets g d n => Sys2Proof.Machine.execSets g d n s
  | .timeGt g d => Sys2Proof.Machine.execTimeGt g d s
  | .timeCyc g d => Sys2Proof.Machine.execTimeCyc g d s
  | .brk g i1 => Sys2Proof.Machine.execBrk g i1 s
  | .tlbiRange g a b => Sys2Proof.Machine.execTlbiRange g a b s
  | .tlbiCtx g b => Sys2Proof.Machine.execTlbiCtx g b s
  | .tlbiL1inv g a b => Sys2Proof.Machine.execTlbiL1inv g a b s
  | .tlbiL1clean g a b => Sys2Proof.Machine.execTlbiL1clean g a b s
  | .tlbiPart g => Sys2Proof.Machine.execTlbiPart g s
  | .wcall g i1 => Sys2Proof.Machine.execWcall g i1 s
  | .add g d a b t => Sys2Proof.Machine.execAdd g d a b t s
  | .sub g d a b t => Sys2Proof.Machine.execSub g d a b t s
  | .mul g d a b t => Sys2Proof.Machine.execMul g d a b t s
  | .mulh g d a b t => Sys2Proof.Machine.execMulh g d a b t s
  | .mad g d a b t => Sys2Proof.Machine.execMad g d a b t s
  | .min g d a b t => Sys2Proof.Machine.execMin g d a b t s
  | .max g d a b t => Sys2Proof.Machine.execMax g d a b t s
  | .absd g d a b t => Sys2Proof.Machine.execAbsd g d a b t s
  | .and g d a b t => Sys2Proof.Machine.execAnd g d a b t s
  | .or g d a b t => Sys2Proof.Machine.execOr g d a b t s
  | .xor g d a b t => Sys2Proof.Machine.execXor g d a b t s
  | .andn g d a b t => Sys2Proof.Machine.execAndn g d a b t s
  | .shl g d a b t => Sys2Proof.Machine.execShl g d a b t s
  | .shr g d a b t => Sys2Proof.Machine.execShr g d a b t s
  | .rot g d a b t => Sys2Proof.Machine.execRot g d a b t s
  | .addi g d a i1 => Sys2Proof.Machine.execAddi g d a i1 s
  | .unop g d a o t => Sys2Proof.Machine.execUnop g d a o t s
  | .sel g d a b t => Sys2Proof.Machine.execSel g d a b t s
  | .shuf g d a b t => Sys2Proof.Machine.execShuf g d a b t s
  | .bcast g d a b t => Sys2Proof.Machine.execBcast g d a b t s
  | .reduce g d a o t => Sys2Proof.Machine.execReduce g d a o t s
  | .scan g d a o t => Sys2Proof.Machine.execScan g d a o t s
  | .movi g d i1 => Sys2Proof.Machine.execMovi g d i1 s
  | .movu g d i1 => Sys2Proof.Machine.execMovu g d i1 s
  | .addX g d a b t => Sys2Proof.Machine.execAddX g d a b t s
  | .subX g d a b t => Sys2Proof.Machine.execSubX g d a b t s
  | .mulX g d a b t => Sys2Proof.Machine.execMulX g d a b t s
  | .addiX g d a i1 => Sys2Proof.Machine.execAddiX g d a i1 s
  | .logicX g d a b t => Sys2Proof.Machine.execLogicX g d a b t s
  | .divX g d a b t => Sys2Proof.Machine.execDivX g d a b t s
  | .movlX g d i1 => Sys2Proof.Machine.execMovlX g d i1 s
  | .laneGet g d a b => Sys2Proof.Machine.execLaneGet g d a b s
  | .lanePut g d a b => Sys2Proof.Machine.execLanePut g d a b s
  | .cmp g c p e a b t => Sys2Proof.Machine.execCmp g c p e a b t s
  | .fcmp g c p e a b t => Sys2Proof.Machine.execFcmp g c p e a b t s
  | .fadd g d a b t => Sys2Proof.Machine.execFadd g d a b t s
  | .fsub g d a b t => Sys2Proof.Machine.execFsub g d a b t s
  | .fmul g d a b t => Sys2Proof.Machine.execFmul g d a b t s
  | .fma g d a b t => Sys2Proof.Machine.execFma g d a b t s
  | .fnma g d a b t => Sys2Proof.Machine.execFnma g d a b t s
  | .fmin g d a b t => Sys2Proof.Machine.execFmin g d a b t s
  | .fmax g d a b t => Sys2Proof.Machine.execFmax g d a b t s
  | .fminp g d a b t => Sys2Proof.Machine.execFminp g d a b t s
  | .funop g d a o t => Sys2Proof.Machine.execFunop g d a o t s
  | .fcvt g d a part dst src => Sys2Proof.Machine.execFcvt g d a part dst src s
  | .i2f g d a part src dst => Sys2Proof.Machine.execI2f g d a part src dst s
  | .f2i g d a part dst src => Sys2Proof.Machine.execF2i g d a part dst src s
  | .fdiv g d a b t => Sys2Proof.Machine.execFdiv g d a b t s
  | .fsqrt g d a t => Sys2Proof.Machine.execFsqrt g d a t s
  | .ftrans g d a o t => Sys2Proof.Machine.execFtrans g d a o t s
  | .fscale g d a b t => Sys2Proof.Machine.execFscale g d a b t s
  | .fdot2 g d a b t => Sys2Proof.Machine.execFdot2 g d a b t s
  | .fdot4 g d a b t => Sys2Proof.Machine.execFdot4 g d a b t s
  | .fred g d a o t => Sys2Proof.Machine.execFred g d a o t s
  | .fscan g d a t => Sys2Proof.Machine.execFscan g d a t s
  | .plogic g d a b t => Sys2Proof.Machine.execPlogic g d a b t s
  | .pmovPred g d a => Sys2Proof.Machine.execPmovPred g d a s
  | .pmovFromReg g d a => Sys2Proof.Machine.execPmovFromReg g d a s
  | .pmovToReg g d a => Sys2Proof.Machine.execPmovToReg g d a s
  | .pcnt g d a t => Sys2Proof.Machine.execPcnt g d a t s
  | .ptest g d e a t => Sys2Proof.Machine.execPtest g d e a t s
  | .pset g p w c => Sys2Proof.Machine.execPset g p w c s
  | .ldx g d a f s1 => Sys2Proof.Machine.execLdx g d a f s1 s
  | .stx g d a f s1 => Sys2Proof.Machine.execStx g d a f s1 s
  | .ldv g d a f => Sys2Proof.Machine.execLdv g d a f s
  | .stv g d a f => Sys2Proof.Machine.execStv g d a f s
  | .gath g d a b t => Sys2Proof.Machine.execGath g d a b t s
  | .gathp g d a b t => Sys2Proof.Machine.execGathp g d a b t s
  | .scat g d a b t => Sys2Proof.Machine.execScat g d a b t s
  | .ldfe g d a f s1 => Sys2Proof.Machine.execLdfe g d a f s1 s
  | .stfe g d a f s1 => Sys2Proof.Machine.execStfe g d a f s1 s
  | .feopLdf g d a z => Sys2Proof.Machine.execFeopLdf g d a z s
  | .feopStf g d a z => Sys2Proof.Machine.execFeopStf g d a z s
  | .feopSete g a z => Sys2Proof.Machine.execFeopSete g a z s
  | .feopSetf g a z => Sys2Proof.Machine.execFeopSetf g a z s
  | .feopQtag g d a => Sys2Proof.Machine.execFeopQtag g d a s
  | .ldt g d a f s1 => Sys2Proof.Machine.execLdt g d a f s1 s
  | .rdm g d a => Sys2Proof.Machine.execRdm g d a s
  | .rdmS g d a b => Sys2Proof.Machine.execRdmS g d a b s
  | .tkrel g a => Sys2Proof.Machine.execTkrel g a s
  | .pref g a f s1 => Sys2Proof.Machine.execPref g a f s1 s
  | .fence g k t => Sys2Proof.Machine.execFence g k t s
  | .atom32 g d a b t => Sys2Proof.Machine.execAtom32 g d a b t s
  | .atom64 g d a b t => Sys2Proof.Machine.execAtom64 g d a b t s
  | .xatom g d a b t => Sys2Proof.Machine.execXatom g d a b t s
  | .scatadd g d a b t => Sys2Proof.Machine.execScatadd g d a b t s
  | .barFull g a => Sys2Proof.Machine.execBarFull g a s
  | .barArrive g d a => Sys2Proof.Machine.execBarArrive g d a s
  | .barWait g a b => Sys2Proof.Machine.execBarWait g a b s
  | .slotAlloc g d a k => Sys2Proof.Machine.execSlotAlloc g d a k s
  | .slotFree g d a k => Sys2Proof.Machine.execSlotFree g d a k s
  | .launch g d a => Sys2Proof.Machine.execLaunch g d a s
  | .lctlCancel g d a b => Sys2Proof.Machine.execLctlCancel g d a b s
  | .lctlQuery g d a => Sys2Proof.Machine.execLctlQuery g d a s
  | .lctlWait g d a => Sys2Proof.Machine.execLctlWait g d a s
  | .sendPost g d a b => Sys2Proof.Machine.execSendPost g d a b s
  | .sendAck g d a b => Sys2Proof.Machine.execSendAck g d a b s
  | .sendReply g d a b => Sys2Proof.Machine.execSendReply g d a b s
  | .sendEng g d a b => Sys2Proof.Machine.execSendEng g d a b s
  | .portBind g d b => Sys2Proof.Machine.execPortBind g d b s
  | .portUnbind g d => Sys2Proof.Machine.execPortUnbind g d s
  | .portQlen g d a => Sys2Proof.Machine.execPortQlen g d a s
  | .portSbind g d b => Sys2Proof.Machine.execPortSbind g d b s
  | .portSrel g d => Sys2Proof.Machine.execPortSrel g d s
  | .portSstat g d a => Sys2Proof.Machine.execPortSstat g d a s
  | .htabRd g d b => Sys2Proof.Machine.execHtabRd g d b s
  | .htabWr g a b => Sys2Proof.Machine.execHtabWr g a b s
  | .cpy g d a b => Sys2Proof.Machine.execCpy g d a b s
  | .cpyLoop g d a b => Sys2Proof.Machine.execCpyLoop g d a b s
  | .cpyrel g a => Sys2Proof.Machine.execCpyrel g a s
  | .cpyMtx g d a b => Sys2Proof.Machine.execCpyMtx g d a b s
  | .cpyBlk g d a b => Sys2Proof.Machine.execCpyBlk g d a b s
  | .cpySlab g d a b => Sys2Proof.Machine.execCpySlab g d a b s
  | .mtxMma g n a b => Sys2Proof.Machine.execMtxMma g n a b s
  | .mtxMmaz g n a b => Sys2Proof.Machine.execMtxMmaz g n a b s
  | .mtxAccld g n a => Sys2Proof.Machine.execMtxAccld g n a s
  | .mtxAccst g n a => Sys2Proof.Machine.execMtxAccst g n a s
  | .mtxAccmv g n a b => Sys2Proof.Machine.execMtxAccmv g n a b s
  | .mtxCodeb g n => Sys2Proof.Machine.execMtxCodeb g n s
  | .mtxAccq g n a => Sys2Proof.Machine.execMtxAccq g n a s
  | .mtxAccfree g n => Sys2Proof.Machine.execMtxAccfree g n s
  | .eregRd g d b => Sys2Proof.Machine.execEregRd g d b s
  | .eregWr g a b => Sys2Proof.Machine.execEregWr g a b s
  | .cget g d a b => Sys2Proof.Machine.execCget g d a b s
  | .csetb g d a b => Sys2Proof.Machine.execCsetb g d a b s
  | .candp g d a b => Sys2Proof.Machine.execCandp g d a b s
  | .cinc g d a b => Sys2Proof.Machine.execCinc g d a b s
  | .cseal g d a b => Sys2Proof.Machine.execCseal g d a b s
  | .cunseal g d a b => Sys2Proof.Machine.execCunseal g d a b s
  | .ctest g d a b => Sys2Proof.Machine.execCtest g d a b s
  | .cclr g d a => Sys2Proof.Machine.execCclr g d a s
  | .pfxT a b p => Sys2Proof.Machine.execPfxT a b p s
  | .pfxC m => Sys2Proof.Machine.execPfxC m s
  | .pfxI h => Sys2Proof.Machine.execPfxI h s
  | .pfxS o s1 => Sys2Proof.Machine.execPfxS o s1 s
  | .wcallAnswer op status data => Sys2Proof.Machine.execWcallAnswer op status data s
  | .launchHandleReturn launch => Sys2Proof.Machine.execLaunchHandleReturn launch s
  | .lctlAnswer op => Sys2Proof.Machine.execLctlAnswer op s
  | .answerArrival packet => Sys2Proof.Machine.execAnswerArrival packet s
  | .messageArrival packet => Sys2Proof.Machine.execMessageArrival packet s
  | .streamStripArrival core slot port => Sys2Proof.Machine.execStreamStripArrival core slot port s
  | .engineCardArrival packet => Sys2Proof.Machine.execEngineCardArrival packet s
  | .jobStart job => Sys2Proof.Machine.execJobStart job s
  | .jobCompletion job => Sys2Proof.Machine.execJobCompletion job s
  | .stageFilled job stage => Sys2Proof.Machine.execStageFilled job stage s
  | .stageRelease op => Sys2Proof.Machine.execStageRelease op s
  | .matrixCommandStart core => Sys2Proof.Machine.execMatrixCommandStart core s
  | .matrixCommandDone cmd => Sys2Proof.Machine.execMatrixCommandDone cmd s
  | .deferredCheckDone cmd => Sys2Proof.Machine.execDeferredCheckDone cmd s
  | .doneNotice guest => Sys2Proof.Machine.execDoneNotice guest s
  | .loadCompletion op => Sys2Proof.Machine.execLoadCompletion op s
  | .storeAcknowledgement op => Sys2Proof.Machine.execStoreAcknowledgement op s
  | .homeSliceRequest op elem => Sys2Proof.Machine.execHomeSliceRequest op elem s
  | .fillArrival slice line => Sys2Proof.Machine.execFillArrival slice line s
  | .ticketAllocation op => Sys2Proof.Machine.execTicketAllocation op s
  | .ticketDataArrival slice entry => Sys2Proof.Machine.execTicketDataArrival slice entry s
  | .ticketRedeem op => Sys2Proof.Machine.execTicketRedeem op s
  | .ticketRelease op => Sys2Proof.Machine.execTicketRelease op s
  | .walkStart plate => Sys2Proof.Machine.execWalkStart plate s
  | .walkCompletion walk => Sys2Proof.Machine.execWalkCompletion walk s
  | .tlbiControllerRequest op plate => Sys2Proof.Machine.execTlbiControllerRequest op plate s
  | .tlbiPlateDone op plate => Sys2Proof.Machine.execTlbiPlateDone op plate s
  | .tlbiAck op => Sys2Proof.Machine.execTlbiAck op s
  | .guestPacketArrival guest => Sys2Proof.Machine.execGuestPacketArrival guest s
  | .guestIssue core => Sys2Proof.Machine.execGuestIssue core s
  | .guestWalkDone guest => Sys2Proof.Machine.execGuestWalkDone guest s
  | .guestResult guest => Sys2Proof.Machine.execGuestResult guest s
  | .dealMessage gang index => Sys2Proof.Machine.execDealMessage gang index s
  | .taskSelection core => Sys2Proof.Machine.execTaskSelection core s
  | .slotClearingEnd core slot => Sys2Proof.Machine.execSlotClearingEnd core slot s
  | .reservationWithdrawal gang => Sys2Proof.Machine.execReservationWithdrawal gang s
  | .gangPlacement launch plate x y => Sys2Proof.Machine.execGangPlacement launch plate x y s
  | .reservationComplete gang => Sys2Proof.Machine.execReservationComplete gang s
  | .launchClaim launch => Sys2Proof.Machine.execLaunchClaim launch s
  | .gangRangeRequest launch plate => Sys2Proof.Machine.execGangRangeRequest launch plate s
  | .launchMessageSend launch => Sys2Proof.Machine.execLaunchMessageSend launch s
  | .dealingDone launch => Sys2Proof.Machine.execDealingDone launch s
  | .quiescenceSweep launch upto => Sys2Proof.Machine.execQuiescenceSweep launch upto s
  | .faultNotice launch gt cause place => Sys2Proof.Machine.execFaultNotice launch gt cause place s
  | .abort launch target => Sys2Proof.Machine.execAbort launch target s
  | .cancelDecision launch mode => Sys2Proof.Machine.execCancelDecision launch mode s
  | .cancel launch target => Sys2Proof.Machine.execCancel launch target s
  | .podDispatch msg => Sys2Proof.Machine.execPodDispatch msg s
  | .podClaimed msg => Sys2Proof.Machine.execPodClaimed msg s
  | .podLidMap msg => Sys2Proof.Machine.execPodLidMap msg s
  | .podSweepReport msg => Sys2Proof.Machine.execPodSweepReport msg s
  | .podEnd msg => Sys2Proof.Machine.execPodEnd msg s
  | .podReg msg => Sys2Proof.Machine.execPodReg msg s
  | .migrationDrained core => Sys2Proof.Machine.execMigrationDrained core s
  | .migrationCopyDone core => Sys2Proof.Machine.execMigrationCopyDone core s
  | .migrationForwardEnd core => Sys2Proof.Machine.execMigrationForwardEnd core s
  | .refreshEnd core slot => Sys2Proof.Machine.execRefreshEnd core slot s
  | .wakeRequest plate x => Sys2Proof.Machine.execWakeRequest plate x s
  | .rampDownEnd plate x => Sys2Proof.Machine.execRampDownEnd plate x s
  | .rampUpEnd plate x => Sys2Proof.Machine.execRampUpEnd plate x s
  | .packetDiscard packet => Sys2Proof.Machine.execPacketDiscard packet s
  | .nackArrival packet => Sys2Proof.Machine.execNackArrival packet s
  | .backoffExpiry packet => Sys2Proof.Machine.execBackoffExpiry packet s
  | .queueResume queue => Sys2Proof.Machine.execQueueResume queue s
  | .tailRead queue => Sys2Proof.Machine.execTailRead queue s
  | .packetStart queue => Sys2Proof.Machine.execPacketStart queue s
  | .packetCompletion queue => Sys2Proof.Machine.execPacketCompletion queue s
  | .haltComplete part => Sys2Proof.Machine.execHaltComplete part s
  | .swapComplete part => Sys2Proof.Machine.execSwapComplete part s
  | .ackDue session peer => Sys2Proof.Machine.execAckDue session peer s
  | .recoveryReset => Sys2Proof.Machine.execRecoveryReset s
  | .localWindowRequest op elem => Sys2Proof.Machine.execLocalWindowRequest op elem s
  | .podRegAnswer msg => Sys2Proof.Machine.execPodRegAnswer msg s
  | .podUnreg msg => Sys2Proof.Machine.execPodUnreg msg s
  | .podEndReport msg => Sys2Proof.Machine.execPodEndReport msg s
  | .setsSr v => Sys2Proof.Machine.execSetsSr v s
  | .setsPortcfg n v => Sys2Proof.Machine.execSetsPortcfg n v s
  | .setsGshare v => Sys2Proof.Machine.execSetsGshare v s
  | .setsAccown v => Sys2Proof.Machine.execSetsAccown v s
  | .setsSpillmap v => Sys2Proof.Machine.execSetsSpillmap v s
  | .setsLpct v => Sys2Proof.Machine.execSetsLpct v s
  | .ticketExpiry slice entry => Sys2Proof.Machine.execTicketExpiry slice entry s
  | .handlerAging core chan => Sys2Proof.Machine.execHandlerAging core chan s
  | .gangWatchdogExpiry gang => Sys2Proof.Machine.execGangWatchdogExpiry gang s
  | .sliceEnd core => Sys2Proof.Machine.execSliceEnd core s
  | .flagsumSweep plate => Sys2Proof.Machine.execFlagsumSweep plate s
  | .powerReading watts => Sys2Proof.Machine.execPowerReading watts s
  | .thermalSample core celsius => Sys2Proof.Machine.execThermalSample core celsius s
  | .bankDrowsy core slot => Sys2Proof.Machine.execBankDrowsy core slot s
  | .refreshDue core slot => Sys2Proof.Machine.execRefreshDue core slot s
  | .bankGated core slot => Sys2Proof.Machine.execBankGated core slot s
  | .columnIdleTimeout plate x => Sys2Proof.Machine.execColumnIdleTimeout plate x s
  | .linkReplay port => Sys2Proof.Machine.execLinkReplay port s
  | .linkFailure port => Sys2Proof.Machine.execLinkFailure port s
  | .hbmPatrol addr => Sys2Proof.Machine.execHbmPatrol addr s
  | .errorEvent uncorrectable unit loc part => Sys2Proof.Machine.execErrorEvent uncorrectable unit loc part s
  | .heartbeat role => Sys2Proof.Machine.execHeartbeat role s
  | .roleRestart role place => Sys2Proof.Machine.execRoleRestart role place s
  | .firmwareHashCheck good => Sys2Proof.Machine.execFirmwareHashCheck good s
  | .powerOn recovN slotid => Sys2Proof.Machine.execPowerOn recovN slotid s
  | .resetN => Sys2Proof.Machine.execResetN s
  | .supplyFault => Sys2Proof.Machine.execSupplyFault s
  | .thermalTrip => Sys2Proof.Machine.execThermalTrip s
  | .peakPowerCap => Sys2Proof.Machine.execPeakPowerCap s
  | .slicePairSet core v => Sys2Proof.Machine.execSlicePairSet core v s
  | .checkModeSet core v => Sys2Proof.Machine.execCheckModeSet core v s
  | .fwallWrite core v => Sys2Proof.Machine.execFwallWrite core v s
  | .regionTableWrite n v => Sys2Proof.Machine.execRegionTableWrite n v s
  | .bworldWrite block s1 => Sys2Proof.Machine.execBworldWrite block s1 s
  | .controlRegisterWrite reg v => Sys2Proof.Machine.execControlRegisterWrite reg v s
  | .cqWrite queue => Sys2Proof.Machine.execCqWrite queue s
  | .cqSignal queue => Sys2Proof.Machine.execCqSignal queue s
  | .cqWaitv queue => Sys2Proof.Machine.execCqWaitv queue s
  | .cqCopy queue => Sys2Proof.Machine.execCqCopy queue s
  | .cqLaunch queue => Sys2Proof.Machine.execCqLaunch queue s
  | .cqAmsg queue => Sys2Proof.Machine.execCqAmsg queue s
  | .cqLctl queue => Sys2Proof.Machine.execCqLctl queue s
  | .cqOpenam queue => Sys2Proof.Machine.execCqOpenam queue s
  | .cqCloseam queue => Sys2Proof.Machine.execCqCloseam queue s
  | .cqFlagclr queue => Sys2Proof.Machine.execCqFlagclr queue s
  | .cqHalt queue => Sys2Proof.Machine.execCqHalt queue s
  | .cqSwapout queue => Sys2Proof.Machine.execCqSwapout queue s
  | .cqSwapin queue => Sys2Proof.Machine.execCqSwapin queue s
  | .cqResume queue => Sys2Proof.Machine.execCqResume queue s
  | .cqQuota queue => Sys2Proof.Machine.execCqQuota queue s
  | .cpSliceEnd queue => Sys2Proof.Machine.execCpSliceEnd queue s
  | .lodjaupWrite f => Sys2Proof.Machine.execLodjaupWrite f s
  | .lodjaupRead f => Sys2Proof.Machine.execLodjaupRead f s
  | .lodjaupAck f => Sys2Proof.Machine.execLodjaupAck f s
  | .lodjaupNak f => Sys2Proof.Machine.execLodjaupNak f s
  | .deviceResendTimeout session peer => Sys2Proof.Machine.execDeviceResendTimeout session peer s
  | .ident f => Sys2Proof.Machine.execIdent f s
  | .attest f => Sys2Proof.Machine.execAttest f s
  | .mgmtCtxnew f => Sys2Proof.Machine.execMgmtCtxnew f s
  | .mgmtCtxend f => Sys2Proof.Machine.execMgmtCtxend f s
  | .mgmtPartcores f => Sys2Proof.Machine.execMgmtPartcores f s
  | .mgmtPartfree f => Sys2Proof.Machine.execMgmtPartfree f s
  | .mgmtOpen f => Sys2Proof.Machine.execMgmtOpen f s
  | .mgmtClose f => Sys2Proof.Machine.execMgmtClose f s
  | .mgmtWindow f => Sys2Proof.Machine.execMgmtWindow f s
  | .mgmtQnew f => Sys2Proof.Machine.execMgmtQnew f s
  | .mgmtQend f => Sys2Proof.Machine.execMgmtQend f s
  | .mgmtPodreg f => Sys2Proof.Machine.execMgmtPodreg f s
  | .mgmtPodunreg f => Sys2Proof.Machine.execMgmtPodunreg f s
  | .mgmtFwwrite f => Sys2Proof.Machine.execMgmtFwwrite f s
  | .mgmtFwcommit f => Sys2Proof.Machine.execMgmtFwcommit f s
  | .mgmtTelem f => Sys2Proof.Machine.execMgmtTelem f s
  | .mgmtErrlog f => Sys2Proof.Machine.execMgmtErrlog f s
  | .recover f => Sys2Proof.Machine.execRecover f s
  | .neighborSolicitation f => Sys2Proof.Machine.execNeighborSolicitation f s
  | .echoRequest f => Sys2Proof.Machine.execEchoRequest f s
  | .stepBoundExpiry queue => Sys2Proof.Machine.execStepBoundExpiry queue s

end Sys2Proof.Machine
end

