-- ==== Sys2Proof/Machine/Fetch.lean ====
section
/-!
DEFINITION. Fetching an instruction (R28, R38, R192), and what the next step does: a turn of the schedule, an event that
the machine has under way, or the next task's instruction (assumption 2).
-/

namespace Sys2Proof.Machine

/-! ## Fetching -/

/-- A line enters a core's L1 instruction cache, R191: 4 ways in each of 32 sets; which line of a full set it displaces is a
free choice. -/
def State.cacheLine (s : State) (e : ILine) : State :=
  let same := s.iLines.filter (fun o => o.core == e.core && Config.l1Set o.line % 32 == Config.l1Set e.line % 32)
  if same.length < 4 then { s with iLines := s.iLines ++ [e] }
  else
    let (v, s) := s.draw
    { s with iLines := (match same[v % same.length]? with
      | some o => s.iLines.erase o
      | none => s.iLines) ++ [e] }

/-- A word as an instruction cache may return it, R192: a line's first fetch takes the current value, and a later one any
value the word has held since, by a free choice. Local storage (R185) and pages whose ATTR is 1 (R191) are fetched past the
L1 caches. A line that the cache does not hold comes from its home slice; none where that does not accept the request now. -/
def State.fetchWord (s : State) (a : Access) (x : Nat) (p : Place) : Option (IWord × State) :=
  let now := BitVec.ofNat 32 (s.readMem p.key 4)
  if p.isLocal then some (now, s)
  else
    let mine := fun (e : ILine) => e.core == a.core && e.line == p.key / 128 && e.part == a.part && e.asid == a.ctx && e.va == x / 128
    match s.iLines.find? mine, p.attr0 with
    | some e, true =>
      let old := (e.old.filter (fun w => w.1 == p.key)).map (·.2)
      if old.isEmpty then some (now, s)
      else
        let (v, s) := s.draw
        some ((now :: old)[v % (old.length + 1)]?.getD now, s)
    | _, attr0 =>
      (s.touchLine a.part (some a.core) p.key false).map (fun t =>
        (now, if attr0 then t.cacheLine { core := a.core, line := p.key / 128, part := a.part, asid := a.ctx, va := x / 128 } else t))

/-- The fetch and decoding of the word at the issuing task's pc: the instruction, or the outcome of a fault or a wait on the way.
What walks have answered an earlier instruction is forgotten. -/
def State.fetch (s : State) : Except (Host.Outcome State Fault Refusal) (Instr × State) :=
  let a := s.me.arch
  let first := (match a.pfx.first with
    | some p => p
    | none => a.pc)
  let r : Req := { x := a.pc.toNat, n := 4, align := 4, perms := [.ex], rd := false, ex := true }
  let s := if s.me.wait.isSome then s else s.forget s.myAccess.who
  match s.checkAccess s.myAccess a.codeTag (Cap.ofBits a.code) r with
  | (.error code, t) => .error (t.leave first (exitOf s.myAccess code a.pc.toNat))
  | (.ok p, t) =>
    if s.badAt p.key 4 then .error (t.leave first (.trap causeData a.pc.toNat 0))
    else
      match t.fetchWord s.myAccess a.pc.toNat p with
      | none => .error (t.leave first (.wait .full))
      | some (w, t) => match decode w with
        | .error _ => .error (t.leave first (.trap causeIllegal w.toNat 0))
        | .ok i => .ok (i, t)

/-! ## What comes next -/

/-- What the next step does. -/
inductive Plan where
  | event (i : Instr) (s : State)
  | task (s : State)
  | idle (s : State)
  deriving DecidableEq, Repr

/-- The next task in cyclic order that may issue. -/
def State.taskTurn (s : State) : Plan :=
  if s.mayIssue s.cur.core s.cur.slot then .task s
  else match s.issuers with
    | [] => .idle s
    | l => .task { s with cur := nextWho s.cur l }

/-- The oldest event under way takes its turn; it goes to the back of the list, and its meaning takes it out once it has
been performed. -/
def State.dueTurn (s : State) : Plan :=
  match s.due with
  | [] => s.taskTurn
  | i :: r => .event i { s with due := r ++ [i] }

/-- What the next step does: the schedule's next turn while it has one, else events under way and tasks in alternation. -/
def State.plan (s : State) : Plan :=
  match s.agenda with
  | t :: r =>
    let s := { s with agenda := r }
    match t with
    | .event i => .event i s
    | .issue c n => if s.mayIssue c n then .task { s with cur := ⟨c, n⟩ } else .idle s
    | .packet p =>
      let (k, s) := s.fresh
      let p := { p with task := none, launchMsg := none, answer := none }
      .idle ({ s with packets := s.packets.set k p }.push (if p.kind = 3 then .engineCardArrival k else .messageArrival k))
    | .pod m => .idle (s.podArrives m)
  | [] =>
    let s' := { s with beat := !s.beat }
    if s.beat ∨ s.issuers.isEmpty then s'.dueTurn else s'.taskTurn

/-- Time after a step: at least one unit of the model's clock, and by a free amount (assumption 2); the watchdogs of gangs count
it (R328). -/
def State.later (s : State) : State :=
  let (v, s) := s.draw
  { s with now := s.now + 1 + v, gangs := s.watchGangs ((s.now + 1 + v) / gtUnits - s.gt) }

/-- A step's outcome with its time. -/
def elapsed : Host.Outcome State Fault Refusal → Host.Outcome State Fault Refusal
  | .next s => .next s.later
  | .fault f => .fault f
  | .refused r => .refused r

/-- After a task's turn, the next slot in cyclic order takes the next one. -/
def rotated : Host.Outcome State Fault Refusal → Host.Outcome State Fault Refusal
  | .next s => .next s.rotate
  | .fault f => .fault f
  | .refused r => .refused r

/-! ## Placing an instruction -/

/-- The code capability over a little core's scratchpad with PERM.EX, its ADDR at the scratchpad's first byte. -/
def scratchCode (c : Nat) : CapBits :=
  match Cap.make 4 0 (localKey c 0 0) 0x20000 (localKey c 0 0) with
  | some k => k.toBits
  | none => 0

end Sys2Proof.Machine
end

