-- ==== Sys2Proof/Machine/Step.lean ====
section
/-!
DEFINITION. The step of the module, and the placing of one instruction where the step fetches next.
-/

namespace Sys2Proof.Machine

/-- One step: the turn that `State.plan` names. -/
def step (s : State) : Host.Outcome State Fault Refusal :=
  match s.plan with
  | .event i t => elapsed (exec i t)
  | .idle t => .next t.later
  | .task t =>
    match t.fetch with
    | .error o => elapsed (rotated o)
    | .ok (i, u) => elapsed (rotated (exec i u))

/-- The machine with one instruction stored at the pc of a task that issues next: a task in slot 0 of plate 0, node
(12, 4), core 0, whose code capability covers that core's scratchpad; the module in service, nothing scheduled (assumption
1). -/
def State.withFetchWord (s : State) (nbits w : Nat) : State :=
  let c := 0x610
  let s1 := s.updSlot c 0 (fun x => { x with phase := .live, halted := false, wait := none,
                                             arch := x.arch.dropPfx.setCode (scratchCode c) })
  let s2 := s1.store (localKey c 0 0) (max 4 (nbits / 8)) w
  { s2 with boot := .service, agenda := [], due := [], beat := false, cur := { core := c, slot := 0 } }

end Sys2Proof.Machine
end

