-- ==== Sys2Proof/Safety.lean ====
section
/-!
DEFINITION. What counts as a safe step, and the terms in which the statements speak of one instruction: when the task at the
cursor is ready to issue it, and what an instruction that touches its own task alone leaves as it was.
-/

namespace Sys2Proof

/-- An outcome that is a next state, neither a fault nor a refusal of the model. -/
def goesOn (o : Host.Outcome Machine.State Machine.Fault Machine.Refusal) : Prop := ∃ s, o = .next s

/-- A step from a state goes on. -/
def safeStep (s : Machine.State) : Prop := goesOn (Machine.step s)

namespace Machine

/-! ## The ways of the mesh -/

/-- The rank of the channel from a router to its neighbour, R351: z down, z 0 in x, z 0 in y, z up, z 1 in x, z 1 in y. -/
def channelRank (a b : Router) : Nat :=
  if b.z < a.z then 0 else if a.z < b.z then 3 else 3 * a.z + (if a.py = b.py then 1 else 2)

/-- The channels of a way in order. -/
def channels (a : Router) : List Router → List Nat
  | [] => []
  | b :: rest => channelRank a b :: channels b rest

/-! ## Reading the task at the cursor -/

/-- The registers and predicates of the task at the cursor. -/
def State.regs (s : State) : Arch := s.me.arch

/-- The bits of a register of the task at the cursor. -/
def State.vec (s : State) (n : BitVec 6) : Vec := (s.me.arch.reg n.toNat).v

/-- The scalar view of a register of the task at the cursor, R9. -/
def State.sca (s : State) (n : BitVec 6) : Nat := scalarOf (s.vec n)

/-- The bits that a guard enables, R29. -/
def State.mask (s : State) (g : BitVec 4) : Word := s.me.arch.guardMask g

/-- What an instruction of the task at the cursor would read and write, R70. -/
def State.uses (s : State) (i : Instr) : Uses := usesOf s.me.peek i

/-- The predicate of an instruction's guard. -/
def guardPred (i : Instr) : Nat := ((i.guard?).getD 7).toNat % 8

/-! ## Ready to issue -/

/-- The task at the cursor may issue an instruction that is not guarded off, and nothing that comes before the
instruction's own checks stands in its way: it is well-formed (R39), the pending prefixes suit it (R37), no operand of it is
outstanding (R172), no guest result is outstanding (R173), none of its sources is a bound port (R163) and the stored bits of
its sources are good (R431). -/
structure Ready (i : Instr) (s : State) : Prop where
  may : s.mayIssue s.cur.core s.cur.slot = true
  wf : i.wf
  pfx : pfxOk i s.me.arch.pfx = true
  clear : s.me.blockers (s.uses i) (guardPred i) = []
  alone : s.me.ship = none
  unbound : ∀ r ∈ (s.uses i).src, s.me.bound r = false
  good : ∀ r ∈ (s.uses i).src, r ∉ s.me.badRegs
  on : guardedOff (governsOf i) (s.mask ((i.guard?).getD 7)) s.me.peek = false

/-- What the body of a ready instruction looks at. -/
def State.envOf (s : State) (i : Instr) : Env :=
  { core := s.cur.core, slot := s.cur.slot, big := isBig s.cur.core, word := (encode i).getD 0, pc := s.me.arch.pc,
    first := (match s.me.arch.pfx.first with
      | some p => p
      | none => s.me.arch.pc),
    mask := s.mask ((i.guard?).getD 7), pfx := s.me.arch.pfx, a := s.me.arch, sl := s.me }

/-- The slot once a ready instruction has issued: the pc stands behind it and its prefixes are consumed. -/
def State.slotIssuing (s : State) (i : Instr) : Slot :=
  (({ s.me with badRegs := if writesWhole i (s.mask ((i.guard?).getD 7)) then s.me.badRegs.filter (fun r => !(s.uses i).dst.contains r)
      else s.me.badRegs } : Slot).advanced).counted []

/-- The state once a ready instruction has issued, from which its own checks and its effect start. -/
def State.issuing (s : State) (i : Instr) : State := (s.updMe (fun _ => s.slotIssuing i)).issued s.me.gangId

/-! ## What stays as it was -/

/-- Outside the slot of the task at the cursor two states differ in no core beyond the flag accumulator of that task's
partition on its own core (R58), in no register bank beyond the waking of its own (R365), and in no gang beyond the
watchdog count (R328). -/
structure OthersKept (s t : State) : Prop where
  cores : ∀ c, c ≠ s.cur.core → t.core c = s.core c
  core : t.core s.cur.core =
    { s.core s.cur.core with slots := (t.core s.cur.core).slots, flagAcc := (t.core s.cur.core).flagAcc }
  slots : ∀ n, n ≠ s.cur.slot → t.slot s.cur.core n = s.slot s.cur.core n
  sums : ∀ p, p ≠ s.me.part → (t.core s.cur.core).flagAcc.at p 0 = (s.core s.cur.core).flagAcc.at p 0
  banks : ∀ b, b ≠ 16 * s.cur.core + s.cur.slot → t.banks.at b {} = s.banks.at b {}
  gangs : ∀ k, (t.gangs.look k).map (fun g => { g with idleSince := 0 }) =
    (s.gangs.look k).map (fun g => { g with idleSince := 0 })
  storage : ∀ k, keyIsView k = false → t.byte k = s.byte k

/-- Two states differ in nothing outside the task at the cursor, but for what `OthersKept` names. -/
structure TaskOnly (s t : State) : Prop extends OthersKept s t where
  rest : t = { s with cores := t.cores, banks := t.banks, gangs := t.gangs }

/-- In the slot of the task at the cursor nothing changed beyond its registers, its prefixes and the marks of bad registers
that were written. -/
def SlotKept (s t : State) : Prop :=
  t.me = { s.me with arch := t.me.arch, wait := none, badRegs := t.me.badRegs }

/-- Of the registers of the task at the cursor, only the named registers and predicates changed, with the pc, the prefixes,
which are consumed (R37), and SR, in which no bit changed but PP, which is clear, and the flags, which are only ever set
(R56). -/
structure RegsKept (rs ps : List Nat) (s t : State) : Prop where
  regs : ∀ r, r ∉ rs → t.me.arch.reg r = s.me.arch.reg r
  preds : ∀ p, p ∉ ps → t.me.arch.pred p = s.me.arch.pred p
  code : t.me.arch.code = s.me.arch.code
  codeTag : t.me.arch.codeTag = s.me.arch.codeTag
  pfx : t.me.arch.pfx = {}
  sr : ∀ k, k < 64 → (k < 3 ∨ 7 < k) → t.me.arch.sr.getLsbD k = (decide (k ≠ 8) && s.me.arch.sr.getLsbD k)
  flags : ∀ k, 3 ≤ k → k ≤ 7 → s.me.arch.sr.getLsbD k = true → t.me.arch.sr.getLsbD k = true

/-- An instruction that touched its own task alone and changed none but the named registers and predicates. -/
structure RegsOnly (rs ps : List Nat) (s t : State) : Prop where
  task : TaskOnly s t
  slot : SlotKept s t
  regs : RegsKept rs ps s t

/-- No flag was raised. -/
def NoFlags (s t : State) : Prop :=
  t.me.arch.sr = putBit s.me.arch.sr 8 false ∧ (t.core s.cur.core).flagAcc = (s.core s.cur.core).flagAcc

/-- The pc stands behind the instruction. -/
def Advanced (s t : State) : Prop := t.me.arch.pc = s.me.arch.pc + 4

/-! ## What an instruction that writes one register answers -/

/-- The instruction answers a next state in which vD holds some bits, untagged, no flag was raised, and nothing else but the
pc changed; a write to v0 is discarded (R10). -/
def WritesVec (i : Instr) (d : BitVec 6) (p : Vec → Prop) (s : State) : Prop :=
  ∃ t, exec i s = .next t ∧ RegsOnly [d.toNat] [] s t ∧ NoFlags s t ∧ Advanced s t ∧
    (d ≠ 0 → (t.me.arch.reg d.toNat).tag = false ∧ p (t.vec d))

/-- Element by element: an enabled element is the given number modulo 2^w, and a disabled one is as it was, R29. -/
def WritesLanes (i : Instr) (d : BitVec 6) (w : Nat) (m : Word) (f : Nat → Nat) (s : State) : Prop :=
  WritesVec i d (fun v => ∀ j, j < 1024 / w →
    elem v w j = if enabled m w j then f j % 2 ^ w else elem (s.vec d) w j) s

/-- A scalar: element 0 of width 64 is the given number modulo 2^64, and lanes 2 to 31 are zero, R9. -/
def WritesScalar (i : Instr) (d : BitVec 6) (x : Nat) (s : State) : Prop :=
  WritesVec i d (fun v => v = BitVec.ofNat 1024 (x % 2 ^ 64)) s

/-- The flags that were raised: they are set in SR, R56, and in the core's accumulator for the task's partition, R58. -/
def Raised (f : Flags) (s t : State) : Prop :=
  t.me.arch.sr = putBit s.me.arch.sr 8 false ||| f.setWidth 64 <<< 3 ∧
    (t.core s.cur.core).flagAcc.at s.me.part 0 = (s.core s.cur.core).flagAcc.at s.me.part 0 ||| f

/-- The instruction answers a next state in which vD holds the given bits, untagged, the given flags were raised, and nothing
else but the pc changed. -/
def WritesValue (i : Instr) (d : BitVec 6) (r : Vec × Flags) (s : State) : Prop :=
  ∃ t, exec i s = .next t ∧ RegsOnly [d.toNat] [] s t ∧ Raised r.2 s t ∧ Advanced s t ∧
    (d ≠ 0 → t.me.arch.reg d.toNat = { v := r.1, tag := false })

/-- A floating-point instruction element by element: an enabled element is the given result, a disabled one is as it was,
and the flags raised are those of the enabled elements together, R29, R56. -/
def WritesFloats (i : Instr) (d : BitVec 6) (w : Nat) (m : Word) (f : Nat → FRes) (s : State) : Prop :=
  ∃ t, exec i s = .next t ∧ RegsOnly [d.toNat] [] s t ∧ Advanced s t ∧
    Raised ((List.range (1024 / w)).foldl (fun z j => if enabled m w j then z ||| (f j).flags else z) 0) s t ∧
    (d ≠ 0 → (t.me.arch.reg d.toNat).tag = false ∧ ∀ j, j < 1024 / w →
      elem (t.vec d) w j = if enabled m w j then (f j).bits % 2 ^ w else elem (s.vec d) w j)

/-- The instruction answers a next state in which predicates hold given bits, no flag was raised, and nothing else but the
pc changed; a write to p7 is discarded (R18). -/
def WritesPreds (i : Instr) (l : List (BitVec 3 × (Nat → Bool))) (s : State) : Prop :=
  ∃ t, exec i s = .next t ∧ RegsOnly [] (l.map (fun e => e.1.toNat)) s t ∧ NoFlags s t ∧ Advanced s t ∧
    ∀ e ∈ l, e.1 ≠ 7 → ∀ k, k < 64 → (t.me.arch.pred e.1.toNat).getLsbD k = e.2 k

/-- The element whose span a predicate's bit lies in, R17. -/
def spanOf (w k : Nat) : Nat := 16 * k / w

/-- A compare's result in a predicate: where the bit's element is enabled, the condition, combined by the mode of PFX.C
with the element's governing bit as it was; elsewhere the bit as it was, R97. -/
def comparedBit (mode w : Nat) (m : Word) (old : Word) (c : Nat → Bool) (k : Nat) : Bool :=
  let j := spanOf w k
  if enabled m w j then
    match mode with
    | 0 => c j
    | 1 => old.getLsbD (w * j / 16) && c j
    | _ => old.getLsbD (w * j / 16) || c j
  else old.getLsbD k

/-! ## Other outcomes of one instruction -/

/-- A change of a slot's registers. -/
def onArch (f : Arch → Arch) (x : Slot) : Slot := { x with arch := f x.arch }

/-- The instruction answers a next state in which, once it has issued, it changed its own task's slot alone, in the given
way. -/
def ActsOn (i : Instr) (f : Slot → Slot) (s : State) : Prop :=
  ∃ t, exec i s = .next t ∧ TaskOnly s t ∧ t.me = f (s.slotIssuing i)

/-- The instruction answers a next state in which a register holds bits and a tag, no flag was raised, and nothing else but
the pc changed; a write to v0 is discarded (R10). -/
def WritesReg (i : Instr) (d : BitVec 6) (r : Reg) (s : State) : Prop :=
  ∃ t, exec i s = .next t ∧ RegsOnly [d.toNat] [] s t ∧ NoFlags s t ∧ Advanced s t ∧ (d ≠ 0 → t.me.arch.reg d.toNat = r)

/-- The instruction takes a fault of R319's code with a TVAL: the trap path of R320 from the state as it was, TPC at the
instruction or the first prefix of its run (R38), and no effect of its own. -/
def TrapsWith (i : Instr) (code tval : Nat) (s : State) : Prop :=
  exec i s = .next (s.enterTrap s.cur.core s.cur.slot code tval 0 false 0 (s.envOf i).first)

/-- The instruction does not issue this time, and says why. -/
def StallsFor (i : Instr) (why : Stall) (s : State) : Prop := exec i s = .next (s.updMe (fun x => x.stalls why s.now))

/-- The instruction leaves as a guest for the home big core, R166, R172: its operands, its parameter record and the core's sequence
number travel, its destinations but v0 and p7 are pending, no register changes, the pc stands behind it, and the carry-ahead
window opens; the core counts it. -/
def LeavesAsGuest (i : Instr) (d a b : Reg) (prec : Nat) (dests : List Dest) (s : State) : Prop :=
  ∃ u k, exec i s = .next u ∧ u.guests.look s.serial = some k ∧ k.word = (encode i).getD 0 ∧
    k.d = d ∧ k.a = a ∧ k.b = b ∧ k.prec = prec ∧ k.guard = s.mask ((i.guard?).getD 7) ∧ k.home = s.homeOf s.cur.core ∧
    k.task = s.myRef ∧ k.seq = (s.core s.cur.core).seq ∧ k.launch = s.me.launch ∧
    u.due = s.due ++ [.guestPacketArrival s.serial] ∧ (u.me.ship.map (·.id)) = some s.serial ∧
    u.me.board = s.me.board ++ (dests.filter Dest.real).map (fun x => (x, s.serial)) ∧
    RegsKept [] [] s u ∧ Advanced s u ∧ OthersKept (s.countShip s.cur.core) u

/-- Storage and the image of every partition that is swapped out are in their canonical form. -/
def State.Canonical (s : State) : Prop :=
  Memory.wf s.mem = true ∧ ∀ e ∈ s.parts, ∀ i, e.2.image = some i → Memory.wf i.mem = true

/-- SPILLMAP of a core written, R188: nothing else of a core changes, and the storage of a bank that the old value named and
the new one does not reads as zero, as does that of a bank named that was gated (R365). -/
structure Spilled (c : Nat) (w : Word) (s t : State) : Prop where
  core : t.core c = { s.core c with spill := w }
  cores : ∀ e, e ≠ c → t.core e = s.core e
  cleared : ∀ b, s.namedBank c (s.core c).spill = some b → s.namedBank c w ≠ some b →
    ∀ k, localKey b.1 9 (b.2 * 0x2000) ≤ k → k < localKey b.1 9 (b.2 * 0x2000) + 0x2000 → Sp.at t.mem k 0 = 0
  woken : ∀ b, s.namedBank c w = some b → (s.banks.at (16 * b.1 + b.2) {}).st = .gated →
    ∀ k, localKey b.1 9 (b.2 * 0x2000) ≤ k → k < localKey b.1 9 (b.2 * 0x2000) + 0x2000 → Sp.at t.mem k 0 = 0
  bytes : ∀ k, keyIsView k = false → (∀ b, s.namedBank c (s.core c).spill = some b → s.namedBank c w ≠ some b →
    k < localKey b.1 9 (b.2 * 0x2000) ∨ localKey b.1 9 (b.2 * 0x2000) + 0x2000 ≤ k) →
    (∀ b, s.namedBank c w = some b → (s.banks.at (16 * b.1 + b.2) {}).st = .gated →
      k < localKey b.1 9 (b.2 * 0x2000) ∨ localKey b.1 9 (b.2 * 0x2000) + 0x2000 ≤ k) → t.byte k = s.byte k

/-! ## Operations in flight -/

/-- Whether an element names a queue slot whose word is not claimed yet, R239. -/
def Elem.inQueue (e : Elem) : Bool := keyIsLocal e.key && keySpace e.key == 11

/-- What an element asks for: its address, length, lane and what it does. -/
def Elem.request (e : Elem) : Nat × Nat × Nat × Act := (e.va, e.n, e.lane, e.act)

/-- None of an element's bytes shows registers (R186) or control registers (R379). -/
def Elem.plain (e : Elem) : Prop := keyIsView e.key = false ∧ ∀ x, e.key ≤ x → x < e.key + e.n → keyIsView x = false

/-- A slot once an operation counts in it: LDC and STC (R22) and the pending destinations (R212). -/
def Slot.charged (x : Slot) (o : Op) (dests : List Dest) (id : Nat) : Slot :=
  { x with ldc := x.ldc + b2n o.ldc, stc := x.stc + b2n o.stc, board := x.board ++ (dests.filter Dest.real).map (fun d => (d, id)) }

/-- A core without its tasks, the high-water mark of its scratchpad (R340) and its contention predictor, which the recall of
a line that it owns moves (R234). -/
def Core.rest (k : Core) : Core := { k with slots := [], mark := 0, predictor := [] }

/-- Every slot but the one at the cursor is as it was, and so is every core beyond its slots, its mark and its predictor. -/
structure CoresKept (s t : State) : Prop where
  slots : ∀ c n, c ≠ s.cur.core ∨ n ≠ s.cur.slot → t.slot c n = s.slot c n
  cores : ∀ c, (t.core c).rest = (s.core c).rest

/-- Every byte of storage is as it was, but for those that `but` names. -/
def BytesKept (but : Nat → Prop) (s t : State) : Prop := ∀ k, keyIsView k = false → ¬ but k → t.byte k = s.byte k

/-- The bytes that some elements write. -/
def written (l : List Elem) (k : Nat) : Prop := ∃ e ∈ l, e.writes = true ∧ e.key ≤ k ∧ k < e.key + e.n

/-- The LDC and STC limits of R22 admit one more operation of the task that issues. -/
def State.ldcFree (s : State) : Prop := s.me.ldc < 48 ∧ (s.core s.cur.core).ldc < coreLdcLimit s.cur.core
def State.stcFree (s : State) : Prop := s.me.stc < 64

/-- Of an operation's elements those that lie in the issuing core's own local storage are performed where they are sent; they
are calm where none of them claims a queue word, none writes into a register view (R186), and none lets parked requests of
other tasks proceed (R223). -/
def Op.calm (o : Op) (s : State) : Prop := ∀ e ∈ o.elems, ownAddress s.cur.core e.va = true →
  e.inQueue = false ∧ (e.writes = true → e.plain) ∧ (s.parked = [] ∨ e.fullEmpty = false)

/-- An operation on its way: it stands in the table under its serial number, it counts in its task, whose slot is otherwise
as given, and its destinations are pending (R212); no byte of storage changed but what its elements write to the issuing
core's own local storage. -/
structure SentAs (id : Nat) (x : Slot) (o : Op) (dests : List Dest) (s t : State) : Prop where
  op : ∃ q, t.ops.look id = some q ∧ q = { o with elems := q.elems } ∧ q.elems.map Elem.request = o.elems.map Elem.request
  keys : o.calm s → ∀ q, t.ops.look id = some q → q.elems.map (·.key) = o.elems.map (·.key)
  slot : o.calm s → t.me = x.charged o dests id
  others : o.calm s → CoresKept s t
  bytes : o.calm s → BytesKept (written (o.elems.filter (fun e => ownAddress s.cur.core e.va))) s t

/-- An instruction that sent an operation on its way and changed nothing more: no register changed. -/
def Sent (i : Instr) (o : Op) (dests : List Dest) (s t : State) : Prop := SentAs s.serial (s.slotIssuing i) o dests s t

/-- The state after some translations that were at hand, R203: they draw free values and fill TLBs. -/
structure Translated (s t : State) : Prop where
  out : t = { s with draws := t.draws, tlbL1 := t.tlbL1, tlbNode := t.tlbNode }

/-- The state after some translations that were at hand, R203, and a line's prefetch, R232: they draw free values, fill TLBs, and bring
the line to its home slice and to the core's L1, which may displace others, and whose access recalls a line that a core owns
(R192); the event of the fill stands last. Nothing else changes, and of the cores no more than their predictors (R234). -/
structure Prefetched (s t : State) : Prop where
  slots : ∀ c, (t.core c).slots = (s.core c).slots
  cores : ∀ c, (t.core c).rest = (s.core c).rest
  due : ∃ l, t.due = s.due ++ l ∧ ∀ e ∈ l, ∃ i n, e = .fillArrival i n
  out : t = { s with draws := t.draws, tlbL1 := t.tlbL1, tlbNode := t.tlbNode, slices := t.slices, dLines := t.dLines,
                     bad := t.bad, due := t.due, cores := t.cores }

/-- An instruction that left its task's slot as given and put events on their way, behind those of the fills that its
accesses asked for, with no other slot and no byte of storage changed. -/
structure Leaves (x : Slot) (evs : List Instr) (s t : State) : Prop where
  slot : t.me = x
  others : CoresKept s t
  bytes : BytesKept (fun _ => False) s t
  due : ∃ l, t.due = s.due ++ l ++ evs ∧ ∀ e ∈ l, ∃ i n, e = .fillArrival i n

/-- An operation in the table whose first steps are events under way, with the slot of its task afterwards. -/
def Entered (x : Slot) (o : Op) (evs : List Instr) (s t : State) : Prop := Leaves x evs s t ∧ t.ops.look s.serial = some o

/-- The instruction answers a next state in which it sent an operation on its way. -/
def Sends (i : Instr) (o : Op) (dests : List Dest) (s : State) : Prop := ∃ t, exec i s = .next t ∧ Sent i o dests s t

/-- The operation that an instruction of the task at the cursor makes, R213. -/
def State.opOf (s : State) (i : Instr) (loads stores : Bool) : Op := (s.envOf i).op s loads stores

/-! ## Events -/

/-- The event is performed: it answers a next state, made from the state in which it is no longer under way. -/
def Does (i : Instr) (f : State → State) (s : State) : Prop := exec i s = .next (f (s.did i))

/-- The event is not performed now: it stays under way, and nothing changes. -/
def Waits (i : Instr) (s : State) : Prop := exec i s = .next s

end Machine

end Sys2Proof
end

