-- ==== Sys2Proof/Certificates/Slice0/Obligations.lean ====
section
/-!
DEFINITION. The statements about the model, for the provers.
-/

open Sys2Proof Sys2Proof.Machine

/-! ## Integer arithmetic -/

/-- R84, R85: the two-source element operations, the bitwise operations, the shifts and the rotate, in every type and at every
guard, with what they leave as it was. -/
def Obligations.IntegerElements : Prop :=
  (∀ (s : State) (g : BitVec 4) (d a b : BitVec 6) (t : BitVec 3),
     let w := intWidth t
     let m := s.mask g
     let x := fun j => elem (s.vec a) w j
     let y := fun j => elem (s.vec b) w j
     let X := fun j => readInt (intSigned t) w (x j)
     let Y := fun j => readInt (intSigned t) w (y j)
     (Ready (.add g d a b t) s → WritesLanes (.add g d a b t) d w m (fun j => x j + y j) s) ∧
     (Ready (.sub g d a b t) s → WritesLanes (.sub g d a b t) d w m (fun j => x j + (2 ^ w - y j)) s) ∧
     (Ready (.mul g d a b t) s → WritesLanes (.mul g d a b t) d w m (fun j => x j * y j) s) ∧
     (Ready (.mulh g d a b t) s →
       WritesLanes (.mulh g d a b t) d w m (fun j => (X j * Y j / 2 ^ w % 2 ^ w).toNat) s) ∧
     (Ready (.mad g d a b t) s →
       WritesLanes (.mad g d a b t) d w m (fun j => elem (s.vec d) w j + x j * y j) s) ∧
     (Ready (.min g d a b t) s → WritesLanes (.min g d a b t) d w m (fun j => if X j ≤ Y j then x j else y j) s) ∧
     (Ready (.max g d a b t) s → WritesLanes (.max g d a b t) d w m (fun j => if X j ≤ Y j then y j else x j) s) ∧
     (Ready (.absd g d a b t) s → WritesLanes (.absd g d a b t) d w m (fun j => (X j - Y j).natAbs) s)) ∧
  (∀ (s : State) (g : BitVec 4) (d a b : BitVec 6) (t : BitVec 3),
     let w := intWidth t
     let m := s.mask g
     let x := fun j => elem (s.vec a) w j
     let y := fun j => elem (s.vec b) w j
     (Ready (.and g d a b t) s → WritesLanes (.and g d a b t) d w m (fun j => x j &&& y j) s) ∧
     (Ready (.or g d a b t) s → WritesLanes (.or g d a b t) d w m (fun j => x j ||| y j) s) ∧
     (Ready (.xor g d a b t) s → WritesLanes (.xor g d a b t) d w m (fun j => x j ^^^ y j) s) ∧
     (Ready (.andn g d a b t) s → WritesLanes (.andn g d a b t) d w m (fun j => x j &&& (2 ^ w - 1 - y j)) s) ∧
     (Ready (.shl g d a b t) s → WritesLanes (.shl g d a b t) d w m (fun j => if y j < w then x j * 2 ^ y j else 0) s) ∧
     (Ready (.shr g d a b t) s → WritesLanes (.shr g d a b t) d w m (fun j =>
       (readInt (intSigned t) w (x j) / 2 ^ y j % 2 ^ w).toNat) s) ∧
     (Ready (.rot g d a b t) s → WritesLanes (.rot g d a b t) d w m (fun j =>
       x j * 2 ^ (y j % w) + x j / 2 ^ (w - y j % w)) s))

/-- R86 to R91: immediates, unary operations, selection and permutation; REDUCE combines the enabled elements in index order into
element 0 of a register that is otherwise zero, and SCAN gives each enabled element the combination of those up to it. -/
def Obligations.IntegerMovesAndReductions : Prop :=
  (∀ (s : State) (g : BitVec 4) (d a b o : BitVec 6) (t : BitVec 3) (i : BitVec 9) (k : BitVec 15),
     let w := intWidth t
     let m := s.mask g
     let x := fun j => elem (s.vec a) w j
     let n := fun j => elem (s.vec b) w j
     (Ready (.addi g d a i) s → WritesLanes (.addi g d a i) d 32 m (fun j =>
       ((elem (s.vec a) 32 j + immInt s.me.arch.pfx 9 i.toNat) % 2 ^ 32).toNat) s) ∧
     (Ready (.movi g d k) s → WritesLanes (.movi g d k) d 32 m (fun _ =>
       (immInt s.me.arch.pfx 15 k.toNat % 2 ^ 32).toNat) s) ∧
     (Ready (.movu g d k) s → WritesLanes (.movu g d k) d 32 m (fun j =>
       k.toNat * 2 ^ 17 + elem (s.vec d) 32 j % 2 ^ 17) s) ∧
     (Ready (.unop g d a o t) s → o.toNat < 7 → WritesLanes (.unop g d a o t) d w m (fun j =>
       match o.toNat with
       | 0 => 2 ^ w - 1 - x j
       | 1 => 2 ^ w - x j
       | 2 => (readInt (intSigned t) w (x j)).natAbs
       | 3 => clz w (x j)
       | 4 => popCount (x j) w
       | 5 => reverseBits w (x j)
       | _ => reverseBytes w (x j)) s) ∧
     (Ready (.unop g d a o t) s → 7 ≤ o.toNat → WritesLanes (.unop g d a o t) d (2 * w) m (fun j =>
       (readInt (o == 7) w (x j) % 2 ^ (2 * w)).toNat) s) ∧
     (Ready (.sel g d a b t) s → WritesVec (.sel g d a b t) d (fun v =>
       ∀ j, j < 1024 / w → elem v w j = if enabled m w j then x j else n j) s) ∧
     (Ready (.shuf g d a b t) s → WritesLanes (.shuf g d a b t) d w m (fun j =>
       if n j < 1024 / w then x (n j) else 0) s) ∧
     (Ready (.bcast g d a b t) s → WritesLanes (.bcast g d a b t) d w m (fun _ =>
       if s.sca b < 1024 / w then x (s.sca b) else 0) s)) ∧
  (∀ (s : State) (g : BitVec 4) (d a o : BitVec 6) (t : BitVec 3),
     let w := intWidth t
     let m := s.mask g
     let below := fun n => ((List.range n).filter (enabled m w)).map (elem (s.vec a) w)
     let two := fun x y => match o.toNat with
       | 0 => (x + y) % 2 ^ w
       | 1 => if readInt (intSigned t) w x ≤ readInt (intSigned t) w y then x else y
       | 2 => if readInt (intSigned t) w x ≤ readInt (intSigned t) w y then y else x
       | 3 => x &&& y
       | 4 => x ||| y
       | _ => x ^^^ y
     let all := fun l => match l with
       | [] => 0
       | x :: r => List.foldl two x r
     (Ready (.reduce g d a o t) s → WritesVec (.reduce g d a o t) d (fun v => v.toNat = all (below (1024 / w))) s) ∧
     (Ready (.scan g d a o t) s → WritesLanes (.scan g d a o t) d w m (fun j => all (below (j + 1))) s))

/-- R87, R92 to R96: the scalar group. -/
def Obligations.ScalarGroup : Prop :=
  ∀ (s : State) (g : BitVec 4) (d a b : BitVec 6) (t : BitVec 3) (i : BitVec 9) (k : BitVec 15),
    let x := s.sca a
    let y := s.sca b
    let low := fun z : Int => (readInt (intSigned t) (intWidth t) (z % 2 ^ intWidth t).toNat % 2 ^ 64).toNat
    (Ready (.addX g d a b t) s → WritesScalar (.addX g d a b t) d (low ((x : Int) + y)) s) ∧
    (Ready (.subX g d a b t) s → WritesScalar (.subX g d a b t) d (low ((x : Int) - y)) s) ∧
    (Ready (.mulX g d a b t) s → t.toNat ≤ 1 → WritesScalar (.mulX g d a b t) d (x * y) s) ∧
    (Ready (.mulX g d a b t) s → 2 ≤ t.toNat → WritesScalar (.mulX g d a b t) d
      (readInt (t == 2) 64 x * readInt (t == 2) 64 y / 2 ^ 64 % 2 ^ 64).toNat s) ∧
    (Ready (.addiX g d a i) s → WritesScalar (.addiX g d a i) d ((x + immInt s.me.arch.pfx 9 i.toNat) % 2 ^ 64).toNat s) ∧
    (Ready (.movlX g d k) s → WritesScalar (.movlX g d k) d (immInt s.me.arch.pfx 15 k.toNat % 2 ^ 64).toNat s) ∧
    (Ready (.logicX g d a b t) s → WritesScalar (.logicX g d a b t) d (match t.toNat with
      | 0 => x &&& y
      | 1 => x ||| y
      | 2 => x ^^^ y
      | 3 => x &&& (2 ^ 64 - 1 - y)
      | 4 => if y < 64 then x * 2 ^ y else 0
      | 5 => if y < 64 then x / 2 ^ y else 0
      | 6 => (sext x 64 / 2 ^ min y 64 % 2 ^ 64).toNat
      | _ => x * 2 ^ (y % 64) + x / 2 ^ (64 - y % 64)) s) ∧
    (Ready (.divX g d a b t) s → y ≠ 0 → WritesScalar (.divX g d a b t) d (match t.toNat with
      | 0 => ((sext x 64).tdiv (sext y 64) % 2 ^ 64).toNat
      | 1 => x / y
      | 2 => ((sext x 64).tmod (sext y 64) % 2 ^ 64).toNat
      | _ => x % y) s) ∧
    (Ready (.divX g d a b t) s → y = 0 → WritesScalar (.divX g d a b t) d (if t.toNat ≤ 1 then 2 ^ 64 - 1 else x) s) ∧
    (Ready (.laneGet g d a b) s → WritesScalar (.laneGet g d a b) d (elem (s.vec a) 64 (y % 16)) s) ∧
    (Ready (.lanePut g d a b) s → WritesVec (.lanePut g d a b) d (fun v =>
      ∀ j, j < 16 → elem v 64 j = if j = y % 16 then x else elem (s.vec d) 64 j) s)

/-! ## Predicates -/

/-- R97, R99 to R102: CMP writes the condition into PD and its complement into PE, by the mode that PFX.C names; the
instructions between predicates, and between predicates and registers, write theirs. -/
def Obligations.ComparesAndPredicates : Prop :=
  (∀ (s : State) (g : BitVec 4) (c p e : BitVec 3) (a b : BitVec 6) (t : BitVec 3),
    let w := intWidth t
    let m := s.mask g
    let mode := modeOf s.me.arch.pfx.c
    let x := fun j => elem (s.vec a) w j
    let y := fun j => elem (s.vec b) w j
    let X := fun j => readInt (intSigned t) w (x j)
    let Y := fun j => readInt (intSigned t) w (y j)
    let cond := fun j => match c.toNat with
      | 0 => decide (x j = y j)
      | 1 => decide (x j ≠ y j)
      | 2 => decide (X j < Y j)
      | 3 => decide (X j ≤ Y j)
      | 4 => decide (Y j < X j)
      | 5 => decide (Y j ≤ X j)
      | 6 => decide (x j &&& y j ≠ 0)
      | _ => decide (x j &&& y j = 0)
    Ready (.cmp g c p e a b t) s → WritesPreds (.cmp g c p e a b t)
      [(p, comparedBit mode w m (s.me.arch.pred p.toNat) cond),
       (e, comparedBit mode w m (s.me.arch.pred e.toNat) (fun j => !cond j))] s) ∧
  (∀ (s : State) (g : BitVec 4) (p q r t : BitVec 3) (a d : BitVec 6) (c : BitVec 12),
    let P := fun (n : BitVec 3) => (s.me.arch.pred n.toNat)
    let gov := fun j => (P r).getLsbD (intWidth t * j / 16)
    (Ready (.plogic g p q r t) s → WritesPreds (.plogic g p q r t) [(p, fun k =>
      let x := (P q).getLsbD k
      let y := (P r).getLsbD k
      match t.toNat with
      | 0 => x && y
      | 1 => x || y
      | 2 => x ^^ y
      | 3 => x && !y
      | 4 => x || !y
      | 5 => !(x && y)
      | 6 => !(x || y)
      | _ => !(x ^^ y))] s) ∧
    (Ready (.pmovPred g p q) s → WritesPreds (.pmovPred g p q) [(p, fun k => (P q).getLsbD k)] s) ∧
    (Ready (.pmovFromReg g p a) s → WritesPreds (.pmovFromReg g p a) [(p, fun k => (s.vec a).getLsbD k)] s) ∧
    (Ready (.pmovToReg g d q) s → WritesScalar (.pmovToReg g d q) d (P q).toNat s) ∧
    (Ready (.pcnt g d r t) s → WritesScalar (.pcnt g d r t) d
      ((List.range (1024 / intWidth t)).filter gov).length s) ∧
    (Ready (.ptest g p q r t) s → WritesPreds (.ptest g p q r t)
      [(p, fun _ => (List.range (1024 / intWidth t)).any gov), (q, fun _ => (List.range (1024 / intWidth t)).all gov)] s) ∧
    (Ready (.pset g p q c) s → q.toNat < 4 →
      WritesPreds (.pset g p q c) [(p, fun k => decide (spanOf (8 * 2 ^ q.toNat) k < c.toNat))] s))

/-! ## Floating point -/

/-- R103, R104, R105, R107, R109 with R72: the floating-point instructions complete in every state in which they may issue: a
core that executes one itself (every one on a big core, and on a little core those that R35 does not ship) writes the results,
rounded as R55 says by the rounding mode of SR; where a little core ships it, it leaves as a guest, R166. -/
def Obligations.FloatElements : Prop :=
  ∀ (s : State) (g : BitVec 4) (d a b o : BitVec 6) (t : BitVec 3),
    let f := Fmt.ofCode t.toNat
    let m := s.mask g
    let rm := s.me.arch.rm
    let x := fun j => elem (s.vec a) f.w j
    let y := fun j => elem (s.vec b) f.w j
    let z := fun j => elem (s.vec d) f.w j
    let v := fun (n : BitVec 6) => s.me.arch.reg n.toNat
    let runs := fun (i : Instr) (p q : BitVec 6) (r : Nat → FRes) => Ready i s →
      if shipped i = true ∧ isBig s.cur.core = false then LeavesAsGuest i (v d) (v p) (v q) 0 [.reg d.toNat] s
      else WritesFloats i d f.w m r s
    runs (.fadd g d a b t) a b (fun j => f.add rm (x j) (y j)) ∧
    runs (.fsub g d a b t) a b (fun j => f.sub rm (x j) (y j)) ∧
    runs (.fmul g d a b t) a b (fun j => f.mul rm (x j) (y j)) ∧
    runs (.fma g d a b t) a b (fun j => f.fma rm false (z j) (x j) (y j)) ∧
    runs (.fnma g d a b t) a b (fun j => f.fma rm true (z j) (x j) (y j)) ∧
    runs (.fmin g d a b t) a b (fun j => f.minMax false (x j) (y j)) ∧
    runs (.fmax g d a b t) a b (fun j => f.minMax true (x j) (y j)) ∧
    runs (.fminp g d a b t) a b (fun j => f.minp (x j) (y j)) ∧
    runs (.fscale g d a b t) a b (fun j => f.scale rm (x j) (sext (y j) f.w)) ∧
    runs (.fdiv g d a b t) a b (fun j => f.div rm (x j) (y j)) ∧
    runs (.fsqrt g d a t) a 0 (fun j => f.sqrt rm (x j)) ∧
    runs (.ftrans g d a o t) a 0 (fun j => f.trans o.toNat (x j)) ∧
    runs (.funop g d a o t) a 0 (fun j => funopElem f rm o.toNat (x j) (z j))

/-- R61 to R63, R67, R68, R98, R108, R109: conversions, dot products, reductions and the floating-point compare complete in
every state in which they may issue (a conversion with a parameter record where the record is read and its bound valid, and
otherwise it waits or takes its fault): at the core that executes them itself with their results, and as guests where a little
core ships them, R35, R166. -/
def Obligations.FloatOthers : Prop :=
  ∀ (s : State) (g : BitVec 4) (d a b o : BitVec 6) (t part src : BitVec 3) (c p e : BitVec 3),
    let v : BitVec 6 → BitVec 6 → BitVec 6 → VecIn := fun d a b => ⟨s.vec a, s.vec b, s.vec d, s.mask g, s.me.arch.rm⟩
    let r := fun (n : BitVec 6) => s.me.arch.reg n.toNat
    let away := fun (i : Instr) => shipped i = true ∧ isBig s.cur.core = false
    let runs := fun (i : Instr) (prec : Nat) (x : Vec × Flags) =>
      if away i then LeavesAsGuest i (r d) (r a) {} prec [.reg d.toNat] s else WritesValue i d x s
    let prs := prsOf s.me.arch.pfx.t
    let key := recordKey s.cur.core prs
    let record := s.readMem key 64
    (Ready (.fcvt g d a part t src) s → prs = 0 → runs (.fcvt g d a part t src) 0 (valFcvt part t src none (v d a 0))) ∧
    (Ready (.fcvt g d a part t src) s → prs ≠ 0 → s.storesPending s.myRef key 64 = false →
      validBound (Fmt.ofCode t.toNat) (recordBound record t.toNat) = true →
      runs (.fcvt g d a part t src) record (valFcvt part t src (some (recordBound record t.toNat)) (v d a 0))) ∧
    (Ready (.fcvt g d a part t src) s → prs ≠ 0 →
      (s.storesPending s.myRef key 64 = true → StallsFor (.fcvt g d a part t src) .order s) ∧
      (s.storesPending s.myRef key 64 = false → validBound (Fmt.ofCode t.toNat) (recordBound record t.toNat) = false →
        TrapsWith (.fcvt g d a part t src) causeParam prs s)) ∧
    (Ready (.i2f g d a part src t) s → runs (.i2f g d a part src t) 0 (valI2f part src t (v d a 0))) ∧
    (Ready (.f2i g d a part t src) s → runs (.f2i g d a part t src) 0 (valF2i part t src (v d a 0))) ∧
    (Ready (.fred g d a o t) s → runs (.fred g d a o t) 0 (valFred t o.toNat (v d a 0))) ∧
    (Ready (.fscan g d a t) s → runs (.fscan g d a t) 0 (valFscan t (v d a 0))) ∧
    (Ready (.fdot2 g d a b t) s → WritesValue (.fdot2 g d a b t) d
      (valDot 2 (dotFa s.me.arch.pfx.t) (dotFb s.me.arch.pfx.t) (v d a b)) s) ∧
    (Ready (.fdot4 g d a b t) s → WritesValue (.fdot4 g d a b t) d
      (valDot 4 (dotFa s.me.arch.pfx.t) (dotFb s.me.arch.pfx.t) (v d a b)) s) ∧
    (Ready (.fcmp g c p e a b t) s → away (.fcmp g c p e a b t) →
      LeavesAsGuest (.fcmp g c p e a b t) {} (r a) (r b) 0 [.pred p.toNat, .pred e.toNat] s) ∧
    (Ready (.fcmp g c p e a b t) s → ¬ away (.fcmp g c p e a b t) →
      let f := Fmt.ofCode t.toNat
      let cond := fun j => (f.compare c.toNat (elem (s.vec a) f.w j) (elem (s.vec b) f.w j)).1
      let bad := (List.range (1024 / f.w)).any (fun j => enabled (s.mask g) f.w j &&
        (f.compare c.toNat (elem (s.vec a) f.w j) (elem (s.vec b) f.w j)).2)
      ∃ u, exec (.fcmp g c p e a b t) s = .next u ∧ RegsOnly [] [p.toNat, e.toNat] s u ∧ Advanced s u ∧
        Raised (if bad then Flags.nv else 0) s u ∧
        ∀ k, k < 64 →
          (p ≠ 7 → (u.me.arch.pred p.toNat).getLsbD k =
            comparedBit (modeOf s.me.arch.pfx.c) f.w (s.mask g) (s.me.arch.pred p.toNat) cond k) ∧
          (e ≠ 7 → (u.me.arch.pred e.toNat).getLsbD k =
            comparedBit (modeOf s.me.arch.pfx.c) f.w (s.mask g) (s.me.arch.pred e.toNat) (fun j => !cond j) k))

/-- R35, R166, R172: an instruction that a little core ships leaves as a guest for its home big core: its operands travel,
its destinations are pending, no register changes, and the carry-ahead window opens. -/
def Obligations.Shipped : Prop :=
  ∀ (s : State) (g : BitVec 4) (d a b o : BitVec 6) (t part src c p e : BitVec 3),
    let v := fun (n : BitVec 6) => s.me.arch.reg n.toNat
    let ships := fun (i : Instr) => Ready i s ∧ shipped i = true ∧ isBig s.cur.core = false
    let reg : List Dest := [.reg d.toNat]
    let out := fun (i : Instr) (x y : BitVec 6) => ships i → LeavesAsGuest i (v d) (v x) (v y) 0 reg s
    let prs := prsOf s.me.arch.pfx.t
    let record := s.readMem (recordKey s.cur.core prs) 64
    let cvt := Instr.fcvt g d a part t src
    out (.fadd g d a b t) a b ∧ out (.fsub g d a b t) a b ∧ out (.fmul g d a b t) a b ∧ out (.fma g d a b t) a b ∧
    out (.fnma g d a b t) a b ∧ out (.fmin g d a b t) a b ∧ out (.fmax g d a b t) a b ∧ out (.fminp g d a b t) a b ∧
    out (.fscale g d a b t) a b ∧ out (.fdiv g d a b t) a b ∧ out (.fsqrt g d a t) a 0 ∧ out (.ftrans g d a o t) a 0 ∧
    out (.funop g d a o t) a 0 ∧ out (.fred g d a o t) a 0 ∧ out (.fscan g d a t) a 0 ∧
    out (.i2f g d a part src t) a 0 ∧ out (.f2i g d a part t src) a 0 ∧
    (ships (.fcmp g c p e a b t) → LeavesAsGuest (.fcmp g c p e a b t) {} (v a) (v b) 0 [.pred p.toNat, .pred e.toNat] s) ∧
    (ships cvt → prs = 0 → LeavesAsGuest cvt (v d) (v a) {} 0 reg s) ∧
    (ships cvt → prs ≠ 0 → s.storesPending s.myRef (recordKey s.cur.core prs) 64 = false →
      validBound (Fmt.ofCode t.toNat) (recordBound record t.toNat) = true → LeavesAsGuest cvt (v d) (v a) {} record reg s)

/-! ## Control flow -/

/-- R41, R75 to R77: NOP, the branches and the jumps, where the target is legal: the new pc and code capability, the return
capability of the calls, and the count of LOOP, whose target is checked only where it branches (the model's reading, assumption
23); and the faults of the branches, of LOOP and of the jumps, in the order of their checks, with TVAL the target. -/
def Obligations.ControlFlow : Prop :=
  (∀ (s : State) (g : BitVec 4) (d a : BitVec 6) (o : BitVec 21) (i : BitVec 9),
     let pc := s.me.arch.pc
     let code := s.me.arch.code
     let near := fun (x : Int) => 0 ≤ x ∧ x < 2 ^ 64 ∧ capCheck s.me.arch.codeTag (Cap.ofBits code) [.ex] x.toNat 4 = none
     let br := (pc.toNat : Int) + 4 * immInt s.me.arch.pfx 21 o.toNat
     let lp := (pc.toNat : Int) + 4 * immInt s.me.arch.pfx 9 i.toNat
     let word := fun (x : Int) => BitVec.ofNat 64 x.toNat
     let c := fun (n : Nat) => (s.me.arch.reg n).cap
     let legal := fun (n : Nat) => (s.me.arch.reg n).tag = true ∧ (c n).otype = 0 ∧ (c n).has .ex = true ∧
       (c n).addr.toNat % 4 = 0 ∧ (c n).covers (c n).addr.toNat 4 = true
     let back := capReg (codeAt code (pc + 4)) true
     (Ready (.nop g) s → ActsOn (.nop g) id s) ∧
     (Ready (.br g o) s → near br → ActsOn (.br g o) (onArch fun r => { r with pc := word br }) s) ∧
     (Ready (.call g o) s → near br → ActsOn (.call g o) (onArch fun r => { r.setReg 1 back with pc := word br }) s) ∧
     (Ready (.jmp g a) s → legal a.toNat →
       ActsOn (.jmp g a) (onArch fun r => { r with code := (c a.toNat).toBits, codeTag := true, pc := (c a.toNat).addr }) s) ∧
     (Ready (.jmpCall g a) s → legal a.toNat →
       ActsOn (.jmpCall g a) (onArch fun r => { r.setReg 1 back with code := (c a.toNat).toBits, codeTag := true, pc := (c a.toNat).addr }) s) ∧
     (Ready (.jmpRet g) s → legal 1 →
       ActsOn (.jmpRet g) (onArch fun r => { r with code := (c 1).toBits, codeTag := true, pc := (c 1).addr }) s) ∧
     (Ready (.loop g d i) s → s.sca d = 0 → ActsOn (.loop g d i) id s) ∧
     (Ready (.loop g d i) s → s.sca d = 1 → ActsOn (.loop g d i) (onArch fun r => r.setScalar d.toNat 0) s) ∧
     (Ready (.loop g d i) s → 2 ≤ s.sca d → near lp →
       ActsOn (.loop g d i) (onArch fun r => { r.setScalar d.toNat (s.sca d - 1) with pc := word lp }) s)) ∧
  (∀ (s : State) (g : BitVec 4) (d a : BitVec 6) (o : BitVec 21) (i : BitVec 9),
     let k := Cap.ofBits s.me.arch.code
     let tag := s.me.arch.codeTag
     let misses := fun (i : Instr) (z : Int) =>
       let out := z < 0 ∨ 2 ^ 64 ≤ z
       let v := (z % 2 ^ 64).toNat
       (out → TrapsWith i 6 v s) ∧
       (¬ out → tag = false → TrapsWith i 3 v s) ∧
       (¬ out → tag = true → k.otype ≠ 0 → TrapsWith i 4 v s) ∧
       (¬ out → tag = true → k.otype = 0 → k.has .ex = false → TrapsWith i 5 v s) ∧
       (¬ out → tag = true → k.otype = 0 → k.has .ex = true → ¬ (k.base ≤ z ∧ z + 4 ≤ k.top) → TrapsWith i 6 v s)
     let br := (s.me.arch.pc.toNat : Int) + 4 * immInt s.me.arch.pfx 21 o.toNat
     let lp := (s.me.arch.pc.toNat : Int) + 4 * immInt s.me.arch.pfx 9 i.toNat
     let r := s.me.arch.reg
     let c := fun (n : Nat) => (r n).cap
     let x := fun (n : Nat) => (c n).addr.toNat
     let faults := fun (i : Instr) (n : Nat) =>
       ((r n).tag = false → TrapsWith i 3 (x n) s) ∧
       ((r n).tag = true → (c n).otype ≠ 0 → TrapsWith i 4 (x n) s) ∧
       ((r n).tag = true → (c n).otype = 0 → (c n).has .ex = false → TrapsWith i 5 (x n) s) ∧
       ((r n).tag = true → (c n).otype = 0 → (c n).has .ex = true → x n % 4 ≠ 0 → TrapsWith i 7 (x n) s) ∧
       ((r n).tag = true → (c n).otype = 0 → (c n).has .ex = true → x n % 4 = 0 → (c n).covers (x n) 4 = false →
         TrapsWith i 6 (x n) s)
     (Ready (.br g o) s → misses (.br g o) br) ∧ (Ready (.call g o) s → misses (.call g o) br) ∧
     (Ready (.loop g d i) s → 2 ≤ s.sca d → misses (.loop g d i) lp) ∧
     (Ready (.jmp g a) s → faults (.jmp g a) a.toNat) ∧ (Ready (.jmpCall g a) s → faults (.jmpCall g a) a.toNat) ∧
     (Ready (.jmpRet g) s → faults (.jmpRet g) 1))

/-- R78 to R80, R83, R124, R333: WAIT goes on once every counter is at or below its threshold, 31 being none, and else waits; OPF
has no effect; the timers read the global time and the cycle count. END waits for the four counters; then the slot of an
ordinary task is free for 64 cycles' clearing, with no byte of storage changed; in the service slot it ends the slot's run and
stops the matrix unit, which the health monitor reports. -/
def Obligations.WaitsTimersAndEnd : Prop :=
  (∀ (s : State) (g : BitVec 4) (d a b : BitVec 6) (l c m st : BitVec 5),
     let met := fun (n : Nat) (f : BitVec 5) => f = 31 ∨ n ≤ f.toNat
     let all := met s.me.ldc l ∧ met s.me.stc st ∧ met s.me.cpc c ∧ met s.me.mxc m
     (Ready (.wait g l st c m) s → all → ActsOn (.wait g l st c m) id s) ∧
     (Ready (.wait g l st c m) s → ¬ all → StallsFor (.wait g l st c m) .counter s) ∧
     (Ready (.opf g d a b) s → ActsOn (.opf g d a b) id s) ∧
     (Ready (.timeGt g d) s → WritesScalar (.timeGt g d) d (s.now / gtUnits) s) ∧
     (Ready (.timeCyc g d) s → WritesScalar (.timeCyc g d) d (s.cyc s.cur.core) s)) ∧
  (∀ (s : State) (g : BitVec 4), Ready (.endTask g) s →
     let x := s.me
     let idle := x.ldc = 0 ∧ x.stc = 0 ∧ x.cpc = 0 ∧ x.mxc = 0
     (¬ idle → StallsFor (.endTask g) .counter s) ∧
     (idle → s.cur.slot ≠ 8 → x.arch.trapped = false →
       ∃ t, exec (.endTask g) s = .next t ∧
         t.slot s.cur.core s.cur.slot = { readyAt := s.now + 64 * cycleLen (coreX (s.phys s.cur.core)) } ∧
         BytesKept (fun _ => False) s t ∧
         (x.gangId = none → (∀ q, q < 8 → (x.port q).mode ≠ 1) → CoresKept s t)) ∧
     (idle → s.cur.slot ≠ 8 → x.arch.trapped = true →
       exec (.endTask g) s = .next ((s.issuing (.endTask g)).abortTask s.cur.core s.cur.slot x.tcause.toNat)) ∧
     (idle → s.cur.slot = 8 →
       exec (.endTask g) s = .next { ((s.issuing (.endTask g)).updMe (fun y => { y with phase := .free })).updBig s.cur.core
         (fun b => { b with stopped := true }) with serviceStops := s.serviceStops ++ [(s.cur.core, s.now / gtUnits)] }))

/-! ## Exceptions -/

/-- R318, R320, R324, R328: what taking an exception saves and changes, where the context has a handler: TPC, TCAUSE, TVAL and
TWIN, the shadows of v2 and of the code capability, the stack capability in v2, the handler's code capability and TVEC in the
pc, SR, and nothing else. In a handler, without one, or for the watchdog's code, the task stops in its slot instead and a
fault notice of its launch is on its way, with TCAUSE and the place. -/
def Obligations.TrapEntry : Prop :=
  (∀ (s : State) (c n code tval qual twin : Nat) (remote : Bool) (tpc : Word),
     let x := s.slot c n
     let h := s.trapSetup c n
     x.arch.trapped = false → h.tvec ≠ 0 → code ≠ 19 →
     let t := s.enterTrap c n code tval qual remote twin tpc
     let y := t.slot c n
     y.tpc = tpc ∧ y.tval = BitVec.ofNat 64 tval ∧ y.twin = BitVec.ofNat 64 (if remote then twin else 0) ∧
       y.tcause = BitVec.ofNat 64 (code % 256 + 2 ^ 8 * (qual % 256) + (if remote then 2 ^ 16 else 0) +
         (if x.arch.sup then 2 ^ 17 else 0)) ∧
       y.shadowV2 = x.arch.reg 2 ∧ y.shadowCode = x.arch.code ∧ y.shadowTag = x.arch.codeTag ∧ y.shadowPc = tpc ∧
       y.arch.pc = h.tvec ∧ y.arch.code = h.tcode.getD 0 ∧ y.arch.codeTag = h.tcode.isSome ∧ y.arch.pfx = {} ∧
       (∀ c, h.tstk = some c →
         let base := Cap.ofBits c
         let top := ((base.base + (((n + 1) * 2 ^ h.tsz : Nat) : Int)) % 2 ^ 64).toNat
         y.arch.reg 2 = { v := (base.withAddr top).toBits.setWidth 1024, tag := base.representable top }) ∧
       (∀ r, r ≠ 2 → y.arch.reg r = x.arch.reg r) ∧ (∀ p, y.arch.pred p = x.arch.pred p) ∧
       (∀ k, k < 64 → y.arch.sr.getLsbD k = if k = 8 then false else if k = 10 ∨ k = 11 then true else x.arch.sr.getLsbD k) ∧
       y = { x with arch := y.arch, tpc := y.tpc, tcause := y.tcause, tval := y.tval, twin := y.twin, wait := none,
                    shadowV2 := y.shadowV2, shadowCode := y.shadowCode, shadowTag := y.shadowTag, shadowPc := y.shadowPc } ∧
       t = s.setSlot c n y) ∧
  (∀ (s : State) (c n code tval qual twin : Nat) (remote : Bool) (tpc : Word),
     let x := s.slot c n
     (x.arch.trapped = true ∨ (s.trapSetup c n).tvec = 0 ∨ code = 19) →
     let t := s.enterTrap c n code tval qual remote twin tpc
     (t.slot c n).phase = .stopped ∧ (∀ d m, (d ≠ c ∨ m ≠ n) → t.slot d m = s.slot d m) ∧
       t.due = s.due ++ (match x.launch with
         | some l => [.faultNotice l s.gt (tcauseWord code qual remote x.arch.sup x.arch.trapped) (faultPlace c n)]
         | none => []))

/-- R81, R322, R330: TRAP completes and takes code 16 with TPC behind it; BRK takes code 17 with TPC at itself or its first
prefix; the immediate goes to TVAL. ERET in a handler restores the pc from TPC, the code capability and v2 from their shadows,
SUP from PSUP, and clears TRAPPED; outside a handler it takes a privilege fault with the word in TVAL; from the service slot
it also ends the slot's run, and the waiting command is decided again. -/
def Obligations.TrapInstructions : Prop :=
  (∀ (s : State) (g : BitVec 4) (i : BitVec 15),
     let imm := immNat s.me.arch.pfx 15 i.toNat
     (Ready (.trap g i) s → exec (.trap g i) s = .next ((s.issuing (.trap g i)).enterTrap s.cur.core s.cur.slot 16 imm 0
       false 0 (s.me.arch.pc + 4))) ∧
     (Ready (.brk g i) s → TrapsWith (.brk g i) 17 imm s)) ∧
  (∀ (s : State) (g : BitVec 4), Ready (.eret g) s →
     let x := s.me
     let back := fun (y : Slot) => { y with arch := { (y.arch.setReg 2 x.shadowV2) with
       code := x.shadowCode, codeTag := x.shadowTag, pc := x.tpc, sr := putBit (putBit y.arch.sr 10 (x.tcause.getLsbD 17)) 11 false } }
     (x.arch.trapped = false → TrapsWith (.eret g) 2 ((encode (.eret g)).getD 0).toNat s) ∧
     (x.arch.trapped = true → s.cur.slot ≠ 8 → ActsOn (.eret g) back s) ∧
     (x.arch.trapped = true → s.cur.slot = 8 →
       exec (.eret g) s = .next ((((s.issuing (.eret g)).updMe (fun y => { back y with phase := .free })).updCore s.cur.core
         (fun k => { k with big := { k.big with trapped := false } })).push (.matrixCommandStart s.cur.core))))

/-! ## Prefixes -/

/-- R36 to R38: a prefix holds its payload, sets SR.PP, and remembers the first prefix of its run; a second one of a kind is
illegal, with the word in TVAL. A prefix inside a carry-ahead window leaves the window, and its count, as it was (the model's reading,
assumption 18). -/
def Obligations.Prefixes : Prop :=
  ∀ (s : State) (fa fb prs : BitVec 4) (m o : BitVec 2) (h : BitVec 21) (sc : BitVec 3),
    let p := s.me.arch.pfx
    let first := (p.first).getD s.me.arch.pc
    let holds := fun (i : Instr) (p' : Pfx) => s.mayIssue s.cur.core s.cur.slot = true → i.wf →
      ∃ t, exec i s = .next t ∧ TaskOnly s t ∧
        t.me = { s.me with wait := none, arch := { s.me.arch with
          pc := s.me.arch.pc + 4, sr := putBit s.me.arch.sr 8 true, pfx := { p' with first := some first } } }
    let again := fun (i : Instr) => s.mayIssue s.cur.core s.cur.slot = true → i.wf → s.me.ship = none →
      TrapsWith i 1 ((encode i).getD 0).toNat s
    (p.t = none → holds (.pfxT fa fb prs) { p with t := some (fa ++ fb ++ prs ++ (0 : BitVec 9)) }) ∧
    (p.c = none → holds (.pfxC m) { p with c := some (m ++ (0 : BitVec 19)) }) ∧
    (p.i = none → holds (.pfxI h) { p with i := some h }) ∧
    (p.s = none → holds (.pfxS o sc) { p with s := some (o ++ sc ++ (0 : BitVec 16)) }) ∧
    (p.t ≠ none → again (.pfxT fa fb prs)) ∧ (p.c ≠ none → again (.pfxC m)) ∧ (p.i ≠ none → again (.pfxI h)) ∧
    (p.s ≠ none → again (.pfxS o sc))

/-! ## Special registers -/

/-- R19, R22, R58, R82, R159, R304, R362: GETS shows each special register: in any mode those that are no supervisor
register, with SR.SUP all, and the big-core registers on a big core; SR once the task's matrix commands are done (R303; on a
little core the model's reading, assumption 85), and until then the read waits. -/
def Obligations.SpecialRegisterReads : Prop :=
  ∀ (s : State) (g : BitVec 4) (d : BitVec 6) (n : BitVec 12), Ready (.gets g d n) s →
    let x := s.me
    let c := s.cur.core
    let big := isBig c = true
    let sup := x.arch.sup = true
    let reads := fun (v : Nat) => WritesScalar (.gets g d n) d v s
    (n = 0x000 → x.mxc = 0 → reads x.arch.sr.toNat) ∧ (n = 0x000 → x.mxc ≠ 0 → StallsFor (.gets g d n) .counter s) ∧
    (n = 0x001 → sup → reads (s.flagSum (corePlate c) x.part)) ∧
    (n = 0x010 → reads x.tcoord.toNat) ∧ (n = 0x011 → reads x.gang.toNat) ∧ (n = 0x012 → reads x.ctxid.toNat) ∧
    (n = 0x013 → reads x.heat.toNat) ∧
    (n = 0x014 → reads (x.ldc + 2 ^ 8 * x.stc + 2 ^ 16 * x.cpc + 2 ^ 24 * x.mxc)) ∧
    (n = 0x020 → sup → reads (s.tvec c x.ctxid.toNat).toNat) ∧ (n = 0x021 → sup → reads x.tpc.toNat) ∧
    (n = 0x022 → sup → reads x.tcause.toNat) ∧ (n = 0x023 → sup → reads x.tval.toNat) ∧
    (n = 0x024 → sup → reads x.twin.toNat) ∧
    (n = 0x030 → big → sup → reads (s.core c).gshare) ∧ (n = 0x031 → big → sup → reads (s.core c).big.accown.toNat) ∧
    (n = 0x032 → big → sup → reads (s.accSave c s.cur.slot)) ∧
    (∀ q, q < 8 → n.toNat = 0x040 + q → reads (x.port q).config) ∧
    (n = 0x050 → sup → reads (s.lpctWindow c)) ∧ (n = 0x060 → sup → reads (s.core c).spill.toNat)

/-- R20, R21, R82, R159, R168, R188, R303, R316, R318, R331, R362: SETS writes each special register that is no read-only
one, with what the write does beside; the flags that a write of SR sets enter the accumulator of R58 too. A bank that SPILLMAP
releases reads as zero at once (the model's reading, assumption 75). -/
def Obligations.SpecialRegisterWrites : Prop :=
  ∀ (s : State) (g : BitVec 4) (d : BitVec 6) (n : BitVec 12), Ready (.sets g d n) s →
    let i := Instr.sets g d n
    let x := s.me
    let c := s.cur.core
    let big := isBig c = true
    let sup := x.arch.sup = true
    let v := s.sca d
    let w := BitVec.ofNat 64 v
    (n = 0x000 → x.mxc = 0 → v % 8 ≤ 4 → ∃ t, exec i s = .next t ∧ TaskOnly s t ∧
      t.me = onArch (fun r => { r with sr := BitVec.ofNat 64 (r.sr.toNat / 2 ^ 8 * 2 ^ 8 + v % 2 ^ 8) }) (s.slotIssuing i) ∧
      (t.core c).flagAcc.at x.part 0 = (s.core c).flagAcc.at x.part 0 ||| BitVec.ofNat 5 (v / 8)) ∧
    (n = 0x020 → sup → exec i s = .next ((s.issuing i).updCore c (fun k => { k with tvec := k.tvec.set x.ctxid.toNat w }))) ∧
    (n = 0x021 → sup → ActsOn i (fun y => { y with tpc := w }) s) ∧
    (n = 0x022 → sup → ActsOn i (fun y => { y with tcause := BitVec.ofNat 64 (v % 2 ^ 19) }) s) ∧
    (n = 0x023 → sup → s.cur.slot ≠ 8 → ActsOn i (fun y => { y with tval := w }) s) ∧
    (n = 0x023 → sup → s.cur.slot = 8 →
      ActsOn i (fun y => { y with tval := BitVec.ofNat 64 (setBits x.tval.toNat 15 12 (v / 2 ^ 12 % 2 ^ 4)) }) s) ∧
    (n = 0x024 → sup → ActsOn i (fun y => { y with twin := BitVec.ofNat 64 (v % 2 ^ 5) }) s) ∧
    (n = 0x030 → big → sup → v % 32 ≤ 16 → exec i s = .next ((s.issuing i).updCore c (fun k => { k with gshare := v % 32 }))) ∧
    (n = 0x031 → big → sup →
      let accs := (List.range 16).filter (fun a => (s.core c).big.accown.toNat / 16 ^ a % 16 != v / 16 ^ a % 16)
      (s.cmds.any (fun m => m.2.core == c && m.2.running && accs.contains m.2.n)) = false →
      exec i s = .next ((s.issuing i).updCore c (fun k => { k with big := { accs.foldl Big.zeroAcc k.big with accown := w } }))) ∧
    (n = 0x032 → big → sup → exec i s = .next ((s.issuing i).setAccsave c s.cur.slot v)) ∧
    (∀ q, q < 8 → n.toNat = 0x040 + q → v = 0 → exec i s = .next ((s.issuing i).unbind c s.cur.slot q)) ∧
    (n = 0x050 → sup → v % 4 = 0 → isLittle (v % 2 ^ 16 / 4) = true → s.isEasel (v % 2 ^ 16 / 4) = false →
      exec i s = .next ((s.issuing i).updCore c (fun k => { k with lpctLog := v % 2 ^ 16 }))) ∧
    (n = 0x060 → sup → spillIllegal (isBig c) v = false → s.spillRange c w = false →
      ∃ t, exec i s = .next t ∧ Spilled c w (s.issuing i) t)

/-- R19, R21, R82, R159, R168, R362: which GETS and SETS fault: a number that is not in the table, a big-core register on a
little core and a write of a read-only register are illegal, and so are the values that SR, PORTCFG and GSHARE do not take;
a supervisor register without SR.SUP is a privilege fault with the number in TVAL; a logical core that LPCT does not take is
a range fault, and so is a LOG whose two low bits are not zero (the model's reading, assumption 75). -/
def Obligations.SpecialRegisterFaults : Prop :=
  ∀ (s : State) (g : BitVec 4) (d : BitVec 6) (n : BitVec 12),
    let big := [0x030, 0x031, 0x032].contains n.toNat = true ∧ isBig s.cur.core = false
    let ro := [0x001, 0x010, 0x011, 0x012, 0x013, 0x014].contains n.toNat = true
    let none_ := [0x000, 0x001, 0x010, 0x011, 0x012, 0x013, 0x014, 0x020, 0x021, 0x022, 0x023, 0x024, 0x030, 0x031, 0x032,
      0x040, 0x041, 0x042, 0x043, 0x044, 0x045, 0x046, 0x047, 0x050, 0x060].contains n.toNat = false
    let user := [0x001, 0x020, 0x021, 0x022, 0x023, 0x024, 0x030, 0x031, 0x032, 0x050, 0x060].contains n.toNat = true ∧
      s.me.arch.sup = false
    let illegal := fun (i : Instr) => TrapsWith i 1 ((encode i).getD 0).toNat s
    let v := s.sca d
    (Ready (.gets g d n) s → (none_ ∨ big) → illegal (.gets g d n)) ∧
    (Ready (.gets g d n) s → ¬ big → user → TrapsWith (.gets g d n) 2 n.toNat s) ∧
    (Ready (.sets g d n) s → (none_ ∨ big ∨ ro) → illegal (.sets g d n)) ∧
    (Ready (.sets g d n) s → ¬ big → ¬ ro → user → TrapsWith (.sets g d n) 2 n.toNat s) ∧
    (Ready (.sets g d n) s → n = 0 → s.me.mxc = 0 → 4 < v % 8 → illegal (.sets g d n)) ∧
    (Ready (.sets g d n) s → 0x040 ≤ n.toNat → n.toNat ≤ 0x047 → v ≠ 0 → illegal (.sets g d n)) ∧
    (Ready (.sets g d n) s → n = 0x030 → ¬ big → ¬ user → 16 < v % 32 → illegal (.sets g d n)) ∧
    (Ready (.sets g d n) s → n = 0x060 → ¬ user → spillIllegal (isBig s.cur.core) v = true → illegal (.sets g d n)) ∧
    (Ready (.sets g d n) s → n = 0x060 → ¬ user → spillIllegal (isBig s.cur.core) v = false →
      s.spillRange s.cur.core (BitVec.ofNat 64 v) = true → TrapsWith (.sets g d n) 9 v s) ∧
    (Ready (.sets g d n) s → n = 0x050 → ¬ user → (v % 4 ≠ 0 ∨ isLittle (v % 2 ^ 16 / 4) = false ∨ s.isEasel (v % 2 ^ 16 / 4) = true) →
      TrapsWith (.sets g d n) 9 v s)

/-- R21, R159, R168, R188, R303, R362: the writes of the table's special-register rows, as they act for the task that issues; a bank that
SPILLMAP releases reads as zero at once (the model's reading, assumption 75). -/
def Obligations.RegisterWriteEvents : Prop :=
  ∀ (s : State) (v : Word) (q : BitVec 3),
    let c := s.cur.core
    let n := s.cur.slot
    (v.toNat % 8 ≤ 4 → ∃ t, exec (.setsSr v) s = .next t ∧ TaskOnly s t ∧
      t.me = onArch (fun r => { r with sr := BitVec.ofNat 64 (r.sr.toNat / 2 ^ 8 * 2 ^ 8 + v.toNat % 2 ^ 8) }) s.me ∧
      (t.core c).flagAcc.at s.me.part 0 = (s.core c).flagAcc.at s.me.part 0 ||| BitVec.ofNat 5 (v.toNat / 8)) ∧
    (v = 0 → exec (.setsPortcfg q v) s = .next (s.unbind c n q.toNat)) ∧
    (v.toNat % 32 ≤ 16 → exec (.setsGshare v) s = .next (s.updCore c (fun k => { k with gshare := v.toNat % 32 }))) ∧
    ((let accs := (List.range 16).filter (fun a => (s.core c).big.accown.toNat / 16 ^ a % 16 != v.toNat / 16 ^ a % 16)
      (s.cmds.any (fun m => m.2.core == c && m.2.running && accs.contains m.2.n)) = false →
      exec (.setsAccown v) s = .next (s.updCore c (fun k => { k with big := { accs.foldl Big.zeroAcc k.big with accown := v } })))) ∧
    (spillIllegal (isBig c) v.toNat = false → s.spillRange c v = false →
      ∃ t, exec (.setsSpillmap v) s = .next t ∧ Spilled c v s t) ∧
    (v.toNat % 4 = 0 → isLittle (v.toNat % 2 ^ 16 / 4) = true → s.isEasel (v.toNat % 2 ^ 16 / 4) = false →
      exec (.setsLpct v) s = .next (s.updCore c (fun k => { k with lpctLog := v.toNat % 2 ^ 16 })))

/-! ## Capabilities -/

/-- R111 to R115: what the capability instructions write where their checks pass; a base or a length that does not fit 64 bits
is read modulo 2^64, which is the model's choice (assumption 96). -/
def Obligations.CapabilityResults : Prop :=
  ∀ (s : State) (g : BitVec 4) (d a b : BitVec 6),
    let r := fun (n : BitVec 6) => s.me.arch.reg n.toNat
    let c := (r a).cap
    let k := (r b).cap
    let o := k.addr.toNat
    let x := (((c.addr.toNat : Int) + sext (s.sca b) 64) % 2 ^ 64).toNat
    let derivable := (r a).tag = true ∧ c.otype = 0
    let authority := fun (p : Perm) => (r b).tag = true ∧ k.otype = 0 ∧ k.has p = true ∧ k.covers o 1 = true
    (Ready (.cget g d a b) s → WritesScalar (.cget g d a b) d (match b.toNat with
      | 0 => c.addr.toNat
      | 1 => (c.base % 2 ^ 64).toNat
      | 2 => if c.top - c.base = 2 ^ 64 then 2 ^ 64 - 1 else ((c.top - c.base) % 2 ^ 64).toNat
      | 3 => c.perm.toNat
      | 4 => c.otype.toNat
      | _ => if (r a).tag then 1 else 0) s) ∧
    (Ready (.csetb g d a b) s → derivable → ∀ n, c.setBounds (s.sca b) = some n →
      WritesReg (.csetb g d a b) d { v := n.toBits.setWidth 1024, tag := true } s) ∧
    (Ready (.candp g d a b) s → derivable → WritesReg (.candp g d a b) d
      { v := ({ c with perm := BitVec.ofNat 16 (c.perm.toNat &&& s.sca b &&& 0x7FF) } : Cap).toBits.setWidth 1024, tag := true } s) ∧
    (Ready (.cinc g d a b) s → derivable → WritesReg (.cinc g d a b) d
      { v := ({ c with addr := BitVec.ofNat 64 x } : Cap).toBits.setWidth 1024, tag := c.representable x } s) ∧
    (Ready (.cseal g d a b) s → authority .seal → derivable → 1 ≤ o → o < 2 ^ 16 → (o ≤ 2 → s.me.arch.sup = true) →
      WritesReg (.cseal g d a b) d
        { v := ({ c with otype := BitVec.ofNat 16 o } : Cap).toBits.setWidth 1024, tag := true } s) ∧
    (Ready (.cunseal g d a b) s → authority .unsl → (r a).tag = true → c.otype ≠ 0 → o = c.otype.toNat → o ≠ 1 →
      (o = 2 → s.me.arch.sup = true) →
      WritesReg (.cunseal g d a b) d { v := ({ c with otype := 0 } : Cap).toBits.setWidth 1024, tag := true } s) ∧
    (Ready (.ctest g d a b) s → WritesScalar (.ctest g d a b) d
      (if (r a).tag = true ∧ (r b).tag = true ∧ k.otype = 0 ∧ k.base ≤ c.base ∧ c.top ≤ k.top ∧ c.perm &&& ~~~k.perm = 0
       then 1 else 0) s) ∧
    (Ready (.cclr g d a) s → WritesVec (.cclr g d a) d (fun v => v = (r a).v) s)

/-- R110, R112, R114: the faults of the capability instructions in the order of their checks, with TVAL. -/
def Obligations.CapabilityFaults : Prop :=
  ∀ (s : State) (g : BitVec 4) (d a b : BitVec 6),
    let r := fun (n : BitVec 6) => s.me.arch.reg n.toNat
    let c := (r a).cap
    let k := (r b).cap
    let x := c.addr.toNat
    let o := k.addr.toNat
    let user := s.me.arch.sup = false
    let underived := fun (i : Instr) =>
      ((r a).tag = false → TrapsWith i 3 x s) ∧ ((r a).tag = true → c.otype ≠ 0 → TrapsWith i 4 x s)
    let unauthorised := fun (i : Instr) (p : Perm) =>
      ((r b).tag = false → TrapsWith i 3 o s) ∧
      ((r b).tag = true → k.otype ≠ 0 → TrapsWith i 4 o s) ∧
      ((r b).tag = true → k.otype = 0 → k.has p = false → TrapsWith i 5 o s) ∧
      ((r b).tag = true → k.otype = 0 → k.has p = true → k.covers o 1 = false → TrapsWith i 6 o s)
    let authority := fun (p : Perm) => (r b).tag = true ∧ k.otype = 0 ∧ k.has p = true ∧ k.covers o 1 = true
    (Ready (.csetb g d a b) s → underived (.csetb g d a b) ∧
      ((r a).tag = true → c.otype = 0 → c.setBounds (s.sca b) = none → TrapsWith (.csetb g d a b) 6 x s)) ∧
    (Ready (.candp g d a b) s → underived (.candp g d a b)) ∧ (Ready (.cinc g d a b) s → underived (.cinc g d a b)) ∧
    (Ready (.cseal g d a b) s → unauthorised (.cseal g d a b) .seal ∧ (authority .seal → underived (.cseal g d a b) ∧
      ((r a).tag = true → c.otype = 0 →
        (o = 0 ∨ 2 ^ 16 ≤ o → TrapsWith (.cseal g d a b) 6 o s) ∧
        ((o = 1 ∨ o = 2) → user → TrapsWith (.cseal g d a b) 2 o s)))) ∧
    (Ready (.cunseal g d a b) s → unauthorised (.cunseal g d a b) .unsl ∧ (authority .unsl →
      ((r a).tag = false → TrapsWith (.cunseal g d a b) 3 x s) ∧
      ((r a).tag = true → c.otype = 0 → TrapsWith (.cunseal g d a b) 4 x s) ∧
      ((r a).tag = true → c.otype ≠ 0 → (o ≠ c.otype.toNat ∨ o = 1) → TrapsWith (.cunseal g d a b) 4 x s) ∧
      ((r a).tag = true → c.otype = 2 → o = 2 → user → TrapsWith (.cunseal g d a b) 2 o s)))

/-! ## Memory operations

Each statement says, for an access whose checks pass (R190, R211) and a counter that is not at its limit (R22), which
operation is on its way: the elements with their places, addresses and lanes, what they do, the order that PFX.S or the
instruction adds, and what comes back to which register. -/

/-- R209, R212 to R216, R246: LDX, STX, LDV and STV; a store whose write-buffer bank is full waits. -/
def Obligations.LoadsAndStores : Prop :=
  ∀ (s : State) (g : BitVec 4) (d a o : BitVec 6) (z : BitVec 3) (p : Place) (u : State),
    let n := 2 ^ z.toNat
    let c := (s.me.arch.reg a.toNat).cap
    let tag := (s.me.arch.reg a.toNat).tag
    let at_ := fun (size : Nat) => (c.addr.toNat + immNat s.me.arch.pfx 6 o.toNat * size) % 2 ^ 64
    let l := (List.range 32).filter (enabled (s.mask g) 32)
    let free := fun (i : Instr) => (s.issuing i).ldcFree
    (Ready (.ldx g d a o z) s → free (.ldx g d a o z) →
      let r : Req := { x := at_ n, n := n, align := n, counter := z == 3 }
      (s.issuing (.ldx g d a o z)).checkOne s.myAccess tag c r = .ok (p, u) →
      Sends (.ldx g d a o z) { s.opOf (.ldx g d a o z) true false with
        elems := [p.elem r 0 .read (z == 4 && c.has .cld)], ret := if z = 4 then .cap d.toNat else .scalar d.toNat } [.reg d.toNat] s) ∧
    (Ready (.stx g d a o z) s → s.stcFree →
      let keep := z == 4 && (s.me.arch.reg d.toNat).tag && c.has .cst
      let r : Req := { x := at_ n, n := n, align := n, perms := [.st], rd := false, wr := true, keepTag := keep, counter := z == 3 }
      let els := [p.elem r 0 (.write (2 ^ n - 1) ((s.vec d).toNat % 2 ^ (8 * n)) keep) false]
      (s.issuing (.stx g d a o z)).checkOne s.myAccess tag c r = .ok (p, u) →
      (s.bankFull s.myRef els = false → Sends (.stx g d a o z) { s.opOf (.stx g d a o z) false true with elems := els } [] s) ∧
      (s.bankFull s.myRef els = true → StallsFor (.stx g d a o z) .full s)) ∧
    (Ready (.ldv g d a o) s → free (.ldv g d a o) →
      (s.issuing (.ldv g d a o)).checkLanes s.myAccess tag c { x := at_ 128, n := 128, align := 128 } l = .ok (p, u) →
      Sends (.ldv g d a o) { s.opOf (.ldv g d a o) true false with
        elems := (granulesOf l).map (fun q => ({ p with key := p.key + 16 * q } : Place).elem
          { x := at_ 128 + 16 * q, n := 16, align := 16 } q .read (q == 0 && c.has .cld)),
        ret := .vec d.toNat (packList 1 ((List.range 32).map (fun j => b2n (enabled (s.mask g) 32 j)))) } [.reg d.toNat] s) ∧
    (Ready (.stv g d a o) s → s.stcFree →
      (s.issuing (.stv g d a o)).checkLanes s.myAccess tag c
        { x := at_ 128, n := 128, align := 128, perms := [.st], rd := false, wr := true } l = .ok (p, u) →
      let keep := (s.me.arch.reg d.toNat).tag && laneMask l 0 == 0xFFFF && c.has .cst && p.tags
      let els := (granulesOf l).map (fun q => ({ p with key := p.key + 16 * q } : Place).elem
        { x := at_ 128 + 16 * q, n := 16, align := 16, perms := [.st], rd := false, wr := true } q
        (.write (laneMask l q) (elem (s.vec d) 128 q) (q == 0 && keep)) false)
      (s.bankFull s.myRef els = false → Sends (.stv g d a o) { s.opOf (.stv g d a o) false true with elems := els } [] s) ∧
      (s.bankFull s.myRef els = true → StallsFor (.stv g d a o) .full s))

/-- R217 to R221: GATH, SCAT and SCATADD make one element for each enabled lane, at the base plus its index times its size, in
ascending order; GATHP issues the lanes whose translation is at hand, clears or sets their guard spans to the value of N, and
starts or joins a walk for each of the others, and with no lane issued no register is pending. -/
def Obligations.GathersAndScatters : Prop :=
  (∀ (s : State) (g : BitVec 4) (d a b : BitVec 6) (t : BitVec 3) (els : List Elem) (u : State),
    let c := (s.me.arch.reg a.toNat).cap
    let tag := (s.me.arch.reg a.toNat).tag
    let lanes := fun (w : Nat) (signed : Bool) => ((List.range (1024 / w)).filter (enabled (s.mask g) w)).map (fun j =>
      (j, (((c.addr.toNat : Int) + readInt signed w (elem (s.vec b) w j) * ((w / 8 : Nat) : Int)) % 2 ^ 64).toNat))
    let w := if t.toNat % 4 = 2 then 32 else 64
    let v := if t = 2 then 64 else if 4 ≤ t.toNat then 16 else 32
    let add := fun (x : Nat) => match t.toNat with
      | 0 => Rmw.addInt 32 x
      | 1 => .addInt 32 x
      | 2 => .addInt 64 x
      | 3 => .addFloat 2 x
      | 4 => .addFloat 0 x
      | _ => .addFloat 1 x
    (Ready (.gath g d a b t) s → (s.issuing (.gath g d a b t)).ldcFree →
      (s.issuing (.gath g d a b t)).checkAll s.myAccess tag c ((lanes w (t.toNat < 4)).map (fun j =>
        let r : Req := { x := j.2, n := w / 8, align := w / 8 }
        (r, fun p => p.elem r j.1 .read false))) = .ok (els, u) →
      Sends (.gath g d a b t) { s.opOf (.gath g d a b t) true false with elems := els, ret := .lanes d.toNat w } [.reg d.toNat] s) ∧
    (Ready (.scat g d a b t) s → s.stcFree →
      (s.issuing (.scat g d a b t)).checkAll s.myAccess tag c ((lanes w (t.toNat < 4)).map (fun j =>
        let r : Req := { x := j.2, n := w / 8, align := w / 8, perms := [.st], rd := false, wr := true }
        (r, fun p => p.elem r j.1 (.write (2 ^ (w / 8) - 1) (elem (s.vec d) w j.1) false) false))) = .ok (els, u) →
      s.bankFull s.myRef els = false →
      Sends (.scat g d a b t) { s.opOf (.scat g d a b t) false true with elems := els } [] s) ∧
    (Ready (.scatadd g d a b t) s → s.stcFree →
      (s.issuing (.scatadd g d a b t)).checkAll s.myAccess tag c ((lanes v (t != 1)).map (fun j =>
        let r : Req := { x := j.2, n := v / 8, align := v / 8, perms := [.ld, .st], rd := true, wr := true }
        (r, fun p => p.elem r j.1 (.rmw (add (elem (s.vec d) v j.1))) false))) = .ok (els, u) →
      s.bankFull s.myRef els = false →
      Sends (.scatadd g d a b t) { s.opOf (.scatadd g d a b t) false true with elems := els } [] s)) ∧
  (∀ (s : State) (g : BitVec 4) (d a b : BitVec 6) (t : BitVec 3) (here : List (Nat × Req × Place)) (there : List (Nat × Req)) (u : State),
    let i := Instr.gathp g d a b t
    let c := (s.me.arch.reg a.toNat).cap
    let w := if t.toNat % 4 = 2 then 32 else 64
    let l : List (Nat × Req) := ((List.range (1024 / w)).filter (enabled (s.mask g) w)).map (fun j =>
      (j, { x := (((c.addr.toNat : Int) + readInt (t.toNat < 4) w (elem (s.vec b) w j) * ((w / 8 : Nat) : Int)) % 2 ^ 64).toNat,
            n := w / 8, align := w / 8 }))
    let p := g.toNat % 8
    let x := onArch (fun r => r.setPred p (writeSpans (r.pred p) w (here.map (fun j => (j.1, decide (8 ≤ g.toNat)))))) (s.slotIssuing i)
    let o := { s.opOf i true false with elems := here.map (fun j => j.2.2.elem j.2.1 j.1 .read false), ret := .lanes d.toNat w }
    Ready i s → (s.issuing i).ldcFree →
    (∀ j ∈ l, (s.issuing i).gathpCheck s.myAccess (s.me.arch.reg a.toNat).tag c j.2 = none) →
    (∀ j ∈ l, bits j.2.x 63 60 ≠ 0xE → s.me.noteFor s.me.ctxid.toNat j.2.x = none) →
    (s.issuing i).gathpSplit s.myAccess c l = .ok (here, there, u) →
    ∃ t, exec i s = .next t ∧
      (here = [] → t.me = x ∧ CoresKept s t ∧ BytesKept (fun _ => False) s t) ∧
      (here ≠ [] → ∃ id, SentAs id x o [.reg d.toNat] s t) ∧
      (s.walks = [] → ∀ j ∈ there, ∃ k w, t.walks.look k = some w ∧ (s.myRef, s.me.arch.sup) ∈ w.joined ∧ w.asid = s.me.ctxid.toNat ∧
        w.part = s.me.part ∧ w.root = bits j.2.x 62 60 ∧ w.va / 65536 = bits j.2.x 56 0 / 65536))

/-- R210, R222 to R224: the full/empty instructions: one element over the words that the size and the guard name. LDFE is an
acquire and STFE a release. -/
def Obligations.FullEmpty : Prop :=
  ∀ (s : State) (g : BitVec 4) (d a o : BitVec 6) (z : BitVec 3) (p : Place) (u : State),
    let c := (s.me.arch.reg a.toNat).cap
    let tag := (s.me.arch.reg a.toNat).tag
    let l := (List.range 32).filter (enabled (s.mask g) 32)
    let lanes := packList 1 ((List.range 32).map (fun j => b2n (enabled (s.mask g) 32 j)))
    let words := if z = 5 then lanes else 2 ^ (2 ^ (z.toNat - 2)) - 1
    let n := if z = 5 then 128 else 2 ^ z.toNat
    let v := (s.vec d).toNat
    let x := c.addr.toNat
    let xo := (x + immNat s.me.arch.pfx 6 o.toNat * n) % 2 ^ 64
    let ret := if z = 5 then Ret.vec d.toNat words else .scalar d.toNat
    let load := fun (x : Nat) (q : Bool) => ({ x := x, n := n, align := n, fe := true, queue := q && z == 3 } : Req)
    let store := fun (x : Nat) (q : Bool) => ({ x := x, n := n, align := n, perms := [.st], rd := false, wr := true, fe := true, queue := q && z == 3 } : Req)
    let ok := fun (i : Instr) (r : Req) => Ready i s ∧ (if z = 5 then (s.issuing i).checkLanes s.myAccess tag c r l
      else (s.issuing i).checkOne s.myAccess tag c r) = .ok (p, u)
    let free := fun (i : Instr) => (s.issuing i).ldcFree
    let buf := fun (r : Req) (act : Act) => s.stcFree ∧ s.bankFull s.myRef [p.elem r 0 act false] = false
    let op := s.opOf
    (ok (.ldfe g d a o z) (load xo true) → free (.ldfe g d a o z) →
      Sends (.ldfe g d a o z) { op (.ldfe g d a o z) true false with
        acquire := true, acqScope := 4, elems := [p.elem (load xo true) 0 (.feLoad words) false], ret := ret } [.reg d.toNat] s) ∧
    (ok (.stfe g d a o z) (store xo true) → buf (store xo true) (.feStore words v) →
      Sends (.stfe g d a o z) { op (.stfe g d a o z) false true with
        release := true, relScope := 4, elems := [p.elem (store xo true) 0 (.feStore words v) false] } [] s) ∧
    (ok (.feopLdf g d a z) (load x false) → free (.feopLdf g d a z) →
      Sends (.feopLdf g d a z) { op (.feopLdf g d a z) true false with
        elems := [p.elem (load x false) 0 (.ldf words) false], ret := ret } [.reg d.toNat] s) ∧
    (ok (.feopStf g d a z) (store x false) → buf (store x false) (.stf words v) →
      Sends (.feopStf g d a z) { op (.feopStf g d a z) false true with
        elems := [p.elem (store x false) 0 (.stf words v) false] } [] s) ∧
    (ok (.feopSete g a z) (store x false) → buf (store x false) (.setE words) →
      Sends (.feopSete g a z) { op (.feopSete g a z) false true with
        elems := [p.elem (store x false) 0 (.setE words) false] } [] s) ∧
    (ok (.feopSetf g a z) (store x false) → buf (store x false) (.setF words) →
      Sends (.feopSetf g a z) { op (.feopSetf g a z) false true with
        elems := [p.elem (store x false) 0 (.setF words) false] } [] s) ∧
    (Ready (.feopQtag g d a) s → free (.feopQtag g d a) →
      let r : Req := { x := x, n := 128, align := 128, fe := true }
      (s.issuing (.feopQtag g d a)).checkLanes s.myAccess tag c r l = .ok (p, u) →
      Sends (.feopQtag g d a) { op (.feopQtag g d a) true false with
        elems := [p.elem r 0 (.qtag lanes) false], ret := .scalar d.toNat } [.reg d.toNat] s)

/-- R225, R226, R228, R230: LDT asks its slice for an entry; RDM redeems a ticket and opens the carry-ahead window, RDM.S
redeems one with a status register, and TKREL releases one. -/
def Obligations.Tickets : Prop :=
  ∀ (s : State) (g : BitVec 4) (d a b o : BitVec 6) (z : BitVec 3) (p : Place) (u : State),
    let r := s.me.arch.reg a.toNat
    let c := r.cap
    let n := 16 * 2 ^ z.toNat
    let x := (c.addr.toNat + immNat s.me.arch.pfx 6 o.toNat * n) % 2 ^ 64
    let q : Req := { x := x, n := n, align := n, perms := [.ld, .tkt] }
    let ticket := r.tag = true ∧ c.otype = 1 ∧ c.has .tkt = true ∧ bits c.addr.toNat 59 50 = s.table.devnum
    let free := fun (i : Instr) => (s.issuing i).ldcFree
    (Ready (.ldt g d a o z) s → free (.ldt g d a o z) → bits x 63 60 < 8 →
      (s.issuing (.ldt g d a o z)).checkOne s.myAccess r.tag c q = .ok (p, u) →
      let op := { s.opOf (.ldt g d a o z) true false with kind := .ticketAlloc z.toNat, elems := [p.elem q 0 .read false], ret := .ticket d.toNat }
      ∃ t, exec (.ldt g d a o z) s = .next t ∧
        Entered ((s.slotIssuing (.ldt g d a o z)).charged op [.reg d.toNat] s.serial) op [.ticketAllocation s.serial] s t) ∧
    (Ready (.rdm g d a) s → free (.rdm g d a) → ticket →
      let op := { s.opOf (.rdm g d a) true false with kind := .ticketRedeem c.toBits, ret := .redeem d.toNat none }
      ∃ t, exec (.rdm g d a) s = .next t ∧
        Entered { (s.slotIssuing (.rdm g d a)).charged op [.reg d.toNat] s.serial with
          ship := some { id := s.serial, redeem := true, saved := s.me.arch, tpc := (s.envOf (.rdm g d a)).first } }
          op [.ticketRedeem s.serial] s t) ∧
    (Ready (.rdmS g d a b) s → free (.rdmS g d a b) → ticket →
      let op := { s.opOf (.rdmS g d a b) true false with kind := .ticketRedeem c.toBits, ret := .redeem d.toNat (some b.toNat) }
      ∃ t, exec (.rdmS g d a b) s = .next t ∧
        Entered ((s.slotIssuing (.rdmS g d a b)).charged op [.reg d.toNat, .reg b.toNat] s.serial) op [.ticketRedeem s.serial] s t) ∧
    (Ready (.tkrel g a) s → s.stcFree → ticket →
      let op := { s.opOf (.tkrel g a) false false with kind := .ticketRelease c.toBits }
      ∃ t, exec (.tkrel g a) s = .next t ∧
        Entered ((s.slotIssuing (.tkrel g a)).charged op [] s.serial) op [.ticketRelease s.serial] s t) ∧
    (Ready (.rdm g d a) s → r.tag = false → TrapsWith (.rdm g d a) 3 c.addr.toNat s) ∧
    (Ready (.rdm g d a) s → r.tag = true → c.otype ≠ 1 → TrapsWith (.rdm g d a) 4 c.addr.toNat s) ∧
    (Ready (.rdm g d a) s → r.tag = true → c.otype = 1 → c.has .tkt = false → TrapsWith (.rdm g d a) 5 c.addr.toNat s)

/-- R221, R235 to R237: the atomics: one read-modify-write, whose old value goes to vD; on a little core CAS128 leaves as a
guest once the task's loads and stores are done and the orders of its messages, copies and fences let it (R170, R248). -/
def Obligations.Atomics : Prop :=
  ∀ (s : State) (g : BitVec 4) (d a b : BitVec 6) (t : BitVec 3) (p : Place) (u : State),
    let c := (s.me.arch.reg a.toNat).cap
    let tag := (s.me.arch.reg a.toNat).tag
    let x := c.addr.toNat
    let req := fun (n : Nat) (keep ctr : Bool) => ({ x := x, n := n, align := n, perms := [.ld, .st], rd := true, wr := true, keepTag := keep, counter := ctr } : Req)
    let ok := fun (i : Instr) (r : Req) => Ready i s ∧ (s.issuing i).ldcFree ∧ (s.issuing i).checkOne s.myAccess tag c r = .ok (p, u)
    let lane := fun (n : BitVec 6) (w j : Nat) => elem (s.vec n) w j
    let tb := (s.me.arch.reg b.toNat).tag
    let td := (s.me.arch.reg d.toNat).tag
    let i := Instr.xatom g d a b t
    let room := fun (r : Req) (m : Rmw) (cld : Bool) => s.bankFull s.myRef [p.elem r 0 (.rmw m) cld] = false
    let sends := fun (r : Req) (m : Rmw) (cld : Bool) (ret : Ret) (l : List Dest) => room r m cld →
      Sends i { s.opOf i true true with elems := [p.elem r 0 (.rmw m) cld], ret := ret } l s
    (ok (.atom32 g d a b t) (req 4 false false) → room (req 4 false false) (.atom 32 t.toNat (lane b 32 0)) false → Sends (.atom32 g d a b t) { s.opOf (.atom32 g d a b t) true true with
      elems := [p.elem (req 4 false false) 0 (.rmw (.atom 32 t.toNat (lane b 32 0))) false], ret := .scalar d.toNat } [.reg d.toNat] s) ∧
    (ok (.atom64 g d a b t) (req 8 false true) → room (req 8 false true) (.atom 64 t.toNat (s.sca b)) false → Sends (.atom64 g d a b t) { s.opOf (.atom64 g d a b t) true true with
      elems := [p.elem (req 8 false true) 0 (.rmw (.atom 64 t.toNat (s.sca b))) false], ret := .scalar d.toNat } [.reg d.toNat] s) ∧
    (t = 0 → ok i (req 4 false false) → sends (req 4 false false) (.xchg 32 (lane b 32 0)) false (.scalar d.toNat) [.reg d.toNat]) ∧
    (t = 1 → ok i (req 8 false true) → sends (req 8 false true) (.xchg 64 (lane b 64 0)) false (.scalar d.toNat) [.reg d.toNat]) ∧
    (t = 2 → ok i (req 4 false false) → sends (req 4 false false) (.cas 32 (lane b 32 0) (lane d 32 0)) false (.scalar d.toNat) [.reg d.toNat]) ∧
    (t = 3 → ok i (req 8 false true) → sends (req 8 false true) (.cas 64 (lane b 64 0) (lane d 64 0)) false (.scalar d.toNat) [.reg d.toNat]) ∧
    (t = 5 → ok i (req 4 false false) → sends (req 4 false false) (.incw (lane b 32 0)) false (.scalar d.toNat) [.reg d.toNat]) ∧
    (t = 6 → ok i (req 4 false false) → sends (req 4 false false) (.faddb 32 (lane b 32 0) (lane b 32 1)) false
      (.oldPred d.toNat (g.toNat % 8) (lane b 32 0) (lane b 32 1)) [.reg d.toNat, .pred (g.toNat % 8)]) ∧
    (t = 7 → ok i (req 8 false true) → sends (req 8 false true) (.faddb 64 (lane b 64 0) (lane b 64 1)) false
      (.oldPred d.toNat (g.toNat % 8) (lane b 64 0) (lane b 64 1)) [.reg d.toNat, .pred (g.toNat % 8)]) ∧
    (t = 4 → isBig s.cur.core = true → ok i (req 16 (td && c.has .cst) false) →
      sends (req 16 (td && c.has .cst) false) (.cas128 (lane b 128 0) (lane d 128 0) tb td (c.has .cst)) (c.has .cld) (.cap d.toNat) [.reg d.toNat]) ∧
    (t = 4 → isBig s.cur.core = false → Ready i s → s.me.ldc = 0 → s.me.stc = 0 → s.shipsNow (s.envOf i) = true →
      LeavesAsGuest i (s.me.arch.reg d.toNat) (s.me.arch.reg a.toNat) (s.me.arch.reg b.toNat) 0 [.reg d.toNat] s) ∧
    (t = 4 → isBig s.cur.core = false → Ready i s → (s.me.ldc ≠ 0 ∨ s.me.stc ≠ 0) → StallsFor i .counter s) ∧
    (t = 4 → isBig s.cur.core = false → Ready i s → s.me.ldc = 0 → s.me.stc = 0 → s.shipsNow (s.envOf i) = false →
      StallsFor i .order s)

/-- R232, R233, R248, R249: a prefetch never faults, and changes nothing where its checks fail. Where they pass (those of R190 on a
load of one byte, the model's choice, assumption 115) it fills the core's TLB, whichever TLB has held the translation, and SZ 0 and 1
bring its line to the home slice, which may displace others; where a walk is needed it waits with a request for it, or does
nothing where the queue is full. A fence goes on, its mark kept as long as something of its
task from before it is under way; with drain it waits until STC is 0, and until what it releases has been performed. -/
def Obligations.PrefetchAndFences : Prop :=
  ∀ (s : State) (g k : BitVec 4) (a o : BitVec 6) (z c : BitVec 3),
    let i := Instr.fence g k c
    let f : FenceMark := { id := s.serial, acquire := k.getLsbD 0, release := k.getLsbD 1, full := k.getLsbD 2, scope := c.toNat }
    let live := fun (m : FenceMark) => (∃ o ∈ s.ops, o.1 < m.id ∧ o.2.task = s.myRef ∧ o.2.performed = false) ∨
      s.sentBefore m.id s.myRef = true
    let done := s.releaseReady (k.getLsbD 1 || k.getLsbD 2)
    let ready := Ready i s ∧ (k.getLsbD 3 = true → s.me.stc = 0 ∧ done = true)
    let r := s.me.arch.reg a.toNat
    let x := (r.cap.addr.toNat + immNat s.me.arch.pfx 6 o.toNat * 128) % 2 ^ 64
    let m := s.myAccess
    let pref := Instr.pref g a o z
    let checked := (s.issuing pref).checkOne m r.tag r.cap { x := x, n := 1, align := 1 }
    (Ready pref s →
      (8 ≤ bits x 63 60 → exec pref s = .next (s.issuing pref)) ∧
      (bits x 63 60 < 8 →
        (∀ code y, checked = .error (.trap code y 0) → exec pref s = .next (s.issuing pref)) ∧
        (∀ y, checked = .error (.walk m y) → 512 ≤ ((s.issuing pref).walkQueue (corePlate (s.phys s.cur.core))).length →
          exec pref s = .next (s.issuing pref)) ∧
        (∀ y, checked = .error (.walk m y) → ((s.issuing pref).walkQueue (corePlate (s.phys s.cur.core))).length < 512 →
          exec pref s = .next ((s.wantWalk m x).updMe (fun y => y.stalls .walk s.now))) ∧
        (∀ p u, checked = .ok (p, u) → ∃ t, exec pref s = .next t ∧ Prefetched (s.issuing pref) t ∧
          (∃ e ∈ t.tlb1 s.cur.core, e.covers m.part m.ctx x = true) ∧
          (z = 2 → Translated (s.issuing pref) t) ∧
          (z ≠ 2 → (s.slice (sliceId p.key)).misses.length < 64 →
            let after := t.slice (sliceId p.key)
            lineOf p.key ∈ after.lines.map (·.line) ∨ lineOf p.key ∈ after.misses.map (·.row.line))))) ∧
    (ready → k.toNat % 8 = 0 → ActsOn i id s) ∧
    (ready → k.toNat % 8 ≠ 0 → ∃ t, exec i s = .next t ∧ t.me = { s.slotIssuing i with fences := t.me.fences } ∧
      CoresKept s t ∧ BytesKept (fun _ => False) s t ∧ ∀ m, m ∈ t.me.fences ↔ (m ∈ s.me.fences ∨ m = f) ∧ live m) ∧
    (Ready i s → k.getLsbD 3 = true → s.me.stc ≠ 0 → StallsFor i .counter s) ∧
    (Ready i s → k.getLsbD 3 = true → s.me.stc = 0 → done = false → StallsFor i .order s)

/-- R14, R182, R190, R202, R204, R211, R219, R222, R225, R228: where the memory instructions fault on their operands, in the order of
their checks, with the address in TVAL, and nothing done: an access of one place, one of the enabled lanes of a line, which are
checked in ascending order, one of the elements of a gather or scatter in ascending order, and a ticket. Where the checks need a page
walk the instruction waits with a request for it. A GATHP lane whose address has a fault note takes the noted fault. -/
def Obligations.AccessFaults : Prop :=
  ∀ (s : State) (g : BitVec 4) (d a b o : BitVec 6) (z t : BitVec 3),
    let v := s.me.arch.reg a.toNat
    let c := v.cap
    let tag := v.tag
    let m := s.myAccess
    let sound := fun (r : Req) => tag = true ∧ c.otype = 0 ∧ r.perms.all c.has = true ∧ c.covers r.x r.n = true
    let aligned := fun (r : Req) => (r.x + 2 ^ 64 - r.lead) % r.align = 0
    let bad := fun (r : Req) (code : Nat) =>
      code = 3 ∧ tag = false ∨
      code = 4 ∧ tag = true ∧ c.otype ≠ 0 ∨
      code = 5 ∧ tag = true ∧ c.otype = 0 ∧ r.perms.all c.has = false ∨
      code = 6 ∧ tag = true ∧ c.otype = 0 ∧ r.perms.all c.has = true ∧ c.covers r.x r.n = false ∨
      code = 7 ∧ sound r ∧ ¬ aligned r ∨
      code = 8 ∧ sound r ∧ aligned r ∧ (8 ≤ bits r.x 63 60 ∧ bits r.x 63 60 ≠ 0xE ∨ bits r.x 63 60 < 8 ∧ bits r.x 59 57 ≠ 0)
    let ends := fun (i : Instr) (e : Exit) =>
      (∀ code x, e = .trap code x 0 → TrapsWith i code x s) ∧
      (∀ x, e = .walk m x → exec i s = .next ((s.wantWalk m x).updMe (fun y => y.stalls .walk s.now)))
    let one := fun (i : Instr) (r : Req) => Ready i s →
      (∀ code, bad r code → TrapsWith i code r.x s) ∧ (∀ e, (s.issuing i).checkOne m tag c r = .error e → ends i e)
    let line := (List.range 32).filter (enabled (s.mask g) 32)
    let lanes := fun (i : Instr) (r : Req) => Ready i s → ∀ j rest, line = j :: rest →
      let first := { r with x := (r.x + 4 * j) % 2 ^ 64, n := 4, lead := 4 * j, align := 128 }
      (∀ code, bad first code → TrapsWith i code first.x s) ∧
      (∀ k before after p u, rest = before ++ k :: after → (s.issuing i).checkAccess m tag c first = (.ok p, u) →
        (∀ q ∈ before, c.covers ((r.x + 4 * q) % 2 ^ 64) 4 = true) → c.covers ((r.x + 4 * k) % 2 ^ 64) 4 = false →
        TrapsWith i 6 ((r.x + 4 * k) % 2 ^ 64) s) ∧
      (∀ e, (s.issuing i).checkLanes m tag c r line = .error e → ends i e)
    let either := fun (i : Instr) (r : Req) => if z = 5 then lanes i r else one i r
    let at_ := fun (w : Nat) (signed : Bool) => ((List.range (1024 / w)).filter (enabled (s.mask g) w)).map (fun j =>
      (j, (((c.addr.toNat : Int) + readInt signed w (elem (s.vec b) w j) * ((w / 8 : Nat) : Int)) % 2 ^ 64).toNat))
    let each := fun (i : Instr) (l : List (Req × (Place → Elem))) => Ready i s →
      (∀ code before r f after els u, l = before ++ (r, f) :: after → (s.issuing i).checkAll m tag c before = .ok (els, u) → bad r code →
        TrapsWith i code r.x s) ∧
      (∀ e, (s.issuing i).checkAll m tag c l = .error e → ends i e)
    let load := fun (x n : Nat) => ({ x := x, n := n, align := n } : Req)
    let store := fun (x n : Nat) => ({ x := x, n := n, align := n, perms := [.st], rd := false, wr := true } : Req)
    let rmw := fun (x n : Nat) => ({ x := x, n := n, align := n, perms := [.ld, .st], rd := true, wr := true } : Req)
    let x := c.addr.toNat
    let xo := fun (n : Nat) => (x + immNat s.me.arch.pfx 6 o.toNat * n) % 2 ^ 64
    let n := 2 ^ z.toNat
    let fn := if z = 5 then 128 else n
    let keep := (s.me.arch.reg d.toNat).tag && c.has .cst
    let w := if t.toNat % 4 = 2 then 32 else 64
    let sw := if t = 2 then 64 else if 4 ≤ t.toNat then 16 else 32
    let an := if t = 4 then 16 else if t = 1 ∨ t = 3 ∨ t = 7 then 8 else 4
    one (.ldx g d a o z) { load (xo n) n with counter := z == 3 } ∧
    one (.stx g d a o z) { store (xo n) n with keepTag := z == 4 && keep, counter := z == 3 } ∧
    lanes (.ldv g d a o) (load (xo 128) 128) ∧ lanes (.stv g d a o) (store (xo 128) 128) ∧
    each (.gath g d a b t) ((at_ w (t.toNat < 4)).map (fun j => (load j.2 (w / 8), fun p => p.elem (load j.2 (w / 8)) j.1 .read false))) ∧
    each (.scat g d a b t) ((at_ w (t.toNat < 4)).map (fun j => (store j.2 (w / 8), fun p =>
      p.elem (store j.2 (w / 8)) j.1 (.write (2 ^ (w / 8) - 1) (elem (s.vec d) w j.1) false) false))) ∧
    (∀ f : Nat × Nat → Rmw, each (.scatadd g d a b t) ((at_ sw (t != 1)).map (fun j => (rmw j.2 (sw / 8), fun p =>
      p.elem (rmw j.2 (sw / 8)) j.1 (.rmw (f j)) false)))) ∧
    (let i := Instr.gathp g d a b t
      let l := (at_ w (t.toNat < 4)).map (fun j => (j.1, load j.2 (w / 8)))
      Ready i s →
      (∀ code before r j after, l = before ++ (j, r) :: after → (∀ q ∈ before, (s.issuing i).gathpCheck m tag c q.2 = none) →
        (bad r code ∨ (s.issuing i).gathpCheck m tag c r = some code) → TrapsWith i code r.x s) ∧
      ((∀ q ∈ l, (s.issuing i).gathpCheck m tag c q.2 = none) →
        (∀ before r j after note, l = before ++ (j, r) :: after →
          (∀ q ∈ before, bits q.2.x 63 60 ≠ 0xE → s.me.noteFor s.me.ctxid.toNat q.2.x = none) →
          bits r.x 63 60 ≠ 0xE → s.me.noteFor s.me.ctxid.toNat r.x = some note →
          exec i s = .next (((s.issuing i).updMe (fun _ => { s.me with notes := s.me.notes.erase note })).enterTrap
            s.cur.core s.cur.slot note.cause r.x 0 false 0 (s.envOf i).first)) ∧
        ((∀ q ∈ l, bits q.2.x 63 60 ≠ 0xE → s.me.noteFor s.me.ctxid.toNat q.2.x = none) →
          ∀ e, (s.issuing i).gathpSplit m c l = .error e → ends i e))) ∧
    either (.ldfe g d a o z) { load (xo fn) fn with fe := true, queue := z == 3 } ∧
    either (.stfe g d a o z) { store (xo fn) fn with fe := true, queue := z == 3 } ∧
    either (.feopLdf g d a z) { load x fn with fe := true } ∧ either (.feopStf g d a z) { store x fn with fe := true } ∧
    either (.feopSete g a z) { store x fn with fe := true } ∧ either (.feopSetf g a z) { store x fn with fe := true } ∧
    lanes (.feopQtag g d a) { load x 128 with fe := true } ∧
    (let i := Instr.ldt g d a o z
      let r := { load (xo (16 * n)) (16 * n) with perms := [.ld, .tkt] }
      Ready i s → (∀ code, bad r code → TrapsWith i code r.x s) ∧ (sound r → aligned r → 8 ≤ bits r.x 63 60 → TrapsWith i 8 r.x s) ∧
        (bits r.x 63 60 < 8 → ∀ e, (s.issuing i).checkOne m tag c r = .error e → ends i e)) ∧
    (∀ i ∈ [Instr.rdm g d a, .rdmS g d a b, .tkrel g a], Ready i s →
      (tag = false → TrapsWith i 3 x s) ∧
      (tag = true → c.otype ≠ 1 → TrapsWith i 4 x s) ∧
      (tag = true → c.otype = 1 → c.has .tkt = false → TrapsWith i 5 x s) ∧
      (tag = true → c.otype = 1 → c.has .tkt = true → bits x 59 50 ≠ s.table.devnum → TrapsWith i 8 x s)) ∧
    one (.atom32 g d a b t) (rmw x 4) ∧ one (.atom64 g d a b t) { rmw x 8 with counter := true } ∧
    (¬ (t = 4 ∧ isBig s.cur.core = false) → one (.xatom g d a b t)
      { rmw x an with keepTag := t == 4 && keep, counter := t == 1 || t == 3 || t == 7 })

/-- R4, R185, R192, R209, R215, R243: in the core's own scratchpad, with nothing of the task under way, an access is performed in the
step that issues it (the model's choice, assumption 15): a store writes its bytes, least significant first, and its tag, and no other byte; and a load's operation holds the bytes and the tag, and its
completion is under way. -/
def Obligations.OwnScratchpad : Prop :=
  ∀ (s : State) (g : BitVec 4) (d a o : BitVec 6) (z : BitVec 3) (p : Place) (u : State),
    let n := 2 ^ z.toNat
    let c := (s.me.arch.reg a.toNat).cap
    let r := s.me.arch.reg d.toNat
    let x := (c.addr.toNat + immNat s.me.arch.pfx 6 o.toNat * n) % 2 ^ 64
    let own := bits x 63 60 = 0xE ∧ bits x 49 36 = s.cur.core ∧ bits x 35 32 = 0
    let quiet := s.ops = [] ∧ s.packets = [] ∧ s.jobs = [] ∧ s.me.fences = [] ∧ s.guards = []
    let keep := z == 4 && r.tag && c.has .cst
    (Ready (.stx g d a o z) s → s.stcFree → own → quiet →
      (s.issuing (.stx g d a o z)).checkOne s.myAccess (s.me.arch.reg a.toNat).tag c
        { x := x, n := n, align := n, perms := [.st], rd := false, wr := true, keepTag := keep, counter := z == 3 } = .ok (p, u) →
      ∃ t, exec (.stx g d a o z) s = .next t ∧ (∀ k, k < n → t.byte (p.key + k) = (r.v.extractLsb' (8 * k) 8)) ∧
        t.tagAt p.key = keep ∧ (∀ k, keyIsView k = false → (k < p.key ∨ p.key + n ≤ k) → t.byte k = s.byte k) ∧
        t.due = s.due ++ [.storeAcknowledgement s.serial]) ∧
    (Ready (.ldx g d a o z) s → (s.issuing (.ldx g d a o z)).ldcFree → own → quiet →
      (s.issuing (.ldx g d a o z)).checkOne s.myAccess (s.me.arch.reg a.toNat).tag c
        { x := x, n := n, align := n, counter := z == 3 } = .ok (p, u) →
      ∃ t q e, exec (.ldx g d a o z) s = .next t ∧ t.ops.look s.serial = some q ∧ q.elems = [e] ∧ e.stage = .done ∧
        e.val = s.readMem p.key n ∧ e.valTag = (z == 4 && s.tagAt p.key && c.has .cld) ∧
        t.due = s.due ++ [.loadCompletion s.serial] ∧ BytesKept (fun _ => False) s t)

/-! ## Handlers, messages and ports -/

/-- R127, R129, R131: HTAB reads and writes the three parts of a handler entry that its context owns, or any with SR.SUP. A
write of code or argument, and of part 0 with another mode, advances GEN and discards the waiting messages. Its faults in their order:
an index of 96 or more (TVAL is the selector, the model's choice, assumption 61), another context's entry, a mode that the write may
not set, a code or argument that is no capability that may stand there, and a claimed entry written without SR.SUP. -/
def Obligations.HandlerTable : Prop :=
  ∀ (s : State) (g : BitVec 4) (d a b : BitVec 6),
    let c := s.cur.core
    let x := s.sca b
    let h := s.handler c (x % 32)
    let sup := s.me.arch.sup
    let mine := h.ctx = s.me.ctxid.toNat ∨ sup = true
    let v := s.sca a
    let r := s.me.arch.reg a.toNat
    let m := v / 16 % 4
    let put := fun (h' : Handler) => exec (.htabWr g a b) s =
      .next (((s.issuing (.htabWr g a b)).updHandler c (x % 32) (fun _ => h')).pushOnce (.taskSelection c))
    let advanced : Handler := { h with gen := (h.gen + 1) % 2 ^ 16, mail := [], aged := 0 }
    let h0 := fun (h : Handler) => { h with mode := m, mask := v.testBit 3, prio := v % 4, ctx := if sup then v / 2 ^ 16 % 2 ^ 16 else h.ctx }
    let word := fun (i : Instr) => ((encode i).getD 0).toNat
    (Ready (.htabRd g d b) s → x < 32 → mine → WritesScalar (.htabRd g d b) d h.control s) ∧
    (Ready (.htabRd g d b) s → 32 ≤ x → x < 96 → mine →
      WritesReg (.htabRd g d b) d (match (if x < 64 then h.code else h.arg) with
        | some k => { v := k.setWidth 1024, tag := true }
        | none => {}) s) ∧
    (Ready (.htabWr g a b) s → x < 32 → mine → m ≠ 3 → (m = 2 ↔ h.mode = 2) → (h.held = true → m = h.mode ∨ sup = true) →
      put (if m = h.mode then h0 h else h0 advanced)) ∧
    (Ready (.htabWr g a b) s → 32 ≤ x → x < 64 → mine → r.tag = true → r.cap.otype = 0 → r.cap.has .ex = true →
      (h.held = true → sup = true) →
      put { advanced with code := some r.cap.toBits, esup := sup, esec := s.me.arch.world, eheat := 0 }) ∧
    (Ready (.htabWr g a b) s → 64 ≤ x → x < 96 → mine → r.tag = true → (h.held = true → sup = true) →
      put { advanced with arg := some r.cap.toBits }) ∧
    (Ready (.htabRd g d b) s → 96 ≤ x → TrapsWith (.htabRd g d b) 9 x s) ∧
    (Ready (.htabWr g a b) s → 96 ≤ x → TrapsWith (.htabWr g a b) 9 x s) ∧
    (Ready (.htabRd g d b) s → x < 96 → ¬ mine → TrapsWith (.htabRd g d b) 2 (word (.htabRd g d b)) s) ∧
    (Ready (.htabWr g a b) s → x < 96 → ¬ mine → TrapsWith (.htabWr g a b) 2 (word (.htabWr g a b)) s) ∧
    (Ready (.htabWr g a b) s → x < 32 → mine → (m = 3 ∨ ¬ (m = 2 ↔ h.mode = 2)) → TrapsWith (.htabWr g a b) 9 v s) ∧
    (Ready (.htabWr g a b) s → x < 32 → mine → m ≠ 3 → (m = 2 ↔ h.mode = 2) → h.held = true → m ≠ h.mode → sup = false →
      TrapsWith (.htabWr g a b) 2 (word (.htabWr g a b)) s) ∧
    (Ready (.htabWr g a b) s → 32 ≤ x → x < 96 → mine → r.tag = false → TrapsWith (.htabWr g a b) 3 r.cap.addr.toNat s) ∧
    (Ready (.htabWr g a b) s → 32 ≤ x → x < 64 → mine → r.tag = true → r.cap.otype ≠ 0 →
      TrapsWith (.htabWr g a b) 4 r.cap.addr.toNat s) ∧
    (Ready (.htabWr g a b) s → 32 ≤ x → x < 64 → mine → r.tag = true → r.cap.otype = 0 → r.cap.has .ex = false →
      TrapsWith (.htabWr g a b) 5 r.cap.addr.toNat s) ∧
    (Ready (.htabWr g a b) s → 32 ≤ x → x < 64 → mine → r.tag = true → r.cap.otype = 0 → r.cap.has .ex = true → h.held = true → sup = false →
      TrapsWith (.htabWr g a b) 2 (word (.htabWr g a b)) s) ∧
    (Ready (.htabWr g a b) s → 64 ≤ x → x < 96 → mine → r.tag = true → h.held = true → sup = false →
      TrapsWith (.htabWr g a b) 2 (word (.htabWr g a b)) s)

/-- R144, R150 to R155, R406: a SEND whose operands are legal puts its packet on its way, with the body, the tags and the source
of R152 and the identity that the target's device gives the launch; a copy of it stays with the core, SENT of its launch counts it,
and, but for a reply, STC does; the status word of an acknowledged one is pending. A release leaves once the task's earlier operations
are performed, and waits until then (R157). -/
def Obligations.Sends : Prop :=
  ∀ (s : State) (g : BitVec 4) (d a b : BitVec 6),
    let c := s.cur.core
    let x := s.sca d
    let len := x % 256
    let dst := s.me.arch.reg a.toNat
    let k := dst.cap
    let at_ := k.addr.toNat
    let shape := x / 2 ^ 32 = 0 ∧ bits x 15 9 = 0 ∧ len ≤ 224 ∧ (128 < len → b ≠ 63)
    let legal := fun (kind : Nat) => dst.tag = true ∧ k.has .snd = true ∧ (k.otype = 0 ∨ k.otype = 2 ∧ kind ≠ 3) ∧ k.covers at_ 1 = true ∧
      bits at_ 63 60 = 0xE ∧ (if kind = 3 then isInbox at_ else isChannel at_) = true ∧ (bits at_ 59 50 = s.table.devnum → isCore (bits at_ 49 36) = true)
    let room := (s.core c).retx.length < 32
    let hi := if 128 < len then (s.me.arch.reg (b.toNat + 1)).v.toNat else 0
    let m : Msg := {
      lid := s.lidAt s.me.launch (bits at_ 59 50) s.me.lid, src := s.table.devnum * 2 ^ 14 + c, len := len,
      body := ((s.vec b).toNat + hi * 2 ^ 1024) % 2 ^ (8 * len), tag0 := (s.me.arch.reg b.toNat).tag && decide (16 ≤ len),
      tag128 := decide (144 ≤ len) && (s.me.arch.reg (b.toNat + 1)).tag, ctx := s.me.ctxid.toNat, world := s.me.arch.world }
    let sends := fun (i : Instr) (kind : Nat) =>
      Ready i s → shape → legal kind → room → (kind ≠ 2 → s.me.stc < 64) →
      s.releaseReady (pfxRelease s.me.arch.pfx) = true →
      ∃ t, exec i s = .next t ∧
        t.packets.look s.serial = some {
          kind := kind, target := at_, gc := x.testBit 8, gen := bits x 31 16, msg := m,
          task := some s.myRef, dest := d.toNat, acquire := pfxAcquire s.me.arch.pfx, lidHere := some s.me.lid } ∧
        t.due = s.due ++ [if kind = 3 then .engineCardArrival s.serial else .messageArrival s.serial] ∧
        t.me = { s.slotIssuing i with stc := s.me.stc + (if kind = 2 then 0 else 1),
                                      board := s.me.board ++ (if (kind = 1 ∨ kind = 3) ∧ d ≠ 0 then [(.reg d.toNat, s.serial)] else []) } ∧
        (t.core c).retx = (s.core c).retx ++ [s.serial] ∧
        (∀ l, (t.core c).sent.at l 0 = if l = s.me.lid then ((s.core c).sent.at l 0 + 1) % 2 ^ 32 else (s.core c).sent.at l 0) ∧
        (t.core c).rest = { (s.core c).rest with retx := (t.core c).retx, sent := (t.core c).sent } ∧
        (∀ e, e ≠ c → (t.core e).rest = (s.core e).rest) ∧ (∀ e n, e ≠ c ∨ n ≠ s.cur.slot → t.slot e n = s.slot e n) ∧
        BytesKept (fun _ => False) s t
    sends (.sendPost g d a b) 0 ∧ sends (.sendAck g d a b) 1 ∧ sends (.sendReply g d a b) 2 ∧ sends (.sendEng g d a b) 3 ∧
    (∀ i ∈ [Instr.sendPost g d a b, .sendAck g d a b, .sendReply g d a b, .sendEng g d a b], Ready i s → ¬ shape → TrapsWith i 9 x s) ∧
    (∀ i ∈ [Instr.sendPost g d a b, .sendAck g d a b, .sendReply g d a b, .sendEng g d a b], Ready i s → shape → dst.tag = false →
      TrapsWith i 3 at_ s) ∧
    (Ready (.sendReply g d a b) s → shape → legal 2 → ¬ room → TrapsWith (.sendReply g d a b) 14 at_ s) ∧
    (Ready (.sendAck g d a b) s → shape → legal 1 → ¬ room → StallsFor (.sendAck g d a b) .full s) ∧
    (∀ e ∈ [(Instr.sendPost g d a b, 0), (.sendAck g d a b, 1), (.sendReply g d a b, 2), (.sendEng g d a b, 3)], Ready e.1 s → shape → legal e.2 → room →
      s.me.stc < 64 → s.releaseReady (pfxRelease s.me.arch.pfx) = false → StallsFor e.1 .order s)

/-- R159, R161: binding a port to a channel makes the channel's entry a port-mode entry of the task's context, with GEN
advanced; unbinding frees both; the queue length is read. -/
def Obligations.Ports : Prop :=
  ∀ (s : State) (g : BitVec 4) (d a b : BitVec 6), 56 ≤ a.toNat →
    let c := s.cur.core
    let q := a.toNat - 56
    let p := s.me.port q
    let x := s.sca b
    let h := s.handler c x
    let ctx := s.me.ctxid.toNat
    let word := ((encode (.portBind g a b)).getD 0).toNat
    let bind := Instr.portBind g a b
    let free := h.mode = 0 ∧ h.held = false ∧ p.mode = 0 ∧ (s.core c).boundTo x = none
    let unbind := Instr.portUnbind g a
    (Ready bind s → x < 32 → (h.ctx = 0 ∨ h.ctx = ctx) → free →
      exec bind s = .next (((s.issuing bind).updHandler c x (fun h =>
        { h with ctx := ctx, pb := h.pb || h.ctx == 0, mode := 2, gen := (h.gen + 1) % 2 ^ 16, mail := [], aged := 0 })).updMe
          (fun y => { y with ports := y.ports.set q { mode := 1, chan := x } }))) ∧
    (Ready bind s → 32 ≤ x → TrapsWith bind 9 x s) ∧
    (Ready bind s → x < 32 → h.ctx ≠ 0 → h.ctx ≠ ctx → TrapsWith bind 2 word s) ∧
    (Ready bind s → x < 32 → (h.ctx = 0 ∨ h.ctx = ctx) → ¬ free → TrapsWith bind 9 x s) ∧
    (Ready unbind s → p.mode ≠ 1 → ActsOn unbind (fun y => { y with ports := y.ports.drop q }) s) ∧
    (Ready unbind s → p.mode = 1 → exec unbind s = .next (((s.issuing unbind).updMe (fun y => { y with ports := y.ports.drop q })).updHandler
      c p.chan (fun h => { h with mode := 0, gen := (h.gen + 1) % 2 ^ 16, mail := [], aged := 0,
                                  ctx := if h.pb then 0 else h.ctx, pb := false }))) ∧
    (Ready (.portQlen g d a) s → WritesScalar (.portQlen g d a) d (p.mode * 2 ^ 62 + p.fifo.length) s)

/-- R283 to R285, R287: SBIND with a legal pattern binds its port to a stream whose first strip is on its way; SREL ends it;
SSTAT reads it. The TVALs of SBIND's range faults (63 for a pattern register that is not there, and that of the first field that
breaks the rules) are the model's choice (assumption 57). -/
def Obligations.Streams : Prop :=
  ∀ (s : State) (g : BitVec 4) (d a b : BitVec 6), 56 ≤ a.toNat →
    let q := a.toNat - 56
    let p := s.me.port q
    let r := s.me.arch.reg b.toNat
    let c := r.cap
    let x := c.addr.toNat
    let v := (s.me.arch.reg (b.toNat + 1)).v
    let st : Stream := { streamOf c.toBits v with id := s.serial }
    let es := 2 ^ st.esz
    let sbind := Instr.portSbind g a b
    let place := (8 > bits x 63 60 ∧ bits x 59 57 = 0) ∨ bits x 63 60 = 0xE ∧ (bits x 35 32 = 0 ∨ bits x 35 32 = 4) ∧
      ∃ k, (s.issuing sbind).localPlace s.myAccess { x := x, n := es, align := 1 } = .ok k
    (Ready sbind s → b ≠ 63 → patternFault v = none → r.tag = true → c.otype = 0 → c.has .ld = true → c.has .eng = true →
      c.base ≤ st.corners.1 → st.corners.2 + (es : Int) ≤ c.top → (∀ y ∈ x :: st.str.map (·.toNat), y % es = 0) → place → p.mode = 0 →
      ∃ t, exec sbind s = .next t ∧
        Leaves { s.slotIssuing sbind with ports := s.me.ports.set q { mode := 2, stream := some st } }
          [.streamStripArrival s.cur.core s.cur.slot q] s t) ∧
    (Ready sbind s → b = 63 → TrapsWith sbind 9 63 s) ∧
    (Ready sbind s → b ≠ 63 → ∀ y, patternFault v = some y → TrapsWith sbind 9 y s) ∧
    (Ready sbind s → b ≠ 63 → patternFault v = none → r.tag = false → TrapsWith sbind 3 x s) ∧
    (Ready (.portSrel g a) s → p.mode ≠ 1 → ActsOn (.portSrel g a) (fun y => { y with ports := y.ports.drop q }) s) ∧
    (Ready (.portSrel g a) s → p.mode = 1 → TrapsWith (.portSrel g a) 9 a.toNat s) ∧
    (Ready (.portSstat g d a) s → WritesScalar (.portSstat g d a) d
      (p.mode * 2 ^ 62 + (if p.exh then 2 ^ 61 else 0) + (if p.headErr then 2 ^ 60 else 0) + p.fifo.length * 2 ^ 48 +
        (match p.stream with
          | some m => m.left % 2 ^ 48
          | none => 0)) s)

/-! ## Barriers, slots and launches -/

/-- R135: the barrier instructions. An arrival is recorded; the last one ends the phase, and every task of the gang that
waited for it goes on; an arrival waits until the task has not arrived in this phase, STC is 0 and its earlier accesses are
performed (R250); BAR.full then waits for its own phase to end, and BAR.wait for the phase that vB names. A handle above 32 bits, or one that names
no barrier of the task's gang, and any handle without a gang, take a range fault. -/
def Obligations.Barriers : Prop :=
  (∀ (s : State) (g : BitVec 4) (d a b : BitVec 6) (k : Nat) (gang : Gang) (bar : Barrier),
    s.me.gangId = some k → s.gangs.look k = some gang →
    let h := s.sca a
    h < 2 ^ 32 → s.barrier k h = some bar →
    let me := s.me.gti
    let last := bar.arrived.length + 1 = bar.e
    let bar' : Barrier := if bar.arrived.length + 1 = bar.e then { bar with phase := (bar.phase + 1) % 2 ^ 32, arrived := [], e := bar.eNext }
      else { bar with arrived := bar.arrived ++ [me] }
    let free := s.me.gti ∉ bar.arrived ∧ s.me.stc = 0
    let may := free ∧ s.releaseReady true = true
    let goesOn := fun (c n : Nat) => (∃ m ∈ gang.members, m.1 = c ∧ m.2.1 = n) ∧ (s.slot c n).gangId = some k ∧
      ∃ v, (s.slot c n).barred = some (h, v) ∧ bar'.past v = true
    let arrives := fun (t : State) => t.barrier k h = some bar' ∧ BytesKept (fun _ => False) s t ∧
      (∀ c n, c ≠ s.cur.core ∨ n ≠ s.cur.slot → (goesOn c n → t.slot c n = { s.slot c n with barred := none, wait := none }) ∧
        (¬ goesOn c n → t.slot c n = s.slot c n))
    let waits := fun (v : Nat) (x : Slot) => { x.stalls .barrier s.now with barred := some (h, v) }
    (Ready (.barArrive g d a) s → may → ∃ t, exec (.barArrive g d a) s = .next t ∧ arrives t ∧
      t.me = onArch (fun r => r.setScalar d.toNat bar.phase) (s.slotIssuing (.barArrive g d a))) ∧
    (Ready (.barFull g a) s → may → ∃ t, exec (.barFull g a) s = .next t ∧ arrives t ∧
      (last → t.me = s.slotIssuing (.barFull g a)) ∧ (¬ last → t.me = waits bar.phase (s.slotIssuing (.barFull g a)))) ∧
    (Ready (.barWait g a b) s → bar.past (elem (s.vec b) 32 0) = true → ActsOn (.barWait g a b) id s) ∧
    (Ready (.barWait g a b) s → bar.past (elem (s.vec b) 32 0) = false → ActsOn (.barWait g a b) (waits (elem (s.vec b) 32 0)) s) ∧
    (∀ i ∈ [Instr.barFull g a, .barArrive g d a], Ready i s → ¬ free → StallsFor i .barrier s) ∧
    (∀ i ∈ [Instr.barFull g a, .barArrive g d a], Ready i s → free → s.releaseReady true = false → StallsFor i .order s)) ∧
  (∀ (s : State) (g : BitVec 4) (d a b : BitVec 6) (i : Instr), i ∈ [Instr.barFull g a, .barArrive g d a, .barWait g a b] → Ready i s →
    let h := s.sca a
    (2 ^ 32 ≤ h → TrapsWith i 9 h s) ∧
    (s.me.gangId = none → TrapsWith i 9 h s) ∧
    (∀ k, s.me.gangId = some k → s.barrier k h = none → TrapsWith i 9 h s))

/-- R137, R238 to R240: SLOT alloc answers 0 with the least free handle, 1 without room (the size of a partition's quota is the model's
free choice, assumptions 3 and 62), 2 for a size that its kind does not take, and 5 for a barrier without a gang; which of these comes
first, that the handle is the least free one, and that a barrier's is its bare index, is the model's choice (assumption 109). The words
of a new queue and the word of a new counter read as zero and empty, and no other byte changes. SLOT free answers 3 for a handle that
the task may not free, of which all 64 bits count (assumption 82), 4 while a task waits on the barrier (one stalled at a second arrival
does not, assumption 110) or the queue holds entries, and 0 otherwise, with the slot free. The handle of a queue or a counter names its
plate (R238): it is valid on the whole device. -/
def Obligations.Slots : Prop :=
  (∀ (s : State) (g : BitVec 4) (d a : BitVec 6) (k : BitVec 3), Ready (.slotAlloc g d a k) s →
     let n := s.sca a
     let x := s.me
     let plate := corePlate s.cur.core
     let pl := s.pool plate
     let own : QueueSlot := { depth := if k = 1 then n else 0, ctx := x.ctxid.toNat, part := x.part, launch := x.launch }
     let gives := fun (t : State) (w : Nat) =>
       t.me = onArch (fun r => r.setScalar d.toNat w) (s.slotIssuing (.slotAlloc g d a k)) ∧ CoresKept s t
     let handle := fun (i : Nat) => if k = 0 then i else plate * 2 ^ 16 + i
     let status := fun (t : State) (c : Nat) => gives t (c * 2 ^ 48) ∧ t.pools = s.pools ∧ BytesKept (fun _ => False) s t
     let free := fun (held : Nat) (i : Option Nat) (t : State) (done : Nat → Prop) =>
       match i with
       | none => status t 1
       | some i => (done i ∧ gives t (handle i)) ∨ (held ≠ 0 ∧ status t 1)
     let i0 := ((List.range 256).map (· + 1)).find? (fun i => (pl.bars.look i).isNone)
     let i1 := ((List.range 256).map (· + 1)).find? (fun i => (pl.queues.look i).isNone)
     let i2 := ((List.range 1024).map (· + 1)).find? (fun i => (pl.ctrs.look i).isNone)
     ∃ t, exec (.slotAlloc g d a k) s = .next t ∧
       (k = 0 → x.gangId = none → status t 5) ∧
       (∀ j, k = 0 → x.gangId = some j →
         let size := bits x.gang.toNat 51 42 + 1
         (n = 0 ∨ 1024 < n ∨ size < n → status t 2) ∧
         (0 < n → n ≤ 1024 → n ≤ size → free (pl.bars.filter (fun b => b.2.part == x.part)).length i0 t (fun i =>
           t.pools = s.pools.set plate { pl with bars := pl.bars.set i {
               gang := j, e := n, eNext := n, ctx := x.ctxid.toNat, part := x.part, launch := x.launch.getD 0 } } ∧
           BytesKept (fun _ => False) s t))) ∧
       (k = 1 → n = 0 ∨ 256 < n → status t 2) ∧
       (k = 1 → 0 < n → n ≤ 256 → free (pl.queues.filter (fun b => b.2.part == x.part)).length i1 t (fun i =>
         t.pools = s.pools.set plate { pl with queues := pl.queues.set i own } ∧
         (∀ w, w < n → t.fullAt (queueKey plate i w) = false ∧ t.readMem (queueKey plate i w) 8 = 0) ∧
         BytesKept (fun x => queueKey plate i 0 ≤ x ∧ x < queueKey plate i 0 + 8 * n) s t)) ∧
       (k = 2 → free (pl.ctrs.filter (fun b => b.2.part == x.part)).length i2 t (fun i =>
         t.pools = s.pools.set plate { pl with ctrs := pl.ctrs.set i own } ∧ t.fullAt (counterKey plate i) = false ∧
         t.readMem (counterKey plate i) 8 = 0 ∧ BytesKept (fun x => counterKey plate i ≤ x ∧ x < counterKey plate i + 8) s t))) ∧
  (∀ (s : State) (g : BitVec 4) (d a : BitVec 6) (k : BitVec 3), Ready (.slotFree g d a k) s →
     let h := s.sca a
     let x := s.me
     let plate := if k = 0 then corePlate s.cur.core else bits h 17 16
     let n := if k = 0 then h else bits h 10 0
     let named := h = plate * 2 ^ 16 + n
     let pl := s.pool plate
     let gives := fun (w : Nat) (p : Sp Pools) => ∃ t, exec (.slotFree g d a k) s = .next t ∧ t.pools = p ∧
       t.me = onArch (fun r => r.setScalar d.toNat w) (s.slotIssuing (.slotFree g d a k)) ∧ CoresKept s t ∧ BytesKept (fun _ => False) s t
     let frees := fun (p : Pools) => gives h (s.pools.set plate p)
     let waits := fun (b : Barrier) => ∃ c ∈ s.cores, ∃ y ∈ c.2.slots, y.2.gangId = some b.gang ∧ ∃ v, y.2.barred = some (h, v)
     (k = 0 → pl.bars.look h = none → gives (3 * 2 ^ 48) s.pools) ∧
     (∀ b, k = 0 → pl.bars.look h = some b → b.ctx ≠ x.ctxid.toNat ∨ x.gangId ≠ some b.gang → gives (3 * 2 ^ 48) s.pools) ∧
     (∀ b, k = 0 → pl.bars.look h = some b → b.ctx = x.ctxid.toNat → x.gangId = some b.gang → waits b → gives (4 * 2 ^ 48) s.pools) ∧
     (∀ b, k = 0 → pl.bars.look h = some b → b.ctx = x.ctxid.toNat → x.gangId = some b.gang → ¬ waits b →
       frees { pl with bars := pl.bars.drop h }) ∧
     (k = 1 → ¬ named ∨ pl.queues.look n = none → gives (3 * 2 ^ 48) s.pools) ∧
     (∀ q, k = 1 → pl.queues.look n = some q → q.ctx ≠ x.ctxid.toNat → gives (3 * 2 ^ 48) s.pools) ∧
     (∀ q, k = 1 → named → pl.queues.look n = some q → q.ctx = x.ctxid.toNat →
       (∃ w, w < q.depth ∧ s.fullAt (queueKey plate n w) = true) → gives (4 * 2 ^ 48) s.pools) ∧
     (∀ q, k = 1 → named → pl.queues.look n = some q → q.ctx = x.ctxid.toNat →
       (∀ w, w < q.depth → s.fullAt (queueKey plate n w) = false) → frees { pl with queues := pl.queues.drop n }) ∧
     (k = 2 → ¬ named ∨ pl.ctrs.look n = none → gives (3 * 2 ^ 48) s.pools) ∧
     (∀ q, k = 2 → pl.ctrs.look n = some q → q.ctx ≠ x.ctxid.toNat → gives (3 * 2 ^ 48) s.pools) ∧
     (∀ q, k = 2 → named → pl.ctrs.look n = some q → q.ctx = x.ctxid.toNat → frees { pl with ctrs := pl.ctrs.drop n }))

/-- R138, R402, R404, R410: LAUNCH with a legal record joins the launch queue, and its handle is on its way; LCTL with a legal
handle of the task's own context, or with SR.SUP, is on its way, a cancel with its decision, or with its request to the device
that the handle names, and a wait acquires at device scope, or at pod scope for a pod grid; a handle with reserved bits takes a range
fault, and one of another context's launch a privilege fault. Whether a launch of another device is one or the other is the model's
free choice (assumption 31). -/
def Obligations.Launching : Prop :=
  ∀ (s : State) (g : BitVec 4) (d a b : BitVec 6) (p : Place) (u : State),
    let c := (s.me.arch.reg a.toNat).cap
    let x := c.addr.toNat
    let i := Instr.launch g d a
    let r := LaunchRec.ofBits (s.readMem p.key 128)
      (if p.tags then packList 1 ((List.range 4).map (fun k => b2n (s.tagAt (p.key + 16 * k)))) else 0)
    let h := s.sca a
    let legal := bits h 63 58 = 0 ∧ bits h 39 32 = 0
    let mine := ∀ e, s.launchNamed h = some e → e.2.ctx = s.me.ctxid.toNat ∨ s.me.arch.sup = true
    let word := fun (i : Instr) => ((encode i).getD 0).toNat
    let pod := match s.launchNamed h with
      | some (_, l) => l.lr.isPod s.table.devnum
      | none => false
    let goes := fun (i : Instr) (kind mode : Nat) (evs : List Instr) (pod : Bool) => ∃ t, exec i s = .next t ∧
      let o := { s.opOf i false false with
        kind := .lctl kind h mode, stc := false, acquire := kind == 2, acqScope := 4 + b2n pod, ret := .scalar d.toNat }
      Entered ((s.slotIssuing i).charged o [.reg d.toNat] s.serial) o (evs ++ [.lctlAnswer s.serial]) s t
    let asks := fun (i : Instr) (kind mode : Nat) (evs : List Instr) =>
      (s.farLaunch h = false → mine → goes i kind mode evs pod) ∧
      (s.farLaunch h = false → ¬ mine → TrapsWith i 2 (word i) s) ∧
      (s.farLaunch h = true → (∃ p, goes i kind mode evs p) ∨ (s.me.arch.sup = false ∧ TrapsWith i 2 (word i) s))
    let decision := fun (mode : Nat) => match s.launchNamed h with
      | some (l, _) => [Instr.cancelDecision l mode]
      | none => []
    (Ready i s → (s.issuing i).checkAccess s.myAccess (s.me.arch.reg a.toNat).tag c
        { x := x, n := 128, align := 128, perms := [.ld, .cld] } = (.ok p, u) →
      keyIsLocal p.key = false ∨ keySpace p.key = 0 →
      s.storesPending s.myRef p.key 128 = false → s.guardedFrom s.cur.core (some s.myRef) p.key 128 true false = false →
      s.badAt p.key 128 = false →
      s.recordFault r s.me.ctxid.toNat s.me.part s.me.arch.sup s.me.arch.world true x ((encode i).getD 0).toNat = none →
      s.releaseReady true = true → s.queued.length < 256 → u.touchLine s.me.part (some s.cur.core) p.key false ≠ none →
      ∃ t l, exec i s = .next t ∧ t.launches.look s.serial = some l ∧ l.lr = r ∧ l.root = .queued ∧ l.seq = s.launchSeq ∧
        l.ctx = s.me.ctxid.toNat ∧ l.part = s.me.part ∧ l.world = (s.ctx s.me.ctxid.toNat).s ∧ l.asker = some (s.myRef, d.toNat) ∧
        t.launchq = s.launchq ++ [s.serial] ∧ t.launchSeq = (s.launchSeq + 1) % 2 ^ 32 ∧
        Leaves { s.slotIssuing i with board := s.me.board ++ (if d = 0 then [] else [(.reg d.toNat, s.serial)]) }
          [.launchClaim s.serial, .launchHandleReturn s.serial] s t) ∧
    (Ready i s → (s.issuing i).checkAccess s.myAccess (s.me.arch.reg a.toNat).tag c
        { x := x, n := 128, align := 128, perms := [.ld, .cld] } = (.ok p, u) →
      s.storesPending s.myRef p.key 128 = false → s.guardedFrom s.cur.core (some s.myRef) p.key 128 true false = false →
      s.badAt p.key 128 = false → u.touchLine s.me.part (some s.cur.core) p.key false = none → StallsFor i .full s) ∧
    (Ready (.lctlQuery g d a) s → legal → asks (.lctlQuery g d a) 1 0 []) ∧
    (Ready (.lctlWait g d a) s → legal → asks (.lctlWait g d a) 2 0 []) ∧
    (Ready (.lctlCancel g d a b) s → legal → s.sca b ≤ 1 → asks (.lctlCancel g d a b) 0 (s.sca b) (decision (s.sca b))) ∧
    (Ready (.lctlCancel g d a b) s → legal → s.sca b ≤ 1 → bits h 57 48 ≠ s.table.devnum → s.routes.at (bits h 57 48) [] ≠ [] →
      (s.me.arch.sup = true ∨ s.farLaunch h = false) →
      ∃ t, exec (.lctlCancel g d a b) s = .next t ∧
        t.podOut = s.podOut ++ [{
          src := s.table.devnum, dst := bits h 57 48, body := .cancel h (s.sca b),
          via := s.portTo (bits h 57 48) (s.roleCore 2) (s.roleCore 2) }]) ∧
    (Ready (.lctlQuery g d a) s → ¬ legal → TrapsWith (.lctlQuery g d a) 9 h s) ∧
    (Ready (.lctlWait g d a) s → ¬ legal → TrapsWith (.lctlWait g d a) 9 h s) ∧
    (Ready (.lctlCancel g d a b) s → ¬ legal → TrapsWith (.lctlCancel g d a b) 9 h s) ∧
    (Ready (.lctlCancel g d a b) s → legal → 1 < s.sca b → TrapsWith (.lctlCancel g d a b) 9 (s.sca b) s)

/-! ## Copies, matrix commands and translation -/

/-- R265, R268, R269, R274 to R277, R280 to R282: a CPY whose checks pass is a job in its engine's inbox with the card that its
operands and its geometry set describe; CPC counts it, MXC as well where a matrix command follows, and its status word is
pending. A copy with follow-on completes where its command's word, formats and records are legal (R280). The engine registers hold
what EREG writes. -/
def Obligations.Copies : Prop :=
  (∀ (s : State) (g : BitVec 4) (d a b : BitVec 6) (pad : Nat) (m : MtxCmd) (u : State),
     let c := s.cur.core
     let v := s.vec d
     let x := scalarOf v
     let geo := s.me.geometry (x % 4)
     let prs := ctrlPrs (wordAt geo 0)
     let eng := engineId c (x / 4 % 2)
     let card := fun (i : Instr) (kind : Nat) => (s.envOf i).card (s.issuing i) a b kind geo
     let padded := if prs = 0 then pad = 0 else pad = recordPad (s.readMem (recordKey c prs) 64) ∧
       s.storesPending s.myRef (recordKey c prs) 64 = false
     let job := fun (i : Instr) (kind : Nat) (f : Option MtxCmd) => ({
       id := s.serial, card := { card i kind with pad := BitVec.ofNat 64 pad, follow := f },
       engine := eng, core := c, task := some s.myRef, dest := d.toNat, acquire := pfxAcquire s.me.arch.pfx, ctx := s.me.ctxid.toNat,
       part := s.me.part, world := s.me.arch.world, sup := s.me.arch.sup, lid := s.me.lid, launch := s.me.launch } : Job)
     let ready := fun (i : Instr) (kind : Nat) => Ready i s ∧ cpyShape v kind (isBig c) = true ∧ geomFault geo kind = none ∧
       (s.issuing i).cardFault s.myAccess (card i kind) (32 * (x % 4)) = none ∧ padded ∧ s.me.cpc < 16 ∧ s.inboxLen eng < 32 ∧
       s.releaseReady (pfxRelease s.me.arch.pfx) = true
     let goes := fun (i : Instr) (kind : Nat) (f : Option MtxCmd) => ∃ t, exec i s = .next t ∧
       t.jobs.look s.serial = some (job i kind f) ∧
       Leaves { s.slotIssuing i with cpc := s.me.cpc + 1, mxc := s.me.mxc + (if kind = 3 then 1 else 0),
                                     board := s.me.board ++ (if d = 0 then [] else [(.reg d.toNat, s.serial)]) } [.jobStart s.serial] s t
     (ready (.cpy g d a b) 0 → goes (.cpy g d a b) 0 none) ∧ (ready (.cpyLoop g d a b) 1 → goes (.cpyLoop g d a b) 1 none) ∧
     (ready (.cpyBlk g d a b) 4 → goes (.cpyBlk g d a b) 4 none) ∧ (ready (.cpySlab g d a b) 5 → goes (.cpySlab g d a b) 5 none) ∧
     (ready (.cpyMtx g d a b) 3 → s.me.mxc < 16 →
       (s.envOf (.cpyMtx g d a b)).followCheck (s.issuing (.cpyMtx g d a b)) v a b = .ok (m, u) → goes (.cpyMtx g d a b) 3 (some m)) ∧
     (let i := Instr.cpyMtx g d a b
       let k := (s.envOf i).follow (s.issuing i) v a b
       ready i 3 → s.me.mxc < 16 → isBig c = true → followRules v = true → (∃ j, followInstr v = some j ∧ pfxTOk j (followPfx v) = true) →
       elem v 32 3 % 2 ^ 9 = 0 →
       ((s.core c).big.deferred = false → (s.issuing i).mtxForm k = none → (∀ o ∈ k.operands, recSpace o.r ≠ 0) →
         (∀ o ∈ k.operands, (s.issuing i).bookOk k o = true) → goes i 3 (some { k with pins := [], checked := true })) ∧
       ((s.core c).big.deferred = true → k.followAuthority = none → goes i 3 (some k))) ∧
     (∀ e ∈ [(Instr.cpy g d a b, 0), (.cpyLoop g d a b, 1), (.cpyMtx g d a b, 3), (.cpyBlk g d a b, 4), (.cpySlab g d a b, 5)],
       Ready e.1 s → (∀ f, cpyShape v e.2 (isBig c) = true → geomFault geo e.2 = none →
           (s.issuing e.1).cardFault s.myAccess (card e.1 e.2) (32 * (x % 4)) = some f → TrapsWith e.1 f.1 f.2 s) ∧
         (cpyShape v e.2 (isBig c) = false → TrapsWith e.1 9 x s) ∧
         (cpyShape v e.2 (isBig c) = true → ∀ r, geomFault geo e.2 = some r → TrapsWith e.1 9 (32 * (x % 4) + r) s)) ∧
     (let q := (s.me.arch.reg a.toNat).cap
       let y := q.addr.toNat
       (Ready (.cpyrel g a) s → isBig c = true → TrapsWith (.cpyrel g a) 8 y s) ∧
       (Ready (.cpyrel g a) s → s.stcFree → (s.me.arch.reg a.toNat).tag = true → q.otype = 0 → q.has .eng = true → s.me.ldc = 0 →
       isBig c = false → bits y 63 60 = 0xE → bits y 59 50 = s.table.devnum → (bits y 35 32 = 0 ∨ bits y 35 32 = 4) →
       nodeOf (bits y 49 36) = nodeOf c →
       let o := { s.opOf (.cpyrel g a) false false with kind := .stageRelease y }
       ∃ t, exec (.cpyrel g a) s = .next t ∧
         Entered ((s.slotIssuing (.cpyrel g a)).charged o [] s.serial) o [.stageRelease s.serial] s t))) ∧
  (∀ (s : State) (g : BitVec 4) (d a b : BitVec 6),
     let x := s.sca b
     let names := x < 128 ∧ x % 32 < 20
     (Ready (.eregRd g d b) s → names → WritesScalar (.eregRd g d b) d (s.me.eregs.at x 0).toNat s) ∧
     (Ready (.eregWr g a b) s → names → ∃ t, exec (.eregWr g a b) s = .next t ∧ TaskOnly s t ∧
       t.me = { s.slotIssuing (.eregWr g a b) with eregs := t.me.eregs } ∧
       ∀ k, t.me.eregs.at k 0 = if k = x then BitVec.ofNat 64 (s.sca a) else s.me.eregs.at k 0) ∧
     (Ready (.eregRd g d b) s → ¬ names → TrapsWith (.eregRd g d b) 9 x s) ∧
     (Ready (.eregWr g a b) s → ¬ names → TrapsWith (.eregWr g a b) 9 x s))

/-- R297 to R299, R305, R309, R314: on a big core a matrix command whose checks pass joins the inbox, and MXC counts it; with the
inbox full its task waits for an entry. In deferred mode it joins unchecked, and its task waits for the checks; a failing check is
the task's fault, with nothing done, and one that needs a page walk waits for it (R204). A command whose fields and records are legal and whose operands are no virtual memory
passes its checks. -/
def Obligations.MatrixCommands : Prop :=
  ∀ (s : State) (g : BitVec 4) (n : BitVec 5) (a b : BitVec 6) (prec : Nat) (m : MtxCmd) (u : State), isBig s.cur.core = true →
    let c := s.cur.core
    let prs := prsOf s.me.arch.pfx.t
    let recorded := if prs = 0 then prec = 0 else prec = s.readMem (recordKey c prs) 64 ∧ s.storesPending s.myRef (recordKey c prs) 64 = false
    let goes := fun (i : Instr) (a b : BitVec 6) (needs : Bool) (row : Option Nat) =>
      let cmd := { (s.envOf i).mtxCmd (s.issuing i) a b prec with rowTo := row }
      let dest := match row with
        | some d => if d = 0 then [] else [(Dest.reg d, s.serial)]
        | none => []
      let chk : Ship := { id := s.serial, saved := s.me.arch, tpc := (s.envOf i).first }
      let joins := fun (m : MtxCmd) (in_ : Bool) => ∃ t, exec i s = .next t ∧ t.cmds.look s.serial = some { m with admitted := in_ } ∧
        t.mtxq.at c [] = joinQueue s (s.mtxq.at c []) s.serial m.service ∧
        t.me = { s.slotIssuing i with mxc := s.me.mxc + 1, board := s.me.board ++ dest,
                                      checking := if m.checked ∧ in_ then none else some chk } ∧
        (∃ l, t.due = s.due ++ l ++ [.matrixCommandStart c] ∧ ∀ e ∈ l, ∃ i n, e = .fillArrival i n) ∧ BytesKept (fun _ => False) s t ∧
        (m.t = 5 → m.checked = true → in_ = true →
          ((t.core c).big.books.look m.n).map (fun k => (k.ctx, k.part)) = some (m.ctx, m.part)) ∧
        (m.t ≠ 5 ∨ in_ = false → CoresKept s t)
      let held := ((s.mtxq.at c []).filter (fun k => k != s.serial && (s.cmds.look k).any (fun q => q.admitted && !q.service))).length
      let alone := ∀ k ∈ s.mtxq.at c [], ∀ q, s.cmds.look k = some q → q.admitted = true
      let waits := ∀ k ∈ s.mtxq.at c [], ∀ q, s.cmds.look k = some q → q.service = true → q.admitted = true
      let enters := fun (m : MtxCmd) => (m.service = true ∨ held < 32 → alone → joins m true) ∧
        (m.service = false → 32 ≤ held → waits → joins m false)
      Ready i s → (needs = true → recorded) → (needs = false → prec = 0) → s.me.mxc < 16 → s.me.dataError = none →
      ((s.core c).big.deferred = false → (s.issuing i).mtxCheck cmd = (.ok m, u) → enters m) ∧
      ((s.core c).big.deferred = false → (s.issuing i).mtxForm cmd = none → (∀ o ∈ cmd.operands, recSpace o.r ≠ 0) →
        (∀ o ∈ cmd.operands, (s.issuing i).bookOk cmd o = true) → enters { cmd with pins := [], checked := true }) ∧
      (∀ f, (s.core c).big.deferred = false → (s.issuing i).mtxCheck cmd = (.error f, u) →
        (f.2.1 ≠ notYet → TrapsWith i f.2.1 f.2.2 s) ∧
        (f.2.1 = notYet → exec i s = .next ((s.wantWalk cmd.access f.2.2).updMe (fun y => y.stalls .walk s.now)))) ∧
      ((s.core c).big.deferred = true → enters cmd)
    goes (.mtxMma g n a b) a b false none ∧ goes (.mtxMmaz g n a b) a b false none ∧ goes (.mtxAccld g n a) a 0 false none ∧
    goes (.mtxAccst g n a) a 0 false none ∧
    goes (.mtxAccmv g n a b) a b false (if (s.sca b).testBit 8 then none else some a.toNat) ∧
    goes (.mtxCodeb g n) 0 0 true none ∧ goes (.mtxAccq g n a) a 0 true none ∧ goes (.mtxAccfree g n) 0 0 false none

/-- R170, R315: a matrix command of a little core leaves as a guest for its home big core once LDC and STC are 0, with both
registers of each operand and the core's sequence number; MXC counts it, and so does the core. -/
def Obligations.MatrixGuests : Prop :=
  ∀ (s : State) (g : BitVec 4) (n : BitVec 5) (a b : BitVec 6), isBig s.cur.core = false →
    let c := s.cur.core
    let r := s.me.arch.reg
    let prs := prsOf s.me.arch.pfx.t
    let ships := fun (i : Instr) (a b : BitVec 6) (needs : Bool) (row : Option Nat) =>
      Ready i s → s.me.ldc = 0 → s.me.stc = 0 → s.me.mxc < 16 → s.shipsNow (s.envOf i) = true →
      (needs = true → prs ≠ 0 → s.storesPending s.myRef (recordKey c prs) 64 = false) →
      ∃ t k, exec i s = .next t ∧ t.guests.look s.serial = some k ∧ k.word = (encode i).getD 0 ∧ k.a = r a.toNat ∧ k.b = r b.toNat ∧
        k.a1 = r (a.toNat + 1) ∧ k.b1 = r (b.toNat + 1) ∧ k.home = s.homeOf c ∧ k.task = s.myRef ∧ k.seq = (s.core c).seq ∧
        k.launch = s.me.launch ∧
        k.prec = (if needs = true ∧ prs ≠ 0 then s.readMem (recordKey c prs) 64 else 0) ∧
        Leaves { s.slotIssuing i with
            mxc := s.me.mxc + 1, ship := some { id := s.serial, saved := s.me.arch, tpc := (s.envOf i).first },
            board := s.me.board ++ (match row with
              | some d => if d = 0 then [] else [(.reg d, s.serial)]
              | none => []) }
          [.guestPacketArrival s.serial] (s.countShip c) t
    ships (.mtxMma g n a b) a b false none ∧ ships (.mtxMmaz g n a b) a b false none ∧ ships (.mtxAccld g n a) a 0 false none ∧
    ships (.mtxAccst g n a) a 0 false none ∧
    ships (.mtxAccmv g n a b) a b false (if (s.sca b).testBit 8 then none else some a.toNat) ∧
    ships (.mtxCodeb g n) 0 0 true none ∧ ships (.mtxAccq g n a) a 0 true none ∧ ships (.mtxAccfree g n) 0 0 false none

/-- R205, R335 to R337: a TLBI of the supervisor counts in STC and asks the four plates' controllers, or is acknowledged at
once where its range is empty as lo and hi are given (the model's reading, assumption 73); without SR.SUP it takes a privilege fault,
and an ASID that does not fit 16 bits is a range fault. WCALL counts in STC, with v4 and v5 pending, once the task's earlier accesses
are done (assumption 74); its answer is the model's free choice (assumption 30). -/
def Obligations.Invalidations : Prop :=
  ∀ (s : State) (g : BitVec 4) (a b : BitVec 6) (w : BitVec 15),
    let lo := elem (s.vec a) 64 0
    let hi := elem (s.vec a) 64 1
    let asid := s.sca b
    let formed := bits lo 63 63 = 0 ∧ bits lo 59 57 = 0 ∧ bits hi 63 63 = 0 ∧ bits hi 59 58 = 0 ∧ bits lo 62 60 = bits hi 62 60
    let x := bits lo 56 0
    let y := bits hi 57 0
    let range := if y ≤ x then (x, x) else (x / 65536 * 65536, (y + 65535) / 65536 * 65536)
    let sends := fun (i : Instr) (kind asid root lo hi : Nat) (empty : Bool) => ∃ t, exec i s = .next t ∧
      let o := { s.opOf i false true with kind := .tlbi kind asid root lo hi [], release := true, stores := false }
      Entered ((s.slotIssuing i).charged o [] s.serial) o (if empty then [.tlbiAck s.serial]
        else (List.range 4).map (fun p => .tlbiControllerRequest s.serial p)) s t
    let may := fun (i : Instr) => Ready i s ∧ s.me.arch.sup = true ∧ s.stcFree
    (may (.tlbiRange g a b) → formed → asid < 65536 →
      sends (.tlbiRange g a b) 0 asid (bits lo 62 60) range.1 range.2 (decide (y ≤ x))) ∧
    (may (.tlbiL1inv g a b) → formed → asid < 65536 →
      sends (.tlbiL1inv g a b) 2 asid (bits lo 62 60) range.1 range.2 (decide (y ≤ x))) ∧
    (may (.tlbiL1clean g a b) → formed → asid < 65536 →
      sends (.tlbiL1clean g a b) 3 asid (bits lo 62 60) range.1 range.2 (decide (y ≤ x))) ∧
    (may (.tlbiCtx g b) → asid < 65536 → sends (.tlbiCtx g b) 1 asid 0 0 0 false) ∧
    (may (.tlbiPart g) → sends (.tlbiPart g) 4 0 0 0 0 false) ∧
    (∀ i ∈ [Instr.tlbiRange g a b, .tlbiL1inv g a b, .tlbiL1clean g a b, .tlbiCtx g b, .tlbiPart g], Ready i s → s.me.arch.sup = false →
      TrapsWith i 2 ((encode i).getD 0).toNat s) ∧
    (∀ i ∈ [Instr.tlbiRange g a b, .tlbiL1inv g a b, .tlbiL1clean g a b], Ready i s → s.me.arch.sup = true → ¬ formed → TrapsWith i 9 lo s) ∧
    (∀ i ∈ [Instr.tlbiRange g a b, .tlbiL1inv g a b, .tlbiL1clean g a b], Ready i s → s.me.arch.sup = true → formed → 65536 ≤ asid →
      TrapsWith i 9 asid s) ∧
    (Ready (.tlbiCtx g b) s → s.me.arch.sup = true → 65536 ≤ asid → TrapsWith (.tlbiCtx g b) 9 asid s) ∧
    (Ready (.wcall g w) s → s.stcFree → s.releaseReady true = true →
      let o := { s.opOf (.wcall g w) false true with kind := .wcall w.toNat (s.me.arch.reg 4).v, stores := false }
      ∃ t st data, exec (.wcall g w) s = .next t ∧ st < 4 ∧
        Entered ((s.slotIssuing (.wcall g w)).charged o [.reg 4, .reg 5] s.serial) o [.wcallAnswer s.serial st data] s t) ∧
    (Ready (.wcall g w) s → s.releaseReady true = false → StallsFor (.wcall g w) .order s)

/-! ## Events: memory, tickets, translation and guests

An event row's statement says what the event does where it takes place: from the state in which it is no longer under way. -/

/-- R191, R192, R195, R197, R212, R222, R223, R256: a request is performed at its home slice, where the line is present or is then
fetched, or by its core's L1 data cache where that holds the line, or in local storage, where a full/empty request whose words are not
in their state parks; a request that its slice or storage has no room for is refused and sent again (R353); one that only orders of
narrow scopes hold back may be performed early and leaves guards (R247; their form is the model's, assumption 24); an LDFE of data that
cannot be corrected leaves its words empty too (the model's reading, assumption 26); a fill installs its line and answers those that
waited. -/
def Obligations.MemoryEvents : Prop :=
  ∀ (s : State) (id j : Nat) (o : Op) (e : Elem), s.ops.look id = some o → o.elems[j]? = some e → e.stage = .queued →
    let line := e.key / 128
    let slice := sliceId e.key
    let waits := e.writes = false ∨ ∃ r, e.act = .rmw r
    let free := e.till ≤ s.now ∧ s.elemGuarded o e = false
    let present := (s.slice slice).lines.any (fun l => l.line == line) = true ∨ (s.forwards id o j e).isSome = true ∨
      (s.servedByL1 o e).isSome = true
    let asked := (s.slice slice).misses.any (fun m => m.row.line == line) = true
    let is := fun (t : State) (f : Elem) => f.request = e.request ∧ ∃ q, t.ops.look id = some q ∧ q.elems = o.elems.set j f ∧ q = { o with elems := q.elems }
    let performed := fun (t : State) (f : Elem) =>
      (e.act = .read → s.forwards id o j e = none → f.val = s.readMem e.key e.n ∧ f.valTag = (s.tagAt e.key && e.keepsTag) ∧
        BytesKept (fun _ => False) s t) ∧
      (∀ m d b, e.act = .write m d b → ∀ k, keyIsView k = false → t.byte k = (s.writeMem e.key e.n m d).byte k) ∧
      (∀ r, e.act = .rmw r → s.badAt e.key e.n = false → f.val = s.readMem e.key e.n ∧
        ∀ k, keyIsView k = false → t.byte k = (match r.apply f.val (s.tagAt e.key) with
          | none => s
          | some x => s.store e.key e.n x).byte k)
    let atHome := fun (t : State) => ∃ f, is t f ∧ performed t f ∧
        (f.stage = .done ↔ present ∨ ¬ waits) ∧ (f.stage = .held ↔ ¬ present ∧ waits) ∧
        (¬ present → ¬ asked → Instr.fillArrival slice line ∈ t.due) ∧ t.serial = s.serial
    let refused := fun (i : Instr) => ∃ t w, exec i s = .next t ∧ BytesKept (fun _ => False) s t ∧ t.due = s.due ∧
      t.ops = s.ops.set id { o with elems := o.elems.set j { e with nacks := e.nacks + 1, till := s.now + w } }
    let room := present ∨ asked ∨ (s.slice slice).misses.length < 64
    let ready := ∃ v, s.accessBank e.key = some v
    (keyIsLocal e.key = false → free → s.mayPerform id o j e = true → room →
      ∃ t, exec (.homeSliceRequest id j) s = .next t ∧ atHome t ∧ t.guards = s.guards) ∧
    (keyIsLocal e.key = false → free → s.mayPerform id o j e = true → ¬ room → refused (.homeSliceRequest id j)) ∧
    (keyIsLocal e.key = false → free → s.mayPerform id o j e = false → s.mayPerformEarly id o j e = true → room →
      Waits (.homeSliceRequest id j) s ∨ ∃ t, exec (.homeSliceRequest id j) s = .next t ∧ atHome t ∧
        t.guards = s.guards.filter s.guardLive ++ s.guardsOf id o e) ∧
    (∀ i ∈ [Instr.homeSliceRequest id j, .localWindowRequest id j],
      (¬ free ∨ s.mayPerform id o j e = false ∧ s.mayPerformEarly id o j e = false) → Waits i s) ∧
    (keyIsLocal e.key = true → free → s.mayPerform id o j e = true → ready → e.inQueue = false → e.fullEmpty = false →
      ∃ t f, exec (.localWindowRequest id j) s = .next t ∧ is t f ∧ performed t f ∧ f.stage = .done) ∧
    (keyIsLocal e.key = true → free → s.mayPerform id o j e = true → ready → e.inQueue = false → ∀ w, e.act = .feLoad w →
      (s.wordsAre e.key e.n w true = false → 32 ≤ (s.parked.filter (fun p => p.1 == e.key / 2 ^ 32)).length →
        refused (.localWindowRequest id j)) ∧
      (s.wordsAre e.key e.n w true = false → (s.parked.filter (fun p => p.1 == e.key / 2 ^ 32)).length < 32 →
        ∃ t f, exec (.localWindowRequest id j) s = .next t ∧ is t f ∧ f.stage = .parked ∧
          t.parked = s.parked ++ [(e.key / 2 ^ 32, id, j)] ∧ BytesKept (fun _ => False) s t) ∧
      (s.wordsAre e.key e.n w true = true → s.parked = [] →
        ∃ t f, exec (.localWindowRequest id j) s = .next t ∧ is t f ∧ f.stage = .done ∧ f.val = s.readMem e.key e.n ∧
          (∀ i, i < e.n / 4 → t.fullAt (e.key + 4 * i) = (!w.testBit i && s.fullAt (e.key + 4 * i))))) ∧
    (∀ m, (s.slice slice).misses.find? (fun m => m.row.line == line) = some m →
        m.alloc = true ∨ (s.victim slice m.row.part line).1.isSome = true ∨ (s.victim slice m.row.part line).2 = true →
      ∃ t, exec (.fillArrival slice line) s = .next t ∧ BytesKept (fun _ => False) s t ∧ (m.copies = [] → m.row ∈ (t.slice slice).lines) ∧
        (∃ l ∈ (t.slice slice).lines, l.line = line ∧ l.part = m.row.part) ∧
        (t.slice slice).misses = (s.slice slice).misses.filter (fun x => x.row.line != line) ∧
        ∀ w ∈ m.waiting, ∀ p, s.ops.look w.1 = some p → w.2 < p.elems.length →
          ∃ q f, t.ops.look w.1 = some q ∧ q.elems[w.2]? = some f ∧ f.stage = .done)

/-- R212, R215, R216, R218, R249: the data of an operation whose elements are all done arrives in its task, which lives: its
register is written, in what a carry-ahead window or a deferred check would restore too (R173, R314), its destination is pending
no longer and LDC falls; an acknowledgement lets STC fall. -/
def Obligations.Completions : Prop :=
  ∀ (s : State) (id : Nat) (o : Op), s.ops.look id = some o → o.kind = .mem → o.elems.all (fun e => e.stage == .done) = true →
    s.alive o.task = true →
    let c := o.task.core
    let n := o.task.slot
    let x := s.slot c n
    let e := o.first
    let lane := fun (a : Arch) (d w k : Nat) => (o.elems.find? (fun y => y.lane == k)).map (fun y => y.val % 2 ^ w) |>.getD (elem (a.reg d).v w k)
    (o.ldc = true → o.elems.any (·.bad) = false → (x.ship = none ∨ ∀ d, o.ret ≠ .redeem d none) →
      ∃ t f, exec (.loadCompletion id) s = .next t ∧ t.ops = s.ops.drop id ∧ BytesKept (fun _ => False) s t ∧
        (∀ d m, (d ≠ c ∨ m ≠ n) → t.slot d m = s.slot d m) ∧
        t.slot c n = ({ x with ldc := x.ldc - 1, stc := x.stc - b2n o.stc, board := x.board.filter (fun b => b.2 != id) } : Slot).land f ∧
        (∀ d, o.ret = .scalar d → ∀ a, f a = a.setScalar d e.val) ∧
        (∀ d, o.ret = .cap d → ∀ a, f a = a.setReg d { v := BitVec.ofNat 1024 e.val, tag := e.valTag }) ∧
        (∀ d w, o.ret = .lanes d w → 0 < d → (w = 16 ∨ w = 32 ∨ w = 64) → ∀ a k, k < 1024 / w → elem ((f a).reg d).v w k = lane a d w k) ∧
        (∀ d p v b, o.ret = .oldPred d p v b → ∀ a, f a =
          (a.setScalar d e.val).setPred p (writeSpan (a.pred p) 64 0 (decide (e.val + v ≤ b))))) ∧
    (o.stc = true → Does (.storeAcknowledgement id) (fun u => ({ u with ops := u.ops.drop id } : State).setSlot c n
      { x with ldc := x.ldc - b2n o.ldc, stc := x.stc - 1, board := x.board.filter (fun b => b.2 != id) }) s)

/-- R225 to R230: an allocation takes a free entry with the next sequence number and the context's lease, and its ticket is
the answer; without a free entry it is held at its slice, or refused and sent again where 16 are held; the fetch reads its bytes at the
home slice, and then its data makes the entry ready, answers the redeem that waits, or frees an entry that was given up meanwhile; a
redeem takes the data of a ready entry once and waits for one under way, and one of an entry given up tells why; a release frees or
cancels; and a lease that runs out frees the entry. -/
def Obligations.TicketEvents : Prop :=
  ∀ (s : State) (id i k : Nat) (o : Op), s.ops.look id = some o →
    let x := s.ticket i k
    let y := x.aged s.gt
    let n := 16 * 2 ^ y.size
    let answers := fun (t : State) (id st : Nat) (d : Nat) => ∀ p, s.ops.look id = some p →
      t.ops.look id = some { p with answered := true, status := st, val := d } ∧ Instr.loadCompletion id ∈ t.due
    let redeem := Instr.ticketRedeem id
    let h := sliceId o.first.key
    let held := (s.slice h).heldAlloc
    let met := (∀ q, s.ops.look y.op = some q → s.elemGuarded q q.first = false) ∧ ∃ v, s.touchLine y.part none y.addr false = some v
    let arrival := Instr.ticketDataArrival i k
    let coming := y.st = .fetching ∨ y.st = .waiting
    let fetched := fun (t : State) => ∀ q size, s.ops.look y.op = some q → q.kind = .ticketAlloc size →
      t.ops.look y.op = if q.ldc then some { q with fetched := true } else none
    (∀ size, o.kind = .ticketAlloc size → s.mayAllocate id o = true → o.first.till ≤ s.now → held = [] → s.freeEntries h ≠ [] →
      ∃ t e, exec (.ticketAllocation id) s = .next t ∧ e ∈ s.freeEntries h ∧
        let q := (s.ticket h e).seq + 1
        t.ticket h e = { st := .fetching, seq := q % 2 ^ 22, ctx := o.ctx, launch := (s.slot o.task.core o.task.slot).launch, part := o.part,
                         size := size, deadline := s.gt + 2 ^ (s.ctx o.ctx).lease, reason := (s.ticket h e).reason,
                         addr := o.first.key, va := o.first.va, op := id } ∧
        t.ops.look id = some { o with answered := true, val := (ticketCap s.table.devnum h e (q % 2 ^ 22) size).toNat } ∧
        Instr.loadCompletion id ∈ t.due ∧ Instr.ticketDataArrival h e ∈ t.due) ∧
    (∀ size, o.kind = .ticketAlloc size → s.mayAllocate id o = true → o.first.till ≤ s.now → s.freeEntries h = [] ∨ held ≠ [] →
      id ∉ held → ∃ t w, exec (.ticketAllocation id) s = .next t ∧ t.due = s.due ∧
        (held.length < 16 → t.ops = s.ops ∧ (t.slice h).heldAlloc = held ++ [id]) ∧
        (16 ≤ held.length → t.slices = s.slices ∧
          t.ops = s.ops.set id { o with elems := o.elems.set 0 { o.first with nacks := o.first.nacks + 1, till := s.now + w } })) ∧
    (coming → y.read = false → ¬ met → Waits arrival s) ∧
    (coming → y.read = false → met → ∃ t, exec arrival s = .next t ∧
      t.ticket i k = { y with read := true, data := s.readMem y.addr n, bad := s.badAt y.addr n } ∧ fetched t ∧
      (∀ e ∈ s.due, e ∈ t.due) ∧ BytesKept (fun _ => False) s t) ∧
    (y.st = .fetching → y.read = true → Does arrival (fun u => u.setTicket i k { y with st := .ready }) s) ∧
    (y.st = .waiting → y.read = true → y.redeemer = some id → ∃ t, exec arrival s = .next t ∧
      t.ticket i k = { y with st := .free, reason := .redeemed, redeemer := none } ∧
      answers t id (if y.bad then 6 else 0) (if y.bad then 0 else y.data)) ∧
    (y.st = .dying → ∃ t, exec arrival s = .next t ∧ t.ticket i k = { y with st := .free } ∧ fetched t) ∧
    (∀ c, o.kind = .ticketRedeem c → o.answered = false → s.mayStart id o.task false o.release = true →
      let a := (Cap.ofBits c).addr.toNat
      i = ticketSlice a → k = ticketEntry a →
      let good := bits a 29 8 = y.seq ∧ o.ctx = y.ctx
      (bits a 29 8 ≠ y.seq → ∃ t, exec redeem s = .next t ∧ t.ticket i k = y ∧ answers t id 5 0) ∧
      (bits a 29 8 = y.seq → o.ctx ≠ y.ctx → ∃ t, exec redeem s = .next t ∧ t.ticket i k = y ∧ answers t id 4 0) ∧
      (good → (y.st = .waiting ∨ y.st = .free ∧ y.reason = .redeemed) → ∃ t, exec redeem s = .next t ∧ t.ticket i k = y ∧ answers t id 1 0) ∧
      (good → (y.st = .free ∨ y.st = .dying) → y.reason = .expired → ∃ t, exec redeem s = .next t ∧ t.ticket i k = y ∧ answers t id 2 0) ∧
      (good → (y.st = .free ∨ y.st = .dying) → y.reason = .released → ∃ t, exec redeem s = .next t ∧ t.ticket i k = y ∧ answers t id 3 0) ∧
      (good → y.st = .ready → ∃ t, exec redeem s = .next t ∧ t.ticket i k = { y with st := .free, reason := .redeemed } ∧
        answers t id (if y.bad then 6 else 0) (if y.bad then 0 else y.data)) ∧
      (good → y.st = .fetching → ∃ t, exec redeem s = .next t ∧ t.ticket i k = { y with st := .waiting, redeemer := some id })) ∧
    (∀ c, o.kind = .ticketRelease c → o.answered = false → s.mayStart id o.task false o.release = true →
      let a := (Cap.ofBits c).addr.toNat
      i = ticketSlice a → k = ticketEntry a →
      ∃ t, exec (.ticketRelease id) s = .next t ∧ t.ops.look id = some { o with answered := true } ∧
        Instr.storeAcknowledgement id ∈ t.due ∧
        t.ticket i k = (if bits a 29 8 = y.seq ∧ o.ctx = y.ctx then
          (if y.st = .fetching then { y with st := .dying, reason := .released }
            else if y.st = .ready then { y with st := .free, reason := .released } else y) else y)) ∧
    (∃ t, exec (.ticketExpiry i k) s = .next t ∧ t.ticket i k = if s.gt < x.deadline then x
      else if x.st = .fetching then { x with st := .dying, reason := .expired }
      else if x.st = .ready then { x with st := .free, reason := .expired } else x)

/-- R203 to R205, R207, R219, R220, R335 to R337, R420: the oldest request of a plate's walk queue ends with the plate TLB's entry where
that holds its page, and else takes a free walker; a walk that ends, once the home slices have taken its reads, puts the entry into the
TLBs of every core that joined it or asked for it, of their nodes and of their plate, or sends its fault to those who asked and leaves
those who joined it a note of it; a plate's controller removes what a TLBI covers from its TLBs at every level, from its notes and from
the faults that no one has taken yet, or for the cache kinds covered lines of its L1 caches; a plate is done once no access or pin
under a covered translation is left; the acknowledgement of all four lets STC fall; and the monitor's answer writes v4 and v5, that
of the identity service with the identity record (which code asks for it is the firmware's, assumption 30). -/
def Obligations.TranslationEvents : Prop :=
  ∀ (s : State) (id p k : Nat) (o : Op) (w : Walk) (kind asid root lo hi st : Nat) (pl : List Nat) (data : Vec),
    let taken := (s.walks.filter (fun w => w.2.plate == p && w.2.started)).length
    let held := heldBy (s.tlbPlate.at p []) w.part w.asid (w.root * 2 ^ 60 + w.va)
    let calm := ∀ y ∈ s.walks, y.2.plate = p → y.2.refused = true → s.now < y.2.till
    let next := (s.walkQueue p).head? = some (k, w) ∧ calm
    let r := s.walk w.asid w.world (w.root * 2 ^ 60 + w.va)
    let ended := fun (y : Slot) => { y with ldc := y.ldc - b2n o.ldc, stc := y.stc - b2n o.stc, board := y.board.filter (fun b => b.2 != id) }
    let cover : Cover := ⟨kind, o.part, asid, root, lo, hi⟩
    let gone := fun (e : TlbEntry) => cover.has e.part e.asid e.root e.va (e.va + 2 ^ e.lg) = true
    let tlbi := s.ops.look id = some o ∧ o.kind = .tlbi kind asid root lo hi pl
    let entry := fun (pte lg : Nat) => ({ part := w.part, asid := w.asid, root := w.root, va := w.va / 2 ^ lg * 2 ^ lg, lg := lg, pte := pte } : TlbEntry)
    let cores := fun (c : Nat) => (∃ j ∈ w.joined, j.1.core = c) ∨ (∃ a ∈ w.askers, a.1 = c) ∨
      (∃ g ∈ w.guests, ∃ x, s.guests.look g = some x ∧ x.home = c)
    let fills := fun (t : State) (e : TlbEntry) => ∀ c, cores c → e ∈ t.tlbL1.at c [] ∧ e ∈ t.tlbNode.at (nodeOf (s.phys c)) []
    let noted := fun (t : State) (q : TaskRef) (cause lg : Nat) => ∃ m ∈ (t.slot q.core q.slot).notes,
      m = { part := w.part, asid := w.asid, root := w.root, cause := cause, lo := w.va / 2 ^ lg * 2 ^ lg, hi := (w.va / 2 ^ lg + 1) * 2 ^ lg }
    let forbidden := fun (pte : Nat) (sup : Bool) => pte.testBit 3 = false ∨ pte.testBit 6 = true ∧ sup = false
    let notes := fun (t : State) => (∀ c n, t.slot c n = { s.slot c n with notes := (t.slot c n).notes }) ∧
      (∀ c n m, corePlate c = p → (m ∈ (t.slot c n).notes ↔ m ∈ (s.slot c n).notes ∧ cover.has m.part m.asid m.root m.lo m.hi = false)) ∧
      (∀ c n, corePlate c ≠ p → t.slot c n = s.slot c n)
    let asksBack := fun (t : State) (e : Instr) => ∃ l, t.due = s.due.erase e ++ l ++ w.guests.map .guestWalkDone ∧ ∀ e ∈ l, ∃ i n, e = .fillArrival i n
    (next → held = none → 64 ≤ taken → Waits (.walkStart p) s) ∧
    (∀ e, next → held = some e → ∃ t, exec (.walkStart p) s = .next t ∧ t.walks = s.walks.drop k ∧ BytesKept (fun _ => False) s t ∧
      t.due = s.due.erase (.walkStart p) ++ w.guests.map .guestWalkDone ∧ fills t (entry e.pte e.lg) ∧ t.walkFaults = s.walkFaults) ∧
    (next → held = none → taken < 64 →
      Does (.walkStart p) (fun u => { u with walks := u.walks.set k { w with started := true }, due := u.due ++ [.walkCompletion k] }) s) ∧
    (calm → s.walkQueue p = [] → (∃ y ∈ s.walks, y.2.plate = p ∧ y.2.refused = true) → Waits (.walkStart p) s) ∧
    (s.walkQueue p = [] → (∀ y ∈ s.walks, y.2.plate = p → y.2.refused = false) → Does (.walkStart p) (fun u => u) s) ∧
    (s.walks.look k = some w → (s.touchWalk w.part w.asid w.world (w.root * 2 ^ 60 + w.va)).1 = false →
      ∃ t, exec (.walkCompletion k) s = .next t ∧ t.walks = s.walks ∧ (∀ e ∈ s.due, e ∈ t.due) ∧ BytesKept (fun _ => False) s t) ∧
    (s.walks.look k = some w → (s.touchWalk w.part w.asid w.world (w.root * 2 ^ 60 + w.va)).1 = true →
      ∃ t, exec (.walkCompletion k) s = .next t ∧ t.walks = s.walks.drop k ∧ BytesKept (fun _ => False) s t ∧ asksBack t (.walkCompletion k) ∧
      (∀ code lg, r = .error (code, lg) →
        (∀ j ∈ w.joined, s.alive j.1 = true → noted t j.1 code lg) ∧ t.tlbL1 = s.tlbL1 ∧ t.tlbNode = s.tlbNode ∧ t.tlbPlate = s.tlbPlate ∧
        (∀ f, f ∈ t.walkFaults ↔ f ∈ s.walkFaults ∨ ∃ who, ((∃ a ∈ w.askers, a.2 = who) ∨ ∃ g ∈ w.guests, Asker.guest g = who) ∧
          f = { who := who, part := w.part, asid := w.asid, root := w.root, page := w.va / 65536, code := code })) ∧
      (∀ pte lg, r = .ok (pte, lg) → fills t (entry pte lg) ∧ t.walkFaults = s.walkFaults ∧
        (∀ c, cores c → entry pte lg ∈ t.tlbPlate.at (corePlate (s.phys c)) []) ∧
        (∀ j ∈ w.joined, s.alive j.1 = true → forbidden pte j.2 → noted t j.1 12 lg) ∧
        ((∀ j ∈ w.joined, ¬ forbidden pte j.2) → ∀ c n, t.slot c n = s.slot c n))) ∧
    (tlbi → s.mayStart id o.task true true = true → kind ≠ 2 → kind ≠ 3 → ∃ t, exec (.tlbiControllerRequest id p) s = .next t ∧
      (∀ c e, corePlate (s.phys c) = p → (e ∈ t.tlbL1.at c [] ↔ e ∈ s.tlbL1.at c [] ∧ ¬ gone e)) ∧
      (∀ c, corePlate (s.phys c) ≠ p → t.tlbL1.at c [] = s.tlbL1.at c []) ∧
      (∀ n e, corePlate (4 * n) = p → (e ∈ t.tlbNode.at n [] ↔ e ∈ s.tlbNode.at n [] ∧ ¬ gone e)) ∧
      (∀ n, corePlate (4 * n) ≠ p → t.tlbNode.at n [] = s.tlbNode.at n []) ∧
      (∀ e, e ∈ t.tlbPlate.at p [] ↔ e ∈ s.tlbPlate.at p [] ∧ ¬ gone e) ∧
      notes t ∧
      (∀ f, f ∈ t.walkFaults ↔ f ∈ s.walkFaults ∧ cover.bytes f.part f.asid (f.root * 2 ^ 60 + f.page * 65536) 65536 = false) ∧
      t.due = s.due.erase (.tlbiControllerRequest id p) ++ [.tlbiPlateDone id p] ∧ BytesKept (fun _ => False) s t) ∧
    (tlbi → s.mayStart id o.task true true = true → kind = 2 ∨ kind = 3 → ∃ t, exec (.tlbiControllerRequest id p) s = .next t ∧
      t.tlbL1 = s.tlbL1 ∧ t.tlbNode = s.tlbNode ∧ t.tlbPlate = s.tlbPlate ∧ t.walkFaults = s.walkFaults ∧ notes t ∧
      (kind = 3 → t.dLines = s.dLines ∧ t.iLines = s.iLines) ∧
      (kind = 2 → (∀ l, l ∈ t.dLines ↔ l ∈ s.dLines ∧ ¬ (corePlate l.core = p ∧ cover.bytes l.part l.asid (l.va / 128 * 128) 128 = true)) ∧
        (∀ l, l ∈ t.iLines ↔ l ∈ s.iLines ∧ ¬ (corePlate l.core = p ∧ cover.bytes l.part l.asid (l.va * 128) 128 = true))) ∧
      (∀ n l, l ∈ (t.slice n).lines ↔ ∃ x ∈ (s.slice n).lines, l = match x.owner with
        | some (c, _) => if corePlate c = p ∧ cover.bytes x.ownPart x.ownAsid (x.ownVa / 128 * 128) 128 = true
          then { x with owner := none, dirty := true } else x
        | none => x) ∧
      t.due = s.due.erase (.tlbiControllerRequest id p) ++ [.tlbiPlateDone id p] ∧ BytesKept (fun _ => False) s t) ∧
    (tlbi → s.mayStart id o.task true true = false → Waits (.tlbiControllerRequest id p) s) ∧
    (tlbi → s.covered p cover = false → pl.contains p = false →
      Does (.tlbiPlateDone id p) (fun u => { u with ops := u.ops.set id { o with kind := .tlbi kind asid root lo hi (pl ++ [p]) },
                                                    due := u.due ++ (if 3 ≤ pl.length then [.tlbiAck id] else []) }) s) ∧
    (tlbi → kind ≠ 2 → kind ≠ 3 → s.covered p cover = true → Waits (.tlbiPlateDone id p) s) ∧
    (tlbi → 4 ≤ pl.length → s.mayStart id o.task true true = true → s.alive o.task = true →
      Does (.tlbiAck id) (fun u => ({ u with ops := u.ops.drop id } : State).updSlot o.task.core o.task.slot ended) s) ∧
    (∀ n v, s.ops.look id = some o → o.kind = .wcall n v → s.alive o.task = true →
      Does (.wcallAnswer id st data) (fun u => ({ u with ops := u.ops.drop id } : State).updSlot o.task.core o.task.slot
        (fun y => (ended y).land (fun a => if n = Config.identityService
          then (a.setVec 4 (BitVec.ofNat 1024 (leNat s.ident))).setScalar 5 0 else (a.setVec 4 data).setScalar 5 (st % 4)))) s)

/-- R167 to R171, R175, R315: a guest packet enters the queue of its home big core where an entry is free, oldest first within
its node; the guest at the head executes, in every form that a little core ships, with the operands, guard and rounding mode that it
carries, and its result is under way: a CAS128 performs its one access (or stands aside for its page walk), and a matrix command whose
checks pass enters the matrix unit, with its result under way at once, or, where a row comes back, once it is done; a guest that stood
aside goes back to the head; the result is committed with the carry-ahead window, or its fault is taken; and a done notice lets MXC
fall. -/
def Obligations.GuestEvents : Prop :=
  ∀ (s : State) (k c : Nat) (g : Guest), s.guests.look k = some g →
    let x := s.slot g.task.core g.task.slot
    let first := ∀ e ∈ s.guests, e.1 < k → e.2.place = 0 → nodeOf e.2.task.core ≠ nodeOf g.task.core
    let mine := s.alive g.task = true ∧ x.dataError = none ∧ ∃ sh, x.ship = some sh ∧ sh.id = k
    let issue := Instr.guestIssue c
    let rm := Rm.ofCode g.rm
    let leaves := fun (h : Guest) (r : List Nat) (u : State) => u.guests.look k = some h ∧ h.place = 4 ∧ h.fault = g.fault ∧
      (u.core c).big.guests = r ∧ u.due = s.due.erase issue ++ [.guestResult k] ∧ BytesKept (fun _ => False) s u
    let setAside := ∃ u h, exec issue s = .next u ∧ u.guests.look k = some h ∧ h.place = 2 ∧ ∃ n y, u.walks.look n = some y ∧ k ∈ y.guests
    (g.place = 0 → first → s.entryFree g.home (nodeOf g.task.core) = true →
      Does (.guestPacketArrival k) (fun u => (({ u with guests := u.guests.set k { g with place := 1 } } : State).updCore g.home (fun b =>
        { b with big := { b.big with guests := b.big.guests ++ [k] } })).push (.guestIssue g.home)) s) ∧
    (g.place = 0 → s.entryFree g.home (nodeOf g.task.core) = false → Waits (.guestPacketArrival k) s) ∧
    (∀ r, (s.core c).big.guests = k :: r → ∀ (q : BitVec 4) (d a b o : BitVec 6) (t part src cc p e : BitVec 3),
      let f := Fmt.ofCode t.toNat
      let x := fun j => elem g.a.v f.w j
      let y := fun j => elem g.b.v f.w j
      let z := fun j => elem g.d.v f.w j
      let v : VecIn := ⟨g.a.v, g.b.v, g.d.v, g.guard, rm⟩
      let runs := fun (i : Instr) (f : Nat → FRes) => decode g.word = .ok i →
        let w := (Fmt.ofCode t.toNat).w
        ∃ u h, exec issue s = .next u ∧ leaves h r u ∧
          h.flags = (List.range (1024 / w)).foldl (fun z j => if enabled g.guard w j then z ||| (f j).flags else z) 0 ∧
          ∀ j, j < 1024 / w → elem h.res w j = if enabled g.guard w j then (f j).bits % 2 ^ w else elem g.d.v w j
      let gives := fun (i : Instr) (r' : Vec × Flags) => decode g.word = .ok i →
        ∃ u h, exec issue s = .next u ∧ leaves h r u ∧ h.res = r'.1 ∧ h.flags = r'.2
      runs (.fadd q d a b t) (fun j => f.add rm (x j) (y j)) ∧ runs (.fsub q d a b t) (fun j => f.sub rm (x j) (y j)) ∧
      runs (.fmul q d a b t) (fun j => f.mul rm (x j) (y j)) ∧ runs (.fma q d a b t) (fun j => f.fma rm false (z j) (x j) (y j)) ∧
      runs (.fnma q d a b t) (fun j => f.fma rm true (z j) (x j) (y j)) ∧ runs (.fmin q d a b t) (fun j => f.minMax false (x j) (y j)) ∧
      runs (.fmax q d a b t) (fun j => f.minMax true (x j) (y j)) ∧ runs (.fminp q d a b t) (fun j => f.minp (x j) (y j)) ∧
      runs (.fscale q d a b t) (fun j => f.scale rm (x j) (sext (y j) f.w)) ∧ runs (.fdiv q d a b t) (fun j => f.div rm (x j) (y j)) ∧
      runs (.fsqrt q d a t) (fun j => f.sqrt rm (x j)) ∧ runs (.ftrans q d a o t) (fun j => f.trans o.toNat (x j)) ∧
      runs (.funop q d a o t) (fun j => funopElem f rm o.toNat (x j) (z j)) ∧
      gives (.fcvt q d a part t src) (valFcvt part t src (if prsOf g.pfxT = 0 then none else some (recordBound g.prec t.toNat)) v) ∧
      gives (.i2f q d a part src t) (valI2f part src t v) ∧ gives (.f2i q d a part t src) (valF2i part t src v) ∧
      gives (.fred q d a o t) (valFred t o.toNat v) ∧ gives (.fscan q d a t) (valFscan t v) ∧
      (decode g.word = .ok (.fcmp q cc p e a b t) → ∃ u h, exec issue s = .next u ∧ leaves h r u ∧
        h.flags = (if (List.range (1024 / f.w)).any (fun j => enabled g.guard f.w j && (f.compare cc.toNat (x j) (y j)).2) then Flags.nv else 0) ∧
        ∀ j, j < 1024 / f.w → enabled g.guard f.w j = true → h.res.getLsbD j = (f.compare cc.toNat (x j) (y j)).1) ∧
      (decode g.word = .ok (.xatom q d a b t) →
        let at_ := g.a.cap.addr.toNat
        let req : Req := { x := at_, n := 16, align := 16, perms := [.ld, .st], rd := true, wr := true, keepTag := g.d.tag && g.a.cap.has .cst }
        let s0 := (s.did issue).updCore c (fun b => { b with big := { b.big with guests := r } })
        let aside := s0.asideFor k g g.casWalk
        let checked := aside.2.checkAccess (g.access k) g.a.tag g.a.cap req
        (aside.1 ≠ none → setAside) ∧ (∀ w, aside.1 = none → checked = (.error notYet, w) → setAside) ∧
        (∀ pl w, aside.1 = none → checked = (.ok pl, w) →
          s.guardedFrom g.task.core (some g.task) pl.key 16 true true = false → s.badAt pl.key 16 = false →
          (if pl.isLocal then (s.accessBank pl.key).isSome = true else (s.slice (sliceId pl.key)).misses.length < 64) →
          let old := s.readMem pl.key 16
          let swaps := old = elem g.b.v 128 0 ∧ s.tagAt pl.key = g.b.tag
          ∃ u h, exec issue s = .next u ∧ u.guests.look k = some h ∧ h.place = 4 ∧ h.fault = g.fault ∧ Instr.guestResult k ∈ u.due ∧
            (u.core c).big.guests = r ∧
            h.res = BitVec.ofNat 1024 old ∧ h.resTag = (s.tagAt pl.key && (g.a.cap.has .cld && pl.tags)) ∧
            ∀ b, keyIsView b = false → u.byte b = (if swaps then s.store pl.key 16 (elem g.d.v 128 0) else s).byte b) ∧
        (∀ code w, aside.1 = none → checked = (.error code, w) → code ≠ notYet →
          ∃ u h, exec issue s = .next u ∧ u.guests.look k = some h ∧ h.place = 4 ∧ h.fault = some (code, at_, 0) ∧ Instr.guestResult k ∈ u.due))) ∧
    (∀ r i, (s.core c).big.guests = k :: r → decode g.word = .ok i → isMtx i = true →
      let s0 := (s.did issue).updCore c (fun b => { b with big := { b.big with guests := r } })
      let cmd := g.cmd k
      let enters := fun (u : State) (place : Nat) (m : MtxCmd) => u.guests.look k = some { g with place := place } ∧
        (∃ n, u.cmds.look n = some { m with admitted := ((u.cmds.look n).map (·.admitted)).getD false } ∧ n ∈ u.mtxq.at g.home []) ∧
        Instr.matrixCommandStart g.home ∈ u.due ∧ (place = 4 → Instr.guestResult k ∈ u.due)
      ((s0.asideFor k g (s0.mtxWalks k g)).1 ≠ none → setAside) ∧
      ((s.core g.home).big.deferred = true → ∃ u, exec issue s = .next u ∧ enters u 3 cmd) ∧
      ((s.core g.home).big.deferred = false → s.mtxForm cmd = none → (∀ o ∈ cmd.operands, recSpace o.r ≠ 0) →
        (∀ o ∈ cmd.operands, s.bookOk cmd o = true) →
        ∃ u, exec issue s = .next u ∧ enters u (if cmd.rowTo.isSome then 3 else 4) { cmd with pins := [], checked := true }) ∧
      (∀ f, (s.core g.home).big.deferred = false → s.mtxForm cmd = some f →
        ∃ u h, exec issue s = .next u ∧ u.guests.look k = some h ∧ h.place = 4 ∧ h.fault = some (f.2.1, f.2.2, 0) ∧ Instr.guestResult k ∈ u.due)) ∧
    (g.place = 2 → Does (.guestWalkDone k) (fun u => (({ u with guests := u.guests.set k { g with place := 1 } } : State).updCore
      g.home (fun b => { b with big := { b.big with guests := k :: b.big.guests } })).push (.guestIssue g.home)) s) ∧
    (∀ i sh, decode g.word = .ok i → g.place = 4 → g.fault = none → mine → x.ship = some sh →
      ∃ t u, exec (.guestResult k) s = .next t ∧ t.slot g.task.core g.task.slot = u ∧ u.ship = none ∧
        u.board = x.board.filter (fun b => b.2 != k) ∧
        (isMtx i = false → t.guests = s.guests.drop k ∧ u.arch.sr = x.arch.sr ||| (sh.raised ||| g.flags).setWidth 64 <<< 3 ∧
          (t.core g.task.core).flagAcc.at x.part 0 = (s.core g.task.core).flagAcc.at x.part 0 ||| sh.raised ||| g.flags) ∧
        (isMtx i = true → t.guests = s.guests.set k { g with place := 5 } ∧ u.arch.sr = x.arch.sr ||| sh.raised.setWidth 64 <<< 3) ∧
        (∀ (q : BitVec 4) (n : BitVec 5) (d a b o : BitVec 6) (t part src cc p e : BitVec 3),
          let takes := fun (reg : Reg) => (∀ r, u.arch.reg r = (x.arch.setReg d.toNat reg).reg r) ∧ ∀ p, u.arch.pred p = x.arch.pred p
          (i ∈ [Instr.fadd q d a b t, .fsub q d a b t, .fmul q d a b t, .fma q d a b t, .fnma q d a b t, .fmin q d a b t, .fmax q d a b t,
              .fminp q d a b t, .fscale q d a b t, .fdiv q d a b t, .fsqrt q d a t, .ftrans q d a o t, .funop q d a o t, .fcvt q d a part t src,
              .i2f q d a part src t, .f2i q d a part t src, .fred q d a o t, .fscan q d a t] → takes { v := g.res, tag := false }) ∧
          (i = .xatom q d a b t → takes { v := g.res, tag := g.resTag }) ∧
          (i = .mtxAccmv q n d b → (scalarOf g.b.v).testBit 8 = false → takes { v := g.res, tag := false }) ∧
          (i = .mtxAccmv q n d b → (scalarOf g.b.v).testBit 8 = true → (∀ r, u.arch.reg r = x.arch.reg r) ∧ ∀ p, u.arch.pred p = x.arch.pred p) ∧
          (i ∈ [Instr.mtxMma q n a b, .mtxMmaz q n a b, .mtxAccld q n a, .mtxAccst q n a, .mtxCodeb q n, .mtxAccq q n a, .mtxAccfree q n] →
            (∀ r, u.arch.reg r = x.arch.reg r) ∧ ∀ p, u.arch.pred p = x.arch.pred p) ∧
          (i = .fcmp q cc p e a b t → (∀ r, u.arch.reg r = x.arch.reg r) ∧
            (∀ r, r ≠ p.toNat → r ≠ e.toNat → u.arch.pred r = x.arch.pred r) ∧
            ∀ j, j < 64 →
              let w := (Fmt.ofCode t.toNat).w
              (p ≠ 7 → p ≠ e → (u.arch.pred p.toNat).getLsbD j =
                comparedBit (modeOf g.pfxC) w g.guard (x.arch.pred p.toNat) (fun l => g.res.getLsbD l) j) ∧
              (e ≠ 7 → (u.arch.pred e.toNat).getLsbD j =
                comparedBit (modeOf g.pfxC) w g.guard (x.arch.pred e.toNat) (fun l => !g.res.getLsbD l) j)))) ∧
    (∀ i code tval qual sh, decode g.word = .ok i → g.place = 4 → g.fault = some (code, tval, qual) → mine → x.ship = some sh →
      sh.popped = [] → Does (.guestResult k) (fun u => (({ u with guests := u.guests.drop k } : State).setSlot g.task.core g.task.slot
        { x with arch := sh.saved, ship := none, board := x.board.filter (fun b => b.2 != k), mxc := x.mxc - b2n (isMtx i) }).enterTrap
          g.task.core g.task.slot code tval qual true sh.count sh.tpc) s) ∧
    (g.place = 5 → s.alive g.task = true → ∃ t, exec (.doneNotice k) s = .next t ∧ t.guests = s.guests.drop k ∧
      (t.core g.task.core).flagAcc.at x.part 0 = (s.core g.task.core).flagAcc.at x.part 0 ||| g.flags ∧
      t.slot g.task.core g.task.slot = ({ x with mxc := x.mxc - 1 } : Slot).land (fun a => { a with sr := a.sr ||| g.flags.setWidth 64 <<< 3 })) ∧
    (g.place ≠ 5 → Waits (.doneNotice k) s)

/-! ## Events: messages, handlers and engines -/

/-- R128, R143, R144, R154 to R158, R351 to R355, R363: a route ends at its target, and uses the channels in ascending
rank; a packet leaves its source on that way, behind the earlier ones to its target, crosses one link
after the other, and is held at its source while its target moves; one to another device takes its pair's port and is answered as
R158 allows; a message is decided at its target by the entry's GC, mode, context, world,
halt and room, and the answer is on its way; a dropped packet's NACK makes its source wait before it sends again; an answer
ends the packet, frees its copy, writes its status word and lets STC fall; a refused message of a message launch is sent again,
with a new copy, unless the launch stops (R412). The world of an entry, and which bound tasks count as ended, are the model's
choice (assumption 94), as is that a card is accepted whatever its packet's GC says (assumption 99) and that STALE of the link
front end counts in no RCVD (assumption 104). -/
def Obligations.MessageEvents : Prop :=
  (∀ a b : Router, a.plate < 4 → a.x < 32 → a.y < 24 → a.z < 2 → b.plate < 4 → b.x < 32 → b.y < 24 → b.z < 2 →
    (a :: route a b).getLast? = some b ∧ (channels a (route a b)).Pairwise (· ≤ ·) ∧ (a.plate ≠ b.plate → ∀ r ∈ route a b, r.z = 0 ∨ r = b)) ∧
  ∀ (s : State) (id : Nat) (p : Packet), s.packets.look id = some p →
    let c := bits p.target 49 36
    let ch := bits p.target 12 8
    let h := s.handler c ch
    let arrive := Instr.messageArrival id
    let word := fun (st gen q : Nat) => st * 2 ^ 48 + gen * 2 ^ 32 + min q 255 * 2 ^ 24 + min p.retries 255 * 2 ^ 16
    let answered := fun (ev : Instr) (t : State) (w : Nat) => t.packets.look id = some { p with answer := some w } ∧
      t.due = s.due.erase ev ++ [.answerArrival id] ∧ (t.core c).rcvd.at p.msg.lid 0 = ((s.core c).rcvd.at p.msg.lid 0 + 1) % 2 ^ 32
    let decides := fun (st q : Nat) => ∃ t, exec arrive s = .next t ∧ answered arrive t (word st h.gen q) ∧ BytesKept (fun _ => False) s t ∧
      (∀ c n, t.slot c n = s.slot c n) ∧ ∀ c n, t.handler c n = s.handler c n
    let moving := p.answer = none ∧ p.nacked = false
    let here := moving ∧ s.enroute id p = none ∧ s.behind id p = false ∧ s.maySend id p = true ∧ bits p.target 59 50 = s.table.devnum
    let mine := bits p.target 59 50 = s.table.devnum ∧ p.msg.src / 2 ^ 14 = s.table.devnum
    let leaves := bits p.target 59 50 ≠ s.table.devnum ∧ p.msg.src / 2 ^ 14 = s.table.devnum
    let goal := s.phys c
    let from_ := routerOf (s.phys (p.msg.src % 2 ^ 14))
    let back : Packet := { p with nacked := true, remap := false, ready := s.now + (match p.at_ with
      | some (_, r) => (route r from_).length
      | none => 0) * meshLen }
    let travels := if p.kind = 3 then Instr.engineCardArrival id else arrive
    let wait := fun (n j : Nat) => (32 * 2 ^ (min n 8 - 1) + j) * cycleLen (coreX (s.phys (p.msg.src % 2 ^ 14)))
    let arrives := p.kind ≠ 3 ∧ here ∧ s.admits c false ch p.msg = true
    let good := arrives ∧ (p.gc = true → p.gen = h.gen) ∧ h.mode ≠ 0 ∧ s.abortedEntry c h = false ∧ h.ctx = p.msg.ctx ∧ (s.ctx h.ctx).s = p.msg.world
    let full := s.haltedCtx h.ctx = true ∨ 8 ≤ h.mail.length
    let local_ := p.msg.src / 2 ^ 14 = s.table.devnum
    let stops := fun (l : Nat) => s.stopping (some l) = true
    let freed := fun (u : State) => u.updCore p.source (fun k => { k with retx := k.retx.erase id })
    let gone := fun (l : Nat) (u : State) => (freed { u with packets := u.packets.drop id }).pushOnce (.launchMessageSend l)
    (moving → mine → p.at_ = none → s.holdsBack id p = false → s.waitsBehind id p = false → exec travels s = .next { s with packets := s.packets.set id { p with
      at_ := some (from_, from_), path := route from_ (routerOf goal), goal := goal, ready := s.now } }) ∧
    (moving → mine → p.at_ = none → s.holdsBack id p = true ∨ s.waitsBehind id p = true → Waits travels s) ∧
    (moving → leaves → p.via = none → ∀ port, s.portTo p.device p.source p.core = some port → s.waitsBehind id p = true → Waits travels s) ∧
    (moving → leaves → p.via = none → ∀ port, s.portTo p.device p.source p.core = some port → s.waitsBehind id p = false →
      exec travels s = .next { s with packets := s.packets.set id { p with via := some port } }) ∧
    (moving → leaves → p.via ≠ none ∨ s.portTo p.device p.source p.core = none → s.behind id p = false → s.maySend id p = true →
      (s.table.podsz ≤ p.device ∨ s.routes.at p.device [] = [] → Does travels (fun u => { u with
        packets := u.packets.set id { p with answer := some (word 2 0 0) }, due := u.due ++ [.answerArrival id] }) s) ∧
      (p.device < s.table.podsz → s.routes.at p.device [] ≠ [] → ∃ t, exec travels s = .next t ∧
        (p.kind = 2 ∧ t.packets.look id = some back ∧ Instr.nackArrival id ∈ t.due ∨
          ∃ st gen q, t.packets.look id = some { p with answer := some (word st gen q) } ∧ Instr.answerArrival id ∈ t.due ∧
            (st = 0 ∧ 1 ≤ q ∨ st = 1 ∧ p.kind ≠ 2 ∨ st = 2 ∨ st = 3 ∧ p.kind ≠ 3 ∧ 128 < p.msg.len) ∧
            (p.kind = 3 → gen = 0 ∧ q ≤ 32) ∧ (p.kind ≠ 3 → q ≤ 16) ∧ (p.kind ≠ 3 → p.gc = true → st ≠ 2 → gen = p.gen)))) ∧
    (moving → mine → ∀ x r n l, p.at_ = some (x, r) → p.ready ≤ s.now → p.path = n :: l →
      (p.escape = true ∧ s.slotTaken id p (r, n) = true → Waits travels s) ∧
      (¬ (p.escape = true ∧ s.slotTaken id p (r, n) = true) → exec travels s = .next { s with packets := s.packets.set id { p with
        at_ := some (r, n), path := l, ready := s.now + crossing r n * meshLen } })) ∧
    (arrives → p.gc = true → p.gen ≠ h.gen → ∃ q, decides 2 q) ∧
    (arrives → h.mode = 0 ∨ s.abortedEntry c h = true ∨ h.ctx ≠ p.msg.ctx ∨ (s.ctx h.ctx).s ≠ p.msg.world → ∃ q, decides 2 q) ∧
    (good → h.mode = 1 → s.portTask c ch = none → full → p.kind ≠ 2 → decides 1 h.mail.length) ∧
    (good → h.mode = 1 → s.portTask c ch = none → full → p.kind = 2 → Does arrive (fun u => { u with
      packets := u.packets.set id back, due := u.due ++ [.nackArrival id] }) s) ∧
    (good → h.mode = 1 → s.portTask c ch = none → ¬ full → ∃ t, exec arrive s = .next t ∧ t.packets.look id = some { p with answer := some (word 0 h.gen (h.mail.length + 1)) } ∧
      t.handler c ch = { h with mail := h.mail ++ [p.msg], since := if h.mail = [] then s.now else h.since } ∧
      (∀ k, k ≠ ch → t.handler c k = s.handler c k) ∧ Instr.taskSelection c ∈ t.due ∧ Instr.answerArrival id ∈ t.due) ∧
    (good → h.mode = 2 → s.portTask c ch = none → decides 2 0) ∧
    (∀ n q, good → h.mode = 2 → s.portTask c ch = some (n, q) →
      let f := (s.slot c n).port q
      (128 < p.msg.len → decides 3 f.fifo.length) ∧
      (p.msg.len ≤ 128 → s.haltedCtx h.ctx = false → s.portRoom c f = true →
        ∃ t, exec arrive s = .next t ∧ answered arrive t (word 0 h.gen (f.fifo.length + 1)) ∧
          ((t.slot c n).port q).fifo = f.fifo ++ [{ v := BitVec.ofNat 1024 p.msg.body, tag := p.msg.tag0, lid := p.msg.lid }])) ∧
    (let n := bits p.target 9 8
      let e := engineId c n
      let ev := Instr.engineCardArrival id
      p.kind = 3 → here → s.admits c true 0 p.msg = true → (if isBig c then n ≤ 2 else n = 0) → s.haltedCtx p.msg.ctx = false →
      s.sendCards e < 16 → s.inboxLen e < 32 →
      let part := (s.ctx p.msg.ctx).part
      ∃ t, exec ev s = .next t ∧ t.packets.look id = some { p with answer := some (word 0 0 (s.inboxLen e + 1)) } ∧
        t.due = s.due.erase ev ++ [.jobStart s.serial, .answerArrival id] ∧
        t.jobs.look s.serial = some { id := s.serial, card := p.msg.card, engine := e, core := c, bySend := true,
                                      valid := n != 2 && s.cardValid ⟨c, p.msg.ctx, part, p.msg.world, false, .job 0⟩ p.msg, ctx := p.msg.ctx,
                                      part := part, world := p.msg.world, lid := p.msg.lid, launch := s.launchOf p.msg.lid }) ∧
    (moving → p.escape = false → p.at_ ≠ none ∨ p.via ≠ none → exec (.packetDiscard id) s = .next ({ s with
      packets := s.packets.set id back,
      due := (s.due.erase (.messageArrival id)).erase (.engineCardArrival id) ++ [.nackArrival id] })) ∧
    (moving → p.escape = true ∨ p.at_ = none ∧ p.via = none → Waits (.packetDiscard id) s) ∧
    (p.nacked = true → p.backoff = none → s.now < p.ready → Waits (.nackArrival id) s) ∧
    (p.nacked = true → p.backoff = none → p.ready ≤ s.now → p.remap = false → ∃ j, j < 32 ∧ Does (.nackArrival id) (fun u => { u with
      draws := s.draws + 1, due := u.due ++ [.backoffExpiry id],
      packets := u.packets.set id { p with
        retries := p.retries + 1, escape := decide (8 ≤ p.retries + 1), at_ := none, via := none, backoff := some (s.now + wait (p.retries + 1) j) } }) s) ∧
    (p.nacked = true → p.backoff = none → p.ready ≤ s.now → p.remap = true → Does (.nackArrival id) (fun u => { u with
      due := u.due ++ [travels], packets := u.packets.set id { p with nacked := false, remap := false, at_ := none } }) s) ∧
    (∀ w, p.backoff = some w → w ≤ s.now → p.answer = none → Does (.backoffExpiry id) (fun u => { u with
      packets := u.packets.set id { p with nacked := false, backoff := none, at_ := none, via := none },
      due := u.due ++ [travels] }) s) ∧
    (∀ w v l, p.backoff = some w → w ≤ s.now → p.answer = some v → p.launchMsg = some l → p.kind ≠ 3 → local_ →
      (stops l → Does (.backoffExpiry id) (fun u => gone l u) s) ∧
      (¬ stops l → 32 ≤ (s.core p.source).retx.length → Waits (.backoffExpiry id) s) ∧
      (¬ stops l → (s.core p.source).retx.length < 32 → ∃ t, exec (.backoffExpiry id) s = .next t ∧ arrive ∈ t.due ∧
        t.packets.look id = some { p with nacked := false, backoff := none, answer := none, at_ := none, via := none, retries := 0, escape := false } ∧
        (t.core p.source).retx = (s.core p.source).retx ++ [id])) ∧
    (∀ w, p.backoff = some w → s.now < w → Waits (.backoffExpiry id) s) ∧
    (∀ w r, p.answer = some w → p.backoff = none → p.queue = none → p.launchMsg = none → p.kind ≠ 2 → p.task = some r → s.alive r = true →
      p.msg.src = s.table.devnum * 2 ^ 14 + r.core → r.core < 2 ^ 14 →
      let x := s.slot r.core r.slot
      let y : Slot := { x with stc := x.stc - 1, board := x.board.filter (fun b => b.2 != id) }
      ∃ t, exec (.answerArrival id) s = .next t ∧ t.packets = s.packets.drop id ∧
        (t.core r.core).retx = (s.core r.core).retx.erase id ∧
        t.slot r.core r.slot = if p.kind = 0 then y else y.land (fun a => a.setScalar p.dest w)) ∧
    (∀ w l, p.answer = some w → p.backoff = none → p.queue = none → p.launchMsg = some l → bits w 63 48 = 1 → local_ → ¬ stops l →
      ∃ j, j < 32 ∧ Does (.answerArrival id) (fun u => { freed u with
        draws := s.draws + 1, due := u.due ++ [.backoffExpiry id],
        packets := u.packets.set id { p with
          refused := p.refused + 1, backoff := some (s.now + wait (p.refused + 1) j) } }) s) ∧
    (∀ w l, p.answer = some w → p.backoff = none → p.queue = none → p.launchMsg = some l → p.task = none → local_ →
      bits w 63 48 ≠ 1 ∨ stops l → Does (.answerArrival id) (fun u => gone l u) s) ∧
    (∀ w, p.answer = some w → p.backoff = none → p.queue ≠ none → local_ → Does (.answerArrival id) (fun u => { freed u with
      packets := u.packets.set id { p with arrived := true } }) s)

/-- R26, R122 to R125, R128, R130, R329, R365: the runnable entry of the highest effective priority makes a task of its oldest
message in an open slot, with its frame, its argument, its code and the launch of the message; the task issues once its bank
is cleared; waiting raises an entry's priority; a slice of a slice pair ends; and banks drowse, refresh and are gated. -/
def Obligations.TaskEvents : Prop :=
  ∀ (s : State) (c n k : Nat),
    let h := s.handler c k
    let x := s.slot c n
    let b := s.banks.at (16 * c + n) {}
    let len := cycleLen (coreX (s.phys c))
    let ended := x.readyAt - 64 * len
    let pair := (s.core c).big.pair
    let bank := fun (b : Bank) (u : State) => { u with banks := Sp.put {} u.banks (16 * c + n) b }
    (∀ m r code, s.selects c = some k → h.mail = m :: r → h.code = some code → ∃ t n, exec (.taskSelection c) s = .next t ∧ n ∈ s.openSlots c h.ctx ∧
      t.handler c k = { h with mail := r, aged := 0, since := s.now } ∧ (t.core c).lastSel = k ∧
      (let y := t.slot c n;
        y.phase = .clearing ∧ y.uid = s.serial ∧ y.arch.reg 3 = s.frameCap c n ∧ (∀ d, d ≠ 3 → y.arch.reg d = {}) ∧
        (∀ p, p ≠ 7 → y.arch.pred p = 0) ∧ y.arch.code = code ∧ y.arch.codeTag = true ∧ y.arch.pc = code.extractLsb' 0 64 ∧
        y.arch.sr = putBit (putBit 0 10 h.esup) 9 h.esec ∧ y.lid = m.lid ∧ y.ctxid = BitVec.ofNat 64 h.ctx ∧
        y.part = (s.ctx h.ctx).part ∧ y.heat = BitVec.ofNat 64 h.eheat ∧ y.launch = s.launchOf m.lid ∧ y.gangId = none ∧
        y.halted = s.haltedPart y.part ∧ 
        y.readyAt = (if (s.banks.at (16 * c + n) {}).st = .gated then max ((s.slot c n).readyAt + 32 * len) (s.now + 32 * meshLen + 64 * len)
          else (s.slot c n).readyAt)) ∧
      (∀ j, j < 256 → t.byte (localKey c 7 (0x10000 + 0x100 * n) + j) = BitVec.ofNat 8 (frameOf h k m / 2 ^ (8 * j))) ∧
      Instr.slotClearingEnd c n ∈ t.due) ∧
    (∀ m r, s.selects c = some k → h.mail = m :: r → h.code = none → ∃ t n, exec (.taskSelection c) s = .next t ∧ n ∈ s.openSlots c h.ctx ∧
      (t.slot c n).phase = .clearing ∧ (t.slot c n).uid = s.serial ∧ (t.slot c n).arch.codeTag = false) ∧
    (x.phase = .clearing → x.readyAt ≤ s.now → Does (.slotClearingEnd c n) (fun u => u.setSlot c n { x with phase := .live }) s) ∧
    (x.phase = .clearing → s.now < x.readyAt → Waits (.slotClearingEnd c n) s) ∧
    (h.mode = 1 → h.mail ≠ [] → exec (.handlerAging c k) s = .next (s.updHandler c k (fun h =>
      { h with aged := max h.aged ((s.now - h.since) / (4096 * len)) }))) ∧
    (b.st = .awake → b.refresh = false → (x.phase = .free ∧ ended + 1024 * meshLen ≤ s.now ∨
        x.phase ≠ .free ∧ x.wait ≠ none ∧ x.stalledAt + 1024 * meshLen ≤ s.now) → exec (.bankDrowsy c n) s = .next (bank { b with st := .drowsy } s)) ∧
    (b.st ≠ .gated → b.refresh = false → b.last + (if b.st = .drowsy then 2 ^ 14 else 2 ^ 15) ≤ s.gt → exec (.refreshDue c n) s = .next ({ bank { b with refresh := true } s with due := s.due ++ [.refreshEnd c n] })) ∧
    (Does (.refreshEnd c n) (bank { b with refresh := false, last := s.gt }) s) ∧
    (b.st = .drowsy → b.refresh = false → x.phase = .free → ended + 2 ^ 16 * meshLen ≤ s.now → s.bankLent c n = false →
      (s.core c).dark = none → (∀ p, (s.core c).part = some p → s.haltedPart p = false) →
      ∃ t, exec (.bankGated c n) s = .next t ∧ t.banks.at (16 * c + n) {} = { b with st := .gated } ∧
        (∀ j, j < 0x2000 → t.byte (localKey c 9 (0x2000 * n) + j) = 0) ∧
        BytesKept (fun k => localKey c 9 (0x2000 * n) ≤ k ∧ k < localKey c 9 (0x2000 * n) + 0x2000) s t) ∧
    (pair.slen = true → pair.since + 2 ^ pair.q ≤ s.gt → exec (.sliceEnd c) s =
      .next (s.updCore c (fun k => { k with big := { k.big with pair := { pair with inY := !pair.inY, since := s.gt } } })))

/-- R264, R266, R270 to R272, R277 to R280, R285, R286: an engine takes a job that may start, moves its elements, some at each
event, and at the end writes the status word and lets CPC fall, or hands its follow-on command to the matrix unit; a stage of
a loop copy is full once its elements are there and is filled anew once it is released; a granule leaves in one access, once it is
whole, or in part when the tile ends (R242, R264; that a granule meets no other access before it leaves, and how many elements an
event moves, are the model's: assumptions 66, 68); a stream's strips arrive in order, and wait while an element's storage or walk
makes them. A job whose engine's block belongs to the other world ends with ERR 4 (R413), at the address of its first element
(assumption 76). -/
def Obligations.EngineEvents : Prop :=
  ∀ (s : State) (id : Nat) (j : Job), s.jobs.look id = some j →
    let fails := fun (ev : Instr) (err at_ : Nat) => ∀ r, j.task = some r → s.alive r = true →
      Does ev (fun u => ({ u with jobs := u.jobs.drop id } : State).updSlot r.core r.slot (fun x =>
        ({ x with cpc := x.cpc - 1, mxc := x.mxc - (if j.card.kind = 3 then 1 else 0), board := x.board.filter (fun b => b.2 != id) } : Slot).land
          (fun a => a.setVec j.dest (BitVec.ofNat 1024 (({ j with err := err, errAt := at_ } : Job).statusWord s.gt))))) s
    let plain := j.running = true ∧ j.copied = false ∧ j.cancelled = false ∧ j.valid = true
    let whole := fun (e : Job) => (e.err ≠ 0 ∨ e.card.count ≤ e.pos) ∧ e.wbuf = []
    let moved := fun (n : Nat) (j : Job) => ({ s with draws := s.draws + 1 } : State).moveSome j (n + 1)
    (j.running = false → j.valid = true → j.cancelled = false → s.jobMayStart id j = true →
      Does (.jobStart id) (fun u => { u with
        jobs := u.jobs.set id { j with running := true, stages := List.replicate j.card.nstg .free },
        due := u.due ++ [if j.card.kind = 1 then .stageFilled id 0 else .jobCompletion id] }) s) ∧
    (j.running = true → j.copied = false → j.valid = false → fails (.jobCompletion id) 8 j.errAt) ∧
    (plain → j.card.kind ≠ 1 → s.foreignWorld j = true → fails (.jobCompletion id) 4 (s.firstTouch j)) ∧
    (j.running = true → j.card.kind = 1 → j.cancelled = false → s.foreignWorld j = true →
      ∀ st, j.iter % j.card.nstg = st → fails (.stageFilled id st) 4 (s.firstTouch j)) ∧
    (∀ wrld x n d, x % 16 + n ≤ 16 → 0 < n → keyIsView (x / 16 * 16) = false →
      let part := (j.wbuf.find? (fun b => b.far == false && b.at_ == x / 16)).getD { far := false, wrld := wrld, at_ := x / 16, mask := 0, data := 0 }
      let b := part.put (x % 16) n d
      let rest := j.wbuf.filter (fun b => !(b.far == false && b.at_ == x / 16))
      (∀ i, i < 16 → (b.mask.testBit i = true ↔ part.mask.testBit i = true ∨ x % 16 ≤ i ∧ i < x % 16 + n)) ∧
      (b.mask ≠ 0xFFFF → s.putJobBytes j false wrld x n d = some ({ j with wbuf := rest ++ [b] }, s)) ∧
      (∀ e t, b.mask = 0xFFFF → s.putJobBytes j false wrld x n d = some (e, t) → e.wbuf = rest ∧
        s.jobGuarded j.core j.task (x / 16 * 16) 16 true = false ∧
        (∀ i, i < 16 → t.byte (x / 16 * 16 + i) = BitVec.ofNat 8 (b.data / 2 ^ (8 * i))) ∧
        BytesKept (fun k => k / 16 = x / 16) s t)) ∧
    (j.running = true → j.copied = false → j.valid = true → j.cancelled = true → fails (.jobCompletion id) 7 0) ∧
    (plain → j.card.kind ≠ 1 → s.foreignWorld j = false → ∃ n,
      let e := (moved n j).1
      let u := (moved n j).2
      (¬ whole e → exec (.jobCompletion id) s = .next { u with jobs := u.jobs.set id e }) ∧
      (whole e → e.err ≠ 0 ∨ e.card.follow = none →
        exec (.jobCompletion id) s = .next ((({ u with jobs := u.jobs.set id e } : State).did (.jobCompletion id)).finishJob id e 0)) ∧
      (∀ m, e.err = 0 → whole e → e.card.follow = some m →
        ((u.mtxq.at m.core []).filter (fun k => (u.cmds.look k).any (fun q => q.admitted && !q.service))).length < 32 →
        ∃ t, exec (.jobCompletion id) s = .next t ∧ t.jobs.look id = some { e with copied := true } ∧
          t.cmds.look u.serial = some { m with job := some id, admitted := true, sender := j.task.map (fun r => (r, id)) } ∧ t.mtxq.at m.core [] = u.mtxq.at m.core [] ++ [u.serial])) ∧
    (∀ st, j.cancelled = false → j.running = true → j.iter % j.card.nstg = st → s.foreignWorld j = false → j.stages[st]? = some .full →
      Waits (.stageFilled id st) s) ∧
    (∀ st, j.cancelled = true → fails (.stageFilled id st) 7 0) ∧
    (∀ st, j.cancelled = false → j.running = true → j.iter % j.card.nstg = st → s.foreignWorld j = false → j.stages[st]? ≠ some .full → ∃ n,
      let e := (moved n { j with stages := j.stages.set st .filling }).1
      let u := (moved n { j with stages := j.stages.set st .filling }).2
      (¬ whole e → exec (.stageFilled id st) s = .next { u with jobs := u.jobs.set id e }) ∧
      (e.err = 0 → whole e → e.iter + 1 < e.card.iters → ∃ t, exec (.stageFilled id st) s = .next t ∧
        t.jobs.look id = some { e with stages := e.stages.set st .full, iter := e.iter + 1, pos := 0, rbuf := [] } ∧
        Instr.stageFilled id ((e.iter + 1) % e.card.nstg) ∈ t.due)) ∧
    (∀ k o st, s.ops.look k = some o → o.kind = .stageRelease (j.card.stageKey st) → o.answered = false → s.mayStart k o.task true o.release = true →
      s.jobs = [(id, j)] → j.running = true → j.card.kind = 1 → j.engine = engineId o.task.core 0 → j.ctx = o.ctx → st < j.card.nstg →
      j.stages[st]? = some .full → (∀ i, i < st → j.card.stageKey i ≠ j.card.stageKey st) → s.parked = [] →
      ∃ t, exec (.stageRelease k) s = .next t ∧ t.jobs.look id = some { j with stages := j.stages.set st .free } ∧
        t.ops.look k = some { o with answered := true } ∧ Instr.storeAcknowledgement k ∈ t.due) ∧
    (∀ c n q m, ((s.slot c n).port q).stream = some m → m.halted = false → m.next < m.total → s.portRoom c ((s.slot c n).port q) = true →
      s.issuerDone m.id (some ⟨c, n, (s.slot c n).uid⟩) ((m.strips m.next).map (fun e => ((e.2 : Int), ((e.2 + 2 ^ m.esz : Nat) : Int)))) [] = true →
      let r := s.stripOf { s.accessOf c n with who := .stream c n q } ⟨c, n, (s.slot c n).uid⟩ m (m.strips m.next) 0
      (r.1 = none → exec (.streamStripArrival c n q) s = .next r.2) ∧ ∀ f, r.1 = some f →
      ∃ t, exec (.streamStripArrival c n q) s = .next t ∧ ((t.slot c n).port q).fifo = ((s.slot c n).port q).fifo ++ [f] ∧
        ((t.slot c n).port q).stream = some { m with next := m.next + 1, halted := f.err.isSome } ∧
        (f.err = none → m.next + 1 < m.total → Instr.streamStripArrival c n q ∈ t.due))

/-- R299, R300, R305, R308, R311, R314, R315, R330, R331: the head of a big core's matrix inbox is decided: it executes, with
ownership taken where the accumulator is free, or the accumulator trap is entered in the service slot; once done, MXC falls
and its flags and row reach its task, in what a window or a deferred check would restore too; a command whose L2 lines are still
to be fetched is tried again (R302); a multiply adds its products to the accumulator, or starts it anew, ACCLD loads and ACCST and
ACCQ store it, ACCMV reads a row, and CODEB writes a codebook, each with its flags and marks (R300, R306 to R310); and a deferred
command's checks let its task go on, or are its fault. That a host context without a handler leaves the core stopped (assumption 119)
and what a command of the other world leaves (assumption 76) are the model's choices. -/
def Obligations.MatrixEvents : Prop :=
  ∀ (s : State) (id c : Nat) (m : MtxCmd) (q : List Nat), s.cmds.look id = some m → m.core = c → s.mtxq.at c [] = id :: q →
    let b := (s.core c).big
    let ready := m.running = false ∧ b.stopped = false ∧ (b.trapped = true → m.service = true) ∧ m.checked = true ∧
      s.foreignCmd m = false ∧ s.cmdMayStart id m = true
    let alone := ∀ k ∈ s.mtxq.at c [], ∀ w, s.cmds.look k = some w → w.admitted = true
    let start := Instr.matrixCommandStart c
    let u := if m.service then s.did start else (s.did start).installCtx c m.ctx m.part
    let code := (u.core c).big.code m.ctx m.part
    (ready → ∀ own req, u.decideCmd m = .trap own req → (u.core c).big.host.tvec = 0 →
      ∃ t, exec start s = .next t ∧ (t.core c).big.stopped = true ∧ t.cmds = s.cmds ∧ t.mtxq = s.mtxq ∧
        t.serviceStops = s.serviceStops ++ [(c, s.gt)]) ∧
    (ready → ∀ own req, u.decideCmd m = .trap own req → (u.core c).big.host.tvec ≠ 0 →
      ∃ t, exec start s = .next t ∧ (t.core c).big.trapped = true ∧ t.cmds = s.cmds ∧ t.mtxq = s.mtxq ∧ (t.slot c 8).uid = s.serial ∧
        (t.slot c 8).arch.reg 3 = serviceCap) ∧
    (ready → ∀ take n v, u.decideCmd m = .run take → u.fetchTile id m = (false, n, v) →
      exec start s = .next (({ v with cmds := v.cmds.set id { m with fetched := n } } : State).push start)) ∧
    (m.running = false → b.stopped = false → (b.trapped = true → m.service = true) → m.checked = true → s.foreignCmd m = true →
      ∃ row, Does start (fun u => { u with
        draws := s.draws + 1, due := u.due ++ [.matrixCommandDone id],
        cmds := u.cmds.set id { m with running := true, refused := true, row := row } }) s) ∧
    (ready → ∀ take n v, u.decideCmd m = .run take → u.fetchTile id m = (true, n, v) → m.n < 16 →
      let g := (v.core c).big
      let old := if take then 0 else g.accs.at m.n 0
      let poisoned := !take && g.poison.at m.n false
      let row := fun (r : Nat) => if poisoned then ofElems 32 (fun _ => Fmt.f32.nan) else accRow old r
      let marked := if poisoned then Flags.nv else (0 : Flags)
      let book := fun (o : Operand) => (g.books.look (recCbs o.r)).elim 0 (·.cb)
      let bad := m.operands.any (fun o => !o.wr && (v.operandBad m o).isSome)
      let stored := fun (o : Operand) (k : Nat) => ∃ x ∈ o.chunks, m.key (recSpace o.r) x ≤ k ∧ k < m.key (recSpace o.r) x + 32
      ∃ t m', exec start s = .next t ∧ Instr.matrixCommandDone id ∈ t.due ∧ t.cmds.look id = some m' ∧ m'.running = true ∧
        m'.task = m.task ∧ m'.rowTo = m.rowTo ∧ m'.bad = bad ∧ (∀ k, k ≠ m.n → k < 16 → (t.core c).big.accs.at k 0 = g.accs.at k 0) ∧
        (take = true → (t.core c).big.owner m.n = code % 16) ∧ (m.t ≠ 3 → m.t ≠ 6 → BytesKept (fun _ => False) s t) ∧
        (m.t = 3 ∨ m.t = 4 ∧ (scalarOf m.b.v).testBit 8 = false ∨ m.t = 5 ∨ m.t = 6 → (t.core c).big.accs.at m.n 0 = old) ∧
        (∀ x y, m.t ≤ 1 → m.operands = [x, y] →
          let dot := fun (i j : Nat) => dotBlock (if m.t = 1 then .fin false 0 0 else Fmt.f32.decode (elem (accRow old i) 32 j))
            ((List.range m.k).map (fun k => (v.operandElem m x (book x) i k).mul (v.operandElem m y (book y) j k)))
          (∀ i j, i < 32 → j < 32 → elem (accRow ((t.core c).big.accs.at m.n 0) i) 32 j = (dot i j).bits % 2 ^ 32) ∧
          (∀ f, (m'.flags.getLsbD f = true ↔ (f = 0 ∨ f = 2) ∧ ∃ i j, i < 32 ∧ j < 32 ∧ (dot i j).flags.getLsbD f = true)) ∧
          (t.core c).big.poison.at m.n false = (bad || m.t == 0 && poisoned)) ∧
        (∀ o, m.t = 2 → m.operands = [o] → (t.core c).big.poison.at m.n false = bad ∧ ∀ r, r < 32 →
          accRow ((t.core c).big.accs.at m.n 0) r = BitVec.ofNat 1024 (v.readMem (m.key (recSpace o.r) (recAddr o.r + r * recStride o.r)) 128)) ∧
        (∀ o, m.t = 3 → m.operands = [o] → m'.flags = marked ∧ BytesKept (stored o) s t ∧
          ∀ k, keyIsView k = false → t.byte k = (v.storeRows m o (fun r => (row r).toNat)).byte k) ∧
        (m.t = 4 → (scalarOf m.b.v).testBit 8 = false → m'.row = row (scalarOf m.b.v % 32) ∧ m'.flags = marked) ∧
        (∀ e, m.t = 5 → g.books.look m.n = some e → (t.core c).big.books.look m.n = some { e with cb := recordCodebook m.prec }) ∧
        (∀ o, m.t = 6 → m.operands = [o] →
          let dst := Fmt.ofCode m.fb
          let bound := if m.prs = 0 then dst.maxFinite else recordBound m.prec m.fb
          let q := fun (r j : Nat) => toFloat dst .rne (some bound) (Fmt.f32.decode (elem (row r) 32 j))
          BytesKept (stored o) s t ∧
          (∀ k, keyIsView k = false → t.byte k = (v.storeRows m o (fun r => packList dst.w ((List.range 32).map (fun j => (q r j).bits)))).byte k) ∧
          ∀ f, (m'.flags.getLsbD f = true ↔ f = 0 ∧ poisoned = true ∨ (f = 0 ∨ f = 2) ∧ ∃ r j, r < 32 ∧ j < 32 ∧ (q r j).flags.getLsbD f = true))) ∧
    (ready → m.t = 4 → (scalarOf m.b.v).testBit 8 = true → ∀ take, u.decideCmd m = .run take → ∃ t, exec start s = .next t ∧
      Instr.matrixCommandDone id ∈ t.due ∧ t.cmds.look id = some { m with running := true, fetched := 0, bad := false, badAt := 0 } ∧
      (∀ r, r < 32 → accRow ((t.core c).big.accs.at m.n 0) r = if r = scalarOf m.b.v % 32 then m.a.v
        else if take then 0 else accRow ((u.core c).big.accs.at m.n 0) r) ∧
      (take = true → m.n < 16 → (t.core c).big.owner m.n = code % 16)) ∧
    (ready → m.t = 7 → (u.core c).big.owner m.n = code → code ≠ 0 → m.n < 16 → ∃ t, exec start s = .next t ∧ (t.core c).big.owner m.n = 0 ∧
      (t.core c).big.accs.at m.n 0 = 0 ∧ Instr.matrixCommandDone id ∈ t.due) ∧
    (∀ r, m.running = true → m.task = some r → m.guest = none → m.job = none → s.alive r = true → alone →
      let x := s.slot r.core r.slot
      ∃ t, exec (.matrixCommandDone id) s = .next t ∧ t.cmds = s.cmds.drop id ∧ t.mtxq.at c [] = q ∧
        t.slot r.core r.slot = ({ x with mxc := x.mxc - 1, board := x.board.filter (fun b => b.2 != id) } : Slot).land (fun a =>
          let a := (match m.rowTo with
            | some d => a.setVec d m.row
            | none => a)
          { a with sr := a.sr ||| m.flags.setWidth 64 <<< 3 })) ∧
    (∀ r m' u, m.checked = false → m.task = some r → m.guest = none → s.alive r = true →
      (s.did (.deferredCheckDone id)).mtxCheck m = (.ok m', u) → ∃ t, exec (.deferredCheckDone id) s = .next t ∧ t.cmds.look id = some m' ∧
        Instr.matrixCommandStart m'.core ∈ t.due ∧ (m'.task = some r → (t.slot r.core r.slot).checking = none)) ∧
    (∀ step tval u, m.checked = false → (s.did (.deferredCheckDone id)).mtxCheck m = (.error (step, notYet, tval), u) →
      exec (.deferredCheckDone id) s = .next { u with due := u.due ++ [.deferredCheckDone id] }) ∧
    (∀ r step code tval u sh, m.checked = false → m.task = some r → code ≠ notYet →
      (s.did (.deferredCheckDone id)).mtxCheck m = (.error (step, code, tval), u) →
      let y := (u.leaveInbox id m).slot r.core r.slot
      y.checking = some sh → sh.popped = [] → y.dataError = none →
      exec (.deferredCheckDone id) s = .next (((u.leaveInbox id m).setSlot r.core r.slot { y with
        arch := sh.saved, checking := none, mxc := y.mxc - 1, board := y.board.filter (fun b => b.2 != id) }).enterTrap r.core r.slot code tval 0 false 0 sh.tpc))

/-! ## Events: gangs, launches and pod grids -/

/-- R122, R125, R132 to R134, R141, R144, R328, R357: a plate asks for at most 64 gangs and places each at an origin that R132
allows; its reservations are taken as slots become free, and once all hold, its deal messages go out; a reservation that has
waited 2^16 cycles is withdrawn, and its gang is placed elsewhere (an origin where it was withdrawn is not taken again while another
fits); a deal message creates its task; nothing is dealt while the partition is halted (R339), nor on a core before its migration
(R363); and the watchdog of a gang that has stood still ends it: time in which the gang is not stalled, or is
paused, does not count. The choice of a living task where task 0 has ended, the slots of a clipped gang, the clock of the
withdrawal and which of a core's slots is its slot c are the model's (assumptions 90 to 92, 108). -/
def Obligations.GangEvents : Prop :=
  ∀ (s : State) (id k plate : Nat) (l : Launch) (g : Gang), s.launches.look id = some l →
    let request := Instr.gangRangeRequest id plate
    let deals := l.root = .dealing ∧ l.reached.contains (16384 + plate) = false ∧ l.lr.kind = false ∧ bit l.lr.pmask plate = true
    let still := fun (g : Gang) => ∀ w ∈ g.wants, (s.core w.1).moving = false
    let place := fun (l : Launch) (n : Nat) (t : State) => ∃ o ∈ s.origins l.lr l.part plate n,
      let fits := l.elsewhere plate (s.origins l.lr l.part plate n)
      let free := (s.freeOrigins l.lr l.ctx l.part plate n).filter fits.contains
      o ∈ fits ∧ (free ≠ [] → o ∈ free) ∧
      t.due = s.due.erase request ++ [.gangPlacement id plate o.1 o.2] ∧ t.gangs = s.gangs ∧ t.cores = s.cores
    (deals → ∀ n stop, l.nextOf plate = some (n, stop) → s.origins l.lr l.part plate n ≠ [] →
      ∃ t, exec request s = .next t ∧ place l n t ∧ t.launches = s.launches) ∧
    (deals → l.nextOf plate = none → l.handed < l.total → l.aborting = false → l.draining = false → s.placing plate = true → Waits request s) ∧
    (deals → l.nextOf plate = none → l.handed < l.total → l.aborting = false → l.draining = false → s.placing plate = false → s.haltedPart l.part = false →
      s.freeOrigins l.lr l.ctx l.part plate l.handed ≠ [] →
      ∃ t n, exec request s = .next t ∧ 1 ≤ n ∧ n ≤ 64 ∧ place l l.handed t ∧
        t.launches.look id = some { l with ranges := l.ranges.filter (fun e => e.1 != plate) ++ [(plate, l.handed, l.handed + min n (l.total - l.handed))],
                                           handed := l.handed + min n (l.total - l.handed) }) ∧
    (∀ x y n stop, deals → l.nextOf plate = some (n, stop) → s.placing plate = false → s.haltedPart l.part = false →
      l.avoid.look plate = some (x, y) → (s.origins l.lr l.part plate n).erase (x, y) ≠ [] →
      Does (.gangPlacement id plate x y) (fun u => u.pushOnce request) s) ∧
    (∀ x y n stop q, deals → l.nextOf plate = some (n, stop) → s.placing plate = false → s.haltedPart l.part = false →
      s.withdrawnAt l plate n (x, y) = false → s.rectangle l.lr l.part plate x y (l.lr.tasksOf n) = some q →
      let ev := Instr.gangPlacement id plate x y
      ∃ t g, exec ev s = .next t ∧ t.gangs.look s.serial = some g ∧ g.launch = id ∧ g.gnum = n ∧ g.plate = plate ∧ g.place = (x, y) ∧ g.dealt = false ∧
        g.since = s.now ∧ g.wants = wantsOf l.lr plate x y (l.lr.tasksOf n) q ∧ g.darkCores = q.2 ∧ g.bar.e = (l.lr.tasksOf n).length ∧
        (∀ r ∈ g.reserved, r.2 ∈ s.reservable r.1 l.ctx) ∧
        t.launches.look id = some { l with ranges := l.ranges.filter (fun e => e.1 != plate) ++ [(plate, n + 1, stop)], avoid := l.avoid.drop plate } ∧
        t.due = s.due.erase ev ++ [.reservationComplete s.serial, .reservationWithdrawal s.serial] ∧ t.cores = s.cores) ∧
    (s.gangs.look k = some g → g.launch = id → g.dealt = false → s.haltedPart l.part = true ∨ (∃ w ∈ g.wants, (s.core w.1).moving = true) →
      Waits (.reservationComplete k) s) ∧
    (s.gangs.look k = some g → g.launch = id → g.dealt = false → s.haltedPart l.part = false → still g → (s.reserveMore g l.ctx).whole = false →
      exec (.reservationComplete k) s = .next { s with gangs := s.gangs.set k (s.reserveMore g l.ctx) }) ∧
    (s.gangs.look k = some g → g.launch = id → g.dealt = false → s.haltedPart l.part = false → still g → (s.reserveMore g l.ctx).whole = true →
      ∃ t g', exec (.reservationComplete k) s = .next t ∧ t.gangs.look k = some g' ∧ g'.dealt = true ∧
        g'.reserved = (s.reserveMore g l.ctx).reserved ∧ g'.toCreate = g.members.map (·.2.2) ∧
        g'.members.map (fun m => (m.1, m.2.2)) = g.members.map (fun m => (m.1, m.2.2)) ∧
        (∀ m ∈ g.members, Instr.dealMessage k m.2.2 ∈ t.due) ∧ (t.launches.look id).map (·.dealt) = some (l.dealt + 1) ∧
        (∀ c ∈ g.darkCores, (t.core c).dark = some k)) ∧
    (s.gangs.look k = some g → g.launch = id → g.dealt = false → s.now < g.since + 2 ^ 16 * cycleLen (coreX (s.columnCore g.plate g.place.1)) →
      Waits (.reservationWithdrawal k) s) ∧
    (s.gangs.look k = some g → g.launch = id → g.dealt = false → g.since + 2 ^ 16 * cycleLen (coreX (s.columnCore g.plate g.place.1)) ≤ s.now →
      ∃ t l', exec (.reservationWithdrawal k) s = .next t ∧ t.gangs = s.gangs.drop k ∧ t.cores = s.cores ∧ t.launches.look id = some l' ∧
        l'.ranges = l.ranges.filter (fun e => e.1 != g.plate) ++ [(g.plate, g.gnum, ((l.nextOf g.plate).map (·.2)).getD (g.gnum + 1))] ∧
        l'.avoid = l.avoid.set g.plate g.place ∧ Instr.gangRangeRequest id g.plate ∈ t.due) ∧
    (∀ c n i, s.gangs.look k = some g → g.launch = id → g.members.find? (fun m => m.2.2 == i) = some (c, n, i) → g.toCreate.contains i = true →
      s.haltedPart l.part = true ∨ (s.core c).moving = true → Waits (.dealMessage k i) s) ∧
    (∀ c n i, s.gangs.look k = some g → g.launch = id → g.members.find? (fun m => m.2.2 == i) = some (c, n, i) → g.toCreate.contains i = true →
      s.haltedPart l.part = false → (s.core c).moving = false → (l.aborting = true → l.reached.contains c = false) → ∃ t, exec (.dealMessage k i) s = .next t ∧
        (∀ d m, d ≠ c ∨ m ≠ n → t.slot d m = s.slot d m) ∧
        (t.core c).rcvd.at l.lid 0 = ((s.core c).rcvd.at l.lid 0 + 1) % 2 ^ 32 ∧
        t.gangs.look k = some { g with reserved := g.reserved.erase (c, n), toCreate := g.toCreate.erase i, alive := g.alive ++ [i] } ∧
        (t.launches.look id).map (·.tasks) = some (l.tasks + 1) ∧ Instr.slotClearingEnd c n ∈ t.due ∧
        let y := t.slot c n
        y.phase = .clearing ∧ y.uid = s.serial ∧ y.gangId = some k ∧ y.gti = i ∧ y.launch = some id ∧ y.lid = l.lid ∧
          y.ctxid = BitVec.ofNat 64 l.ctx ∧ y.tcoord = BitVec.ofNat 64 (l.lr.tcoord g.gnum i) ∧
          y.gang = BitVec.ofNat 64 (l.lid % 256 * 2 ^ 56 + 2 ^ 52 + (g.members.length - 1) % 1024 * 2 ^ 42 + i % 1024 * 2 ^ 32 + g.gnum % 2 ^ 32) ∧
          y.arch.code = ((s.handler c l.lr.chan).code).getD 0 ∧ y.arch.codeTag = ((s.handler c l.lr.chan).code).isSome ∧
          y.arch.reg 3 = (match (s.handler c l.lr.chan).arg with
            | some a => { v := a.setWidth 1024, tag := true }
            | none => {}) ∧
          y.arch.sr = putBit (putBit 0 10 l.lr.sup) 9 l.lr.s) ∧
    (∀ m, s.gangs.look k = some g → (s.ctx g.bar.ctx).wdog ≠ 0 → g.dealt = true →
      g.idleSince + 2 ^ (s.ctx g.bar.ctx).wdog ≤ s.gt → m ∈ g.members → m.2.2 ∈ g.alive → (∀ i ∈ g.alive, m.2.2 ≤ i) →
      g.members.find? (fun y => y.2.2 == m.2.2) = some m →
      exec (.gangWatchdogExpiry k) s = .next (s.enterTrap m.1 m.2.1 19 (g.gnum % 2 ^ 32) 0 false 0 (s.slot m.1 m.2.1).arch.resume)) ∧
    (s.gangs.look k = some g → s.gt < g.idleSince + 2 ^ (s.ctx g.bar.ctx).wdog → Waits (.gangWatchdogExpiry k) s) ∧
    (∀ ticks, s.gangs.look k = some g → (s.watchGangs ticks).look k = some (if s.gangStalled k g = true ∧ s.gangPaused k g = false then g
      else { g with idleSince := g.idleSince + ticks }))

/-- R140, R143 to R147, R324 to R326, R402, R404, R410 to R412: the oldest launch of the queue claims its entries under a new
identity, or ends with status 3 where its gangs fit nowhere; a message launch sends a message for each key; the sweeps give
the root's next state; the first fault starts the abort of its launch; ABORT and CANCEL end what they reach; a cancel
that kills follows one that drains; and the handle and the answers of LCTL reach their tasks, one of another device with any
answer that R411 allows. What reads or stores for a launch waits for its walks and slices (R195, R204). The alignment of KEYS, and what
a pod grid's root answers before the end, are the model's choices (assumptions 93, 106). -/
def Obligations.LaunchEvents : Prop :=
  ∀ (s : State) (id : Nat) (l : Launch), s.launches.look id = some l →
    let cores := s.claimCores l
    let chan := l.lr.chan
    let claim := Instr.launchClaim id
    let may := l.root = .queued ∧ s.queued.head? = some id ∧ l.lr.isPod s.table.devnum = false ∧ l.podRoot = none ∧ s.activeCount < 64 ∧
      s.haltedPart l.part = false ∧ ∀ c ∈ cores, (s.handler c chan).held = false
    let claimed := fun (t : State) => ∀ c ∈ cores,
      let h := t.handler c chan
      h.lid = s.freeLid ∧ h.held = true ∧ h.ctx = l.ctx ∧ h.mode = 1 ∧ h.mail = [] ∧ h.mask = false ∧ h.prio = l.lr.prio ∧ h.esup = l.lr.sup ∧
        h.esec = l.lr.s ∧ h.eheat = l.lr.heat ∧ h.code = some l.lr.code ∧ h.arg = some l.lr.arg ∧ h.launch = some id
    let begun : Launch := { l with lid := s.freeLid, root := .dealing, claimed := cores.map (fun c => (c, chan)), handed := 0, total := l.lr.gangs, sweepAt := s.gt }
    let placed := fun (l : Launch) => ∃ p u, s.placeDone id l (s.doneSizes l) = (some p, u)
    let waits := fun (ev : Instr) (l : Launch) => ∀ u, s.placeDone id l (s.doneSizes l) = (none, u) → exec ev s = .next u
    let fits := ∃ p ∈ platesOf l.lr.pmask, s.origins l.lr l.part p 0 ≠ []
    let key := s.reachCap (s.dispatcher id l) l.lr.keysTag (Cap.ofBits l.lr.keys) false ((Cap.ofBits l.lr.keys).addr.toNat + 8 * l.nextMsg) 8
    let dealt := fun (u : State) => { u with launches := u.launches.set id { l with root := .none } }
    let all := fun (t : State) (ev : Nat → Instr) => (∀ e ∈ s.cores, ev e.1 ∈ t.due) ∧ ∀ p, p < 4 → ev (16384 + p) ∈ t.due
    (may → l.lr.kind = true → l.held = false → ∃ t, exec claim s = .next t ∧ claimed t ∧ t.launches.look id = some begun ∧
      t.due = s.due.erase claim ++ [.quiescenceSweep id 16384, .launchMessageSend id] ∧
      ∀ c, (t.core c).sent.at s.freeLid 0 = 0 ∧ (t.core c).rcvd.at s.freeLid 0 = 0) ∧
    (may → l.lr.kind = false → fits → ∃ t, exec claim s = .next t ∧ claimed t ∧ t.launches.look id = some begun ∧
      Instr.quiescenceSweep id 16384 ∈ t.due ∧ ∀ p ∈ platesOf l.lr.pmask, Instr.gangRangeRequest id p ∈ t.due) ∧
    (may → l.lr.kind = false → ¬ fits → waits claim begun) ∧
    (may → l.lr.kind = false → ¬ fits → placed begun → ∃ t x, exec claim s = .next t ∧ t.launches.look id = some x ∧ x.root = .ended ∧ x.status = 3) ∧
    (l.root = .queued → s.queued.head? ≠ some id → Waits claim s) ∧
    (l.root = .dealing → l.lr.kind = true → l.held = false → l.aborting = false → l.draining = false → l.nextMsg ≤ l.lr.extx →
      s.haltedPart l.part = false → (s.core (s.roleCore 3)).retx.length < 32 → ∀ p u,
      key = (.ok p, u) → u.badRun p = false → ∃ t, exec (.launchMessageSend id) s = .next t ∧
        t.launches.look id = some { l with nextMsg := l.nextMsg + 1, dealt := l.dealt + 1 } ∧
        ∃ pk, t.packets.look s.serial = some pk ∧ pk.kind = 1 ∧ pk.launchMsg = some id ∧ pk.msg.len = 12 ∧
          pk.msg.body = leNat (u.readRun p) + l.nextMsg * 2 ^ 64 ∧ pk.msg.ctx = l.ctx ∧ (l.podRoot = none → pk.msg.lid = l.lid)) ∧
    (l.root = .dealing → l.lr.kind = true → l.held = false → l.aborting = false → l.draining = false → l.nextMsg ≤ l.lr.extx →
      s.haltedPart l.part = false → (s.core (s.roleCore 3)).retx.length < 32 →
      (∀ u, key = (.error notYet, u) → exec (.launchMessageSend id) s = .next u) ∧
      ∀ code u, key = (.error code, u) → code ≠ notYet → Does (.launchMessageSend id) (fun v => { v with
        due := v.due ++ [.faultNotice id s.gt code (faultPlace (s.roleCore 3) (s.roleSlot 3))] }) s) ∧
    (l.root = .dealing → l.lr.kind = true → l.aborting = true ∨ l.draining = true ∨ l.held = false ∧ l.lr.extx < l.nextMsg →
      s.launchSending id = false → Does (.dealingDone id) dealt s) ∧
    (l.root = .dealing → l.lr.kind = false → l.aborting = true ∨ l.draining = true ∨ l.total ≤ l.handed → s.launchSending id = false →
      (∀ g ∈ s.gangs, g.2.launch = id → g.2.dealt = true) → (∀ e ∈ l.ranges, e.2.2 ≤ e.2.1) → Does (.dealingDone id) dealt s) ∧
    (l.aborting = false → l.draining = false → (l.lr.kind = true → l.held = true ∨ l.nextMsg ≤ l.lr.extx) →
      (l.lr.kind = false → l.handed < l.total) → Does (.dealingDone id) (fun u => u) s) ∧
    (∀ upto, l.root ≠ .ended → l.root ≠ .queued → l.podRoot = none → l.swept = 0 → l.sumSent = 0 → l.sumRcvd = 0 → l.sumIdle = true →
      l.sweepAt + 1000 ≤ s.gt → 16384 ≤ upto → (∀ e ∈ s.cores, e.1 < 16384) →
      let sent := (s.cores.map (fun e => e.2.sent.at l.lid 0)).sum
      let rcvd := (s.cores.map (fun e => e.2.rcvd.at l.lid 0)).sum
      let good := (s.cores.all (fun e => s.idleCore e.1 e.2 id l) && s.idleDispatchers id l) = true ∧ sent % 2 ^ 32 = rcvd % 2 ^ 32
      let becomes := fun (r : Root) => ∃ t, exec (.quiescenceSweep id upto) s = .next t ∧ t.launches.look id = some { l with root := r, sweepAt := s.gt }
      (l.root = .dealing → becomes .dealing) ∧ (l.root = .none → good → becomes (.cand (sent % 2 ^ 32))) ∧
      (l.root = .none → ¬ good → becomes .none) ∧ (∀ v, l.root = .cand v → ¬ good → becomes .none) ∧
      (∀ v, l.root = .cand v → good → sent % 2 ^ 32 ≠ v → becomes (.cand (sent % 2 ^ 32))) ∧
      (l.root = .cand (sent % 2 ^ 32) → good → waits (.quiescenceSweep id upto) l) ∧
      (l.root = .cand (sent % 2 ^ 32) → good → placed l → ∃ t x, exec (.quiescenceSweep id upto) s = .next t ∧ t.launches.look id = some x ∧ x.root = .ended ∧
        x.gtend = s.gt ∧ ∀ c ∈ l.claimed, (t.handler c.1 c.2).held = false ∧ (t.handler c.1 c.2).mode = 0)) ∧
    (∀ gt cause place, l.root ≠ .ended → l.podRoot = none → l.aborting = false → l.fcount = 0 → l.lr.isPod s.table.devnum = false →
      ∃ t, exec (.faultNotice id gt cause place) s = .next t ∧ all t (.abort id) ∧ t.launches.look id =
        some { l with fgt := gt, fcause := cause % 2 ^ 32, floc := place, fcount := 1, aborting := true, status := if l.draining then 2 else 1 }) ∧
    (∀ gt cause place, l.root ≠ .ended → l.podRoot = none → l.aborting = true → l.fcount ≠ 0 → Does (.faultNotice id gt cause place)
      (fun u => { u with
        launches := u.launches.set id (if gt < l.fgt ∨ gt = l.fgt ∧ place < l.floc
          then { l with fgt := gt, fcause := cause % 2 ^ 32, floc := place, fcount := l.fcount + 1 } else { l with fcount := l.fcount + 1 }) }) s) ∧
    (∀ c, l.root ≠ .ended → l.aborting = true → l.reached.contains c = false → c < 16384 → s.cmds = [] → ∀ ev ∈ [Instr.abort id c, .cancel id c],
      ∃ t, exec ev s = .next t ∧ (∀ n, (s.slot c n).launch = some id → (t.slot c n).phase = .free) ∧
        (∀ d n, d ≠ c → t.slot d n = s.slot d n) ∧ (t.launches.look id).map (·.reached) = some (l.reached ++ [c])) ∧
    (∀ c, l.root ≠ .ended → l.draining = true → l.aborting = false → l.reached.contains c = false → c < 16384 →
      Does (.cancel id c) (fun u => { u with launches := u.launches.set id { l with reached := l.reached ++ [c] } }) s) ∧
    (∀ mode, mode ≤ 1 → l.root ≠ .ended → l.root ≠ .queued → l.aborting = false → l.draining = false → l.podRoot = none →
      l.lr.isPod s.table.devnum = false → ∃ t, exec (.cancelDecision id mode) s = .next t ∧ all t (.cancel id) ∧
        t.launches.look id = some { l with status := 2, aborting := mode == 1, draining := mode == 0 }) ∧
    (∀ mode, l.root ≠ .ended → l.aborting = false → l.draining = true → l.podRoot = none →
      (mode ≠ 1 → Does (.cancelDecision id mode) (fun u => u) s) ∧
      (mode = 1 → l.root ≠ .queued → l.lr.isPod s.table.devnum = false → ∃ t, exec (.cancelDecision id mode) s = .next t ∧ all t (.cancel id) ∧
        t.launches.look id = some { l with aborting := true })) ∧
    (∀ c, l.root ≠ .ended → l.aborting = true → l.draining = true → c < 16384 → s.cmds = [] → ∃ t, exec (.cancel id c) s = .next t ∧
      ∀ n, (s.slot c n).launch = some id → (t.slot c n).phase = .free) ∧
    (∀ mode, l.root = .queued → l.aborting = false → l.draining = false → l.podRoot = none → waits (.cancelDecision id mode) l) ∧
    (∀ mode, l.root = .queued → l.aborting = false → l.draining = false → l.podRoot = none → placed l → ∃ t x, exec (.cancelDecision id mode) s = .next t ∧
      t.launches.look id = some x ∧ x.root = .ended ∧ x.status = 2) ∧
    (∀ r d, l.asker = some (r, d) → s.alive r = true → ∃ t, exec (.launchHandleReturn id) s = .next t ∧
      t.launches.look id = some { l with asker := none } ∧
      let x := s.slot r.core r.slot
      t.slot r.core r.slot = ({ x with board := x.board.filter (fun b => b.2 != id) } : Slot).land
        (fun a => a.setScalar d (s.table.devnum * 2 ^ 48 + l.seq))) ∧
    (∀ op o d h kind, s.ops.look op = some o → o.kind = .lctl kind h 0 → kind = 1 → o.ret = .scalar d → bits h 57 48 = s.table.devnum →
      s.launchNamed h = some (id, l) → l.lid ≠ 256 → l.podMap = false → l.root ≠ .ended → s.alive o.task = true →
      ∃ t, exec (.lctlAnswer op) s = .next t ∧ t.ops = s.ops.drop op ∧
        let x := s.slot o.task.core o.task.slot
        let state := match l.root with
          | .queued => 0
          | .dealing => 2
          | _ => 3
        t.slot o.task.core o.task.slot = ({ x with board := x.board.filter (fun b => b.2 != op) } : Slot).land
          (fun a => a.setScalar d (0xFFFE * 2 ^ 48 + state * 2 ^ 40 + l.dealt % 2 ^ 32))) ∧
    (∀ op o h, s.ops.look op = some o → o.kind = .lctl 2 h 0 → bits h 57 48 = s.table.devnum → s.launchNamed h = some (id, l) →
      l.root ≠ .ended → Waits (.lctlAnswer op) s) ∧
    (∀ op o d h kind mode, s.ops.look op = some o → o.kind = .lctl kind h mode → o.ret = .scalar d → s.alive o.task = true →
      let x := s.slot o.task.core o.task.slot
      let gets := fun (w : Nat) => ∃ t, exec (.lctlAnswer op) s = .next t ∧ t.ops = s.ops.drop op ∧
        t.slot o.task.core o.task.slot = ({ x with board := x.board.filter (fun b => b.2 != op) } : Slot).land (fun a => a.setScalar d w)
      (bits h 57 48 = s.table.devnum → s.launchNamed h = some (id, l) → kind = 1 → l.podMap = true → l.root ≠ .ended → ∃ v,
        gets (s.podAnswer l v) ∧ s.podAnswer l v / 2 ^ 48 = 0xFFFE ∧ (bits (s.podAnswer l v) 47 40 = 2 ∨ bits (s.podAnswer l v) 47 40 = 3)) ∧
      (bits h 57 48 ≠ s.table.devnum → s.farLaunch h = false → gets (0xFFFF * 2 ^ 48)) ∧
      (s.farLaunch h = true → ∃ st state n, gets (st * 2 ^ 48 + state * 2 ^ 40 + n) ∧ n < 2 ^ 32 ∧
        (st = 0xFFFF ∧ state = 0 ∧ n = 0 ∨ st ≤ 3 ∧ state = 4 ∨ st = 0xFFFE ∧ kind ≠ 2 ∧ state ≤ 3 ∧ (state ≤ 1 → n = 0))))

/-- R393, R405, R406, R408, R409, R412: what each message of a pod grid does at the device that takes it: dispatch, the
answers of the claims and the map of identities, the sums of a sweep, with what the root device sent without a part of its own
(assumption 105), the end and its counts, and the entries of the pod context table. A message's port is that of the dispatchers'
cores (assumption 102). -/
def Obligations.PodEvents : Prop :=
  ∀ (s : State) (k id : Nat) (m : PodMsg) (l : Launch) (root seq rank : Nat), s.podIn.look k = some m → k < s.serial →
    let dev := s.table.devnum
    let took := fun (t : State) => t.podIn.look k = none
    let part := s.podPart root seq = some (id, l)
    let record := s.podRecord seq = some (id, l)
    let total := fun (sent : Nat) => (sent + (s.cores.map (fun e => e.2.sent.at (256 + id) 0)).sum) % 2 ^ 32
    let summed := fun (c : PodCounts) => { l with dealt := c.dealt, tasks := c.tasks, finished := c.finished, killed := c.killed, fcount := c.fcount,
                                                  fgt := c.fgt, fcause := c.fcause }
    (∀ lr ctx p world am, m.body = .dispatch root seq rank lr ctx p world am → s.podStops.contains (root, seq) = false →
      ∃ t, exec (.podDispatch k) s = .next t ∧ took t ∧ t.launchq = s.launchq ++ [s.serial] ∧
        t.launches.look s.serial = some { lid := 256, lr := lr, ctx := ctx, part := p, world := world, podRoot := some (root, seq),
                                          held := am == 1, nextMsg := min am 1 } ∧
        t.due = s.due.erase (.podDispatch k) ++ [.launchClaim s.serial]) ∧
    (∀ lid, m.body = .claimed seq rank lid → record → lid < 256 → l.podMap = false →
      (∃ r, r ≤ l.lr.ndev ∧ (l.podClaims.set rank lid).look r = none) → Does (.podClaimed k)
        (fun u => { u with podIn := u.podIn.drop k, launches := u.launches.set id { l with podClaims := l.podClaims.set rank lid } }) s) ∧
    (∀ lid, m.body = .claimed seq rank lid → record → lid < 256 → l.podMap = false →
      (∀ r, r ≤ l.lr.ndev → ((l.podClaims.set rank lid).look r).isSome = true) → ∃ t, exec (.podClaimed k) s = .next t ∧
        t.launches.look id = some { l with podClaims := l.podClaims.set rank lid, podMap := true, root := .none }) ∧
    (∀ lids, m.body = .lidMap root seq lids → part → l.root = .dealing → l.podMap = false → ∃ t, exec (.podLidMap k) s = .next t ∧ took t ∧
      t.launches.look id = some { l with podMap := true, podLids := lids } ∧ Instr.quiescenceSweep id 16384 ∈ t.due) ∧
    (∀ sent rcvd idle, m.body = .sweep root seq rank sent rcvd idle → rank ≠ 0 → part → Does (.podSweepReport k)
      (fun u => { u with podIn := u.podIn.drop k, launches := u.launches.set id { l with kids := l.kids.set rank (sent, rcvd, idle) } }) s) ∧
    (∀ sent rcvd, m.body = .sweep root seq 0 sent rcvd true → root = dev → record → l.root = .none → total sent = rcvd → l.podEnded = false →
      Does (.podSweepReport k) (fun u => { u with podIn := u.podIn.drop k, launches := u.launches.set id { l with root := .cand rcvd } }) s) ∧
    (∀ sent rcvd idle, m.body = .sweep root seq 0 sent rcvd idle → root = dev → record → l.root = .none ∨ (∃ v, l.root = .cand v) →
      idle = false ∨ total sent ≠ rcvd → l.podEnded = false →
      Does (.podSweepReport k) (fun u => { u with podIn := u.podIn.drop k, launches := u.launches.set id { l with root := .none } }) s) ∧
    (∀ sent rcvd, m.body = .sweep root seq 0 sent rcvd true → root = dev → record → l.root = .cand rcvd → total sent = rcvd → l.podEnded = false →
      ∃ t, exec (.podSweepReport k) s = .next t ∧ t.launches.look id = some { l with podEnded := true }) ∧
    (∀ status, m.body = .finish root seq status → part → ∃ t, exec (.podEnd k) s = .next t ∧ took t ∧
      ∀ c ∈ l.claimed, (t.handler c.1 c.2).held = false ∧ (t.handler c.1 c.2).mode = 0) ∧
    (∀ c u, m.body = .counts root seq 0 c → root = dev → record → s.placeDone id (summed c) (s.doneSizes l) = (none, u) →
      exec (.podEndReport k) s = .next u) ∧
    (∀ c p u, m.body = .counts root seq 0 c → root = dev → record → s.placeDone id (summed c) (s.doneSizes l) = (some p, u) → ∃ t x, exec (.podEndReport k) s = .next t ∧ took t ∧ t.launches.look id = some x ∧
      x.root = .ended ∧ x.dealt = c.dealt ∧ x.tasks = c.tasks ∧ x.finished = c.finished ∧ x.killed = c.killed ∧ x.fcount = c.fcount ∧
      x.fgt = c.fgt ∧ x.fcause = c.fcause) ∧
    (∀ ctx p world dev0 ndev, m.body = .reg ctx p world dev0 ndev →
      let held := ∃ c, s.ctxs.look ctx = some c ∧ c.part = p ∧ c.s = world
      let room := s.podTable.length < 64
      let tells := fun (t : State) (why : Nat) => m.src ≠ dev → t.podOut = s.podOut ++
        [{ src := dev, dst := m.src, body := .regAnswer ctx dev why, via := s.portTo m.src (s.roleCore 2) (s.roleCore 2) }]
      ∃ t, exec (.podReg k) s = .next t ∧ (held → room → t.podTable = s.podTable ++ [{ ctx := ctx, dev0 := dev0, ndev := ndev }] ∧ tells t 0) ∧
        (held → ¬ room → t.podTable = s.podTable ∧ tells t 3) ∧ (¬ held → t.podTable = s.podTable ∧ tells t 5)) ∧
    (∀ ctx from_ r, m.body = .regAnswer ctx from_ 0 → s.registering = [r] → r.ctx = ctx → (r.answers.set from_ 0).length ≤ r.ndev →
      Does (.podRegAnswer k) (fun u => { u with podIn := u.podIn.drop k, registering := [{ r with answers := r.answers.set from_ 0 }] }) s) ∧
    (∀ ctx, m.body = .unreg ctx none → Does (.podUnreg k) (fun u =>
      { u with podIn := u.podIn.drop k, podTable := u.podTable.filter (fun e => e.ctx != ctx) }) s) ∧
    (∀ ctx d0 nd, m.body = .unreg ctx (some (d0, nd)) → Does (.podUnreg k) (fun u =>
      { u with podIn := u.podIn.drop k, podTable := u.podTable.erase { ctx := ctx, dev0 := d0, ndev := nd } }) s)

/-! ## Events: power, partitions, health and bring-up -/

/-- R360 to R369, R437: the power manager moves each cap by a sixteenth between 4 and 16; a hot core that may migrate starts
to, and any other is held; above 115 degrees the module trips; a migration withdraws the parked requests and drains, copies (a gated
bank stays gated, R365) and settles; and the columns go through their table. That one reading moves every cap of a kind (assumption
55), and that the target's logical core takes the source's PHYS (assumption 8), are the model's choices. -/
def Obligations.PowerEvents : Prop :=
  ∀ (s : State) (w c d plate x : Nat),
    let k := s.column plate x
    let drained := Instr.migrationDrained c
    let copied := Instr.migrationCopyDone c
    let ended := Instr.migrationForwardEnd c
    (∃ t, exec (.powerReading w) s = .next t ∧ { t with vectorCap := s.vectorCap, burinCap := s.burinCap } = s ∧
      (2300 ≤ w → w ≤ 2400 → t = s) ∧
      (∀ j, t.vectorCap.at j 16 = s.vectorCap.at j 16 ∨ (2400 < w ∧ 4 < s.vectorCap.at j 16 ∧ t.vectorCap.at j 16 + 1 = s.vectorCap.at j 16) ∨
        (w < 2300 ∧ t.vectorCap.at j 16 = s.vectorCap.at j 16 + 1) ∨ s.vectorCap.at j 16 < 4 ∨ 16 < s.vectorCap.at j 16) ∧
      (2400 < w → s.table.mpri = 0 → canMove s.vectorCap s.freeColumns true = true → t.burinCap = s.burinCap ∧
        ∀ j ∈ s.freeColumns, t.vectorCap.at j 16 = max 4 (s.vectorCap.at j 16 - 1)) ∧
      (∀ j, j ∉ s.freeColumns → t.vectorCap.at j 16 = s.vectorCap.at j 16) ∧
      (w < 2300 → s.table.mpri = 0 → canMove s.burinCap bigKeys false = true → t.vectorCap = s.vectorCap ∧
        ∀ j ∈ bigKeys, t.burinCap.at j 16 = min 16 (s.burinCap.at j 16 + 1))) ∧
    (∃ t, exec .peakPowerCap s = .next t ∧ { t with vectorCap := s.vectorCap, burinCap := s.burinCap } = s ∧
      (∀ j < 128, t.vectorCap.at j 16 = 4) ∧ ∀ j ∈ bigKeys, t.burinCap.at j 16 = 4) ∧
    (let t := { s with temps := Sp.put 0 s.temps (nodeOf c) w }
     let l := t.logical c
     (w < 95 → exec (.thermalSample c w) s = .next { t with held := Sp.put false t.held c false }) ∧
     (95 ≤ w → w ≤ 105 → exec (.thermalSample c w) s = .next t) ∧
     (115 < w → s.boot = .off → exec (.thermalSample c w) s = .next t) ∧
     (115 < w → s.boot ≠ .off → ∃ u, exec (.thermalSample c w) s = .next u ∧ u.boot = .tripped ∧ u.therm = true ∧ u.launches = [] ∧ u.mem = [] ∧
       u.lpct = [] ∧ u.ops = [] ∧ u.flash.image = s.flash.image ∧ u.flash.leaf = s.flash.leaf) ∧
     (105 < w → w ≤ 115 → t.movable l = false ∨ t.targets l = [] →
       exec (.thermalSample c w) s = .next
         { t with held := Sp.put false t.held c true, vectorCap := Sp.put 16 t.vectorCap (32 * corePlate c + coreX c) 4 }) ∧
     (105 < w → w ≤ 115 → t.movable l = true → t.targets l ≠ [] → ∃ u g, exec (.thermalSample c w) s = .next u ∧ g ∈ t.targets l ∧
       (u.core l).moving = true ∧ (u.core g).moving = true ∧ u.lpct.look l = some { st := 0, phys := s.phys l, target := some g } ∧
       Instr.migrationDrained l ∈ u.due ∧ ∀ m, m ≠ l → m ≠ g → u.core m = s.core m)) ∧
    (∀ e : Lpct, s.lpct.look c = some e → s.ops = [] → s.packets = [] →
      (∀ y ∈ (s.core c).slots, y.2.phase ≠ .free → y.2.ship = none ∧ y.2.board = []) →
      exec drained s = .next { s with lpct := s.lpct.set c { e with st := 1 }, due := s.due.erase drained ++ [copied] }) ∧
    (∀ (e : Lpct) (o : Nat) (p : Op), s.lpct.look c = some e → (o, p) ∈ s.ops → p.task.core = c → p.stc = true → (∀ q ∈ s.ops, q.2.isParked = false) →
      Waits drained s) ∧
    (∀ (e : Lpct) (o : Nat) (p : Op), s.lpct.look c = some e → s.ops = [(o, p)] → p.isParked = true → p.task.core = c → s.alive p.task = true →
      (s.slot c p.task.slot).ship = none → (s.core c).slots = [(p.task.slot, s.slot c p.task.slot)] → (s.slot c p.task.slot).phase ≠ .free →
      ∃ t, exec drained s = .next t ∧ t.ops = [] ∧ t.parked = s.parked.filter (fun q => q.2.1 != o) ∧
        (t.slot c p.task.slot).arch.pc = p.tpc ∧ (t.slot c p.task.slot).wait = none) ∧
    (∀ e : Lpct, s.lpct.look c = some e → e.target = some d → s.refreshing [c] = true → Waits copied s) ∧
    (∀ e : Lpct, s.lpct.look c = some e → e.target = some d → d ≠ c → s.refreshing [c] = false →
      ∃ t, exec copied s = .next t ∧
        t.lpct.look c = some { st := 2, phys := s.phys d, target := some d, till := s.now + 4096 * meshLen } ∧
        t.lpct.look d = some { st := 0, phys := e.phys } ∧ t.due = s.due.erase copied ++ [ended] ∧ t.mem = s.mem ∧
        (∀ n, t.slot c n = s.slot c n) ∧ (t.core c).handlers = (s.core c).handlers ∧ (t.core c).predictor = [] ∧
        t.tlbL1.look c = none ∧ (∀ l ∈ t.dLines, l.core ≠ c) ∧ s.cyc c ≤ t.cyc c ∧
        ∀ n, n < 4 → (t.banks.at (16 * c + n) {}).st = if (s.banks.at (16 * c + n) {}).st = .gated then .gated else .awake) ∧
    (∀ e : Lpct, s.lpct.look c = some e → e.target = some d → s.now < e.till → Waits ended s) ∧
    (∀ e : Lpct, s.lpct.look c = some e → e.target = some d → d ≠ c → e.till ≤ s.now →
      ∃ t, exec ended s = .next t ∧ (t.core c).moving = false ∧ (t.core d).moving = false ∧ t.phys c = e.phys ∧
        (∀ n, t.slot c n = s.slot c n) ∧ Instr.taskSelection c ∈ t.due ∧ Instr.taskSelection d ∈ t.due) ∧
    (k.st = .on → s.columnFree plate x = true → k.idleFrom + 1000000 ≤ s.gt → exec (.columnIdleTimeout plate x) s =
      .next ((s.setColumn plate x { k with st := .rampDown, till := s.gt + 2000 }).push (.rampDownEnd plate x))) ∧
    (k.st ≠ .on ∨ s.columnFree plate x = false ∨ s.gt < k.idleFrom + 1000000 → Waits (.columnIdleTimeout plate x) s) ∧
    Does (.wakeRequest plate x) (fun t => match k.st with
      | .on | .rampUp => t
      | .rampDown => t.setColumn plate x { k with held := true }
      | .off => (t.setColumn plate x { k with st := .rampUp, till := s.gt + 6000 }).push (.rampUpEnd plate x)) s ∧
    (k.st = .rampDown → s.gt < k.till → Waits (.rampDownEnd plate x) s) ∧
    (k.st = .rampDown → k.till ≤ s.gt → k.held = false →
      Does (.rampDownEnd plate x) (fun t => t.setColumn plate x { k with st := .off, dns := (k.dns + 1) % 2 ^ 16 }) s) ∧
    (k.st = .rampDown → k.till ≤ s.gt → k.held = true →
      Does (.rampDownEnd plate x) (fun t => (t.setColumn plate x
        { k with st := .rampUp, dns := (k.dns + 1) % 2 ^ 16, held := false, till := s.gt + 6000 }).push (.rampUpEnd plate x)) s) ∧
    (k.st = .rampUp → s.gt < k.till → Waits (.rampUpEnd plate x) s) ∧
    (k.st = .rampUp → k.till ≤ s.gt → s.opening = [] → s.waiting = [] →
      Does (.rampUpEnd plate x) (fun t => t.setColumn plate x
        { k with st := .on, ups := (k.ups + 1) % 2 ^ 16, till := 0, idleFrom := s.gt }) s)

/-- R58, R165, R197, R295, R314, R329, R330, R338 to R342, R362, R380, R395, R413, R414: a partition halts once its work has
ended, its parked requests withdrawn first, its image leaves the cores and comes back to them, and a FLAGSUM sweep unites the flags; a slice pair's fields, CHK,
FWALL, the region table, BWORLD and the other control registers take what is written to them as each allows. Reserved slots in
the slice pair's check, the stop that HOSTCTX ends, the accumulators that return, and that a FLAGSUM sweep takes all cores at one
event (assumption 25), are the model's choice (assumptions 88, 89, 95). A write of BCTL in which one field breaks its condition is
ignored whole (R379), and in recovery none of these writes is made (R423). -/
def Obligations.PartitionEvents : Prop :=
  ∀ (s : State) (c p : Nat) (v : BitVec 64),
    let x := s.parts.at p {}
    let w := s.withdrawAll (s.tasksOf p)
    let works := s.boot ≠ .recovery
    (∀ r ∈ s.tasksOf p, (s.slot r.core r.slot).ship = none → ∀ e ∈ w.ops, e.2.task = r → e.2.isParked = false) ∧
    (x.halt ≠ .halting → Does (.haltComplete p) id s) ∧
    (x.halt = .halting → w.quiet p = false → exec (.haltComplete p) s = .next w) ∧
    (x.halt = .halting → w.quiet p = true → ∃ t, exec (.haltComplete p) s = .next t ∧ (t.parts.at p {}).halt = .halted ∧ t.mem = s.mem ∧
      (∀ l ∈ t.dLines, l.part ≠ p) ∧ (∀ r ∈ s.tasksOf p, (s.slot r.core r.slot).ship = none → ∀ e ∈ t.ops, e.2.task = r → e.2.isParked = false) ∧ (∀ l ∈ t.iLines, l.part ≠ p) ∧
      ∀ y ∈ t.slices, ∀ l ∈ y.2.lines, l.owner.isSome = true → l.ownPart ≠ p) ∧
    (s.refreshing ((s.coresOf p).map (·.1)) = true → Waits (.swapComplete p) s) ∧
    (x.halt = .swappingOut → s.refreshing ((s.coresOf p).map (·.1)) = false →
      ∃ t i, exec (.swapComplete p) s = .next t ∧ { t with parts := s.parts, due := s.due, banks := s.banks } = s ∧
      (t.parts.at p {}).halt = .swapped ∧ (t.parts.at p {}).image = some i ∧ (∀ e ∈ s.cores, e ∈ i.cores ↔ e.2.part = some p) ∧
      (∀ e ∈ s.mem, e ∈ i.mem ↔ s.saves p e.1 = true) ∧ (∀ e ∈ s.bad, e ∈ i.bad ↔ s.saves p (8 * e.1) = true) ∧ (∀ j ∈ s.jobs, j ∈ i.jobs ↔ j.2.part = p ∧ j.2.running = false) ∧
      ∀ e ∈ s.cores, ∀ n < 16, e.2.big.ownedBy p n = true →
        (16 * e.1 + n, e.2.big.accs.at n 0, e.2.big.poison.at n false) ∈ i.accs) ∧
    (∀ i : Image, x.halt = .swappingIn → x.image = some i → s.refreshing ((s.coresOf p).map (·.1)) = false →
      (i.cores.map (·.1)).Nodup → (i.mem.map (·.1)).Nodup → (i.accs.map (·.1)).Nodup → (∀ e ∈ i.cores, (e.2.slots.map (·.1)).Nodup) →
      ∃ t, exec (.swapComplete p) s = .next t ∧ t.parts.look p = none ∧
        (∀ e ∈ i.mem, t.saves p e.1 = true → Sp.look t.mem e.1 = some e.2) ∧
        ((i.bad.map (·.1)).Nodup → ∀ e ∈ i.bad, t.saves p (8 * e.1) = true → Sp.look t.bad e.1 = some e.2) ∧
        (∀ a, t.saves p a = true → a ∉ i.mem.map (·.1) → Sp.look t.mem a = none) ∧
        (∀ a ∈ i.accs, (t.core (a.1 / 16)).big.ownedBy p (a.1 % 16) = true →
          (t.core (a.1 / 16)).big.accs.at (a.1 % 16) 0 = a.2.1 ∧ (t.core (a.1 / 16)).big.poison.at (a.1 % 16) false = a.2.2) ∧
        ∀ e ∈ i.cores, (t.core e.1).handlers = e.2.handlers ∧ (t.core e.1).mark = e.2.mark ∧ t.slot e.1 8 = s.slot e.1 8 ∧
          ∀ n, n ≠ 8 → ((e.2.slot n).phase = .free → (t.slot e.1 n).phase = .free) ∧
            ((e.2.slot n).phase ≠ .free → t.slot e.1 n = { e.2.slot n with halted := (t.slot e.1 n).halted } ∧
              ((e.2.slot n).part = p → (t.slot e.1 n).halted = false))) ∧
    (s.gt / 256 ≤ (s.flagsum.at c {}).stamp → Waits (.flagsumSweep c) s) ∧
    ((s.flagsum.at c {}).stamp < s.gt / 256 → ∃ t, exec (.flagsumSweep c) s = .next t ∧ { t with flagsum := s.flagsum } = s ∧ (t.flagsum.at c {}).stamp = s.gt / 256 ∧
      ∀ b, ((t.flagsum.at c {}).parts.at p 0).getLsbD b = true ↔
        ∃ e ∈ s.cores, corePlate e.1 = c ∧ ∃ f ∈ e.2.flagAcc, f.1 = p ∧ f.2.getLsbD b = true) ∧
    (let k := s.core c
     let w := v.toNat
     let tasks := s.slotHolders c
     let legal := isBig c = true ∧ (∀ e ∈ tasks, bit (bits w 31 24) e.1 = bit k.big.pair.smap e.1) ∧ 12 ≤ bits w 23 19 ∧ bits w 23 19 ≤ 24 ∧
       (bit w 18 = true → ∀ e ∈ tasks, e.2 = if bit (bits w 31 24) e.1 then bits w 47 32 else bits w 63 48)
     let checks := isBig c = true ∧ (s.mtxq.at c [] = [] ∨ k.big.deferred = v.getLsbD 17)
     (¬ legal ∨ ¬ checks → s.setControl (.bctl c) w = s) ∧
     (legal → checks → let b := ((s.setControl (.bctl c) w).core c).big
       b.deferred = v.getLsbD 17 ∧ b.pair.slen = bit w 18 ∧ b.pair.xctx = bits w 63 48 ∧ b.pair.yctx = bits w 47 32 ∧
         b.pair.smap = bits w 31 24 ∧ b.pair.q = bits w 23 19) ∧
     (legal → works → ∃ q, exec (.slicePairSet c v) s = .next (s.updBig c (fun b => { b with pair := q })) ∧ q.slen = bit w 18 ∧
       q.xctx = bits w 63 48 ∧ q.yctx = bits w 47 32 ∧ q.smap = bits w 31 24 ∧ q.q = bits w 23 19) ∧
     (¬ legal → Waits (.slicePairSet c v) s)) ∧
    (s.boot = .recovery → Waits (.slicePairSet c v) s ∧ Waits (.checkModeSet c v) s ∧ Waits (.fwallWrite c v) s ∧
      (∀ n r, Waits (.regionTableWrite n r) s) ∧ (∀ b w, Waits (.bworldWrite b w) s) ∧ ∀ r, Waits (.controlRegisterWrite r v) s) ∧
    (works → isBig c = true → s.mtxq.at c [] = [] ∨ (s.core c).big.deferred = v.getLsbD 17 → exec (.checkModeSet c v) s = .next (s.updBig c (fun b => { b with deferred := v.getLsbD 17 }))) ∧
    (isBig c = false ∨ s.mtxq.at c [] ≠ [] ∧ (s.core c).big.deferred ≠ v.getLsbD 17 → Waits (.checkModeSet c v) s) ∧
    (works → s.isEasel c = true → ∃ t, exec (.fwallWrite c v) s = .next t ∧ (∀ d, d ≠ c → t.core d = s.core d) ∧
      t.core c = { s.core c with fwall := if (s.core c).fwall.getLsbD 1 then (s.core c).fwall else v &&& 0xFFFFFFFF0100000F }) ∧
    (s.isEasel c = false → Waits (.fwallWrite c v) s) ∧
    (works → ∀ (n : BitVec 6) (r : BitVec 128), let old := s.regions.at n.toNat 0
      ∃ t, exec (.regionTableWrite n r) s = .next t ∧ { t with regions := s.regions } = s ∧
        (∀ j, j ≠ n.toNat → t.regions.at j 0 = s.regions.at j 0) ∧
        t.regions.at n.toNat 0 = if old.getLsbD 2 then old else r &&& 0x00000000FFFFFFFFFFFFFFFF00000007) ∧
    (∀ b w, s.blockBusy b = true ∨ b = .easel → Waits (.bworldWrite b w) s) ∧
    (works → ∀ (plate : BitVec 2) w, s.blockBusy (.cores plate) = false → ∃ t, exec (.bworldWrite (.cores plate) w) s = .next t ∧
      { t with secureCores := s.secureCores } = s ∧ t.secureCores.at plate.toNat false = w) ∧
    (works → ∀ (plate : BitVec 2) w, s.blockBusy (.engines plate) = false → ∃ t, exec (.bworldWrite (.engines plate) w) s = .next t ∧
      { t with secureEngines := s.secureEngines } = s ∧ t.secureEngines.at plate.toNat false = w) ∧
    (works → ∀ w, s.sessions = [] → exec (.bworldWrite .port w) s = .next { s with securePort := w }) ∧
    (works → ∀ plate gx gy, exec (.controlRegisterWrite (.ghome plate gx gy) v) s =
      .next { s with ghome := s.ghome.set (nodeOf (coreId plate gx gy 0)) (v.toNat % 256 / 128 * 128 + v.toNat % 16) }) ∧
    (works → ∀ q : BitVec 4, 1 ≤ v.toNat → v.toNat ≤ 16 → ∃ t, exec (.controlRegisterWrite (.quota q) v) s = .next t ∧
      { t with quota := s.quota } = s ∧ t.quota.at q.toNat 16 = v.toNat) ∧
    (works → ∀ u, ∃ t, exec (.controlRegisterWrite (.owntab c u) v) s = .next t ∧
      (t.core c).big.owners.look u = if v.getLsbD 4 then some (v.toNat % 16) else none) ∧
    (works → ∃ t, exec (.controlRegisterWrite (.lpct c) v) s = .next t ∧ t.phys c = bits v.toNat 31 18 ∧ ∀ d, d ≠ c → t.phys d = s.phys d) ∧
    (works → ∃ t, exec (.controlRegisterWrite (.hostctx c) v) s = .next t ∧ (t.core c).big.host = (s.ctx (v.toNat % 2 ^ 16)).host (v.toNat % 2 ^ 16) ∧
      (t.core c).big.stopped = false ∧ ((s.core c).big.stopped = true → Instr.matrixCommandStart c ∈ t.due))

/-! ## Events: command queues -/

/-- R58, R197, R339 to R342, R389, R394 to R399: TAIL and STATE are read from the descriptor, a packet starts once its entries
are there and are right, and stops the queue with its first offending word otherwise; each step of a packet has the effect and
the status of its operation, and waits where an access of the command processor has to (R195, R204); a step that outlives its
bound ends with status 2 or 3; and after the last one the record is written, with COMPL = 1 also sent to the queue's session, and
HEAD advances. The model's choices: which offending word comes first (assumption 37), what the device writes back to a descriptor,
and a record whose store fails (38), ERR at a resume (39), the record and QEND with SERIAL (40), S and SUP before a record's other
faults (42), OPENAM's completion (43), COPY, and status 4 of an unaligned WAITV (44), the halt before SWAPOUT (45), which command
processor serves a queue (79), when AMH is open (103) and AMSG on a stopped launch (107). -/
def Obligations.QueueEvents : Prop :=
  ∀ (s : State) (n : Nat) (q : CmdQueue), s.queues.look n = some q →
    (q.state ≠ 1 → q.state ≠ 0 ∨ q.run.isSome = true → Does (.tailRead n) id s) ∧
    (∀ t, q.state = 0 → q.run = none → q.ending = none → (s.did (.tailRead n)).endQueue n q = some t → exec (.tailRead n) s = .next t) ∧
    (q.state = 0 → q.run = none → (s.did (.tailRead n)).endQueue n q = none → exec (.tailRead n) s = .next ((s.did (.tailRead n)).endLater n q)) ∧
    (q.state = 1 → q.run.isSome = true ∨ (s.cpSlice n).1 ≠ some n → Waits (.tailRead n) s) ∧
    (∀ b t, q.state = 1 → q.run = none → (s.cpSlice n).1 = some n → Instr.packetStart n ∉ s.due → (s.keepDesc q).cpLoad q.ctx (q.desc + 56) 8 = .ok (b, t) →
      let k : CmdQueue := { q with tail := leNat b }
      let u : State := { t with queues := t.queues.set n k }
      (k.have = 0 → exec (.tailRead n) s = .next u) ∧
      (0 < k.have → k.have ≤ k.size → exec (.tailRead n) s = .next (u.push (.packetStart n))) ∧
      (k.size < k.have → u.putRecord n k false 0 0 7 k.tail 0 k.head = none → exec (.tailRead n) s = .next (u.askRecord k)) ∧
      (k.size < k.have → u.putRecord n k false 0 0 7 k.tail 0 k.head ≠ none → ∃ v, exec (.tailRead n) s = .next v ∧ v.queues.look n = some { k with state := 2, err := 7, resume := k.head } ∧
        Instr.queueResume n ∈ v.due)) ∧
    (∀ c, q.state = 1 → q.run = none → (s.cpSlice n).1 = some n → Instr.packetStart n ∉ s.due → (s.keepDesc q).cpLoad q.ctx (q.desc + 56) 8 = .error c →
      exec (.tailRead n) s = .next ((s.keepDesc q).cpAsk q.ctx false (q.desc + 56) 8)) ∧
    (q.state ≠ 2 → Does (.queueResume n) id s) ∧
    (∀ c, q.state = 2 → s.cpLoad q.ctx (q.desc + 12) 1 = .error c → exec (.queueResume n) s = .next (s.cpAsk q.ctx false (q.desc + 12) 1)) ∧
    (∀ b t, q.state = 2 → s.cpLoad q.ctx (q.desc + 12) 1 = .ok (b, t) →
      (leNat b % 4 = 1 → ∃ v, exec (.queueResume n) s = .next v ∧ v.queues.look n = some { q with state := 1, head := q.resume } ∧
        Instr.tailRead n ∈ v.due) ∧
      (leNat b % 4 ≠ 1 → exec (.queueResume n) s = .next (t.keepDesc q))) ∧
    (q.state ≠ 1 ∨ q.run.isSome = true ∨ q.have = 0 ∨ q.size < q.have → Does (.packetStart n) id s) ∧
    (q.state = 1 → q.run = none → 0 < q.have → q.have ≤ q.size → (s.cpSlice n).1 ≠ some n → Waits (.packetStart n) s) ∧
    (∀ c x, q.state = 1 → q.run = none → 0 < q.have → q.have ≤ q.size → (s.cpSlice n).1 = some n →
      (s.did (.packetStart n)).entries q 1 0 = .error (c, x) →
      exec (.packetStart n) s = .next (if c = notYet then s.cpAsk q.ctx false x 64 else s.did (.packetStart n))) ∧
    (∀ h t, q.state = 1 → q.run = none → 0 < q.have → q.have ≤ q.size → (s.cpSlice n).1 = some n → (s.did (.packetStart n)).entries q 1 0 = .ok (h, t) →
      let steps := if 1 ≤ bits (wordOf h 0 0) 7 0 ∧ bits (wordOf h 0 0) 7 0 ≤ 8 then bits (wordOf h 0 0) 7 0 else 0
      (q.have < 1 + steps → exec (.packetStart n) s = .next t) ∧
      ∀ l u, 1 + steps ≤ q.have → t.entries q (1 + steps) 0 = .ok (l, u) →
        (firstBad l = none → exec (.packetStart n) s =
          .next (({ u with queues := u.queues.set n { q with run := some { words := l, first := q.head % q.size } } } : State).push (.packetCompletion n))) ∧
        ∀ i, firstBad l = some i → u.putRecord n q (packetCompl l) (packetTag l) (i / 8) 1 ((l[i]?).getD 0) 0 ((q.head + 1 + steps) % 2 ^ 64) ≠ none →
          ∃ v, exec (.packetStart n) s = .next v ∧
          v.queues.look n = some { q with state := 2, err := 1, resume := (q.head + 1 + steps) % 2 ^ 64 } ∧ Instr.queueResume n ∈ v.due) ∧
    (let keys := s.cpQueues n
     ((s.cpSlice n).1 = some n → q.runs = false → (s.cpSlice n).2 + 2 ^ 14 ≤ s.gt → exec (.cpSliceEnd n) s =
        .next { s with cpAt := s.cpAt.set (n % max 1 s.cpCount) ((keys.find? (fun k => decide (n < k))).getD (keys.headD 0), s.gt) }) ∧
     ((s.cpSlice n).1 ≠ some n ∨ q.runs = true ∨ s.gt < (s.cpSlice n).2 + 2 ^ 14 → Waits (.cpSliceEnd n) s)) ∧
    (∀ r step status word, q.run = some r → r.ended = some (step, status, word) →
      let serial := packetSerial r.words
      let next := (q.head + 1 + packetSteps r.words) % 2 ^ 64
      let lstat := if serial then s.lstat r.launches else 0
      (serial = true → s.allEnded r.launches = false → q.ending = none → Waits (.packetCompletion n) s) ∧
      (∀ addr req, serial = true → s.allEnded r.launches = false → q.ending = some (addr, req) → exec (.packetCompletion n) s =
        .next ((s.putQueue n { q with state := 0, ending := none }).mgmtAnswer 0 addr 9 0 req []).mgmtRest) ∧
      let bytes := recordBytes s.gt word (packetTag r.words) step status lstat next
      let store := (s.did (.packetCompletion n)).cpStore q.ctx (q.cbase + 32 * (q.head % q.size)) bytes
      let sent := fun (t : State) => match (if packetCompl r.words then (s.sessions.look q.session).map (·.peer.addr) else none) with
        | none => t
        | some a => t.sendData kCompl q.session a (leBytes 2 n ++ leBytes 2 0 ++ leBytes 4 (q.head % q.size) ++ bytes)
      ((serial = true → s.allEnded r.launches = true) → store = .error notYet → exec (.packetCompletion n) s = .next (s.askRecord q)) ∧
      ∀ t, (serial = true → s.allEnded r.launches = true) → store = .ok t ∨ (∃ c, store = .error c ∧ c ≠ notYet ∧ t = s.did (.packetCompletion n)) →
        let k : CmdQueue := { q with head := next, run := none }
        (q.ending = none → q.state ≠ 0 → exec (.packetCompletion n) s = .next ((sent t).putQueue n k)) ∧
        (q.ending.isSome = true ∨ q.state = 0 → (sent t).endQueue n k = none → exec (.packetCompletion n) s = .next ((sent t).endLater n k)) ∧
        (∀ u, q.ending = none → q.state = 0 → (sent t).endQueue n k = some u → exec (.packetCompletion n) s = .next u) ∧
        ∀ u addr req, q.ending = some (addr, req) → (sent t).endQueue n k = some u → exec (.packetCompletion n) s =
          .next (u.mgmtAnswer 0 addr 9 0 req []).mgmtRest) ∧
    ∀ r : RunPacket, q.run = some r → r.ended = none →
      let w := wordOf r.words r.step
      let op := bits (w 0) 7 0
      let sub := bits (w 0) 15 8
      let after := fun (r : RunPacket) (st : Nat) =>
        let z : RunPacket := { r with begun := false, waits := none, result := none }
        if st ≠ 0 then { z with ended := some (r.step, st, r.handle) }
        else if packetSteps r.words ≤ r.step then { z with ended := some (0, 0, r.handle) }
        else { z with step := r.step + 1 }
      let begun : RunPacket := { r with begun := true, since := if r.begun then r.since else s.gt, waits := none }
      let ends := fun (i : Instr) (t : State) (st : Nat) => exec i s = .next { t.forget (.cp q.ctx) with queues := s.queues.set n { q with run := some (after r st) } }
      let goes := fun (i : Instr) (t : State) => exec i s = .next { t with queues := s.queues.set n { q with run := some begun } }
      let fails := fun (i : Instr) (c : Nat) (wr : Bool) (x len : Nat) =>
        (c ≠ notYet → ends i s 4) ∧ (c = notYet → goes i (s.cpAsk q.ctx wr x len))
      let stopped := (s.openLaunch q).any (fun e => e.2.aborting || e.2.draining) = true
      let bound := stepBound (w 0) (w 3)
      let halt := (s.parts.at (w 1) {}).halt
      let host := q.ctx = s.hostCtx
      let stops := fun (i : Instr) => ∃ t, exec i s = .next t ∧ t.queues.look n = some { q with run := some begun } ∧
        (t.parts.at (w 1) {}).halt = .halting ∧ Instr.haltComplete (w 1) ∈ t.due ∧
        ∀ c m, m ≠ 8 → (s.slot c m).part = w 1 → (s.slot c m).phase ≠ .free → (t.slot c m).halted = true
      let moves := fun (i : Instr) (h : Halt) (v : Option Nat) => ∃ t, exec i s = .next t ∧
        t.queues.look n = some { q with run := some { begun with result := v } } ∧
        (t.parts.at (w 1) {}).halt = h ∧ Instr.swapComplete (w 1) ∈ t.due ∧ t.cores = s.cores
      (r.late s.gt = false → op = 1 → exec (.packetCompletion n) s = exec (.cqWrite n) s) ∧
      (r.late s.gt = false → op = 5 → exec (.packetCompletion n) s = exec (.cqLaunch n) s) ∧
      (r.late s.gt = true → exec (.packetCompletion n) s = exec (.stepBoundExpiry n) s) ∧
      (r.begun = true → r.since + bound.1 < s.gt → r.waits = none → ends (.stepBoundExpiry n) s bound.2) ∧
      (∀ p k, r.begun = true → r.since + bound.1 < s.gt → r.waits = some p → s.packets.look p = some k →
        (k.arrived = true ∨ k.answer.isSome = true ∧ k.backoff.isSome = true → ends (.stepBoundExpiry n) (s.dropPacket p k) bound.2) ∧
        (k.arrived = false → k.answer = none ∨ k.backoff = none →
          ends (.stepBoundExpiry n) { s with packets := s.packets.set p { k with queue := none } } bound.2)) ∧
      (r.begun = false ∨ s.gt ≤ r.since + bound.1 → Waits (.stepBoundExpiry n) s) ∧
      (op = 1 → (∀ t, s.cpStore q.ctx (w 1) (stepData r.words r.step (bits (w 0) 23 16)) = .ok t → ends (.cqWrite n) t 0) ∧
        (∀ c, s.cpStore q.ctx (w 1) (stepData r.words r.step (bits (w 0) 23 16)) = .error c → fails (.cqWrite n) c true (w 1) (bits (w 0) 23 16))) ∧
      (op = 2 → sub = 0 → (∀ t, s.cpStore q.ctx (w 1) (leBytes 8 (w 2)) = .ok t → ends (.cqSignal n) t 0) ∧
        (∀ c, s.cpStore q.ctx (w 1) (leBytes 8 (w 2)) = .error c → fails (.cqSignal n) c true (w 1) 8)) ∧
      (op = 2 → sub = 1 → ∀ c, s.cpLoad q.ctx (w 1) 8 = .error c → fails (.cqSignal n) c false (w 1) 8) ∧
      (op = 2 → sub = 1 → ∀ b t c, s.cpLoad q.ctx (w 1) 8 = .ok (b, t) → t.cpStore q.ctx (w 1) (leBytes 8 (leNat b + w 2)) = .error c →
        fails (.cqSignal n) c true (w 1) 8) ∧
      (op = 2 → sub = 1 → ∀ b t u, s.cpLoad q.ctx (w 1) 8 = .ok (b, t) → t.cpStore q.ctx (w 1) (leBytes 8 (leNat b + w 2)) = .ok u →
        ends (.cqSignal n) u 0) ∧
      (op = 3 → w 1 % 8 ≠ 0 → ends (.cqWaitv n) s 4) ∧
      (op = 3 → w 1 % 8 = 0 → ∀ c, s.cpLoad q.ctx (w 1) 8 = .error c → fails (.cqWaitv n) c false (w 1) 8) ∧
      (op = 3 → w 1 % 8 = 0 → ∀ b t, s.cpLoad q.ctx (w 1) 8 = .ok (b, t) →
        let met := (sub = 0 ∧ leNat b = w 2) ∨ (sub = 1 ∧ leNat b ≠ w 2) ∨ (sub = 2 ∧ w 2 ≤ leNat b) ∨ (3 ≤ sub ∧ leNat b &&& w 2 ≠ 0)
        (met → ends (.cqWaitv n) t 0) ∧ (¬ met → goes (.cqWaitv n) t)) ∧
      (op = 4 → (∀ e, r.result = some e → ends (.cqCopy n) s (if e = 0 then 0 else 4)) ∧
        (r.result = none → w 3 = 0 → ends (.cqCopy n) s 0) ∧
        (r.result = none → w 3 ≠ 0 → r.waits = none →
          let j := s.copyJob n q (w 1) (w 2) (w 3)
          ((s.cardStorage j.access j.card).isSome = true → ends (.cqCopy n) s 4) ∧
          (s.cardStorage j.access j.card = none → inboxSize ≤ s.inboxLen j.engine → goes (.cqCopy n) s) ∧
          (s.cardStorage j.access j.card = none → s.inboxLen j.engine < inboxSize → exec (.cqCopy n) s =
            .next { s with jobs := s.jobs.set s.serial { j with id := s.serial }, serial := s.serial + 1, due := s.due ++ [.jobStart s.serial],
                           queues := s.queues.set n { q with run := some { begun with waits := some s.serial } } }))) ∧
      (op = 5 → (∀ c, s.cpRecord q.ctx (w 1) = .error c → fails (.cqLaunch n) c false (w 1) 128) ∧
        ∀ lr t, s.cpRecord q.ctx (w 1) = .ok (lr, t) →
          (lr.s = true ∨ lr.sup = true → ¬ host → ends (.cqLaunch n) t 5) ∧
          (¬ (lr.s = true ∨ lr.sup = true) ∨ host → t.cpRecordBad q lr true (w 1) = true → ends (.cqLaunch n) t 4) ∧
          (¬ (lr.s = true ∨ lr.sup = true) ∨ host → t.cpRecordBad q lr true (w 1) = false → 256 ≤ t.queued.length → goes (.cqLaunch n) t) ∧
          (¬ (lr.s = true ∨ lr.sup = true) ∨ host → t.cpRecordBad q lr true (w 1) = false → t.queued.length < 256 →
            ∃ u, exec (.cqLaunch n) s = .next u ∧ u.launchq = t.launchq ++ [t.serial] ∧ Instr.launchClaim t.serial ∈ u.due ∧
              u.launches.look t.serial = some { lid := 0, lr := lr, ctx := q.ctx, part := (t.ctx q.ctx).part, world := (t.ctx q.ctx).s,
                                                seq := t.launchSeq } ∧
              u.queues.look n = some { q with run := some (after { r with launches := r.launches ++ [t.serial],
                                                                          handle := t.table.devnum * 2 ^ 48 + t.launchSeq } 0) })) ∧
      (op = 6 → (q.amOpen = false → ends (.cqAmsg n) s 3) ∧ (q.amOpen = true → r.waits = none → s.openLaunch q = none ∨ stopped → ends (.cqAmsg n) s 6) ∧
        (∀ p k a, q.amOpen = true → r.waits = some p → s.packets.look p = some k → k.answer = some a → k.arrived = true →
          bits a 63 48 ≠ ansRefused ∨ stopped → ends (.cqAmsg n) (s.dropPacket p k) (if bits a 63 48 = ansAccepted then 0 else 6)) ∧
        (∀ p k a, q.amOpen = true → r.waits = some p → s.packets.look p = some k → k.answer = some a → k.arrived = true →
          bits a 63 48 = ansRefused → ¬ stopped → ∃ t till, exec (.cqAmsg n) s = .next t ∧ s.now ≤ till ∧
            t.packets.look p = some { k with arrived := false, refused := k.refused + 1, backoff := some till } ∧ Instr.backoffExpiry p ∈ t.due) ∧
        (∀ p k, q.amOpen = true → r.waits = some p → s.packets.look p = some k → k.answer = none ∨ k.arrived = false → Waits (.cqAmsg n) s) ∧
        (∀ id l, q.amOpen = true → r.waits = none → s.openLaunch q = some (id, l) → ¬ stopped →
          s.amsgLids id l = none ∨ 32 ≤ (s.core (s.cpCore n)).retx.length → goes (.cqAmsg n) s) ∧
        (∀ id l m, q.amOpen = true → r.waits = none → s.openLaunch q = some (id, l) → ¬ stopped → s.launches.look id = some l → s.amsgLids id l = some m →
          (s.core (s.cpCore n)).retx.length < 32 →
          ∃ t k, exec (.cqAmsg n) s = .next t ∧ t.packets.look s.serial = some k ∧ k.queue = some n ∧ k.msg.len = 12 + bits (w 0) 23 16 ∧
            k.msg.body = w 1 + (q.amcnt + leNat (stepData r.words r.step (bits (w 0) 23 16)) * 2 ^ 32) * 2 ^ 64 ∧
            Instr.messageArrival s.serial ∈ t.due ∧ (t.launches.look id).map (·.dealt) = some (l.dealt + 1) ∧
            t.queues.look n = some { q with amcnt := (q.amcnt + 1) % 2 ^ 32, run := some { begun with waits := some s.serial } })) ∧
      (op = 7 → (bits (w 1) 63 58 ≠ 0 ∨ bits (w 1) 39 32 ≠ 0 → ends (.cqLctl n) s 4) ∧
        (bits (w 1) 63 58 = 0 → bits (w 1) 39 32 = 0 → 
          (let near := bits (w 1) 57 48 = s.table.devnum ∨ s.routes.at (bits (w 1) 57 48) [] = []
           s.launchNamed (w 1) = none → (near → ends (.cqLctl n) s 0) ∧ (¬ near → r.begun = false → goes (.cqLctl n) (s.cancelFar (w 1) sub)) ∧
            (¬ near → r.begun = true → ∃ t, { t with draws := s.draws } = s ∧
              (exec (.cqLctl n) s = .next t ∨ ends (.cqLctl n) t 0 ∨ ends (.cqLctl n) t 5))) ∧
          ∀ id l, s.launchNamed (w 1) = some (id, l) → (l.ctx ≠ q.ctx → ends (.cqLctl n) s 5) ∧
            (l.ctx = q.ctx → r.begun = false → goes (.cqLctl n) (s.push (.cancelDecision id sub))) ∧
            (l.ctx = q.ctx → r.begun = true → Instr.cancelDecision id sub ∉ s.due → ends (.cqLctl n) s 0))) ∧
      (op = 8 → sub = 0 → (q.amOpen = true → ends (.cqOpenam n) s 3) ∧
        (∀ c, q.amOpen = false → s.cpRecord q.ctx (w 1) = .error c → fails (.cqOpenam n) c false (w 1) 128) ∧
        ∀ lr t, q.amOpen = false → s.cpRecord q.ctx (w 1) = .ok (lr, t) →
          (lr.kind = false ∨ lr.extx ≠ 0 ∨ t.cpRecordBad q lr false (w 1) = true → ends (.cqOpenam n) t 4) ∧
          (lr.kind = true → lr.extx = 0 → t.cpRecordBad q lr false (w 1) = false → t.queued.length < 256 →
            ∃ u, exec (.cqOpenam n) s = .next u ∧ u.launchq = t.launchq ++ [t.serial] ∧
              (u.launches.look t.serial).map (fun l => (l.held, l.nextMsg, l.lr)) = some (true, 1, lr) ∧
              u.queues.look n = some { q with amh := t.table.devnum * 2 ^ 48 + t.launchSeq, amOpen := true, amcnt := 0,
                                              run := some (after { r with launches := r.launches ++ [t.serial] } 0) })) ∧
      (op = 8 → sub = 1 → (q.amOpen = false → ends (.cqCloseam n) s 0) ∧
        (q.amOpen = true → ∃ t, exec (.cqCloseam n) s = .next t ∧ t.queues.look n = some { q with amh := 0, amOpen := false, run := some (after r 0) } ∧
          ∀ id l, s.openLaunch q = some (id, l) → (t.launches.look id).map (·.held) = (s.launches.look id).map (fun _ => false))) ∧
      (op = 8 → ¬ host → (sub = 2 → ends (.cqFlagclr n) s 5) ∧ (sub = 3 → ends (.cqHalt n) s 5) ∧ (sub = 4 → ends (.cqSwapout n) s 5) ∧
        (sub = 5 → ends (.cqSwapin n) s 5) ∧ (sub = 6 → ends (.cqResume n) s 5) ∧ (sub = 7 → ends (.cqQuota n) s 5)) ∧
      (op = 8 → host → sub = 2 → ∃ t, ends (.cqFlagclr n) t 0 ∧ { t with cores := s.cores } = s ∧
        ∀ c, t.core c = { s.core c with flagAcc := (s.core c).flagAcc.drop (w 1) }) ∧
      (op = 8 → host → sub = 3 → (halt = .running → s.packetRuns (w 1) n = true → goes (.cqHalt n) s) ∧
        (halt = .running → s.packetRuns (w 1) n = false → stops (.cqHalt n)) ∧ (halt = .halting → goes (.cqHalt n) s) ∧
        (halt = .halted → ends (.cqHalt n) s 0)) ∧
      (op = 8 → host → sub = 4 → (halt = .running → s.packetRuns (w 1) n = false → stops (.cqSwapout n)) ∧ (halt = .halting → goes (.cqSwapout n) s) ∧
        (halt = .halted → moves (.cqSwapout n) .swappingOut r.result) ∧
        (halt = .swappingOut ∨ halt = .swappingIn → goes (.cqSwapout n) s) ∧ (halt = .swapped → ends (.cqSwapout n) s 0)) ∧
      (op = 8 → host → sub = 5 → (halt = .swapped → r.result = none → moves (.cqSwapin n) .swappingIn (some 0)) ∧
        (halt = .swappingIn ∨ halt = .swappingOut → goes (.cqSwapin n) s) ∧ (halt = .swapped → r.result.isSome = true → ends (.cqSwapin n) s 0) ∧
        (halt = .running ∨ halt = .halting ∨ halt = .halted → ends (.cqSwapin n) s 0)) ∧
      (op = 8 → host → sub = 6 → (halt = .halting → goes (.cqResume n) s) ∧ (halt = .running → ends (.cqResume n) s 0) ∧
        (halt = .halted → ∃ t, ends (.cqResume n) t 0 ∧ t.parts.look (w 1) = none ∧
          ∀ c m, m ≠ 8 → (s.slot c m).part = w 1 → (s.slot c m).phase ≠ .free → (t.slot c m).halted = false)) ∧
      (op = 8 → host → sub = 7 → ∃ t, ends (.cqQuota n) t 0 ∧ { t with quota := s.quota } = s ∧ t.quota.at (w 1) 16 = w 2)

/-! ## Events: health and bring-up -/

/-- R392, R400, R417, R423, R430, R433 to R438: an error event updates its location's record and the error ring, and retires a
location that has become lasting; a patrol changes no value; a link that fails leaves the routes, and what left on it takes its way
anew; a silent role is restarted, which is reported, and its launches are aborted; the hash of the firmware's code is taken every
2^30 ticks; and power-on and each reset lead to service with nothing kept but flash, or to recovery where the strap asks for it, a
step of bring-up fails, or the image or the table fails its check. The model's choices: what survives a reset, and GT's start
(assumption 49), what a retired location held and how a restarted role's launches end (50), whether a replay passes (51), the
standards of the signatures (17), LOC of an image in vellum (123) and the straps at a reset (124). -/
def Obligations.HealthAndBringUp : Prop :=
  ∀ (s : State) (loc part port role place : Nat) (b : Bool) (id : BitVec 4),
    let bad := fun (r : Bool) (d : Nat) => r = true ∨ stepFails d = true ∨ s.flash.torn = true ∨ imageOk s.flash.image = false ∨
      s.flash.table.accepted s.flash.image s.flash.minSvn = false
    let comes := fun (i : Instr) (r : Bool) (n : BitVec 4) (d : Nat) => ∃ t, exec i s = .next t ∧ t.recov = r ∧ t.slotid = n ∧ t.mem = [] ∧ t.launches = [] ∧
      t.queues = [] ∧ t.sessions = [] ∧ t.lpct = [] ∧ t.parts = [] ∧ (∀ c, (t.core c).slots = [] ∧ (t.core c).part = none) ∧
      t.flash.image = s.flash.image ∧ (bad r d → t.boot = .recovery ∧ t.table.addr = 0xFE80 * 2 ^ 112 + Config.serialNumber % 2 ^ 64) ∧
      (¬ bad r d → t.boot = .service ∧ t.table = s.flash.table ∧ t.roles = s.flash.table.roleMap ∧ t.flash.minSvn = s.flash.table.svn)
    let restarts := fun (i : Instr) => ∃ r n, comes i r n (s.draws + 1)
    let torn := fun (t : State) => t.flash.torn = true ↔ s.flash.torn = true ∨ s.flash.written ≠ 0 ∨ s.flash.received ≠ 0 ∧ s.flash.verified = none
    (∀ img, imageOk img = true ↔ shake256 (Config.imageKey img) = fusedKeyHash ∧
      xmssVerify (Config.imageKey img) (shake256 (Config.imageBody img)) (Config.imageSignature img) = true ∧ Config.fusedMinSvn ≤ Config.imageSvn img) ∧
    (∀ (k : ConfigTable) img least, k.accepted img least = true → shake256 k.operatorKey = Config.imageOperator img ∧
      xmssVerify k.operatorKey (shake256 (Config.tableBytes k.words)) k.signature = true ∧ k.ver = 1 ∧
      k.podsz ≤ 1024 ∧ k.devnum < k.podsz ∧ k.mgmt.length ≤ 8 ∧ least ≤ k.svn ∧ 1 ≤ k.columns.length ∧ k.columns.length ≤ 4) ∧
    (∀ unit, 7 < unit → Waits (.errorEvent b unit loc part) s) ∧
    (∀ unit ≤ 7, ∃ t way, exec (.errorEvent b unit loc part) s = .next t ∧
      let at_ := locationOf unit loc way
      let old := (s.locations.find? (fun r => r.unit == unit && r.loc == at_)).getD { unit := unit, loc := at_ }
      let lasting := makesLasting b old.times s.gt
      (∃ r ∈ t.locations, r.unit = unit ∧ r.loc = at_ ∧ r.lasting = (old.lasting || lasting)) ∧
        t.corrected.at unit 0 = s.corrected.at unit 0 + (if b then 0 else 1) ∧
        t.errorIndex = s.errorIndex + (if b then 1 else 0) +
          (if lasting = true ∧ old.lasting = false then (if unit = 1 ∨ unit = 3 ∨ unit = 4 then 2 else 1) else 0) ∧
        (lasting = true → old.lasting = false → unit = 4 → t.lostBanks.at at_ false = true) ∧
        (lasting = true → old.lasting = false → unit = 3 → t.lostUnits.at at_ false = true) ∧
        (unit = 0 → b = true → t.badAt (loc / 32 * 32) 32 = true) ∧
        (unit = 7 → b = true → ∀ x i, s.parts.look (part % 16) = some x → x.inHbm = false → x.image = some i → ∃ y k,
          t.parts.look (part % 16) = some y ∧ y.image = some k ∧
          k.bad.at (localKey (s.logical (bits loc 47 34)) 0 (bits loc 31 0 / 8 * 8) / 8) false = true)) ∧
    (∃ t, exec (.hbmPatrol loc) s = .next t ∧ { t with errors := s.errors, errorIndex := s.errorIndex } = s ∧
      t.errorIndex = s.errorIndex + (if loc < hbmEnd ∧ s.badAt (loc / 32 * 32) 32 = true then 1 else 0)) ∧
    (15 < port ∨ s.failedPorts.at port false = true → Waits (.linkReplay port) s ∧ Waits (.linkFailure port) s) ∧
    (port ≤ 15 → s.failedPorts.at port false = false →
      (∃ t, exec (.linkFailure port) s = .next t ∧ t.failedPorts.at port false = true ∧ (∀ e ∈ t.routes, port ∉ e.2) ∧
        t.errorIndex = s.errorIndex + 2 ∧
        ∀ k p, s.packets.look k = some p → t.packets.look k = some (if p.via = some port ∧ p.answer = none then { p with via := none } else p)) ∧
      ∃ t, exec (.linkReplay port) s = .next t ∧ (t.replays.at port 0 = 0 ∨ t.replays.at port 0 = s.replays.at port 0 + 1) ∧
        (t.failedPorts.at port false = true ↔ 16 ≤ t.replays.at port 0)) ∧
    ((s.roles.look role).isSome = true → exec (.heartbeat role) s = .next { s with heartbeats := s.heartbeats.set role s.gt }) ∧
    (s.roles.look role = none → Waits (.heartbeat role) s ∧ Waits (.roleRestart role place) s) ∧
    (∀ code, s.roles.look role = some code → s.gt < s.heartbeats.at role 0 + 1000000 → Waits (.roleRestart role place) s) ∧
    (∀ code, s.roles.look role = some code → s.heartbeats.at role 0 + 1000000 ≤ s.gt → s.roles.look place = none → place % 16 < 4 →
      s.isEasel (place / 16) = true → isLittle (place / 16) = true →
      ∃ t, exec (.roleRestart role place) s = .next t ∧ t.roles.look place = some code ∧ t.roles.look role = none ∧ t.launches = s.launches ∧
        t.restarts = s.restarts ++ [(s.gt, code)] ∧
        ∀ e ∈ s.launches, e.2.heldBy s (code % 16) (code / 16) = true → ∃ gt cause pl, Instr.faultNotice e.1 gt cause pl ∈ t.due) ∧
    (s.boot ≠ .service ∨ s.gt < s.hashAt + 2 ^ 30 → Waits (.firmwareHashCheck b) s) ∧
    (s.boot = .service → s.hashAt + 2 ^ 30 ≤ s.gt → exec (.firmwareHashCheck true) s = .next { s with hashAt := s.gt } ∧
      restarts (.firmwareHashCheck false)) ∧
    (s.boot = .off → comes (.powerOn b id) (!b) id s.draws ∧ Waits .resetN s ∧ Waits .thermalTrip s) ∧
    (s.boot ≠ .off → Waits (.powerOn b id) s ∧ restarts .resetN) ∧
    (∃ t, exec .supplyFault s = .next t ∧ t.boot = .off ∧ t.pwrgd = false ∧ torn t ∧ t.mem = [] ∧ t.cores = [] ∧ t.flash.image = s.flash.image) ∧
    (s.boot ≠ .off → ∃ t, exec .thermalTrip s = .next t ∧ t.boot = .tripped ∧ t.therm = true ∧ torn t ∧ t.mem = [] ∧ t.cores = []) ∧
    (s.flash.verified = none → Does .recoveryReset (fun t => t) s) ∧
    ∀ g, s.flash.verified = some g → ((∃ p ∈ s.managers, p.unacked ≠ []) → s.gt < g + 200000 → Waits .recoveryReset s) ∧
      ((∀ p ∈ s.managers, p.unacked = []) ∨ g + 200000 ≤ s.gt → restarts .recoveryReset)

/-! ## Events: the port -/

/-- R316, R367, R383 to R393, R416 to R422, R434: packets with an unknown header are dropped; a packet of its stream's next number is
accepted and acknowledged, one ahead of it answered by NAK and one behind it by ACK; WRITE, READ, IDENT, ATTEST, RECOVER and
every MGMT request then have their effect and their answer, where an access has to wait (R195, R204) once it is done; ATTEST commits
the next leaf before it signs (R418); a host ACK frees what it covers, a NAK or 200 microseconds of silence have the rest sent again;
and the two ICMPv6 requests are answered. The model's choices: QEND behind SERIAL launches (assumption 40), the lowest free session and
queue number (41), MGMT off session 0 (46), corner cases of the requests, CLOSE of session 0 among them (47), the order of ATTEST's
checks (48), the largest payload and a NAK's cause (53), streams in recovery (54), packets whose items wait (101), the byte order of
OPEN's address (116) and the signature's standard (17). -/
def Obligations.PortEvents : Prop :=
  ∀ (s : State) (f : Frame),
    let mgmt := [Instr.mgmtCtxnew f, .mgmtCtxend f, .mgmtPartcores f, .mgmtPartfree f, .mgmtOpen f, .mgmtClose f, .mgmtWindow f, .mgmtQnew f,
      .mgmtQend f, .mgmtPodreg f, .mgmtPodunreg f, .mgmtFwwrite f, .mgmtFwcommit f, .mgmtTelem f, .mgmtErrlog f]
    let rest := [Instr.lodjaupWrite f, .lodjaupRead f, .lodjaupAck f, .lodjaupNak f, .ident f, .attest f, .recover f]
    let fresh := (∀ e ∈ s.portWork, e.1 ≠ f) ∧ ∀ g ∈ s.signing, g.frame ≠ f
    (fresh → parsePacket f.data = none → ∀ i ∈ mgmt ++ rest, Waits i s) ∧
    (f.ipv6 = false ∨ f.extended = true ∨ f.proto ≠ 17 ∨ 9216 < f.data.length + 66 ∨ f.checksum = 0 ∨ (∃ n, f.port = some n ∧ n ≠ s.table.udp) ∨
        (∃ d, f.dst = some d ∧ d ≠ s.table.addr) → f ∉ s.waiting → fresh → ∀ i ∈ mgmt ++ rest, Waits i s) ∧
    (f.ipv6 = false ∨ f.extended = true ∨ f.proto ≠ 58 ∨ 9216 < f.data.length + 58 ∨
        (∃ d, f.dst = some d ∧ d ≠ s.table.addr ∧ d / 2 ^ 120 ≠ 0xFF) →
      Waits (.echoRequest f) s ∧ Waits (.neighborSolicitation f) s) ∧
    (∀ n addr, s.peer n addr = none → Does (.ackDue n addr) id s ∧ Waits (.deviceResendTimeout n addr) s) ∧
    (∀ n addr p, s.peer n addr = some p → Does (.ackDue n addr) (fun t => if p.owesAck then t.sendCtl kAck n p [] else t) s ∧
      (p.unacked = [] ∨ s.gt < p.since + 200000 → Waits (.deviceResendTimeout n addr) s) ∧
      (p.unacked ≠ [] → p.since + 200000 ≤ s.gt → ∃ t, exec (.deviceResendTimeout n addr) s = .next t ∧
        t.sentFrames = s.sentFrames ++ p.unacked.map (fun d => { src := p.addr, data := d.data }) ∧
        { t with sentFrames := s.sentFrames } = s.setPeer n { p with since := s.gt })) ∧
    (∀ g, s.signing.find? (fun g => g.frame == f) = some g → exec (.attest f) s = .next (({ s.did (.attest f) with signing := s.signing.erase g } : State).sendData
      kAttest g.session f.src (leBytes 8 0 ++ (g.body ++ identitySeeds.sign g.leaf (shake256 g.body))))) ∧
    (s.boot = .service → s.portTakes f true = true → leAt f.data 0 2 = 128 → 8 ≤ f.data.length →
      exec (.echoRequest f) s = .next (s.emit f.src (icmp s.table.addr f.src 129 (f.data.drop 4)))) ∧
    (s.boot = .service → s.portTakes f true = true → leAt f.data 0 2 = 135 → 24 ≤ f.data.length → (f.data.drop 8).take 16 = beBytes 16 s.table.addr →
      ∃ t m, exec (.neighborSolicitation f) s = .next t ∧ { t with sentFrames := s.sentFrames } = s ∧
        t.sentFrames = s.sentFrames ++ [{ src := f.src, data := m }] ∧ m.length = 32 ∧ m.take 2 = leBytes 2 136 ∧
        (m.drop 8).take 16 = beBytes 16 s.table.addr ∧ m.drop 26 = beBytes 6 s.table.mac) ∧
    (s.boot ≠ .service → Waits (.echoRequest f) s ∧ Waits (.neighborSolicitation f) s ∧ Waits (.ident f) s ∧
      (fresh → Waits (.attest f) s ∧ Waits (.lodjaupWrite f) s ∧ Waits (.lodjaupRead f) s) ∧ (f ∉ s.waiting → ∀ i ∈ mgmt, Waits i s)) ∧
    ∀ (h : LPacket) (p : Peer), s.portTakes f false = true → parsePacket f.data = some h → s.peer h.session f.src = some p →
      let q : Peer := { p with expect := (p.expect + 1) % 2 ^ 32, owesAck := true }
      let t := if h.now then s.sendCtl kAck h.session q [] else (s.setPeer h.session q).push (.ackDue h.session f.src)
      let data := fun (i : Instr) (u : State) (body : List Byte) => exec i s = .next (u.sendData h.kind h.session f.src body)
      let tells := fun (i : Instr) (u : State) (status : Nat) (results : List Byte) => exec i s = .next (u.reply h f.src status results)
      let arg := leAt h.body
      let mayAck := (p.next + 2 ^ 32 - h.apsn) % 2 ^ 32 < 2 ^ 31
      let kept : Peer := { p with since := s.gt, unacked := p.unacked.filter (fun d => decide ((d.psn + 2 ^ 32 - h.apsn) % 2 ^ 32 < 2 ^ 31)) }
      let ahead := (h.psn + 2 ^ 32 - p.expect) % 2 ^ 32
      (s.boot = .service → h.kind = kAck → h.psn = 0 → mayAck → exec (.lodjaupAck f) s = .next (s.setPeer h.session kept)) ∧
      (s.boot = .service → h.kind = kNak → h.psn = 0 → mayAck → exec (.lodjaupNak f) s = .next ((s.setPeer h.session kept).resend kept)) ∧
      (s.boot = .service → h.psn = 0 → ¬ mayAck → Waits (.lodjaupAck f) s ∧ Waits (.lodjaupNak f) s) ∧
      (s.boot = .service → h.kind = kIdent → h.body = [] → ahead ≠ 0 →
        exec (.ident f) s = .next (s.sendCtl (if ahead < 2 ^ 31 then kNak else kAck) h.session p [])) ∧
      (s.boot = .service → h.kind = kIdent → h.body = [] → h.psn = p.expect → data (.ident f) t t.ident) ∧
      (fresh → s.boot = .service → h.kind = kAttest → h.body.length = 40 → arg 34 6 = 0 → h.psn = p.expect → arg 32 1 = 1 →
        t.partExists (arg 33 1) = false → data (.attest f) t (leBytes 8 2)) ∧
      (fresh → s.boot = .service → h.kind = kAttest → h.body.length = 40 → arg 34 6 = 0 → h.psn = p.expect → arg 32 1 = 0 →
        let fields := t.attestFields (h.body.take 32) none t.flash.leaf
        (2 ^ 20 ≤ t.flash.leaf → data (.attest f) t (leBytes 8 1)) ∧
        (t.flash.leaf < 2 ^ 20 → exec (.attest f) s = .next (({ t with
            flash := { t.flash with leaf := t.flash.leaf + 1 },
            signing := t.signing ++ [{ frame := f, session := h.session, body := fields, leaf := t.flash.leaf }] } : State).push (.attest f)))) ∧
      (s.boot = .recovery → h.kind = kRecover → h.psn = p.expect → 1 ≤ arg 8 4 → arg 8 4 ≤ 8192 → h.body.length = 16 + arg 8 4 → arg 12 1 ≤ 1 →
        arg 13 3 = 0 →
        let img := t.flash.image.take (arg 0 8) ++ h.body.drop 16
        (arg 0 8 ≠ t.flash.received → data (.recover f) t (leBytes 8 2)) ∧
        (arg 0 8 = t.flash.received → arg 12 1 = 0 →
          exec (.recover f) s = .next { t with flash := { t.flash with image := img, received := img.length } }) ∧
        (arg 0 8 = t.flash.received → arg 12 1 = 1 → imageOk img = true → exec (.recover f) s = .next ((({ t with
            flash := { t.flash with image := img, received := img.length, verified := some s.gt, torn := false } } : State).sendData
          h.kind h.session f.src (leBytes 8 0)).pushOnce .recoveryReset)) ∧
        (arg 0 8 = t.flash.received → arg 12 1 = 1 → imageOk img = false →
          data (.recover f) { t with flash := { t.flash with image := [], received := 0 } } (leBytes 8 7))) ∧
      (∀ e x items, s.portWork.find? (fun e => e.1 == f) = some e → h.kind = kWrite → parseItems h.body.length h.body = some items →
        s.sessions.look h.session = some x → s.portWorldOk x.ctx = true →
        let v : State := { s.did (.lodjaupWrite f) with portWork := s.portWork.erase e }
        (∀ u, v.writeItems x e.2 (items.drop e.2) = (none, u) → exec (.lodjaupWrite f) s = .next u) ∧
          ∀ k c u, v.writeItems x e.2 (items.drop e.2) = (some (k, c), u) → exec (.lodjaupWrite f) s =
            .next (if c = notYet then u.portWaits f (.lodjaupWrite f) k else u.nakItem h.session f.src k c)) ∧
      (∀ x items, fresh → s.boot = .service → h.kind = kWrite → h.session ≠ 0 → h.psn = p.expect → parseItems h.body.length h.body = some items →
        t.sessions.look h.session = some x →
        (t.portWorldOk x.ctx = false → exec (.lodjaupWrite f) s = .next (t.nakItem h.session f.src 0 causeAccess)) ∧
        (t.portWorldOk x.ctx = true → (∀ u, t.writeItems x 0 items = (none, u) → exec (.lodjaupWrite f) s = .next u) ∧
          ∀ k c u, t.writeItems x 0 items = (some (k, c), u) → exec (.lodjaupWrite f) s =
            .next (if c = notYet then u.portWaits f (.lodjaupWrite f) k else u.nakItem h.session f.src k c))) ∧
      (∀ x, fresh → s.boot = .service → h.kind = kRead → h.session ≠ 0 → h.psn = p.expect → h.body.length = 16 → 1 ≤ arg 8 4 → arg 8 4 ≤ 8192 →
        arg 12 4 = 0 → t.sessions.look h.session = some x →
        (t.portWorldOk x.ctx = false ∨ x.allows false (arg 0 8) (arg 8 4) = false →
          exec (.lodjaupRead f) s = .next (t.nakItem h.session f.src 0 causeAccess)) ∧
        (∀ c u, t.portWorldOk x.ctx = true → x.allows false (arg 0 8) (arg 8 4) = true →
          t.reachRun (t.portAccess x.ctx) false true (arg 0 8) (arg 8 4) = (.error c, u) → exec (.lodjaupRead f) s =
            .next (if c = notYet then u.portWaits f (.lodjaupRead f) 0 else u.nakItem h.session f.src 0 c)) ∧
        ∀ l u, t.portWorldOk x.ctx = true → x.allows false (arg 0 8) (arg 8 4) = true →
          t.reachRun (t.portAccess x.ctx) false true (arg 0 8) (arg 8 4) = (.ok l, u) →
          (u.badRun l = true → exec (.lodjaupRead f) s = .next (u.nakItem h.session f.src 0 causeData)) ∧
          (u.badRun l = false → exec (.lodjaupRead f) s = .next (u.sendData kRdata h.session f.src
            (leBytes 8 (arg 0 8) ++ leBytes 4 (arg 8 4) ++ leBytes 4 0 ++ padded8 (u.readRun l))))) ∧
      (s.boot = .service → h.kind = kMgmt → h.session ≠ 0 → h.op = 0 ∨ 15 < h.op → ∀ i ∈ mgmt, tells i s 4 []) ∧
      (s.boot = .service → h.kind = kMgmt → h.session ≠ 0 → ∀ n i, mgmt[n]? = some i → h.op = n + 1 → tells i s 4 []) ∧
      (f ∈ s.waiting → s.boot = .service → h.kind = kMgmt → h.session = 0 → s.mgmtBusy f.src = true → ∀ i ∈ mgmt,
        (ahead = 0 → Waits i s) ∧ (ahead ≠ 0 → exec i s = .next (s.sendCtl (if ahead < 2 ^ 31 then kNak else kAck) h.session p []))) ∧
      (s.boot = .service → h.kind = kMgmt → h.session = 0 → h.psn = p.expect → f ∉ s.waiting →
        s.mgmtBusy f.src = true ∨ (∃ g ∈ s.waiting, g.src = f.src) →
        ∀ n i, mgmt[n]? = some i → h.op = n + 1 → exec i s = .next { t with waiting := t.waiting ++ [f] }) ∧
      let first := s.mgmtBusy f.src = false ∧ ∀ g ∈ s.waiting, g.src ≠ f.src
      (s.boot = .service → h.kind = kMgmt → h.session = 0 → h.psn = p.expect → first → h.op = 0 ∨ 15 < h.op → ∀ i ∈ mgmt, tells i t 1 []) ∧
      (s.boot = .service → h.kind = kMgmt → h.session = 0 → h.psn = p.expect → first →
        let asks := fun (op : Nat) (named : List (Nat × Nat)) => h.op = op ∧ zeroBut ([(0, 1), (4, 4)] ++ named) h.body = true
        (h.op = 1 → zeroBut [(0, 1), (4, 4), (8, 128)] h.body = false → tells (.mgmtCtxnew f) t 1 []) ∧
        (asks 1 [(8, 128)] → let x := arg 8 128
          (recordOk x = false → tells (.mgmtCtxnew f) t 2 []) ∧
          (recordOk x = true → t.ctxs.look (bits x 911 896) = none →
            tells (.mgmtCtxnew f) { t with ctxs := t.ctxs.set (bits x 911 896) (Ctx.ofRecord x) } 0 [])) ∧
        (asks 2 [(8, 2)] → (t.ctxs.look (arg 8 2) = none → tells (.mgmtCtxend f) t 5 []) ∧
          ((t.ctxs.look (arg 8 2)).isSome = true → t.ctxBusy (arg 8 2) = true → tells (.mgmtCtxend f) t 6 []) ∧
          ((t.ctxs.look (arg 8 2)).isSome = true → t.ctxBusy (arg 8 2) = false → ∃ u, tells (.mgmtCtxend f) u 0 [] ∧
            u.ctxs = t.ctxs.drop (arg 8 2) ∧ ∀ c, u.core c = { t.core c with tvec := (t.core c).tvec.drop (arg 8 2) })) ∧
        (asks 3 ([(8, 2)] ++ (List.range 4).map (fun p => (16 + 8 * p, 6))) → arg 9 1 ≤ 1 →
          (∀ e, t.partPlan h.body = .error e → tells (.mgmtPartcores f) t e []) ∧
          (∀ cores, t.partPlan h.body = .ok cores → arg 9 1 = 0 → (∀ k ∈ t.columnsOf cores, (t.column k.1 k.2).st = .on) →
            tells (.mgmtPartcores f) (cores.foldl (fun u c => u.giveCore c (arg 8 1)) t) 0 []) ∧
          ∀ cores, t.partPlan h.body = .ok cores → (∃ k ∈ t.columnsOf cores, (t.column k.1 k.2).st ≠ .on) →
            ∃ u, exec (.mgmtPartcores f) s = .next u ∧ u.opening = t.opening ++ [f] ∧ u.cores = t.cores ∧
              ∀ k ∈ t.columnsOf cores, Instr.wakeRequest k.1 k.2 ∈ u.due) ∧
        (asks 4 [(8, 1)] → (15 < arg 8 1 → tells (.mgmtPartfree f) t 2 []) ∧
          (arg 8 1 ≤ 15 → t.partActive (arg 8 1) = false → t.ctxs.all (fun c => c.2.part != arg 8 1) = true → t.haltedPart (arg 8 1) = false →
            ∃ u, tells (.mgmtPartfree f) u 0 [] ∧ ∀ c, (u.core c).part ≠ some (arg 8 1) ∧
              ((t.core c).part ≠ some (arg 8 1) → u.core c = t.core c))) ∧
        (asks 5 [(8, 2), (16, 16)] → (t.ctxs.look (arg 8 2) = none → tells (.mgmtOpen f) t 5 []) ∧
          ((t.ctxs.look (arg 8 2)).isSome = true → 256 ≤ t.sessions.length → tells (.mgmtOpen f) t 3 []) ∧
          ((t.ctxs.look (arg 8 2)).isSome = true → t.sessions.length < 256 → let n := t.sessions.freeKey 4096 1
            let x : Session := { ctx := arg 8 2, peer := { addr := leNat ((h.body.drop 16).take 16).reverse } }
            t.sessions.look n = none ∧ tells (.mgmtOpen f) { t with sessions := t.sessions.set n x } 0 (leBytes 2 n))) ∧
        (asks 6 [(8, 2)] → (arg 8 2 = 0 → tells (.mgmtClose f) t 2 []) ∧
          (arg 8 2 ≠ 0 → t.sessions.look (arg 8 2) = none → tells (.mgmtClose f) t 5 []) ∧
          (arg 8 2 ≠ 0 → (t.sessions.look (arg 8 2)).isSome = true → ∃ u, tells (.mgmtClose f) u 0 [] ∧ u.sessions = t.sessions.drop (arg 8 2))) ∧
        (asks 7 [(8, 4), (16, 16)] → arg 11 1 ≤ 3 → arg 8 2 ≠ 0 → arg 10 1 ≤ 15 → virtualRange (arg 16 8) (arg 24 8) = true →
          (t.sessions.look (arg 8 2) = none → tells (.mgmtWindow f) t 5 []) ∧
          ∀ x, t.sessions.look (arg 8 2) = some x → arg 24 8 ≠ 0 → 
            let w : Window := ⟨arg 16 8, arg 24 8, bit (arg 11 1) 0, bit (arg 11 1) 1⟩
            tells (.mgmtWindow f) { t with sessions := t.sessions.set (arg 8 2) { x with windows := x.windows.set (arg 10 1) w } } 0 []) ∧
        (asks 8 [(8, 3), (12, 2), (16, 24)] → ∀ k, t.ctxs.look (arg 8 2) = some k → arg 12 2 = 0 → 6 ≤ arg 10 1 → arg 10 1 ≤ 20 → arg 16 8 % 64 = 0 →
          arg 24 8 % (64 * 2 ^ arg 10 1) = 0 → arg 32 8 % (32 * 2 ^ arg 10 1) = 0 → t.queues.length < 256 →
          let n := t.queues.freeKey 256 0
          let z : CmdQueue := { ctx := arg 8 2, desc := arg 16 8, qbase := arg 24 8, cbase := arg 32 8, qlog := arg 10 1 }
          (∀ c, t.cpStore (arg 8 2) (arg 16 8) (z.bytes ++ leBytes 8 0) = .error c → (c ≠ notYet → tells (.mgmtQnew f) t 2 []) ∧
            (c = notYet → exec (.mgmtQnew f) s = .next ((({ t.cpAsk (arg 8 2) true (arg 16 8) 64 with waiting := f :: t.waiting } : State).did
              (.mgmtQnew f)).push (.mgmtQnew f)))) ∧
          ∀ u, t.cpStore (arg 8 2) (arg 16 8) (z.bytes ++ leBytes 8 0) = .ok u →
            tells (.mgmtQnew f) (({ u with queues := u.queues.set n z } : State).push (.tailRead n)) 0 (leBytes 2 n)) ∧
        (asks 9 [(8, 2)] → (t.queues.look (arg 8 2) = none → tells (.mgmtQend f) t 5 []) ∧
          (∀ z, t.queues.look (arg 8 2) = some z → z.ending.isSome = true ∨ z.state = 0 → tells (.mgmtQend f) t 6 []) ∧
          (∀ z r, t.queues.look (arg 8 2) = some z → z.ending = none → z.state ≠ 0 → z.run = some r → r.ended.isSome = true →
            tells (.mgmtQend f) (t.putQueue (arg 8 2) { z with state := 0 }) 0 []) ∧
          (∀ z, t.queues.look (arg 8 2) = some z → z.ending = none → z.state ≠ 0 → z.run = none →
            (∀ u, t.endQueue (arg 8 2) z = some u → tells (.mgmtQend f) u 0 [] ∧ u.queues.look (arg 8 2) = none) ∧
            (t.endQueue (arg 8 2) z = none → exec (.mgmtQend f) s = .next (t.endLater (arg 8 2) { z with ending := some (f.src, arg 4 4) }))) ∧
          (∀ z r, t.queues.look (arg 8 2) = some z → z.ending = none → z.state ≠ 0 → z.run = some r → r.ended = none → exec (.mgmtQend f) s =
            .next { t with queues := t.queues.set (arg 8 2) { z with ending := some (f.src, arg 4 4) } })) ∧
        (asks 10 [(8, 6)] → (t.ctxs.look (arg 8 2) = none → tells (.mgmtPodreg f) t 5 (leBytes 2 t.table.devnum)) ∧
          let me := t.table.devnum
          let reach := (t.ctxs.look (arg 8 2)).isSome = true ∧ ∀ i ≤ min (arg 12 2) 1024, arg 10 2 + i < t.table.podsz ∧
            (arg 10 2 + i = me ∨ t.routes.at (arg 10 2 + i) [] ≠ [])
          (reach → (∃ r ∈ t.registering, r.ctx = arg 8 2) → tells (.mgmtPodreg f) t 6 []) ∧
          (reach → (∀ r ∈ t.registering, r.ctx ≠ arg 8 2) → 64 ≤ t.podTable.length → tells (.mgmtPodreg f) t 3 (leBytes 2 me)) ∧
          (reach → (∀ r ∈ t.registering, r.ctx ≠ arg 8 2) → t.podTable.length < 64 → ∃ u, exec (.mgmtPodreg f) s = .next u ∧
            u.podTable = t.podTable ++ (if arg 10 2 ≤ me ∧ me ≤ arg 10 2 + arg 12 2 then [] else [{ ctx := arg 8 2, dev0 := arg 10 2, ndev := arg 12 2 }]) ∧
            u.registering.map (·.ctx) = t.registering.map (·.ctx) ++ [arg 8 2])) ∧
        (asks 11 [(8, 2)] → ((∀ e ∈ t.podTable, e.ctx ≠ arg 8 2) → tells (.mgmtPodunreg f) t 5 []) ∧
          ((∃ e ∈ t.podTable, e.ctx = arg 8 2) → t.launches = [] → ∃ u, tells (.mgmtPodunreg f) u 0 [] ∧
            u.podTable = t.podTable.filter (fun e => e.ctx != arg 8 2))) ∧
        (asks 12 [(8, 12), (24, 8192)] → let d := (h.body.drop 24).take (arg 16 4)
          (arg 8 8 ≠ t.flash.written → tells (.mgmtFwwrite f) t 2 []) ∧
          (1 ≤ arg 16 4 → arg 16 4 ≤ 8192 → arg 8 8 = t.flash.written → d.length = arg 16 4 → zeroBut [(0, 24 + arg 16 4)] h.body = true →
            (Config.flashFails t.draws = true → ∃ u, tells (.mgmtFwwrite f) u 7 [] ∧ u.flash.written = t.flash.written) ∧
            (Config.flashFails t.draws = false → tells (.mgmtFwwrite f) { t with flash := { t.flash with image := putImage t.flash.image (arg 8 8) d, written := arg 8 8 + arg 16 4 } } 0 []))) ∧
        (asks 13 [(8, 8)] → let img := t.flash.image.take (arg 8 8)
          let u : State := { t with flash := { t.flash with image := img, written := 0, torn := false } }
          (t.flash.image.length < arg 8 8 → tells (.mgmtFwcommit f) t 2 []) ∧
          (arg 8 8 ≤ t.flash.image.length → imageOk img = true → tells (.mgmtFwcommit f) u 0 (leBytes 4 (Config.imageSvn img))) ∧
          (arg 8 8 ≤ t.flash.image.length → imageOk img = false → tells (.mgmtFwcommit f) u 7 [])) ∧
        (asks 14 [(8, 2)] → (15 < arg 8 1 ∨ 3 < arg 9 1 → tells (.mgmtTelem f) t 2 []) ∧
          (arg 8 1 ≤ 15 → arg 9 1 ≤ 3 → tells (.mgmtTelem f) t 0
            ((t.telemetry (arg 8 1) (arg 9 1) ++ (List.range 8).map (fun u => t.corrected.at u 0)).flatMap (leBytes 8)))) ∧
        (asks 15 [(8, 6)] → (arg 12 2 = 0 ∨ 64 < arg 12 2 → tells (.mgmtErrlog f) t 2 []) ∧
          (1 ≤ arg 12 2 → arg 12 2 ≤ 64 → tells (.mgmtErrlog f) t 0 (leBytes 4 t.errorIndex ++ leBytes 4 0 ++
            (List.range (arg 12 2)).flatMap (fun k => leBytes 16 (t.errorAt (arg 8 4 + k)).toNat)))))

/-! ## Issue, fetch and the step -/

/-- R29, R37, R39, R40, R96, R172, R431: a task that may not issue stays as it is; a word that is not well-formed, or to which a
pending prefix does not belong, is an illegal-instruction fault; an instruction waits for the predicate and the selector that
decide its guard, and only advances the pc and consumes its prefixes where they guard it off; one whose operand is outstanding
waits; and a source register with uncorrectable bits lets it have no effect of its own, whether its own checks fault first, and
is a data error where it has none. That outstanding destinations block an instruction is the model's reading (assumption 19). -/
def Obligations.NotIssued : Prop :=
  ∀ (i : Instr) (s : State), i.guard?.isSome = true →
    let off := guardedOff (governsOf i) (s.mask ((i.guard?).getD 7)) s.me.peek = true ∧ s.me.unreadable (governsOf i).reads = none
    let gv := governsOf i
    let late := s.me.guardStall s.opParked gv.reads (guardPred i)
    let issues := s.mayIssue s.cur.core s.cur.slot = true ∧ i.wf ∧ pfxOk i s.me.arch.pfx = true ∧ s.me.ship = none
    let waits := StallsFor i .scoreboard s ∨ StallsFor i .parked s
    (s.mayIssue s.cur.core s.cur.slot = false → Waits i s) ∧
    (s.mayIssue s.cur.core s.cur.slot = true → s.me.ship = none → ¬ i.wf ∨ pfxOk i s.me.arch.pfx = false →
      TrapsWith i causeIllegal ((encode i).getD 0).toNat s) ∧
    (issues → ∀ why, late = some why → StallsFor i why s) ∧
    (issues → late = none → off → ∃ t, exec i s = .next t ∧ RegsOnly [] [] s t ∧ NoFlags s t ∧ Advanced s t) ∧
    (issues → late = none → ¬ off → s.me.blockers (s.uses i) (guardPred i) ≠ [] → waits) ∧
    (issues → late = none → ¬ off → s.me.blockers (s.uses i) (guardPred i) = [] → (∀ r ∈ (s.uses i).src, s.me.bound r = false) →
      ∀ r, (s.uses i).src.find? s.me.badRegs.contains = some r →
        (∃ code tval qual, exec i s = .next (s.enterTrap s.cur.core s.cur.slot code tval qual false 0 (s.envOf i).first)) ∨
          (∃ why, StallsFor i why s)) ∧
    ∀ g d a b w, i = .add g d a b w → issues → late = none → ¬ off → s.me.blockers (s.uses i) (guardPred i) = [] →
      (∀ r ∈ (s.uses i).src, s.me.bound r = false) →
      ∀ r, (s.uses i).src.find? s.me.badRegs.contains = some r → TrapsWith i causeData (0x2000 * s.cur.slot + 0x80 * r) s

/-- R14, R28, R39, R40, R74, R185, with the model's own schedule (log entry 2): when a task's turn comes, the four bytes at its pc in local
storage are decoded and the instruction that they stand for is executed, and then time passes and the turn goes on; where the fetch
needs a page walk the task waits for it (R204), and what walks answered an earlier instruction is forgotten; bytes that
decode to no instruction are an illegal-instruction fault, and a code capability without its tag is a tag fault; the schedule's event, or the oldest event under way, is executed in
its turn. -/
def Obligations.StepRunsDecoded : Prop :=
  ∀ (s : State),
    (∀ t, s.plan = .task t → ∀ i u, t.fetch = .ok (i, u) → step s = elapsed (rotated (exec i u))) ∧
    (∀ t, s.plan = .task t → ∀ o, t.fetch = .error o → step s = elapsed (rotated o)) ∧
    (let a := s.me.arch
     let v := if s.me.wait.isSome = true then s else s.forget s.myAccess.who
     (a.codeTag = false → s.me.ship = none → s.fetch = .error (.next (v.enterTrap s.cur.core s.cur.slot causeTag a.pc.toNat 0 false 0 a.resume))) ∧
     (∀ t, v.checkAccess s.myAccess a.codeTag (Cap.ofBits a.code)
         { x := a.pc.toNat, n := 4, align := 4, perms := [.ex], rd := false, ex := true } = (.error notYet, t) →
       s.fetch = .error (.next ((t.wantWalk s.myAccess a.pc.toNat).updMe (fun y => y.stalls .walk t.now)))) ∧
     ∀ p t, v.checkAccess s.myAccess a.codeTag (Cap.ofBits a.code)
         { x := a.pc.toNat, n := 4, align := 4, perms := [.ex], rd := false, ex := true } = (.ok p, t) →
       p.isLocal = true → s.badAt p.key 4 = false →
       let bytes := (List.range 4).map (fun k => s.byte (p.key + k))
       (∀ i rest, decodeBytes bytes = .ok (i, rest) → s.fetch = .ok (i, t)) ∧
       (∀ d, s.me.ship = none → decodeBytes bytes = .error d → s.fetch = .error (.next
         (t.enterTrap t.cur.core t.cur.slot causeIllegal (s.readMem p.key 4) 0 false 0 a.resume)))) ∧
    (s.agenda = [] → s.beat = false → s.mayIssue s.cur.core s.cur.slot = true → s.issuers ≠ [] → s.plan = .task { s with beat := true }) ∧
    (s.agenda = [] → s.beat = true → ∀ i r, s.due = i :: r → step s = elapsed (exec i { s with beat := false, due := r ++ [i] })) ∧
    (∀ i r, s.agenda = .event i :: r → step s = elapsed (exec i { s with agenda := r })) ∧
    (∀ c n r, s.agenda = .issue c n :: r → s.mayIssue c n = true → s.plan = .task { s with agenda := r, cur := ⟨c, n⟩ }) ∧
    ∀ t, let n := t.now + 1 + Config.freeNat t.draws
      elapsed (.next t) = .next
        { t with draws := t.draws + 1, now := n, gangs := ({ t with draws := t.draws + 1 } : State).watchGangs (n / gtUnits - t.gt) }

/-- R28 to R36, R95: worked encodings of the specification, of every row of the opcode grid's families, decode to the
instructions that they stand for. -/
def Obligations.DecodedWords : Prop :=
  decode 0x32028C3A = .ok (.add 3 5 6 7 2) ∧ decode 0x75620AA0 = .ok (.addiX 7 4 5 0x0A0) ∧ decode 0x7C221213 = .ok (.stx 7 4 9 2 3) ∧
    decode 0x242DA8A9 = .ok (.sel 2 27 20 21 1) ∧ decode 0x7645082A = .ok (.cmp 7 2 1 2 4 5 2) ∧ decode 0x774528A8 = .ok (.fcmp 7 2 1 2 20 21 0) ∧
    decode 0x79228C62 = .ok (.fcvt 7 5 6 1 4 2) ∧ decode 0x19CA2A02 = .ok (.ftrans 1 20 21 0 2) ∧ decode 0x7B80A010 = .ok (.pset 7 1 2 0x010) ∧
    decode 0x70C0FFFE = .ok (.wait 7 0 31 31 31) ∧ decode 0x71200000 = .ok (.eret 7) ∧ decode 0x71C00828 = .ok (.tlbiRange 7 4 5) ∧
    decode 0x7C048653 = .ok (.ldx 7 9 3 10 3) ∧ decode 0x5C4B8805 = .ok (.ldv 5 23 4 0) ∧ decode 0x1CAA0842 = .ok (.gathp 1 20 4 8 2) ∧
    decode 0x7D029403 = .ok (.stfe 7 5 10 0 3) ∧ decode 0x7D460812 = .ok (.ldt 7 12 4 2 2) ∧ decode 0x7DC00024 = .ok (.fence 7 4 4) ∧
    decode 0x7E438A35 = .ok (.xatom 7 7 5 6 5) ∧ decode 0x7E828C01 = .ok (.barArrive 7 5 6) ∧ decode 0x7EC28C00 = .ok (.launch 7 5 6) ∧
    decode 0x7F028C39 = .ok (.sendAck 7 5 6 7) ∧ decode 0x7F3C0048 = .ok (.portBind 7 56 9) ∧ decode 0x7F400849 = .ok (.htabWr 7 4 9) ∧
    decode 0x7F84882D = .ok (.cpySlab 7 9 4 5) ∧ decode 0x7FA19460 = .ok (.mtxMma 7 3 10 12) ∧ decode 0x7FC28048 = .ok (.eregRd 7 5 9) ∧
    decode 0xF04000C3 = .ok (.pfxI 0x0000C3) ∧ decode 0xF01FE400 = .ok (.pfxT 15 15 2) ∧ decode 0xF0280000 = .ok (.pfxC 1) ∧
    decode 0xF0740000 = .ok (.pfxS 2 4)

/-- R28 to R36, R39: the decoder reads from the word of a well-formed instruction that instruction, with every operand; and it
reads no instruction from a word but a well-formed one whose word it is. -/
def Obligations.DecodeEncodeAgree : Prop :=
  (∀ (i : Instr) (w : IWord), i.wf → encode i = some w → decode w = .ok i) ∧
  (∀ (w : IWord) (i : Instr), decode w = .ok i → i.wf ∧ encode i = some w) ∧
  (∀ i : Instr, i.guard?.isSome = true → (encode i).isSome = true) ∧
  ∀ (w : IWord) (i : Instr) (rest : List Byte), decode w = .ok i → decodeBytes (bytesOfWord w ++ rest) = .ok (i, rest)

/-! ## Reset and the invariant of storage -/

/-- R185, R234, R362, R436 step 3, with the values that the model chooses for what the specification leaves open at power-on
(log entries 1, 4, 5): the module is off; every slot is free with untagged zero registers; every byte of storage reads as zero,
with no tag and no full bit; the LPCT is the identity, LOG and the predictor are 0; and storage has its canonical form. -/
def Obligations.ResetValues : Prop :=
  let s := State.reset
  s.boot = .off ∧ s.Canonical ∧ s.agenda = [] ∧ s.due = [] ∧ s.launches = [] ∧ s.queues = [] ∧ s.sessions = [] ∧ s.errors = [] ∧
    (∀ k, keyIsView k = false → s.byte k = 0) ∧ (∀ k, s.tagAt k = false ∧ s.fullAt k = false) ∧
    (∀ c, s.phys c = c ∧ (s.core c).lpctLog = 0 ∧ (s.core c).predictor = [] ∧ (s.core c).part = none ∧ (s.core c).spill = 0) ∧
    ∀ c n, (s.slot c n).phase = .free ∧ (∀ r, (s.slot c n).arch.reg r = { v := 0, tag := false }) ∧ (s.slot c n).arch.sr = 0

/-- R185, R340: every step keeps storage, and the image of every partition that is swapped out, in its canonical form: addresses rise
strictly, and no entry holds what an unlisted address reads as. -/
def Obligations.StepKeepsCanonical : Prop :=
  ∀ (s t : State), s.Canonical → step s = .next t → t.Canonical
end

