-- ==== Sys2Proof/Laws/Bits.lean ====
section
/-!
SUPPORT. The element views of a register: an element read from a register built of elements.
-/

namespace Sys2Proof.Machine

theorem packList_lt (w : Nat) : ∀ l : List Nat, packList w l < 2 ^ (w * l.length)
  | [] => by simp [packList]
  | x :: xs => by
    have h := packList_lt w xs
    have h2 : x % 2 ^ w < 2 ^ w := Nat.mod_lt _ (Nat.two_pow_pos w)
    rw [packList, List.length_cons, Nat.mul_succ, Nat.pow_add, Nat.mul_comm (2 ^ (w * xs.length))]
    calc x % 2 ^ w + 2 ^ w * packList w xs < 2 ^ w + 2 ^ w * packList w xs := by omega
      _ = 2 ^ w * (packList w xs + 1) := by rw [Nat.mul_add, Nat.mul_one, Nat.add_comm]
      _ ≤ 2 ^ w * 2 ^ (w * xs.length) := Nat.mul_le_mul_left _ h

/-- Element j of a packed list. -/
theorem packList_elem (w : Nat) : ∀ (l : List Nat) (j : Nat), packList w l / 2 ^ (w * j) % 2 ^ w = l.getD j 0 % 2 ^ w
  | [], j => by simp [packList]
  | x :: xs, 0 => by
    simp [packList, Nat.add_mul_mod_self_left]
  | x :: xs, j + 1 => by
    have h2 : x % 2 ^ w < 2 ^ w := Nat.mod_lt _ (Nat.two_pow_pos w)
    have : (x % 2 ^ w + 2 ^ w * packList w xs) / 2 ^ (w * (j + 1)) = packList w xs / 2 ^ (w * j) := by
      rw [Nat.mul_succ, Nat.add_comm (w * j), Nat.pow_add, ← Nat.div_div_eq_div_mul,
        Nat.add_mul_div_left _ _ (Nat.two_pow_pos w), Nat.div_eq_of_lt h2, Nat.zero_add]
    rw [packList, this, packList_elem w xs j, List.getD_cons_succ]

/-- An element of a register built from a function, R9. -/
theorem elem_ofElems {w : Nat} (hw : w ∣ 1024) (f : Nat → Nat) {j : Nat} (hj : j < 1024 / w) :
    elem (ofElems w f) w j = f j % 2 ^ w := by
  have hlen : (listOf (1024 / w) f).length = 1024 / w := by simp [listOf]
  have hlt : packList w (listOf (1024 / w) f) < 2 ^ 1024 := by
    have := packList_lt w (listOf (1024 / w) f)
    rwa [hlen, Nat.mul_div_cancel' hw] at this
  unfold elem ofElems
  rw [BitVec.toNat_ofNat, Nat.mod_eq_of_lt hlt, packList_elem]
  congr 1
  simp [listOf, List.getD_eq_getElem?_getD, hj]

/-- An element of a register with some elements replaced, R29. -/
theorem elem_updElems {w : Nat} (hw : w ∣ 1024) (v : Vec) (f : Nat → Option Nat) {j : Nat} (hj : j < 1024 / w) :
    elem (updElems v w f) w j = (match f j with
      | some x => x % 2 ^ w
      | none => elem v w j) := by
  unfold updElems
  rw [elem_ofElems hw _ hj]
  cases f j with
  | some x => rfl
  | none => simp [elem]

/-- The scalar view of a scalar result, R9. -/
theorem scalarOf_scalarVec (x : Nat) : scalarOf (scalarVec x) = x % 2 ^ 64 := by
  unfold scalarOf scalarVec elem
  rw [BitVec.toNat_ofNat]
  have : x % 2 ^ 64 % 2 ^ 1024 = x % 2 ^ 64 :=
    Nat.mod_eq_of_lt (Nat.lt_of_lt_of_le (Nat.mod_lt _ (by decide)) (Nat.pow_le_pow_right (by decide) (by decide)))
  rw [this]
  simp

end Sys2Proof.Machine
end

