-- ==== Sys2Proof/Laws/Exec.lean ====
section
/-!
SUPPORT. The meaning that exec gives each constructor, one equation each.
-/

namespace Sys2Proof.Machine

theorem exec_nop (g : BitVec 4) (s : State) :
    exec (.nop g) s = execNop g s := rfl
theorem exec_br (g : BitVec 4) (o : BitVec 21) (s : State) :
    exec (.br g o) s = execBr g o s := rfl
theorem exec_call (g : BitVec 4) (o : BitVec 21) (s : State) :
    exec (.call g o) s = execCall g o s := rfl
theorem exec_jmp (g : BitVec 4) (a : BitVec 6) (s : State) :
    exec (.jmp g a) s = execJmp g a s := rfl
theorem exec_jmpCall (g : BitVec 4) (a : BitVec 6) (s : State) :
    exec (.jmpCall g a) s = execJmpCall g a s := rfl
theorem exec_jmpRet (g : BitVec 4) (s : State) :
    exec (.jmpRet g) s = execJmpRet g s := rfl
theorem exec_loop (g : BitVec 4) (d : BitVec 6) (i1 : BitVec 9) (s : State) :
    exec (.loop g d i1) s = execLoop g d i1 s := rfl
theorem exec_endTask (g : BitVec 4) (s : State) :
    exec (.endTask g) s = execEndTask g s := rfl
theorem exec_wait (g : BitVec 4) (l s1 c m : BitVec 5) (s : State) :
    exec (.wait g l s1 c m) s = execWait g l s1 c m s := rfl
theorem exec_opf (g : BitVec 4) (d a b : BitVec 6) (s : State) :
    exec (.opf g d a b) s = execOpf g d a b s := rfl
theorem exec_trap (g : BitVec 4) (i1 : BitVec 15) (s : State) :
    exec (.trap g i1) s = execTrap g i1 s := rfl
theorem exec_eret (g : BitVec 4) (s : State) :
    exec (.eret g) s = execEret g s := rfl
theorem exec_gets (g : BitVec 4) (d : BitVec 6) (n : BitVec 12) (s : State) :
    exec (.gets g d n) s = execGets g d n s := rfl
theorem exec_sets (g : BitVec 4) (d : BitVec 6) (n : BitVec 12) (s : State) :
    exec (.sets g d n) s = execSets g d n s := rfl
theorem exec_timeGt (g : BitVec 4) (d : BitVec 6) (s : State) :
    exec (.timeGt g d) s = execTimeGt g d s := rfl
theorem exec_timeCyc (g : BitVec 4) (d : BitVec 6) (s : State) :
    exec (.timeCyc g d) s = execTimeCyc g d s := rfl
theorem exec_brk (g : BitVec 4) (i1 : BitVec 15) (s : State) :
    exec (.brk g i1) s = execBrk g i1 s := rfl
theorem exec_tlbiRange (g : BitVec 4) (a b : BitVec 6) (s : State) :
    exec (.tlbiRange g a b) s = execTlbiRange g a b s := rfl
theorem exec_tlbiCtx (g : BitVec 4) (b : BitVec 6) (s : State) :
    exec (.tlbiCtx g b) s = execTlbiCtx g b s := rfl
theorem exec_tlbiL1inv (g : BitVec 4) (a b : BitVec 6) (s : State) :
    exec (.tlbiL1inv g a b) s = execTlbiL1inv g a b s := rfl
theorem exec_tlbiL1clean (g : BitVec 4) (a b : BitVec 6) (s : State) :
    exec (.tlbiL1clean g a b) s = execTlbiL1clean g a b s := rfl
theorem exec_tlbiPart (g : BitVec 4) (s : State) :
    exec (.tlbiPart g) s = execTlbiPart g s := rfl
theorem exec_wcall (g : BitVec 4) (i1 : BitVec 15) (s : State) :
    exec (.wcall g i1) s = execWcall g i1 s := rfl
theorem exec_add (g : BitVec 4) (d a b : BitVec 6) (t : BitVec 3) (s : State) :
    exec (.add g d a b t) s = execAdd g d a b t s := rfl
theorem exec_sub (g : BitVec 4) (d a b : BitVec 6) (t : BitVec 3) (s : State) :
    exec (.sub g d a b t) s = execSub g d a b t s := rfl
theorem exec_mul (g : BitVec 4) (d a b : BitVec 6) (t : BitVec 3) (s : State) :
    exec (.mul g d a b t) s = execMul g d a b t s := rfl
theorem exec_mulh (g : BitVec 4) (d a b : BitVec 6) (t : BitVec 3) (s : State) :
    exec (.mulh g d a b t) s = execMulh g d a b t s := rfl
theorem exec_mad (g : BitVec 4) (d a b : BitVec 6) (t : BitVec 3) (s : State) :
    exec (.mad g d a b t) s = execMad g d a b t s := rfl
theorem exec_min (g : BitVec 4) (d a b : BitVec 6) (t : BitVec 3) (s : State) :
    exec (.min g d a b t) s = execMin g d a b t s := rfl
theorem exec_max (g : BitVec 4) (d a b : BitVec 6) (t : BitVec 3) (s : State) :
    exec (.max g d a b t) s = execMax g d a b t s := rfl
theorem exec_absd (g : BitVec 4) (d a b : BitVec 6) (t : BitVec 3) (s : State) :
    exec (.absd g d a b t) s = execAbsd g d a b t s := rfl
theorem exec_and (g : BitVec 4) (d a b : BitVec 6) (t : BitVec 3) (s : State) :
    exec (.and g d a b t) s = execAnd g d a b t s := rfl
theorem exec_or (g : BitVec 4) (d a b : BitVec 6) (t : BitVec 3) (s : State) :
    exec (.or g d a b t) s = execOr g d a b t s := rfl
theorem exec_xor (g : BitVec 4) (d a b : BitVec 6) (t : BitVec 3) (s : State) :
    exec (.xor g d a b t) s = execXor g d a b t s := rfl
theorem exec_andn (g : BitVec 4) (d a b : BitVec 6) (t : BitVec 3) (s : State) :
    exec (.andn g d a b t) s = execAndn g d a b t s := rfl
theorem exec_shl (g : BitVec 4) (d a b : BitVec 6) (t : BitVec 3) (s : State) :
    exec (.shl g d a b t) s = execShl g d a b t s := rfl
theorem exec_shr (g : BitVec 4) (d a b : BitVec 6) (t : BitVec 3) (s : State) :
    exec (.shr g d a b t) s = execShr g d a b t s := rfl
theorem exec_rot (g : BitVec 4) (d a b : BitVec 6) (t : BitVec 3) (s : State) :
    exec (.rot g d a b t) s = execRot g d a b t s := rfl
theorem exec_addi (g : BitVec 4) (d a : BitVec 6) (i1 : BitVec 9) (s : State) :
    exec (.addi g d a i1) s = execAddi g d a i1 s := rfl
theorem exec_unop (g : BitVec 4) (d a o : BitVec 6) (t : BitVec 3) (s : State) :
    exec (.unop g d a o t) s = execUnop g d a o t s := rfl
theorem exec_sel (g : BitVec 4) (d a b : BitVec 6) (t : BitVec 3) (s : State) :
    exec (.sel g d a b t) s = execSel g d a b t s := rfl
theorem exec_shuf (g : BitVec 4) (d a b : BitVec 6) (t : BitVec 3) (s : State) :
    exec (.shuf g d a b t) s = execShuf g d a b t s := rfl
theorem exec_bcast (g : BitVec 4) (d a b : BitVec 6) (t : BitVec 3) (s : State) :
    exec (.bcast g d a b t) s = execBcast g d a b t s := rfl
theorem exec_reduce (g : BitVec 4) (d a o : BitVec 6) (t : BitVec 3) (s : State) :
    exec (.reduce g d a o t) s = execReduce g d a o t s := rfl
theorem exec_scan (g : BitVec 4) (d a o : BitVec 6) (t : BitVec 3) (s : State) :
    exec (.scan g d a o t) s = execScan g d a o t s := rfl
theorem exec_movi (g : BitVec 4) (d : BitVec 6) (i1 : BitVec 15) (s : State) :
    exec (.movi g d i1) s = execMovi g d i1 s := rfl
theorem exec_movu (g : BitVec 4) (d : BitVec 6) (i1 : BitVec 15) (s : State) :
    exec (.movu g d i1) s = execMovu g d i1 s := rfl
theorem exec_addX (g : BitVec 4) (d a b : BitVec 6) (t : BitVec 3) (s : State) :
    exec (.addX g d a b t) s = execAddX g d a b t s := rfl
theorem exec_subX (g : BitVec 4) (d a b : BitVec 6) (t : BitVec 3) (s : State) :
    exec (.subX g d a b t) s = execSubX g d a b t s := rfl
theorem exec_mulX (g : BitVec 4) (d a b : BitVec 6) (t : BitVec 3) (s : State) :
    exec (.mulX g d a b t) s = execMulX g d a b t s := rfl
theorem exec_addiX (g : BitVec 4) (d a : BitVec 6) (i1 : BitVec 9) (s : State) :
    exec (.addiX g d a i1) s = execAddiX g d a i1 s := rfl
theorem exec_logicX (g : BitVec 4) (d a b : BitVec 6) (t : BitVec 3) (s : State) :
    exec (.logicX g d a b t) s = execLogicX g d a b t s := rfl
theorem exec_divX (g : BitVec 4) (d a b : BitVec 6) (t : BitVec 3) (s : State) :
    exec (.divX g d a b t) s = execDivX g d a b t s := rfl
theorem exec_movlX (g : BitVec 4) (d : BitVec 6) (i1 : BitVec 15) (s : State) :
    exec (.movlX g d i1) s = execMovlX g d i1 s := rfl
theorem exec_laneGet (g : BitVec 4) (d a b : BitVec 6) (s : State) :
    exec (.laneGet g d a b) s = execLaneGet g d a b s := rfl
theorem exec_lanePut (g : BitVec 4) (d a b : BitVec 6) (s : State) :
    exec (.lanePut g d a b) s = execLanePut g d a b s := rfl
theorem exec_cmp (g : BitVec 4) (c p e : BitVec 3) (a b : BitVec 6) (t : BitVec 3) (s : State) :
    exec (.cmp g c p e a b t) s = execCmp g c p e a b t s := rfl
theorem exec_fcmp (g : BitVec 4) (c p e : BitVec 3) (a b : BitVec 6) (t : BitVec 3) (s : State) :
    exec (.fcmp g c p e a b t) s = execFcmp g c p e a b t s := rfl
theorem exec_fadd (g : BitVec 4) (d a b : BitVec 6) (t : BitVec 3) (s : State) :
    exec (.fadd g d a b t) s = execFadd g d a b t s := rfl
theorem exec_fsub (g : BitVec 4) (d a b : BitVec 6) (t : BitVec 3) (s : State) :
    exec (.fsub g d a b t) s = execFsub g d a b t s := rfl
theorem exec_fmul (g : BitVec 4) (d a b : BitVec 6) (t : BitVec 3) (s : State) :
    exec (.fmul g d a b t) s = execFmul g d a b t s := rfl
theorem exec_fma (g : BitVec 4) (d a b : BitVec 6) (t : BitVec 3) (s : State) :
    exec (.fma g d a b t) s = execFma g d a b t s := rfl
theorem exec_fnma (g : BitVec 4) (d a b : BitVec 6) (t : BitVec 3) (s : State) :
    exec (.fnma g d a b t) s = execFnma g d a b t s := rfl
theorem exec_fmin (g : BitVec 4) (d a b : BitVec 6) (t : BitVec 3) (s : State) :
    exec (.fmin g d a b t) s = execFmin g d a b t s := rfl
theorem exec_fmax (g : BitVec 4) (d a b : BitVec 6) (t : BitVec 3) (s : State) :
    exec (.fmax g d a b t) s = execFmax g d a b t s := rfl
theorem exec_fminp (g : BitVec 4) (d a b : BitVec 6) (t : BitVec 3) (s : State) :
    exec (.fminp g d a b t) s = execFminp g d a b t s := rfl
theorem exec_funop (g : BitVec 4) (d a o : BitVec 6) (t : BitVec 3) (s : State) :
    exec (.funop g d a o t) s = execFunop g d a o t s := rfl
theorem exec_fcvt (g : BitVec 4) (d a : BitVec 6) (part dst src : BitVec 3) (s : State) :
    exec (.fcvt g d a part dst src) s = execFcvt g d a part dst src s := rfl
theorem exec_i2f (g : BitVec 4) (d a : BitVec 6) (part src dst : BitVec 3) (s : State) :
    exec (.i2f g d a part src dst) s = execI2f g d a part src dst s := rfl
theorem exec_f2i (g : BitVec 4) (d a : BitVec 6) (part dst src : BitVec 3) (s : State) :
    exec (.f2i g d a part dst src) s = execF2i g d a part dst src s := rfl
theorem exec_fdiv (g : BitVec 4) (d a b : BitVec 6) (t : BitVec 3) (s : State) :
    exec (.fdiv g d a b t) s = execFdiv g d a b t s := rfl
theorem exec_fsqrt (g : BitVec 4) (d a : BitVec 6) (t : BitVec 3) (s : State) :
    exec (.fsqrt g d a t) s = execFsqrt g d a t s := rfl
theorem exec_ftrans (g : BitVec 4) (d a o : BitVec 6) (t : BitVec 3) (s : State) :
    exec (.ftrans g d a o t) s = execFtrans g d a o t s := rfl
theorem exec_fscale (g : BitVec 4) (d a b : BitVec 6) (t : BitVec 3) (s : State) :
    exec (.fscale g d a b t) s = execFscale g d a b t s := rfl
theorem exec_fdot2 (g : BitVec 4) (d a b : BitVec 6) (t : BitVec 3) (s : State) :
    exec (.fdot2 g d a b t) s = execFdot2 g d a b t s := rfl
theorem exec_fdot4 (g : BitVec 4) (d a b : BitVec 6) (t : BitVec 3) (s : State) :
    exec (.fdot4 g d a b t) s = execFdot4 g d a b t s := rfl
theorem exec_fred (g : BitVec 4) (d a o : BitVec 6) (t : BitVec 3) (s : State) :
    exec (.fred g d a o t) s = execFred g d a o t s := rfl
theorem exec_fscan (g : BitVec 4) (d a : BitVec 6) (t : BitVec 3) (s : State) :
    exec (.fscan g d a t) s = execFscan g d a t s := rfl
theorem exec_plogic (g : BitVec 4) (d a b t : BitVec 3) (s : State) :
    exec (.plogic g d a b t) s = execPlogic g d a b t s := rfl
theorem exec_pmovPred (g : BitVec 4) (d a : BitVec 3) (s : State) :
    exec (.pmovPred g d a) s = execPmovPred g d a s := rfl
theorem exec_pmovFromReg (g : BitVec 4) (d : BitVec 3) (a : BitVec 6) (s : State) :
    exec (.pmovFromReg g d a) s = execPmovFromReg g d a s := rfl
theorem exec_pmovToReg (g : BitVec 4) (d : BitVec 6) (a : BitVec 3) (s : State) :
    exec (.pmovToReg g d a) s = execPmovToReg g d a s := rfl
theorem exec_pcnt (g : BitVec 4) (d : BitVec 6) (a t : BitVec 3) (s : State) :
    exec (.pcnt g d a t) s = execPcnt g d a t s := rfl
theorem exec_ptest (g : BitVec 4) (d e a t : BitVec 3) (s : State) :
    exec (.ptest g d e a t) s = execPtest g d e a t s := rfl
theorem exec_pset (g : BitVec 4) (p w : BitVec 3) (c : BitVec 12) (s : State) :
    exec (.pset g p w c) s = execPset g p w c s := rfl
theorem exec_ldx (g : BitVec 4) (d a f : BitVec 6) (s1 : BitVec 3) (s : State) :
    exec (.ldx g d a f s1) s = execLdx g d a f s1 s := rfl
theorem exec_stx (g : BitVec 4) (d a f : BitVec 6) (s1 : BitVec 3) (s : State) :
    exec (.stx g d a f s1) s = execStx g d a f s1 s := rfl
theorem exec_ldv (g : BitVec 4) (d a f : BitVec 6) (s : State) :
    exec (.ldv g d a f) s = execLdv g d a f s := rfl
theorem exec_stv (g : BitVec 4) (d a f : BitVec 6) (s : State) :
    exec (.stv g d a f) s = execStv g d a f s := rfl
theorem exec_gath (g : BitVec 4) (d a b : BitVec 6) (t : BitVec 3) (s : State) :
    exec (.gath g d a b t) s = execGath g d a b t s := rfl
theorem exec_gathp (g : BitVec 4) (d a b : BitVec 6) (t : BitVec 3) (s : State) :
    exec (.gathp g d a b t) s = execGathp g d a b t s := rfl
theorem exec_scat (g : BitVec 4) (d a b : BitVec 6) (t : BitVec 3) (s : State) :
    exec (.scat g d a b t) s = execScat g d a b t s := rfl
theorem exec_ldfe (g : BitVec 4) (d a f : BitVec 6) (s1 : BitVec 3) (s : State) :
    exec (.ldfe g d a f s1) s = execLdfe g d a f s1 s := rfl
theorem exec_stfe (g : BitVec 4) (d a f : BitVec 6) (s1 : BitVec 3) (s : State) :
    exec (.stfe g d a f s1) s = execStfe g d a f s1 s := rfl
theorem exec_feopLdf (g : BitVec 4) (d a : BitVec 6) (z : BitVec 3) (s : State) :
    exec (.feopLdf g d a z) s = execFeopLdf g d a z s := rfl
theorem exec_feopStf (g : BitVec 4) (d a : BitVec 6) (z : BitVec 3) (s : State) :
    exec (.feopStf g d a z) s = execFeopStf g d a z s := rfl
theorem exec_feopSete (g : BitVec 4) (a : BitVec 6) (z : BitVec 3) (s : State) :
    exec (.feopSete g a z) s = execFeopSete g a z s := rfl
theorem exec_feopSetf (g : BitVec 4) (a : BitVec 6) (z : BitVec 3) (s : State) :
    exec (.feopSetf g a z) s = execFeopSetf g a z s := rfl
theorem exec_feopQtag (g : BitVec 4) (d a : BitVec 6) (s : State) :
    exec (.feopQtag g d a) s = execFeopQtag g d a s := rfl
theorem exec_ldt (g : BitVec 4) (d a f : BitVec 6) (s1 : BitVec 3) (s : State) :
    exec (.ldt g d a f s1) s = execLdt g d a f s1 s := rfl
theorem exec_rdm (g : BitVec 4) (d a : BitVec 6) (s : State) :
    exec (.rdm g d a) s = execRdm g d a s := rfl
theorem exec_rdmS (g : BitVec 4) (d a b : BitVec 6) (s : State) :
    exec (.rdmS g d a b) s = execRdmS g d a b s := rfl
theorem exec_tkrel (g : BitVec 4) (a : BitVec 6) (s : State) :
    exec (.tkrel g a) s = execTkrel g a s := rfl
theorem exec_pref (g : BitVec 4) (a f : BitVec 6) (s1 : BitVec 3) (s : State) :
    exec (.pref g a f s1) s = execPref g a f s1 s := rfl
theorem exec_fence (g k : BitVec 4) (t : BitVec 3) (s : State) :
    exec (.fence g k t) s = execFence g k t s := rfl
theorem exec_atom32 (g : BitVec 4) (d a b : BitVec 6) (t : BitVec 3) (s : State) :
    exec (.atom32 g d a b t) s = execAtom32 g d a b t s := rfl
theorem exec_atom64 (g : BitVec 4) (d a b : BitVec 6) (t : BitVec 3) (s : State) :
    exec (.atom64 g d a b t) s = execAtom64 g d a b t s := rfl
theorem exec_xatom (g : BitVec 4) (d a b : BitVec 6) (t : BitVec 3) (s : State) :
    exec (.xatom g d a b t) s = execXatom g d a b t s := rfl
theorem exec_scatadd (g : BitVec 4) (d a b : BitVec 6) (t : BitVec 3) (s : State) :
    exec (.scatadd g d a b t) s = execScatadd g d a b t s := rfl
theorem exec_barFull (g : BitVec 4) (a : BitVec 6) (s : State) :
    exec (.barFull g a) s = execBarFull g a s := rfl
theorem exec_barArrive (g : BitVec 4) (d a : BitVec 6) (s : State) :
    exec (.barArrive g d a) s = execBarArrive g d a s := rfl
theorem exec_barWait (g : BitVec 4) (a b : BitVec 6) (s : State) :
    exec (.barWait g a b) s = execBarWait g a b s := rfl
theorem exec_slotAlloc (g : BitVec 4) (d a : BitVec 6) (k : BitVec 3) (s : State) :
    exec (.slotAlloc g d a k) s = execSlotAlloc g d a k s := rfl
theorem exec_slotFree (g : BitVec 4) (d a : BitVec 6) (k : BitVec 3) (s : State) :
    exec (.slotFree g d a k) s = execSlotFree g d a k s := rfl
theorem exec_launch (g : BitVec 4) (d a : BitVec 6) (s : State) :
    exec (.launch g d a) s = execLaunch g d a s := rfl
theorem exec_lctlCancel (g : BitVec 4) (d a b : BitVec 6) (s : State) :
    exec (.lctlCancel g d a b) s = execLctlCancel g d a b s := rfl
theorem exec_lctlQuery (g : BitVec 4) (d a : BitVec 6) (s : State) :
    exec (.lctlQuery g d a) s = execLctlQuery g d a s := rfl
theorem exec_lctlWait (g : BitVec 4) (d a : BitVec 6) (s : State) :
    exec (.lctlWait g d a) s = execLctlWait g d a s := rfl
theorem exec_sendPost (g : BitVec 4) (d a b : BitVec 6) (s : State) :
    exec (.sendPost g d a b) s = execSendPost g d a b s := rfl
theorem exec_sendAck (g : BitVec 4) (d a b : BitVec 6) (s : State) :
    exec (.sendAck g d a b) s = execSendAck g d a b s := rfl
theorem exec_sendReply (g : BitVec 4) (d a b : BitVec 6) (s : State) :
    exec (.sendReply g d a b) s = execSendReply g d a b s := rfl
theorem exec_sendEng (g : BitVec 4) (d a b : BitVec 6) (s : State) :
    exec (.sendEng g d a b) s = execSendEng g d a b s := rfl
theorem exec_portBind (g : BitVec 4) (d b : BitVec 6) (s : State) :
    exec (.portBind g d b) s = execPortBind g d b s := rfl
theorem exec_portUnbind (g : BitVec 4) (d : BitVec 6) (s : State) :
    exec (.portUnbind g d) s = execPortUnbind g d s := rfl
theorem exec_portQlen (g : BitVec 4) (d a : BitVec 6) (s : State) :
    exec (.portQlen g d a) s = execPortQlen g d a s := rfl
theorem exec_portSbind (g : BitVec 4) (d b : BitVec 6) (s : State) :
    exec (.portSbind g d b) s = execPortSbind g d b s := rfl
theorem exec_portSrel (g : BitVec 4) (d : BitVec 6) (s : State) :
    exec (.portSrel g d) s = execPortSrel g d s := rfl
theorem exec_portSstat (g : BitVec 4) (d a : BitVec 6) (s : State) :
    exec (.portSstat g d a) s = execPortSstat g d a s := rfl
theorem exec_htabRd (g : BitVec 4) (d b : BitVec 6) (s : State) :
    exec (.htabRd g d b) s = execHtabRd g d b s := rfl
theorem exec_htabWr (g : BitVec 4) (a b : BitVec 6) (s : State) :
    exec (.htabWr g a b) s = execHtabWr g a b s := rfl
theorem exec_cpy (g : BitVec 4) (d a b : BitVec 6) (s : State) :
    exec (.cpy g d a b) s = execCpy g d a b s := rfl
theorem exec_cpyLoop (g : BitVec 4) (d a b : BitVec 6) (s : State) :
    exec (.cpyLoop g d a b) s = execCpyLoop g d a b s := rfl
theorem exec_cpyrel (g : BitVec 4) (a : BitVec 6) (s : State) :
    exec (.cpyrel g a) s = execCpyrel g a s := rfl
theorem exec_cpyMtx (g : BitVec 4) (d a b : BitVec 6) (s : State) :
    exec (.cpyMtx g d a b) s = execCpyMtx g d a b s := rfl
theorem exec_cpyBlk (g : BitVec 4) (d a b : BitVec 6) (s : State) :
    exec (.cpyBlk g d a b) s = execCpyBlk g d a b s := rfl
theorem exec_cpySlab (g : BitVec 4) (d a b : BitVec 6) (s : State) :
    exec (.cpySlab g d a b) s = execCpySlab g d a b s := rfl
theorem exec_mtxMma (g : BitVec 4) (n : BitVec 5) (a b : BitVec 6) (s : State) :
    exec (.mtxMma g n a b) s = execMtxMma g n a b s := rfl
theorem exec_mtxMmaz (g : BitVec 4) (n : BitVec 5) (a b : BitVec 6) (s : State) :
    exec (.mtxMmaz g n a b) s = execMtxMmaz g n a b s := rfl
theorem exec_mtxAccld (g : BitVec 4) (n : BitVec 5) (a : BitVec 6) (s : State) :
    exec (.mtxAccld g n a) s = execMtxAccld g n a s := rfl
theorem exec_mtxAccst (g : BitVec 4) (n : BitVec 5) (a : BitVec 6) (s : State) :
    exec (.mtxAccst g n a) s = execMtxAccst g n a s := rfl
theorem exec_mtxAccmv (g : BitVec 4) (n : BitVec 5) (a b : BitVec 6) (s : State) :
    exec (.mtxAccmv g n a b) s = execMtxAccmv g n a b s := rfl
theorem exec_mtxCodeb (g : BitVec 4) (n : BitVec 5) (s : State) :
    exec (.mtxCodeb g n) s = execMtxCodeb g n s := rfl
theorem exec_mtxAccq (g : BitVec 4) (n : BitVec 5) (a : BitVec 6) (s : State) :
    exec (.mtxAccq g n a) s = execMtxAccq g n a s := rfl
theorem exec_mtxAccfree (g : BitVec 4) (n : BitVec 5) (s : State) :
    exec (.mtxAccfree g n) s = execMtxAccfree g n s := rfl
theorem exec_eregRd (g : BitVec 4) (d b : BitVec 6) (s : State) :
    exec (.eregRd g d b) s = execEregRd g d b s := rfl
theorem exec_eregWr (g : BitVec 4) (a b : BitVec 6) (s : State) :
    exec (.eregWr g a b) s = execEregWr g a b s := rfl
theorem exec_cget (g : BitVec 4) (d a b : BitVec 6) (s : State) :
    exec (.cget g d a b) s = execCget g d a b s := rfl
theorem exec_csetb (g : BitVec 4) (d a b : BitVec 6) (s : State) :
    exec (.csetb g d a b) s = execCsetb g d a b s := rfl
theorem exec_candp (g : BitVec 4) (d a b : BitVec 6) (s : State) :
    exec (.candp g d a b) s = execCandp g d a b s := rfl
theorem exec_cinc (g : BitVec 4) (d a b : BitVec 6) (s : State) :
    exec (.cinc g d a b) s = execCinc g d a b s := rfl
theorem exec_cseal (g : BitVec 4) (d a b : BitVec 6) (s : State) :
    exec (.cseal g d a b) s = execCseal g d a b s := rfl
theorem exec_cunseal (g : BitVec 4) (d a b : BitVec 6) (s : State) :
    exec (.cunseal g d a b) s = execCunseal g d a b s := rfl
theorem exec_ctest (g : BitVec 4) (d a b : BitVec 6) (s : State) :
    exec (.ctest g d a b) s = execCtest g d a b s := rfl
theorem exec_cclr (g : BitVec 4) (d a : BitVec 6) (s : State) :
    exec (.cclr g d a) s = execCclr g d a s := rfl
theorem exec_pfxT (a b p : BitVec 4) (s : State) :
    exec (.pfxT a b p) s = execPfxT a b p s := rfl
theorem exec_pfxC (m : BitVec 2) (s : State) :
    exec (.pfxC m) s = execPfxC m s := rfl
theorem exec_pfxI (h : BitVec 21) (s : State) :
    exec (.pfxI h) s = execPfxI h s := rfl
theorem exec_pfxS (o : BitVec 2) (s1 : BitVec 3) (s : State) :
    exec (.pfxS o s1) s = execPfxS o s1 s := rfl
theorem exec_wcallAnswer (op status : Nat) (data : BitVec 1024) (s : State) :
    exec (.wcallAnswer op status data) s = execWcallAnswer op status data s := rfl
theorem exec_launchHandleReturn (launch : Nat) (s : State) :
    exec (.launchHandleReturn launch) s = execLaunchHandleReturn launch s := rfl
theorem exec_lctlAnswer (op : Nat) (s : State) :
    exec (.lctlAnswer op) s = execLctlAnswer op s := rfl
theorem exec_answerArrival (packet : Nat) (s : State) :
    exec (.answerArrival packet) s = execAnswerArrival packet s := rfl
theorem exec_messageArrival (packet : Nat) (s : State) :
    exec (.messageArrival packet) s = execMessageArrival packet s := rfl
theorem exec_streamStripArrival (core slot port : Nat) (s : State) :
    exec (.streamStripArrival core slot port) s = execStreamStripArrival core slot port s := rfl
theorem exec_engineCardArrival (packet : Nat) (s : State) :
    exec (.engineCardArrival packet) s = execEngineCardArrival packet s := rfl
theorem exec_jobStart (job : Nat) (s : State) :
    exec (.jobStart job) s = execJobStart job s := rfl
theorem exec_jobCompletion (job : Nat) (s : State) :
    exec (.jobCompletion job) s = execJobCompletion job s := rfl
theorem exec_stageFilled (job stage : Nat) (s : State) :
    exec (.stageFilled job stage) s = execStageFilled job stage s := rfl
theorem exec_stageRelease (op : Nat) (s : State) :
    exec (.stageRelease op) s = execStageRelease op s := rfl
theorem exec_matrixCommandStart (core : Nat) (s : State) :
    exec (.matrixCommandStart core) s = execMatrixCommandStart core s := rfl
theorem exec_matrixCommandDone (cmd : Nat) (s : State) :
    exec (.matrixCommandDone cmd) s = execMatrixCommandDone cmd s := rfl
theorem exec_deferredCheckDone (cmd : Nat) (s : State) :
    exec (.deferredCheckDone cmd) s = execDeferredCheckDone cmd s := rfl
theorem exec_doneNotice (guest : Nat) (s : State) :
    exec (.doneNotice guest) s = execDoneNotice guest s := rfl
theorem exec_loadCompletion (op : Nat) (s : State) :
    exec (.loadCompletion op) s = execLoadCompletion op s := rfl
theorem exec_storeAcknowledgement (op : Nat) (s : State) :
    exec (.storeAcknowledgement op) s = execStoreAcknowledgement op s := rfl
theorem exec_homeSliceRequest (op elem : Nat) (s : State) :
    exec (.homeSliceRequest op elem) s = execHomeSliceRequest op elem s := rfl
theorem exec_fillArrival (slice line : Nat) (s : State) :
    exec (.fillArrival slice line) s = execFillArrival slice line s := rfl
theorem exec_ticketAllocation (op : Nat) (s : State) :
    exec (.ticketAllocation op) s = execTicketAllocation op s := rfl
theorem exec_ticketDataArrival (slice entry : Nat) (s : State) :
    exec (.ticketDataArrival slice entry) s = execTicketDataArrival slice entry s := rfl
theorem exec_ticketRedeem (op : Nat) (s : State) :
    exec (.ticketRedeem op) s = execTicketRedeem op s := rfl
theorem exec_ticketRelease (op : Nat) (s : State) :
    exec (.ticketRelease op) s = execTicketRelease op s := rfl
theorem exec_walkStart (plate : Nat) (s : State) :
    exec (.walkStart plate) s = execWalkStart plate s := rfl
theorem exec_walkCompletion (walk : Nat) (s : State) :
    exec (.walkCompletion walk) s = execWalkCompletion walk s := rfl
theorem exec_tlbiControllerRequest (op plate : Nat) (s : State) :
    exec (.tlbiControllerRequest op plate) s = execTlbiControllerRequest op plate s := rfl
theorem exec_tlbiPlateDone (op plate : Nat) (s : State) :
    exec (.tlbiPlateDone op plate) s = execTlbiPlateDone op plate s := rfl
theorem exec_tlbiAck (op : Nat) (s : State) :
    exec (.tlbiAck op) s = execTlbiAck op s := rfl
theorem exec_guestPacketArrival (guest : Nat) (s : State) :
    exec (.guestPacketArrival guest) s = execGuestPacketArrival guest s := rfl
theorem exec_guestIssue (core : Nat) (s : State) :
    exec (.guestIssue core) s = execGuestIssue core s := rfl
theorem exec_guestWalkDone (guest : Nat) (s : State) :
    exec (.guestWalkDone guest) s = execGuestWalkDone guest s := rfl
theorem exec_guestResult (guest : Nat) (s : State) :
    exec (.guestResult guest) s = execGuestResult guest s := rfl
theorem exec_dealMessage (gang index : Nat) (s : State) :
    exec (.dealMessage gang index) s = execDealMessage gang index s := rfl
theorem exec_taskSelection (core : Nat) (s : State) :
    exec (.taskSelection core) s = execTaskSelection core s := rfl
theorem exec_slotClearingEnd (core slot : Nat) (s : State) :
    exec (.slotClearingEnd core slot) s = execSlotClearingEnd core slot s := rfl
theorem exec_reservationWithdrawal (gang : Nat) (s : State) :
    exec (.reservationWithdrawal gang) s = execReservationWithdrawal gang s := rfl
theorem exec_gangPlacement (launch plate x y : Nat) (s : State) :
    exec (.gangPlacement launch plate x y) s = execGangPlacement launch plate x y s := rfl
theorem exec_reservationComplete (gang : Nat) (s : State) :
    exec (.reservationComplete gang) s = execReservationComplete gang s := rfl
theorem exec_launchClaim (launch : Nat) (s : State) :
    exec (.launchClaim launch) s = execLaunchClaim launch s := rfl
theorem exec_gangRangeRequest (launch plate : Nat) (s : State) :
    exec (.gangRangeRequest launch plate) s = execGangRangeRequest launch plate s := rfl
theorem exec_launchMessageSend (launch : Nat) (s : State) :
    exec (.launchMessageSend launch) s = execLaunchMessageSend launch s := rfl
theorem exec_dealingDone (launch : Nat) (s : State) :
    exec (.dealingDone launch) s = execDealingDone launch s := rfl
theorem exec_quiescenceSweep (launch upto : Nat) (s : State) :
    exec (.quiescenceSweep launch upto) s = execQuiescenceSweep launch upto s := rfl
theorem exec_faultNotice (launch gt cause place : Nat) (s : State) :
    exec (.faultNotice launch gt cause place) s = execFaultNotice launch gt cause place s := rfl
theorem exec_abort (launch target : Nat) (s : State) :
    exec (.abort launch target) s = execAbort launch target s := rfl
theorem exec_cancelDecision (launch mode : Nat) (s : State) :
    exec (.cancelDecision launch mode) s = execCancelDecision launch mode s := rfl
theorem exec_cancel (launch target : Nat) (s : State) :
    exec (.cancel launch target) s = execCancel launch target s := rfl
theorem exec_podDispatch (msg : Nat) (s : State) :
    exec (.podDispatch msg) s = execPodDispatch msg s := rfl
theorem exec_podClaimed (msg : Nat) (s : State) :
    exec (.podClaimed msg) s = execPodClaimed msg s := rfl
theorem exec_podLidMap (msg : Nat) (s : State) :
    exec (.podLidMap msg) s = execPodLidMap msg s := rfl
theorem exec_podSweepReport (msg : Nat) (s : State) :
    exec (.podSweepReport msg) s = execPodSweepReport msg s := rfl
theorem exec_podEnd (msg : Nat) (s : State) :
    exec (.podEnd msg) s = execPodEnd msg s := rfl
theorem exec_podReg (msg : Nat) (s : State) :
    exec (.podReg msg) s = execPodReg msg s := rfl
theorem exec_migrationDrained (core : Nat) (s : State) :
    exec (.migrationDrained core) s = execMigrationDrained core s := rfl
theorem exec_migrationCopyDone (core : Nat) (s : State) :
    exec (.migrationCopyDone core) s = execMigrationCopyDone core s := rfl
theorem exec_migrationForwardEnd (core : Nat) (s : State) :
    exec (.migrationForwardEnd core) s = execMigrationForwardEnd core s := rfl
theorem exec_refreshEnd (core slot : Nat) (s : State) :
    exec (.refreshEnd core slot) s = execRefreshEnd core slot s := rfl
theorem exec_wakeRequest (plate x : Nat) (s : State) :
    exec (.wakeRequest plate x) s = execWakeRequest plate x s := rfl
theorem exec_rampDownEnd (plate x : Nat) (s : State) :
    exec (.rampDownEnd plate x) s = execRampDownEnd plate x s := rfl
theorem exec_rampUpEnd (plate x : Nat) (s : State) :
    exec (.rampUpEnd plate x) s = execRampUpEnd plate x s := rfl
theorem exec_packetDiscard (packet : Nat) (s : State) :
    exec (.packetDiscard packet) s = execPacketDiscard packet s := rfl
theorem exec_nackArrival (packet : Nat) (s : State) :
    exec (.nackArrival packet) s = execNackArrival packet s := rfl
theorem exec_backoffExpiry (packet : Nat) (s : State) :
    exec (.backoffExpiry packet) s = execBackoffExpiry packet s := rfl
theorem exec_queueResume (queue : Nat) (s : State) :
    exec (.queueResume queue) s = execQueueResume queue s := rfl
theorem exec_tailRead (queue : Nat) (s : State) :
    exec (.tailRead queue) s = execTailRead queue s := rfl
theorem exec_packetStart (queue : Nat) (s : State) :
    exec (.packetStart queue) s = execPacketStart queue s := rfl
theorem exec_packetCompletion (queue : Nat) (s : State) :
    exec (.packetCompletion queue) s = execPacketCompletion queue s := rfl
theorem exec_haltComplete (part : Nat) (s : State) :
    exec (.haltComplete part) s = execHaltComplete part s := rfl
theorem exec_swapComplete (part : Nat) (s : State) :
    exec (.swapComplete part) s = execSwapComplete part s := rfl
theorem exec_ackDue (session peer : Nat) (s : State) :
    exec (.ackDue session peer) s = execAckDue session peer s := rfl
theorem exec_recoveryReset (s : State) :
    exec (.recoveryReset) s = execRecoveryReset s := rfl
theorem exec_localWindowRequest (op elem : Nat) (s : State) :
    exec (.localWindowRequest op elem) s = execLocalWindowRequest op elem s := rfl
theorem exec_podRegAnswer (msg : Nat) (s : State) :
    exec (.podRegAnswer msg) s = execPodRegAnswer msg s := rfl
theorem exec_podUnreg (msg : Nat) (s : State) :
    exec (.podUnreg msg) s = execPodUnreg msg s := rfl
theorem exec_podEndReport (msg : Nat) (s : State) :
    exec (.podEndReport msg) s = execPodEndReport msg s := rfl
theorem exec_setsSr (v : BitVec 64) (s : State) :
    exec (.setsSr v) s = execSetsSr v s := rfl
theorem exec_setsPortcfg (n : BitVec 3) (v : BitVec 64) (s : State) :
    exec (.setsPortcfg n v) s = execSetsPortcfg n v s := rfl
theorem exec_setsGshare (v : BitVec 64) (s : State) :
    exec (.setsGshare v) s = execSetsGshare v s := rfl
theorem exec_setsAccown (v : BitVec 64) (s : State) :
    exec (.setsAccown v) s = execSetsAccown v s := rfl
theorem exec_setsSpillmap (v : BitVec 64) (s : State) :
    exec (.setsSpillmap v) s = execSetsSpillmap v s := rfl
theorem exec_setsLpct (v : BitVec 64) (s : State) :
    exec (.setsLpct v) s = execSetsLpct v s := rfl
theorem exec_ticketExpiry (slice entry : Nat) (s : State) :
    exec (.ticketExpiry slice entry) s = execTicketExpiry slice entry s := rfl
theorem exec_handlerAging (core chan : Nat) (s : State) :
    exec (.handlerAging core chan) s = execHandlerAging core chan s := rfl
theorem exec_gangWatchdogExpiry (gang : Nat) (s : State) :
    exec (.gangWatchdogExpiry gang) s = execGangWatchdogExpiry gang s := rfl
theorem exec_sliceEnd (core : Nat) (s : State) :
    exec (.sliceEnd core) s = execSliceEnd core s := rfl
theorem exec_flagsumSweep (plate : Nat) (s : State) :
    exec (.flagsumSweep plate) s = execFlagsumSweep plate s := rfl
theorem exec_powerReading (watts : Nat) (s : State) :
    exec (.powerReading watts) s = execPowerReading watts s := rfl
theorem exec_thermalSample (core celsius : Nat) (s : State) :
    exec (.thermalSample core celsius) s = execThermalSample core celsius s := rfl
theorem exec_bankDrowsy (core slot : Nat) (s : State) :
    exec (.bankDrowsy core slot) s = execBankDrowsy core slot s := rfl
theorem exec_refreshDue (core slot : Nat) (s : State) :
    exec (.refreshDue core slot) s = execRefreshDue core slot s := rfl
theorem exec_bankGated (core slot : Nat) (s : State) :
    exec (.bankGated core slot) s = execBankGated core slot s := rfl
theorem exec_columnIdleTimeout (plate x : Nat) (s : State) :
    exec (.columnIdleTimeout plate x) s = execColumnIdleTimeout plate x s := rfl
theorem exec_linkReplay (port : Nat) (s : State) :
    exec (.linkReplay port) s = execLinkReplay port s := rfl
theorem exec_linkFailure (port : Nat) (s : State) :
    exec (.linkFailure port) s = execLinkFailure port s := rfl
theorem exec_hbmPatrol (addr : Nat) (s : State) :
    exec (.hbmPatrol addr) s = execHbmPatrol addr s := rfl
theorem exec_errorEvent (uncorrectable : Bool) (unit loc part : Nat) (s : State) :
    exec (.errorEvent uncorrectable unit loc part) s = execErrorEvent uncorrectable unit loc part s := rfl
theorem exec_heartbeat (role : Nat) (s : State) :
    exec (.heartbeat role) s = execHeartbeat role s := rfl
theorem exec_roleRestart (role place : Nat) (s : State) :
    exec (.roleRestart role place) s = execRoleRestart role place s := rfl
theorem exec_firmwareHashCheck (good : Bool) (s : State) :
    exec (.firmwareHashCheck good) s = execFirmwareHashCheck good s := rfl
theorem exec_powerOn (recovN : Bool) (slotid : BitVec 4) (s : State) :
    exec (.powerOn recovN slotid) s = execPowerOn recovN slotid s := rfl
theorem exec_resetN (s : State) :
    exec (.resetN) s = execResetN s := rfl
theorem exec_supplyFault (s : State) :
    exec (.supplyFault) s = execSupplyFault s := rfl
theorem exec_thermalTrip (s : State) :
    exec (.thermalTrip) s = execThermalTrip s := rfl
theorem exec_peakPowerCap (s : State) :
    exec (.peakPowerCap) s = execPeakPowerCap s := rfl
theorem exec_slicePairSet (core : Nat) (v : BitVec 64) (s : State) :
    exec (.slicePairSet core v) s = execSlicePairSet core v s := rfl
theorem exec_checkModeSet (core : Nat) (v : BitVec 64) (s : State) :
    exec (.checkModeSet core v) s = execCheckModeSet core v s := rfl
theorem exec_fwallWrite (core : Nat) (v : BitVec 64) (s : State) :
    exec (.fwallWrite core v) s = execFwallWrite core v s := rfl
theorem exec_regionTableWrite (n : BitVec 6) (v : BitVec 128) (s : State) :
    exec (.regionTableWrite n v) s = execRegionTableWrite n v s := rfl
theorem exec_bworldWrite (block : Block) (s1 : Bool) (s : State) :
    exec (.bworldWrite block s1) s = execBworldWrite block s1 s := rfl
theorem exec_controlRegisterWrite (reg : ControlReg) (v : BitVec 64) (s : State) :
    exec (.controlRegisterWrite reg v) s = execControlRegisterWrite reg v s := rfl
theorem exec_cqWrite (queue : Nat) (s : State) :
    exec (.cqWrite queue) s = execCqWrite queue s := rfl
theorem exec_cqSignal (queue : Nat) (s : State) :
    exec (.cqSignal queue) s = execCqSignal queue s := rfl
theorem exec_cqWaitv (queue : Nat) (s : State) :
    exec (.cqWaitv queue) s = execCqWaitv queue s := rfl
theorem exec_cqCopy (queue : Nat) (s : State) :
    exec (.cqCopy queue) s = execCqCopy queue s := rfl
theorem exec_cqLaunch (queue : Nat) (s : State) :
    exec (.cqLaunch queue) s = execCqLaunch queue s := rfl
theorem exec_cqAmsg (queue : Nat) (s : State) :
    exec (.cqAmsg queue) s = execCqAmsg queue s := rfl
theorem exec_cqLctl (queue : Nat) (s : State) :
    exec (.cqLctl queue) s = execCqLctl queue s := rfl
theorem exec_cqOpenam (queue : Nat) (s : State) :
    exec (.cqOpenam queue) s = execCqOpenam queue s := rfl
theorem exec_cqCloseam (queue : Nat) (s : State) :
    exec (.cqCloseam queue) s = execCqCloseam queue s := rfl
theorem exec_cqFlagclr (queue : Nat) (s : State) :
    exec (.cqFlagclr queue) s = execCqFlagclr queue s := rfl
theorem exec_cqHalt (queue : Nat) (s : State) :
    exec (.cqHalt queue) s = execCqHalt queue s := rfl
theorem exec_cqSwapout (queue : Nat) (s : State) :
    exec (.cqSwapout queue) s = execCqSwapout queue s := rfl
theorem exec_cqSwapin (queue : Nat) (s : State) :
    exec (.cqSwapin queue) s = execCqSwapin queue s := rfl
theorem exec_cqResume (queue : Nat) (s : State) :
    exec (.cqResume queue) s = execCqResume queue s := rfl
theorem exec_cqQuota (queue : Nat) (s : State) :
    exec (.cqQuota queue) s = execCqQuota queue s := rfl
theorem exec_cpSliceEnd (queue : Nat) (s : State) :
    exec (.cpSliceEnd queue) s = execCpSliceEnd queue s := rfl
theorem exec_lodjaupWrite (f : Frame) (s : State) :
    exec (.lodjaupWrite f) s = execLodjaupWrite f s := rfl
theorem exec_lodjaupRead (f : Frame) (s : State) :
    exec (.lodjaupRead f) s = execLodjaupRead f s := rfl
theorem exec_lodjaupAck (f : Frame) (s : State) :
    exec (.lodjaupAck f) s = execLodjaupAck f s := rfl
theorem exec_lodjaupNak (f : Frame) (s : State) :
    exec (.lodjaupNak f) s = execLodjaupNak f s := rfl
theorem exec_deviceResendTimeout (session peer : Nat) (s : State) :
    exec (.deviceResendTimeout session peer) s = execDeviceResendTimeout session peer s := rfl
theorem exec_ident (f : Frame) (s : State) :
    exec (.ident f) s = execIdent f s := rfl
theorem exec_attest (f : Frame) (s : State) :
    exec (.attest f) s = execAttest f s := rfl
theorem exec_mgmtCtxnew (f : Frame) (s : State) :
    exec (.mgmtCtxnew f) s = execMgmtCtxnew f s := rfl
theorem exec_mgmtCtxend (f : Frame) (s : State) :
    exec (.mgmtCtxend f) s = execMgmtCtxend f s := rfl
theorem exec_mgmtPartcores (f : Frame) (s : State) :
    exec (.mgmtPartcores f) s = execMgmtPartcores f s := rfl
theorem exec_mgmtPartfree (f : Frame) (s : State) :
    exec (.mgmtPartfree f) s = execMgmtPartfree f s := rfl
theorem exec_mgmtOpen (f : Frame) (s : State) :
    exec (.mgmtOpen f) s = execMgmtOpen f s := rfl
theorem exec_mgmtClose (f : Frame) (s : State) :
    exec (.mgmtClose f) s = execMgmtClose f s := rfl
theorem exec_mgmtWindow (f : Frame) (s : State) :
    exec (.mgmtWindow f) s = execMgmtWindow f s := rfl
theorem exec_mgmtQnew (f : Frame) (s : State) :
    exec (.mgmtQnew f) s = execMgmtQnew f s := rfl
theorem exec_mgmtQend (f : Frame) (s : State) :
    exec (.mgmtQend f) s = execMgmtQend f s := rfl
theorem exec_mgmtPodreg (f : Frame) (s : State) :
    exec (.mgmtPodreg f) s = execMgmtPodreg f s := rfl
theorem exec_mgmtPodunreg (f : Frame) (s : State) :
    exec (.mgmtPodunreg f) s = execMgmtPodunreg f s := rfl
theorem exec_mgmtFwwrite (f : Frame) (s : State) :
    exec (.mgmtFwwrite f) s = execMgmtFwwrite f s := rfl
theorem exec_mgmtFwcommit (f : Frame) (s : State) :
    exec (.mgmtFwcommit f) s = execMgmtFwcommit f s := rfl
theorem exec_mgmtTelem (f : Frame) (s : State) :
    exec (.mgmtTelem f) s = execMgmtTelem f s := rfl
theorem exec_mgmtErrlog (f : Frame) (s : State) :
    exec (.mgmtErrlog f) s = execMgmtErrlog f s := rfl
theorem exec_recover (f : Frame) (s : State) :
    exec (.recover f) s = execRecover f s := rfl
theorem exec_neighborSolicitation (f : Frame) (s : State) :
    exec (.neighborSolicitation f) s = execNeighborSolicitation f s := rfl
theorem exec_echoRequest (f : Frame) (s : State) :
    exec (.echoRequest f) s = execEchoRequest f s := rfl
theorem exec_stepBoundExpiry (queue : Nat) (s : State) :
    exec (.stepBoundExpiry queue) s = execStepBoundExpiry queue s := rfl

end Sys2Proof.Machine
end

