-- ==== Sys2Proof/Laws/Sparse.lean ====
section
/-!
SUPPORT. Sparse tables: reading after writing, and that every operation keeps the canonical form.
-/

namespace Sys2Proof.Machine

variable {α : Type}

/-! ## Reading after writing -/

theorem Sp.look_set (m : Sp α) (k j : Nat) (v : α) :
    (Sp.set m k v).look j = if k = j then some v else m.look j := by
  induction m with
  | nil => simp [Sp.set, Sp.look]
  | cons e r ih =>
    obtain ⟨i, x⟩ := e
    by_cases h1 : k < i
    · simp only [Sp.set, if_pos h1, Sp.look]
    · by_cases h2 : k = i
      · subst h2
        by_cases h3 : k = j <;> simp [Sp.set, Sp.look, h3]
      · simp only [Sp.set, if_neg h1, if_neg h2, Sp.look]
        by_cases h3 : i = j
        · have h4 : k ≠ j := fun h => h2 (h.trans h3.symm)
          simp [h3, h4]
        · simp [h3, ih]

@[simp] theorem Sp.look_set_self (m : Sp α) (k : Nat) (v : α) : (Sp.set m k v).look k = some v := by
  simp [Sp.look_set]

@[simp] theorem Sp.at_set_self (m : Sp α) (k : Nat) (v d : α) : (Sp.set m k v).at k d = v := by simp [Sp.at]

theorem Sp.at_set_ne (m : Sp α) {k j : Nat} (h : k ≠ j) (v d : α) : (Sp.set m k v).at j d = m.at j d := by
  simp [Sp.at, Sp.look_set, h]

theorem Sp.at_set (m : Sp α) (k j : Nat) (v d : α) : (Sp.set m k v).at j d = if k = j then v else m.at j d := by
  by_cases h : k = j
  · subst h; simp
  · simp [Sp.at_set_ne m h, h]

theorem Sp.look_drop (m : Sp α) (k j : Nat) : (m.drop k).look j = if k = j then none else m.look j := by
  induction m with
  | nil => simp [Sp.drop, Sp.look]
  | cons e r ih =>
    obtain ⟨i, x⟩ := e
    unfold Sp.drop at ih ⊢
    by_cases h1 : i = k
    · subst h1
      by_cases h2 : i = j
      · simpa [h2] using (by simpa [h2] using ih)
      · simpa [h2, Sp.look] using ih
    · by_cases h2 : i = j
      · subst h2
        simp [h1, Sp.look, Ne.symm h1]
      · simpa [h1, h2, Sp.look] using ih

theorem Sp.at_drop (m : Sp α) (k j : Nat) (d : α) : (m.drop k).at j d = if k = j then d else m.at j d := by
  unfold Sp.at
  rw [Sp.look_drop]
  split <;> simp_all

theorem Sp.at_put [DecidableEq α] (d : α) (m : Sp α) (k j : Nat) (v : α) :
    (Sp.put d m k v).at j d = if k = j then v else m.at j d := by
  unfold Sp.put
  split
  · rename_i h; subst h; exact Sp.at_drop m k j v
  · exact Sp.at_set m k j v d

@[simp] theorem Sp.at_put_self [DecidableEq α] (d : α) (m : Sp α) (k : Nat) (v : α) : (Sp.put d m k v).at k d = v := by
  simp [Sp.at_put]

theorem Sp.at_put_ne [DecidableEq α] (d : α) (m : Sp α) {k j : Nat} (h : k ≠ j) (v : α) :
    (Sp.put d m k v).at j d = m.at j d := by simp [Sp.at_put, h]

/-! ## The canonical form -/

/-- Every key of a table lies above a number. -/
def Sp.above (n : Nat) (m : Sp α) : Prop := ∀ e ∈ m, n < e.1

theorem Sp.sorted_cons (j : Nat) (x : α) (r : Sp α) :
    Sp.sorted ((j, x) :: r) = true ↔ Sp.above j r ∧ r.sorted = true := by
  induction r generalizing j x with
  | nil => simp [Sp.sorted, Sp.above]
  | cons e t ih =>
    obtain ⟨k, y⟩ := e
    simp only [Sp.sorted, Bool.and_eq_true, decide_eq_true_eq]
    constructor
    · rintro ⟨h1, h2⟩
      refine ⟨?_, h2⟩
      intro e he
      rcases List.mem_cons.1 he with h | h
      · subst h; exact h1
      · exact Nat.lt_trans h1 (((ih k y).1 h2).1 e h)
    · rintro ⟨h1, h2⟩
      exact ⟨h1 _ List.mem_cons_self, h2⟩

theorem Sp.mem_set {m : Sp α} {k : Nat} {v : α} {e : Nat × α} (h : e ∈ Sp.set m k v) : e = (k, v) ∨ e ∈ m := by
  induction m with
  | nil => simpa [Sp.set] using h
  | cons f r ih =>
    obtain ⟨j, x⟩ := f
    unfold Sp.set at h
    split at h
    · simpa using h
    · split at h
      · rcases List.mem_cons.1 h with h | h
        · exact .inl h
        · exact .inr (List.mem_cons_of_mem _ h)
      · rcases List.mem_cons.1 h with h | h
        · exact .inr (h ▸ List.mem_cons_self)
        · exact (ih h).imp id (List.mem_cons_of_mem _)

theorem Sp.sorted_set {m : Sp α} (h : m.sorted = true) (k : Nat) (v : α) : (Sp.set m k v).sorted = true := by
  induction m with
  | nil => simp [Sp.set, Sp.sorted]
  | cons f r ih =>
    obtain ⟨j, x⟩ := f
    obtain ⟨h1, h2⟩ := (Sp.sorted_cons j x r).1 h
    unfold Sp.set
    split
    · rename_i hk
      refine (Sp.sorted_cons _ _ _).2 ⟨?_, h⟩
      intro e he
      rcases List.mem_cons.1 he with he | he
      · subst he; exact hk
      · exact Nat.lt_trans hk (h1 e he)
    · split
      · rename_i hk; subst hk; exact (Sp.sorted_cons _ _ _).2 ⟨h1, h2⟩
      · rename_i hk1 hk2
        refine (Sp.sorted_cons _ _ _).2 ⟨?_, ih h2⟩
        intro e he
        rcases Sp.mem_set he with he | he
        · subst he; simp only; omega
        · exact h1 e he

theorem Sp.sorted_filter {m : Sp α} (h : m.sorted = true) (p : Nat × α → Bool) : Sp.sorted (m.filter p) = true := by
  induction m with
  | nil => simp [Sp.sorted]
  | cons f r ih =>
    obtain ⟨j, x⟩ := f
    obtain ⟨h1, h2⟩ := (Sp.sorted_cons j x r).1 h
    by_cases hp : p (j, x)
    · simp only [List.filter_cons_of_pos hp]
      exact (Sp.sorted_cons _ _ _).2 ⟨fun e he => h1 e (List.mem_filter.1 he).1, ih h2⟩
    · simpa [hp] using ih h2

theorem Sp.wf_filter [DecidableEq α] {d : α} {m : Sp α} (h : m.wf d = true) (p : Nat × α → Bool) :
    Sp.wf d (m.filter p) = true := by
  simp only [Sp.wf, Bool.and_eq_true, List.all_eq_true] at h ⊢
  exact ⟨Sp.sorted_filter h.1 p, fun e he => h.2 e (List.mem_filter.1 he).1⟩

theorem Sp.wf_drop [DecidableEq α] {d : α} {m : Sp α} (h : m.wf d = true) (k : Nat) : (m.drop k).wf d = true :=
  Sp.wf_filter h _

theorem Sp.wf_put [DecidableEq α] {d : α} {m : Sp α} (h : m.wf d = true) (k : Nat) (v : α) : (Sp.put d m k v).wf d = true := by
  unfold Sp.put
  split
  · exact Sp.wf_drop h k
  · rename_i hv
    simp only [Sp.wf, Bool.and_eq_true, List.all_eq_true] at h ⊢
    refine ⟨Sp.sorted_set h.1 k v, fun e he => ?_⟩
    rcases Sp.mem_set he with he | he
    · subst he; simpa using hv
    · exact h.2 e he

end Sys2Proof.Machine
end

