-- ==== Sys2Proof/Laws/State.lean ====
section
/-!
SUPPORT. The named operations over the state, slots and registers: one lemma for each field that an operation leaves as it
was, and reading after writing.
-/

namespace Sys2Proof.Machine

/-! ## Fields that an operation on the state leaves as they were -/

@[simp] theorem State.setCore_agenda (s : State) (c : Nat) (k : Core) : (s.setCore c k).agenda = s.agenda := rfl
@[simp] theorem State.setCore_due (s : State) (c : Nat) (k : Core) : (s.setCore c k).due = s.due := rfl
@[simp] theorem State.setCore_beat (s : State) (c : Nat) (k : Core) : (s.setCore c k).beat = s.beat := rfl
@[simp] theorem State.setCore_draws (s : State) (c : Nat) (k : Core) : (s.setCore c k).draws = s.draws := rfl
@[simp] theorem State.setCore_serial (s : State) (c : Nat) (k : Core) : (s.setCore c k).serial = s.serial := rfl
@[simp] theorem State.setCore_cur (s : State) (c : Nat) (k : Core) : (s.setCore c k).cur = s.cur := rfl
@[simp] theorem State.setCore_now (s : State) (c : Nat) (k : Core) : (s.setCore c k).now = s.now := rfl
@[simp] theorem State.setCore_cycStart (s : State) (c : Nat) (k : Core) : (s.setCore c k).cycStart = s.cycStart := rfl
@[simp] theorem State.setCore_mem (s : State) (c : Nat) (k : Core) : (s.setCore c k).mem = s.mem := rfl
@[simp] theorem State.setCore_tags (s : State) (c : Nat) (k : Core) : (s.setCore c k).tags = s.tags := rfl
@[simp] theorem State.setCore_full (s : State) (c : Nat) (k : Core) : (s.setCore c k).full = s.full := rfl
@[simp] theorem State.setCore_bad (s : State) (c : Nat) (k : Core) : (s.setCore c k).bad = s.bad := rfl
@[simp] theorem State.setCore_parked (s : State) (c : Nat) (k : Core) : (s.setCore c k).parked = s.parked := rfl
@[simp] theorem State.setCore_ops (s : State) (c : Nat) (k : Core) : (s.setCore c k).ops = s.ops := rfl
@[simp] theorem State.setCore_guards (s : State) (c : Nat) (k : Core) : (s.setCore c k).guards = s.guards := rfl
@[simp] theorem State.setCore_tlbL1 (s : State) (c : Nat) (k : Core) : (s.setCore c k).tlbL1 = s.tlbL1 := rfl
@[simp] theorem State.setCore_tlbNode (s : State) (c : Nat) (k : Core) : (s.setCore c k).tlbNode = s.tlbNode := rfl
@[simp] theorem State.setCore_tlbPlate (s : State) (c : Nat) (k : Core) : (s.setCore c k).tlbPlate = s.tlbPlate := rfl
@[simp] theorem State.setCore_walks (s : State) (c : Nat) (k : Core) : (s.setCore c k).walks = s.walks := rfl
@[simp] theorem State.setCore_walkFaults (s : State) (c : Nat) (k : Core) : (s.setCore c k).walkFaults = s.walkFaults := rfl
@[simp] theorem State.setCore_iLines (s : State) (c : Nat) (k : Core) : (s.setCore c k).iLines = s.iLines := rfl
@[simp] theorem State.setCore_dLines (s : State) (c : Nat) (k : Core) : (s.setCore c k).dLines = s.dLines := rfl
@[simp] theorem State.setCore_slices (s : State) (c : Nat) (k : Core) : (s.setCore c k).slices = s.slices := rfl
@[simp] theorem State.setCore_packets (s : State) (c : Nat) (k : Core) : (s.setCore c k).packets = s.packets := rfl
@[simp] theorem State.setCore_guests (s : State) (c : Nat) (k : Core) : (s.setCore c k).guests = s.guests := rfl
@[simp] theorem State.setCore_jobs (s : State) (c : Nat) (k : Core) : (s.setCore c k).jobs = s.jobs := rfl
@[simp] theorem State.setCore_cmds (s : State) (c : Nat) (k : Core) : (s.setCore c k).cmds = s.cmds := rfl
@[simp] theorem State.setCore_mtxq (s : State) (c : Nat) (k : Core) : (s.setCore c k).mtxq = s.mtxq := rfl
@[simp] theorem State.setCore_launches (s : State) (c : Nat) (k : Core) : (s.setCore c k).launches = s.launches := rfl
@[simp] theorem State.setCore_launchq (s : State) (c : Nat) (k : Core) : (s.setCore c k).launchq = s.launchq := rfl
@[simp] theorem State.setCore_nextLid (s : State) (c : Nat) (k : Core) : (s.setCore c k).nextLid = s.nextLid := rfl
@[simp] theorem State.setCore_gangs (s : State) (c : Nat) (k : Core) : (s.setCore c k).gangs = s.gangs := rfl
@[simp] theorem State.setCore_pools (s : State) (c : Nat) (k : Core) : (s.setCore c k).pools = s.pools := rfl
@[simp] theorem State.setCore_ctxs (s : State) (c : Nat) (k : Core) : (s.setCore c k).ctxs = s.ctxs := rfl
@[simp] theorem State.setCore_ghome (s : State) (c : Nat) (k : Core) : (s.setCore c k).ghome = s.ghome := rfl
@[simp] theorem State.setCore_quota (s : State) (c : Nat) (k : Core) : (s.setCore c k).quota = s.quota := rfl
@[simp] theorem State.setCore_boot (s : State) (c : Nat) (k : Core) : (s.setCore c k).boot = s.boot := rfl
@[simp] theorem State.setCore_slotid (s : State) (c : Nat) (k : Core) : (s.setCore c k).slotid = s.slotid := rfl
@[simp] theorem State.setCore_recov (s : State) (c : Nat) (k : Core) : (s.setCore c k).recov = s.recov := rfl
@[simp] theorem State.setCore_pwrgd (s : State) (c : Nat) (k : Core) : (s.setCore c k).pwrgd = s.pwrgd := rfl
@[simp] theorem State.setCore_ident (s : State) (c : Nat) (k : Core) : (s.setCore c k).ident = s.ident := rfl
@[simp] theorem State.setCore_therm (s : State) (c : Nat) (k : Core) : (s.setCore c k).therm = s.therm := rfl
@[simp] theorem State.setCore_flash (s : State) (c : Nat) (k : Core) : (s.setCore c k).flash = s.flash := rfl
@[simp] theorem State.setCore_table (s : State) (c : Nat) (k : Core) : (s.setCore c k).table = s.table := rfl
@[simp] theorem State.setCore_roles (s : State) (c : Nat) (k : Core) : (s.setCore c k).roles = s.roles := rfl
@[simp] theorem State.setCore_heartbeats (s : State) (c : Nat) (k : Core) : (s.setCore c k).heartbeats = s.heartbeats := rfl
@[simp] theorem State.setCore_restarts (s : State) (c : Nat) (k : Core) : (s.setCore c k).restarts = s.restarts := rfl
@[simp] theorem State.setCore_hashAt (s : State) (c : Nat) (k : Core) : (s.setCore c k).hashAt = s.hashAt := rfl
@[simp] theorem State.setCore_columns (s : State) (c : Nat) (k : Core) : (s.setCore c k).columns = s.columns := rfl
@[simp] theorem State.setCore_vectorCap (s : State) (c : Nat) (k : Core) : (s.setCore c k).vectorCap = s.vectorCap := rfl
@[simp] theorem State.setCore_burinCap (s : State) (c : Nat) (k : Core) : (s.setCore c k).burinCap = s.burinCap := rfl
@[simp] theorem State.setCore_held (s : State) (c : Nat) (k : Core) : (s.setCore c k).held = s.held := rfl
@[simp] theorem State.setCore_temps (s : State) (c : Nat) (k : Core) : (s.setCore c k).temps = s.temps := rfl
@[simp] theorem State.setCore_banks (s : State) (c : Nat) (k : Core) : (s.setCore c k).banks = s.banks := rfl
@[simp] theorem State.setCore_lpct (s : State) (c : Nat) (k : Core) : (s.setCore c k).lpct = s.lpct := rfl
@[simp] theorem State.setCore_parts (s : State) (c : Nat) (k : Core) : (s.setCore c k).parts = s.parts := rfl
@[simp] theorem State.setCore_flagsum (s : State) (c : Nat) (k : Core) : (s.setCore c k).flagsum = s.flagsum := rfl
@[simp] theorem State.setCore_secureCores (s : State) (c : Nat) (k : Core) : (s.setCore c k).secureCores = s.secureCores := rfl
@[simp] theorem State.setCore_secureEngines (s : State) (c : Nat) (k : Core) : (s.setCore c k).secureEngines = s.secureEngines := rfl
@[simp] theorem State.setCore_securePort (s : State) (c : Nat) (k : Core) : (s.setCore c k).securePort = s.securePort := rfl
@[simp] theorem State.setCore_regions (s : State) (c : Nat) (k : Core) : (s.setCore c k).regions = s.regions := rfl
@[simp] theorem State.setCore_errors (s : State) (c : Nat) (k : Core) : (s.setCore c k).errors = s.errors := rfl
@[simp] theorem State.setCore_errorIndex (s : State) (c : Nat) (k : Core) : (s.setCore c k).errorIndex = s.errorIndex := rfl
@[simp] theorem State.setCore_locations (s : State) (c : Nat) (k : Core) : (s.setCore c k).locations = s.locations := rfl
@[simp] theorem State.setCore_corrected (s : State) (c : Nat) (k : Core) : (s.setCore c k).corrected = s.corrected := rfl
@[simp] theorem State.setCore_serviceStops (s : State) (c : Nat) (k : Core) : (s.setCore c k).serviceStops = s.serviceStops := rfl
@[simp] theorem State.setCore_lostWays (s : State) (c : Nat) (k : Core) : (s.setCore c k).lostWays = s.lostWays := rfl
@[simp] theorem State.setCore_lostBanks (s : State) (c : Nat) (k : Core) : (s.setCore c k).lostBanks = s.lostBanks := rfl
@[simp] theorem State.setCore_lostCores (s : State) (c : Nat) (k : Core) : (s.setCore c k).lostCores = s.lostCores := rfl
@[simp] theorem State.setCore_lostUnits (s : State) (c : Nat) (k : Core) : (s.setCore c k).lostUnits = s.lostUnits := rfl
@[simp] theorem State.setCore_routes (s : State) (c : Nat) (k : Core) : (s.setCore c k).routes = s.routes := rfl
@[simp] theorem State.setCore_failedPorts (s : State) (c : Nat) (k : Core) : (s.setCore c k).failedPorts = s.failedPorts := rfl
@[simp] theorem State.setCore_replays (s : State) (c : Nat) (k : Core) : (s.setCore c k).replays = s.replays := rfl
@[simp] theorem State.setCore_sessions (s : State) (c : Nat) (k : Core) : (s.setCore c k).sessions = s.sessions := rfl
@[simp] theorem State.setCore_managers (s : State) (c : Nat) (k : Core) : (s.setCore c k).managers = s.managers := rfl
@[simp] theorem State.setCore_sentFrames (s : State) (c : Nat) (k : Core) : (s.setCore c k).sentFrames = s.sentFrames := rfl
@[simp] theorem State.setCore_queues (s : State) (c : Nat) (k : Core) : (s.setCore c k).queues = s.queues := rfl
@[simp] theorem State.setCore_cpAt (s : State) (c : Nat) (k : Core) : (s.setCore c k).cpAt = s.cpAt := rfl
@[simp] theorem State.setCore_podTable (s : State) (c : Nat) (k : Core) : (s.setCore c k).podTable = s.podTable := rfl
@[simp] theorem State.setCore_podIn (s : State) (c : Nat) (k : Core) : (s.setCore c k).podIn = s.podIn := rfl
@[simp] theorem State.setCore_podOut (s : State) (c : Nat) (k : Core) : (s.setCore c k).podOut = s.podOut := rfl
@[simp] theorem State.setCore_podStops (s : State) (c : Nat) (k : Core) : (s.setCore c k).podStops = s.podStops := rfl
@[simp] theorem State.setCore_registering (s : State) (c : Nat) (k : Core) : (s.setCore c k).registering = s.registering := rfl
@[simp] theorem State.setCore_opening (s : State) (c : Nat) (k : Core) : (s.setCore c k).opening = s.opening := rfl
@[simp] theorem State.setCore_signing (s : State) (c : Nat) (k : Core) : (s.setCore c k).signing = s.signing := rfl
@[simp] theorem State.setCore_waiting (s : State) (c : Nat) (k : Core) : (s.setCore c k).waiting = s.waiting := rfl
@[simp] theorem State.setCore_portWork (s : State) (c : Nat) (k : Core) : (s.setCore c k).portWork = s.portWork := rfl
@[simp] theorem State.setCore_hostCtx (s : State) (c : Nat) (k : Core) : (s.setCore c k).hostCtx = s.hostCtx := rfl
@[simp] theorem State.setCore_launchSeq (s : State) (c : Nat) (k : Core) : (s.setCore c k).launchSeq = s.launchSeq := rfl
@[simp] theorem State.setCore_finals (s : State) (c : Nat) (k : Core) : (s.setCore c k).finals = s.finals := rfl

@[simp] theorem State.updCore_agenda (s : State) (c : Nat) (f : Core → Core) : (s.updCore c f).agenda = s.agenda := rfl
@[simp] theorem State.updCore_due (s : State) (c : Nat) (f : Core → Core) : (s.updCore c f).due = s.due := rfl
@[simp] theorem State.updCore_beat (s : State) (c : Nat) (f : Core → Core) : (s.updCore c f).beat = s.beat := rfl
@[simp] theorem State.updCore_draws (s : State) (c : Nat) (f : Core → Core) : (s.updCore c f).draws = s.draws := rfl
@[simp] theorem State.updCore_serial (s : State) (c : Nat) (f : Core → Core) : (s.updCore c f).serial = s.serial := rfl
@[simp] theorem State.updCore_cur (s : State) (c : Nat) (f : Core → Core) : (s.updCore c f).cur = s.cur := rfl
@[simp] theorem State.updCore_now (s : State) (c : Nat) (f : Core → Core) : (s.updCore c f).now = s.now := rfl
@[simp] theorem State.updCore_cycStart (s : State) (c : Nat) (f : Core → Core) : (s.updCore c f).cycStart = s.cycStart := rfl
@[simp] theorem State.updCore_mem (s : State) (c : Nat) (f : Core → Core) : (s.updCore c f).mem = s.mem := rfl
@[simp] theorem State.updCore_tags (s : State) (c : Nat) (f : Core → Core) : (s.updCore c f).tags = s.tags := rfl
@[simp] theorem State.updCore_full (s : State) (c : Nat) (f : Core → Core) : (s.updCore c f).full = s.full := rfl
@[simp] theorem State.updCore_bad (s : State) (c : Nat) (f : Core → Core) : (s.updCore c f).bad = s.bad := rfl
@[simp] theorem State.updCore_parked (s : State) (c : Nat) (f : Core → Core) : (s.updCore c f).parked = s.parked := rfl
@[simp] theorem State.updCore_ops (s : State) (c : Nat) (f : Core → Core) : (s.updCore c f).ops = s.ops := rfl
@[simp] theorem State.updCore_guards (s : State) (c : Nat) (f : Core → Core) : (s.updCore c f).guards = s.guards := rfl
@[simp] theorem State.updCore_tlbL1 (s : State) (c : Nat) (f : Core → Core) : (s.updCore c f).tlbL1 = s.tlbL1 := rfl
@[simp] theorem State.updCore_tlbNode (s : State) (c : Nat) (f : Core → Core) : (s.updCore c f).tlbNode = s.tlbNode := rfl
@[simp] theorem State.updCore_tlbPlate (s : State) (c : Nat) (f : Core → Core) : (s.updCore c f).tlbPlate = s.tlbPlate := rfl
@[simp] theorem State.updCore_walks (s : State) (c : Nat) (f : Core → Core) : (s.updCore c f).walks = s.walks := rfl
@[simp] theorem State.updCore_walkFaults (s : State) (c : Nat) (f : Core → Core) : (s.updCore c f).walkFaults = s.walkFaults := rfl
@[simp] theorem State.updCore_iLines (s : State) (c : Nat) (f : Core → Core) : (s.updCore c f).iLines = s.iLines := rfl
@[simp] theorem State.updCore_dLines (s : State) (c : Nat) (f : Core → Core) : (s.updCore c f).dLines = s.dLines := rfl
@[simp] theorem State.updCore_slices (s : State) (c : Nat) (f : Core → Core) : (s.updCore c f).slices = s.slices := rfl
@[simp] theorem State.updCore_packets (s : State) (c : Nat) (f : Core → Core) : (s.updCore c f).packets = s.packets := rfl
@[simp] theorem State.updCore_guests (s : State) (c : Nat) (f : Core → Core) : (s.updCore c f).guests = s.guests := rfl
@[simp] theorem State.updCore_jobs (s : State) (c : Nat) (f : Core → Core) : (s.updCore c f).jobs = s.jobs := rfl
@[simp] theorem State.updCore_cmds (s : State) (c : Nat) (f : Core → Core) : (s.updCore c f).cmds = s.cmds := rfl
@[simp] theorem State.updCore_mtxq (s : State) (c : Nat) (f : Core → Core) : (s.updCore c f).mtxq = s.mtxq := rfl
@[simp] theorem State.updCore_launches (s : State) (c : Nat) (f : Core → Core) : (s.updCore c f).launches = s.launches := rfl
@[simp] theorem State.updCore_launchq (s : State) (c : Nat) (f : Core → Core) : (s.updCore c f).launchq = s.launchq := rfl
@[simp] theorem State.updCore_nextLid (s : State) (c : Nat) (f : Core → Core) : (s.updCore c f).nextLid = s.nextLid := rfl
@[simp] theorem State.updCore_gangs (s : State) (c : Nat) (f : Core → Core) : (s.updCore c f).gangs = s.gangs := rfl
@[simp] theorem State.updCore_pools (s : State) (c : Nat) (f : Core → Core) : (s.updCore c f).pools = s.pools := rfl
@[simp] theorem State.updCore_ctxs (s : State) (c : Nat) (f : Core → Core) : (s.updCore c f).ctxs = s.ctxs := rfl
@[simp] theorem State.updCore_ghome (s : State) (c : Nat) (f : Core → Core) : (s.updCore c f).ghome = s.ghome := rfl
@[simp] theorem State.updCore_quota (s : State) (c : Nat) (f : Core → Core) : (s.updCore c f).quota = s.quota := rfl
@[simp] theorem State.updCore_boot (s : State) (c : Nat) (f : Core → Core) : (s.updCore c f).boot = s.boot := rfl
@[simp] theorem State.updCore_slotid (s : State) (c : Nat) (f : Core → Core) : (s.updCore c f).slotid = s.slotid := rfl
@[simp] theorem State.updCore_recov (s : State) (c : Nat) (f : Core → Core) : (s.updCore c f).recov = s.recov := rfl
@[simp] theorem State.updCore_pwrgd (s : State) (c : Nat) (f : Core → Core) : (s.updCore c f).pwrgd = s.pwrgd := rfl
@[simp] theorem State.updCore_ident (s : State) (c : Nat) (f : Core → Core) : (s.updCore c f).ident = s.ident := rfl
@[simp] theorem State.updCore_therm (s : State) (c : Nat) (f : Core → Core) : (s.updCore c f).therm = s.therm := rfl
@[simp] theorem State.updCore_flash (s : State) (c : Nat) (f : Core → Core) : (s.updCore c f).flash = s.flash := rfl
@[simp] theorem State.updCore_table (s : State) (c : Nat) (f : Core → Core) : (s.updCore c f).table = s.table := rfl
@[simp] theorem State.updCore_roles (s : State) (c : Nat) (f : Core → Core) : (s.updCore c f).roles = s.roles := rfl
@[simp] theorem State.updCore_heartbeats (s : State) (c : Nat) (f : Core → Core) : (s.updCore c f).heartbeats = s.heartbeats := rfl
@[simp] theorem State.updCore_restarts (s : State) (c : Nat) (f : Core → Core) : (s.updCore c f).restarts = s.restarts := rfl
@[simp] theorem State.updCore_hashAt (s : State) (c : Nat) (f : Core → Core) : (s.updCore c f).hashAt = s.hashAt := rfl
@[simp] theorem State.updCore_columns (s : State) (c : Nat) (f : Core → Core) : (s.updCore c f).columns = s.columns := rfl
@[simp] theorem State.updCore_vectorCap (s : State) (c : Nat) (f : Core → Core) : (s.updCore c f).vectorCap = s.vectorCap := rfl
@[simp] theorem State.updCore_burinCap (s : State) (c : Nat) (f : Core → Core) : (s.updCore c f).burinCap = s.burinCap := rfl
@[simp] theorem State.updCore_held (s : State) (c : Nat) (f : Core → Core) : (s.updCore c f).held = s.held := rfl
@[simp] theorem State.updCore_temps (s : State) (c : Nat) (f : Core → Core) : (s.updCore c f).temps = s.temps := rfl
@[simp] theorem State.updCore_banks (s : State) (c : Nat) (f : Core → Core) : (s.updCore c f).banks = s.banks := rfl
@[simp] theorem State.updCore_lpct (s : State) (c : Nat) (f : Core → Core) : (s.updCore c f).lpct = s.lpct := rfl
@[simp] theorem State.updCore_parts (s : State) (c : Nat) (f : Core → Core) : (s.updCore c f).parts = s.parts := rfl
@[simp] theorem State.updCore_flagsum (s : State) (c : Nat) (f : Core → Core) : (s.updCore c f).flagsum = s.flagsum := rfl
@[simp] theorem State.updCore_secureCores (s : State) (c : Nat) (f : Core → Core) : (s.updCore c f).secureCores = s.secureCores := rfl
@[simp] theorem State.updCore_secureEngines (s : State) (c : Nat) (f : Core → Core) : (s.updCore c f).secureEngines = s.secureEngines := rfl
@[simp] theorem State.updCore_securePort (s : State) (c : Nat) (f : Core → Core) : (s.updCore c f).securePort = s.securePort := rfl
@[simp] theorem State.updCore_regions (s : State) (c : Nat) (f : Core → Core) : (s.updCore c f).regions = s.regions := rfl
@[simp] theorem State.updCore_errors (s : State) (c : Nat) (f : Core → Core) : (s.updCore c f).errors = s.errors := rfl
@[simp] theorem State.updCore_errorIndex (s : State) (c : Nat) (f : Core → Core) : (s.updCore c f).errorIndex = s.errorIndex := rfl
@[simp] theorem State.updCore_locations (s : State) (c : Nat) (f : Core → Core) : (s.updCore c f).locations = s.locations := rfl
@[simp] theorem State.updCore_corrected (s : State) (c : Nat) (f : Core → Core) : (s.updCore c f).corrected = s.corrected := rfl
@[simp] theorem State.updCore_serviceStops (s : State) (c : Nat) (f : Core → Core) : (s.updCore c f).serviceStops = s.serviceStops := rfl
@[simp] theorem State.updCore_lostWays (s : State) (c : Nat) (f : Core → Core) : (s.updCore c f).lostWays = s.lostWays := rfl
@[simp] theorem State.updCore_lostBanks (s : State) (c : Nat) (f : Core → Core) : (s.updCore c f).lostBanks = s.lostBanks := rfl
@[simp] theorem State.updCore_lostCores (s : State) (c : Nat) (f : Core → Core) : (s.updCore c f).lostCores = s.lostCores := rfl
@[simp] theorem State.updCore_lostUnits (s : State) (c : Nat) (f : Core → Core) : (s.updCore c f).lostUnits = s.lostUnits := rfl
@[simp] theorem State.updCore_routes (s : State) (c : Nat) (f : Core → Core) : (s.updCore c f).routes = s.routes := rfl
@[simp] theorem State.updCore_failedPorts (s : State) (c : Nat) (f : Core → Core) : (s.updCore c f).failedPorts = s.failedPorts := rfl
@[simp] theorem State.updCore_replays (s : State) (c : Nat) (f : Core → Core) : (s.updCore c f).replays = s.replays := rfl
@[simp] theorem State.updCore_sessions (s : State) (c : Nat) (f : Core → Core) : (s.updCore c f).sessions = s.sessions := rfl
@[simp] theorem State.updCore_managers (s : State) (c : Nat) (f : Core → Core) : (s.updCore c f).managers = s.managers := rfl
@[simp] theorem State.updCore_sentFrames (s : State) (c : Nat) (f : Core → Core) : (s.updCore c f).sentFrames = s.sentFrames := rfl
@[simp] theorem State.updCore_queues (s : State) (c : Nat) (f : Core → Core) : (s.updCore c f).queues = s.queues := rfl
@[simp] theorem State.updCore_cpAt (s : State) (c : Nat) (f : Core → Core) : (s.updCore c f).cpAt = s.cpAt := rfl
@[simp] theorem State.updCore_podTable (s : State) (c : Nat) (f : Core → Core) : (s.updCore c f).podTable = s.podTable := rfl
@[simp] theorem State.updCore_podIn (s : State) (c : Nat) (f : Core → Core) : (s.updCore c f).podIn = s.podIn := rfl
@[simp] theorem State.updCore_podOut (s : State) (c : Nat) (f : Core → Core) : (s.updCore c f).podOut = s.podOut := rfl
@[simp] theorem State.updCore_podStops (s : State) (c : Nat) (f : Core → Core) : (s.updCore c f).podStops = s.podStops := rfl
@[simp] theorem State.updCore_registering (s : State) (c : Nat) (f : Core → Core) : (s.updCore c f).registering = s.registering := rfl
@[simp] theorem State.updCore_opening (s : State) (c : Nat) (f : Core → Core) : (s.updCore c f).opening = s.opening := rfl
@[simp] theorem State.updCore_signing (s : State) (c : Nat) (f : Core → Core) : (s.updCore c f).signing = s.signing := rfl
@[simp] theorem State.updCore_waiting (s : State) (c : Nat) (f : Core → Core) : (s.updCore c f).waiting = s.waiting := rfl
@[simp] theorem State.updCore_portWork (s : State) (c : Nat) (f : Core → Core) : (s.updCore c f).portWork = s.portWork := rfl
@[simp] theorem State.updCore_hostCtx (s : State) (c : Nat) (f : Core → Core) : (s.updCore c f).hostCtx = s.hostCtx := rfl
@[simp] theorem State.updCore_launchSeq (s : State) (c : Nat) (f : Core → Core) : (s.updCore c f).launchSeq = s.launchSeq := rfl
@[simp] theorem State.updCore_finals (s : State) (c : Nat) (f : Core → Core) : (s.updCore c f).finals = s.finals := rfl

@[simp] theorem State.setSlot_agenda (s : State) (c n : Nat) (x : Slot) : (s.setSlot c n x).agenda = s.agenda := rfl
@[simp] theorem State.setSlot_due (s : State) (c n : Nat) (x : Slot) : (s.setSlot c n x).due = s.due := rfl
@[simp] theorem State.setSlot_beat (s : State) (c n : Nat) (x : Slot) : (s.setSlot c n x).beat = s.beat := rfl
@[simp] theorem State.setSlot_draws (s : State) (c n : Nat) (x : Slot) : (s.setSlot c n x).draws = s.draws := rfl
@[simp] theorem State.setSlot_serial (s : State) (c n : Nat) (x : Slot) : (s.setSlot c n x).serial = s.serial := rfl
@[simp] theorem State.setSlot_cur (s : State) (c n : Nat) (x : Slot) : (s.setSlot c n x).cur = s.cur := rfl
@[simp] theorem State.setSlot_now (s : State) (c n : Nat) (x : Slot) : (s.setSlot c n x).now = s.now := rfl
@[simp] theorem State.setSlot_cycStart (s : State) (c n : Nat) (x : Slot) : (s.setSlot c n x).cycStart = s.cycStart := rfl
@[simp] theorem State.setSlot_mem (s : State) (c n : Nat) (x : Slot) : (s.setSlot c n x).mem = s.mem := rfl
@[simp] theorem State.setSlot_tags (s : State) (c n : Nat) (x : Slot) : (s.setSlot c n x).tags = s.tags := rfl
@[simp] theorem State.setSlot_full (s : State) (c n : Nat) (x : Slot) : (s.setSlot c n x).full = s.full := rfl
@[simp] theorem State.setSlot_bad (s : State) (c n : Nat) (x : Slot) : (s.setSlot c n x).bad = s.bad := rfl
@[simp] theorem State.setSlot_parked (s : State) (c n : Nat) (x : Slot) : (s.setSlot c n x).parked = s.parked := rfl
@[simp] theorem State.setSlot_ops (s : State) (c n : Nat) (x : Slot) : (s.setSlot c n x).ops = s.ops := rfl
@[simp] theorem State.setSlot_guards (s : State) (c n : Nat) (x : Slot) : (s.setSlot c n x).guards = s.guards := rfl
@[simp] theorem State.setSlot_tlbL1 (s : State) (c n : Nat) (x : Slot) : (s.setSlot c n x).tlbL1 = s.tlbL1 := rfl
@[simp] theorem State.setSlot_tlbNode (s : State) (c n : Nat) (x : Slot) : (s.setSlot c n x).tlbNode = s.tlbNode := rfl
@[simp] theorem State.setSlot_tlbPlate (s : State) (c n : Nat) (x : Slot) : (s.setSlot c n x).tlbPlate = s.tlbPlate := rfl
@[simp] theorem State.setSlot_walks (s : State) (c n : Nat) (x : Slot) : (s.setSlot c n x).walks = s.walks := rfl
@[simp] theorem State.setSlot_walkFaults (s : State) (c n : Nat) (x : Slot) : (s.setSlot c n x).walkFaults = s.walkFaults := rfl
@[simp] theorem State.setSlot_iLines (s : State) (c n : Nat) (x : Slot) : (s.setSlot c n x).iLines = s.iLines := rfl
@[simp] theorem State.setSlot_dLines (s : State) (c n : Nat) (x : Slot) : (s.setSlot c n x).dLines = s.dLines := rfl
@[simp] theorem State.setSlot_slices (s : State) (c n : Nat) (x : Slot) : (s.setSlot c n x).slices = s.slices := rfl
@[simp] theorem State.setSlot_packets (s : State) (c n : Nat) (x : Slot) : (s.setSlot c n x).packets = s.packets := rfl
@[simp] theorem State.setSlot_guests (s : State) (c n : Nat) (x : Slot) : (s.setSlot c n x).guests = s.guests := rfl
@[simp] theorem State.setSlot_jobs (s : State) (c n : Nat) (x : Slot) : (s.setSlot c n x).jobs = s.jobs := rfl
@[simp] theorem State.setSlot_cmds (s : State) (c n : Nat) (x : Slot) : (s.setSlot c n x).cmds = s.cmds := rfl
@[simp] theorem State.setSlot_mtxq (s : State) (c n : Nat) (x : Slot) : (s.setSlot c n x).mtxq = s.mtxq := rfl
@[simp] theorem State.setSlot_launches (s : State) (c n : Nat) (x : Slot) : (s.setSlot c n x).launches = s.launches := rfl
@[simp] theorem State.setSlot_launchq (s : State) (c n : Nat) (x : Slot) : (s.setSlot c n x).launchq = s.launchq := rfl
@[simp] theorem State.setSlot_nextLid (s : State) (c n : Nat) (x : Slot) : (s.setSlot c n x).nextLid = s.nextLid := rfl
@[simp] theorem State.setSlot_gangs (s : State) (c n : Nat) (x : Slot) : (s.setSlot c n x).gangs = s.gangs := rfl
@[simp] theorem State.setSlot_pools (s : State) (c n : Nat) (x : Slot) : (s.setSlot c n x).pools = s.pools := rfl
@[simp] theorem State.setSlot_ctxs (s : State) (c n : Nat) (x : Slot) : (s.setSlot c n x).ctxs = s.ctxs := rfl
@[simp] theorem State.setSlot_ghome (s : State) (c n : Nat) (x : Slot) : (s.setSlot c n x).ghome = s.ghome := rfl
@[simp] theorem State.setSlot_quota (s : State) (c n : Nat) (x : Slot) : (s.setSlot c n x).quota = s.quota := rfl
@[simp] theorem State.setSlot_boot (s : State) (c n : Nat) (x : Slot) : (s.setSlot c n x).boot = s.boot := rfl
@[simp] theorem State.setSlot_slotid (s : State) (c n : Nat) (x : Slot) : (s.setSlot c n x).slotid = s.slotid := rfl
@[simp] theorem State.setSlot_recov (s : State) (c n : Nat) (x : Slot) : (s.setSlot c n x).recov = s.recov := rfl
@[simp] theorem State.setSlot_pwrgd (s : State) (c n : Nat) (x : Slot) : (s.setSlot c n x).pwrgd = s.pwrgd := rfl
@[simp] theorem State.setSlot_ident (s : State) (c n : Nat) (x : Slot) : (s.setSlot c n x).ident = s.ident := rfl
@[simp] theorem State.setSlot_therm (s : State) (c n : Nat) (x : Slot) : (s.setSlot c n x).therm = s.therm := rfl
@[simp] theorem State.setSlot_flash (s : State) (c n : Nat) (x : Slot) : (s.setSlot c n x).flash = s.flash := rfl
@[simp] theorem State.setSlot_table (s : State) (c n : Nat) (x : Slot) : (s.setSlot c n x).table = s.table := rfl
@[simp] theorem State.setSlot_roles (s : State) (c n : Nat) (x : Slot) : (s.setSlot c n x).roles = s.roles := rfl
@[simp] theorem State.setSlot_heartbeats (s : State) (c n : Nat) (x : Slot) : (s.setSlot c n x).heartbeats = s.heartbeats := rfl
@[simp] theorem State.setSlot_restarts (s : State) (c n : Nat) (x : Slot) : (s.setSlot c n x).restarts = s.restarts := rfl
@[simp] theorem State.setSlot_hashAt (s : State) (c n : Nat) (x : Slot) : (s.setSlot c n x).hashAt = s.hashAt := rfl
@[simp] theorem State.setSlot_columns (s : State) (c n : Nat) (x : Slot) : (s.setSlot c n x).columns = s.columns := rfl
@[simp] theorem State.setSlot_vectorCap (s : State) (c n : Nat) (x : Slot) : (s.setSlot c n x).vectorCap = s.vectorCap := rfl
@[simp] theorem State.setSlot_burinCap (s : State) (c n : Nat) (x : Slot) : (s.setSlot c n x).burinCap = s.burinCap := rfl
@[simp] theorem State.setSlot_held (s : State) (c n : Nat) (x : Slot) : (s.setSlot c n x).held = s.held := rfl
@[simp] theorem State.setSlot_temps (s : State) (c n : Nat) (x : Slot) : (s.setSlot c n x).temps = s.temps := rfl
@[simp] theorem State.setSlot_banks (s : State) (c n : Nat) (x : Slot) : (s.setSlot c n x).banks = s.banks := rfl
@[simp] theorem State.setSlot_lpct (s : State) (c n : Nat) (x : Slot) : (s.setSlot c n x).lpct = s.lpct := rfl
@[simp] theorem State.setSlot_parts (s : State) (c n : Nat) (x : Slot) : (s.setSlot c n x).parts = s.parts := rfl
@[simp] theorem State.setSlot_flagsum (s : State) (c n : Nat) (x : Slot) : (s.setSlot c n x).flagsum = s.flagsum := rfl
@[simp] theorem State.setSlot_secureCores (s : State) (c n : Nat) (x : Slot) : (s.setSlot c n x).secureCores = s.secureCores := rfl
@[simp] theorem State.setSlot_secureEngines (s : State) (c n : Nat) (x : Slot) : (s.setSlot c n x).secureEngines = s.secureEngines := rfl
@[simp] theorem State.setSlot_securePort (s : State) (c n : Nat) (x : Slot) : (s.setSlot c n x).securePort = s.securePort := rfl
@[simp] theorem State.setSlot_regions (s : State) (c n : Nat) (x : Slot) : (s.setSlot c n x).regions = s.regions := rfl
@[simp] theorem State.setSlot_errors (s : State) (c n : Nat) (x : Slot) : (s.setSlot c n x).errors = s.errors := rfl
@[simp] theorem State.setSlot_errorIndex (s : State) (c n : Nat) (x : Slot) : (s.setSlot c n x).errorIndex = s.errorIndex := rfl
@[simp] theorem State.setSlot_locations (s : State) (c n : Nat) (x : Slot) : (s.setSlot c n x).locations = s.locations := rfl
@[simp] theorem State.setSlot_corrected (s : State) (c n : Nat) (x : Slot) : (s.setSlot c n x).corrected = s.corrected := rfl
@[simp] theorem State.setSlot_serviceStops (s : State) (c n : Nat) (x : Slot) : (s.setSlot c n x).serviceStops = s.serviceStops := rfl
@[simp] theorem State.setSlot_lostWays (s : State) (c n : Nat) (x : Slot) : (s.setSlot c n x).lostWays = s.lostWays := rfl
@[simp] theorem State.setSlot_lostBanks (s : State) (c n : Nat) (x : Slot) : (s.setSlot c n x).lostBanks = s.lostBanks := rfl
@[simp] theorem State.setSlot_lostCores (s : State) (c n : Nat) (x : Slot) : (s.setSlot c n x).lostCores = s.lostCores := rfl
@[simp] theorem State.setSlot_lostUnits (s : State) (c n : Nat) (x : Slot) : (s.setSlot c n x).lostUnits = s.lostUnits := rfl
@[simp] theorem State.setSlot_routes (s : State) (c n : Nat) (x : Slot) : (s.setSlot c n x).routes = s.routes := rfl
@[simp] theorem State.setSlot_failedPorts (s : State) (c n : Nat) (x : Slot) : (s.setSlot c n x).failedPorts = s.failedPorts := rfl
@[simp] theorem State.setSlot_replays (s : State) (c n : Nat) (x : Slot) : (s.setSlot c n x).replays = s.replays := rfl
@[simp] theorem State.setSlot_sessions (s : State) (c n : Nat) (x : Slot) : (s.setSlot c n x).sessions = s.sessions := rfl
@[simp] theorem State.setSlot_managers (s : State) (c n : Nat) (x : Slot) : (s.setSlot c n x).managers = s.managers := rfl
@[simp] theorem State.setSlot_sentFrames (s : State) (c n : Nat) (x : Slot) : (s.setSlot c n x).sentFrames = s.sentFrames := rfl
@[simp] theorem State.setSlot_queues (s : State) (c n : Nat) (x : Slot) : (s.setSlot c n x).queues = s.queues := rfl
@[simp] theorem State.setSlot_cpAt (s : State) (c n : Nat) (x : Slot) : (s.setSlot c n x).cpAt = s.cpAt := rfl
@[simp] theorem State.setSlot_podTable (s : State) (c n : Nat) (x : Slot) : (s.setSlot c n x).podTable = s.podTable := rfl
@[simp] theorem State.setSlot_podIn (s : State) (c n : Nat) (x : Slot) : (s.setSlot c n x).podIn = s.podIn := rfl
@[simp] theorem State.setSlot_podOut (s : State) (c n : Nat) (x : Slot) : (s.setSlot c n x).podOut = s.podOut := rfl
@[simp] theorem State.setSlot_podStops (s : State) (c n : Nat) (x : Slot) : (s.setSlot c n x).podStops = s.podStops := rfl
@[simp] theorem State.setSlot_registering (s : State) (c n : Nat) (x : Slot) : (s.setSlot c n x).registering = s.registering := rfl
@[simp] theorem State.setSlot_opening (s : State) (c n : Nat) (x : Slot) : (s.setSlot c n x).opening = s.opening := rfl
@[simp] theorem State.setSlot_signing (s : State) (c n : Nat) (x : Slot) : (s.setSlot c n x).signing = s.signing := rfl
@[simp] theorem State.setSlot_waiting (s : State) (c n : Nat) (x : Slot) : (s.setSlot c n x).waiting = s.waiting := rfl
@[simp] theorem State.setSlot_portWork (s : State) (c n : Nat) (x : Slot) : (s.setSlot c n x).portWork = s.portWork := rfl
@[simp] theorem State.setSlot_hostCtx (s : State) (c n : Nat) (x : Slot) : (s.setSlot c n x).hostCtx = s.hostCtx := rfl
@[simp] theorem State.setSlot_launchSeq (s : State) (c n : Nat) (x : Slot) : (s.setSlot c n x).launchSeq = s.launchSeq := rfl
@[simp] theorem State.setSlot_finals (s : State) (c n : Nat) (x : Slot) : (s.setSlot c n x).finals = s.finals := rfl

@[simp] theorem State.updSlot_agenda (s : State) (c n : Nat) (f : Slot → Slot) : (s.updSlot c n f).agenda = s.agenda := rfl
@[simp] theorem State.updSlot_due (s : State) (c n : Nat) (f : Slot → Slot) : (s.updSlot c n f).due = s.due := rfl
@[simp] theorem State.updSlot_beat (s : State) (c n : Nat) (f : Slot → Slot) : (s.updSlot c n f).beat = s.beat := rfl
@[simp] theorem State.updSlot_draws (s : State) (c n : Nat) (f : Slot → Slot) : (s.updSlot c n f).draws = s.draws := rfl
@[simp] theorem State.updSlot_serial (s : State) (c n : Nat) (f : Slot → Slot) : (s.updSlot c n f).serial = s.serial := rfl
@[simp] theorem State.updSlot_cur (s : State) (c n : Nat) (f : Slot → Slot) : (s.updSlot c n f).cur = s.cur := rfl
@[simp] theorem State.updSlot_now (s : State) (c n : Nat) (f : Slot → Slot) : (s.updSlot c n f).now = s.now := rfl
@[simp] theorem State.updSlot_cycStart (s : State) (c n : Nat) (f : Slot → Slot) : (s.updSlot c n f).cycStart = s.cycStart := rfl
@[simp] theorem State.updSlot_mem (s : State) (c n : Nat) (f : Slot → Slot) : (s.updSlot c n f).mem = s.mem := rfl
@[simp] theorem State.updSlot_tags (s : State) (c n : Nat) (f : Slot → Slot) : (s.updSlot c n f).tags = s.tags := rfl
@[simp] theorem State.updSlot_full (s : State) (c n : Nat) (f : Slot → Slot) : (s.updSlot c n f).full = s.full := rfl
@[simp] theorem State.updSlot_bad (s : State) (c n : Nat) (f : Slot → Slot) : (s.updSlot c n f).bad = s.bad := rfl
@[simp] theorem State.updSlot_parked (s : State) (c n : Nat) (f : Slot → Slot) : (s.updSlot c n f).parked = s.parked := rfl
@[simp] theorem State.updSlot_ops (s : State) (c n : Nat) (f : Slot → Slot) : (s.updSlot c n f).ops = s.ops := rfl
@[simp] theorem State.updSlot_guards (s : State) (c n : Nat) (f : Slot → Slot) : (s.updSlot c n f).guards = s.guards := rfl
@[simp] theorem State.updSlot_tlbL1 (s : State) (c n : Nat) (f : Slot → Slot) : (s.updSlot c n f).tlbL1 = s.tlbL1 := rfl
@[simp] theorem State.updSlot_tlbNode (s : State) (c n : Nat) (f : Slot → Slot) : (s.updSlot c n f).tlbNode = s.tlbNode := rfl
@[simp] theorem State.updSlot_tlbPlate (s : State) (c n : Nat) (f : Slot → Slot) : (s.updSlot c n f).tlbPlate = s.tlbPlate := rfl
@[simp] theorem State.updSlot_walks (s : State) (c n : Nat) (f : Slot → Slot) : (s.updSlot c n f).walks = s.walks := rfl
@[simp] theorem State.updSlot_walkFaults (s : State) (c n : Nat) (f : Slot → Slot) : (s.updSlot c n f).walkFaults = s.walkFaults := rfl
@[simp] theorem State.updSlot_iLines (s : State) (c n : Nat) (f : Slot → Slot) : (s.updSlot c n f).iLines = s.iLines := rfl
@[simp] theorem State.updSlot_dLines (s : State) (c n : Nat) (f : Slot → Slot) : (s.updSlot c n f).dLines = s.dLines := rfl
@[simp] theorem State.updSlot_slices (s : State) (c n : Nat) (f : Slot → Slot) : (s.updSlot c n f).slices = s.slices := rfl
@[simp] theorem State.updSlot_packets (s : State) (c n : Nat) (f : Slot → Slot) : (s.updSlot c n f).packets = s.packets := rfl
@[simp] theorem State.updSlot_guests (s : State) (c n : Nat) (f : Slot → Slot) : (s.updSlot c n f).guests = s.guests := rfl
@[simp] theorem State.updSlot_jobs (s : State) (c n : Nat) (f : Slot → Slot) : (s.updSlot c n f).jobs = s.jobs := rfl
@[simp] theorem State.updSlot_cmds (s : State) (c n : Nat) (f : Slot → Slot) : (s.updSlot c n f).cmds = s.cmds := rfl
@[simp] theorem State.updSlot_mtxq (s : State) (c n : Nat) (f : Slot → Slot) : (s.updSlot c n f).mtxq = s.mtxq := rfl
@[simp] theorem State.updSlot_launches (s : State) (c n : Nat) (f : Slot → Slot) : (s.updSlot c n f).launches = s.launches := rfl
@[simp] theorem State.updSlot_launchq (s : State) (c n : Nat) (f : Slot → Slot) : (s.updSlot c n f).launchq = s.launchq := rfl
@[simp] theorem State.updSlot_nextLid (s : State) (c n : Nat) (f : Slot → Slot) : (s.updSlot c n f).nextLid = s.nextLid := rfl
@[simp] theorem State.updSlot_gangs (s : State) (c n : Nat) (f : Slot → Slot) : (s.updSlot c n f).gangs = s.gangs := rfl
@[simp] theorem State.updSlot_pools (s : State) (c n : Nat) (f : Slot → Slot) : (s.updSlot c n f).pools = s.pools := rfl
@[simp] theorem State.updSlot_ctxs (s : State) (c n : Nat) (f : Slot → Slot) : (s.updSlot c n f).ctxs = s.ctxs := rfl
@[simp] theorem State.updSlot_ghome (s : State) (c n : Nat) (f : Slot → Slot) : (s.updSlot c n f).ghome = s.ghome := rfl
@[simp] theorem State.updSlot_quota (s : State) (c n : Nat) (f : Slot → Slot) : (s.updSlot c n f).quota = s.quota := rfl
@[simp] theorem State.updSlot_boot (s : State) (c n : Nat) (f : Slot → Slot) : (s.updSlot c n f).boot = s.boot := rfl
@[simp] theorem State.updSlot_slotid (s : State) (c n : Nat) (f : Slot → Slot) : (s.updSlot c n f).slotid = s.slotid := rfl
@[simp] theorem State.updSlot_recov (s : State) (c n : Nat) (f : Slot → Slot) : (s.updSlot c n f).recov = s.recov := rfl
@[simp] theorem State.updSlot_pwrgd (s : State) (c n : Nat) (f : Slot → Slot) : (s.updSlot c n f).pwrgd = s.pwrgd := rfl
@[simp] theorem State.updSlot_ident (s : State) (c n : Nat) (f : Slot → Slot) : (s.updSlot c n f).ident = s.ident := rfl
@[simp] theorem State.updSlot_therm (s : State) (c n : Nat) (f : Slot → Slot) : (s.updSlot c n f).therm = s.therm := rfl
@[simp] theorem State.updSlot_flash (s : State) (c n : Nat) (f : Slot → Slot) : (s.updSlot c n f).flash = s.flash := rfl
@[simp] theorem State.updSlot_table (s : State) (c n : Nat) (f : Slot → Slot) : (s.updSlot c n f).table = s.table := rfl
@[simp] theorem State.updSlot_roles (s : State) (c n : Nat) (f : Slot → Slot) : (s.updSlot c n f).roles = s.roles := rfl
@[simp] theorem State.updSlot_heartbeats (s : State) (c n : Nat) (f : Slot → Slot) : (s.updSlot c n f).heartbeats = s.heartbeats := rfl
@[simp] theorem State.updSlot_restarts (s : State) (c n : Nat) (f : Slot → Slot) : (s.updSlot c n f).restarts = s.restarts := rfl
@[simp] theorem State.updSlot_hashAt (s : State) (c n : Nat) (f : Slot → Slot) : (s.updSlot c n f).hashAt = s.hashAt := rfl
@[simp] theorem State.updSlot_columns (s : State) (c n : Nat) (f : Slot → Slot) : (s.updSlot c n f).columns = s.columns := rfl
@[simp] theorem State.updSlot_vectorCap (s : State) (c n : Nat) (f : Slot → Slot) : (s.updSlot c n f).vectorCap = s.vectorCap := rfl
@[simp] theorem State.updSlot_burinCap (s : State) (c n : Nat) (f : Slot → Slot) : (s.updSlot c n f).burinCap = s.burinCap := rfl
@[simp] theorem State.updSlot_held (s : State) (c n : Nat) (f : Slot → Slot) : (s.updSlot c n f).held = s.held := rfl
@[simp] theorem State.updSlot_temps (s : State) (c n : Nat) (f : Slot → Slot) : (s.updSlot c n f).temps = s.temps := rfl
@[simp] theorem State.updSlot_banks (s : State) (c n : Nat) (f : Slot → Slot) : (s.updSlot c n f).banks = s.banks := rfl
@[simp] theorem State.updSlot_lpct (s : State) (c n : Nat) (f : Slot → Slot) : (s.updSlot c n f).lpct = s.lpct := rfl
@[simp] theorem State.updSlot_parts (s : State) (c n : Nat) (f : Slot → Slot) : (s.updSlot c n f).parts = s.parts := rfl
@[simp] theorem State.updSlot_flagsum (s : State) (c n : Nat) (f : Slot → Slot) : (s.updSlot c n f).flagsum = s.flagsum := rfl
@[simp] theorem State.updSlot_secureCores (s : State) (c n : Nat) (f : Slot → Slot) : (s.updSlot c n f).secureCores = s.secureCores := rfl
@[simp] theorem State.updSlot_secureEngines (s : State) (c n : Nat) (f : Slot → Slot) : (s.updSlot c n f).secureEngines = s.secureEngines := rfl
@[simp] theorem State.updSlot_securePort (s : State) (c n : Nat) (f : Slot → Slot) : (s.updSlot c n f).securePort = s.securePort := rfl
@[simp] theorem State.updSlot_regions (s : State) (c n : Nat) (f : Slot → Slot) : (s.updSlot c n f).regions = s.regions := rfl
@[simp] theorem State.updSlot_errors (s : State) (c n : Nat) (f : Slot → Slot) : (s.updSlot c n f).errors = s.errors := rfl
@[simp] theorem State.updSlot_errorIndex (s : State) (c n : Nat) (f : Slot → Slot) : (s.updSlot c n f).errorIndex = s.errorIndex := rfl
@[simp] theorem State.updSlot_locations (s : State) (c n : Nat) (f : Slot → Slot) : (s.updSlot c n f).locations = s.locations := rfl
@[simp] theorem State.updSlot_corrected (s : State) (c n : Nat) (f : Slot → Slot) : (s.updSlot c n f).corrected = s.corrected := rfl
@[simp] theorem State.updSlot_serviceStops (s : State) (c n : Nat) (f : Slot → Slot) : (s.updSlot c n f).serviceStops = s.serviceStops := rfl
@[simp] theorem State.updSlot_lostWays (s : State) (c n : Nat) (f : Slot → Slot) : (s.updSlot c n f).lostWays = s.lostWays := rfl
@[simp] theorem State.updSlot_lostBanks (s : State) (c n : Nat) (f : Slot → Slot) : (s.updSlot c n f).lostBanks = s.lostBanks := rfl
@[simp] theorem State.updSlot_lostCores (s : State) (c n : Nat) (f : Slot → Slot) : (s.updSlot c n f).lostCores = s.lostCores := rfl
@[simp] theorem State.updSlot_lostUnits (s : State) (c n : Nat) (f : Slot → Slot) : (s.updSlot c n f).lostUnits = s.lostUnits := rfl
@[simp] theorem State.updSlot_routes (s : State) (c n : Nat) (f : Slot → Slot) : (s.updSlot c n f).routes = s.routes := rfl
@[simp] theorem State.updSlot_failedPorts (s : State) (c n : Nat) (f : Slot → Slot) : (s.updSlot c n f).failedPorts = s.failedPorts := rfl
@[simp] theorem State.updSlot_replays (s : State) (c n : Nat) (f : Slot → Slot) : (s.updSlot c n f).replays = s.replays := rfl
@[simp] theorem State.updSlot_sessions (s : State) (c n : Nat) (f : Slot → Slot) : (s.updSlot c n f).sessions = s.sessions := rfl
@[simp] theorem State.updSlot_managers (s : State) (c n : Nat) (f : Slot → Slot) : (s.updSlot c n f).managers = s.managers := rfl
@[simp] theorem State.updSlot_sentFrames (s : State) (c n : Nat) (f : Slot → Slot) : (s.updSlot c n f).sentFrames = s.sentFrames := rfl
@[simp] theorem State.updSlot_queues (s : State) (c n : Nat) (f : Slot → Slot) : (s.updSlot c n f).queues = s.queues := rfl
@[simp] theorem State.updSlot_cpAt (s : State) (c n : Nat) (f : Slot → Slot) : (s.updSlot c n f).cpAt = s.cpAt := rfl
@[simp] theorem State.updSlot_podTable (s : State) (c n : Nat) (f : Slot → Slot) : (s.updSlot c n f).podTable = s.podTable := rfl
@[simp] theorem State.updSlot_podIn (s : State) (c n : Nat) (f : Slot → Slot) : (s.updSlot c n f).podIn = s.podIn := rfl
@[simp] theorem State.updSlot_podOut (s : State) (c n : Nat) (f : Slot → Slot) : (s.updSlot c n f).podOut = s.podOut := rfl
@[simp] theorem State.updSlot_podStops (s : State) (c n : Nat) (f : Slot → Slot) : (s.updSlot c n f).podStops = s.podStops := rfl
@[simp] theorem State.updSlot_registering (s : State) (c n : Nat) (f : Slot → Slot) : (s.updSlot c n f).registering = s.registering := rfl
@[simp] theorem State.updSlot_opening (s : State) (c n : Nat) (f : Slot → Slot) : (s.updSlot c n f).opening = s.opening := rfl
@[simp] theorem State.updSlot_signing (s : State) (c n : Nat) (f : Slot → Slot) : (s.updSlot c n f).signing = s.signing := rfl
@[simp] theorem State.updSlot_waiting (s : State) (c n : Nat) (f : Slot → Slot) : (s.updSlot c n f).waiting = s.waiting := rfl
@[simp] theorem State.updSlot_portWork (s : State) (c n : Nat) (f : Slot → Slot) : (s.updSlot c n f).portWork = s.portWork := rfl
@[simp] theorem State.updSlot_hostCtx (s : State) (c n : Nat) (f : Slot → Slot) : (s.updSlot c n f).hostCtx = s.hostCtx := rfl
@[simp] theorem State.updSlot_launchSeq (s : State) (c n : Nat) (f : Slot → Slot) : (s.updSlot c n f).launchSeq = s.launchSeq := rfl
@[simp] theorem State.updSlot_finals (s : State) (c n : Nat) (f : Slot → Slot) : (s.updSlot c n f).finals = s.finals := rfl

@[simp] theorem State.updMe_agenda (s : State) (f : Slot → Slot) : (s.updMe f).agenda = s.agenda := rfl
@[simp] theorem State.updMe_due (s : State) (f : Slot → Slot) : (s.updMe f).due = s.due := rfl
@[simp] theorem State.updMe_beat (s : State) (f : Slot → Slot) : (s.updMe f).beat = s.beat := rfl
@[simp] theorem State.updMe_draws (s : State) (f : Slot → Slot) : (s.updMe f).draws = s.draws := rfl
@[simp] theorem State.updMe_serial (s : State) (f : Slot → Slot) : (s.updMe f).serial = s.serial := rfl
@[simp] theorem State.updMe_cur (s : State) (f : Slot → Slot) : (s.updMe f).cur = s.cur := rfl
@[simp] theorem State.updMe_now (s : State) (f : Slot → Slot) : (s.updMe f).now = s.now := rfl
@[simp] theorem State.updMe_cycStart (s : State) (f : Slot → Slot) : (s.updMe f).cycStart = s.cycStart := rfl
@[simp] theorem State.updMe_mem (s : State) (f : Slot → Slot) : (s.updMe f).mem = s.mem := rfl
@[simp] theorem State.updMe_tags (s : State) (f : Slot → Slot) : (s.updMe f).tags = s.tags := rfl
@[simp] theorem State.updMe_full (s : State) (f : Slot → Slot) : (s.updMe f).full = s.full := rfl
@[simp] theorem State.updMe_bad (s : State) (f : Slot → Slot) : (s.updMe f).bad = s.bad := rfl
@[simp] theorem State.updMe_parked (s : State) (f : Slot → Slot) : (s.updMe f).parked = s.parked := rfl
@[simp] theorem State.updMe_ops (s : State) (f : Slot → Slot) : (s.updMe f).ops = s.ops := rfl
@[simp] theorem State.updMe_guards (s : State) (f : Slot → Slot) : (s.updMe f).guards = s.guards := rfl
@[simp] theorem State.updMe_tlbL1 (s : State) (f : Slot → Slot) : (s.updMe f).tlbL1 = s.tlbL1 := rfl
@[simp] theorem State.updMe_tlbNode (s : State) (f : Slot → Slot) : (s.updMe f).tlbNode = s.tlbNode := rfl
@[simp] theorem State.updMe_tlbPlate (s : State) (f : Slot → Slot) : (s.updMe f).tlbPlate = s.tlbPlate := rfl
@[simp] theorem State.updMe_walks (s : State) (f : Slot → Slot) : (s.updMe f).walks = s.walks := rfl
@[simp] theorem State.updMe_walkFaults (s : State) (f : Slot → Slot) : (s.updMe f).walkFaults = s.walkFaults := rfl
@[simp] theorem State.updMe_iLines (s : State) (f : Slot → Slot) : (s.updMe f).iLines = s.iLines := rfl
@[simp] theorem State.updMe_dLines (s : State) (f : Slot → Slot) : (s.updMe f).dLines = s.dLines := rfl
@[simp] theorem State.updMe_slices (s : State) (f : Slot → Slot) : (s.updMe f).slices = s.slices := rfl
@[simp] theorem State.updMe_packets (s : State) (f : Slot → Slot) : (s.updMe f).packets = s.packets := rfl
@[simp] theorem State.updMe_guests (s : State) (f : Slot → Slot) : (s.updMe f).guests = s.guests := rfl
@[simp] theorem State.updMe_jobs (s : State) (f : Slot → Slot) : (s.updMe f).jobs = s.jobs := rfl
@[simp] theorem State.updMe_cmds (s : State) (f : Slot → Slot) : (s.updMe f).cmds = s.cmds := rfl
@[simp] theorem State.updMe_mtxq (s : State) (f : Slot → Slot) : (s.updMe f).mtxq = s.mtxq := rfl
@[simp] theorem State.updMe_launches (s : State) (f : Slot → Slot) : (s.updMe f).launches = s.launches := rfl
@[simp] theorem State.updMe_launchq (s : State) (f : Slot → Slot) : (s.updMe f).launchq = s.launchq := rfl
@[simp] theorem State.updMe_nextLid (s : State) (f : Slot → Slot) : (s.updMe f).nextLid = s.nextLid := rfl
@[simp] theorem State.updMe_gangs (s : State) (f : Slot → Slot) : (s.updMe f).gangs = s.gangs := rfl
@[simp] theorem State.updMe_pools (s : State) (f : Slot → Slot) : (s.updMe f).pools = s.pools := rfl
@[simp] theorem State.updMe_ctxs (s : State) (f : Slot → Slot) : (s.updMe f).ctxs = s.ctxs := rfl
@[simp] theorem State.updMe_ghome (s : State) (f : Slot → Slot) : (s.updMe f).ghome = s.ghome := rfl
@[simp] theorem State.updMe_quota (s : State) (f : Slot → Slot) : (s.updMe f).quota = s.quota := rfl
@[simp] theorem State.updMe_boot (s : State) (f : Slot → Slot) : (s.updMe f).boot = s.boot := rfl
@[simp] theorem State.updMe_slotid (s : State) (f : Slot → Slot) : (s.updMe f).slotid = s.slotid := rfl
@[simp] theorem State.updMe_recov (s : State) (f : Slot → Slot) : (s.updMe f).recov = s.recov := rfl
@[simp] theorem State.updMe_pwrgd (s : State) (f : Slot → Slot) : (s.updMe f).pwrgd = s.pwrgd := rfl
@[simp] theorem State.updMe_ident (s : State) (f : Slot → Slot) : (s.updMe f).ident = s.ident := rfl
@[simp] theorem State.updMe_therm (s : State) (f : Slot → Slot) : (s.updMe f).therm = s.therm := rfl
@[simp] theorem State.updMe_flash (s : State) (f : Slot → Slot) : (s.updMe f).flash = s.flash := rfl
@[simp] theorem State.updMe_table (s : State) (f : Slot → Slot) : (s.updMe f).table = s.table := rfl
@[simp] theorem State.updMe_roles (s : State) (f : Slot → Slot) : (s.updMe f).roles = s.roles := rfl
@[simp] theorem State.updMe_heartbeats (s : State) (f : Slot → Slot) : (s.updMe f).heartbeats = s.heartbeats := rfl
@[simp] theorem State.updMe_restarts (s : State) (f : Slot → Slot) : (s.updMe f).restarts = s.restarts := rfl
@[simp] theorem State.updMe_hashAt (s : State) (f : Slot → Slot) : (s.updMe f).hashAt = s.hashAt := rfl
@[simp] theorem State.updMe_columns (s : State) (f : Slot → Slot) : (s.updMe f).columns = s.columns := rfl
@[simp] theorem State.updMe_vectorCap (s : State) (f : Slot → Slot) : (s.updMe f).vectorCap = s.vectorCap := rfl
@[simp] theorem State.updMe_burinCap (s : State) (f : Slot → Slot) : (s.updMe f).burinCap = s.burinCap := rfl
@[simp] theorem State.updMe_held (s : State) (f : Slot → Slot) : (s.updMe f).held = s.held := rfl
@[simp] theorem State.updMe_temps (s : State) (f : Slot → Slot) : (s.updMe f).temps = s.temps := rfl
@[simp] theorem State.updMe_banks (s : State) (f : Slot → Slot) : (s.updMe f).banks = s.banks := rfl
@[simp] theorem State.updMe_lpct (s : State) (f : Slot → Slot) : (s.updMe f).lpct = s.lpct := rfl
@[simp] theorem State.updMe_parts (s : State) (f : Slot → Slot) : (s.updMe f).parts = s.parts := rfl
@[simp] theorem State.updMe_flagsum (s : State) (f : Slot → Slot) : (s.updMe f).flagsum = s.flagsum := rfl
@[simp] theorem State.updMe_secureCores (s : State) (f : Slot → Slot) : (s.updMe f).secureCores = s.secureCores := rfl
@[simp] theorem State.updMe_secureEngines (s : State) (f : Slot → Slot) : (s.updMe f).secureEngines = s.secureEngines := rfl
@[simp] theorem State.updMe_securePort (s : State) (f : Slot → Slot) : (s.updMe f).securePort = s.securePort := rfl
@[simp] theorem State.updMe_regions (s : State) (f : Slot → Slot) : (s.updMe f).regions = s.regions := rfl
@[simp] theorem State.updMe_errors (s : State) (f : Slot → Slot) : (s.updMe f).errors = s.errors := rfl
@[simp] theorem State.updMe_errorIndex (s : State) (f : Slot → Slot) : (s.updMe f).errorIndex = s.errorIndex := rfl
@[simp] theorem State.updMe_locations (s : State) (f : Slot → Slot) : (s.updMe f).locations = s.locations := rfl
@[simp] theorem State.updMe_corrected (s : State) (f : Slot → Slot) : (s.updMe f).corrected = s.corrected := rfl
@[simp] theorem State.updMe_serviceStops (s : State) (f : Slot → Slot) : (s.updMe f).serviceStops = s.serviceStops := rfl
@[simp] theorem State.updMe_lostWays (s : State) (f : Slot → Slot) : (s.updMe f).lostWays = s.lostWays := rfl
@[simp] theorem State.updMe_lostBanks (s : State) (f : Slot → Slot) : (s.updMe f).lostBanks = s.lostBanks := rfl
@[simp] theorem State.updMe_lostCores (s : State) (f : Slot → Slot) : (s.updMe f).lostCores = s.lostCores := rfl
@[simp] theorem State.updMe_lostUnits (s : State) (f : Slot → Slot) : (s.updMe f).lostUnits = s.lostUnits := rfl
@[simp] theorem State.updMe_routes (s : State) (f : Slot → Slot) : (s.updMe f).routes = s.routes := rfl
@[simp] theorem State.updMe_failedPorts (s : State) (f : Slot → Slot) : (s.updMe f).failedPorts = s.failedPorts := rfl
@[simp] theorem State.updMe_replays (s : State) (f : Slot → Slot) : (s.updMe f).replays = s.replays := rfl
@[simp] theorem State.updMe_sessions (s : State) (f : Slot → Slot) : (s.updMe f).sessions = s.sessions := rfl
@[simp] theorem State.updMe_managers (s : State) (f : Slot → Slot) : (s.updMe f).managers = s.managers := rfl
@[simp] theorem State.updMe_sentFrames (s : State) (f : Slot → Slot) : (s.updMe f).sentFrames = s.sentFrames := rfl
@[simp] theorem State.updMe_queues (s : State) (f : Slot → Slot) : (s.updMe f).queues = s.queues := rfl
@[simp] theorem State.updMe_cpAt (s : State) (f : Slot → Slot) : (s.updMe f).cpAt = s.cpAt := rfl
@[simp] theorem State.updMe_podTable (s : State) (f : Slot → Slot) : (s.updMe f).podTable = s.podTable := rfl
@[simp] theorem State.updMe_podIn (s : State) (f : Slot → Slot) : (s.updMe f).podIn = s.podIn := rfl
@[simp] theorem State.updMe_podOut (s : State) (f : Slot → Slot) : (s.updMe f).podOut = s.podOut := rfl
@[simp] theorem State.updMe_podStops (s : State) (f : Slot → Slot) : (s.updMe f).podStops = s.podStops := rfl
@[simp] theorem State.updMe_registering (s : State) (f : Slot → Slot) : (s.updMe f).registering = s.registering := rfl
@[simp] theorem State.updMe_opening (s : State) (f : Slot → Slot) : (s.updMe f).opening = s.opening := rfl
@[simp] theorem State.updMe_signing (s : State) (f : Slot → Slot) : (s.updMe f).signing = s.signing := rfl
@[simp] theorem State.updMe_waiting (s : State) (f : Slot → Slot) : (s.updMe f).waiting = s.waiting := rfl
@[simp] theorem State.updMe_portWork (s : State) (f : Slot → Slot) : (s.updMe f).portWork = s.portWork := rfl
@[simp] theorem State.updMe_hostCtx (s : State) (f : Slot → Slot) : (s.updMe f).hostCtx = s.hostCtx := rfl
@[simp] theorem State.updMe_launchSeq (s : State) (f : Slot → Slot) : (s.updMe f).launchSeq = s.launchSeq := rfl
@[simp] theorem State.updMe_finals (s : State) (f : Slot → Slot) : (s.updMe f).finals = s.finals := rfl

@[simp] theorem State.updArch_agenda (s : State) (f : Arch → Arch) : (s.updArch f).agenda = s.agenda := rfl
@[simp] theorem State.updArch_due (s : State) (f : Arch → Arch) : (s.updArch f).due = s.due := rfl
@[simp] theorem State.updArch_beat (s : State) (f : Arch → Arch) : (s.updArch f).beat = s.beat := rfl
@[simp] theorem State.updArch_draws (s : State) (f : Arch → Arch) : (s.updArch f).draws = s.draws := rfl
@[simp] theorem State.updArch_serial (s : State) (f : Arch → Arch) : (s.updArch f).serial = s.serial := rfl
@[simp] theorem State.updArch_cur (s : State) (f : Arch → Arch) : (s.updArch f).cur = s.cur := rfl
@[simp] theorem State.updArch_now (s : State) (f : Arch → Arch) : (s.updArch f).now = s.now := rfl
@[simp] theorem State.updArch_cycStart (s : State) (f : Arch → Arch) : (s.updArch f).cycStart = s.cycStart := rfl
@[simp] theorem State.updArch_mem (s : State) (f : Arch → Arch) : (s.updArch f).mem = s.mem := rfl
@[simp] theorem State.updArch_tags (s : State) (f : Arch → Arch) : (s.updArch f).tags = s.tags := rfl
@[simp] theorem State.updArch_full (s : State) (f : Arch → Arch) : (s.updArch f).full = s.full := rfl
@[simp] theorem State.updArch_bad (s : State) (f : Arch → Arch) : (s.updArch f).bad = s.bad := rfl
@[simp] theorem State.updArch_parked (s : State) (f : Arch → Arch) : (s.updArch f).parked = s.parked := rfl
@[simp] theorem State.updArch_ops (s : State) (f : Arch → Arch) : (s.updArch f).ops = s.ops := rfl
@[simp] theorem State.updArch_guards (s : State) (f : Arch → Arch) : (s.updArch f).guards = s.guards := rfl
@[simp] theorem State.updArch_tlbL1 (s : State) (f : Arch → Arch) : (s.updArch f).tlbL1 = s.tlbL1 := rfl
@[simp] theorem State.updArch_tlbNode (s : State) (f : Arch → Arch) : (s.updArch f).tlbNode = s.tlbNode := rfl
@[simp] theorem State.updArch_tlbPlate (s : State) (f : Arch → Arch) : (s.updArch f).tlbPlate = s.tlbPlate := rfl
@[simp] theorem State.updArch_walks (s : State) (f : Arch → Arch) : (s.updArch f).walks = s.walks := rfl
@[simp] theorem State.updArch_walkFaults (s : State) (f : Arch → Arch) : (s.updArch f).walkFaults = s.walkFaults := rfl
@[simp] theorem State.updArch_iLines (s : State) (f : Arch → Arch) : (s.updArch f).iLines = s.iLines := rfl
@[simp] theorem State.updArch_dLines (s : State) (f : Arch → Arch) : (s.updArch f).dLines = s.dLines := rfl
@[simp] theorem State.updArch_slices (s : State) (f : Arch → Arch) : (s.updArch f).slices = s.slices := rfl
@[simp] theorem State.updArch_packets (s : State) (f : Arch → Arch) : (s.updArch f).packets = s.packets := rfl
@[simp] theorem State.updArch_guests (s : State) (f : Arch → Arch) : (s.updArch f).guests = s.guests := rfl
@[simp] theorem State.updArch_jobs (s : State) (f : Arch → Arch) : (s.updArch f).jobs = s.jobs := rfl
@[simp] theorem State.updArch_cmds (s : State) (f : Arch → Arch) : (s.updArch f).cmds = s.cmds := rfl
@[simp] theorem State.updArch_mtxq (s : State) (f : Arch → Arch) : (s.updArch f).mtxq = s.mtxq := rfl
@[simp] theorem State.updArch_launches (s : State) (f : Arch → Arch) : (s.updArch f).launches = s.launches := rfl
@[simp] theorem State.updArch_launchq (s : State) (f : Arch → Arch) : (s.updArch f).launchq = s.launchq := rfl
@[simp] theorem State.updArch_nextLid (s : State) (f : Arch → Arch) : (s.updArch f).nextLid = s.nextLid := rfl
@[simp] theorem State.updArch_gangs (s : State) (f : Arch → Arch) : (s.updArch f).gangs = s.gangs := rfl
@[simp] theorem State.updArch_pools (s : State) (f : Arch → Arch) : (s.updArch f).pools = s.pools := rfl
@[simp] theorem State.updArch_ctxs (s : State) (f : Arch → Arch) : (s.updArch f).ctxs = s.ctxs := rfl
@[simp] theorem State.updArch_ghome (s : State) (f : Arch → Arch) : (s.updArch f).ghome = s.ghome := rfl
@[simp] theorem State.updArch_quota (s : State) (f : Arch → Arch) : (s.updArch f).quota = s.quota := rfl
@[simp] theorem State.updArch_boot (s : State) (f : Arch → Arch) : (s.updArch f).boot = s.boot := rfl
@[simp] theorem State.updArch_slotid (s : State) (f : Arch → Arch) : (s.updArch f).slotid = s.slotid := rfl
@[simp] theorem State.updArch_recov (s : State) (f : Arch → Arch) : (s.updArch f).recov = s.recov := rfl
@[simp] theorem State.updArch_pwrgd (s : State) (f : Arch → Arch) : (s.updArch f).pwrgd = s.pwrgd := rfl
@[simp] theorem State.updArch_ident (s : State) (f : Arch → Arch) : (s.updArch f).ident = s.ident := rfl
@[simp] theorem State.updArch_therm (s : State) (f : Arch → Arch) : (s.updArch f).therm = s.therm := rfl
@[simp] theorem State.updArch_flash (s : State) (f : Arch → Arch) : (s.updArch f).flash = s.flash := rfl
@[simp] theorem State.updArch_table (s : State) (f : Arch → Arch) : (s.updArch f).table = s.table := rfl
@[simp] theorem State.updArch_roles (s : State) (f : Arch → Arch) : (s.updArch f).roles = s.roles := rfl
@[simp] theorem State.updArch_heartbeats (s : State) (f : Arch → Arch) : (s.updArch f).heartbeats = s.heartbeats := rfl
@[simp] theorem State.updArch_restarts (s : State) (f : Arch → Arch) : (s.updArch f).restarts = s.restarts := rfl
@[simp] theorem State.updArch_hashAt (s : State) (f : Arch → Arch) : (s.updArch f).hashAt = s.hashAt := rfl
@[simp] theorem State.updArch_columns (s : State) (f : Arch → Arch) : (s.updArch f).columns = s.columns := rfl
@[simp] theorem State.updArch_vectorCap (s : State) (f : Arch → Arch) : (s.updArch f).vectorCap = s.vectorCap := rfl
@[simp] theorem State.updArch_burinCap (s : State) (f : Arch → Arch) : (s.updArch f).burinCap = s.burinCap := rfl
@[simp] theorem State.updArch_held (s : State) (f : Arch → Arch) : (s.updArch f).held = s.held := rfl
@[simp] theorem State.updArch_temps (s : State) (f : Arch → Arch) : (s.updArch f).temps = s.temps := rfl
@[simp] theorem State.updArch_banks (s : State) (f : Arch → Arch) : (s.updArch f).banks = s.banks := rfl
@[simp] theorem State.updArch_lpct (s : State) (f : Arch → Arch) : (s.updArch f).lpct = s.lpct := rfl
@[simp] theorem State.updArch_parts (s : State) (f : Arch → Arch) : (s.updArch f).parts = s.parts := rfl
@[simp] theorem State.updArch_flagsum (s : State) (f : Arch → Arch) : (s.updArch f).flagsum = s.flagsum := rfl
@[simp] theorem State.updArch_secureCores (s : State) (f : Arch → Arch) : (s.updArch f).secureCores = s.secureCores := rfl
@[simp] theorem State.updArch_secureEngines (s : State) (f : Arch → Arch) : (s.updArch f).secureEngines = s.secureEngines := rfl
@[simp] theorem State.updArch_securePort (s : State) (f : Arch → Arch) : (s.updArch f).securePort = s.securePort := rfl
@[simp] theorem State.updArch_regions (s : State) (f : Arch → Arch) : (s.updArch f).regions = s.regions := rfl
@[simp] theorem State.updArch_errors (s : State) (f : Arch → Arch) : (s.updArch f).errors = s.errors := rfl
@[simp] theorem State.updArch_errorIndex (s : State) (f : Arch → Arch) : (s.updArch f).errorIndex = s.errorIndex := rfl
@[simp] theorem State.updArch_locations (s : State) (f : Arch → Arch) : (s.updArch f).locations = s.locations := rfl
@[simp] theorem State.updArch_corrected (s : State) (f : Arch → Arch) : (s.updArch f).corrected = s.corrected := rfl
@[simp] theorem State.updArch_serviceStops (s : State) (f : Arch → Arch) : (s.updArch f).serviceStops = s.serviceStops := rfl
@[simp] theorem State.updArch_lostWays (s : State) (f : Arch → Arch) : (s.updArch f).lostWays = s.lostWays := rfl
@[simp] theorem State.updArch_lostBanks (s : State) (f : Arch → Arch) : (s.updArch f).lostBanks = s.lostBanks := rfl
@[simp] theorem State.updArch_lostCores (s : State) (f : Arch → Arch) : (s.updArch f).lostCores = s.lostCores := rfl
@[simp] theorem State.updArch_lostUnits (s : State) (f : Arch → Arch) : (s.updArch f).lostUnits = s.lostUnits := rfl
@[simp] theorem State.updArch_routes (s : State) (f : Arch → Arch) : (s.updArch f).routes = s.routes := rfl
@[simp] theorem State.updArch_failedPorts (s : State) (f : Arch → Arch) : (s.updArch f).failedPorts = s.failedPorts := rfl
@[simp] theorem State.updArch_replays (s : State) (f : Arch → Arch) : (s.updArch f).replays = s.replays := rfl
@[simp] theorem State.updArch_sessions (s : State) (f : Arch → Arch) : (s.updArch f).sessions = s.sessions := rfl
@[simp] theorem State.updArch_managers (s : State) (f : Arch → Arch) : (s.updArch f).managers = s.managers := rfl
@[simp] theorem State.updArch_sentFrames (s : State) (f : Arch → Arch) : (s.updArch f).sentFrames = s.sentFrames := rfl
@[simp] theorem State.updArch_queues (s : State) (f : Arch → Arch) : (s.updArch f).queues = s.queues := rfl
@[simp] theorem State.updArch_cpAt (s : State) (f : Arch → Arch) : (s.updArch f).cpAt = s.cpAt := rfl
@[simp] theorem State.updArch_podTable (s : State) (f : Arch → Arch) : (s.updArch f).podTable = s.podTable := rfl
@[simp] theorem State.updArch_podIn (s : State) (f : Arch → Arch) : (s.updArch f).podIn = s.podIn := rfl
@[simp] theorem State.updArch_podOut (s : State) (f : Arch → Arch) : (s.updArch f).podOut = s.podOut := rfl
@[simp] theorem State.updArch_podStops (s : State) (f : Arch → Arch) : (s.updArch f).podStops = s.podStops := rfl
@[simp] theorem State.updArch_registering (s : State) (f : Arch → Arch) : (s.updArch f).registering = s.registering := rfl
@[simp] theorem State.updArch_opening (s : State) (f : Arch → Arch) : (s.updArch f).opening = s.opening := rfl
@[simp] theorem State.updArch_signing (s : State) (f : Arch → Arch) : (s.updArch f).signing = s.signing := rfl
@[simp] theorem State.updArch_waiting (s : State) (f : Arch → Arch) : (s.updArch f).waiting = s.waiting := rfl
@[simp] theorem State.updArch_portWork (s : State) (f : Arch → Arch) : (s.updArch f).portWork = s.portWork := rfl
@[simp] theorem State.updArch_hostCtx (s : State) (f : Arch → Arch) : (s.updArch f).hostCtx = s.hostCtx := rfl
@[simp] theorem State.updArch_launchSeq (s : State) (f : Arch → Arch) : (s.updArch f).launchSeq = s.launchSeq := rfl
@[simp] theorem State.updArch_finals (s : State) (f : Arch → Arch) : (s.updArch f).finals = s.finals := rfl

@[simp] theorem State.push_agenda (s : State) (i : Instr) : (s.push i).agenda = s.agenda := rfl
@[simp] theorem State.push_beat (s : State) (i : Instr) : (s.push i).beat = s.beat := rfl
@[simp] theorem State.push_draws (s : State) (i : Instr) : (s.push i).draws = s.draws := rfl
@[simp] theorem State.push_serial (s : State) (i : Instr) : (s.push i).serial = s.serial := rfl
@[simp] theorem State.push_cur (s : State) (i : Instr) : (s.push i).cur = s.cur := rfl
@[simp] theorem State.push_now (s : State) (i : Instr) : (s.push i).now = s.now := rfl
@[simp] theorem State.push_cycStart (s : State) (i : Instr) : (s.push i).cycStart = s.cycStart := rfl
@[simp] theorem State.push_cores (s : State) (i : Instr) : (s.push i).cores = s.cores := rfl
@[simp] theorem State.push_mem (s : State) (i : Instr) : (s.push i).mem = s.mem := rfl
@[simp] theorem State.push_tags (s : State) (i : Instr) : (s.push i).tags = s.tags := rfl
@[simp] theorem State.push_full (s : State) (i : Instr) : (s.push i).full = s.full := rfl
@[simp] theorem State.push_bad (s : State) (i : Instr) : (s.push i).bad = s.bad := rfl
@[simp] theorem State.push_parked (s : State) (i : Instr) : (s.push i).parked = s.parked := rfl
@[simp] theorem State.push_ops (s : State) (i : Instr) : (s.push i).ops = s.ops := rfl
@[simp] theorem State.push_guards (s : State) (i : Instr) : (s.push i).guards = s.guards := rfl
@[simp] theorem State.push_tlbL1 (s : State) (i : Instr) : (s.push i).tlbL1 = s.tlbL1 := rfl
@[simp] theorem State.push_tlbNode (s : State) (i : Instr) : (s.push i).tlbNode = s.tlbNode := rfl
@[simp] theorem State.push_tlbPlate (s : State) (i : Instr) : (s.push i).tlbPlate = s.tlbPlate := rfl
@[simp] theorem State.push_walks (s : State) (i : Instr) : (s.push i).walks = s.walks := rfl
@[simp] theorem State.push_walkFaults (s : State) (i : Instr) : (s.push i).walkFaults = s.walkFaults := rfl
@[simp] theorem State.push_iLines (s : State) (i : Instr) : (s.push i).iLines = s.iLines := rfl
@[simp] theorem State.push_dLines (s : State) (i : Instr) : (s.push i).dLines = s.dLines := rfl
@[simp] theorem State.push_slices (s : State) (i : Instr) : (s.push i).slices = s.slices := rfl
@[simp] theorem State.push_packets (s : State) (i : Instr) : (s.push i).packets = s.packets := rfl
@[simp] theorem State.push_guests (s : State) (i : Instr) : (s.push i).guests = s.guests := rfl
@[simp] theorem State.push_jobs (s : State) (i : Instr) : (s.push i).jobs = s.jobs := rfl
@[simp] theorem State.push_cmds (s : State) (i : Instr) : (s.push i).cmds = s.cmds := rfl
@[simp] theorem State.push_mtxq (s : State) (i : Instr) : (s.push i).mtxq = s.mtxq := rfl
@[simp] theorem State.push_launches (s : State) (i : Instr) : (s.push i).launches = s.launches := rfl
@[simp] theorem State.push_launchq (s : State) (i : Instr) : (s.push i).launchq = s.launchq := rfl
@[simp] theorem State.push_nextLid (s : State) (i : Instr) : (s.push i).nextLid = s.nextLid := rfl
@[simp] theorem State.push_gangs (s : State) (i : Instr) : (s.push i).gangs = s.gangs := rfl
@[simp] theorem State.push_pools (s : State) (i : Instr) : (s.push i).pools = s.pools := rfl
@[simp] theorem State.push_ctxs (s : State) (i : Instr) : (s.push i).ctxs = s.ctxs := rfl
@[simp] theorem State.push_ghome (s : State) (i : Instr) : (s.push i).ghome = s.ghome := rfl
@[simp] theorem State.push_quota (s : State) (i : Instr) : (s.push i).quota = s.quota := rfl
@[simp] theorem State.push_boot (s : State) (i : Instr) : (s.push i).boot = s.boot := rfl
@[simp] theorem State.push_slotid (s : State) (i : Instr) : (s.push i).slotid = s.slotid := rfl
@[simp] theorem State.push_recov (s : State) (i : Instr) : (s.push i).recov = s.recov := rfl
@[simp] theorem State.push_pwrgd (s : State) (i : Instr) : (s.push i).pwrgd = s.pwrgd := rfl
@[simp] theorem State.push_ident (s : State) (i : Instr) : (s.push i).ident = s.ident := rfl
@[simp] theorem State.push_therm (s : State) (i : Instr) : (s.push i).therm = s.therm := rfl
@[simp] theorem State.push_flash (s : State) (i : Instr) : (s.push i).flash = s.flash := rfl
@[simp] theorem State.push_table (s : State) (i : Instr) : (s.push i).table = s.table := rfl
@[simp] theorem State.push_roles (s : State) (i : Instr) : (s.push i).roles = s.roles := rfl
@[simp] theorem State.push_heartbeats (s : State) (i : Instr) : (s.push i).heartbeats = s.heartbeats := rfl
@[simp] theorem State.push_restarts (s : State) (i : Instr) : (s.push i).restarts = s.restarts := rfl
@[simp] theorem State.push_hashAt (s : State) (i : Instr) : (s.push i).hashAt = s.hashAt := rfl
@[simp] theorem State.push_columns (s : State) (i : Instr) : (s.push i).columns = s.columns := rfl
@[simp] theorem State.push_vectorCap (s : State) (i : Instr) : (s.push i).vectorCap = s.vectorCap := rfl
@[simp] theorem State.push_burinCap (s : State) (i : Instr) : (s.push i).burinCap = s.burinCap := rfl
@[simp] theorem State.push_held (s : State) (i : Instr) : (s.push i).held = s.held := rfl
@[simp] theorem State.push_temps (s : State) (i : Instr) : (s.push i).temps = s.temps := rfl
@[simp] theorem State.push_banks (s : State) (i : Instr) : (s.push i).banks = s.banks := rfl
@[simp] theorem State.push_lpct (s : State) (i : Instr) : (s.push i).lpct = s.lpct := rfl
@[simp] theorem State.push_parts (s : State) (i : Instr) : (s.push i).parts = s.parts := rfl
@[simp] theorem State.push_flagsum (s : State) (i : Instr) : (s.push i).flagsum = s.flagsum := rfl
@[simp] theorem State.push_secureCores (s : State) (i : Instr) : (s.push i).secureCores = s.secureCores := rfl
@[simp] theorem State.push_secureEngines (s : State) (i : Instr) : (s.push i).secureEngines = s.secureEngines := rfl
@[simp] theorem State.push_securePort (s : State) (i : Instr) : (s.push i).securePort = s.securePort := rfl
@[simp] theorem State.push_regions (s : State) (i : Instr) : (s.push i).regions = s.regions := rfl
@[simp] theorem State.push_errors (s : State) (i : Instr) : (s.push i).errors = s.errors := rfl
@[simp] theorem State.push_errorIndex (s : State) (i : Instr) : (s.push i).errorIndex = s.errorIndex := rfl
@[simp] theorem State.push_locations (s : State) (i : Instr) : (s.push i).locations = s.locations := rfl
@[simp] theorem State.push_corrected (s : State) (i : Instr) : (s.push i).corrected = s.corrected := rfl
@[simp] theorem State.push_serviceStops (s : State) (i : Instr) : (s.push i).serviceStops = s.serviceStops := rfl
@[simp] theorem State.push_lostWays (s : State) (i : Instr) : (s.push i).lostWays = s.lostWays := rfl
@[simp] theorem State.push_lostBanks (s : State) (i : Instr) : (s.push i).lostBanks = s.lostBanks := rfl
@[simp] theorem State.push_lostCores (s : State) (i : Instr) : (s.push i).lostCores = s.lostCores := rfl
@[simp] theorem State.push_lostUnits (s : State) (i : Instr) : (s.push i).lostUnits = s.lostUnits := rfl
@[simp] theorem State.push_routes (s : State) (i : Instr) : (s.push i).routes = s.routes := rfl
@[simp] theorem State.push_failedPorts (s : State) (i : Instr) : (s.push i).failedPorts = s.failedPorts := rfl
@[simp] theorem State.push_replays (s : State) (i : Instr) : (s.push i).replays = s.replays := rfl
@[simp] theorem State.push_sessions (s : State) (i : Instr) : (s.push i).sessions = s.sessions := rfl
@[simp] theorem State.push_managers (s : State) (i : Instr) : (s.push i).managers = s.managers := rfl
@[simp] theorem State.push_sentFrames (s : State) (i : Instr) : (s.push i).sentFrames = s.sentFrames := rfl
@[simp] theorem State.push_queues (s : State) (i : Instr) : (s.push i).queues = s.queues := rfl
@[simp] theorem State.push_cpAt (s : State) (i : Instr) : (s.push i).cpAt = s.cpAt := rfl
@[simp] theorem State.push_podTable (s : State) (i : Instr) : (s.push i).podTable = s.podTable := rfl
@[simp] theorem State.push_podIn (s : State) (i : Instr) : (s.push i).podIn = s.podIn := rfl
@[simp] theorem State.push_podOut (s : State) (i : Instr) : (s.push i).podOut = s.podOut := rfl
@[simp] theorem State.push_podStops (s : State) (i : Instr) : (s.push i).podStops = s.podStops := rfl
@[simp] theorem State.push_registering (s : State) (i : Instr) : (s.push i).registering = s.registering := rfl
@[simp] theorem State.push_opening (s : State) (i : Instr) : (s.push i).opening = s.opening := rfl
@[simp] theorem State.push_signing (s : State) (i : Instr) : (s.push i).signing = s.signing := rfl
@[simp] theorem State.push_waiting (s : State) (i : Instr) : (s.push i).waiting = s.waiting := rfl
@[simp] theorem State.push_portWork (s : State) (i : Instr) : (s.push i).portWork = s.portWork := rfl
@[simp] theorem State.push_hostCtx (s : State) (i : Instr) : (s.push i).hostCtx = s.hostCtx := rfl
@[simp] theorem State.push_launchSeq (s : State) (i : Instr) : (s.push i).launchSeq = s.launchSeq := rfl
@[simp] theorem State.push_finals (s : State) (i : Instr) : (s.push i).finals = s.finals := rfl

@[simp] theorem State.did_agenda (s : State) (i : Instr) : (s.did i).agenda = s.agenda := rfl
@[simp] theorem State.did_beat (s : State) (i : Instr) : (s.did i).beat = s.beat := rfl
@[simp] theorem State.did_draws (s : State) (i : Instr) : (s.did i).draws = s.draws := rfl
@[simp] theorem State.did_serial (s : State) (i : Instr) : (s.did i).serial = s.serial := rfl
@[simp] theorem State.did_cur (s : State) (i : Instr) : (s.did i).cur = s.cur := rfl
@[simp] theorem State.did_now (s : State) (i : Instr) : (s.did i).now = s.now := rfl
@[simp] theorem State.did_cycStart (s : State) (i : Instr) : (s.did i).cycStart = s.cycStart := rfl
@[simp] theorem State.did_cores (s : State) (i : Instr) : (s.did i).cores = s.cores := rfl
@[simp] theorem State.did_mem (s : State) (i : Instr) : (s.did i).mem = s.mem := rfl
@[simp] theorem State.did_tags (s : State) (i : Instr) : (s.did i).tags = s.tags := rfl
@[simp] theorem State.did_full (s : State) (i : Instr) : (s.did i).full = s.full := rfl
@[simp] theorem State.did_bad (s : State) (i : Instr) : (s.did i).bad = s.bad := rfl
@[simp] theorem State.did_parked (s : State) (i : Instr) : (s.did i).parked = s.parked := rfl
@[simp] theorem State.did_ops (s : State) (i : Instr) : (s.did i).ops = s.ops := rfl
@[simp] theorem State.did_guards (s : State) (i : Instr) : (s.did i).guards = s.guards := rfl
@[simp] theorem State.did_tlbL1 (s : State) (i : Instr) : (s.did i).tlbL1 = s.tlbL1 := rfl
@[simp] theorem State.did_tlbNode (s : State) (i : Instr) : (s.did i).tlbNode = s.tlbNode := rfl
@[simp] theorem State.did_tlbPlate (s : State) (i : Instr) : (s.did i).tlbPlate = s.tlbPlate := rfl
@[simp] theorem State.did_walks (s : State) (i : Instr) : (s.did i).walks = s.walks := rfl
@[simp] theorem State.did_walkFaults (s : State) (i : Instr) : (s.did i).walkFaults = s.walkFaults := rfl
@[simp] theorem State.did_iLines (s : State) (i : Instr) : (s.did i).iLines = s.iLines := rfl
@[simp] theorem State.did_dLines (s : State) (i : Instr) : (s.did i).dLines = s.dLines := rfl
@[simp] theorem State.did_slices (s : State) (i : Instr) : (s.did i).slices = s.slices := rfl
@[simp] theorem State.did_packets (s : State) (i : Instr) : (s.did i).packets = s.packets := rfl
@[simp] theorem State.did_guests (s : State) (i : Instr) : (s.did i).guests = s.guests := rfl
@[simp] theorem State.did_jobs (s : State) (i : Instr) : (s.did i).jobs = s.jobs := rfl
@[simp] theorem State.did_cmds (s : State) (i : Instr) : (s.did i).cmds = s.cmds := rfl
@[simp] theorem State.did_mtxq (s : State) (i : Instr) : (s.did i).mtxq = s.mtxq := rfl
@[simp] theorem State.did_launches (s : State) (i : Instr) : (s.did i).launches = s.launches := rfl
@[simp] theorem State.did_launchq (s : State) (i : Instr) : (s.did i).launchq = s.launchq := rfl
@[simp] theorem State.did_nextLid (s : State) (i : Instr) : (s.did i).nextLid = s.nextLid := rfl
@[simp] theorem State.did_gangs (s : State) (i : Instr) : (s.did i).gangs = s.gangs := rfl
@[simp] theorem State.did_pools (s : State) (i : Instr) : (s.did i).pools = s.pools := rfl
@[simp] theorem State.did_ctxs (s : State) (i : Instr) : (s.did i).ctxs = s.ctxs := rfl
@[simp] theorem State.did_ghome (s : State) (i : Instr) : (s.did i).ghome = s.ghome := rfl
@[simp] theorem State.did_quota (s : State) (i : Instr) : (s.did i).quota = s.quota := rfl
@[simp] theorem State.did_boot (s : State) (i : Instr) : (s.did i).boot = s.boot := rfl
@[simp] theorem State.did_slotid (s : State) (i : Instr) : (s.did i).slotid = s.slotid := rfl
@[simp] theorem State.did_recov (s : State) (i : Instr) : (s.did i).recov = s.recov := rfl
@[simp] theorem State.did_pwrgd (s : State) (i : Instr) : (s.did i).pwrgd = s.pwrgd := rfl
@[simp] theorem State.did_ident (s : State) (i : Instr) : (s.did i).ident = s.ident := rfl
@[simp] theorem State.did_therm (s : State) (i : Instr) : (s.did i).therm = s.therm := rfl
@[simp] theorem State.did_flash (s : State) (i : Instr) : (s.did i).flash = s.flash := rfl
@[simp] theorem State.did_table (s : State) (i : Instr) : (s.did i).table = s.table := rfl
@[simp] theorem State.did_roles (s : State) (i : Instr) : (s.did i).roles = s.roles := rfl
@[simp] theorem State.did_heartbeats (s : State) (i : Instr) : (s.did i).heartbeats = s.heartbeats := rfl
@[simp] theorem State.did_restarts (s : State) (i : Instr) : (s.did i).restarts = s.restarts := rfl
@[simp] theorem State.did_hashAt (s : State) (i : Instr) : (s.did i).hashAt = s.hashAt := rfl
@[simp] theorem State.did_columns (s : State) (i : Instr) : (s.did i).columns = s.columns := rfl
@[simp] theorem State.did_vectorCap (s : State) (i : Instr) : (s.did i).vectorCap = s.vectorCap := rfl
@[simp] theorem State.did_burinCap (s : State) (i : Instr) : (s.did i).burinCap = s.burinCap := rfl
@[simp] theorem State.did_held (s : State) (i : Instr) : (s.did i).held = s.held := rfl
@[simp] theorem State.did_temps (s : State) (i : Instr) : (s.did i).temps = s.temps := rfl
@[simp] theorem State.did_banks (s : State) (i : Instr) : (s.did i).banks = s.banks := rfl
@[simp] theorem State.did_lpct (s : State) (i : Instr) : (s.did i).lpct = s.lpct := rfl
@[simp] theorem State.did_parts (s : State) (i : Instr) : (s.did i).parts = s.parts := rfl
@[simp] theorem State.did_flagsum (s : State) (i : Instr) : (s.did i).flagsum = s.flagsum := rfl
@[simp] theorem State.did_secureCores (s : State) (i : Instr) : (s.did i).secureCores = s.secureCores := rfl
@[simp] theorem State.did_secureEngines (s : State) (i : Instr) : (s.did i).secureEngines = s.secureEngines := rfl
@[simp] theorem State.did_securePort (s : State) (i : Instr) : (s.did i).securePort = s.securePort := rfl
@[simp] theorem State.did_regions (s : State) (i : Instr) : (s.did i).regions = s.regions := rfl
@[simp] theorem State.did_errors (s : State) (i : Instr) : (s.did i).errors = s.errors := rfl
@[simp] theorem State.did_errorIndex (s : State) (i : Instr) : (s.did i).errorIndex = s.errorIndex := rfl
@[simp] theorem State.did_locations (s : State) (i : Instr) : (s.did i).locations = s.locations := rfl
@[simp] theorem State.did_corrected (s : State) (i : Instr) : (s.did i).corrected = s.corrected := rfl
@[simp] theorem State.did_serviceStops (s : State) (i : Instr) : (s.did i).serviceStops = s.serviceStops := rfl
@[simp] theorem State.did_lostWays (s : State) (i : Instr) : (s.did i).lostWays = s.lostWays := rfl
@[simp] theorem State.did_lostBanks (s : State) (i : Instr) : (s.did i).lostBanks = s.lostBanks := rfl
@[simp] theorem State.did_lostCores (s : State) (i : Instr) : (s.did i).lostCores = s.lostCores := rfl
@[simp] theorem State.did_lostUnits (s : State) (i : Instr) : (s.did i).lostUnits = s.lostUnits := rfl
@[simp] theorem State.did_routes (s : State) (i : Instr) : (s.did i).routes = s.routes := rfl
@[simp] theorem State.did_failedPorts (s : State) (i : Instr) : (s.did i).failedPorts = s.failedPorts := rfl
@[simp] theorem State.did_replays (s : State) (i : Instr) : (s.did i).replays = s.replays := rfl
@[simp] theorem State.did_sessions (s : State) (i : Instr) : (s.did i).sessions = s.sessions := rfl
@[simp] theorem State.did_managers (s : State) (i : Instr) : (s.did i).managers = s.managers := rfl
@[simp] theorem State.did_sentFrames (s : State) (i : Instr) : (s.did i).sentFrames = s.sentFrames := rfl
@[simp] theorem State.did_queues (s : State) (i : Instr) : (s.did i).queues = s.queues := rfl
@[simp] theorem State.did_cpAt (s : State) (i : Instr) : (s.did i).cpAt = s.cpAt := rfl
@[simp] theorem State.did_podTable (s : State) (i : Instr) : (s.did i).podTable = s.podTable := rfl
@[simp] theorem State.did_podIn (s : State) (i : Instr) : (s.did i).podIn = s.podIn := rfl
@[simp] theorem State.did_podOut (s : State) (i : Instr) : (s.did i).podOut = s.podOut := rfl
@[simp] theorem State.did_podStops (s : State) (i : Instr) : (s.did i).podStops = s.podStops := rfl
@[simp] theorem State.did_registering (s : State) (i : Instr) : (s.did i).registering = s.registering := rfl
@[simp] theorem State.did_opening (s : State) (i : Instr) : (s.did i).opening = s.opening := rfl
@[simp] theorem State.did_signing (s : State) (i : Instr) : (s.did i).signing = s.signing := rfl
@[simp] theorem State.did_waiting (s : State) (i : Instr) : (s.did i).waiting = s.waiting := rfl
@[simp] theorem State.did_portWork (s : State) (i : Instr) : (s.did i).portWork = s.portWork := rfl
@[simp] theorem State.did_hostCtx (s : State) (i : Instr) : (s.did i).hostCtx = s.hostCtx := rfl
@[simp] theorem State.did_launchSeq (s : State) (i : Instr) : (s.did i).launchSeq = s.launchSeq := rfl
@[simp] theorem State.did_finals (s : State) (i : Instr) : (s.did i).finals = s.finals := rfl

/-! ## Fields that an operation on a slot leaves as they were -/

@[simp] theorem Slot.advanced_phase (x : Slot) : (x.advanced).phase = x.phase := rfl
@[simp] theorem Slot.advanced_uid (x : Slot) : (x.advanced).uid = x.uid := rfl
@[simp] theorem Slot.advanced_tpc (x : Slot) : (x.advanced).tpc = x.tpc := rfl
@[simp] theorem Slot.advanced_tcause (x : Slot) : (x.advanced).tcause = x.tcause := rfl
@[simp] theorem Slot.advanced_tval (x : Slot) : (x.advanced).tval = x.tval := rfl
@[simp] theorem Slot.advanced_twin (x : Slot) : (x.advanced).twin = x.twin := rfl
@[simp] theorem Slot.advanced_shadowV2 (x : Slot) : (x.advanced).shadowV2 = x.shadowV2 := rfl
@[simp] theorem Slot.advanced_shadowCode (x : Slot) : (x.advanced).shadowCode = x.shadowCode := rfl
@[simp] theorem Slot.advanced_shadowTag (x : Slot) : (x.advanced).shadowTag = x.shadowTag := rfl
@[simp] theorem Slot.advanced_shadowPc (x : Slot) : (x.advanced).shadowPc = x.shadowPc := rfl
@[simp] theorem Slot.advanced_tcoord (x : Slot) : (x.advanced).tcoord = x.tcoord := rfl
@[simp] theorem Slot.advanced_gang (x : Slot) : (x.advanced).gang = x.gang := rfl
@[simp] theorem Slot.advanced_ctxid (x : Slot) : (x.advanced).ctxid = x.ctxid := rfl
@[simp] theorem Slot.advanced_heat (x : Slot) : (x.advanced).heat = x.heat := rfl
@[simp] theorem Slot.advanced_ldc (x : Slot) : (x.advanced).ldc = x.ldc := rfl
@[simp] theorem Slot.advanced_stc (x : Slot) : (x.advanced).stc = x.stc := rfl
@[simp] theorem Slot.advanced_cpc (x : Slot) : (x.advanced).cpc = x.cpc := rfl
@[simp] theorem Slot.advanced_mxc (x : Slot) : (x.advanced).mxc = x.mxc := rfl
@[simp] theorem Slot.advanced_ports (x : Slot) : (x.advanced).ports = x.ports := rfl
@[simp] theorem Slot.advanced_eregs (x : Slot) : (x.advanced).eregs = x.eregs := rfl
@[simp] theorem Slot.advanced_notes (x : Slot) : (x.advanced).notes = x.notes := rfl
@[simp] theorem Slot.advanced_board (x : Slot) : (x.advanced).board = x.board := rfl
@[simp] theorem Slot.advanced_ship (x : Slot) : (x.advanced).ship = x.ship := rfl
@[simp] theorem Slot.advanced_checking (x : Slot) : (x.advanced).checking = x.checking := rfl
@[simp] theorem Slot.advanced_fences (x : Slot) : (x.advanced).fences = x.fences := rfl
@[simp] theorem Slot.advanced_barred (x : Slot) : (x.advanced).barred = x.barred := rfl
@[simp] theorem Slot.advanced_launch (x : Slot) : (x.advanced).launch = x.launch := rfl
@[simp] theorem Slot.advanced_gangId (x : Slot) : (x.advanced).gangId = x.gangId := rfl
@[simp] theorem Slot.advanced_gti (x : Slot) : (x.advanced).gti = x.gti := rfl
@[simp] theorem Slot.advanced_lid (x : Slot) : (x.advanced).lid = x.lid := rfl
@[simp] theorem Slot.advanced_part (x : Slot) : (x.advanced).part = x.part := rfl
@[simp] theorem Slot.advanced_wait (x : Slot) : (x.advanced).wait = x.wait := rfl
@[simp] theorem Slot.advanced_stalledAt (x : Slot) : (x.advanced).stalledAt = x.stalledAt := rfl
@[simp] theorem Slot.advanced_readyAt (x : Slot) : (x.advanced).readyAt = x.readyAt := rfl
@[simp] theorem Slot.advanced_halted (x : Slot) : (x.advanced).halted = x.halted := rfl
@[simp] theorem Slot.advanced_dataError (x : Slot) : (x.advanced).dataError = x.dataError := rfl
@[simp] theorem Slot.advanced_badRegs (x : Slot) : (x.advanced).badRegs = x.badRegs := rfl

@[simp] theorem Slot.counted_phase (x : Slot) (p : List (Nat × PortEntry)) : (x.counted p).phase = x.phase := rfl
@[simp] theorem Slot.counted_uid (x : Slot) (p : List (Nat × PortEntry)) : (x.counted p).uid = x.uid := rfl
@[simp] theorem Slot.counted_arch (x : Slot) (p : List (Nat × PortEntry)) : (x.counted p).arch = x.arch := rfl
@[simp] theorem Slot.counted_tpc (x : Slot) (p : List (Nat × PortEntry)) : (x.counted p).tpc = x.tpc := rfl
@[simp] theorem Slot.counted_tcause (x : Slot) (p : List (Nat × PortEntry)) : (x.counted p).tcause = x.tcause := rfl
@[simp] theorem Slot.counted_tval (x : Slot) (p : List (Nat × PortEntry)) : (x.counted p).tval = x.tval := rfl
@[simp] theorem Slot.counted_twin (x : Slot) (p : List (Nat × PortEntry)) : (x.counted p).twin = x.twin := rfl
@[simp] theorem Slot.counted_shadowV2 (x : Slot) (p : List (Nat × PortEntry)) : (x.counted p).shadowV2 = x.shadowV2 := rfl
@[simp] theorem Slot.counted_shadowCode (x : Slot) (p : List (Nat × PortEntry)) : (x.counted p).shadowCode = x.shadowCode := rfl
@[simp] theorem Slot.counted_shadowTag (x : Slot) (p : List (Nat × PortEntry)) : (x.counted p).shadowTag = x.shadowTag := rfl
@[simp] theorem Slot.counted_shadowPc (x : Slot) (p : List (Nat × PortEntry)) : (x.counted p).shadowPc = x.shadowPc := rfl
@[simp] theorem Slot.counted_tcoord (x : Slot) (p : List (Nat × PortEntry)) : (x.counted p).tcoord = x.tcoord := rfl
@[simp] theorem Slot.counted_gang (x : Slot) (p : List (Nat × PortEntry)) : (x.counted p).gang = x.gang := rfl
@[simp] theorem Slot.counted_ctxid (x : Slot) (p : List (Nat × PortEntry)) : (x.counted p).ctxid = x.ctxid := rfl
@[simp] theorem Slot.counted_heat (x : Slot) (p : List (Nat × PortEntry)) : (x.counted p).heat = x.heat := rfl
@[simp] theorem Slot.counted_ldc (x : Slot) (p : List (Nat × PortEntry)) : (x.counted p).ldc = x.ldc := rfl
@[simp] theorem Slot.counted_stc (x : Slot) (p : List (Nat × PortEntry)) : (x.counted p).stc = x.stc := rfl
@[simp] theorem Slot.counted_cpc (x : Slot) (p : List (Nat × PortEntry)) : (x.counted p).cpc = x.cpc := rfl
@[simp] theorem Slot.counted_mxc (x : Slot) (p : List (Nat × PortEntry)) : (x.counted p).mxc = x.mxc := rfl
@[simp] theorem Slot.counted_ports (x : Slot) (p : List (Nat × PortEntry)) : (x.counted p).ports = x.ports := rfl
@[simp] theorem Slot.counted_eregs (x : Slot) (p : List (Nat × PortEntry)) : (x.counted p).eregs = x.eregs := rfl
@[simp] theorem Slot.counted_notes (x : Slot) (p : List (Nat × PortEntry)) : (x.counted p).notes = x.notes := rfl
@[simp] theorem Slot.counted_board (x : Slot) (p : List (Nat × PortEntry)) : (x.counted p).board = x.board := rfl
@[simp] theorem Slot.counted_checking (x : Slot) (p : List (Nat × PortEntry)) : (x.counted p).checking = x.checking := rfl
@[simp] theorem Slot.counted_fences (x : Slot) (p : List (Nat × PortEntry)) : (x.counted p).fences = x.fences := rfl
@[simp] theorem Slot.counted_barred (x : Slot) (p : List (Nat × PortEntry)) : (x.counted p).barred = x.barred := rfl
@[simp] theorem Slot.counted_launch (x : Slot) (p : List (Nat × PortEntry)) : (x.counted p).launch = x.launch := rfl
@[simp] theorem Slot.counted_gangId (x : Slot) (p : List (Nat × PortEntry)) : (x.counted p).gangId = x.gangId := rfl
@[simp] theorem Slot.counted_gti (x : Slot) (p : List (Nat × PortEntry)) : (x.counted p).gti = x.gti := rfl
@[simp] theorem Slot.counted_lid (x : Slot) (p : List (Nat × PortEntry)) : (x.counted p).lid = x.lid := rfl
@[simp] theorem Slot.counted_part (x : Slot) (p : List (Nat × PortEntry)) : (x.counted p).part = x.part := rfl
@[simp] theorem Slot.counted_stalledAt (x : Slot) (p : List (Nat × PortEntry)) : (x.counted p).stalledAt = x.stalledAt := rfl
@[simp] theorem Slot.counted_readyAt (x : Slot) (p : List (Nat × PortEntry)) : (x.counted p).readyAt = x.readyAt := rfl
@[simp] theorem Slot.counted_halted (x : Slot) (p : List (Nat × PortEntry)) : (x.counted p).halted = x.halted := rfl
@[simp] theorem Slot.counted_dataError (x : Slot) (p : List (Nat × PortEntry)) : (x.counted p).dataError = x.dataError := rfl
@[simp] theorem Slot.counted_badRegs (x : Slot) (p : List (Nat × PortEntry)) : (x.counted p).badRegs = x.badRegs := rfl

/-! ## Fields that an operation on the registers leaves as they were -/

@[simp] theorem Arch.setPc_regs (x0 : Arch) (y : Word) : (x0.setPc y).regs = x0.regs := rfl
@[simp] theorem Arch.setPc_preds (x0 : Arch) (y : Word) : (x0.setPc y).preds = x0.preds := rfl
@[simp] theorem Arch.setPc_sr (x0 : Arch) (y : Word) : (x0.setPc y).sr = x0.sr := rfl
@[simp] theorem Arch.setPc_code (x0 : Arch) (y : Word) : (x0.setPc y).code = x0.code := rfl
@[simp] theorem Arch.setPc_codeTag (x0 : Arch) (y : Word) : (x0.setPc y).codeTag = x0.codeTag := rfl
@[simp] theorem Arch.setPc_pfx (x0 : Arch) (y : Word) : (x0.setPc y).pfx = x0.pfx := rfl
@[simp] theorem Arch.setPp_regs (x0 : Arch) (b : Bool) : (x0.setPp b).regs = x0.regs := rfl
@[simp] theorem Arch.setPp_preds (x0 : Arch) (b : Bool) : (x0.setPp b).preds = x0.preds := rfl
@[simp] theorem Arch.setPp_code (x0 : Arch) (b : Bool) : (x0.setPp b).code = x0.code := rfl
@[simp] theorem Arch.setPp_codeTag (x0 : Arch) (b : Bool) : (x0.setPp b).codeTag = x0.codeTag := rfl
@[simp] theorem Arch.setPp_pc (x0 : Arch) (b : Bool) : (x0.setPp b).pc = x0.pc := rfl
@[simp] theorem Arch.setPp_pfx (x0 : Arch) (b : Bool) : (x0.setPp b).pfx = x0.pfx := rfl
@[simp] theorem Arch.setMode_regs (x0 : Arch) (u t : Bool) : (x0.setMode u t).regs = x0.regs := rfl
@[simp] theorem Arch.setMode_preds (x0 : Arch) (u t : Bool) : (x0.setMode u t).preds = x0.preds := rfl
@[simp] theorem Arch.setMode_code (x0 : Arch) (u t : Bool) : (x0.setMode u t).code = x0.code := rfl
@[simp] theorem Arch.setMode_codeTag (x0 : Arch) (u t : Bool) : (x0.setMode u t).codeTag = x0.codeTag := rfl
@[simp] theorem Arch.setMode_pc (x0 : Arch) (u t : Bool) : (x0.setMode u t).pc = x0.pc := rfl
@[simp] theorem Arch.setMode_pfx (x0 : Arch) (u t : Bool) : (x0.setMode u t).pfx = x0.pfx := rfl
@[simp] theorem Arch.raise_regs (x0 : Arch) (f : Flags) : (x0.raise f).regs = x0.regs := rfl
@[simp] theorem Arch.raise_preds (x0 : Arch) (f : Flags) : (x0.raise f).preds = x0.preds := rfl
@[simp] theorem Arch.raise_code (x0 : Arch) (f : Flags) : (x0.raise f).code = x0.code := rfl
@[simp] theorem Arch.raise_codeTag (x0 : Arch) (f : Flags) : (x0.raise f).codeTag = x0.codeTag := rfl
@[simp] theorem Arch.raise_pc (x0 : Arch) (f : Flags) : (x0.raise f).pc = x0.pc := rfl
@[simp] theorem Arch.raise_pfx (x0 : Arch) (f : Flags) : (x0.raise f).pfx = x0.pfx := rfl
@[simp] theorem Arch.dropPfx_regs (x0 : Arch) : (x0.dropPfx).regs = x0.regs := rfl
@[simp] theorem Arch.dropPfx_preds (x0 : Arch) : (x0.dropPfx).preds = x0.preds := rfl
@[simp] theorem Arch.dropPfx_code (x0 : Arch) : (x0.dropPfx).code = x0.code := rfl
@[simp] theorem Arch.dropPfx_codeTag (x0 : Arch) : (x0.dropPfx).codeTag = x0.codeTag := rfl
@[simp] theorem Arch.dropPfx_pc (x0 : Arch) : (x0.dropPfx).pc = x0.pc := rfl
@[simp] theorem Arch.setReg_preds (a : Arch) (n : Nat) (r : Reg) : (a.setReg n r).preds = a.preds := by unfold Arch.setReg; split <;> rfl
@[simp] theorem Arch.setReg_sr (a : Arch) (n : Nat) (r : Reg) : (a.setReg n r).sr = a.sr := by unfold Arch.setReg; split <;> rfl
@[simp] theorem Arch.setReg_code (a : Arch) (n : Nat) (r : Reg) : (a.setReg n r).code = a.code := by unfold Arch.setReg; split <;> rfl
@[simp] theorem Arch.setReg_codeTag (a : Arch) (n : Nat) (r : Reg) : (a.setReg n r).codeTag = a.codeTag := by unfold Arch.setReg; split <;> rfl
@[simp] theorem Arch.setReg_pc (a : Arch) (n : Nat) (r : Reg) : (a.setReg n r).pc = a.pc := by unfold Arch.setReg; split <;> rfl
@[simp] theorem Arch.setReg_pfx (a : Arch) (n : Nat) (r : Reg) : (a.setReg n r).pfx = a.pfx := by unfold Arch.setReg; split <;> rfl
@[simp] theorem Arch.setVec_preds (a : Arch) (n : Nat) (v : Vec) : (a.setVec n v).preds = a.preds := Arch.setReg_preds _ _ _
@[simp] theorem Arch.setVec_sr (a : Arch) (n : Nat) (v : Vec) : (a.setVec n v).sr = a.sr := Arch.setReg_sr _ _ _
@[simp] theorem Arch.setVec_code (a : Arch) (n : Nat) (v : Vec) : (a.setVec n v).code = a.code := Arch.setReg_code _ _ _
@[simp] theorem Arch.setVec_codeTag (a : Arch) (n : Nat) (v : Vec) : (a.setVec n v).codeTag = a.codeTag := Arch.setReg_codeTag _ _ _
@[simp] theorem Arch.setVec_pc (a : Arch) (n : Nat) (v : Vec) : (a.setVec n v).pc = a.pc := Arch.setReg_pc _ _ _
@[simp] theorem Arch.setVec_pfx (a : Arch) (n : Nat) (v : Vec) : (a.setVec n v).pfx = a.pfx := Arch.setReg_pfx _ _ _
@[simp] theorem Arch.setScalar_preds (a : Arch) (n x : Nat) : (a.setScalar n x).preds = a.preds := Arch.setReg_preds _ _ _
@[simp] theorem Arch.setScalar_sr (a : Arch) (n x : Nat) : (a.setScalar n x).sr = a.sr := Arch.setReg_sr _ _ _
@[simp] theorem Arch.setScalar_code (a : Arch) (n x : Nat) : (a.setScalar n x).code = a.code := Arch.setReg_code _ _ _
@[simp] theorem Arch.setScalar_codeTag (a : Arch) (n x : Nat) : (a.setScalar n x).codeTag = a.codeTag := Arch.setReg_codeTag _ _ _
@[simp] theorem Arch.setScalar_pc (a : Arch) (n x : Nat) : (a.setScalar n x).pc = a.pc := Arch.setReg_pc _ _ _
@[simp] theorem Arch.setScalar_pfx (a : Arch) (n x : Nat) : (a.setScalar n x).pfx = a.pfx := Arch.setReg_pfx _ _ _
@[simp] theorem Arch.writeCap_preds (a : Arch) (n : Nat) (c : CapBits) : (a.writeCap n c).preds = a.preds := Arch.setReg_preds _ _ _
@[simp] theorem Arch.writeCap_sr (a : Arch) (n : Nat) (c : CapBits) : (a.writeCap n c).sr = a.sr := Arch.setReg_sr _ _ _
@[simp] theorem Arch.writeCap_code (a : Arch) (n : Nat) (c : CapBits) : (a.writeCap n c).code = a.code := Arch.setReg_code _ _ _
@[simp] theorem Arch.writeCap_codeTag (a : Arch) (n : Nat) (c : CapBits) : (a.writeCap n c).codeTag = a.codeTag := Arch.setReg_codeTag _ _ _
@[simp] theorem Arch.writeCap_pc (a : Arch) (n : Nat) (c : CapBits) : (a.writeCap n c).pc = a.pc := Arch.setReg_pc _ _ _
@[simp] theorem Arch.writeCap_pfx (a : Arch) (n : Nat) (c : CapBits) : (a.writeCap n c).pfx = a.pfx := Arch.setReg_pfx _ _ _
@[simp] theorem Arch.setPred_regs (a : Arch) (p : Nat) (x : Word) : (a.setPred p x).regs = a.regs := by unfold Arch.setPred; split <;> rfl
@[simp] theorem Arch.setPred_sr (a : Arch) (p : Nat) (x : Word) : (a.setPred p x).sr = a.sr := by unfold Arch.setPred; split <;> rfl
@[simp] theorem Arch.setPred_code (a : Arch) (p : Nat) (x : Word) : (a.setPred p x).code = a.code := by unfold Arch.setPred; split <;> rfl
@[simp] theorem Arch.setPred_codeTag (a : Arch) (p : Nat) (x : Word) : (a.setPred p x).codeTag = a.codeTag := by unfold Arch.setPred; split <;> rfl
@[simp] theorem Arch.setPred_pc (a : Arch) (p : Nat) (x : Word) : (a.setPred p x).pc = a.pc := by unfold Arch.setPred; split <;> rfl
@[simp] theorem Arch.setPred_pfx (a : Arch) (p : Nat) (x : Word) : (a.setPred p x).pfx = a.pfx := by unfold Arch.setPred; split <;> rfl

/-! ## Reading after writing -/

@[simp] theorem State.core_setCore_self (s : State) (c : Nat) (k : Core) : (s.setCore c k).core c = k := by
  simp [State.core, State.setCore]

theorem State.core_setCore_ne (s : State) {c d : Nat} (h : c ≠ d) (k : Core) : (s.setCore c k).core d = s.core d := by
  simp [State.core, State.setCore, Sp.at_set_ne _ h]

@[simp] theorem Core.slot_setSlot_self (k : Core) (n : Nat) (x : Slot) : (k.setSlot n x).slot n = x := by
  simp [Core.slot, Core.setSlot]

theorem Core.slot_setSlot_ne (k : Core) {n m : Nat} (h : n ≠ m) (x : Slot) : (k.setSlot n x).slot m = k.slot m := by
  simp [Core.slot, Core.setSlot, Sp.at_set_ne _ h]

theorem State.core_setSlot_self (s : State) (c n : Nat) (x : Slot) : (s.setSlot c n x).core c = (s.core c).setSlot n x := by
  simp [State.setSlot, State.updCore]

theorem State.core_setSlot_ne (s : State) {c d : Nat} (h : c ≠ d) (n : Nat) (x : Slot) :
    (s.setSlot c n x).core d = s.core d := State.core_setCore_ne s h _

@[simp] theorem State.slot_setSlot_self (s : State) (c n : Nat) (x : Slot) : (s.setSlot c n x).slot c n = x := by
  simp [State.slot, State.core_setSlot_self]

theorem State.slot_setSlot_ne (s : State) {c n d m : Nat} (h : c ≠ d ∨ n ≠ m) (x : Slot) :
    (s.setSlot c n x).slot d m = s.slot d m := by
  by_cases hc : c = d
  · subst hc
    have hn : n ≠ m := by simpa using h
    simp [State.slot, State.core_setSlot_self, Core.slot_setSlot_ne _ hn]
  · simp [State.slot, State.core_setSlot_ne s hc]

@[simp] theorem State.slot_updSlot_self (s : State) (c n : Nat) (f : Slot → Slot) : (s.updSlot c n f).slot c n = f (s.slot c n) :=
  State.slot_setSlot_self _ _ _ _

@[simp] theorem State.me_updMe (s : State) (f : Slot → Slot) : (s.updMe f).me = f s.me := State.slot_setSlot_self _ _ _ _

@[simp] theorem State.me_updArch (s : State) (f : Arch → Arch) : (s.updArch f).me = { s.me with arch := f s.me.arch } :=
  State.me_updMe _ _

/-- The slot of every other task is as it was. -/
theorem State.slot_updMe_ne (s : State) (f : Slot → Slot) {c n : Nat} (h : s.cur.core ≠ c ∨ s.cur.slot ≠ n) :
    (s.updMe f).slot c n = s.slot c n := State.slot_setSlot_ne s h _

theorem State.setCore_setCore (s : State) (c : Nat) (k l : Core) : (s.setCore c k).setCore c l = s.setCore c l := by
  have : ∀ m : Sp Core, Sp.set (Sp.set m c k) c l = Sp.set m c l := by
    intro m
    induction m with
    | nil => simp [Sp.set]
    | cons e r ih =>
      obtain ⟨j, x⟩ := e
      by_cases h1 : c < j
      · simp [Sp.set, h1]
      · by_cases h2 : c = j
        · subst h2; simp [Sp.set]
        · simp [Sp.set, h1, h2, ih]
  simp [State.setCore, this]

/-- A register reads as what was written to it, v0 as zero, R10. -/
theorem Arch.reg_setReg (a : Arch) (n m : Nat) (r : Reg) :
    (a.setReg n r).reg m = if m = 0 then {} else if n = m then r else a.reg m := by
  by_cases hm : m = 0
  · simp [Arch.reg, hm]
  · by_cases hn : n = 0
    · subst hn
      simp [Arch.setReg, Arch.reg, hm, Ne.symm hm]
    · simp [Arch.setReg, hn, Arch.reg, hm, Sp.at_set]

@[simp] theorem Arch.reg_zero (a : Arch) : a.reg 0 = {} := rfl

theorem Arch.reg_setReg_self (a : Arch) {n : Nat} (h : n ≠ 0) (r : Reg) : (a.setReg n r).reg n = r := by
  rw [Arch.reg_setReg, if_neg h, if_pos rfl]

theorem Arch.reg_setReg_ne (a : Arch) {n m : Nat} (h : n ≠ m) (r : Reg) : (a.setReg n r).reg m = a.reg m := by
  rw [Arch.reg_setReg, if_neg h]
  split
  · rename_i h0; subst h0; rfl
  · rfl

@[simp] theorem Arch.setReg_zero (a : Arch) (r : Reg) : a.setReg 0 r = a := rfl

@[simp] theorem Arch.setPred_seven (a : Arch) (x : Word) : a.setPred 7 x = a := rfl

@[simp] theorem Arch.pred_seven (a : Arch) : a.pred 7 = BitVec.allOnes 64 := rfl

/-- A predicate reads as what was written to it, p7 as all ones, R18. -/
theorem Arch.pred_setPred (a : Arch) (p q : Nat) (x : Word) :
    (a.setPred p x).pred q = if q = 7 then BitVec.allOnes 64 else if p = q then x else a.pred q := by
  by_cases hq : q = 7
  · simp [Arch.pred, hq]
  · by_cases hp : p = 7
    · subst hp
      simp [Arch.setPred, Arch.pred, hq, Ne.symm hq]
    · simp [Arch.setPred, hp, Arch.pred, hq, Sp.at_set]

theorem Arch.reg_congr {a b : Arch} (h : a.regs = b.regs) (n : Nat) : a.reg n = b.reg n := by simp [Arch.reg, h]

theorem Arch.pred_congr {a b : Arch} (h : a.preds = b.preds) (p : Nat) : a.pred p = b.pred p := by simp [Arch.pred, h]

@[simp] theorem Arch.reg_setPc (a : Arch) (x : Word) (n : Nat) : (a.setPc x).reg n = a.reg n := rfl
@[simp] theorem Arch.reg_setPp (a : Arch) (b : Bool) (n : Nat) : (a.setPp b).reg n = a.reg n := rfl
@[simp] theorem Arch.reg_dropPfx (a : Arch) (n : Nat) : a.dropPfx.reg n = a.reg n := rfl
@[simp] theorem Arch.reg_raise (a : Arch) (f : Flags) (n : Nat) : (a.raise f).reg n = a.reg n := rfl
@[simp] theorem Arch.pred_setPc (a : Arch) (x : Word) (n : Nat) : (a.setPc x).pred n = a.pred n := rfl
@[simp] theorem Arch.pred_dropPfx (a : Arch) (n : Nat) : a.dropPfx.pred n = a.pred n := rfl
@[simp] theorem Arch.pred_raise (a : Arch) (f : Flags) (n : Nat) : (a.raise f).pred n = a.pred n := rfl
theorem Arch.pred_setReg (a : Arch) (n : Nat) (r : Reg) (p : Nat) : (a.setReg n r).pred p = a.pred p :=
  Arch.pred_congr (Arch.setReg_preds a n r) p
theorem Arch.reg_setPred (a : Arch) (p : Nat) (x : Word) (n : Nat) : (a.setPred p x).reg n = a.reg n :=
  Arch.reg_congr (Arch.setPred_regs a p x) n

end Sys2Proof.Machine
end

