-- ==== Sys2Proof/Laws/Memory.lean ====
section
/-!
SUPPORT. Storage: every operation that changes memory keeps its canonical form, and a write leaves every byte outside the
bytes written as it was.
-/

namespace Sys2Proof.Machine

/-! ## The canonical form -/

theorem Memory.wf_reset : Memory.wf State.reset.mem = true := by decide

theorem Memory.wf_put {m : List Host.Cell} (h : Memory.wf m = true) (k : Nat) (b : Byte) : Memory.wf (Sp.put 0 m k b) = true :=
  Sp.wf_put h k b

@[simp] theorem State.setViewByte_mem (s : State) (c off : Nat) (b : Byte) : (s.setViewByte c off b).mem = s.mem := by
  unfold State.setViewByte
  split
  · rfl
  · split <;> rfl

theorem State.wf_putByte {s : State} (h : Memory.wf s.mem = true) (k : Nat) (b : Byte) :
    Memory.wf (s.putByte k b).mem = true := by
  unfold State.putByte
  split
  · simpa using h
  · exact Memory.wf_put h k b

/-- A fold keeps what each of its steps keeps. -/
theorem foldl_keeps {σ β : Type} {P : σ → Prop} {f : σ → β → σ} (hf : ∀ s b, P s → P (f s b)) :
    ∀ (l : List β) (s : σ), P s → P (l.foldl f s)
  | [], _, h => h
  | b :: l, s, h => foldl_keeps hf l (f s b) (hf s b h)

/-- A fold leaves what each of its steps leaves. -/
theorem foldl_same {σ β γ : Type} {g : σ → γ} {f : σ → β → σ} (hf : ∀ s b, g (f s b) = g s) (l : List β) (s : σ) :
    g (l.foldl f s) = g s :=
  foldl_keeps (P := fun t => g t = g s) (fun t b h => (hf t b).trans h) l s rfl

theorem State.wf_putBytes {s : State} (h : Memory.wf s.mem = true) (k n mask d : Nat) :
    Memory.wf (s.putBytes k n mask d).mem = true := by
  unfold State.putBytes
  refine foldl_keeps (P := fun t : State => Memory.wf t.mem = true) (fun t i ht => ?_) _ _ h
  split
  · exact State.wf_putByte ht _ _
  · exact ht

@[simp] theorem State.heal_mem (s : State) (k n mask : Nat) : (s.heal k n mask).mem = s.mem := by
  unfold State.heal
  exact foldl_same (g := State.mem) (fun t i => by simp only [apply_ite State.mem, ite_self]) _ _

@[simp] theorem State.raiseMark_mem (s : State) (k n : Nat) : (s.raiseMark k n).mem = s.mem := by
  unfold State.raiseMark; split <;> rfl

@[simp] theorem State.keepStale_mem (s : State) (k n : Nat) : (s.keepStale k n).mem = s.mem := by
  unfold State.keepStale; split <;> rfl

@[simp] theorem State.setTag_mem (s : State) (k : Nat) (b : Bool) : (s.setTag k b).mem = s.mem := rfl
@[simp] theorem State.setFull_mem (s : State) (k : Nat) (b : Bool) : (s.setFull k b).mem = s.mem := rfl
@[simp] theorem State.setFwall_mem (s : State) (c : Nat) (v : Word) : (s.setFwall c v).mem = s.mem := rfl

@[simp] theorem State.wakeBank_mem (s : State) (c n : Nat) : (s.wakeBank c n).mem = s.mem := by
  unfold State.wakeBank; dsimp only; split <;> rfl

@[simp] theorem State.updBig_mem (s : State) (c : Nat) (f : Big → Big) : (s.updBig c f).mem = s.mem := rfl

/-- Of a state: memory, the operations, what parks and where the machine stands, which no write of a control register changes.
-/
def State.kept (s : State) : List Host.Cell × Sp Op × List (Nat × Nat × Nat) × Who := (s.mem, s.ops, s.parked, s.cur)

theorem State.kept_settle (s : State) (c : Nat) : (s.settle c).kept = s.kept := by
  unfold State.settle; split <;> rfl

theorem State.kept_setQuota (s : State) (p x : Nat) : (s.setQuota p x).kept = s.kept := by
  unfold State.setQuota; split <;> rfl

theorem State.kept_setPair (s : State) (c x : Nat) : (s.setPair c x).kept = s.kept := by
  unfold State.setPair; split <;> rfl

theorem State.kept_setCheckMode (s : State) (c x : Nat) : (s.setCheckMode c x).kept = s.kept := by
  unfold State.setCheckMode; split <;> rfl

theorem State.kept_setHost (s : State) (c n : Nat) : (s.setHost c n).kept = s.kept := by
  unfold State.setHost; dsimp only; split <;> rfl

theorem State.kept_setWorld (s : State) (b : Block) (secure : Bool) : (s.setWorld b secure).kept = s.kept := by
  unfold State.setWorld; split
  · rfl
  · cases b <;> rfl

theorem State.kept_setRegion (s : State) (n : Nat) (v : BitVec 128) : (s.setRegion n v).kept = s.kept := by
  unfold State.setRegion; split <;> rfl

theorem State.kept_setControl (s : State) (r : CtlReg) (x : Nat) : (s.setControl r x).kept = s.kept := by
  cases r with
  | quota => exact foldl_same (g := State.kept) (fun t p => State.kept_setQuota ..) _ _
  | fwall => simp only [State.setControl]; split <;> rfl
  | lpct => exact (State.kept_settle ..).trans rfl
  | world => exact State.kept_setWorld ..
  | bctl =>
    simp only [State.setControl]; split
    · exact (State.kept_setCheckMode ..).trans (State.kept_setPair ..)
    · rfl
  | hostctx => exact State.kept_setHost ..
  | region => exact State.kept_setRegion ..
  | _ => rfl

/-- A write of control registers leaves memory as it was, R379. -/
theorem State.kept_writeControl (s : State) (k n mask d : Nat) : (s.writeControl k n mask d).kept = s.kept := by
  unfold State.writeControl
  refine foldl_same (g := State.kept) (fun t i => ?_) _ _
  dsimp only
  split
  · rfl
  · unfold State.setControlWord; split
    · exact State.kept_setControl ..
    · rfl

@[simp] theorem State.writeControl_mem (s : State) (k n mask d : Nat) : (s.writeControl k n mask d).mem = s.mem :=
  congrArg (·.1) (State.kept_writeControl ..)

theorem State.wf_writeMem {s : State} (h : Memory.wf s.mem = true) (k n mask d : Nat) :
    Memory.wf (s.writeMem k n mask d).mem = true := by
  unfold State.writeMem
  split
  · exact h
  · split
    · simpa using h
    · refine foldl_keeps (P := fun t : State => Memory.wf t.mem = true) (fun t i ht => ?_) _ _ ?_
      · dsimp only
        split
        · simpa using ht
        · exact ht
      · exact State.wf_putBytes (by simpa using h) _ _ _ _

theorem State.wf_store {s : State} (h : Memory.wf s.mem = true) (k n d : Nat) : Memory.wf (s.store k n d).mem = true :=
  State.wf_writeMem h _ _ _ _

theorem State.wf_storeCap {s : State} (h : Memory.wf s.mem = true) (k d : Nat) (tag : Bool) :
    Memory.wf (s.storeCap k d tag).mem = true := by
  simpa [State.storeCap] using State.wf_store h k 16 d

/-- Clearing storage keeps the canonical form, R26, R338. -/
theorem State.wf_wipe {s : State} (h : Memory.wf s.mem = true) (gone : Nat → Bool) : Memory.wf (s.wipe gone).mem = true :=
  Sp.wf_filter h _

theorem State.wf_clearBank {s : State} (h : Memory.wf s.mem = true) (c n : Nat) : Memory.wf (s.clearBank c n).mem = true :=
  Sp.wf_filter h _

/-- A swapped-out image of canonical memory is canonical, R340. -/
theorem State.wf_imageOf {s : State} (h : Memory.wf s.mem = true) (p : Nat) : Memory.wf (s.imageOf p).mem = true :=
  Sp.wf_filter h _

theorem Sp.wf_set {α : Type} [DecidableEq α] {d : α} {m : Sp α} (h : m.wf d = true) (k : Nat) {v : α} (hv : v ≠ d) :
    (Sp.set m k v).wf d = true := by
  have := Sp.wf_put h k v
  rwa [Sp.put, if_neg hv] at this

theorem Sp.wf_merge {α : Type} [DecidableEq α] {d : α} :
    ∀ {l m : Sp α}, m.wf d = true → (∀ e ∈ l, e.2 ≠ d) → (Sp.merge m l).wf d = true
  | [], _, h, _ => h
  | e :: l, m, h, hl => by
    refine Sp.wf_merge (l := l) (m := Sp.set m e.1 e.2) (Sp.wf_set h e.1 (hl e List.mem_cons_self)) ?_
    exact fun x hx => hl x (List.mem_cons_of_mem _ hx)

@[simp] theorem State.restoreCores_mem (s : State) (i : Image) : (s.restoreCores i).mem = s.mem := by
  unfold State.restoreCores
  refine (foldl_same (g := State.mem) (fun t b => ?_) _ _).trans (foldl_same (g := State.mem) (fun t e => by simp) _ _)
  split <;> simp

/-- Restoring a canonical image keeps the canonical form, R340, R342. -/
theorem State.wf_restore {s : State} (h : Memory.wf s.mem = true) (p : Nat) {i : Image} (hi : Memory.wf i.mem = true) :
    Memory.wf (s.restore p i).mem = true := by
  unfold State.restore
  refine foldl_keeps (P := fun t : State => Memory.wf t.mem = true) (fun t i ht => by simpa [State.restoreAcc] using ht) _ _ ?_
  simp only [Memory.wf, Sp.wf, Bool.and_eq_true, List.all_eq_true] at hi
  exact Sp.wf_merge (State.wf_wipe (by simpa using h) _) (fun e he => by simpa using hi.2 e (List.mem_of_mem_filter he))

/-! ## What a write leaves -/

/-- A byte of storage reads as what memory lists. -/
theorem State.byte_eq (s : State) {k : Nat} (h : keyIsView k = false) : s.byte k = Sp.at s.mem k 0 := by
  have h5 : (keyIsLocal k && keySpace k == 5) = false := by
    revert h; unfold keyIsView; cases keyIsLocal k <;> cases (keySpace k == 5) <;> simp
  have h8 : (keyIsLocal k && keySpace k == 8) = false := by
    revert h; unfold keyIsView; cases keyIsLocal k <;> cases (keySpace k == 8) <;> simp
  simp [State.byte, h5, h8]

/-- A byte written reads as what was written, and every other byte of storage as before. -/
theorem State.byte_putByte (s : State) {k j : Nat} (hk : keyIsView k = false) (hj : keyIsView j = false) (b : Byte) :
    (s.putByte k b).byte j = if k = j then b else s.byte j := by
  have h5 : (keyIsLocal k && keySpace k == 5) = false := by
    revert hk; unfold keyIsView; cases keyIsLocal k <;> cases (keySpace k == 5) <;> simp
  rw [State.byte_eq _ hj, State.byte_eq _ hj]
  simp only [State.putByte, h5, Bool.false_eq_true, if_false]
  exact Sp.at_put _ _ _ _ _

theorem State.byte_putByte_ne (s : State) {k j : Nat} (h : k ≠ j) (hj : keyIsView j = false) (b : Byte) :
    (s.putByte k b).byte j = s.byte j := by
  rw [State.byte_eq _ hj, State.byte_eq _ hj]
  unfold State.putByte
  split
  · simp
  · exact Sp.at_put_ne _ _ h _

/-- The bytes that a masked write covers. -/
theorem State.byte_putBytes (s : State) (k n mask d : Nat) {j : Nat} (hj : keyIsView j = false)
    (hk : ∀ i, i < n → keyIsView (k + i) = false) :
    (s.putBytes k n mask d).byte j = if k ≤ j ∧ j < k + n ∧ bit mask (j - k) then byteOf d (j - k) else s.byte j := by
  unfold State.putBytes
  induction n with
  | zero => simp; omega
  | succ n ih =>
    rw [List.range_succ, List.foldl_append, List.foldl_cons, List.foldl_nil]
    have ih := ih (fun i hi => hk i (by omega))
    generalize hg : List.foldl _ s (List.range n) = t at ih ⊢
    by_cases hb : bit mask n
    · rw [if_pos hb, State.byte_putByte _ (hk n (by omega)) hj]
      by_cases hjn : k + n = j
      · subst hjn
        simp [hb]
      · rw [if_neg hjn, ih]
        have : (k ≤ j ∧ j < k + n ∧ bit mask (j - k)) ↔ (k ≤ j ∧ j < k + (n + 1) ∧ bit mask (j - k)) := by
          constructor <;> (rintro ⟨h1, h2, h3⟩; exact ⟨h1, by omega, h3⟩)
        simp only [this]
    · rw [if_neg hb, ih]
      by_cases hjn : j = k + n
      · subst hjn
        have : bit mask n = false := by simpa using hb
        simp [this]
      · have : (k ≤ j ∧ j < k + n ∧ bit mask (j - k)) ↔ (k ≤ j ∧ j < k + (n + 1) ∧ bit mask (j - k)) := by
          constructor <;> (rintro ⟨h1, h2, h3⟩; exact ⟨h1, by omega, h3⟩)
        simp only [this]

theorem State.byte_congr {s t : State} (h : s.mem = t.mem) {j : Nat} (hj : keyIsView j = false) : s.byte j = t.byte j := by
  rw [State.byte_eq _ hj, State.byte_eq _ hj, h]

/-- What a masked write does to a byte of storage: the bytes written, and no other, R215. -/
theorem State.byte_writeMem (s : State) (k n mask d : Nat) {j : Nat} (hj : keyIsView j = false)
    (hk : ∀ i, i < n → keyIsView (k + i) = false) (hn : 0 < n) :
    (s.writeMem k n mask d).byte j = if k ≤ j ∧ j < k + n ∧ bit mask (j - k) then byteOf d (j - k) else s.byte j := by
  have h8 : (keyIsLocal k && keySpace k == 8) = false := by
    have := hk 0 hn
    revert this; simp only [Nat.add_zero]; unfold keyIsView
    cases keyIsLocal k <;> cases (keySpace k == 8) <;> simp
  unfold State.writeMem
  by_cases h0 : mask = 0
  · simp [h0, bit]
  · simp only [h0, if_false, h8, Bool.false_eq_true]
    rw [State.byte_congr (foldl_same (g := State.mem) (fun t i => by simp only [apply_ite State.mem, State.setTag_mem, ite_self]) _ _) hj,
      State.byte_putBytes _ _ _ _ _ hj hk]
    exact if_congr Iff.rfl rfl (State.byte_congr (by simp) hj)

end Sys2Proof.Machine
end

