-- ==== Sys2Proof/Laws/Issue.lean ====
section
/-!
SUPPORT. What the issue of an instruction does before and beside the instruction's own effect, said once: for a ready
instruction the outcome is that of its body, and the body starts from a state that differs from the old one in the issuing
task alone.
-/

namespace Sys2Proof.Machine

/-! ## The state from which a body starts -/

theorem State.wakeBank_ex (s : State) (c n : Nat) : ∃ b, s.wakeBank c n = { s with banks := b } := by
  unfold State.wakeBank; dsimp only; split
  · exact ⟨s.banks, rfl⟩
  · exact ⟨_, rfl⟩

theorem State.wakeBank_eq (s : State) (c n : Nat) : s.wakeBank c n = { s with banks := (s.wakeBank c n).banks } := by
  obtain ⟨b, h⟩ := s.wakeBank_ex c n
  rw [h]

theorem State.issued_ex (s : State) (g : Option Nat) : ∃ b l, s.issued g = { s with banks := b, gangs := l } := by
  obtain ⟨b, h⟩ := s.wakeBank_ex s.cur.core s.cur.slot
  unfold State.issued
  rw [h]
  cases g with
  | none => exact ⟨b, s.gangs, rfl⟩
  | some k =>
    dsimp only
    split
    · exact ⟨b, s.gangs, rfl⟩
    · exact ⟨b, _, rfl⟩

theorem State.issued_eq (s : State) (g : Option Nat) :
    s.issued g = { s with banks := (s.issued g).banks, gangs := (s.issued g).gangs } := by
  obtain ⟨b, l, h⟩ := s.issued_ex g
  rw [h]

theorem State.banks_wakeBank (s : State) (c n b : Nat) (h : b ≠ 16 * c + n) : (s.wakeBank c n).banks.at b {} = s.banks.at b {} := by
  unfold State.wakeBank
  dsimp only
  split
  · rfl
  · exact Sp.at_put_ne _ _ (Ne.symm h) _

theorem State.banks_issued (s : State) (g : Option Nat) : (s.issued g).banks = (s.wakeBank s.cur.core s.cur.slot).banks := by
  unfold State.issued
  cases g with
  | none => rfl
  | some k => dsimp only; split <;> rfl

theorem State.gangs_issued (s : State) (g : Option Nat) (k : Nat) :
    ((s.issued g).gangs.look k).map (fun g => { g with idleSince := 0 }) =
      (s.gangs.look k).map (fun g => { g with idleSince := 0 }) := by
  have hg : (s.wakeBank s.cur.core s.cur.slot).gangs = s.gangs := by rw [s.wakeBank_eq]
  unfold State.issued
  cases g with
  | none => rw [hg]
  | some j =>
    dsimp only
    split
    · rw [hg]
    · rename_i x hx
      rw [hg] at hx
      rw [hg, Sp.look_set]
      split
      · rename_i hj; subst hj; rw [hx]; rfl
      · rfl

@[simp] theorem State.issued_cores (s : State) (g : Option Nat) : (s.issued g).cores = s.cores := by rw [s.issued_eq]
@[simp] theorem State.issued_mem (s : State) (g : Option Nat) : (s.issued g).mem = s.mem := by rw [s.issued_eq]
@[simp] theorem State.issued_cur (s : State) (g : Option Nat) : (s.issued g).cur = s.cur := by rw [s.issued_eq]

theorem State.core_congr {s t : State} (h : s.cores = t.cores) (c : Nat) : s.core c = t.core c := by simp [State.core, h]
theorem State.slot_congr {s t : State} (h : s.cores = t.cores) (c n : Nat) : s.slot c n = t.slot c n := by
  simp [State.slot, State.core_congr h]
theorem State.me_congr {s t : State} (h : s.cores = t.cores) (hc : s.cur = t.cur) : s.me = t.me := by
  simp [State.me, State.slot_congr h, hc]

@[simp] theorem State.me_issuing (s : State) (i : Instr) : (s.issuing i).me = s.slotIssuing i := by
  rw [State.issuing, State.me_congr (State.issued_cores _ _) (State.issued_cur _ _), State.me_updMe]

/-! ## What stays as it was -/

theorem OthersKept.of_mem {s t : State} (h : t.mem = s.mem) {k : Nat} (hk : keyIsView k = false) : t.byte k = s.byte k :=
  State.byte_congr h hk

theorem State.core_updMe (s : State) (f : Slot → Slot) :
    (s.updMe f).core s.cur.core = (s.core s.cur.core).setSlot s.cur.slot (f s.me) := State.core_setSlot_self _ _ _ _

theorem rest_of_ex {s t : State} {c : Sp Core} {b : Sp Bank} {g : Sp Gang}
    (h : t = { s with cores := c, banks := b, gangs := g }) :
    t = { s with cores := t.cores, banks := t.banks, gangs := t.gangs } := by
  subst h; rfl

theorem rest_updMe {s t : State} {c : Sp Core} {b : Sp Bank} {g : Sp Gang}
    (h : t = { s with cores := c, banks := b, gangs := g }) (f : Slot → Slot) :
    t.updMe f = { s with cores := (t.updMe f).cores, banks := (t.updMe f).banks, gangs := (t.updMe f).gangs } := by
  subst h; rfl

theorem rest_issued {s t : State} {c : Sp Core} {b : Sp Bank} {g : Sp Gang}
    (h : t = { s with cores := c, banks := b, gangs := g }) (k : Option Nat) :
    t.issued k = { s with cores := (t.issued k).cores, banks := (t.issued k).banks, gangs := (t.issued k).gangs } := by
  obtain ⟨x, y, hx⟩ := t.issued_ex k
  rw [hx]
  subst h; rfl

theorem TaskOnly.refl (s : State) : TaskOnly s s where
  cores _ _ := rfl
  core := rfl
  slots _ _ := rfl
  sums _ _ := rfl
  banks _ _ := rfl
  gangs _ := rfl
  storage _ _ := rfl
  rest := rfl

theorem TaskOnly.cur {s t : State} (h : TaskOnly s t) : t.cur = s.cur := (congrArg State.cur h.rest).trans rfl
theorem TaskOnly.mem {s t : State} (h : TaskOnly s t) : t.mem = s.mem := (congrArg State.mem h.rest).trans rfl

/-- A change of the task's own slot keeps what others have. -/
theorem TaskOnly.updMe {s t : State} (h : TaskOnly s t) (f : Slot → Slot) : TaskOnly s (t.updMe f) where
  cores c hc := by
    rw [show (t.updMe f).core c = t.core c from State.core_setSlot_ne _ (by rw [h.cur]; exact Ne.symm hc) _ _]
    exact h.cores c hc
  core := by
    have := State.core_updMe t f
    rw [h.cur] at this
    rw [this]
    exact (congrArg (fun k : Core => k.setSlot s.cur.slot (f t.me)) h.core).trans rfl
  slots n hn := by
    rw [← h.slots n hn]
    exact State.slot_setSlot_ne _ (.inr (by rw [h.cur]; exact Ne.symm hn)) _
  sums p hp := by
    have := State.core_updMe t f
    rw [h.cur] at this
    rw [this]
    exact h.sums p hp
  banks b hb := h.banks b hb
  gangs k := h.gangs k
  storage k hk := State.byte_congr (by rw [State.updMe_mem, h.mem]) hk
  rest := rest_updMe h.rest f

/-- A change of the task's own registers keeps what others have. -/
theorem TaskOnly.updArch {s t : State} (h : TaskOnly s t) (f : Arch → Arch) : TaskOnly s (t.updArch f) := h.updMe _

theorem TaskOnly.issued {s t : State} (h : TaskOnly s t) (g : Option Nat) : TaskOnly s (t.issued g) where
  cores c hc := by rw [State.core_congr (State.issued_cores _ _)]; exact h.cores c hc
  core := by rw [State.core_congr (State.issued_cores _ _)]; exact h.core
  slots n hn := by rw [State.slot_congr (State.issued_cores _ _)]; exact h.slots n hn
  sums p hp := by rw [State.core_congr (State.issued_cores _ _)]; exact h.sums p hp
  banks b hb := by
    rw [State.banks_issued, h.cur, State.banks_wakeBank _ _ _ _ hb]
    exact h.banks b hb
  gangs k := (State.gangs_issued _ _ _).trans (h.gangs k)
  storage k hk := State.byte_congr (by rw [State.issued_mem, h.mem]) hk
  rest := rest_issued h.rest g

theorem taskOnly_issuing (s : State) (i : Instr) : TaskOnly s (s.issuing i) := ((TaskOnly.refl s).updMe _).issued _

theorem State.raise_zero (s : State) : s.raise 0 = s := by simp [State.raise, State.raiseFor]

/-! ## The issue of a ready instruction -/

theorem State.boundSources_nil {x : Slot} {l : List Nat} (h : ∀ r ∈ l, x.bound r = false) : x.boundSources l = [] := by
  have : l.filter x.bound = [] := by
    rw [List.filter_eq_nil_iff]
    intro r hr
    simp [h r hr]
  simp [Slot.boundSources, this]

@[simp] theorem reads_elems (w lo n : Nat) : (Governs.elems w lo n).reads = [] := rfl
@[simp] theorem reads_allElems (w : Nat) : (allElems w).reads = [] := rfl
@[simp] theorem reads_partElems (ws wd p : Nat) : (partElems ws wd p).reads = [] := rfl
@[simp] theorem reads_bit0 : Governs.bit0.reads = [] := rfl
@[simp] theorem reads_always : Governs.always.reads = [] := rfl
@[simp] theorem reads_sizeElems (z : BitVec 3) : (sizeElems z).reads = [] := by unfold sizeElems; split <;> rfl

/-- What decides the governing bit is a source of the instruction, R96. -/
theorem governs_reads (rd : Nat → Reg) (i : Instr) : ∀ r ∈ (governsOf i).reads, r ∈ (usesOf rd i).src := by
  unfold governsOf
  split
  all_goals first
    | (intro r hr; simp at hr)
    | simp [Governs.reads, usesOf, usesDAB, usesDABd]

/-- The guard of a ready instruction can be decided. -/
theorem State.guardStall_ready {s : State} {i : Instr} (h : Ready i s) (parked : Nat → Bool) :
    s.me.guardStall parked (governsOf i).reads (guardPred i) = none := by
  have hq : s.me.boundSources (governsOf i).reads = [] :=
    State.boundSources_nil (fun r hr => h.unbound r (governs_reads _ i r hr))
  have hb : s.me.blockers { src := (governsOf i).reads } (guardPred i) = [] := by
    have hc := h.clear
    unfold Slot.blockers at hc ⊢
    rw [List.map_eq_nil_iff, List.filter_eq_nil_iff] at hc ⊢
    intro e he
    have := hc e he
    cases e with
    | mk d k => cases d with
      | reg n =>
        simp only [Bool.or_eq_true, List.contains_eq_mem, decide_eq_true_eq, not_or] at this
        simp only [List.contains_nil, Bool.or_false, List.contains_eq_mem, decide_eq_true_eq, List.not_mem_nil, decide_false]
        exact fun hr => this.1 (governs_reads _ i n hr)
      | pred p =>
        simp only [List.contains_cons, Bool.or_eq_true, not_or] at this
        simp only [List.contains_nil, List.contains_cons, Bool.or_false]
        exact this.1.1
  unfold Slot.guardStall
  simp [hq, hb]

/-- The outcome of a ready instruction is that of its body: its own checks and its effect, R40. -/
theorem State.issue_ready {s : State} {i : Instr} (h : Ready i s) (body : Env → State → Except Exit State) :
    s.issue i body = (match body (s.envOf i) (s.issuing i) with
      | .ok t => .next t
      | .error e => s.leave (s.envOf i).first e) := by
  have hmay := h.may
  have hdef : i.defect.isSome = false := by rw [h.wf]; rfl
  have hpfx := h.pfx
  have hclear := h.clear
  have halone : s.me.ship.isSome = false := by rw [h.alone]; rfl
  have hon := h.on
  have hq := State.boundSources_nil h.unbound
  have hbad : (s.uses i).src.find? s.me.badRegs.contains = none := by
    rw [List.find?_eq_none]
    intro r hr
    simpa using h.good r hr
  have hun : s.me.unreadable (s.uses i).src = none := by
    unfold Slot.unreadable
    rw [hbad, hq]
    rfl
  have hgs := State.guardStall_ready h s.opParked
  unfold State.uses at hclear hq hun
  unfold guardPred at hclear hgs
  unfold State.mask at hon
  unfold State.issue
  simp only [hmay, hdef, hpfx, hgs, hclear, halone, hon, hq, hun, Bool.not_true, Bool.false_eq_true, if_false,
    List.any_nil, List.filterMap_nil, List.foldl_nil, ne_eq, not_true_eq_false, false_and, or_self]
  show (match body (s.envOf i) (s.issuing i), (none : Option Unreadable) with
    | .error e, _ => s.leave (s.envOf i).first e
    | .ok _, some w => s.unreadableTrap (s.envOf i).first w
    | .ok t, none => .next t) = _
  cases body (s.envOf i) (s.issuing i) <;> rfl

/-- A body that changes its own task's slot alone. -/
theorem actsOn_of {s : State} {i : Instr} (h : Ready i s) {body : Env → State → Except Exit State} {f : Slot → Slot}
    (he : exec i s = s.issue i body) (hb : body (s.envOf i) (s.issuing i) = .ok ((s.issuing i).updMe f)) : ActsOn i f s := by
  refine ⟨(s.issuing i).updMe f, ?_, (taskOnly_issuing s i).updMe f, ?_⟩
  · rw [he, State.issue_ready h, hb]
  · rw [State.me_updMe, State.me_issuing]

/-- A body that changes nothing more. -/
theorem actsOn_id {s : State} {i : Instr} (h : Ready i s) {body : Env → State → Except Exit State}
    (he : exec i s = s.issue i body) (hb : body (s.envOf i) (s.issuing i) = .ok (s.issuing i)) : ActsOn i id s := by
  refine ⟨s.issuing i, ?_, taskOnly_issuing s i, State.me_issuing s i⟩
  rw [he, State.issue_ready h, hb]

/-- A body that ends in a fault. -/
theorem trapsWith_of {s : State} {i : Instr} (h : Ready i s) {body : Env → State → Except Exit State} {code tval : Nat}
    (he : exec i s = s.issue i body) (hb : body (s.envOf i) (s.issuing i) = .error (.trap code tval 0)) :
    TrapsWith i code tval s := by
  have halone : s.me.ship.isSome = false := by rw [h.alone]; rfl
  unfold TrapsWith
  rw [he, State.issue_ready h, hb]
  simp only [State.leave, halone, if_false, Bool.false_eq_true]

/-- A body that ends in a stall. -/
theorem stallsFor_of {s : State} {i : Instr} (h : Ready i s) {body : Env → State → Except Exit State} {why : Stall}
    (he : exec i s = s.issue i body) (hb : body (s.envOf i) (s.issuing i) = .error (.wait why)) : StallsFor i why s := by
  unfold StallsFor
  rw [he, State.issue_ready h, hb]
  rfl

end Sys2Proof.Machine
end

