-- ==== Sys2Proof/Laws/Registers.lean ====
section
/-!
SUPPORT. Instructions whose effect lies in the registers of their task: the next state, and what it leaves as it was.
-/

namespace Sys2Proof.Machine

theorem getLsbD_putBit (x : Word) (k j : Nat) (b : Bool) :
    (putBit x k b).getLsbD j = if j = k then (decide (j < 64) && b) else x.getLsbD j := by
  unfold putBit
  by_cases hj : j < 64
  · by_cases hk : j = k
    · subst hk
      cases b <;> simp [hj]
    · have hk2 : k ≠ j := fun h => hk h.symm
      cases b <;> simp [hj, hk, hk2]
  · have : ∀ y : Word, y.getLsbD j = false := fun y => BitVec.getLsbD_of_ge _ _ (by omega)
    simp [this, hj]

/-- An operation on a task's registers that writes none but the named registers and predicates. -/
structure WritesOnly (rs ps : List Nat) (f : Arch → Arch) : Prop where
  regs : ∀ a r, r ∉ rs → (f a).reg r = a.reg r
  preds : ∀ a p, p ∉ ps → (f a).pred p = a.pred p
  code : ∀ a, (f a).code = a.code
  codeTag : ∀ a, (f a).codeTag = a.codeTag
  pc : ∀ a, (f a).pc = a.pc
  pfx : ∀ a, (f a).pfx = a.pfx
  sr : ∀ a, (f a).sr = a.sr

theorem writesOnly_setReg (n : Nat) (r : Reg) : WritesOnly [n] [] (fun a => a.setReg n r) where
  regs a m hm := Arch.reg_setReg_ne a (fun h => hm (List.mem_singleton.2 h.symm)) r
  preds a p _ := Arch.pred_setReg a n r p
  code a := Arch.setReg_code a n r
  codeTag a := Arch.setReg_codeTag a n r
  pc a := Arch.setReg_pc a n r
  pfx a := Arch.setReg_pfx a n r
  sr a := Arch.setReg_sr a n r

theorem writesOnly_setPred (p : Nat) (x : Word) : WritesOnly [] [p] (fun a => a.setPred p x) where
  regs a m _ := Arch.reg_setPred a p x m
  preds a q hq := by
    have : p ≠ q := fun h => hq (List.mem_singleton.2 h.symm)
    show (a.setPred p x).pred q = a.pred q
    rw [Arch.pred_setPred, if_neg this]
    split
    · rename_i h; subst h; rfl
    · rfl
  code a := Arch.setPred_code a p x
  codeTag a := Arch.setPred_codeTag a p x
  pc a := Arch.setPred_pc a p x
  pfx a := Arch.setPred_pfx a p x
  sr a := Arch.setPred_sr a p x

theorem WritesOnly.comp {rs ps rs' ps' : List Nat} {f g : Arch → Arch} (hf : WritesOnly rs ps f) (hg : WritesOnly rs' ps' g) :
    WritesOnly (rs ++ rs') (ps ++ ps') (fun a => g (f a)) where
  regs a r hr := by
    simp only [List.mem_append, not_or] at hr
    rw [hg.regs _ _ hr.2, hf.regs _ _ hr.1]
  preds a p hp := by
    simp only [List.mem_append, not_or] at hp
    rw [hg.preds _ _ hp.2, hf.preds _ _ hp.1]
  code a := by rw [hg.code, hf.code]
  codeTag a := by rw [hg.codeTag, hf.codeTag]
  pc a := by rw [hg.pc, hf.pc]
  pfx a := by rw [hg.pfx, hf.pfx]
  sr a := by rw [hg.sr, hf.sr]

theorem WritesOnly.id (rs ps : List Nat) : WritesOnly rs ps (fun a => a) :=
  ⟨fun _ _ _ => rfl, fun _ _ _ => rfl, fun _ => rfl, fun _ => rfl, fun _ => rfl, fun _ => rfl, fun _ => rfl⟩

/-- The registers from which a ready instruction's body starts. -/
theorem State.arch_issuing (s : State) (i : Instr) : (s.issuing i).me.arch = (s.me.arch.setPc (s.me.arch.pc + 4)).dropPfx := by
  rw [State.me_issuing]; rfl

/-- The slot after a body that changed its registers alone. -/
theorem State.me_issuing_updArch (s : State) (i : Instr) (f : Arch → Arch) :
    ((s.issuing i).updArch f).me = { s.slotIssuing i with arch := f (s.me.arch.setPc (s.me.arch.pc + 4)).dropPfx } := by
  rw [State.me_updArch, State.me_issuing]; rfl

/-- The slot from which a body starts, where no guest result is outstanding. -/
theorem State.slotIssuing_eq {s : State} (hs : s.me.ship = none) (i : Instr) :
    s.slotIssuing i = { s.me with arch := (s.me.arch.setPc (s.me.arch.pc + 4)).dropPfx, wait := none,
                                  badRegs := (s.slotIssuing i).badRegs } := by
  have h : ∀ (x : Slot) (l : List Nat), x.ship = none →
      Slot.counted (Slot.advanced { x with badRegs := l }) [] =
        { x with arch := (x.arch.setPc (x.arch.pc + 4)).dropPfx, wait := none, badRegs := l } := by
    intro x l hx
    unfold Slot.counted Slot.advanced
    simp only [hx, Option.map_none]
  unfold State.slotIssuing
  rw [h _ _ hs]

theorem regsOnly_updArch {rs ps : List Nat} {f : Arch → Arch} {s : State} (hs : s.me.ship = none) (i : Instr) (hf : WritesOnly rs ps f) :
    RegsOnly rs ps s ((s.issuing i).updArch f) where
  task := (taskOnly_issuing s i).updArch f
  slot := by
    unfold SlotKept
    rw [State.me_issuing_updArch, State.slotIssuing_eq hs]
  regs := by
    have ha : ((s.issuing i).updArch f).me.arch = f (s.me.arch.setPc (s.me.arch.pc + 4)).dropPfx := by
      rw [State.me_issuing_updArch]
    constructor
    · intro r hr; rw [ha, hf.regs _ _ hr]; rfl
    · intro p hp; rw [ha, hf.preds _ _ hp]; rfl
    · rw [ha, hf.code]; rfl
    · rw [ha, hf.codeTag]; rfl
    · rw [ha, hf.pfx]; rfl
    · intro k hk hk2
      rw [ha, hf.sr]
      show (putBit s.me.arch.sr 8 false).getLsbD k = _
      rw [getLsbD_putBit]
      by_cases h8 : k = 8 <;> simp [h8]
    · intro k h3 h7 hs
      rw [ha, hf.sr]
      show (putBit s.me.arch.sr 8 false).getLsbD k = _
      rw [getLsbD_putBit, if_neg (by omega)]
      exact hs

theorem noFlags_updArch {rs ps : List Nat} {f : Arch → Arch} (s : State) (i : Instr) (hf : WritesOnly rs ps f) :
    NoFlags s ((s.issuing i).updArch f) := by
  constructor
  · rw [State.me_issuing_updArch]
    show (f _).sr = _
    rw [hf.sr]; rfl
  · have hc : (s.issuing i).cur = s.cur := (taskOnly_issuing s i).cur
    have h1 : ((s.issuing i).updArch f).core s.cur.core = ((s.issuing i).core s.cur.core).setSlot s.cur.slot
        { (s.issuing i).me with arch := f (s.issuing i).me.arch } := by
      have := State.core_updMe (s.issuing i) (fun x => { x with arch := f x.arch })
      rw [hc] at this; exact this
    rw [h1]
    show ((s.issuing i).core s.cur.core).flagAcc = _
    unfold State.issuing
    rw [State.core_congr (State.issued_cores _ _), State.core_updMe]
    rfl

theorem advanced_updArch {rs ps : List Nat} {f : Arch → Arch} (s : State) (i : Instr) (hf : WritesOnly rs ps f) :
    Advanced s ((s.issuing i).updArch f) := by
  unfold Advanced
  rw [State.me_issuing_updArch]
  show (f _).pc = _
  rw [hf.pc]; rfl

/-- An instruction that writes registers alone and raises no flag answers the state with those registers written. -/
theorem State.issueRegs_ready {s : State} {i : Instr} (h : Ready i s) (f : Env → Arch → Arch) :
    s.issueRegs i (fun e => (f e, 0)) = .next ((s.issuing i).updArch (f (s.envOf i))) := by
  unfold State.issueRegs
  rw [State.issue_ready h]
  simp only [State.raise_zero]

theorem State.issueVec_ready {s : State} {i : Instr} (h : Ready i s) (d : BitVec 6) (f : Env → Vec) :
    s.issueVec i d f = .next ((s.issuing i).updArch (fun r => r.setVec d.toNat (f (s.envOf i)))) :=
  State.issueRegs_ready h (fun e r => r.setVec d.toNat (f e))

/-- What an instruction that writes one register with data does, R9, R11: the register, its tag, and everything else. -/
theorem State.issueVec_spec {s : State} {i : Instr} (h : Ready i s) (d : BitVec 6) (f : Env → Vec) :
    ∃ t, s.issueVec i d f = .next t ∧ RegsOnly [d.toNat] [] s t ∧ NoFlags s t ∧ Advanced s t ∧
      (d ≠ 0 → t.me.arch.reg d.toNat = { v := f (s.envOf i), tag := false }) := by
  refine ⟨_, State.issueVec_ready h d f, regsOnly_updArch h.alone i (writesOnly_setReg _ _), noFlags_updArch s i (writesOnly_setReg _ _),
    advanced_updArch s i (writesOnly_setReg _ _), fun hd => ?_⟩
  rw [State.me_issuing_updArch]
  exact Arch.reg_setReg_self _ (fun h0 => hd (BitVec.eq_of_toNat_eq h0)) _

/-- The same as the answer of `exec`. -/
theorem writesVec_of {s : State} {i : Instr} (h : Ready i s) {d : BitVec 6} (f : Env → Vec) {p : Vec → Prop}
    (he : exec i s = s.issueVec i d f) (hp : p (f (s.envOf i))) : WritesVec i d p s := by
  obtain ⟨t, h1, h2, h3, h4, h5⟩ := State.issueVec_spec h d f
  refine ⟨t, he.trans h1, h2, h3, h4, fun hd => ?_⟩
  have := h5 hd
  exact ⟨by rw [this], by unfold State.vec; rw [this]; exact hp⟩

theorem intWidth_dvd (t : BitVec 3) : intWidth t ∣ 1024 := by
  revert t; decide

theorem mapEnabled_elem {w : Nat} (hw : w ∣ 1024) (m : Word) (old : Vec) (f : Nat → Nat) {j : Nat} (hj : j < 1024 / w) :
    elem (mapEnabled m w old f) w j = if enabled m w j then f j % 2 ^ w else elem old w j := by
  unfold mapEnabled
  rw [elem_updElems hw _ _ hj]
  by_cases h : enabled m w j <;> simp [h]

theorem writesLanes_of {s : State} {i : Instr} (h : Ready i s) {d : BitVec 6} {w : Nat} (hw : w ∣ 1024) {f : Nat → Nat}
    (fe : Env → Nat → Nat) (he : exec i s = s.issueVec i d (fun e => mapEnabled e.mask w (e.v d) (fe e)))
    (hf : ∀ j, j < 1024 / w → fe (s.envOf i) j % 2 ^ w = f j % 2 ^ w) :
    WritesLanes i d w (s.mask ((i.guard?).getD 7)) f s := by
  refine writesVec_of h _ he (fun j hj => ?_)
  rw [mapEnabled_elem hw _ _ _ hj, hf j hj]
  rfl

/-- A two-source integer instruction writes its element function's values, R84. -/
theorem writesLanes_int {s : State} {i : Instr} (h : Ready i s) {d a b : BitVec 6} {t : BitVec 3} {r : Nat → Nat}
    (f : Nat → Nat → Nat → Nat) (he : exec i s = s.issueInt i d a b t f)
    (hf : ∀ j, j < 1024 / intWidth t → f (elem (s.vec a) (intWidth t) j) (elem (s.vec b) (intWidth t) j)
      (elem (s.vec d) (intWidth t) j) % 2 ^ intWidth t = r j % 2 ^ intWidth t) :
    WritesLanes i d (intWidth t) (s.mask ((i.guard?).getD 7)) r s :=
  writesLanes_of h (intWidth_dvd t)
    (fun e j => f (elem (e.v a) (intWidth t) j) (elem (e.v b) (intWidth t) j) (elem (e.v d) (intWidth t) j)) he hf

theorem writesScalar_of {s : State} {i : Instr} (h : Ready i s) {d : BitVec 6} {x : Nat} (fe : Env → Nat)
    (he : exec i s = s.issueScalar i d fe) (hf : fe (s.envOf i) % 2 ^ 64 = x % 2 ^ 64) : WritesScalar i d x s := by
  refine writesVec_of h _ he ?_
  show scalarVec _ = _
  unfold scalarVec; rw [hf]

/-! ## Flags -/

theorem core_with {a b : Core} {x : Sp Slot} {y : Sp Flags} (h : a = { b with slots := x, flagAcc := y }) (z : Sp Slot)
    (w : Sp Flags) : ({ a with slots := z, flagAcc := w } : Core) = { b with slots := z, flagAcc := w } := by
  subst h; rfl

/-- Raised flags keep what others have, R56, R58. -/
theorem TaskOnly.raise {s t : State} (h : TaskOnly s t) (hs : t.me.ship = none) (hp : t.me.part = s.me.part) (f : Flags) :
    TaskOnly s (t.raise f) := by
  unfold State.raise State.raiseFor
  split
  · exact h
  · have hme : (t.slot t.cur.core t.cur.slot).ship = none := hs
    dsimp only
    split
    · rename_i sh h1
      rw [hme] at h1
      cases h1
    have hcur := h.cur
    exact
      { cores := fun c hc => by
          rw [← h.cores c hc]
          exact State.core_setCore_ne _ (by rw [hcur]; exact Ne.symm hc) _
        core := by
          rw [hcur, State.updCore, State.core_setCore_self]
          exact core_with h.core _ _
        slots := fun n hn => by
          rw [← h.slots n hn]
          unfold State.slot
          rw [hcur, State.updCore, State.core_setCore_self]
          exact Core.slot_setSlot_ne _ (Ne.symm hn) _
        sums := fun p hp' => by
          rw [← h.sums p hp']
          rw [hcur, State.updCore, State.core_setCore_self]
          have : (t.slot s.cur.core s.cur.slot).part = s.me.part := by
            rw [← hp]; unfold State.me; rw [hcur]
          rw [this]
          exact Sp.at_set_ne _ (Ne.symm hp') _ _
        banks := fun b hb => h.banks b hb
        gangs := fun k => h.gangs k
        storage := fun k hk => State.byte_congr (show State.mem (t.updCore _ _) = s.mem from h.mem) hk
        rest := by
          have : ∀ (c : Core → Core), t.updCore t.cur.core c = { s with cores := (t.updCore t.cur.core c).cores, banks := t.banks, gangs := t.gangs } := by
            intro c
            have h2 : t.updCore t.cur.core c = { t with cores := (t.updCore t.cur.core c).cores } := rfl
            have h3 := h.rest
            generalize (t.updCore t.cur.core c).cores = x at h2
            rw [h2]
            generalize t.cores = u1 at h3
            generalize t.banks = u2 at h3 ⊢
            generalize t.gangs = u3 at h3 ⊢
            rw [h3]
          exact this _ }

theorem State.me_raise {t : State} (hs : t.me.ship = none) (f : Flags) :
    (t.raise f).me = { t.me with arch := t.me.arch.raise f } := by
  unfold State.raise State.raiseFor
  split
  · rename_i h; subst h
    have : t.me.arch.raise 0 = t.me.arch := by simp [Arch.raise]
    rw [this]
  · have hme : (t.slot t.cur.core t.cur.slot).ship = none := hs
    dsimp only
    split
    · rename_i sh h1
      rw [hme] at h1
      cases h1
    have h : ∀ (k : Core) (n : Nat) (x : Slot) (f : Sp Flags),
        ((t.setCore t.cur.core { k.setSlot n x with flagAcc := f }).core t.cur.core).slot n = x := by
      intro k n x f
      rw [State.core_setCore_self]
      exact Core.slot_setSlot_self k n x
    exact h (t.core t.cur.core) t.cur.slot { t.me with arch := t.me.arch.raise f }
      ((t.core t.cur.core).flagAcc.set t.me.part ((t.core t.cur.core).flagAcc.at t.me.part 0 ||| f))

theorem State.flagAcc_raise {t : State} (hs : t.me.ship = none) (f : Flags) :
    ((t.raise f).core t.cur.core).flagAcc.at t.me.part 0 = (t.core t.cur.core).flagAcc.at t.me.part 0 ||| f := by
  unfold State.raise State.raiseFor
  split
  · rename_i h; subst h; simp
  · have hme : (t.slot t.cur.core t.cur.slot).ship = none := hs
    dsimp only
    split
    · rename_i sh h1
      rw [hme] at h1
      cases h1
    rw [State.updCore, State.core_setCore_self]
    exact Sp.at_set_self _ _ _ _

end Sys2Proof.Machine
end

