-- ==== Sys2Proof/Laws/Floats.lean ====
section
/-!
SUPPORT. Floating-point instructions at the core that executes them itself, and the shipping of the others.
-/

namespace Sys2Proof.Machine

/-- The state after an instruction that wrote registers and raised flags. -/
theorem raised_updArch {rs ps : List Nat} {f : Arch → Arch} {s : State} (hs : s.me.ship = none) (i : Instr)
    (hf : WritesOnly rs ps f) (fl : Flags) :
    RegsOnly rs ps s (((s.issuing i).updArch f).raise fl) ∧ Raised fl s (((s.issuing i).updArch f).raise fl) ∧
      Advanced s (((s.issuing i).updArch f).raise fl) ∧
      (((s.issuing i).updArch f).raise fl).me.arch = (f (s.me.arch.setPc (s.me.arch.pc + 4)).dropPfx).raise fl := by
  have h0 := regsOnly_updArch hs i hf
  have hme := State.me_issuing_updArch s i f
  rw [State.slotIssuing_eq hs] at hme
  have hship : ((s.issuing i).updArch f).me.ship = none := by rw [hme]; exact hs
  have hpart : ((s.issuing i).updArch f).me.part = s.me.part := by rw [hme]
  have hcur := h0.task.cur
  have hr := State.me_raise hship fl
  have harch : (((s.issuing i).updArch f).raise fl).me.arch = (f (s.me.arch.setPc (s.me.arch.pc + 4)).dropPfx).raise fl := by
    rw [hr, hme]
  refine ⟨⟨h0.task.raise hship hpart fl, ?_, ?_⟩, ⟨?_, ?_⟩, ?_, harch⟩
  · unfold SlotKept
    rw [hr, hme]
  · constructor
    · intro r h; rw [harch, Arch.reg_raise, hf.regs _ _ h]; rfl
    · intro p h; rw [harch, Arch.pred_raise, hf.preds _ _ h]; rfl
    · rw [harch, Arch.raise_code, hf.code]; rfl
    · rw [harch, Arch.raise_codeTag, hf.codeTag]; rfl
    · rw [harch, Arch.raise_pfx, hf.pfx]; rfl
    · intro k hk h2
      rw [harch]
      show ((f _).sr ||| _).getLsbD k = _
      rw [hf.sr, BitVec.getLsbD_or]
      have h3 : (fl.setWidth 64 <<< 3 : Word).getLsbD k = false := by
        rw [BitVec.getLsbD_shiftLeft]
        rcases h2 with h2 | h2
        · simp [h2]
        · have : (fl.setWidth 64).getLsbD (k - 3) = false := by
            rw [BitVec.getLsbD_setWidth, BitVec.getLsbD_of_ge fl _ (by omega)]; simp
          simp [this]
      rw [h3, Bool.or_false]
      show (putBit s.me.arch.sr 8 false).getLsbD k = _
      rw [getLsbD_putBit]
      by_cases h8 : k = 8 <;> simp [h8]
    · intro k h3 h7 hk
      rw [harch]
      show ((f _).sr ||| _).getLsbD k = _
      rw [hf.sr, BitVec.getLsbD_or]
      have : (putBit s.me.arch.sr 8 false).getLsbD k = true := by
        rw [getLsbD_putBit, if_neg (by omega)]; exact hk
      show ((putBit s.me.arch.sr 8 false).getLsbD k || _) = true
      rw [this, Bool.true_or]
  · rw [harch]
    show (f _).sr ||| _ = _
    rw [hf.sr]; rfl
  · have h1 := State.flagAcc_raise hship fl
    rw [hcur, hpart] at h1
    rw [h1]
    congr 1
    have := (noFlags_updArch s i hf).2
    rw [this]
  · unfold Advanced
    rw [harch]
    show (f _).pc = _
    rw [hf.pc]; rfl

/-- A float instruction that its core executes itself, R72. -/
theorem State.issueFloat_own {s : State} {i : Instr} (h : Ready i s) (ho : shipped i = true → isBig s.cur.core = true)
    (d a b : BitVec 6) (f : VecIn → Vec × Flags) :
    s.issueFloat i d a b f = .next (((s.issuing i).updArch (fun x => x.setVec d.toNat (f ((s.envOf i).vecIn d a b)).1)).raise
      (f ((s.envOf i).vecIn d a b)).2) := by
  unfold State.issueFloat
  rw [State.issue_ready h]
  have : (shipped i && !(s.envOf i).big) = false := by
    cases hs : shipped i
    · rfl
    · have := ho hs
      show (true && !isBig s.cur.core) = false
      rw [this]; rfl
  simp only [this, Bool.false_eq_true, if_false]

theorem writesValue_float {s : State} {i : Instr} (h : Ready i s) (ho : shipped i = true → isBig s.cur.core = true)
    {d a b : BitVec 6} {f : VecIn → Vec × Flags} (he : exec i s = s.issueFloat i d a b f) :
    WritesValue i d (f ((s.envOf i).vecIn d a b)) s := by
  obtain ⟨h1, h2, h3, h4⟩ := raised_updArch h.alone i (writesOnly_setReg d.toNat ⟨(f ((s.envOf i).vecIn d a b)).1, false⟩)
    (f ((s.envOf i).vecIn d a b)).2
  refine ⟨_, he.trans (State.issueFloat_own h ho d a b f), h1, h2, h3, fun hd => ?_⟩
  show (State.me _).arch.reg _ = _
  rw [show (State.me (((s.issuing i).updArch (fun x => x.setVec d.toNat (f ((s.envOf i).vecIn d a b)).1)).raise
      (f ((s.envOf i).vecIn d a b)).2)).arch = _ from h4, Arch.reg_raise]
  exact Arch.reg_setReg_self _ (fun h0 => hd (BitVec.eq_of_toNat_eq h0)) _

/-- An instruction that writes one register and raises flags, and takes no fault. -/
theorem writesValue_regs {s : State} {i : Instr} (h : Ready i s) {d : BitVec 6} (r : Env → Vec × Flags)
    (he : exec i s = s.issueRegs i (fun e => (fun x => x.setVec d.toNat (r e).1, (r e).2))) :
    WritesValue i d (r (s.envOf i)) s := by
  obtain ⟨h1, h2, h3, h4⟩ := raised_updArch h.alone i (writesOnly_setReg d.toNat ⟨(r (s.envOf i)).1, false⟩) (r (s.envOf i)).2
  have hi : s.issueRegs i (fun e => (fun x => x.setVec d.toNat (r e).1, (r e).2)) =
      .next (((s.issuing i).updArch (fun x => x.setVec d.toNat (r (s.envOf i)).1)).raise (r (s.envOf i)).2) := by
    unfold State.issueRegs
    rw [State.issue_ready h]
  refine ⟨_, he.trans hi, h1, h2, h3, fun hd => ?_⟩
  rw [show (State.me (((s.issuing i).updArch (fun x => x.setVec d.toNat (r (s.envOf i)).1)).raise (r (s.envOf i)).2)).arch = _
    from h4, Arch.reg_raise]
  exact Arch.reg_setReg_self _ (fun h0 => hd (BitVec.eq_of_toNat_eq h0)) _

theorem fmt_width_dvd (t : BitVec 3) : (Fmt.ofCode t.toNat).w ∣ 1024 := by
  revert t; decide

/-- The elements of a float instruction's result, R29, R103. -/
theorem collect_elem {w : Nat} (hw : w ∣ 1024) (m : Word) (old : Vec) (f : Nat → FRes) {j : Nat} (hj : j < 1024 / w) :
    elem (collect w m old f).1 w j = if enabled m w j then (f j).bits % 2 ^ w else elem old w j := by
  unfold collect
  dsimp only
  rw [elem_updElems hw _ _ hj]
  simp only [List.getElem?_map, List.getElem?_range hj, Option.map_some, Option.getD_some]
  by_cases h : enabled m w j <;> simp [h]

/-- The flags of a float instruction's result, R56. -/
theorem collect_flags (w : Nat) (m : Word) (old : Vec) (f : Nat → FRes) :
    (collect w m old f).2 = (List.range (1024 / w)).foldl (fun z j => if enabled m w j then z ||| (f j).flags else z) 0 := by
  unfold collect
  dsimp only
  rw [List.foldl_map]
  congr 1
  funext z j
  by_cases h : enabled m w j <;> simp [h]

theorem writesFloats_of_value {s : State} {i : Instr} {d : BitVec 6} {w : Nat} (hw : w ∣ 1024) {m : Word} {f g : Nat → FRes}
    (h : WritesValue i d (collect w m (s.vec d) f) s) (hf : ∀ j, f j = g j) : WritesFloats i d w m g s := by
  have hfg : f = g := funext hf
  subst hfg
  obtain ⟨t, h1, h2, h3, h4, h5⟩ := h
  refine ⟨t, h1, h2, h4, by rw [← collect_flags w m (s.vec d) f]; exact h3, fun hd => ?_⟩
  have := h5 hd
  refine ⟨by rw [this], fun j hj => ?_⟩
  unfold State.vec
  rw [this]
  exact collect_elem hw m (s.vec d) f hj

/-- An element-by-element float instruction at the core that executes it, R103. -/
theorem writesFloats_of {s : State} {i : Instr} (h : Ready i s) (ho : shipped i = true → isBig s.cur.core = true)
    {d a b : BitVec 6} {t : BitVec 3} {k : Fmt → Rm → Nat → Nat → Nat → FRes}
    (he : exec i s = s.issueFloat i d a b (fun o => floatMap t o (fun f x y z => k f o.rm x y z))) :
    WritesFloats i d (Fmt.ofCode t.toNat).w (s.mask ((i.guard?).getD 7)) (fun j => k (Fmt.ofCode t.toNat) s.me.arch.rm
      (elem (s.vec a) (Fmt.ofCode t.toNat).w j) (elem (s.vec b) (Fmt.ofCode t.toNat).w j)
      (elem (s.vec d) (Fmt.ofCode t.toNat).w j)) s := by
  refine writesFloats_of_value (f := fun j => k (Fmt.ofCode t.toNat) s.me.arch.rm
    (elem (s.vec a) (Fmt.ofCode t.toNat).w j) (elem (s.vec b) (Fmt.ofCode t.toNat).w j)
    (elem (s.vec d) (Fmt.ofCode t.toNat).w j)) (fmt_width_dvd t) ?_ (fun _ => rfl)
  have h1 := writesValue_float h ho he
  unfold floatMap at h1
  exact h1

end Sys2Proof.Machine
end

