-- ==== Sys2Proof/Laws/Operations.lean ====
section
/-!
SUPPORT. What sending a memory operation can do: the operation's entry in the table, its task's slot, the other tasks, and
the bytes of storage.
-/

namespace Sys2Proof.Machine

/-! ## What a storage write keeps beside memory -/

/-- Two states whose tasks, and whose cores beyond their marks, are the same. -/
structure SameCores (s t : State) : Prop where
  slots : ∀ c n, t.slot c n = s.slot c n
  rest : ∀ c, (t.core c).rest = (s.core c).rest

theorem SameCores.refl (s : State) : SameCores s s := ⟨fun _ _ => rfl, fun _ => rfl⟩
theorem SameCores.trans {s t u : State} (h : SameCores s t) (k : SameCores t u) : SameCores s u :=
  ⟨fun c n => (k.slots c n).trans (h.slots c n), fun c => (k.rest c).trans (h.rest c)⟩
theorem SameCores.of_cores {s t : State} (h : t.cores = s.cores) : SameCores s t :=
  ⟨fun _ _ => State.slot_congr h _ _, fun _ => by rw [State.core_congr h]⟩

theorem SameCores.raiseMark (s : State) (k n : Nat) : SameCores s (s.raiseMark k n) := by
  unfold State.raiseMark
  split
  · constructor
    · intro c m
      unfold State.slot State.updCore
      by_cases h : keyCore k = c
      · subst h; rw [State.core_setCore_self]; rfl
      · rw [State.core_setCore_ne _ h]
    · intro c
      unfold State.updCore
      by_cases h : keyCore k = c
      · subst h; rw [State.core_setCore_self]; rfl
      · rw [State.core_setCore_ne _ h]
  · exact .refl s

/-- Of a state: its operations, what parks and where the machine stands, which no write of storage changes. -/
def State.tables (s : State) : Sp Op × List (Nat × Nat × Nat) × Who := (s.ops, s.parked, s.cur)

theorem foldl_same_tables {β : Type} {f : State → β → State} (hf : ∀ s b, (f s b).tables = s.tables) (l : List β) (s : State) :
    (l.foldl f s).tables = s.tables := foldl_same hf l s

@[simp] theorem State.tables_setTag (s : State) (k : Nat) (b : Bool) : (s.setTag k b).tables = s.tables := rfl
@[simp] theorem State.tables_setFull (s : State) (k : Nat) (b : Bool) : (s.setFull k b).tables = s.tables := rfl
theorem State.tables_setViewByte (s : State) (c o : Nat) (b : Byte) : (s.setViewByte c o b).tables = s.tables := by
  unfold State.setViewByte
  split
  · rfl
  · split <;> rfl
theorem State.tables_putByte (s : State) (k : Nat) (b : Byte) : (s.putByte k b).tables = s.tables := by
  unfold State.putByte
  split
  · exact State.tables_setViewByte _ _ _ _
  · rfl
theorem State.tables_heal (s : State) (k n m : Nat) : (s.heal k n m).tables = s.tables := by
  unfold State.heal
  exact foldl_same (g := State.tables) (fun t i => by dsimp only; (repeat' split) <;> rfl) _ _
theorem State.tables_raiseMark (s : State) (k n : Nat) : (s.raiseMark k n).tables = s.tables := by
  unfold State.raiseMark; split <;> rfl
theorem State.tables_keepStale (s : State) (k n : Nat) : (s.keepStale k n).tables = s.tables := by
  unfold State.keepStale; split <;> rfl
theorem State.tables_writeControl (s : State) (k n m d : Nat) : (s.writeControl k n m d).tables = s.tables :=
  congrArg (·.2) (State.kept_writeControl ..)
theorem State.tables_writeMem (s : State) (k n m d : Nat) : (s.writeMem k n m d).tables = s.tables := by
  unfold State.writeMem
  dsimp only
  split
  · rfl
  · split
    · exact State.tables_writeControl ..
    · refine (foldl_same (g := State.tables) (fun t i => by first | (split <;> rfl) | (dsimp only; split <;> rfl)) _ _).trans ?_
      unfold State.putBytes
      refine (foldl_same (g := State.tables) (fun t i => by split; exact State.tables_putByte _ _ _; rfl) _ _).trans ?_
      rw [State.tables_heal, State.tables_raiseMark, State.tables_keepStale]
theorem State.tables_store (s : State) (k n d : Nat) : (s.store k n d).tables = s.tables := State.tables_writeMem _ _ _ _ _
theorem State.tables_setWords (s : State) (k n w : Nat) (b : Bool) : (s.setWords k n w b).tables = s.tables := by
  unfold State.setWords
  exact foldl_same (g := State.tables) (fun t i => by first | (split <;> rfl) | (dsimp only; split <;> rfl)) _ _

theorem State.cores_heal (s : State) (k n m : Nat) : (s.heal k n m).cores = s.cores := by
  unfold State.heal
  exact foldl_same (g := State.cores) (fun t i => by dsimp only; (repeat' split) <;> rfl) _ _
theorem State.cores_keepStale (s : State) (k n : Nat) : (s.keepStale k n).cores = s.cores := by
  unfold State.keepStale; split <;> rfl
theorem State.cores_setWords (s : State) (k n w : Nat) (b : Bool) : (s.setWords k n w b).cores = s.cores := by
  unfold State.setWords
  exact foldl_same (g := State.cores) (fun t i => by first | (split <;> rfl) | (dsimp only; split <;> rfl)) _ _

theorem keyIsView_five {k : Nat} (h : keyIsView k = false) : (keyIsLocal k && keySpace k == 5) = false := by
  revert h; unfold keyIsView; cases keyIsLocal k <;> cases (keySpace k == 5) <;> simp
theorem keyIsView_eight {k : Nat} (h : keyIsView k = false) : (keyIsLocal k && keySpace k == 8) = false := by
  revert h; unfold keyIsView; cases keyIsLocal k <;> cases (keySpace k == 8) <;> simp

theorem State.cores_putBytes (s : State) (k n m d : Nat) (h : ∀ x, k ≤ x → x < k + n → keyIsView x = false) :
    (s.putBytes k n m d).cores = s.cores := by
  unfold State.putBytes
  induction n with
  | zero => rfl
  | succ n ih =>
    rw [List.range_succ, List.foldl_append, List.foldl_cons, List.foldl_nil]
    have ih := ih (fun x h1 h2 => h x h1 (by omega))
    split
    · unfold State.putByte
      rw [keyIsView_five (h (k + n) (by omega) (by omega))]
      exact ih
    · exact ih

theorem SameCores.writeMem (s : State) (k n m d : Nat) (h0 : keyIsView k = false)
    (h : ∀ x, k ≤ x → x < k + n → keyIsView x = false) : SameCores s (s.writeMem k n m d) := by
  unfold State.writeMem
  dsimp only
  split
  · exact .refl s
  · rw [keyIsView_eight h0]
    simp only [Bool.false_eq_true, if_false]
    refine SameCores.trans (SameCores.raiseMark s k n) (SameCores.of_cores ?_)
    refine (foldl_same (g := State.cores) (fun t i => by first | (split <;> rfl) | (dsimp only; split <;> rfl)) _ _).trans ?_
    rw [State.cores_putBytes _ _ _ _ _ h, State.cores_heal]
    unfold State.raiseMark State.keepStale
    by_cases h1 : (keyIsLocal k && keySpace k == 0) = true
    · rw [if_pos h1, if_pos h1]; split <;> rfl
    · rw [if_neg h1, if_neg h1]; split <;> rfl

/-! ## Bytes -/

theorem BytesKept.refl (p : Nat → Prop) (s : State) : BytesKept p s s := fun _ _ _ => rfl
theorem BytesKept.trans {p : Nat → Prop} {s t u : State} (h : BytesKept p s t) (k : BytesKept p t u) : BytesKept p s u :=
  fun x hx hp => (k x hx hp).trans (h x hx hp)
theorem BytesKept.of_mem {p : Nat → Prop} {s t : State} (h : t.mem = s.mem) : BytesKept p s t :=
  fun _ hx _ => State.byte_congr h hx
theorem BytesKept.mono {p q : Nat → Prop} {s t : State} (h : BytesKept p s t) (k : ∀ x, p x → q x) : BytesKept q s t :=
  fun x hx hp => h x hx (fun hq => hp (k x hq))

theorem BytesKept.writeMem (s : State) (k n m d : Nat) (h0 : keyIsView k = false)
    (h : ∀ x, k ≤ x → x < k + n → keyIsView x = false) : BytesKept (fun x => k ≤ x ∧ x < k + n) s (s.writeMem k n m d) := by
  intro x hx hp
  by_cases hn : 0 < n
  · rw [State.byte_writeMem s k n m d hx (fun i hi => h _ (by omega) (by omega)) hn, if_neg (fun hc => hp ⟨hc.1, hc.2.1⟩)]
  · obtain rfl : n = 0 := by omega
    unfold State.writeMem
    dsimp only
    split
    · rfl
    · rw [keyIsView_eight h0]
      simp only [Bool.false_eq_true, if_false]
      refine State.byte_congr ?_ hx
      refine (foldl_same (g := State.mem) (fun t i => by first | (split <;> rfl) | (dsimp only; split <;> rfl)) _ _).trans ?_
      simp [State.putBytes]

/-! ## Performing an element -/

theorem State.mem_setWords (s : State) (k n w : Nat) (b : Bool) : (s.setWords k n w b).mem = s.mem := by
  unfold State.setWords
  exact foldl_same (g := State.mem) (fun t i => by first | (split <;> rfl) | (dsimp only; split <;> rfl)) _ _

theorem State.fetchElem_request (s : State) (e : Elem) (f : Option Elem) :
    (s.fetchElem e f).request = e.request ∧ (s.fetchElem e f).key = e.key := by
  unfold State.fetchElem
  split
  · split <;> exact ⟨rfl, rfl⟩
  · exact ⟨rfl, rfl⟩

theorem State.performElem_request (s : State) (e : Elem) (f : Option Elem) :
    (s.performElem e f).1.request = e.request ∧ (s.performElem e f).1.key = e.key := by
  unfold State.performElem
  split
  · exact State.fetchElem_request _ _ _
  · exact ⟨rfl, rfl⟩
  · dsimp only
    split
    · exact State.fetchElem_request _ _ _
    · split <;> exact State.fetchElem_request _ _ _
  · exact State.fetchElem_request _ _ _
  · exact State.fetchElem_request _ _ _
  all_goals exact ⟨rfl, rfl⟩

theorem State.tables_performElem (s : State) (e : Elem) (f : Option Elem) : (s.performElem e f).2.tables = s.tables := by
  unfold State.performElem
  split
  · rfl
  · dsimp only
    split
    · rw [State.tables_setTag, State.tables_writeMem]
    · rw [State.tables_writeMem]
  · dsimp only
    split
    · rfl
    · split
      · rfl
      · dsimp only
        split
        · rw [State.tables_setTag, State.tables_store]
        · rw [State.tables_store]
  · exact State.tables_setWords _ _ _ _ _
  · rfl
  · rw [State.tables_setWords, State.tables_writeMem]
  · rw [State.tables_setWords, State.tables_writeMem]
  · exact State.tables_setWords _ _ _ _ _
  · exact State.tables_setWords _ _ _ _ _
  · rfl

theorem SameCores.performElem (s : State) (e : Elem) (f : Option Elem) (h : e.writes = true → e.plain) :
    SameCores s (s.performElem e f).2 := by
  have key : ∀ m d, e.plain → SameCores s (s.writeMem e.key e.n m d) := fun m d hp => .writeMem s _ _ _ _ hp.1 hp.2
  have tag : ∀ t : State, SameCores t (t.setTag e.key true) := fun t => .of_cores rfl
  have words : ∀ (t : State) w b, SameCores t (t.setWords e.key e.n w b) := fun t w b => .of_cores (State.cores_setWords _ _ _ _ _)
  unfold State.performElem
  split <;> rename_i ha
  · exact .refl s
  · have hp := h (by simp [Elem.writes, ha])
    dsimp only
    split
    · exact (key _ _ hp).trans (tag _)
    · exact key _ _ hp
  · have hp := h (by simp [Elem.writes, ha])
    dsimp only
    split
    · exact .refl s
    · split
      · exact .refl s
      · dsimp only
        split
        · exact (key _ _ hp).trans (tag _)
        · exact key _ _ hp
  · exact words _ _ _
  · exact .refl s
  · exact (key _ _ (h (by simp [Elem.writes, ha]))).trans (words _ _ _)
  · exact (key _ _ (h (by simp [Elem.writes, ha]))).trans (words _ _ _)
  · exact words _ _ _
  · exact words _ _ _
  · exact .refl s

/-- The bytes that an element writes. -/
def Elem.span (e : Elem) (k : Nat) : Prop := e.writes = true ∧ e.key ≤ k ∧ k < e.key + e.n

theorem BytesKept.performElem (s : State) (e : Elem) (f : Option Elem) (h : e.writes = true → e.plain) :
    BytesKept e.span s (s.performElem e f).2 := by
  have key : ∀ m d, e.writes = true → BytesKept e.span s (s.writeMem e.key e.n m d) := fun m d hw =>
    (BytesKept.writeMem s _ _ _ _ (h hw).1 (h hw).2).mono (fun x hx => ⟨hw, hx⟩)
  have tag : ∀ t : State, BytesKept e.span t (t.setTag e.key true) := fun t => .of_mem rfl
  have words : ∀ (t : State) w b, BytesKept e.span t (t.setWords e.key e.n w b) := fun t w b => .of_mem (State.mem_setWords _ _ _ _ _)
  unfold State.performElem
  split <;> rename_i ha
  · exact .refl _ s
  · have hp : e.writes = true := by simp [Elem.writes, ha]
    dsimp only
    split
    · exact (key _ _ hp).trans (tag _)
    · exact key _ _ hp
  · have hp : e.writes = true := by simp [Elem.writes, ha]
    dsimp only
    split
    · exact .refl _ s
    · split
      · exact .refl _ s
      · dsimp only
        split
        · exact (key _ _ hp).trans (tag _)
        · exact key _ _ hp
  · exact words _ _ _
  · exact .refl _ s
  · exact (key _ _ (by simp [Elem.writes, ha])).trans (words _ _ _)
  · exact (key _ _ (by simp [Elem.writes, ha])).trans (words _ _ _)
  · exact words _ _ _
  · exact words _ _ _
  · exact .refl _ s

/-! ## The table of operations -/

/-- An operation but for how far its elements have come. -/
def Op.asked {β : Type} (g : Elem → β) (o : Op) : Op × List β := ({ o with elems := [] }, o.elems.map g)

/-- An operation of the table, but for how far its elements have come. -/
def State.asked {β : Type} (g : Elem → β) (s : State) (id : Nat) : Option (Op × List β) := (s.ops.look id).map (Op.asked g)

theorem List.map_set_same {α β : Type} (g : α → β) (l : List α) (j : Nat) (x : α) (h : ∀ y, l[j]? = some y → g x = g y) :
    (l.set j x).map g = l.map g := by
  induction l generalizing j with
  | nil => simp
  | cons a r ih =>
    cases j with
    | zero => simp [h a (by simp)]
    | succ j => simp [ih j (fun y hy => h y (by simpa using hy))]

theorem State.asked_setElemOf {β : Type} (g : Elem → β) (s : State) (k j : Nat) (f : Elem) (id : Nat)
    (h : ∀ o e, s.ops.look k = some o → o.elems[j]? = some e → g f = g e) : (s.setElemOf k j f).asked g id = s.asked g id := by
  unfold State.setElemOf
  split
  · rfl
  · rename_i o ho
    unfold State.asked
    rw [Sp.look_set]
    split
    · rename_i hk; subst hk
      rw [ho]
      simp only [Option.map_some, Op.asked]
      rw [List.map_set_same g _ _ _ (fun y hy => h o y ho hy)]
    · rfl

theorem State.finishOp_ex (s : State) (id : Nat) : ∃ d, s.finishOp id = { s with due := d } := by
  unfold State.finishOp State.push
  split
  · exact ⟨s.due, rfl⟩
  · split
    · split
      · exact ⟨_, rfl⟩
      · split
        · exact ⟨_, rfl⟩
        · exact ⟨s.due, rfl⟩
    · exact ⟨s.due, rfl⟩

theorem State.setElemOf_ex (s : State) (k j : Nat) (f : Elem) : ∃ o, s.setElemOf k j f = { s with ops := o } := by
  unfold State.setElemOf
  split
  · exact ⟨s.ops, rfl⟩
  · exact ⟨_, rfl⟩

/-- What `tables` says of the fields that a storage write keeps. -/
theorem State.ops_of_tables {s t : State} (h : t.tables = s.tables) : t.ops = s.ops := congrArg (·.1) h
theorem State.parked_of_tables {s t : State} (h : t.tables = s.tables) : t.parked = s.parked := congrArg (·.2.1) h
theorem State.cur_of_tables {s t : State} (h : t.tables = s.tables) : t.cur = s.cur := congrArg (·.2.2) h

theorem State.healBy_ex (s : State) (id : Nat) (e : Elem) : ∃ b, s.healBy id e = { s with bad := b } := by
  unfold State.healBy
  dsimp only
  split <;> split
  · exact ⟨_, rfl⟩
  · exact ⟨s.bad, rfl⟩
  · exact ⟨_, rfl⟩
  · exact ⟨s.bad, rfl⟩

theorem State.performAt_ex (s : State) (id j : Nat) (e : Elem) (f : Option Elem) (g : Stage) :
    ∃ o d b, s.performAt id j e f g = { (s.performElem e f).2 with ops := o, due := d, bad := b } := by
  unfold State.performAt
  dsimp only
  obtain ⟨b, hb⟩ := (s.performElem e f).2.healBy_ex id e
  rw [hb]
  obtain ⟨o, ho⟩ := ({ (s.performElem e f).2 with bad := b } : State).setElemOf_ex id j { (s.performElem e f).1 with stage := g }
  rw [ho]
  obtain ⟨d, hd⟩ := ({ (s.performElem e f).2 with ops := o, bad := b } : State).finishOp_ex id
  exact ⟨o, d, b, hd⟩

theorem State.asked_performAt {β : Type} (g : Elem → β) (s : State) (k j : Nat) (e : Elem) (f : Option Elem) (st : Stage) (id : Nat)
    (hg : ∀ x y : Elem, x.request = y.request → x.key = y.key → g x = g y)
    (h : ∀ o x, s.ops.look k = some o → o.elems[j]? = some x → g e = g x) :
    (s.performAt k j e f st).asked g id = s.asked g id := by
  have hp := State.tables_performElem s e f
  have hr := State.performElem_request s e f
  unfold State.performAt
  dsimp only
  obtain ⟨b, hb⟩ := (s.performElem e f).2.healBy_ex k e
  rw [hb]
  obtain ⟨d, hd⟩ := (({ (s.performElem e f).2 with bad := b } : State).setElemOf k j { (s.performElem e f).1 with stage := st }).finishOp_ex k
  rw [hd]
  refine (State.asked_setElemOf g _ k j _ id (fun o x ho hx => ?_)).trans ?_
  · rw [State.ops_of_tables hp] at ho
    rw [← h o x ho hx]
    exact hg _ _ hr.1 hr.2
  · unfold State.asked; rw [State.ops_of_tables hp]

theorem SameCores.performAt (s : State) (id j : Nat) (e : Elem) (f : Option Elem) (st : Stage) (h : e.writes = true → e.plain) :
    SameCores s (s.performAt id j e f st) := by
  obtain ⟨o, d, b, he⟩ := s.performAt_ex id j e f st
  rw [he]
  exact (SameCores.performElem s e f h).trans (.of_cores rfl)

theorem BytesKept.performAt (s : State) (id j : Nat) (e : Elem) (f : Option Elem) (st : Stage) (h : e.writes = true → e.plain) :
    BytesKept e.span s (s.performAt id j e f st) := by
  obtain ⟨o, d, b, he⟩ := s.performAt_ex id j e f st
  rw [he]
  exact (BytesKept.performElem s e f h).trans (.of_mem rfl)

theorem State.performAt_parked (s : State) (id j : Nat) (e : Elem) (f : Option Elem) (st : Stage) :
    (s.performAt id j e f st).parked = s.parked := by
  obtain ⟨o, d, b, he⟩ := s.performAt_ex id j e f st
  rw [he]
  show (s.performElem e f).2.parked = s.parked
  exact State.parked_of_tables (State.tables_performElem s e f)

theorem State.performAt_cur (s : State) (id j : Nat) (e : Elem) (f : Option Elem) (st : Stage) :
    (s.performAt id j e f st).cur = s.cur := by
  obtain ⟨o, d, b, he⟩ := s.performAt_ex id j e f st
  rw [he]
  show (s.performElem e f).2.cur = s.cur
  exact State.cur_of_tables (State.tables_performElem s e f)

/-! ## Parked requests -/

theorem State.asked_ops {β : Type} {g : Elem → β} {s t : State} (h : t.ops = s.ops) (id : Nat) : t.asked g id = s.asked g id := by
  unfold State.asked; rw [h]

theorem State.pushOnce_ops (s : State) (i : Instr) : (s.pushOnce i).ops = s.ops := by
  unfold State.pushOnce; split <;> rfl

theorem State.pushOnce_cur (s : State) (i : Instr) : (s.pushOnce i).cur = s.cur := by
  unfold State.pushOnce; split <;> rfl

theorem State.asked_serve {β : Type} (g : Elem → β) (hg : ∀ x y : Elem, x.request = y.request → x.key = y.key → g x = g y)
    (place n : Nat) (s : State) (id : Nat) : (s.serve place n).asked g id = s.asked g id := by
  induction n generalizing s with
  | zero => rfl
  | succ n ih =>
    unfold State.serve
    dsimp only
    split
    · rfl
    · rename_i p hp
      split
      · refine (ih _).trans ?_
        exact State.asked_ops rfl id
      · rename_i o ho
        split
        · refine (ih _).trans ?_
          exact State.asked_ops rfl id
        · rename_i e he
          split
          · exact State.asked_ops (State.pushOnce_ops ..) id
          refine (ih _).trans ?_
          refine (State.asked_performAt g _ _ _ _ _ _ _ hg ?_).trans (State.asked_ops rfl id)
          intro o' x ho' hx
          rw [ho] at ho'
          obtain rfl := Option.some.inj ho'
          rw [he] at hx
          exact congrArg g (Option.some.inj hx)

theorem State.serve_nil (s : State) (place n : Nat) (h : s.parked = []) : s.serve place n = s := by
  cases n with
  | zero => rfl
  | succ n => unfold State.serve; simp [h]

theorem State.serve_cur (place n : Nat) (s : State) : (s.serve place n).cur = s.cur := by
  induction n generalizing s with
  | zero => rfl
  | succ n ih =>
    unfold State.serve
    dsimp only
    split
    · rfl
    · split
      · rw [ih]
      · split
        · rw [ih]
        · split
          · exact State.pushOnce_cur ..
          · rw [ih, State.performAt_cur]

/-! ## Sending an element -/

theorem State.claim_ex (s : State) (e : Elem) : ∃ p, (s.claim e).2 = { s with pools := p } := by
  unfold State.claim
  split
  · dsimp only
    split
    · exact ⟨s.pools, rfl⟩
    · exact ⟨_, rfl⟩
  · exact ⟨s.pools, rfl⟩

theorem State.claim_request (s : State) (e : Elem) : (s.claim e).1.request = e.request := by
  unfold State.claim
  split
  · dsimp only
    split <;> rfl
  · rfl

theorem State.claim_key (s : State) (e : Elem) (h : e.inQueue = false) : s.claim e = (e, s) := by
  unfold State.claim
  unfold Elem.inQueue at h
  rw [h]
  rfl

theorem Elem.writes_request {x y : Elem} (h : x.request = y.request) : x.writes = y.writes := by
  simp only [Elem.request, Prod.mk.injEq] at h
  simp [Elem.writes, h.2.2.2]
theorem Elem.fullEmpty_request {x y : Elem} (h : x.request = y.request) : x.fullEmpty = y.fullEmpty := by
  simp only [Elem.request, Prod.mk.injEq] at h
  simp [Elem.fullEmpty, h.2.2.2]

/-- A queue's word is no view. -/
theorem queueKey_plain (s : State) (e : Elem) (h : e.writes = true → e.plain) (hq : e.inQueue = false) :
    (s.claim e).1.writes = true → (s.claim e).1.plain := by
  rw [State.claim_key s e hq]; exact h

theorem State.asked_performLocal {β : Type} (g : Elem → β) (s t : State) (k j : Nat) (o : Op) (e : Elem) (id : Nat)
    (hg : ∀ x y : Elem, x.request = y.request → x.key = y.key → g x = g y)
    (hc : g (s.claim e).1 = g e)
    (ho : s.ops.look k = some o) (he : o.elems[j]? = some e) (h : s.performLocal k j o e = some t) : t.asked g id = s.asked g id := by
  obtain ⟨p, hp⟩ := s.claim_ex e
  unfold State.performLocal at h
  dsimp only at h
  have hops : (s.claim e).2.ops = s.ops := by rw [hp]
  have hs : (s.claim e).2.asked g id = s.asked g id := by unfold State.asked; rw [hops]
  have hx : ∀ o' x, (s.claim e).2.ops.look k = some o' → o'.elems[j]? = some x → g (s.claim e).1 = g x := by
    intro o' x h1 h2
    rw [hops, ho] at h1
    obtain rfl := Option.some.inj h1
    rw [he] at h2
    rw [hc, Option.some.inj h2]
  split at h
  · split at h
    · cases h
    · obtain rfl := Option.some.inj h
      rw [← hs]
      exact State.asked_setElemOf g _ k j _ id (fun o' x h1 h2 => (hg { (s.claim e).1 with stage := .parked } (s.claim e).1 rfl rfl).trans (hx o' x h1 h2))
  · obtain rfl := Option.some.inj h
    rw [← hs]
    split
    · rw [State.asked_serve g hg, State.asked_performAt g _ _ _ _ _ _ _ hg hx]
    · rw [State.asked_performAt g _ _ _ _ _ _ _ hg hx]

/-- What performing an element at local storage keeps: all slots and the cores, and every byte but those it writes. -/
theorem State.performLocal_keeps (s t : State) (k j : Nat) (o : Op) (e : Elem) (hq : e.inQueue = false)
    (hpl : e.writes = true → e.plain) (hfe : s.parked = [] ∨ e.fullEmpty = false) (h : s.performLocal k j o e = some t) :
    SameCores s t ∧ BytesKept e.span s t := by
  unfold State.performLocal at h
  rw [State.claim_key s e hq] at h
  dsimp only at h
  split at h
  · split at h
    · cases h
    · obtain rfl := Option.some.inj h
      obtain ⟨x, hx⟩ := s.setElemOf_ex k j { e with stage := .parked }
      rw [hx]
      exact ⟨.of_cores rfl, .of_mem rfl⟩
  · obtain rfl := Option.some.inj h
    split
    · rename_i hf
      rcases hfe with hfe | hfe
      · rw [State.serve_nil _ _ _ ((State.performAt_parked _ _ _ _ _ _).trans hfe)]
        exact ⟨.performAt _ _ _ _ _ _ hpl, .performAt _ _ _ _ _ _ hpl⟩
      · rw [hfe] at hf; cases hf
    · exact ⟨.performAt _ _ _ _ _ _ hpl, .performAt _ _ _ _ _ _ hpl⟩

/-- Without a full/empty element no request is parked or served; with none parked at most the element itself parks. -/
theorem State.performLocal_cur (s t : State) (k j : Nat) (o : Op) (e : Elem) (h : s.performLocal k j o e = some t) : t.cur = s.cur := by
  obtain ⟨p, hp⟩ := s.claim_ex e
  unfold State.performLocal at h
  dsimp only at h
  have hc : (s.claim e).2.cur = s.cur := by rw [hp]
  split at h
  · split at h
    · cases h
    · obtain rfl := Option.some.inj h
      obtain ⟨x, hx⟩ := (s.claim e).2.setElemOf_ex k j { (s.claim e).1 with stage := .parked }
      rw [hx]; exact hc
  · obtain rfl := Option.some.inj h
    split
    · rw [State.serve_cur, State.performAt_cur, hc]
    · rw [State.performAt_cur, hc]

/-! ## Sending the elements of an operation -/

theorem State.accessBank_ex {s t : State} {k : Nat} (h : s.accessBank k = some t) : ∃ b, t = { s with banks := b } := by
  unfold State.accessBank at h
  split at h
  · cases h; exact ⟨s.banks, rfl⟩
  · dsimp only at h
    split at h
    · cases h
    · cases h
      split
      · exact ⟨_, rfl⟩
      · exact ⟨s.banks, rfl⟩

/-- Sending an element performs it at the core's own storage, or only puts its request on its way. -/
theorem State.sendElem_cases (s : State) (c id j : Nat) :
    (∃ d, s.sendElem c id j = { s with due := d }) ∨
    ∃ b o e, s.ops.look id = some o ∧ o.elems[j]? = some e ∧ ownAddress c e.va = true ∧
      ({ s with banks := b } : State).performLocal id j o e = some (s.sendElem c id j) := by
  unfold State.sendElem
  split
  · exact .inl ⟨s.due, rfl⟩
  · rename_i o ho
    split
    · exact .inl ⟨s.due, rfl⟩
    · rename_i e he
      split
      · exact .inl ⟨_, rfl⟩
      · split
        · rename_i hc
          cases hp : (s.accessBank e.key).bind (fun t => t.performLocal id j o e) with
          | none => exact .inl ⟨_, rfl⟩
          | some t =>
            simp only [Bool.and_eq_true] at hc
            obtain ⟨u, hu, hp⟩ := Option.bind_eq_some_iff.mp hp
            obtain ⟨b, rfl⟩ := State.accessBank_ex hu
            exact .inr ⟨b, o, e, ho, he, hc.1.1, hp⟩
        · exact .inl ⟨_, rfl⟩

theorem State.asked_some {β : Type} {g : Elem → β} {s : State} {id : Nat} {q : Op × List β} (h : s.asked g id = some q) :
    ∃ o, s.ops.look id = some o ∧ ({ o with elems := [] } : Op) = q.1 ∧ o.elems.map g = q.2 := by
  unfold State.asked at h
  obtain ⟨o, ho, h⟩ := Option.map_eq_some_iff.mp h
  subst h
  exact ⟨o, ho, rfl, rfl⟩

/-- An element of an operation of the table, by what it asks for. -/
theorem State.asked_elem {β : Type} {g : Elem → β} {s : State} {id j : Nat} {o q : Op} {e : Elem}
    (h : s.asked g id = some (o.asked g)) (hq : s.ops.look id = some q) (he : q.elems[j]? = some e) :
    ∃ x, o.elems[j]? = some x ∧ g e = g x := by
  obtain ⟨q', hq', -, hm⟩ := State.asked_some h
  rw [hq] at hq'
  obtain rfl := Option.some.inj hq'
  have := congrArg (fun l => l[j]?) hm
  simp only [List.getElem?_map, he, Option.map_some, Op.asked] at this
  obtain ⟨x, hx, hg⟩ := Option.map_eq_some_iff.mp this.symm
  exact ⟨x, hx, hg.symm⟩

/-- An element's request says whether it is plain once its key is the same. -/
theorem Elem.plain_request {x y : Elem} (h : x.request = y.request) (k : x.key = y.key) : x.plain ↔ y.plain := by
  simp only [Elem.request, Prod.mk.injEq] at h
  unfold Elem.plain
  rw [k, h.2.1]

theorem Elem.span_request {x y : Elem} (h : x.request = y.request) (k : x.key = y.key) : x.span = y.span := by
  funext i
  have hw := Elem.writes_request h
  simp only [Elem.request, Prod.mk.injEq] at h
  unfold Elem.span
  rw [k, h.2.1, hw]

/-- An operation none of whose elements parks where another could serve it: it has one element at most, or none of them
touches full bits. -/
def Op.simple (o : Op) : Prop := o.elems.length ≤ 1 ∨ ∀ e ∈ o.elems, e.fullEmpty = false

/-- What sending the elements of an operation has done so far. -/
structure Sending (id : Nat) (o : Op) (u v : State) : Prop where
  cur : v.cur = u.cur
  request : v.asked Elem.request id = some (o.asked Elem.request)
  keys : o.calm u → v.asked Elem.key id = some (o.asked Elem.key)
  keeps : o.calm u → SameCores u v ∧ BytesKept (written (o.elems.filter (fun e => ownAddress u.cur.core e.va))) u v

theorem State.asked_key_request {s : State} {id j : Nat} {o q : Op} {e : Elem}
    (h : s.asked Elem.request id = some (o.asked Elem.request)) (hk : s.asked Elem.key id = some (o.asked Elem.key))
    (hq : s.ops.look id = some q) (he : q.elems[j]? = some e) :
    ∃ x ∈ o.elems, e.request = x.request ∧ e.key = x.key := by
  obtain ⟨x, hx, h1⟩ := State.asked_elem h hq he
  obtain ⟨y, hy, h2⟩ := State.asked_elem hk hq he
  rw [hx] at hy
  obtain rfl := Option.some.inj hy
  exact ⟨x, List.mem_of_getElem? hx, h1, h2⟩

theorem Elem.inQueue_key {x y : Elem} (k : x.key = y.key) : x.inQueue = y.inQueue := by unfold Elem.inQueue; rw [k]
theorem Elem.va_request {x y : Elem} (h : x.request = y.request) : x.va = y.va := by
  simp only [Elem.request, Prod.mk.injEq] at h
  exact h.1

theorem State.claim_banks (s : State) (b : Sp Bank) (e : Elem) : (({ s with banks := b } : State).claim e).1 = (s.claim e).1 := by
  unfold State.claim
  dsimp only
  split
  · split <;> rfl
  · rfl

theorem Sending.step {id j : Nat} {o : Op} {u v : State} (h : Sending id o u v)
    (hp : u.parked = [] → (∀ e ∈ o.elems, e.fullEmpty = false) ∨ v.parked = []) : Sending id o u (v.sendElem u.cur.core id j) := by
  rcases State.sendElem_cases v u.cur.core id j with ⟨d, hd⟩ | ⟨b, q, e, hq, he, ho, hpl⟩
  · rw [hd]
    refine ⟨h.cur, h.request, h.keys, fun a => ?_⟩
    obtain ⟨k1, k2⟩ := h.keeps a
    exact ⟨k1.trans (.of_cores rfl), k2.trans (.of_mem rfl)⟩
  · refine ⟨(State.performLocal_cur _ _ _ _ _ _ hpl).trans h.cur, ?_, fun a => ?_, fun a => ?_⟩
    · rw [← h.request]
      exact State.asked_performLocal Elem.request { v with banks := b } _ id j q e id (fun x y k _ => k) (State.claim_request _ e) hq he hpl
    all_goals
      obtain ⟨x, hx, h1, h2⟩ := State.asked_key_request h.request (h.keys a) hq he
      have hown : ownAddress u.cur.core x.va = true := by rw [← Elem.va_request h1]; exact ho
      obtain ⟨a1, a2, a3⟩ := a x hx hown
    · rw [← h.keys a]
      refine State.asked_performLocal Elem.key { v with banks := b } _ id j q e id (fun x y _ k => k) ?_ hq he hpl
      rw [State.claim_key _ e ((Elem.inQueue_key h2).trans a1)]
    · obtain ⟨k1, k2⟩ := h.keeps a
      have hfe : v.parked = [] ∨ e.fullEmpty = false := by
        rw [Elem.fullEmpty_request h1]
        rcases a3 with c | c
        · rcases hp c with hp | hp
          · exact .inr (hp x hx)
          · exact .inl hp
        · exact .inr c
      obtain ⟨m1, m2⟩ := State.performLocal_keeps { v with banks := b } _ id j q e ((Elem.inQueue_key h2).trans a1)
        (fun hw => (Elem.plain_request h1 h2).mpr (a2 ((Elem.writes_request h1).symm.trans hw))) hfe hpl
      have hb : SameCores v { v with banks := b } := .of_cores rfl
      have hm : BytesKept (written (o.elems.filter (fun e => ownAddress u.cur.core e.va))) v { v with banks := b } := .of_mem rfl
      refine ⟨(k1.trans hb).trans m1, (k2.trans hm).trans (m2.mono ?_)⟩
      rw [Elem.span_request h1 h2]
      exact fun k hk => ⟨x, List.mem_filter.mpr ⟨hx, hown⟩, hk⟩

/-- The elements sent one after the other. -/
theorem Sending.all {id : Nat} {o : Op} {u : State} (hu : u.ops.look id = some o) (hs : o.simple) (n : Nat) (hn : n ≤ o.elems.length) :
    Sending id o u ((List.range n).foldl (fun v j => v.sendElem u.cur.core id j) u) := by
  have h0 : Sending id o u u := ⟨rfl, by unfold State.asked; rw [hu]; rfl, fun _ => by unfold State.asked; rw [hu]; rfl,
    fun _ => ⟨.refl u, .refl _ u⟩⟩
  rcases hs with hs | hs
  · match n with
    | 0 => exact h0
    | 1 => exact h0.step (fun h => .inr h)
    | n + 2 => omega
  · clear hn
    induction n with
    | zero => exact h0
    | succ n ih =>
      rw [List.range_succ, List.foldl_append, List.foldl_cons, List.foldl_nil]
      exact ih.step (fun _ => .inl hs)

/-! ## Entering an operation -/

theorem Translated.same {s t : State} (h : Translated s t) : SameCores s t := by
  rw [h.out]; exact .of_cores rfl

theorem Translated.refl (s : State) : Translated s s := ⟨rfl⟩

theorem Translated.trans {s t u : State} (h : Translated s t) (k : Translated t u) : Translated s u where
  out := by
    have h1 := h.out
    have h2 := k.out
    generalize t.draws = a1 at h1
    generalize t.tlbL1 = a2 at h1
    generalize t.tlbNode = a3 at h1
    subst h1
    exact h2

theorem Translated.fillOne (s : State) (c : Nat) (e : TlbEntry) : Translated s (s.fillTlbs c 1 e) := ⟨rfl⟩
theorem Translated.fillTwo (s : State) (c : Nat) (e : TlbEntry) : Translated s (s.fillTlbs c 2 e) := ⟨rfl⟩

theorem Translated.atHand (s : State) (a : Access) (x : Nat) : Translated s (s.atHand a x).2 := by
  unfold State.atHand
  split
  · exact .refl s
  · split
    · exact .fillOne ..
    · exact .refl s

theorem Translated.translate {s t : State} {a : Access} {x : Nat} {e : TlbEntry} (h : s.translate a x = (.ok e, t)) : Translated s t := by
  have k := Translated.atHand s a x
  unfold State.translate at h
  split at h
  · rename_i heq; rw [heq] at k
    cases h
    exact k
  · rename_i heq; rw [heq] at k
    split at h
    · cases h
      exact k.trans (.fillTwo ..)
    · split at h <;> cases h

theorem Translated.placeOf {s t : State} {a : Access} {r : Req} {p : Place} (h : s.placeOf a r = (.ok p, t)) : Translated s t := by
  unfold State.placeOf at h
  dsimp only at h
  split at h
  · cases h
  · split at h
    · split at h <;> cases h
      exact .refl s
    · split at h
      · cases h
      · split at h
        · cases h
        · rename_i heq
          have k := Translated.translate heq
          cases (Prod.mk.inj h).2
          exact k

theorem Translated.checkAccess {s t : State} {a : Access} {tag : Bool} {c : Cap} {r : Req} {p : Place}
    (h : s.checkAccess a tag c r = (.ok p, t)) : Translated s t := by
  unfold State.checkAccess at h
  cases hc : capCheck tag c r.perms r.x r.n with
  | some code => rw [hc] at h; cases (Prod.mk.inj h).1
  | none =>
    rw [hc] at h
    have k : ∀ q u, s.placeOf a r = (.ok q, u) → Translated s u := fun q u => Translated.placeOf
    generalize s.placeOf a r = y at h k
    obtain ⟨x, u⟩ := y
    cases x with
    | error _ => cases (Prod.mk.inj h).1
    | ok q =>
      have := k q u rfl
      dsimp only at h
      split at h
      · cases (Prod.mk.inj h).1
      · rw [← (Prod.mk.inj h).2]; exact this

theorem Translated.checkOne {s t : State} {a : Access} {tag : Bool} {c : Cap} {r : Req} {p : Place}
    (h : s.checkOne a tag c r = .ok (p, t)) : Translated s t := by
  unfold State.checkOne at h
  split at h
  · cases h
  · rename_i heq
    cases h
    exact Translated.checkAccess heq

theorem Translated.checkLanes {s t : State} {a : Access} {tag : Bool} {c : Cap} {r : Req} {l : List Nat} {p : Place}
    (h : s.checkLanes a tag c r l = .ok (p, t)) : Translated s t := by
  unfold State.checkLanes at h
  split at h
  · cases h
  · dsimp only at h
    split at h
    · cases h
    · rename_i heq
      split at h
      · cases h
      · cases h
        exact Translated.checkAccess heq

theorem Translated.checkAll {a : Access} {tag : Bool} {c : Cap} : ∀ {l : List (Req × (Place → Elem))} {s t : State} {els : List Elem},
    s.checkAll a tag c l = .ok (els, t) → Translated s t
  | [], s, t, els, h => by cases h; exact .refl s
  | (r, f) :: rest, s, t, els, h => by
    unfold State.checkAll at h
    split at h
    · cases h
    · rename_i heq
      have this := Translated.checkAccess heq
      simp only [bind, Except.bind] at h
      split at h
      · cases h
      · rename_i v hv
        cases h
        exact this.trans (Translated.checkAll (els := v.1) (t := v.2) hv)

/-- Entering an operation within the limits of R22. -/
theorem State.enterOp_ok (u : State) (o : Op) (dests : List Dest) (hl : o.ldc = true → u.ldcFree) (hs : o.stc = true → u.stcFree)
    (hb : u.bankFull u.myRef o.elems = false) :
    u.enterOp o dests = .ok (u.serial,
      ({ u with serial := u.serial + 1, ops := u.ops.set u.serial o } : State).updMe (fun y => y.charged o dests u.serial)) := by
  have h1 : (o.ldc && (decide (u.me.ldc ≥ 48) || decide ((u.core u.cur.core).ldc ≥ coreLdcLimit u.cur.core))) = false := by
    cases h : o.ldc
    · rfl
    · obtain ⟨a, b⟩ := hl h
      simp only [Bool.true_and, Bool.or_eq_false_iff, decide_eq_false_iff_not]
      omega
  have h2 : (o.stc && decide (u.me.stc ≥ 64)) = false := by
    cases h : o.stc
    · rfl
    · have := hs h
      unfold State.stcFree at this
      simp only [Bool.true_and, decide_eq_false_iff_not]
      omega
  unfold State.enterOp
  simp only [h1, h2, hb, stallIf, Bool.false_eq_true, if_false, bind, Except.bind]
  rfl

/-- No write buffer is in the way of an operation that stores nothing, R246. -/
theorem State.bankFull_reads (s : State) (r : TaskRef) {l : List Elem} (h : ∀ e ∈ l, e.writes = false) : s.bankFull r l = false := by
  have hn : l.filter (fun x => x.writes && !x.performed) = [] := by
    rw [List.filter_eq_nil_iff]
    intro e he
    simp [h e he]
  have : Machine.entriesOf l = [] := by
    unfold Machine.entriesOf
    rw [hn]
    dsimp only [List.map_nil, List.take_nil]
    split <;> rfl
  unfold State.bankFull
  simp [this, inBank]

theorem State.issuing_serial (s : State) (i : Instr) : (s.issuing i).serial = s.serial :=
  (congrArg State.serial (taskOnly_issuing s i).rest).trans rfl
theorem State.issuing_parked (s : State) (i : Instr) : (s.issuing i).parked = s.parked :=
  (congrArg State.parked (taskOnly_issuing s i).rest).trans rfl

/-- What a body's first part leaves: the tasks, the storage and the tables are those of the issue. -/
structure Reached (i : Instr) (s u : State) : Prop where
  serial : u.serial = s.serial
  parked : u.parked = s.parked
  cur : u.cur = s.cur
  mem : u.mem = s.mem
  ops : u.ops = s.ops
  cores : SameCores (s.issuing i) u
  ldc : ∀ c, (u.core c).ldc = ((s.issuing i).core c).ldc

theorem Translated.reached {s u : State} {i : Instr} (h : Translated (s.issuing i) u) : Reached i s u where
  serial := by rw [h.out]; exact s.issuing_serial i
  parked := by rw [h.out]; exact s.issuing_parked i
  cur := by rw [h.out]; exact (taskOnly_issuing s i).cur
  mem := by rw [h.out]; exact (taskOnly_issuing s i).mem
  ops := by rw [h.out]; exact (congrArg State.ops (taskOnly_issuing s i).rest).trans rfl
  cores := h.same
  ldc c := by rw [h.out]; rfl

theorem Core.rest_setSlot (k : Core) (n : Nat) (x : Slot) : (k.setSlot n x).rest = k.rest := rfl

/-- A change of the task's own slot keeps the other slots and the cores. -/
theorem CoresKept.updMe {s u : State} (hc : u.cur = s.cur) (h : CoresKept s u) (f : Slot → Slot) : CoresKept s (u.updMe f) where
  slots c n hn := by
    rw [← h.slots c n hn, ← hc] at *
    refine State.slot_setSlot_ne _ ?_ _
    rcases hn with hn | hn
    · exact .inl (Ne.symm hn)
    · exact .inr (Ne.symm hn)
  cores c := by
    rw [← h.cores c]
    by_cases hk : c = u.cur.core
    · subst hk; rw [State.core_updMe]; rfl
    · exact congrArg Core.rest (State.core_setSlot_ne _ (Ne.symm hk) _ _)

theorem CoresKept.of_cores {s u : State} (h : u.cores = s.cores) : CoresKept s u :=
  ⟨fun c n _ => State.slot_congr h c n, fun c => by rw [State.core_congr h]⟩

theorem CoresKept.trans_same {s t u : State} (h : CoresKept s t) (k : SameCores t u) : CoresKept s u :=
  ⟨fun c n hn => (k.slots c n).trans (h.slots c n hn), fun c => (k.rest c).trans (h.cores c)⟩

theorem coresKept_issuing (s : State) (i : Instr) : CoresKept s (s.issuing i) := by
  have h : CoresKept s (s.updMe (fun _ => s.slotIssuing i)) := (CoresKept.of_cores rfl).updMe rfl _
  exact ⟨fun c n hn => (State.slot_congr (State.issued_cores _ _) c n).trans (h.slots c n hn),
    fun c => (congrArg Core.rest (State.core_congr (State.issued_cores _ _) c)).trans (h.cores c)⟩

theorem Reached.kept {s u : State} {i : Instr} (h : Reached i s u) : CoresKept s u :=
  (coresKept_issuing s i).trans_same h.cores

theorem Reached.me_issuing {s u : State} {i : Instr} (h : Reached i s u) : u.me = (s.issuing i).me := by
  unfold State.me
  rw [h.cur, (taskOnly_issuing s i).cur]
  exact h.cores.slots _ _

theorem Reached.me {s u : State} {i : Instr} (h : Reached i s u) : u.me = s.slotIssuing i :=
  h.me_issuing.trans (State.me_issuing s i)

/-- The task keeps its name in its issue. -/
theorem State.slotIssuing_uid (s : State) (i : Instr) : (s.slotIssuing i).uid = s.me.uid := rfl

theorem Reached.bankFull {s u : State} {i : Instr} {l : List Elem} (h : Reached i s u) : u.bankFull u.myRef l = s.bankFull s.myRef l := by
  have hr : u.myRef = s.myRef := by
    unfold State.myRef
    rw [h.cur, h.me, State.slotIssuing_uid]
  unfold State.bankFull
  rw [hr, h.ops]

/-- An operation of an instruction that reached its sending: it starts, and what that can do. -/
theorem startOp_sent {s u : State} {i : Instr} {o : Op} {dests : List Dest} (hu : Reached i s u)
    (hl : o.ldc = true → (s.issuing i).ldcFree) (hs : o.stc = true → (s.issuing i).stcFree)
    (hb : s.bankFull s.myRef o.elems = false) (ho : o.simple) :
    ∃ t, u.startOp o dests = .ok t ∧ Sent i o dests s t := by
  have hme : u.me = (s.issuing i).me := hu.me_issuing
  have hcur : u.cur = (s.issuing i).cur := hu.cur.trans (taskOnly_issuing s i).cur.symm
  have hl' : o.ldc = true → u.ldcFree := fun h => by
    have := hl h
    unfold State.ldcFree at *
    rw [hme, hcur, hu.ldc]
    exact this
  have hs' : o.stc = true → u.stcFree := fun h => by
    have := hs h
    unfold State.stcFree at *
    rw [hme]
    exact this
  have hen := State.enterOp_ok u o dests hl' hs' (hu.bankFull.trans hb)
  let v : State := ({ u with serial := u.serial + 1, ops := u.ops.set u.serial o } : State).updMe (fun y => y.charged o dests u.serial)
  have hv : v.ops.look u.serial = some o := Sp.look_set_self _ _ _
  have hsend := Sending.all hv ho o.elems.length (le_refl _)
  have hcv : v.cur = s.cur := hu.cur
  refine ⟨(List.range o.elems.length).foldl (fun w j => w.sendElem v.cur.core u.serial j) v, ?_, ?_⟩
  · unfold State.startOp
    rw [hen]
    rfl
  · have hvk : CoresKept s v := by
      refine CoresKept.updMe (u := { u with serial := u.serial + 1, ops := u.ops.set u.serial o }) hu.cur ?_ _
      exact ⟨hu.kept.slots, hu.kept.cores⟩
    have hvm : v.me = (s.slotIssuing i).charged o dests s.serial := by
      have : v.me = u.me.charged o dests u.serial := State.me_updMe _ _
      rw [this, hu.me, hu.serial]
    have hvp : v.parked = s.parked := hu.parked
    have hvmem : v.mem = s.mem := hu.mem
    generalize hw : (List.range o.elems.length).foldl (fun w j => w.sendElem v.cur.core u.serial j) v = t at hsend
    have hcalm : o.calm s → o.calm v := fun h => by
      unfold Op.calm at *
      rw [hcv, hvp]
      exact h
    refine ⟨?_, fun a => ?_, fun a => ?_, fun a => ?_, fun a => ?_⟩
    · obtain ⟨q, h1, h2, h3⟩ := State.asked_some hsend.request
      rw [hu.serial] at h1
      exact ⟨q, h1, congrArg (fun z : Op => { z with elems := q.elems }) h2, h3⟩
    · intro q hq
      obtain ⟨q', h1, h2, h3⟩ := State.asked_some (hsend.keys (hcalm a))
      rw [hu.serial, hq] at h1
      obtain rfl := Option.some.inj h1
      exact h3
    · rw [← hvm]
      unfold State.me
      rw [hsend.cur]
      exact (hsend.keeps (hcalm a)).1.slots _ _
    · exact hvk.trans_same (hsend.keeps (hcalm a)).1
    · rw [← hcv]
      exact (BytesKept.of_mem hvmem).trans (hsend.keeps (hcalm a)).2

end Sys2Proof.Machine
end

