-- ==== Sys2Proof/Laws/Lines.lean ====
section
/-!
SUPPORT. What an access at its home slice can do, and what asking for a walk can do: no byte of storage and no task changes.
-/

namespace Sys2Proof.Machine

/-! ## Accesses at a home slice, R191 to R197, R234 -/

/-- A state without the parts that an access at a home slice may change, beside the predictors of cores: the records of slices and L1
data caches, marks of bad data, banks on their way, events under way, and the count of draws. -/
def State.pastLines (s : State) : State :=
  { s with slices := [], dLines := [], bad := [], banks := [], due := [], draws := 0, cores := [] }

/-- What an access at a home slice can do: beside those parts it changes the contention predictor of a core alone. -/
structure Visited (s t : State) : Prop where
  past : t.pastLines = s.pastLines
  slots : ∀ c n, t.slot c n = s.slot c n
  cores : ∀ c, ({ t.core c with predictor := [] } : Core) = { s.core c with predictor := [] }

theorem Visited.refl (s : State) : Visited s s := ⟨rfl, fun _ _ => rfl, fun _ => rfl⟩
theorem Visited.trans {s t u : State} (h : Visited s t) (k : Visited t u) : Visited s u :=
  ⟨k.past.trans h.past, fun c n => (k.slots c n).trans (h.slots c n), fun c => (k.cores c).trans (h.cores c)⟩
theorem Visited.of_cores {s t : State} (h : t.pastLines = s.pastLines) (k : t.cores = s.cores) : Visited s t :=
  ⟨h, fun _ _ => State.slot_congr k _ _, fun _ => by rw [State.core_congr k]⟩

theorem Visited.mem {s t : State} (h : Visited s t) : t.mem = s.mem := by
  have := congrArg State.mem h.past
  exact this
theorem Visited.cur {s t : State} (h : Visited s t) : t.cur = s.cur := by
  have := congrArg State.cur h.past
  exact this
theorem Visited.ops {s t : State} (h : Visited s t) : t.ops = s.ops := by
  have := congrArg State.ops h.past
  exact this
theorem Visited.bytes {p : Nat → Prop} {s t : State} (h : Visited s t) : BytesKept p s t := BytesKept.of_mem h.mem

theorem Visited.updSlice (s : State) (i : Nat) (f : Slice → Slice) : Visited s (s.updSlice i f) := .of_cores rfl rfl
theorem Visited.updLine (s : State) (i l : Nat) (f : Line → Line) : Visited s (s.updLine i l f) := .of_cores rfl rfl
theorem Visited.updMiss (s : State) (i l : Nat) (f : Miss → Miss) : Visited s (s.updMiss i l f) := .of_cores rfl rfl
theorem Visited.push (s : State) (i : Instr) : Visited s (s.push i) := .of_cores rfl rfl
theorem Visited.forgetSoft (s : State) (l : List Line) : Visited s (s.forgetSoft l) := .of_cores rfl rfl
theorem Visited.writeBack (s : State) (c l : Nat) : Visited s (s.writeBack c l) := .of_cores rfl rfl

theorem Visited.predict (s : State) (c i : Nat) (up : Bool) : Visited s (s.predict c i up) := by
  have hc : ∀ d, ∃ p, (s.predict c i up).core d = { s.core d with predictor := p } := by
    intro d
    by_cases h : c = d
    · subst h
      exact ⟨_, State.core_setCore_self _ _ _⟩
    · exact ⟨_, State.core_setCore_ne _ h _⟩
  refine ⟨rfl, fun d n => ?_, fun d => ?_⟩ <;> obtain ⟨p, hp⟩ := hc d
  · unfold State.slot
    rw [hp]
    rfl
  · rw [hp]

theorem Visited.recall (s : State) (l : Line) (v : Visit) : Visited s (s.recall l v).2 := by
  unfold State.recall
  split
  · exact .refl s
  · split
    · exact .refl s
    · exact .predict _ _ _ _

theorem Visited.invalidate (s : State) (l : Line) (k : Option Nat) : Visited s (s.invalidate l k).2 := .of_cores rfl rfl

theorem Visited.placeAtomic (s : State) (i : Nat) (l : Line) (c : Nat) (v : Visit) : Visited s (s.placeAtomic i l c v).2 := by
  unfold State.placeAtomic
  dsimp only
  split
  · exact .predict _ _ _ _
  · split
    · exact .predict _ _ _ _
    · split
      · exact .refl s
      · exact .predict _ _ _ _

theorem Visited.visit (s : State) (i : Nat) (l : Line) (v : Visit) : Visited s (s.visit i l v).2 := by
  have h1 := Visited.recall s l v
  unfold State.visit
  generalize s.recall l v = p at h1 ⊢
  obtain ⟨l1, s1⟩ := p
  have h2 : Visited s1 (if v.writes then s1.invalidate l1 (if v.lsu then v.core else none) else (l1, s1)).2 := by
    split
    · exact .invalidate _ _ _
    · exact .refl _
  dsimp only
  generalize (if v.writes then s1.invalidate l1 (if v.lsu then v.core else none) else (l1, s1)) = q at h2 ⊢
  have h : Visited s q.2 := h1.trans h2
  rcases v.placed with _ | _ <;> rcases v.core with _ | c
  · exact h.trans (.updSlice _ _ _)
  · exact h.trans (.updSlice _ _ _)
  · exact h.trans (.updSlice _ _ _)
  · exact (h.trans (.placeAtomic _ _ _ _ _)).trans (.updSlice _ _ _)

theorem Visited.intoL1 (s : State) (e : DLine) : Visited s (s.intoL1 e) := by
  unfold State.intoL1
  split
  · exact .refl s
  · dsimp only
    split
    · exact .of_cores rfl rfl
    · have hd : Visited s s.draw.2 := .of_cores rfl rfl
      split
      · exact hd.trans (Visited.of_cores rfl rfl)
      · exact hd

theorem Visited.takeCopies (l : Line) (c : List DLine) (s : State) : Visited s (s.takeCopies l c) := by
  unfold State.takeCopies
  induction c generalizing s with
  | nil => exact .refl s
  | cons d c ih =>
    refine Visited.trans ?_ (ih _)
    dsimp only
    split
    · exact .intoL1 _ _
    · exact .refl s

theorem Visited.takeWay {s t : State} {i p l : Nat} (h : s.takeWay i p l = some t) : Visited s t := by
  unfold State.takeWay at h
  split at h
  · cases h
  · cases h
    exact .of_cores rfl rfl

theorem Visited.tookWay (s : State) (i p l : Nat) : Visited s ((s.takeWay i p l).getD s) := by
  cases h : s.takeWay i p l with
  | none => exact .refl s
  | some t => exact .takeWay h

/-- An access that its slice accepts changes no byte of storage and no task. -/
theorem Visited.reach {s t : State} {v : Visit} {w : Option (Nat × Nat)} {b : Bool} (h : s.reach v w = some (b, t)) : Visited s t := by
  unfold State.reach at h
  dsimp only at h
  split at h
  · cases h
    exact (Visited.visit _ _ _ _).trans ((Visited.updLine _ _ _ _).trans (.takeCopies _ _ _))
  · cases h
    exact (Visited.visit _ _ _ _).trans (.updMiss _ _ _ _)
  · split at h
    · cases h
    · cases h
      have hv := Visited.visit s (sliceId v.key) { line := lineOf v.key, part := v.part } v
      generalize s.visit (sliceId v.key) { line := lineOf v.key, part := v.part } v = p at hv ⊢
      exact Visited.trans hv (Visited.trans (Visited.updSlice _ _ _) (Visited.trans (Visited.tookWay _ _ _ _) (Visited.push _ _)))

theorem Visited.touchHome {s t : State} {p k : Nat} {c : Option Nat} {w : Bool} (h : s.touchHome p c k w = some t) : Visited s t := by
  unfold State.touchHome at h
  obtain ⟨⟨b, u⟩, hr, rfl⟩ := Option.map_eq_some_iff.mp h
  exact .reach hr

theorem Visited.touchLine {s t : State} {p k : Nat} {c : Option Nat} {w : Bool} (h : s.touchLine p c k w = some t) : Visited s t := by
  unfold State.touchLine at h
  split at h
  · obtain ⟨b, rfl⟩ := State.accessBank_ex h
    exact .of_cores rfl rfl
  · exact .touchHome h

/-- A run of accesses, accepted whole or in part, changes no byte of storage and no task. -/
theorem Visited.touchRun (p : Nat) (c : Option Nat) (w : Bool) (l : List (Nat × Nat × Nat)) (s : State) :
    Visited s (s.touchRun p c w l).2 := by
  induction l generalizing s with
  | nil => exact .refl s
  | cons e l ih =>
    unfold State.touchRun
    split
    · exact .refl s
    · next t h => exact (Visited.touchLine h).trans (ih t)

theorem Visited.touchLines (p : Nat) (c : Option Nat) (w : Bool) (l : List Nat) (s : State) : Visited s (s.touchLines p c w l).2 := by
  induction l generalizing s with
  | nil => exact .refl s
  | cons k l ih =>
    unfold State.touchLines
    split
    · exact .refl s
    · next t h => exact (Visited.touchHome h).trans (ih t)

/-! ## Walks asked for, R204 -/

/-- A state without the walks, the events under way, the count of draws and the serial numbers. -/
def State.pastWalks (s : State) : State := { s with walks := [], due := [], draws := 0, serial := 0 }

/-- Asking for a walk changes those parts alone. -/
theorem State.askWalk_pastWalks (s : State) (a : Access) (x : Nat) (j : Walk → Walk) : (s.askWalk a x j).pastWalks = s.pastWalks := by
  unfold State.askWalk
  dsimp only
  split
  · rfl
  · split <;> rfl

/-- An access that waits for a translation changes no byte of storage and no task. -/
theorem State.wantWalk_kept (s : State) (a : Access) (x : Nat) :
    (s.wantWalk a x).mem = s.mem ∧ (s.wantWalk a x).cores = s.cores ∧ (s.wantWalk a x).ops = s.ops := by
  have h := s.askWalk_pastWalks a x (fun w => { w with askers := if w.askers.contains (a.core, a.who) then w.askers else w.askers ++ [(a.core, a.who)] })
  exact ⟨by have := congrArg State.mem h; exact this, by have := congrArg State.cores h; exact this, by have := congrArg State.ops h; exact this⟩

/-- Forgetting the answers of walks changes the walks and their faults alone. -/
theorem State.forget_rest (s : State) (w : Asker) :
    ({ s.forget w with walks := s.walks, walkFaults := s.walkFaults } : State) = s := rfl

end Sys2Proof.Machine
end

