-- ==== Sys2Proof/Laws/PerInstr.lean ====
section
/-!
SUPPORT. What holds of each instruction as syntax, with one lemma for each constructor: the guard field of its word is its
guard, and 15, the prefix space, where it has none (R29, R33); an event has no word.
-/

namespace Sys2Proof.Laws.Encoding

/-- The guard field of the instruction's word, from which the decoder tells the prefix space from the opcode grid. -/
def Statement (i : Instr) : Prop := ∀ f, encodeFields i = some f → f.g = (i.guard?).getD 15

theorem nop (g : BitVec 4) : Statement (.nop g) := by rintro _ ⟨⟩; rfl
theorem br (g : BitVec 4) (o : BitVec 21) : Statement (.br g o) := by rintro _ ⟨⟩; rfl
theorem call (g : BitVec 4) (o : BitVec 21) : Statement (.call g o) := by rintro _ ⟨⟩; rfl
theorem jmp (g : BitVec 4) (a : BitVec 6) : Statement (.jmp g a) := by rintro _ ⟨⟩; rfl
theorem jmpCall (g : BitVec 4) (a : BitVec 6) : Statement (.jmpCall g a) := by rintro _ ⟨⟩; rfl
theorem jmpRet (g : BitVec 4) : Statement (.jmpRet g) := by rintro _ ⟨⟩; rfl
theorem loop (g : BitVec 4) (d : BitVec 6) (i : BitVec 9) : Statement (.loop g d i) := by rintro _ ⟨⟩; rfl
theorem endTask (g : BitVec 4) : Statement (.endTask g) := by rintro _ ⟨⟩; rfl
theorem wait (g : BitVec 4) (l s c m : BitVec 5) : Statement (.wait g l s c m) := by rintro _ ⟨⟩; rfl
theorem opf (g : BitVec 4) (d a b : BitVec 6) : Statement (.opf g d a b) := by rintro _ ⟨⟩; rfl
theorem trap (g : BitVec 4) (i : BitVec 15) : Statement (.trap g i) := by rintro _ ⟨⟩; rfl
theorem eret (g : BitVec 4) : Statement (.eret g) := by rintro _ ⟨⟩; rfl
theorem gets (g : BitVec 4) (d : BitVec 6) (n : BitVec 12) : Statement (.gets g d n) := by rintro _ ⟨⟩; rfl
theorem sets (g : BitVec 4) (d : BitVec 6) (n : BitVec 12) : Statement (.sets g d n) := by rintro _ ⟨⟩; rfl
theorem setsSr (v : BitVec 64) : Statement (.setsSr v) := by rintro _ ⟨⟩
theorem setsPortcfg (n : BitVec 3) (v : BitVec 64) : Statement (.setsPortcfg n v) := by rintro _ ⟨⟩
theorem setsGshare (v : BitVec 64) : Statement (.setsGshare v) := by rintro _ ⟨⟩
theorem setsAccown (v : BitVec 64) : Statement (.setsAccown v) := by rintro _ ⟨⟩
theorem setsSpillmap (v : BitVec 64) : Statement (.setsSpillmap v) := by rintro _ ⟨⟩
theorem setsLpct (v : BitVec 64) : Statement (.setsLpct v) := by rintro _ ⟨⟩
theorem timeGt (g : BitVec 4) (d : BitVec 6) : Statement (.timeGt g d) := by rintro _ ⟨⟩; rfl
theorem timeCyc (g : BitVec 4) (d : BitVec 6) : Statement (.timeCyc g d) := by rintro _ ⟨⟩; rfl
theorem brk (g : BitVec 4) (i : BitVec 15) : Statement (.brk g i) := by rintro _ ⟨⟩; rfl
theorem tlbiRange (g : BitVec 4) (a b : BitVec 6) : Statement (.tlbiRange g a b) := by rintro _ ⟨⟩; rfl
theorem tlbiCtx (g : BitVec 4) (b : BitVec 6) : Statement (.tlbiCtx g b) := by rintro _ ⟨⟩; rfl
theorem tlbiL1inv (g : BitVec 4) (a b : BitVec 6) : Statement (.tlbiL1inv g a b) := by rintro _ ⟨⟩; rfl
theorem tlbiL1clean (g : BitVec 4) (a b : BitVec 6) : Statement (.tlbiL1clean g a b) := by rintro _ ⟨⟩; rfl
theorem tlbiPart (g : BitVec 4) : Statement (.tlbiPart g) := by rintro _ ⟨⟩; rfl
theorem wcall (g : BitVec 4) (i : BitVec 15) : Statement (.wcall g i) := by rintro _ ⟨⟩; rfl
theorem wcallAnswer (op status : Nat) (data : BitVec 1024) : Statement (.wcallAnswer op status data) := by rintro _ ⟨⟩
theorem add (g : BitVec 4) (d a b : BitVec 6) (t : BitVec 3) : Statement (.add g d a b t) := by rintro _ ⟨⟩; rfl
theorem sub (g : BitVec 4) (d a b : BitVec 6) (t : BitVec 3) : Statement (.sub g d a b t) := by rintro _ ⟨⟩; rfl
theorem mul (g : BitVec 4) (d a b : BitVec 6) (t : BitVec 3) : Statement (.mul g d a b t) := by rintro _ ⟨⟩; rfl
theorem mulh (g : BitVec 4) (d a b : BitVec 6) (t : BitVec 3) : Statement (.mulh g d a b t) := by rintro _ ⟨⟩; rfl
theorem mad (g : BitVec 4) (d a b : BitVec 6) (t : BitVec 3) : Statement (.mad g d a b t) := by rintro _ ⟨⟩; rfl
theorem min (g : BitVec 4) (d a b : BitVec 6) (t : BitVec 3) : Statement (.min g d a b t) := by rintro _ ⟨⟩; rfl
theorem max (g : BitVec 4) (d a b : BitVec 6) (t : BitVec 3) : Statement (.max g d a b t) := by rintro _ ⟨⟩; rfl
theorem absd (g : BitVec 4) (d a b : BitVec 6) (t : BitVec 3) : Statement (.absd g d a b t) := by rintro _ ⟨⟩; rfl
theorem and (g : BitVec 4) (d a b : BitVec 6) (t : BitVec 3) : Statement (.and g d a b t) := by rintro _ ⟨⟩; rfl
theorem or (g : BitVec 4) (d a b : BitVec 6) (t : BitVec 3) : Statement (.or g d a b t) := by rintro _ ⟨⟩; rfl
theorem xor (g : BitVec 4) (d a b : BitVec 6) (t : BitVec 3) : Statement (.xor g d a b t) := by rintro _ ⟨⟩; rfl
theorem andn (g : BitVec 4) (d a b : BitVec 6) (t : BitVec 3) : Statement (.andn g d a b t) := by rintro _ ⟨⟩; rfl
theorem shl (g : BitVec 4) (d a b : BitVec 6) (t : BitVec 3) : Statement (.shl g d a b t) := by rintro _ ⟨⟩; rfl
theorem shr (g : BitVec 4) (d a b : BitVec 6) (t : BitVec 3) : Statement (.shr g d a b t) := by rintro _ ⟨⟩; rfl
theorem rot (g : BitVec 4) (d a b : BitVec 6) (t : BitVec 3) : Statement (.rot g d a b t) := by rintro _ ⟨⟩; rfl
theorem addi (g : BitVec 4) (d a : BitVec 6) (i : BitVec 9) : Statement (.addi g d a i) := by rintro _ ⟨⟩; rfl
theorem unop (g : BitVec 4) (d a o : BitVec 6) (t : BitVec 3) : Statement (.unop g d a o t) := by rintro _ ⟨⟩; rfl
theorem sel (g : BitVec 4) (d a b : BitVec 6) (t : BitVec 3) : Statement (.sel g d a b t) := by rintro _ ⟨⟩; rfl
theorem shuf (g : BitVec 4) (d a b : BitVec 6) (t : BitVec 3) : Statement (.shuf g d a b t) := by rintro _ ⟨⟩; rfl
theorem bcast (g : BitVec 4) (d a b : BitVec 6) (t : BitVec 3) : Statement (.bcast g d a b t) := by rintro _ ⟨⟩; rfl
theorem reduce (g : BitVec 4) (d a o : BitVec 6) (t : BitVec 3) : Statement (.reduce g d a o t) := by rintro _ ⟨⟩; rfl
theorem scan (g : BitVec 4) (d a o : BitVec 6) (t : BitVec 3) : Statement (.scan g d a o t) := by rintro _ ⟨⟩; rfl
theorem movi (g : BitVec 4) (d : BitVec 6) (i : BitVec 15) : Statement (.movi g d i) := by rintro _ ⟨⟩; rfl
theorem movu (g : BitVec 4) (d : BitVec 6) (i : BitVec 15) : Statement (.movu g d i) := by rintro _ ⟨⟩; rfl
theorem addX (g : BitVec 4) (d a b : BitVec 6) (t : BitVec 3) : Statement (.addX g d a b t) := by rintro _ ⟨⟩; rfl
theorem subX (g : BitVec 4) (d a b : BitVec 6) (t : BitVec 3) : Statement (.subX g d a b t) := by rintro _ ⟨⟩; rfl
theorem mulX (g : BitVec 4) (d a b : BitVec 6) (t : BitVec 3) : Statement (.mulX g d a b t) := by rintro _ ⟨⟩; rfl
theorem addiX (g : BitVec 4) (d a : BitVec 6) (i : BitVec 9) : Statement (.addiX g d a i) := by rintro _ ⟨⟩; rfl
theorem logicX (g : BitVec 4) (d a b : BitVec 6) (t : BitVec 3) : Statement (.logicX g d a b t) := by rintro _ ⟨⟩; rfl
theorem divX (g : BitVec 4) (d a b : BitVec 6) (t : BitVec 3) : Statement (.divX g d a b t) := by rintro _ ⟨⟩; rfl
theorem movlX (g : BitVec 4) (d : BitVec 6) (i : BitVec 15) : Statement (.movlX g d i) := by rintro _ ⟨⟩; rfl
theorem laneGet (g : BitVec 4) (d a b : BitVec 6) : Statement (.laneGet g d a b) := by rintro _ ⟨⟩; rfl
theorem lanePut (g : BitVec 4) (d a b : BitVec 6) : Statement (.lanePut g d a b) := by rintro _ ⟨⟩; rfl
theorem cmp (g : BitVec 4) (c p e : BitVec 3) (a b : BitVec 6) (t : BitVec 3) : Statement (.cmp g c p e a b t) := by rintro _ ⟨⟩; rfl
theorem fcmp (g : BitVec 4) (c p e : BitVec 3) (a b : BitVec 6) (t : BitVec 3) : Statement (.fcmp g c p e a b t) := by rintro _ ⟨⟩; rfl
theorem fadd (g : BitVec 4) (d a b : BitVec 6) (t : BitVec 3) : Statement (.fadd g d a b t) := by rintro _ ⟨⟩; rfl
theorem fsub (g : BitVec 4) (d a b : BitVec 6) (t : BitVec 3) : Statement (.fsub g d a b t) := by rintro _ ⟨⟩; rfl
theorem fmul (g : BitVec 4) (d a b : BitVec 6) (t : BitVec 3) : Statement (.fmul g d a b t) := by rintro _ ⟨⟩; rfl
theorem fma (g : BitVec 4) (d a b : BitVec 6) (t : BitVec 3) : Statement (.fma g d a b t) := by rintro _ ⟨⟩; rfl
theorem fnma (g : BitVec 4) (d a b : BitVec 6) (t : BitVec 3) : Statement (.fnma g d a b t) := by rintro _ ⟨⟩; rfl
theorem fmin (g : BitVec 4) (d a b : BitVec 6) (t : BitVec 3) : Statement (.fmin g d a b t) := by rintro _ ⟨⟩; rfl
theorem fmax (g : BitVec 4) (d a b : BitVec 6) (t : BitVec 3) : Statement (.fmax g d a b t) := by rintro _ ⟨⟩; rfl
theorem fminp (g : BitVec 4) (d a b : BitVec 6) (t : BitVec 3) : Statement (.fminp g d a b t) := by rintro _ ⟨⟩; rfl
theorem funop (g : BitVec 4) (d a o : BitVec 6) (t : BitVec 3) : Statement (.funop g d a o t) := by rintro _ ⟨⟩; rfl
theorem fcvt (g : BitVec 4) (d a : BitVec 6) (part dst src : BitVec 3) : Statement (.fcvt g d a part dst src) := by rintro _ ⟨⟩; rfl
theorem i2f (g : BitVec 4) (d a : BitVec 6) (part src dst : BitVec 3) : Statement (.i2f g d a part src dst) := by rintro _ ⟨⟩; rfl
theorem f2i (g : BitVec 4) (d a : BitVec 6) (part dst src : BitVec 3) : Statement (.f2i g d a part dst src) := by rintro _ ⟨⟩; rfl
theorem fdiv (g : BitVec 4) (d a b : BitVec 6) (t : BitVec 3) : Statement (.fdiv g d a b t) := by rintro _ ⟨⟩; rfl
theorem fsqrt (g : BitVec 4) (d a : BitVec 6) (t : BitVec 3) : Statement (.fsqrt g d a t) := by rintro _ ⟨⟩; rfl
theorem ftrans (g : BitVec 4) (d a o : BitVec 6) (t : BitVec 3) : Statement (.ftrans g d a o t) := by rintro _ ⟨⟩; rfl
theorem fscale (g : BitVec 4) (d a b : BitVec 6) (t : BitVec 3) : Statement (.fscale g d a b t) := by rintro _ ⟨⟩; rfl
theorem fdot2 (g : BitVec 4) (d a b : BitVec 6) (t : BitVec 3) : Statement (.fdot2 g d a b t) := by rintro _ ⟨⟩; rfl
theorem fdot4 (g : BitVec 4) (d a b : BitVec 6) (t : BitVec 3) : Statement (.fdot4 g d a b t) := by rintro _ ⟨⟩; rfl
theorem fred (g : BitVec 4) (d a o : BitVec 6) (t : BitVec 3) : Statement (.fred g d a o t) := by rintro _ ⟨⟩; rfl
theorem fscan (g : BitVec 4) (d a : BitVec 6) (t : BitVec 3) : Statement (.fscan g d a t) := by rintro _ ⟨⟩; rfl
theorem plogic (g : BitVec 4) (d a b t : BitVec 3) : Statement (.plogic g d a b t) := by rintro _ ⟨⟩; rfl
theorem pmovPred (g : BitVec 4) (d a : BitVec 3) : Statement (.pmovPred g d a) := by rintro _ ⟨⟩; rfl
theorem pmovFromReg (g : BitVec 4) (d : BitVec 3) (a : BitVec 6) : Statement (.pmovFromReg g d a) := by rintro _ ⟨⟩; rfl
theorem pmovToReg (g : BitVec 4) (d : BitVec 6) (a : BitVec 3) : Statement (.pmovToReg g d a) := by rintro _ ⟨⟩; rfl
theorem pcnt (g : BitVec 4) (d : BitVec 6) (a t : BitVec 3) : Statement (.pcnt g d a t) := by rintro _ ⟨⟩; rfl
theorem ptest (g : BitVec 4) (d e a t : BitVec 3) : Statement (.ptest g d e a t) := by rintro _ ⟨⟩; rfl
theorem pset (g : BitVec 4) (p w : BitVec 3) (c : BitVec 12) : Statement (.pset g p w c) := by rintro _ ⟨⟩; rfl
theorem ldx (g : BitVec 4) (d a f : BitVec 6) (s : BitVec 3) : Statement (.ldx g d a f s) := by rintro _ ⟨⟩; rfl
theorem stx (g : BitVec 4) (d a f : BitVec 6) (s : BitVec 3) : Statement (.stx g d a f s) := by rintro _ ⟨⟩; rfl
theorem ldv (g : BitVec 4) (d a f : BitVec 6) : Statement (.ldv g d a f) := by rintro _ ⟨⟩; rfl
theorem stv (g : BitVec 4) (d a f : BitVec 6) : Statement (.stv g d a f) := by rintro _ ⟨⟩; rfl
theorem gath (g : BitVec 4) (d a b : BitVec 6) (t : BitVec 3) : Statement (.gath g d a b t) := by rintro _ ⟨⟩; rfl
theorem gathp (g : BitVec 4) (d a b : BitVec 6) (t : BitVec 3) : Statement (.gathp g d a b t) := by rintro _ ⟨⟩; rfl
theorem scat (g : BitVec 4) (d a b : BitVec 6) (t : BitVec 3) : Statement (.scat g d a b t) := by rintro _ ⟨⟩; rfl
theorem ldfe (g : BitVec 4) (d a f : BitVec 6) (s : BitVec 3) : Statement (.ldfe g d a f s) := by rintro _ ⟨⟩; rfl
theorem stfe (g : BitVec 4) (d a f : BitVec 6) (s : BitVec 3) : Statement (.stfe g d a f s) := by rintro _ ⟨⟩; rfl
theorem feopLdf (g : BitVec 4) (d a : BitVec 6) (z : BitVec 3) : Statement (.feopLdf g d a z) := by rintro _ ⟨⟩; rfl
theorem feopStf (g : BitVec 4) (d a : BitVec 6) (z : BitVec 3) : Statement (.feopStf g d a z) := by rintro _ ⟨⟩; rfl
theorem feopSete (g : BitVec 4) (a : BitVec 6) (z : BitVec 3) : Statement (.feopSete g a z) := by rintro _ ⟨⟩; rfl
theorem feopSetf (g : BitVec 4) (a : BitVec 6) (z : BitVec 3) : Statement (.feopSetf g a z) := by rintro _ ⟨⟩; rfl
theorem feopQtag (g : BitVec 4) (d a : BitVec 6) : Statement (.feopQtag g d a) := by rintro _ ⟨⟩; rfl
theorem ldt (g : BitVec 4) (d a f : BitVec 6) (s : BitVec 3) : Statement (.ldt g d a f s) := by rintro _ ⟨⟩; rfl
theorem rdm (g : BitVec 4) (d a : BitVec 6) : Statement (.rdm g d a) := by rintro _ ⟨⟩; rfl
theorem rdmS (g : BitVec 4) (d a b : BitVec 6) : Statement (.rdmS g d a b) := by rintro _ ⟨⟩; rfl
theorem tkrel (g : BitVec 4) (a : BitVec 6) : Statement (.tkrel g a) := by rintro _ ⟨⟩; rfl
theorem pref (g : BitVec 4) (a f : BitVec 6) (s : BitVec 3) : Statement (.pref g a f s) := by rintro _ ⟨⟩; rfl
theorem fence (g k : BitVec 4) (t : BitVec 3) : Statement (.fence g k t) := by rintro _ ⟨⟩; rfl
theorem atom32 (g : BitVec 4) (d a b : BitVec 6) (t : BitVec 3) : Statement (.atom32 g d a b t) := by rintro _ ⟨⟩; rfl
theorem atom64 (g : BitVec 4) (d a b : BitVec 6) (t : BitVec 3) : Statement (.atom64 g d a b t) := by rintro _ ⟨⟩; rfl
theorem xatom (g : BitVec 4) (d a b : BitVec 6) (t : BitVec 3) : Statement (.xatom g d a b t) := by rintro _ ⟨⟩; rfl
theorem scatadd (g : BitVec 4) (d a b : BitVec 6) (t : BitVec 3) : Statement (.scatadd g d a b t) := by rintro _ ⟨⟩; rfl
theorem barFull (g : BitVec 4) (a : BitVec 6) : Statement (.barFull g a) := by rintro _ ⟨⟩; rfl
theorem barArrive (g : BitVec 4) (d a : BitVec 6) : Statement (.barArrive g d a) := by rintro _ ⟨⟩; rfl
theorem barWait (g : BitVec 4) (a b : BitVec 6) : Statement (.barWait g a b) := by rintro _ ⟨⟩; rfl
theorem slotAlloc (g : BitVec 4) (d a : BitVec 6) (k : BitVec 3) : Statement (.slotAlloc g d a k) := by rintro _ ⟨⟩; rfl
theorem slotFree (g : BitVec 4) (d a : BitVec 6) (k : BitVec 3) : Statement (.slotFree g d a k) := by rintro _ ⟨⟩; rfl
theorem launch (g : BitVec 4) (d a : BitVec 6) : Statement (.launch g d a) := by rintro _ ⟨⟩; rfl
theorem launchHandleReturn (launch : Nat) : Statement (.launchHandleReturn launch) := by rintro _ ⟨⟩
theorem lctlCancel (g : BitVec 4) (d a b : BitVec 6) : Statement (.lctlCancel g d a b) := by rintro _ ⟨⟩; rfl
theorem lctlQuery (g : BitVec 4) (d a : BitVec 6) : Statement (.lctlQuery g d a) := by rintro _ ⟨⟩; rfl
theorem lctlWait (g : BitVec 4) (d a : BitVec 6) : Statement (.lctlWait g d a) := by rintro _ ⟨⟩; rfl
theorem lctlAnswer (op : Nat) : Statement (.lctlAnswer op) := by rintro _ ⟨⟩
theorem sendPost (g : BitVec 4) (d a b : BitVec 6) : Statement (.sendPost g d a b) := by rintro _ ⟨⟩; rfl
theorem sendAck (g : BitVec 4) (d a b : BitVec 6) : Statement (.sendAck g d a b) := by rintro _ ⟨⟩; rfl
theorem sendReply (g : BitVec 4) (d a b : BitVec 6) : Statement (.sendReply g d a b) := by rintro _ ⟨⟩; rfl
theorem sendEng (g : BitVec 4) (d a b : BitVec 6) : Statement (.sendEng g d a b) := by rintro _ ⟨⟩; rfl
theorem answerArrival (packet : Nat) : Statement (.answerArrival packet) := by rintro _ ⟨⟩
theorem messageArrival (packet : Nat) : Statement (.messageArrival packet) := by rintro _ ⟨⟩
theorem portBind (g : BitVec 4) (d b : BitVec 6) : Statement (.portBind g d b) := by rintro _ ⟨⟩; rfl
theorem portUnbind (g : BitVec 4) (d : BitVec 6) : Statement (.portUnbind g d) := by rintro _ ⟨⟩; rfl
theorem portQlen (g : BitVec 4) (d a : BitVec 6) : Statement (.portQlen g d a) := by rintro _ ⟨⟩; rfl
theorem portSbind (g : BitVec 4) (d b : BitVec 6) : Statement (.portSbind g d b) := by rintro _ ⟨⟩; rfl
theorem portSrel (g : BitVec 4) (d : BitVec 6) : Statement (.portSrel g d) := by rintro _ ⟨⟩; rfl
theorem portSstat (g : BitVec 4) (d a : BitVec 6) : Statement (.portSstat g d a) := by rintro _ ⟨⟩; rfl
theorem streamStripArrival (core slot port : Nat) : Statement (.streamStripArrival core slot port) := by rintro _ ⟨⟩
theorem htabRd (g : BitVec 4) (d b : BitVec 6) : Statement (.htabRd g d b) := by rintro _ ⟨⟩; rfl
theorem htabWr (g : BitVec 4) (a b : BitVec 6) : Statement (.htabWr g a b) := by rintro _ ⟨⟩; rfl
theorem cpy (g : BitVec 4) (d a b : BitVec 6) : Statement (.cpy g d a b) := by rintro _ ⟨⟩; rfl
theorem cpyLoop (g : BitVec 4) (d a b : BitVec 6) : Statement (.cpyLoop g d a b) := by rintro _ ⟨⟩; rfl
theorem cpyrel (g : BitVec 4) (a : BitVec 6) : Statement (.cpyrel g a) := by rintro _ ⟨⟩; rfl
theorem cpyMtx (g : BitVec 4) (d a b : BitVec 6) : Statement (.cpyMtx g d a b) := by rintro _ ⟨⟩; rfl
theorem cpyBlk (g : BitVec 4) (d a b : BitVec 6) : Statement (.cpyBlk g d a b) := by rintro _ ⟨⟩; rfl
theorem cpySlab (g : BitVec 4) (d a b : BitVec 6) : Statement (.cpySlab g d a b) := by rintro _ ⟨⟩; rfl
theorem engineCardArrival (packet : Nat) : Statement (.engineCardArrival packet) := by rintro _ ⟨⟩
theorem jobStart (job : Nat) : Statement (.jobStart job) := by rintro _ ⟨⟩
theorem jobCompletion (job : Nat) : Statement (.jobCompletion job) := by rintro _ ⟨⟩
theorem stageFilled (job stage : Nat) : Statement (.stageFilled job stage) := by rintro _ ⟨⟩
theorem stageRelease (op : Nat) : Statement (.stageRelease op) := by rintro _ ⟨⟩
theorem mtxMma (g : BitVec 4) (n : BitVec 5) (a b : BitVec 6) : Statement (.mtxMma g n a b) := by rintro _ ⟨⟩; rfl
theorem mtxMmaz (g : BitVec 4) (n : BitVec 5) (a b : BitVec 6) : Statement (.mtxMmaz g n a b) := by rintro _ ⟨⟩; rfl
theorem mtxAccld (g : BitVec 4) (n : BitVec 5) (a : BitVec 6) : Statement (.mtxAccld g n a) := by rintro _ ⟨⟩; rfl
theorem mtxAccst (g : BitVec 4) (n : BitVec 5) (a : BitVec 6) : Statement (.mtxAccst g n a) := by rintro _ ⟨⟩; rfl
theorem mtxAccmv (g : BitVec 4) (n : BitVec 5) (a b : BitVec 6) : Statement (.mtxAccmv g n a b) := by rintro _ ⟨⟩; rfl
theorem mtxCodeb (g : BitVec 4) (n : BitVec 5) : Statement (.mtxCodeb g n) := by rintro _ ⟨⟩; rfl
theorem mtxAccq (g : BitVec 4) (n : BitVec 5) (a : BitVec 6) : Statement (.mtxAccq g n a) := by rintro _ ⟨⟩; rfl
theorem mtxAccfree (g : BitVec 4) (n : BitVec 5) : Statement (.mtxAccfree g n) := by rintro _ ⟨⟩; rfl
theorem matrixCommandStart (core : Nat) : Statement (.matrixCommandStart core) := by rintro _ ⟨⟩
theorem matrixCommandDone (cmd : Nat) : Statement (.matrixCommandDone cmd) := by rintro _ ⟨⟩
theorem deferredCheckDone (cmd : Nat) : Statement (.deferredCheckDone cmd) := by rintro _ ⟨⟩
theorem doneNotice (guest : Nat) : Statement (.doneNotice guest) := by rintro _ ⟨⟩
theorem eregRd (g : BitVec 4) (d b : BitVec 6) : Statement (.eregRd g d b) := by rintro _ ⟨⟩; rfl
theorem eregWr (g : BitVec 4) (a b : BitVec 6) : Statement (.eregWr g a b) := by rintro _ ⟨⟩; rfl
theorem cget (g : BitVec 4) (d a b : BitVec 6) : Statement (.cget g d a b) := by rintro _ ⟨⟩; rfl
theorem csetb (g : BitVec 4) (d a b : BitVec 6) : Statement (.csetb g d a b) := by rintro _ ⟨⟩; rfl
theorem candp (g : BitVec 4) (d a b : BitVec 6) : Statement (.candp g d a b) := by rintro _ ⟨⟩; rfl
theorem cinc (g : BitVec 4) (d a b : BitVec 6) : Statement (.cinc g d a b) := by rintro _ ⟨⟩; rfl
theorem cseal (g : BitVec 4) (d a b : BitVec 6) : Statement (.cseal g d a b) := by rintro _ ⟨⟩; rfl
theorem cunseal (g : BitVec 4) (d a b : BitVec 6) : Statement (.cunseal g d a b) := by rintro _ ⟨⟩; rfl
theorem ctest (g : BitVec 4) (d a b : BitVec 6) : Statement (.ctest g d a b) := by rintro _ ⟨⟩; rfl
theorem cclr (g : BitVec 4) (d a : BitVec 6) : Statement (.cclr g d a) := by rintro _ ⟨⟩; rfl
theorem pfxT (a b p : BitVec 4) : Statement (.pfxT a b p) := by rintro _ ⟨⟩; rfl
theorem pfxC (m : BitVec 2) : Statement (.pfxC m) := by rintro _ ⟨⟩; rfl
theorem pfxI (h : BitVec 21) : Statement (.pfxI h) := by rintro _ ⟨⟩; rfl
theorem pfxS (o : BitVec 2) (s : BitVec 3) : Statement (.pfxS o s) := by rintro _ ⟨⟩; rfl
theorem loadCompletion (op : Nat) : Statement (.loadCompletion op) := by rintro _ ⟨⟩
theorem storeAcknowledgement (op : Nat) : Statement (.storeAcknowledgement op) := by rintro _ ⟨⟩
theorem homeSliceRequest (op elem : Nat) : Statement (.homeSliceRequest op elem) := by rintro _ ⟨⟩
theorem fillArrival (slice line : Nat) : Statement (.fillArrival slice line) := by rintro _ ⟨⟩
theorem ticketAllocation (op : Nat) : Statement (.ticketAllocation op) := by rintro _ ⟨⟩
theorem ticketDataArrival (slice entry : Nat) : Statement (.ticketDataArrival slice entry) := by rintro _ ⟨⟩
theorem ticketRedeem (op : Nat) : Statement (.ticketRedeem op) := by rintro _ ⟨⟩
theorem ticketRelease (op : Nat) : Statement (.ticketRelease op) := by rintro _ ⟨⟩
theorem ticketExpiry (slice entry : Nat) : Statement (.ticketExpiry slice entry) := by rintro _ ⟨⟩
theorem walkStart (plate : Nat) : Statement (.walkStart plate) := by rintro _ ⟨⟩
theorem walkCompletion (walk : Nat) : Statement (.walkCompletion walk) := by rintro _ ⟨⟩
theorem tlbiControllerRequest (op plate : Nat) : Statement (.tlbiControllerRequest op plate) := by rintro _ ⟨⟩
theorem tlbiPlateDone (op plate : Nat) : Statement (.tlbiPlateDone op plate) := by rintro _ ⟨⟩
theorem tlbiAck (op : Nat) : Statement (.tlbiAck op) := by rintro _ ⟨⟩
theorem guestPacketArrival (guest : Nat) : Statement (.guestPacketArrival guest) := by rintro _ ⟨⟩
theorem guestIssue (core : Nat) : Statement (.guestIssue core) := by rintro _ ⟨⟩
theorem guestWalkDone (guest : Nat) : Statement (.guestWalkDone guest) := by rintro _ ⟨⟩
theorem guestResult (guest : Nat) : Statement (.guestResult guest) := by rintro _ ⟨⟩
theorem dealMessage (gang index : Nat) : Statement (.dealMessage gang index) := by rintro _ ⟨⟩
theorem taskSelection (core : Nat) : Statement (.taskSelection core) := by rintro _ ⟨⟩
theorem slotClearingEnd (core slot : Nat) : Statement (.slotClearingEnd core slot) := by rintro _ ⟨⟩
theorem handlerAging (core chan : Nat) : Statement (.handlerAging core chan) := by rintro _ ⟨⟩
theorem reservationWithdrawal (gang : Nat) : Statement (.reservationWithdrawal gang) := by rintro _ ⟨⟩
theorem gangPlacement (launch plate x y : Nat) : Statement (.gangPlacement launch plate x y) := by rintro _ ⟨⟩
theorem reservationComplete (gang : Nat) : Statement (.reservationComplete gang) := by rintro _ ⟨⟩
theorem launchClaim (launch : Nat) : Statement (.launchClaim launch) := by rintro _ ⟨⟩
theorem gangRangeRequest (launch plate : Nat) : Statement (.gangRangeRequest launch plate) := by rintro _ ⟨⟩
theorem launchMessageSend (launch : Nat) : Statement (.launchMessageSend launch) := by rintro _ ⟨⟩
theorem dealingDone (launch : Nat) : Statement (.dealingDone launch) := by rintro _ ⟨⟩
theorem quiescenceSweep (launch upto : Nat) : Statement (.quiescenceSweep launch upto) := by rintro _ ⟨⟩
theorem faultNotice (launch gt cause place : Nat) : Statement (.faultNotice launch gt cause place) := by rintro _ ⟨⟩
theorem abort (launch target : Nat) : Statement (.abort launch target) := by rintro _ ⟨⟩
theorem gangWatchdogExpiry (gang : Nat) : Statement (.gangWatchdogExpiry gang) := by rintro _ ⟨⟩
theorem cancelDecision (launch mode : Nat) : Statement (.cancelDecision launch mode) := by rintro _ ⟨⟩
theorem cancel (launch target : Nat) : Statement (.cancel launch target) := by rintro _ ⟨⟩
theorem podDispatch (msg : Nat) : Statement (.podDispatch msg) := by rintro _ ⟨⟩
theorem podClaimed (msg : Nat) : Statement (.podClaimed msg) := by rintro _ ⟨⟩
theorem podLidMap (msg : Nat) : Statement (.podLidMap msg) := by rintro _ ⟨⟩
theorem podSweepReport (msg : Nat) : Statement (.podSweepReport msg) := by rintro _ ⟨⟩
theorem podEnd (msg : Nat) : Statement (.podEnd msg) := by rintro _ ⟨⟩
theorem podReg (msg : Nat) : Statement (.podReg msg) := by rintro _ ⟨⟩
theorem sliceEnd (core : Nat) : Statement (.sliceEnd core) := by rintro _ ⟨⟩
theorem flagsumSweep (plate : Nat) : Statement (.flagsumSweep plate) := by rintro _ ⟨⟩
theorem powerReading (watts : Nat) : Statement (.powerReading watts) := by rintro _ ⟨⟩
theorem thermalSample (core celsius : Nat) : Statement (.thermalSample core celsius) := by rintro _ ⟨⟩
theorem migrationDrained (core : Nat) : Statement (.migrationDrained core) := by rintro _ ⟨⟩
theorem migrationCopyDone (core : Nat) : Statement (.migrationCopyDone core) := by rintro _ ⟨⟩
theorem migrationForwardEnd (core : Nat) : Statement (.migrationForwardEnd core) := by rintro _ ⟨⟩
theorem bankDrowsy (core slot : Nat) : Statement (.bankDrowsy core slot) := by rintro _ ⟨⟩
theorem refreshDue (core slot : Nat) : Statement (.refreshDue core slot) := by rintro _ ⟨⟩
theorem refreshEnd (core slot : Nat) : Statement (.refreshEnd core slot) := by rintro _ ⟨⟩
theorem bankGated (core slot : Nat) : Statement (.bankGated core slot) := by rintro _ ⟨⟩
theorem columnIdleTimeout (plate x : Nat) : Statement (.columnIdleTimeout plate x) := by rintro _ ⟨⟩
theorem wakeRequest (plate x : Nat) : Statement (.wakeRequest plate x) := by rintro _ ⟨⟩
theorem rampDownEnd (plate x : Nat) : Statement (.rampDownEnd plate x) := by rintro _ ⟨⟩
theorem rampUpEnd (plate x : Nat) : Statement (.rampUpEnd plate x) := by rintro _ ⟨⟩
theorem packetDiscard (packet : Nat) : Statement (.packetDiscard packet) := by rintro _ ⟨⟩
theorem nackArrival (packet : Nat) : Statement (.nackArrival packet) := by rintro _ ⟨⟩
theorem backoffExpiry (packet : Nat) : Statement (.backoffExpiry packet) := by rintro _ ⟨⟩
theorem linkReplay (port : Nat) : Statement (.linkReplay port) := by rintro _ ⟨⟩
theorem linkFailure (port : Nat) : Statement (.linkFailure port) := by rintro _ ⟨⟩
theorem hbmPatrol (addr : Nat) : Statement (.hbmPatrol addr) := by rintro _ ⟨⟩
theorem errorEvent (uncorrectable : Bool) (unit loc part : Nat) : Statement (.errorEvent uncorrectable unit loc part) := by rintro _ ⟨⟩
theorem heartbeat (role : Nat) : Statement (.heartbeat role) := by rintro _ ⟨⟩
theorem roleRestart (role place : Nat) : Statement (.roleRestart role place) := by rintro _ ⟨⟩
theorem firmwareHashCheck (good : Bool) : Statement (.firmwareHashCheck good) := by rintro _ ⟨⟩
theorem powerOn (recovN : Bool) (slotid : BitVec 4) : Statement (.powerOn recovN slotid) := by rintro _ ⟨⟩
theorem resetN : Statement (.resetN) := by rintro _ ⟨⟩
theorem supplyFault : Statement (.supplyFault) := by rintro _ ⟨⟩
theorem thermalTrip : Statement (.thermalTrip) := by rintro _ ⟨⟩
theorem peakPowerCap : Statement (.peakPowerCap) := by rintro _ ⟨⟩
theorem slicePairSet (core : Nat) (v : BitVec 64) : Statement (.slicePairSet core v) := by rintro _ ⟨⟩
theorem checkModeSet (core : Nat) (v : BitVec 64) : Statement (.checkModeSet core v) := by rintro _ ⟨⟩
theorem fwallWrite (core : Nat) (v : BitVec 64) : Statement (.fwallWrite core v) := by rintro _ ⟨⟩
theorem regionTableWrite (n : BitVec 6) (v : BitVec 128) : Statement (.regionTableWrite n v) := by rintro _ ⟨⟩
theorem bworldWrite (block : Block) (s : Bool) : Statement (.bworldWrite block s) := by rintro _ ⟨⟩
theorem controlRegisterWrite (reg : ControlReg) (v : BitVec 64) : Statement (.controlRegisterWrite reg v) := by rintro _ ⟨⟩
theorem queueResume (queue : Nat) : Statement (.queueResume queue) := by rintro _ ⟨⟩
theorem tailRead (queue : Nat) : Statement (.tailRead queue) := by rintro _ ⟨⟩
theorem packetStart (queue : Nat) : Statement (.packetStart queue) := by rintro _ ⟨⟩
theorem packetCompletion (queue : Nat) : Statement (.packetCompletion queue) := by rintro _ ⟨⟩
theorem cqWrite (queue : Nat) : Statement (.cqWrite queue) := by rintro _ ⟨⟩
theorem cqSignal (queue : Nat) : Statement (.cqSignal queue) := by rintro _ ⟨⟩
theorem cqWaitv (queue : Nat) : Statement (.cqWaitv queue) := by rintro _ ⟨⟩
theorem cqCopy (queue : Nat) : Statement (.cqCopy queue) := by rintro _ ⟨⟩
theorem cqLaunch (queue : Nat) : Statement (.cqLaunch queue) := by rintro _ ⟨⟩
theorem cqAmsg (queue : Nat) : Statement (.cqAmsg queue) := by rintro _ ⟨⟩
theorem cqLctl (queue : Nat) : Statement (.cqLctl queue) := by rintro _ ⟨⟩
theorem cqOpenam (queue : Nat) : Statement (.cqOpenam queue) := by rintro _ ⟨⟩
theorem cqCloseam (queue : Nat) : Statement (.cqCloseam queue) := by rintro _ ⟨⟩
theorem cqFlagclr (queue : Nat) : Statement (.cqFlagclr queue) := by rintro _ ⟨⟩
theorem cqHalt (queue : Nat) : Statement (.cqHalt queue) := by rintro _ ⟨⟩
theorem haltComplete (part : Nat) : Statement (.haltComplete part) := by rintro _ ⟨⟩
theorem cqSwapout (queue : Nat) : Statement (.cqSwapout queue) := by rintro _ ⟨⟩
theorem cqSwapin (queue : Nat) : Statement (.cqSwapin queue) := by rintro _ ⟨⟩
theorem swapComplete (part : Nat) : Statement (.swapComplete part) := by rintro _ ⟨⟩
theorem cqResume (queue : Nat) : Statement (.cqResume queue) := by rintro _ ⟨⟩
theorem cqQuota (queue : Nat) : Statement (.cqQuota queue) := by rintro _ ⟨⟩
theorem cpSliceEnd (queue : Nat) : Statement (.cpSliceEnd queue) := by rintro _ ⟨⟩
theorem lodjaupWrite (f : Frame) : Statement (.lodjaupWrite f) := by rintro _ ⟨⟩
theorem lodjaupRead (f : Frame) : Statement (.lodjaupRead f) := by rintro _ ⟨⟩
theorem lodjaupAck (f : Frame) : Statement (.lodjaupAck f) := by rintro _ ⟨⟩
theorem lodjaupNak (f : Frame) : Statement (.lodjaupNak f) := by rintro _ ⟨⟩
theorem ackDue (session peer : Nat) : Statement (.ackDue session peer) := by rintro _ ⟨⟩
theorem deviceResendTimeout (session peer : Nat) : Statement (.deviceResendTimeout session peer) := by rintro _ ⟨⟩
theorem ident (f : Frame) : Statement (.ident f) := by rintro _ ⟨⟩
theorem attest (f : Frame) : Statement (.attest f) := by rintro _ ⟨⟩
theorem mgmtCtxnew (f : Frame) : Statement (.mgmtCtxnew f) := by rintro _ ⟨⟩
theorem mgmtCtxend (f : Frame) : Statement (.mgmtCtxend f) := by rintro _ ⟨⟩
theorem mgmtPartcores (f : Frame) : Statement (.mgmtPartcores f) := by rintro _ ⟨⟩
theorem mgmtPartfree (f : Frame) : Statement (.mgmtPartfree f) := by rintro _ ⟨⟩
theorem mgmtOpen (f : Frame) : Statement (.mgmtOpen f) := by rintro _ ⟨⟩
theorem mgmtClose (f : Frame) : Statement (.mgmtClose f) := by rintro _ ⟨⟩
theorem mgmtWindow (f : Frame) : Statement (.mgmtWindow f) := by rintro _ ⟨⟩
theorem mgmtQnew (f : Frame) : Statement (.mgmtQnew f) := by rintro _ ⟨⟩
theorem mgmtQend (f : Frame) : Statement (.mgmtQend f) := by rintro _ ⟨⟩
theorem mgmtPodreg (f : Frame) : Statement (.mgmtPodreg f) := by rintro _ ⟨⟩
theorem mgmtPodunreg (f : Frame) : Statement (.mgmtPodunreg f) := by rintro _ ⟨⟩
theorem mgmtFwwrite (f : Frame) : Statement (.mgmtFwwrite f) := by rintro _ ⟨⟩
theorem mgmtFwcommit (f : Frame) : Statement (.mgmtFwcommit f) := by rintro _ ⟨⟩
theorem mgmtTelem (f : Frame) : Statement (.mgmtTelem f) := by rintro _ ⟨⟩
theorem mgmtErrlog (f : Frame) : Statement (.mgmtErrlog f) := by rintro _ ⟨⟩
theorem recover (f : Frame) : Statement (.recover f) := by rintro _ ⟨⟩
theorem recoveryReset : Statement (.recoveryReset) := by rintro _ ⟨⟩
theorem neighborSolicitation (f : Frame) : Statement (.neighborSolicitation f) := by rintro _ ⟨⟩
theorem echoRequest (f : Frame) : Statement (.echoRequest f) := by rintro _ ⟨⟩
theorem localWindowRequest (op elem : Nat) : Statement (.localWindowRequest op elem) := by rintro _ ⟨⟩
theorem stepBoundExpiry (queue : Nat) : Statement (.stepBoundExpiry queue) := by rintro _ ⟨⟩
theorem podRegAnswer (msg : Nat) : Statement (.podRegAnswer msg) := by rintro _ ⟨⟩
theorem podUnreg (msg : Nat) : Statement (.podUnreg msg) := by rintro _ ⟨⟩
theorem podEndReport (msg : Nat) : Statement (.podEndReport msg) := by rintro _ ⟨⟩

end Sys2Proof.Laws.Encoding
end

