-- ==== Sys2Proof/Tests/Slice0.lean ====
section
/-!
SUPPORT. Tests: an ill-formed term for each check of R39, words that the specification writes out, results worked out by
hand from the rules, and for each statement states and operands that meet its hypotheses.
-/

namespace Sys2Proof.Tests
set_option Elab.async false

open Sys2Proof.Machine

/-! ## Well-formedness, R39: each check refuses an ill-formed term -/

/-- The instructions are refused with a defect. -/
def refused (e : Defect) (l : List Instr) : Bool := l.all (fun i => i.defect == some e)

theorem test_wf_prefix_guard : refused .prefixGuard [.nop 15, .add 15 1 2 3 2, .ldx 15 1 2 0 3, .eret 15] = true := by decide
theorem test_wf_reserved_value : refused .reservedValue
    [.unop 7 1 2 9 2, .reduce 7 1 2 6 2, .scan 7 1 2 6 2, .mulX 7 1 2 3 4, .divX 7 1 2 3 4, .funop 7 1 2 8 2, .ftrans 7 1 2 8 2,
     .fred 7 1 2 3 2, .pset 7 1 4 0, .ldx 7 1 2 0 5, .stx 7 1 2 0 5, .gath 7 1 2 3 1, .gathp 0 1 2 3 0, .scat 7 1 2 3 4,
     .ldfe 7 1 2 0 4, .stfe 7 1 2 0 1, .feopLdf 7 1 2 4, .feopStf 7 1 2 0, .feopSete 7 2 6, .feopSetf 7 2 1, .ldt 7 1 2 0 4,
     .pref 7 2 0 3, .fence 7 0 3, .fence 7 1 6, .scatadd 7 1 2 3 6, .slotAlloc 7 1 2 3, .slotFree 7 1 2 3, .cget 7 1 2 6,
     .pfxT 7 0 0, .pfxT 0 14 0, .pfxC 0, .pfxC 3, .pfxS 0 3, .pfxS 1 6] = true := by decide
theorem test_wf_type : refused .typeNotAllowed
    [.unop 7 1 2 7 3, .unop 7 1 2 8 7, .fcmp 7 0 1 2 1 2 4, .fadd 7 1 2 3 4, .fsub 7 1 2 3 5, .fmul 7 1 2 3 6, .fma 7 1 2 3 7,
     .fnma 7 1 2 3 4, .fmin 7 1 2 3 4, .fmax 7 1 2 3 4, .fminp 7 1 2 3 4, .funop 7 1 2 0 4, .fcvt 7 1 2 0 6 2, .fcvt 7 1 2 0 2 7,
     .i2f 7 1 2 0 2 4, .f2i 7 1 2 0 2 4, .fdiv 7 1 2 3 4, .fsqrt 7 1 2 4, .ftrans 7 1 2 0 4, .fscale 7 1 2 3 4, .fdot2 7 1 2 3 3,
     .fdot4 7 1 2 3 1, .fred 7 1 2 0 4, .fscan 7 1 2 5] = true := by decide
theorem test_wf_part : refused .partTooLarge [.fcvt 7 1 2 1 2 2, .fcvt 7 1 2 4 4 2, .i2f 7 1 2 2 2 3, .f2i 7 1 2 4 0 2] = true := by decide
theorem test_wf_predicates : refused .samePredicates [.cmp 7 0 1 1 2 3 2, .fcmp 7 0 2 2 1 2 2, .ptest 7 1 1 2 2] = true := by decide
theorem test_wf_guard : refused .guardNotWritable [.gathp 7 1 2 3 2, .xatom 7 1 2 3 6, .xatom 15 1 2 3 7] = false ∧
    refused .guardNotWritable [.gathp 7 1 2 3 2, .xatom 7 1 2 3 6] = true := by decide
theorem test_wf_registers : refused .statusRegister [.rdmS 7 4 2 4, .rdmS 7 4 2 0] = true ∧ refused .sameRegisters [.mtxAccmv 7 1 4 4] = true ∧
    refused .notAPort [.portBind 7 55 9, .portUnbind 7 0, .portQlen 7 5 55, .portSbind 7 1 2, .portSrel 7 3, .portSstat 7 5 6] = true ∧
    refused .accumulatorIndex [.mtxMma 7 16 1 2, .mtxMmaz 7 16 1 2, .mtxAccld 7 16 1, .mtxAccst 7 31 1, .mtxAccmv 7 16 1 2, .mtxCodeb 7 16,
      .mtxAccq 7 16 1, .mtxAccfree 7 16] = true := by decide
theorem test_wf_boundary : [Instr.fcvt 7 1 2 3 4 2, .i2f 7 1 2 1 2 3, .f2i 7 1 2 3 0 2, .cmp 7 0 7 7 2 3 2, .unop 7 1 2 6 7, .unop 7 1 2 7 6,
    .ldfe 7 1 2 0 5, .pfxT 15 6 0, .gathp 6 1 2 3 6, .xatom 7 1 2 3 5, .mtxMma 7 15 1 2, .portBind 7 56 9].all (fun i => i.defect == none) = true := by decide

/-! ## Decoding, R28 to R36: words of the specification, and words written out from its encodings -/

/-- The word with the fields of format A, R30. -/
def word (g op d a b t : Nat) : IWord := BitVec.ofNat 32 (g * 2 ^ 28 + op * 2 ^ 21 + d * 2 ^ 15 + a * 2 ^ 9 + b * 2 ^ 3 + t)

/-- Each word decodes to its instruction. -/
def reads (l : List (IWord × Instr)) : Bool := l.all (fun e => match decode e.1 with
  | .ok i => i == e.2
  | .error _ => false)

/-- Each word is refused with a defect. -/
def rejects (e : Defect) (l : List IWord) : Bool := l.all (fun w => match decode w with
  | .ok _ => false
  | .error x => x == e)

theorem test_decode_control : reads
    [(0x70000000, .nop 7), (word 7 0x01 63 63 63 7, .br 7 0x1FFFFF), (word 2 0x02 0 0 1 0, .call 2 8), (word 7 0x03 0 9 0 0, .jmp 7 9),
     (word 7 0x03 0 9 0 1, .jmpCall 7 9), (word 7 0x03 0 0 0 2, .jmpRet 7), (word 7 0x04 17 0 63 7, .loop 7 17 0x1FF), (word 7 0x05 0 0 0 0, .endTask 7),
     (0x70C0FFFE, .wait 7 0 31 31 31), (word 7 0x07 1 2 3 0, .opf 7 1 2 3), (word 7 0x08 0 1 2 3, .trap 7 0x213), (0x71200000, .eret 7),
     (word 7 0x0A 4 4 4 1, .gets 7 4 0x821), (0x71748021, .sets 7 41 0x021), (word 7 0x0C 5 0 0 0, .timeGt 7 5), (word 7 0x0C 5 0 0 1, .timeCyc 7 5),
     (word 7 0x0D 0 0 0 7, .brk 7 7), (0x71C00828, .tlbiRange 7 4 5), (word 7 0x0E 0 0 5 1, .tlbiCtx 7 5), (word 7 0x0E 0 4 5 2, .tlbiL1inv 7 4 5),
     (word 7 0x0E 0 4 5 3, .tlbiL1clean 7 4 5), (word 7 0x0E 0 0 0 4, .tlbiPart 7), (0x71E00003, .wcall 7 3)] = true := by decide
theorem test_decode_integer : reads
    [(0x32028C3A, .add 3 5 6 7 2), (word 7 0x11 1 2 3 7, .sub 7 1 2 3 7), (word 7 0x12 1 2 3 0, .mul 7 1 2 3 0), (word 7 0x13 1 2 3 1, .mulh 7 1 2 3 1),
     (word 7 0x14 1 2 3 4, .mad 7 1 2 3 4), (word 7 0x15 1 2 3 5, .min 7 1 2 3 5), (word 7 0x16 1 2 3 6, .max 7 1 2 3 6), (word 7 0x17 1 2 3 2, .absd 7 1 2 3 2),
     (word 7 0x18 1 2 3 2, .and 7 1 2 3 2), (0x132FF003, .or 1 31 56 0 3), (word 7 0x1A 1 2 3 2, .xor 7 1 2 3 2), (word 7 0x1B 1 2 3 2, .andn 7 1 2 3 2),
     (word 7 0x1C 1 2 3 2, .shl 7 1 2 3 2), (word 7 0x1D 1 2 3 2, .shr 7 1 2 3 2), (word 7 0x1E 1 2 3 2, .rot 7 1 2 3 2), (word 7 0x1F 1 2 63 7, .addi 7 1 2 0x1FF),
     (word 7 0x20 1 2 8 2, .unop 7 1 2 8 2), (0x242DA8A9, .sel 2 27 20 21 1), (word 7 0x22 1 2 3 2, .shuf 7 1 2 3 2), (word 7 0x23 1 2 3 2, .bcast 7 1 2 3 2),
     (word 7 0x24 1 2 5 2, .reduce 7 1 2 5 2), (word 7 0x25 1 2 0 2, .scan 7 1 2 0 2), (word 7 0x26 1 1 0 0, .movi 7 1 0x200), (word 7 0x27 1 63 63 7, .movu 7 1 0x7FFF),
     (word 7 0x28 1 2 3 3, .addX 7 1 2 3 3), (word 7 0x29 1 2 3 3, .subX 7 1 2 3 3), (word 7 0x2A 1 2 3 3, .mulX 7 1 2 3 3), (0x75620AA0, .addiX 7 4 5 0x0A0),
     (word 7 0x2C 1 2 3 7, .logicX 7 1 2 3 7), (word 7 0x2D 1 2 3 3, .divX 7 1 2 3 3), (word 7 0x2E 1 0 0 1, .movlX 7 1 1), (word 7 0x2F 1 2 3 0, .laneGet 7 1 2 3),
     (word 7 0x2F 1 2 3 1, .lanePut 7 1 2 3)] = true := by decide
theorem test_decode_compare : reads
    [(0x7645082A, .cmp 7 2 1 2 4 5 2), (0x7613AAC7, .cmp 7 0 4 7 21 24 7), (0x774528A8, .fcmp 7 2 1 2 20 21 0), (word 7 0x58 1 3 4 7, .plogic 7 1 3 4 7),
     (word 7 0x59 1 2 0 0, .pmovPred 7 1 2), (word 7 0x59 1 9 0 1, .pmovFromReg 7 1 9), (word 7 0x59 9 2 0 2, .pmovToReg 7 9 2), (word 7 0x5A 9 1 0 2, .pcnt 7 9 1 2),
     (word 7 0x5B 10 3 0 2, .ptest 7 1 2 3 2), (0x7B80A010, .pset 7 1 2 0x010)] = true := by decide
theorem test_decode_float : reads
    [(word 7 0x40 1 2 3 3, .fadd 7 1 2 3 3), (word 7 0x41 1 2 3 0, .fsub 7 1 2 3 0), (word 7 0x42 1 2 3 1, .fmul 7 1 2 3 1), (word 7 0x43 1 2 3 2, .fma 7 1 2 3 2),
     (word 7 0x44 1 2 3 2, .fnma 7 1 2 3 2), (word 7 0x45 1 2 3 2, .fmin 7 1 2 3 2), (word 7 0x46 1 2 3 2, .fmax 7 1 2 3 2), (word 7 0x47 1 2 3 2, .fminp 7 1 2 3 2),
     (0x190C283A, .funop 1 24 20 7 2), (0x79228C62, .fcvt 7 5 6 1 4 2), (word 7 0x4A 1 2 12 2, .i2f 7 1 2 1 4 2), (word 7 0x4B 1 2 2 3, .f2i 7 1 2 0 2 3),
     (word 7 0x4C 1 2 3 2, .fdiv 7 1 2 3 2), (word 7 0x4D 1 2 0 2, .fsqrt 7 1 2 2), (0x19CA2A02, .ftrans 1 20 21 0 2), (word 7 0x4F 1 2 3 2, .fscale 7 1 2 3 2),
     (word 7 0x50 1 2 3 2, .fdot2 7 1 2 3 2), (word 7 0x51 1 2 3 2, .fdot4 7 1 2 3 2), (word 7 0x52 1 2 2 2, .fred 7 1 2 2 2), (word 7 0x53 1 2 0 2, .fscan 7 1 2 2)] = true := by
  decide
theorem test_decode_memory : reads
    [(0x7C048653, .ldx 7 9 3 10 3), (0x7C221213, .stx 7 4 9 2 3), (0x5C4B8805, .ldv 5 23 4 0), (word 7 0x63 1 2 3 5, .stv 7 1 2 3), (word 7 0x64 1 2 3 6, .gath 7 1 2 3 6),
     (0x1CAA0842, .gathp 1 20 4 8 2), (word 7 0x66 1 2 3 7, .scat 7 1 2 3 7), (0x7CEA2202, .ldfe 7 20 17 0 2), (0x7D029403, .stfe 7 5 10 0 3),
     (0x7D201C11, .feopStf 7 0 14 2), (word 7 0x69 1 2 5 0, .feopLdf 7 1 2 5), (word 7 0x69 0 2 3 2, .feopSete 7 2 3), (word 7 0x69 0 2 3 3, .feopSetf 7 2 3),
     (word 7 0x69 1 2 5 4, .feopQtag 7 1 2), (0x7D460812, .ldt 7 12 4 2 2), (word 7 0x6B 1 2 0 0, .rdm 7 1 2), (0x7D6A18A9, .rdmS 7 20 12 21), (word 7 0x6C 0 2 0 0, .tkrel 7 2),
     (word 7 0x6D 0 2 3 1, .pref 7 2 3 1), (0x7DC00024, .fence 7 4 4), (word 7 0x70 1 2 3 7, .atom32 7 1 2 3 7), (word 7 0x71 1 2 3 4, .atom64 7 1 2 3 4), (0x7E438A35, .xatom 7 7 5 6 5),
     (0x7E6A1093, .scatadd 7 20 8 18 3)] = true := by decide
theorem test_decode_units : reads
    [(0x7E800000, .barFull 7 0), (0x7E828C01, .barArrive 7 5 6), (word 7 0x74 0 6 7 2, .barWait 7 6 7), (0x7EA28C10, .slotAlloc 7 5 6 2), (word 7 0x75 5 6 1 1, .slotFree 7 5 6 1),
     (0x7EC28C00, .launch 7 5 6), (0x7EE38A30, .lctlCancel 7 7 5 6), (0x7EE38A01, .lctlQuery 7 7 5), (0x7EE38A02, .lctlWait 7 7 5), (word 7 0x78 1 2 3 0, .sendPost 7 1 2 3),
     (0x7F028C39, .sendAck 7 5 6 7), (0x7F18ED9A, .sendReply 7 49 54 51), (word 7 0x78 1 2 3 3, .sendEng 7 1 2 3), (0x7F3C0048, .portBind 7 56 9), (0x7F3C0001, .portUnbind 7 56),
     (0x7F22F002, .portQlen 7 5 56), (0x7F3C8063, .portSbind 7 57 12), (0x7F3C8004, .portSrel 7 57), (0x7F22F205, .portSstat 7 5 57), (word 7 0x7A 4 0 9 0, .htabRd 7 4 9),
     (0x7F400849, .htabWr 7 4 9), (word 7 0x7C 1 2 3 0, .cpy 7 1 2 3), (word 7 0x7C 1 2 3 1, .cpyLoop 7 1 2 3), (0x7F800C02, .cpyrel 7 6), (word 7 0x7C 1 2 3 3, .cpyMtx 7 1 2 3),
     (word 7 0x7C 1 2 3 4, .cpyBlk 7 1 2 3), (0x7F84882D, .cpySlab 7 9 4 5), (0x7FA19460, .mtxMma 7 3 10 12), (0x7FA01461, .mtxMmaz 7 0 10 12), (word 7 0x7D 1 2 0 2, .mtxAccld 7 1 2),
     (0x7FA12803, .mtxAccst 7 2 20), (0x1FA02804, .mtxAccmv 1 0 20 0), (0x7FA28005, .mtxCodeb 7 5), (word 7 0x7D 1 2 0 6, .mtxAccq 7 1 2), (0x1FA00007, .mtxAccfree 1 0),
     (0x7FC28048, .eregRd 7 5 9), (0x7FC028A9, .eregWr 7 20 21), (word 7 0x7F 1 2 5 0, .cget 7 1 2 5), (word 7 0x7F 1 2 3 1, .csetb 7 1 2 3), (word 7 0x7F 1 2 3 2, .candp 7 1 2 3),
     (word 7 0x7F 1 2 3 3, .cinc 7 1 2 3), (word 7 0x7F 1 2 3 4, .cseal 7 1 2 3), (word 7 0x7F 1 2 3 5, .cunseal 7 1 2 3), (word 7 0x7F 1 2 3 6, .ctest 7 1 2 3), (word 7 0x7F 1 2 0 7, .cclr 7 1 2),
     (0xF01FE400, .pfxT 15 15 2), (0xF002C000, .pfxT 1 6 0), (0xF0280000, .pfxC 1), (0xF04000C3, .pfxI 0xC3), (0xF0740000, .pfxS 2 4)] = true := by decide
theorem test_decode_rejects : rejects .reservedOpcode [word 7 0x54 0 0 0 0, word 7 0x5D 0 0 0 0, word 7 0x6F 0 0 0 0, word 7 0x7B 0 0 0 0] = true ∧
    rejects .nonZeroField [word 7 0x00 0 0 0 1, word 7 0x05 1 0 0 0, word 7 0x0A 4 8 0 0, word 7 0x76 1 2 0 1, word 7 0x6E 0 0 17 0, 0x70C0FFFF, 0xF0000001] = true ∧
    rejects .undefinedPrefix [0xF0800000, 0xFFFFFFFF] = true ∧ decodeBytes [0x3A, 0x8C, 0x02] = .error .truncated := by decide
theorem test_decode_bytes : decodeBytes [0x3A, 0x8C, 0x02, 0x32, 0xFF] = .ok (.add 3 5 6 7 2, [0xFF]) ∧ decodeTableWord 32 0x32028C3A = some (.add 3 5 6 7 2) ∧
    encode (.add 3 5 6 7 2) = some 0x32028C3A ∧ encode .resetN = none := by decide

/-! ## Small states -/

/-- A module in service with one task that issues, in a slot of a core, and something done to its registers. -/
def small (core slot : Nat) (f : Arch → Arch) : State :=
  { boot := .service, cur := ⟨core, slot⟩, serial := 5,
    cores := [(core, { slots := [(slot, { phase := .live, uid := 4, arch := f { pc := 0x1000 } })] })] }

/-- A little core's number, plate 0, node (12, 4), and a big core's. -/
def little : Nat := 0x610
def big : Nat := bigId 0 0 0

/-- A register as 32-bit elements, from element 0. -/
def lanes (l : List Nat) : Vec := BitVec.ofNat 1024 (packList 32 l)

/-- The small state on the little core with elements of 32 bits in v2, v3 and v4. -/
def ints (a b d : List Nat) : State :=
  small little 0 (fun r => ((r.setVec 2 (lanes a)).setVec 3 (lanes b)).setVec 4 (lanes d))

/-- What an instruction of the small state answers satisfies a check; it is a next state. -/
def after (i : Instr) (s : State) (p : State → Bool) : Bool := match exec i s with
  | .next t => p t
  | _ => false

/-- The first elements of v4 after an instruction on v2 and v3. -/
def gives (i : Instr) (w : Nat) (s : State) (l : List Nat) : Bool :=
  after i s (fun t => (List.range l.length).all (fun k => elem (t.me.arch.reg 4).v w k == l[k]?.getD 0) && t.me.arch.pc == 0x1004)

theorem test_add_sub : gives (.add 7 4 2 3 2) 32 (ints [0xFFFFFFFF, 5] [2, 0x80000000] []) [1, 0x80000005] = true ∧
    gives (.sub 7 4 2 3 0) 8 (ints [0x0001] [0x0102] []) [0xFF, 0xFF] = true := by decide +kernel
theorem test_mul : gives (.mul 7 4 2 3 2) 32 (ints [0x10001, 7] [0x10001, 9] []) [0x20001, 63] = true ∧
    gives (.mulh 7 4 2 3 2) 32 (ints [0xFFFFFFFF] [2] []) [0xFFFFFFFF] = true ∧ gives (.mulh 7 4 2 3 6) 32 (ints [0xFFFFFFFF] [2] []) [1] = true ∧
    gives (.mad 7 4 2 3 2) 32 (ints [3] [5] [100]) [115] = true := by decide +kernel
theorem test_min_max_absd : gives (.min 7 4 2 3 2) 32 (ints [0xFFFFFFFF] [1] []) [0xFFFFFFFF] = true ∧ gives (.min 7 4 2 3 6) 32 (ints [0xFFFFFFFF] [1] []) [1] = true ∧
    gives (.max 7 4 2 3 2) 32 (ints [0xFFFFFFFF] [1] []) [1] = true ∧ gives (.absd 7 4 2 3 2) 32 (ints [0x80000000] [0x7FFFFFFF] []) [0xFFFFFFFF] = true := by decide +kernel
theorem test_logic : gives (.and 7 4 2 3 2) 32 (ints [0xF0F0] [0xFF00] []) [0xF000] = true ∧ gives (.or 7 4 2 3 2) 32 (ints [0xF0F0] [0xFF00] []) [0xFFF0] = true ∧
    gives (.xor 7 4 2 3 2) 32 (ints [0xF0F0] [0xFF00] []) [0x0FF0] = true ∧ gives (.andn 7 4 2 3 2) 32 (ints [0xF0F0] [0xFF00] []) [0x00F0] = true := by decide +kernel
theorem test_shifts : gives (.shl 7 4 2 3 2) 32 (ints [1, 1, 1] [31, 32, 0xFFFFFFFF] []) [0x80000000, 0, 0] = true ∧
    gives (.shr 7 4 2 3 2) 32 (ints [0x80000000, 0x80000000] [31, 99] []) [0xFFFFFFFF, 0xFFFFFFFF] = true ∧
    gives (.shr 7 4 2 3 6) 32 (ints [0x80000000, 0x80000000] [31, 32] []) [1, 0] = true ∧ gives (.rot 7 4 2 3 2) 32 (ints [0x80000001] [33] []) [3] = true := by decide +kernel
theorem test_immediates : gives (.addi 7 4 2 0x1FF) 32 (ints [0, 5] [] []) [0xFFFFFFFF, 4] = true ∧ gives (.movi 7 4 0x7FFF) 32 (ints [] [] []) [0xFFFFFFFF, 0xFFFFFFFF] = true ∧
    gives (.movu 7 4 1) 32 (ints [] [] [0xFFFFFFFF]) [0x3FFFF] = true ∧ gives (.movlX 7 4 0x4000) 64 (ints [] [] [1, 1, 1, 1]) [0xFFFFFFFFFFFFC000, 0] = true := by decide +kernel
theorem test_unop : gives (.unop 7 4 2 0 2) 32 (ints [0] [] []) [0xFFFFFFFF] = true ∧ gives (.unop 7 4 2 2 2) 32 (ints [0x80000000] [] []) [0x80000000] = true ∧
    gives (.unop 7 4 2 3 2) 32 (ints [0, 1] [] []) [32, 31] = true ∧ gives (.unop 7 4 2 4 2) 32 (ints [0xF00F] [] []) [8] = true ∧
    gives (.unop 7 4 2 5 2) 32 (ints [1] [] []) [0x80000000] = true ∧ gives (.unop 7 4 2 6 2) 32 (ints [0x11223344] [] []) [0x44332211] = true ∧
    gives (.unop 7 4 2 7 2) 64 (ints [0x80000000] [] []) [0xFFFFFFFF80000000] = true ∧ gives (.unop 7 4 2 8 2) 64 (ints [0x80000000] [] []) [0x80000000] = true := by decide +kernel
theorem test_permute : gives (.shuf 7 4 2 3 2) 32 (ints [10, 11, 12] [2, 0, 32] []) [12, 10, 0] = true ∧ gives (.bcast 7 4 2 3 2) 32 (ints [10, 11] [1] []) [11, 11, 11] = true ∧
    gives (.reduce 7 4 2 0 2) 32 (ints [1, 2, 3] [] [9, 9]) [6, 0] = true ∧ gives (.scan 7 4 2 0 2) 32 (ints [1, 2, 3] [] []) [1, 3, 6, 6] = true ∧
    gives (.sel 7 4 2 3 2) 32 (ints [1] [2] []) [1] = true := by decide +kernel
theorem test_scalar : gives (.addX 7 4 2 3 2) 64 (ints [0x7FFFFFFF] [1] [7, 7, 7]) [0xFFFFFFFF80000000, 0] = true ∧
    gives (.mulX 7 4 2 3 2) 64 (ints [0xFFFFFFFF, 0xFFFFFFFF] [2] []) [0xFFFFFFFFFFFFFFFF] = true ∧ gives (.divX 7 4 2 3 0) 64 (ints [7] [0xFFFFFFFE, 0xFFFFFFFF] []) [0xFFFFFFFFFFFFFFFD] = true ∧
    gives (.divX 7 4 2 3 0) 64 (ints [7] [] []) [0xFFFFFFFFFFFFFFFF] = true ∧ gives (.divX 7 4 2 3 3) 64 (ints [7] [] []) [7] = true ∧
    gives (.divX 7 4 2 3 0) 64 (ints [0, 0x80000000] [0xFFFFFFFF, 0xFFFFFFFF] []) [0x8000000000000000] = true ∧
    gives (.logicX 7 4 2 3 6) 64 (ints [0, 0x80000000] [64] []) [0xFFFFFFFFFFFFFFFF] = true ∧ gives (.lanePut 7 4 2 3) 64 (ints [5] [17] [1, 0, 2]) [1, 5] = true := by decide +kernel
theorem test_guard : after (.add 0 4 2 3 2) (small little 0 (fun r => ((r.setVec 2 (lanes [1, 1])).setVec 3 (lanes [2, 2])).setPred 0 0xF0))
      (fun t => elem (t.me.arch.reg 4).v 32 0 == 0 && elem (t.me.arch.reg 4).v 32 1 == 0 && elem (t.me.arch.reg 4).v 32 2 == 0) = true ∧
    after (.add 0 4 2 3 2) (small little 0 (fun r => ((r.setVec 2 (lanes [1, 1])).setVec 3 (lanes [2, 2])).setPred 0 4))
      (fun t => elem (t.me.arch.reg 4).v 32 0 == 0 && elem (t.me.arch.reg 4).v 32 1 == 3) = true ∧
    after (.add 7 0 2 3 2) (ints [1] [2] []) (fun t => t.me.arch.reg 0 == {} && t.me.arch.pc == 0x1004) = true := by decide +kernel
theorem test_predicates : after (.cmp 7 2 1 2 2 3 2) (ints [0xFFFFFFFF, 5] [0, 5] []) (fun t => (t.me.arch.pred 1).toNat % 256 == 0x03 && (t.me.arch.pred 2).toNat % 256 == 0xFC) = true ∧
    after (.pset 7 1 2 3) (ints [] [] []) (fun t => t.me.arch.pred 1 == 0x3F) = true ∧
    after (.plogic 7 1 2 3 3) (small little 0 (fun r => (r.setPred 2 6).setPred 3 3)) (fun t => t.me.arch.pred 1 == 4) = true ∧
    after (.pcnt 7 4 1 2) (small little 0 (fun r => r.setPred 1 5)) (fun t => elem (t.me.arch.reg 4).v 64 0 == 2) = true := by decide +kernel
theorem test_float_arithmetic : gives (.fadd 7 4 2 3 2) 32 (ints [0x3F800000, 0x7F7FFFFF] [0x40000000, 0x7F7FFFFF] []) [0x40400000, 0x7F800000] = true ∧
    gives (.fsub 7 4 2 3 2) 32 (ints [0x3F800000] [0x3F800000] []) [0] = true ∧ gives (.fmul 7 4 2 3 2) 32 (ints [0x40000000] [0xBF800000] []) [0xC0000000] = true ∧
    gives (.fma 7 4 2 3 2) 32 (ints [0x40000000] [0x40400000] [0x3F800000]) [0x40E00000] = true ∧ gives (.fnma 7 4 2 3 2) 32 (ints [0x40000000] [0x40400000] [0x3F800000]) [0xC0A00000] = true := by
  decide +kernel
theorem test_float_flags : after (.fadd 7 4 2 3 2) (ints [0x7F7FFFFF] [0x7F7FFFFF] []) (fun t => t.me.arch.sr == 0x28 || t.me.arch.sr == 0xA0) = true ∧
    after (.fadd 7 4 2 3 2) (ints [0x3F800000] [0x40000000] []) (fun t => t.me.arch.sr == 0) = true := by decide +kernel
theorem test_float_choice : gives (.fmin 7 4 2 3 2) 32 (ints [0x7FC00000] [0x3F800000] []) [0x3F800000] = true ∧ gives (.fmax 7 4 2 3 2) 32 (ints [0x80000000] [0] []) [0] = true ∧
    gives (.fscale 7 4 2 3 2) 32 (ints [0x3F800000] [1] []) [0x40000000] = true ∧ gives (.funop 7 4 2 1 2) 32 (ints [0x3F800000] [] []) [0xBF800000] = true := by decide +kernel
theorem test_conversions : gives (.i2f 7 4 2 0 2 2) 32 (ints [3, 0xFFFFFFFF] [] []) [0x40400000, 0xBF800000] = true ∧
    gives (.f2i 7 4 2 0 2 2) 32 (ints [0x40700000, 0xC0200000] [] []) [4, 0xFFFFFFFE] = true ∧
    gives (.fcvt 7 4 2 0 0 2) 16 (ints [0x3F800000] [] []) [0x3C00] = true := by decide +kernel
theorem test_float_reductions : gives (.fred 7 4 2 0 2) 32 (ints [0x3F800000, 0x40000000] [] []) [0x40400000, 0] = true ∧
    after (.fcmp 7 2 1 2 2 3 2) (ints [0x3F800000] [0x40000000] []) (fun t => (t.me.arch.pred 1).toNat % 4 == 3) = true := by decide +kernel
theorem test_float_big : after (.fdiv 7 4 2 3 2) (small big 0 (fun r => (r.setVec 2 (lanes [0x40400000])).setVec 3 (lanes [0x40000000])))
      (fun t => elem (t.me.arch.reg 4).v 32 0 == 0x3FC00000) = true ∧
    after (.fdiv 7 4 2 3 2) (ints [1] [1] []) (fun t => t.guests.length == 1 && t.me.ship.isSome && t.me.arch.pc == 0x1004) = true := by decide +kernel

/-! ## Control flow, traps, special registers and capabilities -/

/-- A capability register, and the small state whose code capability covers the first megabyte and whose context has a handler at
0x4000, with something done to its registers and its slot. -/
def cap (perm lo len at_ : Nat) : Reg := match Cap.make perm 0 lo len at_ with
  | some k => capReg k.toBits true
  | none => {}
def code : CapBits := (cap 4 0 0x100000 0).v.setWidth 128
def handled (f : Slot → Slot) : State :=
  ({ small little 0 (fun r => { r with code := code, codeTag := true }) with
     ctxs := [(1, { tvec := 0x4000, tsz := 10, tcode := some code, tstk := some ((cap 3 0x10000 0x4000 0x10000).v.setWidth 128) })] } : State).updMe
    (fun x => f { x with ctxid := 1 })
def placed (f : Arch → Arch) : State := handled (fun x => { x with arch := f x.arch })

theorem test_branches : after (.br 7 0x1FFFFF) (placed id) (fun t => t.me.arch.pc == 0xFFC) = true ∧
    after (.call 7 4) (placed id) (fun t => t.me.arch.pc == 0x1010 && (t.me.arch.reg 1).tag && (t.me.arch.reg 1).cap.addr == 0x1004) = true ∧
    after (.loop 7 5 8) (placed (fun r => r.setScalar 5 2)) (fun t => t.me.arch.pc == 0x1020 && elem (t.me.arch.reg 5).v 64 0 == 1) = true ∧
    after (.loop 7 5 8) (placed (fun r => r.setScalar 5 1)) (fun t => t.me.arch.pc == 0x1004 && elem (t.me.arch.reg 5).v 64 0 == 0) = true ∧
    after (.br 7 0) (small little 0 id) (fun t => t.me.phase == .stopped) = true ∧
    after (.br 7 0x0FFFFF) (placed id) (fun t => t.me.tcause.toNat % 256 == 6 && t.me.tval == 0x400FFC) = true := by decide +kernel
theorem test_jumps : after (.jmp 7 9) (placed (fun r => r.setReg 9 (cap 4 0x2000 0x100 0x2010))) (fun t => t.me.arch.pc == 0x2010) = true ∧
    after (.jmpCall 7 9) (placed (fun r => r.setReg 9 (cap 4 0x2000 0x100 0x2010))) (fun t => t.me.arch.pc == 0x2010 && (t.me.arch.reg 1).cap.addr == 0x1004) = true ∧
    after (.jmp 7 9) (placed (fun r => r.setReg 9 (cap 4 0x2000 0x100 0x2012))) (fun t => t.me.tcause.toNat % 256 == 7) = true ∧
    after (.jmp 7 9) (placed id) (fun t => t.me.tcause.toNat % 256 == 3) = true := by decide +kernel

theorem test_trap_entry : after (.trap 7 9) (handled id) (fun t => t.me.arch.pc == 0x4000 && t.me.tpc == 0x1004 && t.me.tcause.toNat == 16 && t.me.tval == 9 &&
      t.me.arch.trapped && t.me.arch.sup && (t.me.arch.reg 2).cap.addr == 0x10400) = true ∧
    after (.brk 7 9) (handled id) (fun t => t.me.tpc == 0x1000 && t.me.tcause == 17) = true ∧
    after (.eret 7) (handled id) (fun t => t.me.tcause == 2) = true := by decide +kernel
theorem test_eret : after (.eret 7) (handled (fun x => { x with arch := { x.arch with sr := 0xC00 }, tpc := 0x1234, shadowCode := code, shadowTag := true }))
    (fun t => t.me.arch.pc == 0x1234 && !t.me.arch.trapped && !t.me.arch.sup) = true := by decide +kernel
theorem test_special : after (.sets 7 5 0) (placed (fun r => r.setScalar 5 0xFA)) (fun t => t.me.arch.sr == 0xFA) = true ∧
    after (.sets 7 5 0) (placed (fun r => r.setScalar 5 5)) (fun t => t.me.tcause.toNat % 256 == 1) = true ∧
    after (.gets 7 4 0x021) (placed id) (fun t => t.me.tcause.toNat % 256 == 2 && t.me.tval == 0x021) = true ∧
    after (.gets 7 4 0x021) ((placed (fun r => { r with sr := 0x400 })).updMe (fun x => { x with tpc := 77 })) (fun t => elem (t.me.arch.reg 4).v 64 0 == 77) = true ∧
    after (.gets 7 4 0x030) (placed (fun r => { r with sr := 0x400 })) (fun t => t.me.tcause.toNat % 256 == 1) = true := by decide +kernel
theorem test_prefix : after (.pfxI 1) (placed id) (fun t => t.me.arch.pc == 0x1004 && t.me.arch.sr == 0x100 && t.me.arch.pfx.i == some 1) = true ∧
    after (.addi 7 4 2 0) (placed (fun r => { r with pfx := { i := some 1, first := some 0xFFC } }))
      (fun t => elem (t.me.arch.reg 4).v 32 0 == 512 && t.me.arch.pfx == {}) = true ∧
    after (.add 7 4 2 3 2) (placed (fun r => { r with pfx := { i := some 1, first := some 0xFFC } })) (fun t => t.me.tcause.toNat % 256 == 1 && t.me.tpc == 0xFFC) = true := by
  decide +kernel
theorem test_capabilities : after (.csetb 7 4 2 3) (placed (fun r => (r.setReg 2 (cap 3 0x100 0x100 0x180)).setScalar 3 16))
      (fun t => (t.me.arch.reg 4).tag && (t.me.arch.reg 4).cap.base == 0x180 && (t.me.arch.reg 4).cap.top == 0x190) = true ∧
    after (.candp 7 4 2 3) (placed (fun r => (r.setReg 2 (cap 3 0x100 0x100 0x180)).setScalar 3 1)) (fun t => (t.me.arch.reg 4).cap.perm == 1) = true ∧
    after (.cinc 7 4 2 3) (placed (fun r => (r.setReg 2 (cap 3 0x100 0x100 0x180)).setScalar 3 (2 ^ 64 - 0x80))) (fun t => (t.me.arch.reg 4).cap.addr == 0x100) = true ∧
    after (.cget 7 4 2 2) (placed (fun r => r.setReg 2 (cap 3 0x100 0x100 0x180))) (fun t => elem (t.me.arch.reg 4).v 64 0 == 0x100) = true ∧
    after (.csetb 7 4 2 3) (placed id) (fun t => t.me.tcause.toNat % 256 == 3) = true := by decide +kernel

/-! ## Storage -/

/-- The address of the scratchpad's first byte, and a task with a capability over it in v9. -/
def pad : Nat := localKey little 0 0
def scratch (f : Arch → Arch) : State := placed (fun r => f (r.setReg 9 (cap 0x1F pad 0x20000 pad)))

theorem test_store : after (.stx 7 4 9 1 2) (scratch (fun r => r.setVec 4 (lanes [0x11223344])))
    (fun t => t.byte (pad + 4) == 0x44 && t.byte (pad + 7) == 0x11 && t.byte (pad + 8) == 0 && t.me.stc == 1) = true := by decide +kernel
theorem test_load : after (.ldx 7 4 9 0 2) ((scratch id).store pad 4 0x80000001)
      (fun t => after (.loadCompletion 5) t (fun u => elem (u.me.arch.reg 4).v 64 0 == 0x80000001 && u.me.ldc == 0)) = true ∧
    after (.ldx 7 4 9 0 2) (placed (fun r => r.setReg 9 (cap 0x1F pad 0x20000 (pad + 2)))) (fun t => t.me.tcause.toNat % 256 == 7) = true ∧
    after (.ldx 7 4 9 0 2) (placed (fun r => r.setReg 9 (cap 2 pad 0x20000 pad))) (fun t => t.me.tcause.toNat % 256 == 5) = true := by decide +kernel

/-! ## The hypotheses of the statements are met

For each statement with hypotheses, states and operands that meet those of each of its clauses. -/

/-- `Ready` as a check. -/
def isReady (s : State) (i : Instr) : Bool :=
  s.mayIssue s.cur.core s.cur.slot && decide i.wf && pfxOk i s.me.arch.pfx && (s.me.blockers (s.uses i) (guardPred i) == []) &&
    (s.me.ship == none) && (s.uses i).src.all (fun r => !s.me.bound r && !s.me.badRegs.contains r) &&
    !guardedOff (governsOf i) (s.mask ((i.guard?).getD 7)) s.me.peek

theorem ready_of_isReady {s : State} {i : Instr} (h : isReady s i = true) : Ready i s := by
  simp only [isReady, Bool.and_eq_true, Bool.not_eq_true', decide_eq_true_eq, beq_iff_eq, List.all_eq_true] at h
  obtain ⟨⟨⟨⟨⟨⟨h1, h2⟩, h3⟩, h4⟩, h5⟩, h6⟩, h7⟩ := h
  exact ⟨h1, h2, h3, h4, h5, fun r hr => (h6 r hr).1, fun r hr => by simpa using (h6 r hr).2, h7⟩

def ready (s : State) (l : List Instr) : Bool := l.all (isReady s)

/-- Every type at which a form is legal. -/
def types (n : Nat) (f : BitVec 3 → Instr) : List Instr := (List.range n).map (fun t => f (BitVec.ofNat 3 t))

theorem test_hyp_IntegerElements : ready (ints [1] [2] [3]) ([Instr.add, .sub, .mul, .mulh, .mad, .min, .max, .absd, .and, .or, .xor, .andn,
    .shl, .shr, .rot].flatMap (fun i => types 8 (i 7 63 62 1) ++ types 8 (i 8 4 2 3))) = true := by decide +kernel
theorem test_hyp_IntegerMovesAndReductions :
    ready (ints [1] [2] [3]) ([.addi 7 63 62 0x1FF, .movi 8 4 0x7FFF, .movu 7 4 0] ++ types 8 (.unop 7 4 2 0) ++ types 8 (.unop 7 4 2 6) ++
      (types 8 (.unop 7 4 2 7)).filter (·.wf) ++ (types 8 (.unop 7 4 2 8)).filter (·.wf) ++ types 8 (.sel 7 4 2 3) ++ types 8 (.shuf 7 4 2 3) ++
      types 8 (.bcast 7 4 2 3) ++ (List.range 6).flatMap (fun o => types 8 (.reduce 7 4 2 (BitVec.ofNat 6 o)) ++ types 8 (.scan 7 4 2 (BitVec.ofNat 6 o)))) =
      true := by decide +kernel
theorem test_hyp_ScalarGroup :
    ready (ints [1] [2] [3]) (types 8 (.addX 7 4 2 3) ++ types 8 (.subX 7 4 2 3) ++ types 4 (.mulX 7 4 2 3) ++ [.addiX 7 4 2 0x100, .movlX 7 4 0x4000] ++
      types 8 (.logicX 7 4 2 3) ++ types 4 (.divX 7 4 2 3) ++ [.laneGet 7 4 2 3, .lanePut 7 4 2 3]) = true ∧
    (ints [1] [2] [3]).sca 3 ≠ 0 ∧ ready (ints [1] [0] [3]) (types 4 (.divX 7 4 2 3)) = true ∧ (ints [1] [0] [3]).sca 3 = 0 := by decide +kernel
theorem test_hyp_ComparesAndPredicates :
    ready (ints [1] [2] []) ((List.range 8).flatMap (fun c => types 8 (.cmp 7 (BitVec.ofNat 3 c) 7 0 2 3))) = true ∧
    ready (placed (fun r => { r with pfx := { c := some 0x100000, first := some 0xFFC } })) [.cmp 7 0 1 2 2 3 2] = true ∧
    ready (ints [] [] []) (types 8 (.plogic 7 1 2 3) ++ [.pmovPred 7 1 7, .pmovFromReg 7 1 2, .pmovToReg 7 4 1] ++ types 8 (.pcnt 7 4 1) ++
      types 8 (.ptest 7 1 2 3) ++ [.pset 7 1 0 0, .pset 7 1 3 0xFFF]) = true := by decide +kernel

/-- The big core with values in v2, v3 and v4. -/
def floats : State := small big 7 (fun r => ((r.setVec 2 (lanes [0x3F800000])).setVec 3 (lanes [0x40000000])).setVec 4 (lanes [0x40400000]))

/-- The float instructions with a type, and those that only a big core executes. -/
def floatForms : List Instr := [Instr.fadd, .fsub, .fmul, .fma, .fnma, .fmin, .fmax, .fminp, .fscale, .fdiv].flatMap (fun i => types 4 (i 7 4 2 3)) ++
  types 4 (.fsqrt 7 4 2) ++ (List.range 8).flatMap (fun o => types 4 (.ftrans 7 4 2 (BitVec.ofNat 6 o)) ++ types 4 (.funop 7 4 2 (BitVec.ofNat 6 o)))

theorem test_hyp_FloatElements : ready floats floatForms = true ∧ isBig floats.cur.core = true ∧
    ready (ints [] [] []) (floatForms.filter (fun i => !shipped i)) = true := by decide +kernel

/-- A little core's task with a pending PFX.T that names record 1, and a BOUND of binary32 in it. -/
def record (bound : Nat) (f : State → State) : State :=
  f ((placed (fun r => { r with pfx := { t := some 0x1FE200, first := some 0xFFC } })).store (recordKey little 1) 64 (bound * 2 ^ 288))

/-- An operation of the task on its way, over storage. -/
def sending (e : Elem) (o : Op) (s : State) : State := { s with ops := s.ops.set 3 { o with task := ⟨little, 0, 4⟩, elems := [e] } }

theorem test_hyp_FloatOthers :
    ready floats ([.fcvt 7 4 2 0 3 2, .fcvt 7 4 2 3 4 2, .i2f 7 4 2 0 2 3, .f2i 7 4 2 0 2 3] ++ types 4 (.fred 7 4 2 0) ++ types 4 (.fscan 7 4 2) ++ [.fdot2 7 4 2 3 2] ++
      types 4 (.fcmp 7 7 0 7 2 3)) = true ∧ prsOf floats.me.arch.pfx.t = 0 ∧
    ready (placed (fun r => { r with pfx := { t := some 0x08A000, first := some 0xFFC } })) [.fdot4 7 4 2 3 2] = true ∧
    ready (record 0x7F7FFFFF id) [.fcvt 7 4 2 0 2 0] = true ∧ prsOf (record 0 id).me.arch.pfx.t = 1 ∧
    (record 0 id).storesPending (record 0 id).myRef (recordKey little 1) 64 = false ∧
    validBound (Fmt.ofCode 2) (recordBound ((record 0x7F7FFFFF id).readMem (recordKey little 1) 64) 2) = true ∧
    validBound (Fmt.ofCode 2) (recordBound ((record 0x7F800000 id).readMem (recordKey little 1) 64) 2) = false ∧
    (let s := record 0 (sending { key := recordKey little 1 + 60, n := 4, va := 0, act := .write 15 0 false } { task := ⟨0, 0, 0⟩ })
     s.storesPending s.myRef (recordKey little 1) 64 = true ∧ isReady s (.fcvt 7 4 2 0 2 0) = true) := by decide +kernel
theorem test_hyp_Shipped :
    (let l := floatForms.filter shipped ++ [.fred 7 4 2 0 3, .fscan 7 4 2 3, .i2f 7 4 2 0 2 3, .f2i 7 4 2 0 2 3, .fcmp 7 0 7 1 2 3 3, .fcvt 7 4 2 0 3 2]
     ready (ints [] [] []) l = true ∧ l.all shipped = true ∧ l.length = 63) ∧ isBig little = false ∧
    ready (record 0 id) [.fcvt 7 4 2 0 2 3] = true ∧ shipped (.fcvt 7 4 2 0 2 3) = true ∧
    validBound (Fmt.ofCode 2) (recordBound ((record 0 id).readMem (recordKey little 1) 64) 2) = true := by decide +kernel

/-- The task on the big core, with a context that has a handler, and its supervisor flag. -/
def onBig (slot : Nat) (f : Slot → Slot) : State :=
  { (small big slot id).updMe (fun x => f { x with ctxid := 1, arch := { x.arch with code := code, codeTag := true, sr := 0x400 } }) with
    ctxs := [(1, { tvec := 0x4000, tcode := some code })] }

/-- A capability register sealed with an object type. -/
def sealedAs (n : Nat) (r : Reg) : Reg := { r with v := ({ r.cap with otype := BitVec.ofNat 16 n } : Cap).toBits.setWidth 1024 }

theorem test_hyp_ControlFlow :
    ready (placed id) [.nop 7, .br 7 0x1FFFFF, .call 7 0, .jmp 7 9, .jmpCall 7 9, .jmpRet 7, .loop 7 5 0x1FF] = true ∧
    (let c := Cap.ofBits code
     capCheck true c [.ex] 0 4 = none ∧ capCheck true c [.ex] 0xFFFFC 4 = none ∧ c.otype = 0 ∧ c.has .ex = true ∧ ¬ (0x100000 + 4 ≤ c.top)) ∧
    [0, 1, 2].map (fun n => (placed (fun r => r.setScalar 5 n)).sca 5) = [0, 1, 2] ∧
    (let k := (cap 4 0x2000 0x100 0x20FC).cap
     (cap 4 0x2000 0x100 0x20FC).tag = true ∧ k.otype = 0 ∧ k.has .ex = true ∧ k.addr.toNat % 4 = 0 ∧ k.covers 0x20FC 4 = true) ∧
    ready (placed (fun r => r.setReg 9 (cap 4 0x2000 0x100 0x20FC))) [.jmp 7 9] = true ∧
    ready (placed (fun r => r.setReg 1 (cap 4 0x2000 0x100 0x20FC))) [.jmpRet 7] = true ∧
    (cap 4 0x2000 0x100 0x2100).cap.covers 0x2100 4 = false ∧ (cap 4 0x2000 0x100 0x2001).cap.addr.toNat % 4 ≠ 0 ∧
    (cap 1 0x2000 0x100 0x2000).cap.has .ex = false ∧ (sealedAs 2 (cap 4 0x2000 0x100 0x2000)).cap.otype = 2 ∧
    (sealedAs 2 (cap 4 0x2000 0x100 0x2000)).tag = true ∧ ({} : Reg).tag = false := by decide +kernel
theorem test_hyp_WaitsTimersAndEnd :
    ready (placed id) [.wait 7 31 0 31 31, .opf 7 0 0 0, .timeGt 7 4, .timeCyc 7 4, .endTask 7] = true ∧
    (placed id).me.stc ≤ 0 ∧ ¬ ((handled (fun x => { x with stc := 1 })).me.stc ≤ 0) ∧
    ready (handled (fun x => { x with stc := 1 })) [.wait 7 31 0 31 31, .endTask 7] = true ∧
    (let x := (placed id).me
     x.ldc = 0 ∧ x.stc = 0 ∧ x.cpc = 0 ∧ x.mxc = 0 ∧ x.arch.trapped = false ∧ x.gangId = none ∧ ∀ q < 8, (x.port q).mode ≠ 1) ∧
    (let s := handled (fun x => { x with arch := { x.arch with sr := 0xC00 } })
     ready s [.endTask 7] = true ∧ s.me.arch.trapped = true ∧ s.cur.slot ≠ 8) ∧
    ready (onBig 8 id) [.endTask 7] = true ∧ (onBig 8 id).cur.slot = 8 := by decide +kernel
theorem test_hyp_TrapEntry :
    (let s := placed id
     (s.slot little 0).arch.trapped = false ∧ (s.trapSetup little 0).tvec ≠ 0) ∧ ((small little 0 id).trapSetup little 0).tvec = 0 ∧
    ((handled (fun x => { x with arch := { x.arch with sr := 0x800 } })).slot little 0).arch.trapped = true := by decide +kernel
theorem test_hyp_TrapInstructions :
    ready (placed id) [.trap 7 0x7FFF, .brk 7 0, .eret 7] = true ∧ (placed id).me.arch.trapped = false ∧
    (let s := handled (fun x => { x with arch := { x.arch with sr := 0x800 } })
     ready s [.eret 7] = true ∧ s.me.arch.trapped = true ∧ s.cur.slot ≠ 8) ∧
    (let s := onBig 8 (fun x => { x with arch := { x.arch with sr := 0x800 } })
     ready s [.eret 7] = true ∧ s.me.arch.trapped = true ∧ s.cur.slot = 8) := by decide +kernel
theorem test_hyp_Prefixes :
    (let s := placed id
     s.mayIssue s.cur.core s.cur.slot = true ∧ s.me.ship = none ∧ s.me.arch.pfx = {}) ∧
    (let s := placed (fun r => { r with pfx := { t := some 0, c := some 0, i := some 0, s := some 0, first := some 0xFF0 } })
     s.mayIssue s.cur.core s.cur.slot = true ∧ s.me.ship = none ∧ s.me.arch.pfx.t ≠ none ∧ s.me.arch.pfx.c ≠ none) ∧
    [Instr.pfxT 15 15 15, .pfxT 0 1 0, .pfxC 1, .pfxC 2, .pfxI 0x1FFFFF, .pfxS 2 4, .pfxS 1 0].all (fun i => decide i.wf) = true := by decide +kernel

/-- The special registers of the table of R82. -/
def specials : List Nat := [0x000, 0x001, 0x010, 0x011, 0x012, 0x013, 0x014, 0x020, 0x021, 0x022, 0x023, 0x024, 0x030, 0x031, 0x032, 0x040, 0x047, 0x050, 0x060]

theorem test_hyp_SpecialRegisterReads :
    ready (onBig 7 id) (specials.map (fun n => .gets 7 4 (BitVec.ofNat 12 n))) = true ∧ isBig (onBig 7 id).cur.core = true ∧
    (onBig 7 id).me.arch.sup = true ∧ (onBig 7 id).me.mxc = 0 := by decide +kernel
theorem test_hyp_SpecialRegisterWrites :
    ready (onBig 7 id) (specials.map (fun n => .sets 7 4 (BitVec.ofNat 12 n))) = true ∧
    (let s := onBig 7 (fun x => { x with arch := x.arch.setScalar 4 16 })
     s.sca 4 % 32 ≤ 16 ∧ (s.cmds.any (fun m => m.2.core == big)) = false) ∧ (onBig 7 id).sca 4 = 0 ∧
    ready (onBig 8 id) [.sets 7 4 0x023] = true ∧ (onBig 8 id).cur.slot = 8 ∧
    (let v := 4 * little
     v % 4 = 0 ∧ isLittle (v % 2 ^ 16 / 4) = true ∧ (onBig 7 id).isEasel (v % 2 ^ 16 / 4) = false) ∧
    (let v := 2 ^ 62 + 2 * 2 ^ 40 + 3
     spillIllegal true v = false ∧ (onBig 7 id).spillRange big (BitVec.ofNat 64 v) = false ∧
     (onBig 7 (fun x => { x with arch := x.arch.setScalar 4 v })).sca 4 = v) ∧
    (let v := 2 * 2 ^ 62 + 64 * 2 ^ 40 + 191
     spillIllegal false v = false ∧ (onBig 7 id).spillRange little (BitVec.ofNat 64 v) = false) := by decide +kernel
theorem test_hyp_SpecialRegisterFaults :
    (let s := placed (fun r => r.setScalar 4 5)
     ready s [.gets 7 4 0x002, .gets 7 4 0x030, .gets 7 4 0x050, .gets 7 4 0xFFF, .sets 7 4 0x014, .sets 7 4 0x048, .sets 7 4 0x060, .sets 7 4 0, .sets 7 4 0x047] = true ∧
     isBig s.cur.core = false ∧ s.me.arch.sup = false ∧ 4 < s.sca 4 % 8 ∧ s.sca 4 ≠ 0) ∧
    (let s := onBig 7 (fun x => { x with arch := x.arch.setScalar 4 17 })
     ready s [.sets 7 4 0x030, .sets 7 4 0x060, .sets 7 4 0x050] = true ∧ s.me.arch.sup = true ∧ 16 < s.sca 4 % 32 ∧ spillIllegal true (s.sca 4) = true ∧ s.sca 4 % 4 ≠ 0) ∧
    (let s := onBig 7 (fun x => { x with arch := x.arch.setScalar 4 (2 ^ 62 + 2 * 2 ^ 40 + 7) })
     ready s [.sets 7 4 0x060] = true ∧ spillIllegal true (s.sca 4) = false ∧ s.spillRange big (BitVec.ofNat 64 (s.sca 4)) = true) := by decide +kernel
theorem test_hyp_RegisterWriteEvents :
    (4 : Word).toNat % 8 ≤ 4 ∧ (16 : Word).toNat % 32 ≤ 16 ∧ ((onBig 7 id).cmds.any (fun m => m.2.core == big)) = false ∧
    spillIllegal true 0 = false ∧ (onBig 7 id).spillRange big 0 = false ∧ isLittle little = true ∧ (onBig 7 id).isEasel little = false := by decide +kernel

/-- Capabilities in v2 and v3, and a number in v3's place. -/
def caps (a b : Reg) (sr : Word) : State := placed (fun r => { (r.setReg 2 a).setReg 3 b with sr := sr })

theorem test_hyp_CapabilityResults :
    (let s := caps (cap 3 0x100 0x100 0x180) {} 0
     ready s [.cget 7 4 2 0, .cget 7 4 2 5, .csetb 7 4 2 3, .candp 7 4 2 3, .cinc 7 4 2 3, .ctest 7 4 2 3, .cclr 7 4 2] = true ∧
     (s.me.arch.reg 2).tag = true ∧ (s.me.arch.reg 2).cap.otype = 0 ∧ ((s.me.arch.reg 2).cap.setBounds 0x80).isSome = true ∧
     ((s.me.arch.reg 2).cap.setBounds 0x81).isSome = false) ∧
    (let k := (cap 0x100 0 0x10000 0xFFFF).cap
     ready (caps (cap 3 0x100 0x100 0x180) (cap 0x100 0 0x10000 0xFFFF) 0) [.cseal 7 4 2 3] = true ∧ k.otype = 0 ∧ k.has .seal = true ∧ k.covers 0xFFFF 1 = true ∧
     k.addr.toNat = 0xFFFF) ∧
    (let k := (cap 0x100 0 0x10000 1).cap
     ready (caps (cap 3 0x100 0x100 0x180) (cap 0x100 0 0x10000 1) 0x400) [.cseal 7 4 2 3] = true ∧ k.covers 1 1 = true ∧ k.addr.toNat = 1) ∧
    (let k := (cap 0x200 0 0x10000 3).cap
     ready (caps (sealedAs 3 (cap 3 0x100 0x100 0x180)) (cap 0x200 0 0x10000 3) 0) [.cunseal 7 4 2 3] = true ∧ k.has .unsl = true ∧ k.covers 3 1 = true ∧
     (sealedAs 3 (cap 3 0x100 0x100 0x180)).cap.otype = 3) := by decide +kernel
theorem test_hyp_CapabilityFaults :
    ready (caps {} {} 0) [.csetb 7 4 2 3, .candp 7 4 2 3, .cinc 7 4 2 3, .cseal 7 4 2 3, .cunseal 7 4 2 3] = true ∧ (caps {} {} 0).me.arch.sup = false ∧
    (cap 3 0x100 0x100 0x1FF).cap.setBounds 2 = none ∧ (sealedAs 2 (cap 3 0x100 0x100 0x180)).cap.otype ≠ 0 ∧
    ready (caps (sealedAs 2 (cap 3 0x100 0x100 0x180)) (cap 0x200 0 0x10000 2) 0) [.csetb 7 4 2 3, .cunseal 7 4 2 3] = true ∧
    (cap 0x200 0 0x10000 2).cap.has .seal = false ∧ (cap 0x300 0 0x10000 0x10000).cap.covers 0x10000 1 = false ∧
    (cap 0x300 0 0x10001 0x10000).cap.covers 0x10000 1 = true ∧ (cap 0x300 0 0x10000 0).cap.covers 0 1 = true ∧
    (sealedAs 1 (cap 0x300 0 0x10000 1)).cap.otype = 1 ∧
    ready (caps (cap 3 0x100 0x100 0x180) (cap 0x100 0 0x10000 2) 0) [.cseal 7 4 2 3] = true := by decide +kernel

/-- The checks of an access of an instruction, through a register, pass. -/
def passes (s : State) (i : Instr) (a : BitVec 6) (r : Req) : Bool :=
  match (s.issuing i).checkOne s.myAccess (s.me.arch.reg a.toNat).tag (s.me.arch.reg a.toNat).cap r with
  | .ok _ => true
  | .error _ => false
def passesLanes (s : State) (i : Instr) (a : BitVec 6) (r : Req) (l : List Nat) : Bool :=
  match (s.issuing i).checkLanes s.myAccess (s.me.arch.reg a.toNat).tag (s.me.arch.reg a.toNat).cap r l with
  | .ok _ => true
  | .error _ => false
def passesAll (s : State) (i : Instr) (a : BitVec 6) (l : List (Req × (Place → Elem))) : Bool :=
  match (s.issuing i).checkAll s.myAccess (s.me.arch.reg a.toNat).tag (s.me.arch.reg a.toNat).cap l with
  | .ok _ => true
  | .error _ => false

/-- v9 stands at the last byte of the scratchpad's last n bytes. -/
def atEnd (n : Nat) : State := placed (fun r => r.setReg 9 (cap 0xFF pad 0x20000 (pad + 0x20000 - n)))

theorem test_hyp_LoadsAndStores :
    ((List.range 5).all (fun z => let n := 2 ^ z
      isReady (atEnd n) (.ldx 7 4 9 0 (BitVec.ofNat 3 z)) && isReady (atEnd n) (.stx 7 4 9 0 (BitVec.ofNat 3 z)) &&
      passes (atEnd n) (.ldx 7 4 9 0 (BitVec.ofNat 3 z)) 9 { x := pad + 0x20000 - n, n := n, align := n, counter := z == 3 } &&
      passes (atEnd n) (.stx 7 4 9 0 (BitVec.ofNat 3 z)) 9 { x := pad + 0x20000 - n, n := n, align := n, perms := [.st], rd := false, wr := true, counter := z == 3 })) =
      true ∧
    ready (atEnd 128) [.ldv 7 4 9 0, .stv 7 4 9 0] = true ∧
    passesLanes (atEnd 128) (.ldv 7 4 9 0) 9 { x := pad + 0x1FF80, n := 128, align := 128 } (List.range 32) = true ∧
    passesLanes (atEnd 128) (.stv 7 4 9 0) 9 { x := pad + 0x1FF80, n := 128, align := 128, perms := [.st], rd := false, wr := true } (List.range 32) = true ∧
    (let s := (atEnd 1).issuing (.ldx 7 4 9 0 0)
     s.me.ldc < 48 ∧ (s.core s.cur.core).ldc < coreLdcLimit s.cur.core) ∧ (atEnd 1).me.stc < 64 := by decide +kernel

/-- Indices 0 to 3 in v3, for lanes of 32 bits that p1 enables. -/
def gather : State := scratch (fun r => (r.setVec 3 (lanes [0, 1, 2, 0x7FFF])).setPred 1 0x55)

theorem test_hyp_GathersAndScatters :
    ready gather [.gath 1 4 9 3 2, .gath 1 4 9 3 7, .scat 1 4 9 3 2, .scatadd 1 4 9 3 0, .scatadd 1 4 9 3 5, .gathp 1 4 9 3 2] = true ∧
    passesAll gather (.gath 1 4 9 3 2) 9 ((List.range 4).map (fun j => ({ x := pad + 4 * j, n := 4, align := 4 }, fun p => p.elem { x := pad + 4 * j, n := 4, align := 4 } j .read false))) = true ∧
    (let r : Nat → Req := fun j => { x := pad + 4 * j, n := 4, align := 4, perms := [.st], rd := false, wr := true }
     passesAll gather (.scat 1 4 9 3 2) 9 ((List.range 4).map (fun j => (r j, fun p => p.elem (r j) j (.write 15 0 false) false))) = true) ∧
    (let r : Nat → Req := fun j => { x := pad + 4 * j, n := 4, align := 4, perms := [.ld, .st], rd := true, wr := true }
     passesAll gather (.scatadd 1 4 9 3 0) 9 ((List.range 4).map (fun j => (r j, fun p => p.elem (r j) j (.rmw (.addInt 32 0)) false))) = true) ∧
    (let l : List (Nat × Req) := (List.range 4).map (fun j => (j, { x := pad + 4 * j, n := 4, align := 4 }))
     let s := gather.issuing (.gathp 1 4 9 3 2)
     l.all (fun j => (s.gathpCheck gather.myAccess true (gather.me.arch.reg 9).cap j.2).isNone) = true ∧
     (match s.gathpSplit gather.myAccess (gather.me.arch.reg 9).cap l with
      | .ok (here, there, _) => here.length == 4 && there.isEmpty
      | .error _ => false) = true) := by decide +kernel
theorem test_hyp_FullEmpty :
    ready (atEnd 128) [.ldfe 7 4 9 0 5, .stfe 7 4 9 0 5, .feopLdf 7 4 9 5, .feopStf 7 4 9 5, .feopSete 7 9 5, .feopSetf 7 9 5, .feopQtag 7 4 9] = true ∧
    passesLanes (atEnd 128) (.ldfe 7 4 9 0 5) 9 { x := pad + 0x1FF80, n := 128, align := 128, fe := true } (List.range 32) = true ∧
    passesLanes (atEnd 128) (.stfe 7 4 9 0 5) 9 { x := pad + 0x1FF80, n := 128, align := 128, perms := [.st], rd := false, wr := true, fe := true } (List.range 32) = true ∧
    ((List.range 3).all (fun k => let n := 4 * 2 ^ k
      let z := BitVec.ofNat 3 (k + 2)
      (z == 4 || ready (atEnd n) [.ldfe 7 4 9 0 z, .stfe 7 4 9 0 z, .feopLdf 7 4 9 z, .feopStf 7 4 9 z, .feopSete 7 9 z, .feopSetf 7 9 z]) &&
      passes (atEnd n) (.ldfe 7 4 9 0 z) 9 { x := pad + 0x20000 - n, n := n, align := n, fe := true, queue := k == 1 } &&
      passes (atEnd n) (.stfe 7 4 9 0 z) 9 { x := pad + 0x20000 - n, n := n, align := n, perms := [.st], rd := false, wr := true, fe := true, queue := k == 1 })) =
      true := by decide +kernel
theorem test_hyp_Atomics :
    (let s := atEnd 16
     let r : Nat → Req := fun n => { x := pad + 0x1FFF0, n := n, align := n, perms := [.ld, .st], rd := true, wr := true }
     ready s ([.atom32 7 4 9 3 0, .atom64 7 4 9 3 7, .xatom 8 4 9 3 6, .xatom 8 4 9 3 7] ++ types 6 (.xatom 7 4 9 3)) = true ∧ passes s (.atom32 7 4 9 3 0) 9 (r 4) = true ∧
     passes s (.atom64 7 4 9 3 7) 9 { r 8 with counter := true } = true ∧ passes s (.xatom 7 4 9 3 2) 9 (r 4) = true ∧
     s.me.ldc = 0 ∧ s.me.stc = 0 ∧ isBig s.cur.core = false) ∧
    (let k := localKey big 3 0xFFFF0
     let s := (onBig 0 (fun x => { x with arch := x.arch.setReg 9 (cap 0x1F k 16 k) }))
     ready s [.xatom 7 4 9 3 4] = true ∧ isBig s.cur.core = true ∧
     passes s (.xatom 7 4 9 3 4) 9 { x := k, n := 16, align := 16, perms := [.ld, .st], rd := true, wr := true } = true) ∧
    ready (handled (fun x => { x with stc := 1 })) [.xatom 7 4 9 3 4] = true := by decide +kernel
theorem test_hyp_PrefetchAndFences :
    ready (scratch id) [.pref 7 9 0 0, .fence 7 8 4, .fence 7 15 0, .fence 7 1 4] = true ∧ (scratch id).me.stc = 0 ∧
    ready (handled (fun x => { x with stc := 1 })) [.fence 7 8 4] = true := by decide +kernel

/-- v9 is some capability. -/
def through (r : Reg) : State := placed (fun a => a.setReg 9 r)

theorem test_hyp_AccessFaults :
    [through {}, through (sealedAs 2 (cap 3 pad 16 pad)), through (cap 2 pad 16 pad), through (cap 3 pad 16 (pad + 16)), through (cap 3 pad 16 (pad + 2)),
      through (cap 3 0 0 (2 ^ 63)), through (cap 3 0 0 (2 ^ 58)), through (cap 3 (pad + 24 * 2 ^ 38) 16 (pad + 24 * 2 ^ 38))].all (fun s =>
        ready s [.ldx 7 4 9 0 2, .stx 7 4 9 0 2, .atom32 7 4 9 3 0, .atom64 7 4 9 3 0]) = true ∧
    (cap 2 pad 16 pad).cap.has .ld = false ∧ (cap 1 pad 16 pad).cap.has .st = false ∧ (cap 3 pad 16 (pad + 16)).cap.covers (pad + 16) 4 = false ∧
    (cap 3 pad 16 (pad + 13)).cap.covers (pad + 13) 4 = false ∧ (pad + 2) % 4 ≠ 0 ∧ bits (2 ^ 63) 63 60 = 8 ∧ bits (2 ^ 57) 59 57 ≠ 0 ∧
    (let s := through (cap 3 (pad + 0x20000) 16 (pad + 0x20000))
     (match (s.issuing (.ldx 7 4 9 0 2)).checkOne s.myAccess true (s.me.arch.reg 9).cap { x := pad + 0x20000, n := 4, align := 4 } with
      | .error (.trap code x 0) => code == 8 && x == pad + 0x20000
      | _ => false) = true) := by decide +kernel
theorem test_hyp_OwnScratchpad :
    (let s := atEnd 16
     bits (pad + 0x1FFF0) 63 60 = 0xE ∧ bits (pad + 0x1FFF0) 49 36 = s.cur.core ∧ bits (pad + 0x1FFF0) 35 32 = 0 ∧ s.ops = [] ∧ s.packets = [] ∧ s.jobs = [] ∧
     s.me.fences = [] ∧ ready s [.ldx 7 4 9 0 4, .stx 7 4 9 0 4] = true) := by decide +kernel

/-- A ticket of entry 0 of slice 0 of this device, with a permission. -/
def ticketOf (perm : Nat) : Reg := { v := ({ Cap.ofBits (ticketCap 0 0 0 1 0) with perm := BitVec.ofNat 16 perm } : Cap).toBits.setWidth 1024, tag := true }

theorem test_hyp_Tickets :
    (let s := through (ticketOf 0x80)
     let r := s.me.arch.reg 9
     ready s [.rdm 7 4 9, .rdmS 7 4 9 5, .tkrel 7 9] = true ∧ r.tag = true ∧ r.cap.otype = 1 ∧ r.cap.has .tkt = true ∧ bits r.cap.addr.toNat 59 50 = s.table.devnum) ∧
    (let r := (through (ticketOf 0x7F)).me.arch.reg 9
     r.tag = true ∧ r.cap.otype = 1 ∧ r.cap.has .tkt = false) ∧ ready (through (ticketOf 0x7F)) [.rdm 7 4 9] = true ∧
    ready (through {}) [.rdm 7 4 9] = true ∧ ready (through (cap 3 pad 16 pad)) [.rdm 7 4 9] = true := by decide +kernel

/-- The task with a handler entry, two operands, and SR. -/
def table_ (h : Handler) (v x : Nat) (sr : Word) : State :=
  (placed (fun r => { (r.setScalar 2 v).setScalar 3 x with sr := sr })).updHandler little (x % 32) (fun _ => h)

theorem test_hyp_HandlerTable :
    (let s := table_ { ctx := 1 } 0x10 31 0
     ready s [.htabRd 7 4 3, .htabWr 7 2 3] = true ∧ s.sca 3 < 32 ∧ (s.handler little 31).ctx = s.me.ctxid.toNat ∧ s.sca 2 / 16 % 4 ≠ 3 ∧
     (s.handler little 31).mode ≠ 2 ∧ s.sca 2 / 16 % 4 ≠ 2) ∧
    (let s := (table_ { ctx := 1 } 0 32 0).updMe (fun x => { x with arch := x.arch.setReg 2 (cap 4 0 16 0) })
     ready s [.htabRd 7 4 3, .htabWr 7 2 3] = true ∧ s.sca 3 = 32 ∧ (s.me.arch.reg 2).tag = true ∧ (s.me.arch.reg 2).cap.has .ex = true ∧ (s.handler little 0).held = false) ∧
    (let s := (table_ { ctx := 7 } 0 95 0x400).updMe (fun x => { x with arch := x.arch.setReg 2 (cap 0 0 16 0) })
     ready s [.htabRd 7 4 3, .htabWr 7 2 3] = true ∧ s.sca 3 = 95 ∧ (s.me.arch.reg 2).tag = true ∧ s.me.arch.sup = true) ∧
    (let s := table_ { ctx := 7 } 0 96 0
     ready s [.htabRd 7 4 3, .htabWr 7 2 3] = true ∧ s.sca 3 = 96) ∧
    (let s := table_ { ctx := 7 } 0 0 0
     ready s [.htabRd 7 4 3, .htabWr 7 2 3] = true ∧ s.sca 3 = 0 ∧ (s.handler little 0).ctx ≠ s.me.ctxid.toNat ∧ s.me.arch.sup = false) := by decide +kernel

/-- The task with a SEND's operands: the header in v4, a target in v9, and a body in v6 and v7. -/
def sender (head target : Nat) (retx : List Nat) : State :=
  (placed (fun r => (r.setScalar 4 head).setReg 9 (cap 0x20 target 256 target))).updCore little (fun k => { k with retx := retx })

theorem test_hyp_Sends :
    (let s := sender 224 (localKey little 7 0x1F00) []
     let k := (s.me.arch.reg 9).cap
     ready s [.sendPost 7 4 9 6, .sendAck 7 4 9 6, .sendReply 7 4 9 6] = true ∧ bits (s.sca 4) 15 9 = 0 ∧ (s.me.arch.reg 9).tag = true ∧ k.has .snd = true ∧ k.otype = 0 ∧
     k.covers k.addr.toNat 1 = true ∧ isChannel k.addr.toNat = true ∧ isCore (bits k.addr.toNat 49 36) = true ∧ (s.core little).retx.length < 32 ∧
     s.releaseReady (pfxRelease s.me.arch.pfx) = true ∧ s.me.stc < 64) ∧
    (let s := sender 128 (localKey little 6 0) []
     ready s [.sendEng 7 4 9 63] = true ∧ isInbox (s.me.arch.reg 9).cap.addr.toNat = true) ∧
    (let s := sender 225 (localKey little 7 0) []
     ready s [.sendPost 7 4 9 6, .sendAck 7 4 9 6, .sendReply 7 4 9 6, .sendEng 7 4 9 6] = true ∧ ¬ (s.sca 4 % 256 ≤ 224)) ∧
    ready (through {}) [.sendPost 7 4 9 6, .sendEng 7 4 9 6] = true ∧
    (let s := sender 0 (localKey little 7 0) (List.range 32)
     ready s [.sendReply 7 4 9 6, .sendAck 7 4 9 6] = true ∧ ¬ ((s.core little).retx.length < 32)) := by decide +kernel

/-- The task with a port, a number in v3, and a handler entry. -/
def ported (p : Port) (x : Nat) (h : Handler) : State :=
  ((handled (fun y => { y with arch := y.arch.setScalar 3 x, ports := [(7, p)] })).updHandler little (x % 32) (fun _ => h))

theorem test_hyp_Ports :
    (let s := ported {} 31 {}
     ready s [.portBind 7 63 3, .portUnbind 7 63, .portQlen 7 4 63] = true ∧ s.sca 3 = 31 ∧ (s.handler little 31).ctx = 0 ∧ (s.handler little 31).mode = 0 ∧
     (s.me.port 7).mode = 0 ∧ (s.core little).boundTo 31 = none) ∧
    ready (ported {} 32 {}) [.portBind 7 63 3] = true ∧ ready (ported {} 0 { ctx := 2 }) [.portBind 7 63 3] = true ∧
    ready (ported {} 0 { ctx := 1, mode := 1 }) [.portBind 7 63 3] = true ∧
    (let s := ported { mode := 1, chan := 31 } 31 { ctx := 1, mode := 2 }
     ready s [.portUnbind 7 63, .portQlen 7 4 63] = true ∧ (s.me.port 7).mode = 1) := by decide +kernel

/-- The task with a stream's capability in v10 and its pattern in v11. -/
def streamer (c : Reg) (strip : Nat) : State :=
  placed (fun r => (r.setReg 10 c).setVec 11 (lanes [2 + strip * 256, 0, 4, 0, 0, 0, 0, 0, 8, 1, 1, 0]))

theorem test_hyp_Streams :
    (let s := streamer (cap 0x41 pad 32 pad) 32
     let st := streamOf (cap 0x41 pad 32 pad).cap.toBits (s.me.arch.reg 11).v
     ready s [.portSbind 7 56 10, .portSrel 7 56, .portSstat 7 4 56] = true ∧ patternFault (s.me.arch.reg 11).v = none ∧ (s.me.arch.reg 10).tag = true ∧
     (s.me.arch.reg 10).cap.has .ld = true ∧ (s.me.arch.reg 10).cap.has .eng = true ∧ (s.me.arch.reg 10).cap.base ≤ st.corners.1 ∧ st.corners.2 + 4 ≤ (s.me.arch.reg 10).cap.top ∧
     (s.me.port 0).mode = 0 ∧
     (match (s.issuing (.portSbind 7 56 10)).localPlace s.myAccess { x := pad, n := 4, align := 1 } with
      | .ok _ => true
      | .error _ => false) = true) ∧
    ready (streamer {} 32) [.portSbind 7 56 63, .portSbind 7 56 10] = true ∧ (patternFault ((streamer {} 33).me.arch.reg 11).v).isSome = true ∧
    ready (streamer {} 33) [.portSbind 7 56 10] = true ∧ ready (ported { mode := 1 } 0 {}) [.portSrel 7 63] = true := by decide +kernel

/-- The task in a gang of two, with the gang's barrier, on core `little` in slots 0 and 1. -/
def ganged (b : Barrier) (f : Slot → Slot) : State :=
  { (handled (fun x => f { x with gangId := some 7, gti := 0, gang := BitVec.ofNat 64 (2 ^ 52 + 2 ^ 42) })) with
    gangs := [(7, { launch := 6, gnum := 0, plate := 0, members := [(little, 0, 0), (little, 1, 1)], dealt := true, bar := b })] }

theorem test_hyp_Barriers :
    (let s := ganged { gang := 7, e := 2, eNext := 2 } (fun x => { x with arch := x.arch.setScalar 3 1 })
     ready s [.barArrive 7 4 2, .barFull 7 2, .barWait 7 2 3] = true ∧ s.me.gangId = some 7 ∧ (s.gangs.look 7).isSome = true ∧ s.sca 2 = 0 ∧
     (s.barrier 7 0).isSome = true ∧ s.me.stc = 0 ∧ ((s.barrier 7 0).map (fun b => b.past 1)) = some false ∧ ((s.barrier 7 0).map (fun b => b.past 0xFFFFFFFF)) = some true) ∧
    ready (ganged { gang := 7, e := 2, eNext := 2, arrived := [1] } id) [.barFull 7 2] = true ∧
    ready (ganged { gang := 7, e := 2, eNext := 2, arrived := [0] } id) [.barFull 7 2, .barArrive 7 4 2] = true := by decide +kernel
theorem test_hyp_Slots :
    ready (placed id) [.slotAlloc 7 4 2 0, .slotAlloc 7 4 2 1, .slotAlloc 7 4 2 2, .slotFree 7 4 2 0, .slotFree 7 4 2 1, .slotFree 7 4 2 2] = true ∧ (placed id).me.gangId = none ∧
    (let s := ganged { gang := 7, e := 2, eNext := 2 } (fun x => { x with arch := x.arch.setScalar 2 2 })
     ready s [.slotAlloc 7 4 2 0, .slotAlloc 7 4 2 1] = true ∧ s.sca 2 = 2 ∧ bits s.me.gang.toNat 51 42 + 1 = 2) ∧
    (placed (fun r => r.setScalar 2 257)).sca 2 = 257 ∧
    (let s : State := { (ganged { gang := 7, e := 2, eNext := 2 } (fun x => { x with arch := x.arch.setScalar 2 1 })).updSlot little 1 (fun x =>
         { x with phase := .live, gangId := some 7, barred := some (1, 0) }) with
       pools := [(0, { bars := [(1, { gang := 7, e := 2, eNext := 2, ctx := 1 })], queues := [(1, { depth := 1, ctx := 1 })], ctrs := [(1, { depth := 0, ctx := 2 })] })] }
     ready s [.slotFree 7 4 2 0, .slotFree 7 4 2 1, .slotFree 7 4 2 2] = true ∧ s.sca 2 = 1 ∧ corePlate s.cur.core = 0 ∧ (s.pool 0).bars.length = 1 ∧ (s.slot little 1).barred = some (1, 0) ∧
     s.fullAt (queueKey 0 1 0) = false ∧ (s.setFull (queueKey 0 1 0) true).fullAt (queueKey 0 1 0) = true) := by decide +kernel

/-- A legal launch record at the start of the scratchpad: one task, on plate 0. -/
def recorded (sr : Word) (x : Nat) : State :=
  let c := fun (r : Reg) => (r.v.setWidth 128).toNat
  { (placed (fun r => { ((r.setReg 9 (cap 0x1F pad 0x20000 pad)).setScalar 2 x) with sr := sr })).store pad 128
      (c (cap 4 0 0x1000 0) + 2 ^ 128 * c (cap 1 0 16 0) + 2 ^ 256 * c (cap 2 (pad + 0x1000) 64 (pad + 0x1000)) + 2 ^ 596) with
    tags := [(pad / 16, true), (pad / 16 + 1, true), (pad / 16 + 2, true)] }

theorem test_hyp_Launching :
    (let s := recorded 0 0
     let r := LaunchRec.ofBits (s.readMem pad 128) 7
     ready s [.launch 7 4 9] = true ∧
     (match (s.issuing (.launch 7 4 9)).checkAccess s.myAccess true (s.me.arch.reg 9).cap { x := pad, n := 128, align := 128, perms := [.ld, .cld] } with
      | (.ok p, _) => p.key == pad && p.tags
      | _ => false) = true ∧
     keySpace pad = 0 ∧ s.storesPending s.myRef pad 128 = false ∧ s.badAt pad 128 = false ∧ packList 1 ((List.range 4).map (fun k => b2n (s.tagAt (pad + 16 * k)))) = 7 ∧
     s.recordFault r 1 s.me.part false false true pad ((encode (.launch 7 4 9)).getD 0).toNat = none ∧ s.releaseReady true = true ∧ s.queued.length < 256) ∧
    ready (recorded 0 (2 ^ 48)) [.lctlQuery 7 4 2, .lctlWait 7 4 2, .lctlCancel 7 4 2 3] = true ∧ (recorded 0 0).launchNamed (2 ^ 48) = none ∧
    bits (2 ^ 58) 63 58 ≠ 0 ∧ ready (recorded 0 (2 ^ 58)) [.lctlQuery 7 4 2, .lctlWait 7 4 2, .lctlCancel 7 4 2 3] = true ∧
    (let s := placed (fun r => r.setScalar 3 2)
     ready s [.lctlCancel 7 4 2 3] = true ∧ 1 < s.sca 3) := by decide +kernel

/-- The task with a copy's operands: geometry in set 0 over four elements of 32 bits, source and target capabilities in the
scratchpad. -/
def copier (aux0 aux1 : Nat) (f : Slot → Slot) : State :=
  handled (fun x => f { x with
    arch := { (x.arch.setReg 9 (cap 0x43 pad 0x1000 pad)).setReg 10 (cap 0x43 (pad + 0x1000) 0x1000 (pad + 0x1000)) with pfx := {} }
    eregs := [(0, 0x11), (2, 4 * 2 ^ 32 + 4), (7, 4), (17, BitVec.ofNat 64 aux0), (18, BitVec.ofNat 64 aux1)] })

/-- The checks of R275 pass. -/
def copies (s : State) (i : Instr) (d : BitVec 6) (kind : Nat) : Bool :=
  let geo := s.me.geometry (s.sca d % 4)
  isReady s i && cpyShape (s.vec d) kind (isBig s.cur.core) && (geomFault geo kind == none) &&
    ((s.issuing i).cardFault s.myAccess ((s.envOf i).card (s.issuing i) 9 10 kind geo) (32 * (s.sca d % 4)) == none) &&
    decide (s.me.cpc < 16) && decide (s.inboxLen (engineId s.cur.core 0) < 32) && s.releaseReady (pfxRelease s.me.arch.pfx)

/-- An operand record of a matrix command: space, row stride and address. -/
def recordIn (sp stride at_ : Nat) : Vec := BitVec.ofNat 1024 (sp * 2 ^ 126 + stride * 2 ^ 64 + at_)

/-- The big core's task with buffers that its partition owns, operand records for W and A in v2 and v4, and one for C in v6. -/
def burin (deferred : Bool) (pfx : Pfx) : State :=
  (onBig 0 (fun x => { x with arch := { (((x.arch.setVec 2 (recordIn 1 64 0)).setVec 4 (recordIn 2 64 0)).setVec 6 (recordIn 3 128 0)).setVec 8 (recordIn 3 64 0) with pfx := pfx } })).updBig big
    (fun b => { b with owners := [(0, 0), (64, 0), (96, 0)], deferred := deferred })

def mtxPasses (s : State) (i : Instr) (a b : BitVec 6) (prec : Nat) : Bool :=
  match (s.issuing i).mtxCheck ((s.envOf i).mtxCmd (s.issuing i) a b prec) with
  | (.ok _, _) => true
  | _ => false
def mtxFails (s : State) (i : Instr) (a b : BitVec 6) (prec : Nat) : Nat :=
  match (s.issuing i).mtxCheck ((s.envOf i).mtxCmd (s.issuing i) a b prec) with
  | (.error f, _) => f.2.1
  | _ => 0
def quantise : Pfx := { t := some 0x1E2000, first := some 0xFFC }
def codebook : Pfx := { t := some 0x1FE200, first := some 0xFFC }

theorem test_hyp_Copies :
    copies (copier 0 0 id) (.cpy 7 4 9 10) 4 0 = true ∧ copies (copier (2 ^ 32 + 2) 0 id) (.cpyLoop 7 4 9 10) 4 1 = true ∧
    copies (copier 0 (2 ^ 32 + 4) id) (.cpyBlk 7 4 9 10) 4 4 = true ∧ copies (copier (4 * 2 ^ 32) 0 id) (.cpySlab 7 4 9 10) 4 5 = true ∧
    (let s := copier 0 0 (fun x => { x with arch := x.arch.setScalar 4 8 })
     ready s [.cpy 7 4 9 10, .cpyMtx 7 4 9 10] = true ∧ cpyShape (s.vec 4) 0 false = false) ∧
    (let s := copier 1 0 id
     ready s [.cpy 7 4 9 10] = true ∧ cpyShape (s.vec 4) 0 false = true ∧ geomFault (s.me.geometry 0) 0 = some 17) ∧
    (let s := through (cap 0x40 pad 16 (pad + 16))
     let q := (s.me.arch.reg 9).cap
     ready s [.cpyrel 7 9] = true ∧ q.has .eng = true ∧ bits q.addr.toNat 63 60 = 0xE ∧ bits q.addr.toNat 35 32 = 0 ∧ nodeOf (bits q.addr.toNat 49 36) = nodeOf s.cur.core) ∧
    (let s := placed (fun r => r.setScalar 3 (96 + 19))
     ready s [.eregRd 7 4 3, .eregWr 7 2 3] = true ∧ s.sca 3 < 128 ∧ s.sca 3 % 32 < 20) ∧
    (let s := placed (fun r => r.setScalar 3 20)
     ready s [.eregRd 7 4 3, .eregWr 7 2 3] = true ∧ ¬ (s.sca 3 % 32 < 20)) := by decide +kernel
theorem test_hyp_CopyWithFollowOn :
    (let s : State := { (burin false {}).updMe (fun x => { x with
       arch := ((x.arch.setReg 9 (cap 0x43 (localKey little 0 0) 0x1000 (localKey little 0 0))).setReg 10 (cap 0x43 (localKey big 2 0) 0x80 (localKey big 2 0))).setVec 5
         (BitVec.ofNat 1024 (2 ^ 64 * ((encode (.mtxMma 7 3 9 10)).getD 0).toNat + 2 ^ 128 * (recordIn 1 64 0).toNat + 2 ^ 256 * (recordIn 2 64 0).toNat))
       eregs := [(0, 0x11), (2, 32 * 2 ^ 32 + 32), (7, 4)] }) with boot := .service }
     let i := Instr.cpyMtx 7 5 9 10
     copies s i 5 3 = true ∧ s.me.mxc < 16 ∧
     (match (s.envOf i).followCheck (s.issuing i) (s.vec 5) 9 10 with
      | .ok _ => true
      | .error _ => false) = true) := by decide +kernel
theorem test_hyp_MatrixCommands :
    isBig (burin false {}).cur.core = true ∧
    ready (burin false {}) [.mtxMma 7 15 2 4, .mtxMmaz 7 0 2 4, .mtxAccld 7 0 6, .mtxAccst 7 0 6, .mtxAccmv 7 0 9 10, .mtxAccfree 7 0] = true ∧
    mtxPasses (burin false {}) (.mtxMma 7 15 2 4) 2 4 0 = true ∧ mtxPasses (burin false {}) (.mtxMmaz 7 0 2 4) 2 4 0 = true ∧
    mtxPasses (burin false {}) (.mtxAccld 7 0 6) 6 0 0 = true ∧ mtxPasses (burin false {}) (.mtxAccst 7 0 6) 6 0 0 = true ∧
    mtxPasses (burin false {}) (.mtxAccmv 7 0 9 10) 9 10 0 = true ∧ mtxPasses (burin false {}) (.mtxAccfree 7 0) 0 0 0 = true ∧
    ready (burin false codebook) [.mtxCodeb 7 7] = true ∧ mtxPasses (burin false codebook) (.mtxCodeb 7 7) 0 0 0 = true ∧ prsOf codebook.t = 1 ∧
    mtxFails (burin false codebook) (.mtxCodeb 7 8) 0 0 0 = 9 ∧
    ready (burin false quantise) [.mtxAccq 7 0 8] = true ∧ mtxPasses (burin false quantise) (.mtxAccq 7 0 8) 8 0 0 = true ∧ prsOf quantise.t = 0 ∧
    (burin false {}).me.mxc < 16 ∧ ((burin false {}).mtxq.at big []).length < 32 ∧ ready (burin true {}) [.mtxMma 7 15 2 4] = true ∧
    ((burin true {}).core big).big.deferred = true := by decide +kernel
theorem test_hyp_MatrixGuests :
    ready (placed id) [.mtxMma 7 15 2 4, .mtxMmaz 7 0 2 4, .mtxAccld 7 0 6, .mtxAccst 7 0 6, .mtxAccmv 7 0 9 10, .mtxAccfree 7 0] = true ∧
    ready (placed (fun r => { r with pfx := codebook })) [.mtxCodeb 7 7] = true ∧ ready (placed (fun r => { r with pfx := quantise })) [.mtxAccq 7 0 8] = true ∧
    (placed id).me.ldc = 0 ∧ (placed id).me.stc = 0 ∧ (placed id).me.mxc < 16 ∧ isBig little = false := by decide +kernel
theorem test_hyp_Invalidations :
    (let s := placed (fun r => { (r.setVec 2 (BitVec.ofNat 1024 (0x1FFFFFFFFFFFFFF + 2 ^ 64 * 2 ^ 57))).setScalar 3 65535 with sr := 0x400 })
     ready s [.tlbiRange 7 2 3, .tlbiL1inv 7 2 3, .tlbiL1clean 7 2 3, .tlbiCtx 7 3, .tlbiPart 7, .wcall 7 0] = true ∧ s.me.arch.sup = true ∧ s.sca 3 < 65536 ∧
     bits (elem (s.vec 2) 64 0) 63 63 = 0 ∧ bits (elem (s.vec 2) 64 0) 59 57 = 0 ∧ bits (elem (s.vec 2) 64 1) 63 63 = 0 ∧ bits (elem (s.vec 2) 64 1) 59 58 = 0 ∧
     bits (elem (s.vec 2) 64 0) 62 60 = bits (elem (s.vec 2) 64 1) 62 60 ∧ s.releaseReady true = true) ∧
    ready (placed id) [.tlbiRange 7 2 3, .tlbiL1inv 7 2 3, .tlbiL1clean 7 2 3, .tlbiCtx 7 3, .tlbiPart 7] = true ∧
    (let s := placed (fun r => { r.setVec 2 (BitVec.ofNat 1024 (2 ^ 57)) with sr := 0x400 })
     ready s [.tlbiRange 7 2 3] = true ∧ bits (elem (s.vec 2) 64 0) 59 57 ≠ 0) ∧
    (let s := handled id
     let t := sending { key := pad, n := 4, va := 0 } { task := ⟨little, 0, 4⟩, stc := true } s
     ready t [.wcall 7 0] = true ∧ t.releaseReady true = false) := by decide +kernel

/-! ### Virtual addresses -/

/-- The task with a page table whose first entry maps the lowest 32 GiB, and v9 over them. -/
def unwalked : State :=
  { (placed (fun r => r.setReg 9 (cap 0x81 0 0x100000 0x40000))).store 0x10000 8 0x9B with
    ctxs := [(1, { tvec := 0x4000, tsz := 10, tcode := some code, roots := [BitVec.ofNat 64 (2 ^ 63 + 57 * 2 ^ 48 + 0x10000)] })] }

/-- The same once a walk has filled the TLB. -/
def virtually : State := { unwalked with tlbL1 := [(little, [{ part := 0, asid := 1, root := 0, va := 0, lg := 35, pte := 0x9B }])] }

theorem test_walk_first : after (.ldx 7 4 9 0 0) unwalked (fun t => t.me.wait == some .walk && t.walks.length == 1) = true ∧
    after (.ldx 7 4 9 0 0) virtually (fun t => t.me.wait.isNone && t.ops.length == 1) = true := by decide +kernel

theorem test_hyp_Tickets_LDT : isReady virtually (.ldt 7 4 9 0 0) = true ∧
    (let s := virtually.issuing (.ldt 7 4 9 0 0)
     s.me.ldc < 48 ∧ (s.core s.cur.core).ldc < coreLdcLimit s.cur.core) ∧
    passes virtually (.ldt 7 4 9 0 0) 9 { x := 0x40000, n := 16, align := 16, perms := [.ld, .tkt] } = true := by decide +kernel

/-- The same with lane 0 of v3 enabled by p1. -/
def oneLane : State := unwalked.updMe (fun x => { x with arch := x.arch.setPred 1 1 })

theorem test_hyp_GathersAndScatters_there : isReady oneLane (.gathp 1 4 9 3 2) = true ∧ oneLane.me.noteFor 1 0x40000 = none ∧ oneLane.walks = [] ∧
    (let s := oneLane.issuing (.gathp 1 4 9 3 2)
     let r : Req := { x := 0x40000, n := 4, align := 4 }
     (s.gathpCheck oneLane.myAccess true (oneLane.me.arch.reg 9).cap r).isNone = true ∧
     (match s.gathpSplit oneLane.myAccess (oneLane.me.arch.reg 9).cap [(0, r)] with
      | .ok (here, there, _) => here.isEmpty && there.map (·.1) == [0]
      | .error _ => false) = true) := by decide +kernel

/-! ### Events -/

/-- The task. -/
def mine : TaskRef := ⟨little, 0, 4⟩

/-- The task's registers and slot, with one operation of it in the table under number 3. -/
def flying (o : Op) (f : State → State) : State := f { placed id with ops := [(3, o)] }

/-- An element over HBM, and over a word of the scratchpad. -/
def far_ (a : Act) : Elem := { key := 0x40000, n := 4, va := 0x40000, act := a }
def near_ (a : Act) : Elem := { key := pad, n := 4, va := pad, act := a }

def performs (s : State) : Bool := match s.ops.look 3 with
  | some o => s.mayPerform 3 o 0 o.first && decide (o.first.till ≤ s.now) && !s.elemGuarded o o.first
  | none => false

/-- A slice whose set for 0x40000's line is full of lines of other partitions, or empty, with that line's miss. -/
def missing : State := flying { task := mine, elems := [{ far_ .read with stage := .held }] } (fun s => { s with
  slices := [(sliceId 0x40000, { misses := [{ row := { line := 0x800, part := 0 }, waiting := [(3, 0)] }] })] })

/-- The home slice with every entry of its miss table taken by other lines; and an earlier acquire of the task at node scope. -/
def taken (s : State) : State :=
  { s with slices := [(sliceId 0x40000, { misses := (List.range 64).map (fun i => { row := { line := i, part := 0 } }) })] }
def narrow : State := flying { task := mine, loads := true, elems := [far_ .read] } (fun s => { s with
  ops := (2, { task := mine, loads := true, acquire := true, acqScope := 2, elems := [{ far_ .read with key := 0x50000 }] }) :: s.ops })

theorem test_hyp_MemoryEvents :
    [Act.read, .write 15 7 false, .rmw (.xchg 32 1), .feLoad 1].all (fun a => performs (flying { task := mine, elems := [far_ a] } id) && performs (flying { task := mine, elems := [near_ a] } id)) = true ∧
    keyIsLocal 0x40000 = false ∧ keyIsLocal pad = true ∧ (far_ .read).stage = .queued ∧ ((flying { task := mine, elems := [far_ .read] } id).slice (sliceId 0x40000)).misses.length < 64 ∧
    performs (flying { task := mine, elems := [far_ .read] } (fun s => { s with ops := (2, { task := mine, acquire := true, elems := [far_ .read] }) :: s.ops })) = false ∧
    ((near_ .read).inQueue = false ∧ (near_ .read).fullEmpty = false ∧ (near_ (.feLoad 1)).inQueue = false) ∧
    (flying { task := mine, elems := [near_ (.feLoad 1)] } id).wordsAre pad 4 1 true = false ∧
    (flying { task := mine, elems := [near_ (.feLoad 1)] } (fun s => s.setFull pad true)).wordsAre pad 4 1 true = true ∧ (flying { task := mine } id).parked = [] ∧
    ((missing.slice (sliceId 0x40000)).misses.find? (fun m => m.row.line == 0x800)).isSome = true ∧ (missing.victim (sliceId 0x40000) 0 0x800).2 = true ∧
    (let s := taken (flying { task := mine, elems := [far_ .read] } id)
     performs s = true ∧ (s.slice (sliceId 0x40000)).misses.length = 64 ∧ (s.slice (sliceId 0x40000)).misses.all (fun m => m.row.line != 0x800) = true) ∧
    (match narrow.ops.look 3 with
     | some o => !narrow.mayPerform 3 o 0 o.first && narrow.mayPerformEarly 3 o 0 o.first && !narrow.elemGuarded o o.first
     | none => false) = true ∧
    ((placed id).accessBank pad).isSome = true ∧
    (let s := flying { task := mine, elems := [near_ (.feLoad 1)] } (fun s => { s with parked := List.replicate 32 (pad / 2 ^ 32, 9, 0) })
     performs s = true ∧ (s.parked.filter (fun p => p.1 == pad / 2 ^ 32)).length = 32) := by decide +kernel
theorem test_hyp_Completions :
    [Ret.scalar 4, .cap 4, .lanes 4 32, .oldPred 4 1 2 3].all (fun r =>
      let s := flying { task := mine, elems := [{ near_ .read with stage := .done, val := 9 }], ret := r, ldc := true } id
      (match s.ops.look 3 with
       | some o => o.kind == .mem && o.elems.all (fun e => e.stage == .done) && s.alive o.task && o.ldc && !o.elems.any (·.bad) && ((s.slot little 0).ship == none)
       | none => false)) = true ∧
    (let s := flying { task := mine, elems := [{ near_ (.write 15 0 false) with stage := .done }], stc := true } id
     (match s.ops.look 3 with
       | some o => o.kind == .mem && s.alive o.task && o.stc
       | none => false)) = true := by decide +kernel

/-- A ticket entry in slice 0, with an operation of a kind. -/
def ticketed (t : Ticket) (k : OpKind) : State :=
  flying { task := mine, kind := k, ctx := 1, elems := [far_ .read] } (fun s => { s with slices := [(0, { tickets := [(0, t)] })] })
def redeeming : OpKind := .ticketRedeem ((ticketOf 0x80).v.setWidth 128)

theorem test_hyp_TicketEvents :
    (let s := flying { task := mine, kind := .ticketAlloc 0, ctx := 1, elems := [far_ .read] } id
     (match s.ops.look 3 with
      | some o => s.mayAllocate 3 o && decide (o.first.till ≤ s.now) && ((s.slice (sliceId o.first.key)).heldAlloc == []) && s.freeEntries (sliceId o.first.key) != []
      | none => false) = true) ∧
    [15, 16].all (fun n => let s := flying { task := mine, kind := .ticketAlloc 0, ctx := 1, elems := [far_ .read] } (fun s => { s with
        slices := [(sliceId 0x40000, { heldAlloc := (List.range n).map (· + 9) })] })
      match s.ops.look 3 with
      | some o => s.mayAllocate 3 o && ((s.slice (sliceId o.first.key)).heldAlloc.length == n) && !(s.slice (sliceId o.first.key)).heldAlloc.contains 3
      | none => false) = true ∧
    [({ seq := 1, ctx := 1, st := .fetching, addr := 0x40000, op := 9, deadline := 10 } : Ticket),
      { seq := 1, ctx := 1, st := .waiting, redeemer := some 3, addr := 0x40000, op := 9 }].all (fun x => let s := ticketed x redeeming
      (x.aged s.gt == x) && (s.touchLine x.part none x.addr false).isSome && (s.ops.look x.op).isNone && x.op != 3) = true ∧
    (({ st := .fetching, deadline := 10 } : Ticket).aged 9).st = .fetching ∧ (({ st := .waiting, redeemer := some 3, op := 2 } : Ticket).aged 9).st = .waiting ∧
    (let a := (Cap.ofBits ((ticketOf 0x80).v.setWidth 128)).addr.toNat
     ticketSlice a = 0 ∧ ticketEntry a = 0 ∧ bits a 29 8 = 1) ∧
    [redeeming, .ticketRelease ((ticketOf 0x80).v.setWidth 128)].all (fun k => let s := ticketed { seq := 1, ctx := 1 } k
      (match s.ops.look 3 with
       | some o => o.answered == false && s.mayStart 3 o.task false o.release && o.ctx == 1
       | none => false)) = true ∧
    [({ seq := 2, ctx := 1 } : Ticket), { seq := 1, ctx := 2 }, { seq := 1, ctx := 1, st := .waiting }, { seq := 1, ctx := 1, reason := .redeemed },
      { seq := 1, ctx := 1, reason := .expired }, { seq := 1, ctx := 1, reason := .released }, { seq := 1, ctx := 1, st := .ready, deadline := 1 },
      { seq := 1, ctx := 1, st := .fetching, deadline := 1 }].all (fun x => (ticketed x redeeming).gt == 0 && (x.aged 0 == x)) = true := by decide +kernel

/-- A walk of plate 0, over an address that the context's tables do not map, and over one that they do. -/
def walking (va : Nat) (started : Bool) : State :=
  { virtually with walks := [(8, { plate := 0, part := 0, asid := 1, root := 0, va := va, started := started, joined := [(mine, false)] })] }
def shooting (kind : Nat) (plates : List Nat) (f : State → State) : State :=
  flying { task := mine, kind := .tlbi kind 1 0 0 0x10000 plates, ctx := 1, release := true, stc := true } f

theorem test_hyp_TranslationEvents :
    [0, 63, 64].all (fun n => let s : State := { walking 0 false with walks := (walking 0 false).walks ++ (List.range n).map (fun i =>
        (i + 20, { plate := 0, part := 0, asid := 2, root := 0, va := 65536 * i, started := true })) }
      (s.walkQueue 0).map (·.1) == [8] && (heldBy (s.tlbPlate.at 0 []) 0 1 0).isNone &&
        (s.walks.filter (fun w => w.2.plate == 0 && w.2.started)).length == n) = true ∧
    (let s : State := { walking 0 false with tlbPlate := [(0, [{ part := 0, asid := 1, root := 0, va := 0, lg := 16, pte := 0x9B }])] }
     (s.walkQueue 0).map (·.1) = [8] ∧ (heldBy (s.tlbPlate.at 0 []) 0 1 0).isSome = true) ∧
    (let s : State := { walking 0 false with walks := (7, { plate := 0, part := 0, asid := 1, root := 0, va := 0x10000, refused := true, till := 5 }) :: (walking 0 false).walks }
     (s.walkQueue 0).map (·.1) = [8] ∧ s.walks.all (fun y => !y.2.refused || decide (s.now < y.2.till)) = true) ∧
    (match (walking (2 ^ 36) true).walk 1 false (2 ^ 36) with
     | .error (10, 35) => true
     | _ => false) = true ∧ (walking 0 true).alive mine = true ∧
    (match (walking 0 true).walk 1 false 0 with
     | .ok (pte, _) => pte.testBit 3 && !pte.testBit 6
     | _ => false) = true ∧
    [0, 1, 4].all (fun k => (shooting k [] id).mayStart 3 mine true true && ((shooting k [] id).ops.look 3).isSome) = true ∧
    (shooting 0 [0, 1, 2] id).covered 3 ⟨0, 0, 1, 0, 0, 0x10000⟩ = false ∧ [0, 1, 2].contains 3 = false ∧
    (shooting 0 [] (fun s => { s with ops := s.ops ++ [(4, { task := mine, ctx := 1, elems := [{ far_ .read with va := 0x8000 }] })] })).covered 0 ⟨0, 0, 1, 0, 0, 0x10000⟩ = true ∧
    (shooting 0 [0, 1, 2, 3] id).alive mine = true ∧ (shooting 0 [0, 1, 2, 3] id).mayStart 3 mine true true = true ∧
    ((flying { task := mine, kind := .wcall 1 0 } id).slot little 0).ship = none := by decide +kernel

/-- A guest of the task with its carry-ahead window, at a place, for the big core `big`. -/
def guesting (g : Guest) (place : Nat) : State :=
  { (handled (fun x => { x with ship := if place = 5 then none else some { id := 3, saved := {}, tpc := 0x1000 } })).updBig big (fun b => { b with guests := if place = 1 then [3] else [] }) with
    guests := [(3, { g with place := place, home := big, task := mine })] }
def guest : Guest := { task := mine, word := (encode (.fadd 7 4 2 3 3)).getD 0, guard := BitVec.allOnes 64 }

/-- The guest queue of `big` with more guests of one node than its shared entries. -/
def crowded : State :=
  { guesting guest 0 with guests := (3, { guest with home := big }) :: (List.range 66).map (fun i => (i + 4, { guest with home := big, place := 1 })) }

theorem entryFree_full (s : State) (c n : Nat) (h : ((s.entriesOf c).filter (fun g => nodeOf g.task.core == n)).length ≠ 0)
    (h' : 64 ≤ (((s.entriesOf c).map (fun g => nodeOf g.task.core)).dedup.map (fun n => ((s.entriesOf c).filter (fun g => nodeOf g.task.core == n)).length - 1)).sum) :
    s.entryFree c n = false := by
  simp only [State.entryFree, Bool.or_eq_false_iff, beq_eq_false_iff_ne, decide_eq_false_iff_not]
  exact ⟨h, by omega⟩

theorem test_hyp_GuestEvents_crowded : crowded.entryFree big (nodeOf little) = false := entryFree_full _ _ _ (by decide +kernel) (by decide +kernel)

theorem test_hyp_GuestEvents :
    [0, 1, 2, 4, 5].all (fun p => (((guesting guest p).guests.look 3).map (·.place)) == some p) = true ∧ (guesting guest 0).entryFree big (nodeOf little) = true ∧
    ((guesting guest 1).core big).big.guests = [3] ∧ decode guest.word = .ok (.fadd 7 4 2 3 3) ∧ guest.fault = none ∧ (guesting guest 4).alive guest.task = true ∧
    ((guesting { guest with fault := some (6, 0, 0) } 4).guests.look 3).map (·.fault) = some (some (6, 0, 0)) ∧ ((guesting guest 4).slot little 0).ship.all (fun h => h.popped == []) = true ∧
    ((guesting guest 4).slot little 0).dataError = none ∧ (((guesting guest 4).slot little 0).ship.map (·.id)) = some 3 ∧ isMtx (.fadd 7 4 2 3 3) = false ∧
    ((guesting guest 5).slot little 0).ship = none ∧ (guesting guest 5).alive guest.task = true := by decide +kernel

/-- A packet to channel 3 of the task's core, with the channel's entry. -/
def posting (p : Packet) (h : Handler) (f : State → State) : State :=
  f { (handled id).updHandler little 3 (fun _ => h) with packets := [(3, p)] }
def packet : Packet :=
  { kind := 1, target := localKey little 7 0x300, msg := { ctx := 1, len := 129, src := little }, task := some mine, at_ := some (routerOf little, routerOf little), goal := little }

/-- The packet arrives here, at the end of its way, behind none, at an entry that admits it. -/
def arrives (s : State) : Bool := match s.packets.look 3 with
  | some p => p.kind != 3 && p.answer == none && !p.nacked && (s.enroute 3 p).isNone && !s.behind 3 p && s.maySend 3 p &&
      bits p.target 59 50 == s.table.devnum && s.admits little false 3 p.msg
  | none => false

/-- The packet on its way from a router to a neighbour, with another escape packet on that link. -/
def travelling (p : Packet) (escaping : Bool) : State :=
  posting { p with at_ := some (routerOf big, routerOf big), path := route (routerOf big) (routerOf little), goal := little } {} (fun s => { s with
    packets := s.packets ++ [(9, { packet with escape := escaping, at_ := (route (routerOf big) (routerOf little)).head?.map (fun n => (routerOf big, n)) })] })

theorem test_hyp_MessageEvents :
    [({} : Handler), { gen := 1 }, { mode := 1, ctx := 1 }, { mode := 1, ctx := 1, mail := List.replicate 8 {} }, { mode := 2, ctx := 1 }].all (fun h =>
      arrives (posting packet h id) && arrives (posting { packet with kind := 2 } h id) && arrives (posting { packet with gc := true, gen := 2 } h id)) = true ∧
    (let s := posting packet { mode := 1, ctx := 1 } id
     (s.ctx 1).s = packet.msg.world ∧ s.portTask little 3 = none ∧ s.haltedCtx 1 = false) ∧
    (let s := posting { packet with msg := { ctx := 1, len := 128 } } { mode := 2, ctx := 1 } (fun s => s.updMe (fun x => { x with ports := [(0, { mode := 1, chan := 3 })] }))
     arrives s = true ∧ s.portTask little 3 = some (0, 0) ∧ s.portRoom little ((s.slot little 0).port 0) = true) ∧
    (let p : Packet := { packet with kind := 3, target := localKey little 6 0 }
     let s := posting p {} id
     (s.enroute 3 p).isNone = true ∧ s.maySend 3 p = true ∧ s.behind 3 p = false ∧ s.admits little true 0 p.msg = true ∧ isBig little = false ∧ s.haltedCtx 1 = false ∧ s.sendCards (engineId little 0) < 16 ∧
     s.inboxLen (engineId little 0) < 32) ∧
    packet.answer = none ∧ packet.nacked = false ∧ packet.escape = false ∧ packet.at_ ≠ none ∧ (posting packet {} id).alive mine = true ∧
    (let s := posting packet { mode := 2, ctx := 1 } id
     arrives s = true ∧ s.portTask little 3 = none ∧ s.abortedEntry little (s.handler little 3) = false ∧ (s.handler little 3).launch = none) ∧
    (let s := posting { packet with at_ := none } {} id
     s.holdsBack 3 { packet with at_ := none } = false ∧ ({ s with lpct := [(little, { st := 1, phys := little })] } : State).holdsBack 3 { packet with at_ := none } = true ∧
     packet.msg.src / 2 ^ 14 = s.table.devnum) ∧
    (let s := travelling { packet with escape := true } true
     (match s.packets.look 3 with
      | some p => (match p.path, p.at_ with
        | n :: _, some (_, r) => p.escape && decide (p.ready ≤ s.now) && s.slotTaken 3 p (r, n) && !(travelling packet true).slotTaken 9 p (n, r) &&
            !(travelling { packet with escape := true } false).slotTaken 3 p (r, n)
        | _, _ => false)
      | none => false) = true) ∧
    (let p := { packet with nacked := true, ready := 5 }
     let s := posting p {} id
     s.now < p.ready ∧ p.backoff = none ∧ ({ p with ready := 0 } : Packet).ready ≤ s.now ∧ p.remap = false ∧ ({ p with remap := true } : Packet).remap = true ∧
     s.now < 1 ∧ (0 : Nat) ≤ s.now) ∧
    packet.msg.src = (posting packet {} id).table.devnum * 2 ^ 14 + mine.core ∧
    ((posting packet {} id).slot little 0).ship = none ∧ bits (2 ^ 48) 63 48 = 1 := by decide +kernel

/-- The core with a waiting message at channel 3, and a bank's state. -/
def waiting (b : Bank) (f : State → State) : State :=
  f { (handled id).updHandler little 3 (fun _ => { mode := 1, ctx := 1, code := some code, mail := [{ ctx := 1 }] }) with banks := [(16 * little + 1, b)] }

theorem test_hyp_TaskEvents :
    (waiting {} id).selects little = some 3 ∧ (waiting {} id).openSlots little 1 ≠ [] ∧
    (let s := waiting {} (fun s => s.updSlot little 1 (fun x => { x with phase := .clearing, readyAt := 64 }))
     (s.slot little 1).phase = .clearing ∧ s.now < (s.slot little 1).readyAt ∧ 64 ≤ ({ s with now := 64 } : State).now) ∧
    (let s := (waiting {} id).updHandler little 3 (fun h => { h with code := none })
     s.selects little = some 3 ∧ (s.handler little 3).code = none) ∧
    (let s := { waiting {} (fun s => s.updSlot little 0 (fun x => { x with wait := some .scoreboard, stalledAt := 0 })) with now := 2 ^ 16 * meshLen + 64 * cycleLen (coreX little) }
     (s.slot little 1).readyAt - 64 * cycleLen (coreX (s.phys little)) + 2 ^ 16 * meshLen ≤ s.now ∧ (s.slot little 0).phase ≠ .free ∧ (s.slot little 0).wait ≠ none ∧
     (s.slot little 0).stalledAt + 1024 * meshLen ≤ s.now) ∧
    (let s := { waiting {} id with now := gtUnits * 2 ^ 15 }
     ({} : Bank).last + 2 ^ 15 ≤ s.gt ∧ ({ st := .drowsy, last := 2 ^ 14 } : Bank).last + 2 ^ 14 ≤ s.gt) ∧
    ((waiting {} id).handler little 3).mail ≠ [] ∧ (({} : Bank).st = .awake ∧ ({} : Bank).refresh = false) ∧ ((waiting {} id).slot little 1).phase = .free ∧
    (({ st := .drowsy } : Bank).st ≠ .gated) ∧
    (let s := waiting { st := .drowsy } id
     (s.banks.at (16 * little + 1) {}).st = .drowsy ∧ (s.banks.at (16 * little + 1) {}).refresh = false ∧ s.bankLent little 1 = false ∧ (s.core little).dark = none ∧ (s.core little).part = none) ∧
    (let s := { (onBig 0 id).updBig big (fun b => { b with pair := { slen := true, q := 12 } }) with now := gtUnits * 4096 }
     (s.core big).big.pair.slen = true ∧ (s.core big).big.pair.since + 2 ^ (s.core big).big.pair.q ≤ s.gt) := by decide +kernel

/-- A matrix command of `big`'s task. -/
def command (i : Instr) : MtxCmd := { word := (encode i).getD 0, core := big, ctx := 1, task := some ⟨big, 0, 4⟩, checked := true, admitted := true }

/-- A job of the task in its node's engine. -/
def copying (j : Job) (f : State → State) : State :=
  f { copier 0 0 (fun x => { x with cpc := 1 }) with jobs := [(3, j)] }
def job (kind aux0 : Nat) : Job :=
  { card := ({ src := cap 0x43 pad 0x1000 pad, dst := cap 0x43 (pad + 0x1000) 0x1000 (pad + 0x1000), kind := kind } : Card).withGeometry
      ((copier aux0 0 id).me.geometry 0), engine := engineId little 0, core := little, task := some mine, dest := 4, ctx := 1 }

theorem test_hyp_EngineEvents :
    (let s := copying (job 0 0) id
     (job 0 0).running = false ∧ (job 0 0).valid = true ∧ (job 0 0).cancelled = false ∧ s.jobMayStart 3 (job 0 0) = true ∧ s.alive mine = true ∧ (s.slot little 0).ship = none ∧
     s.foreignWorld (job 0 0) = false ∧ s.foreignWorld { job 0 0 with world := true } = true) ∧
    (let j : Job := { job 0 0 with running := true }
     let s := copying j (fun s => (s.store pad 8 7).store (pad + 8) 8 9)
     let e := fun (j : Job) (n : Nat) => (({ s with draws := s.draws + 1 } : State).moveSome j (n + 1)).1
     j.copied = false ∧ j.cancelled = false ∧ ({ j with valid := false } : Job).valid = false ∧ ({ j with cancelled := true } : Job).cancelled = true ∧
     (e j 0).moved = false ∧ (e j 40).moved = true ∧ (e j 40).err = 0 ∧ (e j 40).card.follow = none ∧
     (let k : Job := { j with card := { j.card with kind := 3, follow := some (command (.mtxAccfree 7 0)) } }
      (e k 40).moved = true ∧ (e k 40).err = 0 ∧ (e k 40).card.follow.isSome = true ∧
      (s.mtxq.at big []).length < 32) ∧
     (let k : Job := { job 1 (2 ^ 33 + 2) with running := true, stages := [.filling, .free] }
      (e k 0).moved = false ∧ (e k 40).moved = true ∧ (e k 40).err = 0 ∧ (e k 40).iter + 1 < (e k 40).card.iters)) ∧
    (let j : Job := { job 1 (2 ^ 32 + 2) with running := true, stages := [.free, .full] }
     j.iter % j.card.nstg = 0 ∧ j.stages[0]? ≠ some .full ∧ ({ j with iter := 1 } : Job).iter % j.card.nstg = 1 ∧ j.stages[1]? = some .full ∧ j.copied = false) ∧
    (let j : Job := { job 1 (2 ^ 32 + 2) with running := true, stages := [.full, .free] }
     let s := copying j (fun s => { s with ops := [(4, { task := mine, kind := .stageRelease (j.card.stageKey 0), ctx := 1 })] })
     j.stages[0]? = some .full ∧ j.card.stageKey 0 ≠ j.card.stageKey 1 ∧ j.card.nstg = 2 ∧ s.mayStart 4 mine true false = true ∧ s.jobs = [(3, j)] ∧ j.card.kind = 1 ∧ j.engine = engineId mine.core 0 ∧ 0 < j.card.nstg ∧ s.parked = []) ∧
    (let m : Stream := { streamOf ((cap 0x41 pad 32 pad).v.setWidth 128) (lanes [2 + 32 * 256, 0, 4, 0, 0, 0, 0, 0, 8, 1, 1, 0]) with id := 3 }
     let s := handled (fun x => { x with ports := [(0, { mode := 2, stream := some m })] })
     ((s.slot little 0).port 0).stream = some m ∧ m.halted = false ∧ m.next < m.total ∧ s.portRoom little ((s.slot little 0).port 0) = true ∧
     s.issuerDone 3 (some mine) ((m.strips 0).map (fun e => ((e.2 : Int), ((e.2 + 4 : Nat) : Int)))) [] = true) := by decide +kernel

/-- A command of the task at the head of `big`'s inbox. -/
def commanded (m : MtxCmd) (f : Big → Big) : State :=
  { ((burin false {}).updBig big f).updMe (fun x => { x with mxc := 1 }) with cmds := [(3, m)], mtxq := [(big, [3])] }

theorem test_hyp_MatrixEvents :
    (let m := command (.mtxMma 7 0 2 4)
     let s := commanded m (fun b => { b with accown := 2, ctab := [(0, { ctx := 1, part := 0, accsave := 0 }), (1, { ctx := 2, part := 0, accsave := 0 })] })
     m.running = false ∧ s.cmdMayStart 3 m = true ∧ m.checked = true ∧ m.admitted = true ∧ (s.mtxq.at big []) = [3] ∧ (s.core big).big.stopped = false ∧ (s.core big).big.trapped = false ∧ (s.core big).big.code 1 0 = 1 ∧
     (match (s.did (.matrixCommandStart big)).decideCmd m with
      | .trap own req => own == 2 && req == 1
      | .run _ => false) = true ∧ (s.core big).big.host.tvec = 0 ∧ (({ tvec := 4 } : HostCtx).tvec ≠ 0)) ∧
    (let m := { command (.mtxAccmv 7 15 9 10) with b := { v := 0x100 } }
     let s := commanded m id
     m.t = 4 ∧ (scalarOf m.b.v).testBit 8 = true ∧ m.n = 15 ∧ s.cmdMayStart 3 m = true ∧
     (match ((s.did (.matrixCommandStart big)).installCtx big 1 0).decideCmd m with
      | .run take => take
      | _ => false) = true) ∧
    (let m := { command (.mtxAccld 7 0 4) with a := { v := recordIn 0 64 0x40000 }, pins := [(4, 0x40000)] }
     let s := { commanded m id with slices := [(sliceId 0x40000, { misses := (List.range 64).map (fun i => { row := { line := i, part := 0 } }) })] }
     let u := (s.did (.matrixCommandStart big)).installCtx big 1 0
     s.cmdMayStart 3 m = true ∧ (u.fetchTile 3 m).1 = false ∧
     (match u.decideCmd m with
      | .run _ => true
      | _ => false) = true) ∧
    (let m := command (.mtxAccfree 7 15)
     let s := commanded m (fun b => { b with accown := 0x1000000000000000, ctab := [(0, { ctx := 1, part := 0, accsave := 0 })] })
     m.t = 7 ∧ (((s.did (.matrixCommandStart big)).installCtx big 1 0).core big).big.owner 15 = 1 ∧ (((s.did (.matrixCommandStart big)).installCtx big 1 0).core big).big.code 1 0 = 1) ∧
    (let s := commanded { command (.mtxAccfree 7 0) with running := true } id
     s.alive ⟨big, 0, 4⟩ = true ∧ (s.slot big 0).ship = none) ∧
    (let m := { command (.mtxAccfree 7 0) with checked := false }
     (match ((commanded m id).did (.deferredCheckDone 3)).mtxCheck m with
      | (.ok m', _) => m'.task == some ⟨big, 0, 4⟩
      | _ => false) = true) ∧
    (let m := { command (.mtxCodeb 7 8) with checked := false }
     let s := (commanded m id).updMe (fun x => { x with checking := some { id := 3, saved := x.arch, tpc := 0x1000 } })
     (match (s.did (.deferredCheckDone 3)).mtxCheck m with
      | (.error (step, code, _), u) => step == 3 && code == 9 && ((u.slot big 0).checking.map (fun h => h.popped == [])) == some true
      | _ => false) = true) := by decide +kernel

/-- A launch on the big core `big`, which belongs to partition 0, with a gang of one task. -/
def launching (l : Launch) (g : Option Gang) (f : State → State) : State :=
  f { ((onBig 0 id).updCore big (fun k => { k with part := some 0 })) with
    launches := [(3, l)], gangs := match g with
      | some g => [(4, g)]
      | none => [] }
def tiles : LaunchRec := { tgt := true, pmask := 1 }
def launch : Launch := { lid := 1, lr := tiles, ctx := 1, part := 0, root := .dealing, total := 1 }
def gang : Gang := { launch := 3, gnum := 0, plate := 0, members := [(big, 0, 0)], wants := [(big, 1)], bar := { gang := 4, e := 1, eNext := 1, ctx := 1 } }

theorem test_hyp_GangEvents :
    (let s := launching launch none id
     launch.root = .dealing ∧ launch.reached.contains 16384 = false ∧ tiles.kind = false ∧ bit tiles.pmask 0 = true ∧
     s.origins tiles 0 0 0 ≠ [] ∧ s.freeOrigins tiles 1 0 0 0 ≠ [] ∧ launch.nextOf 0 = none ∧ launch.handed < launch.total ∧ s.haltedPart 0 = false ∧
     ({ launch with ranges := [(0, 0, 1)] } : Launch).nextOf 0 = some (0, 1) ∧ s.placing 0 = false ∧
     (s.rectangle tiles 0 0 0 0 (tiles.tasksOf 0)).isSome = true) ∧
    (let s := launching launch (some gang) id
     gang.launch = 3 ∧ gang.dealt = false ∧ (s.reserveMore gang 1).whole = true ∧ s.haltedPart launch.part = false ∧ s.now < gang.since + 2 ^ 16 * cycleLen (coreX (s.columnCore gang.plate gang.place.1)) ∧
     (s.reserveMore { gang with wants := [(big, 9)] } 1).whole = false ∧
     gang.since + 2 ^ 16 * cycleLen (coreX (s.columnCore gang.plate gang.place.1)) ≤ ({ s with now := 2 ^ 16 * 63 * 100 } : State).now ∧
     ({ s with parts := [(0, { halt := .halted })] } : State).haltedPart launch.part = true) ∧
    (let g := { gang with dealt := true, toCreate := [0], members := [(big, 1, 0)] }
     g.members.find? (fun m => m.2.2 == 0) = some (big, 1, 0) ∧ g.toCreate.contains 0 = true ∧ launch.aborting = false) ∧
    (let g := { gang with dealt := true, alive := [0] }
     let s := { (launching launch (some g) (fun s => s.updMe (fun x => { x with gangId := some 4, wait := some .barrier }))) with
       ctxs := [(1, { wdog := 6, tvec := 4 })], now := 64 * gtUnits }
     (s.ctx g.bar.ctx).wdog ≠ 0 ∧ s.gangStalled 4 g = true ∧ s.gangPaused 4 g = false ∧ g.idleSince + 2 ^ (s.ctx g.bar.ctx).wdog ≤ s.gt ∧
     (∀ i ∈ g.alive, 0 ≤ i) ∧ 0 ∈ g.alive ∧ g.members.find? (fun m => m.2.2 == 0) = some (big, 0, 0) ∧
     ({ s with now := 64 * gtUnits - 1 } : State).gt < g.idleSince + 2 ^ (s.ctx g.bar.ctx).wdog) ∧
    (let g := { gang with dealt := true }
     (launching launch (some g) (fun s => s.updMe (fun x => { x with gangId := some 4 }))).gangStalled 4 g = false) := by decide +kernel

/-- A message launch on the task's core, with keys in its scratchpad. -/
def messages : LaunchRec :=
  { kind := true, pmask := 1, dlen := 1, extx := 1, dx0 := 24, dy0 := 8, keys := (cap 1 pad 16 pad).v.setWidth 128, keysTag := true }
def queued (l : Launch) : State := { placed id with launches := [(3, l)], launchq := [3], now := 1000 * gtUnits, serial := 9 }

theorem test_hyp_LaunchEvents :
    (let l := { launch with lr := messages, root := .queued }
     let s := queued l
     s.queued.head? = some 3 ∧ messages.isPod s.table.devnum = false ∧ l.podRoot = none ∧ s.activeCount < 64 ∧ s.haltedPart 0 = false ∧ l.held = false ∧
     (∀ c ∈ s.claimCores l, (s.handler c messages.chan).held = false) ∧ (queued { l with root := .queued }).launchq = [3] ∧
     ({ s with launches := [(2, l), (3, l)], launchq := [2, 3] } : State).queued.head? ≠ some 3) ∧
    (let l := { launch with root := .queued }
     let s := launching l none (fun s => { s with launchq := [3] })
     s.queued.head? = some 3 ∧ (∃ p ∈ platesOf tiles.pmask, s.origins tiles 0 p 0 ≠ []) ∧
     (∀ p ∈ platesOf tiles.pmask, (queued l).origins tiles 0 p 0 = []) ∧ (queued l).queued.head? = some 3) ∧
    (let l := { launch with lr := messages }
     let s := queued l
     l.nextMsg ≤ messages.extx ∧ (s.core (s.roleCore 3)).retx.length < 32 ∧ s.launchSending 3 = false ∧
     (match s.reachCap (s.dispatcher 3 l) true (Cap.ofBits messages.keys) false (Cap.ofBits messages.keys).addr.toNat 8 with
      | (.ok p, u) => !u.badRun p
      | _ => false) = true) ∧
    (let l := { launch with lr := messages, nextMsg := 2 }
     (queued l).launchSending 3 = false ∧ messages.extx < l.nextMsg ∧ messages.kind = true ∧ ({ l with aborting := true } : Launch).aborting = true ∧ l.draining = false) ∧
    (let l := { launch with handed := 1, ranges := [(0, 1, 1)] }
     let s := launching l (some { gang with dealt := true }) id
     l.total ≤ l.handed ∧ l.lr.kind = false ∧ s.launchSending 3 = false ∧ s.gangs.all (fun g => g.2.launch != 3 || g.2.dealt) = true ∧
     l.ranges.all (fun e => decide (e.2.2 ≤ e.2.1)) = true ∧ launch.handed < launch.total) ∧
    [Root.dealing, .none, .cand 0, .cand 1].all (fun r => let l := { launch with lr := messages, root := r }
      let s := queued l
      decide (l.sweepAt + 1000 ≤ s.gt) && s.cores.all (fun e => decide (e.1 < 16384) && s.idleCore e.1 e.2 3 l) && s.idleDispatchers 3 l &&
        (s.cores.map (fun e => e.2.sent.at l.lid 0)).sum == 0) = true ∧
    (let l := { launch with root := .none }
     let s := (queued l).updMe (fun x => { x with launch := some 3 })
     (s.cores.all (fun e => s.idleCore e.1 e.2 3 l)) = false ∧ (s.slot little 0).launch = some 3) ∧
    (let l := { launch with aborting := true, fcount := 1, fgt := 5 }
     l.root ≠ .ended ∧ l.reached.contains little = false ∧ (queued l).cmds = [] ∧ ({ launch with draining := true } : Launch).aborting = false) ∧
    (let l := { launch with asker := some (mine, 4), root := .queued }
     (queued l).alive mine = true ∧ ((queued l).slot little 0).ship = none) ∧
    (let s : State := { queued launch with ops := [(5, { task := mine, kind := .lctl 1 0 0, ret := .scalar 4 }), (6, { task := mine, kind := .lctl 2 0 0 })] }
     (s.launchNamed 0).map (·.1) = some 3 ∧ launch.lid ≠ 256 ∧ s.alive mine = true ∧ bits 0 57 48 = s.table.devnum) := by decide +kernel

/-- A pod message in the module, with a launch's part under (0, 7) or the root's record. -/
def podding (b : PodBody) (l : Option Launch) : State :=
  { (handled id) with podIn := [(3, { src := 1, dst := 0, body := b })], launches := match l with
      | some l => [(4, l)]
      | none => [] }
def podLaunch : Launch := { launch with lr := { tiles with ndev := 1 }, seq := 7 }

theorem test_hyp_PodEvents :
    (podding (.dispatch 0 7 0 tiles 1 0 false 0) none).podStops.contains (0, 7) = false ∧ (podding (.dispatch 0 7 0 tiles 1 0 false 1) none).podIn.length = 1 ∧
    (podding (.claimed 7 0 5) (some podLaunch)).podRecord 7 = some (4, podLaunch) ∧ podLaunch.podMap = false ∧
    (∃ r ≤ podLaunch.lr.ndev, Sp.look (Sp.set podLaunch.podClaims 0 5) r = none) ∧
    (∀ r ≤ podLaunch.lr.ndev, (Sp.look (Sp.set [(1, 2)] 0 5) r).isSome = true) ∧
    (let l := { podLaunch with podRoot := some (0, 7) }
     (podding (.lidMap 0 7 [1, 2]) (some l)).podPart 0 7 = some (4, l) ∧ l.root = .dealing ∧ l.podMap = false) ∧
    (let l := { podLaunch with root := .none }
     (podding (.sweep 0 7 0 2 2 true) (some l)).podRecord 7 = some (4, l) ∧ l.podEnded = false) ∧
    (let l := { podLaunch with root := .cand 2 }
     (podding (.sweep 0 7 0 2 2 true) (some l)).podRecord 7 = some (4, l)) ∧
    (let s := podding (.reg 1 0 false 0 1) none
     ((s.ctxs.look 1).map (fun c => (c.part, c.s))) = some (0, false) ∧ s.podTable.length < 64 ∧ 1 ≠ s.table.devnum ∧ s.ctxs.look 2 = none ∧
     ¬ (({ s with podTable := (List.range 64).map (fun i => { ctx := i + 2, dev0 := 0, ndev := 0 }) } : State).podTable.length < 64)) ∧
    (let s : State := { podding (.regAnswer 1 1 0) none with registering := [{ ctx := 1, peer := 0, reqid := 0, dev0 := 0, ndev := 1 }] }
     s.registering.length = 1 ∧ (Sp.set ([] : Sp Nat) 1 0).length ≤ 1) := by decide +kernel

/-- The task's core and its neighbour in partition 0. -/
def neighbours : State := ((placed id).updCore little (fun k => { k with part := some 0 })).updCore (little + 1) (fun k => { k with part := some 0 })

theorem test_hyp_PowerEvents :
    canMove (placed id).vectorCap (placed id).freeColumns true = true ∧ canMove [(bigId 0 0 0, 4)] bigKeys false = true ∧
    ({ placed id with held := [(little, true)] } : State).freeColumns ≠ columnKeys ∧ (placed id).table.mpri = 0 ∧
    (let s := neighbours
     (s.core little).moving = false ∧ s.movable (s.logical little) = true ∧ s.targets little ≠ [] ∧ s.movable (s.logical (little + 2)) = false) ∧
    (let s : State := { placed id with lpct := [(little, { st := 0, phys := little, target := some (little + 1) })] }
     (s.lpct.look little).isSome = true ∧ s.refreshing [little] = false ∧ ({ s with banks := [(16 * little, { refresh := true })] } : State).refreshing [little] = true ∧
     s.now < ({ st := 2, phys := little, till := 1 } : Lpct).till ∧ s.ops = [] ∧ s.packets = [] ∧ s.me.ship = none ∧ s.me.board = []) ∧
    (let o : Op := { task := mine, stc := true }
     o.isParked = false ∧ o.task.core = little) ∧
    (let s := placed id
     (s.column 0 9).st = .on ∧ s.columnFree 0 9 = true ∧ s.waiting = [] ∧ ({} : Column).idleFrom + 1000000 ≤ ({ s with now := 1000000 * gtUnits } : State).gt ∧ s.gt < 1000000 ∧ s.columnFree 0 10 = false ∧ s.opening = [] ∧
     ((s.setColumn 0 9 { st := .rampDown, till := 2000 }).column 0 9).st = .rampDown ∧ s.gt < 2000 ∧ 2000 ≤ ({ s with now := 2000 * gtUnits } : State).gt) := by decide +kernel

/-- A partition in a state of halting, with the task, or without any task. -/
def halted_ (h : Halt) (i : Option Image) : State :=
  { (handled id).updCore little (fun k => { k with part := some 0 }) with parts := [(0, { halt := h, image := i })] }

theorem test_hyp_PartitionEvents :
    ((halted_ .running none).parts.at 0 {}).halt ≠ .halting ∧ ((halted_ .halting none).parts.at 0 {}).halt = .halting ∧ (halted_ .halting none).quiet 0 = true ∧
    ({ halted_ .halting none with ops := [(3, { task := mine, ldc := true })] } : State).quiet 0 = false ∧
    (let i : Image := { cores := [(little, {})], mem := [(pad, 1)] }
     (i.cores.map (·.1)).Nodup ∧ (i.mem.map (·.1)).Nodup ∧ (([(16 * big, 5, false)] : List (Nat × Nat × Bool)).map (·.1)).Nodup ∧
     (∀ e ∈ i.cores, (e.2.slots.map (·.1)).Nodup) ∧ (halted_ .swappingOut none).refreshing (((halted_ .swappingOut none).coresOf 0).map (·.1)) = false ∧
     ({ halted_ .swappingOut none with banks := [(16 * little, { refresh := true })] } : State).refreshing (((halted_ .swappingOut none).coresOf 0).map (·.1)) = true ∧ ((halted_ .swappingIn (some i)).parts.at 0 {}).image = some i) ∧
    (let v := 2 ^ 18 + 12 * 2 ^ 19 + 2 * 2 ^ 32 + 2 ^ 48
     let k := (onBig 0 id).core big
     isBig big = true ∧ (∀ e ∈ (onBig 0 id).slotHolders big, bit (bits v 31 24) e.1 = bit k.big.pair.smap e.1) ∧
     (∀ e ∈ (onBig 0 id).slotHolders big, e.2 = if bit (bits v 31 24) e.1 then bits v 47 32 else bits v 63 48) ∧ bits v 23 19 = 12 ∧
     bits (24 * 2 ^ 19) 23 19 = 24 ∧ (∀ e ∈ (small big 0 id).cores, e.2.slots.length = 1)) ∧
    (onBig 0 id).mtxq.at big [] = [] ∧ ({ onBig 0 id with mtxq := [(big, [3])] } : State).mtxq.at big [] ≠ [] ∧
    (placed id).isEasel 0 = true ∧ (placed id).isEasel little = false ∧ (placed id).blockBusy (.cores 0) = true ∧ (placed id).blockBusy (.cores 1) = false ∧
    (placed id).blockBusy (.engines 0) = false ∧ (placed id).sessions = [] := by decide +kernel

/-- A command queue of context 1 in the task's scratchpad: its descriptor, ring and records. -/
def queue (tail : Nat) (run : Option RunPacket) : CmdQueue :=
  { ctx := 1, desc := pad, qbase := pad + 0x1000, cbase := pad + 0x2000, qlog := 6, tail := tail, run := run }
def commandQueue (q : CmdQueue) (f : State → State) : State := f { handled id with queues := [(0, q)] }
/-- A packet whose one step has the given words. -/
def step1 (l : List Nat) : RunPacket := { words := List.replicate 8 0 ++ l ++ List.replicate (8 - l.length) 0, first := 0 }

def loadsAt (s : State) (x n : Nat) : Bool := match s.cpLoad 1 x n with
  | .ok _ => true
  | .error _ => false
def storesAt (s : State) (x : Nat) (l : List Byte) : Bool := match s.cpStore 1 x l with
  | .ok _ => true
  | .error _ => false
/-- Whether the command processor takes the record at the scratchpad's start, and what its checks answer. -/
def recordOf_ (s : State) (f : LaunchRec → State → Bool) : Bool := match s.cpRecord 1 pad with
  | .ok (r, t) => f r t
  | .error _ => false

theorem test_hyp_QueueEvents :
    (let s := commandQueue (queue 0 none) id
     (queue 0 none).state = 1 ∧ Instr.packetStart 0 ∉ s.due ∧ loadsAt (s.keepDesc (queue 0 none)) (pad + 56) 8 = true ∧ loadsAt s (pad + 12) 1 = true ∧
     (queue 0 none).have = 0 ∧ 0 < (queue 64 none).have ∧ (queue 64 none).have ≤ (queue 64 none).size ∧ (queue 65 none).size < (queue 65 none).have) ∧
    (let s := (commandQueue (queue 2 none) id).store (pad + 0x1000) 128 (1 + 2 ^ 512 * (1 + 2 ^ 16 + 2 ^ 64 * pad))
     (match (s.did (.packetStart 0)).entries (queue 2 none) 1 0 with
      | .ok (h, t) => bits (wordOf h 0 0) 7 0 == 1 && (match t.entries (queue 2 none) 2 0 with
        | .ok (l, _) => firstBad l == none
        | .error _ => false)
      | .error _ => false) = true ∧ ¬ ((queue 1 none).have ≥ 2)) ∧ firstBad [1, 0, 0, 0, 0, 0, 0, 5, 0, 0, 0, 0, 0, 0, 0, 0] = some 7 ∧
    (let s := commandQueue (queue 0 none) id
     (s.cpSlice 0).1 = some 0 ∧ (queue 0 none).runs = false ∧ (s.cpSlice 0).2 + 2 ^ 14 ≤ ({ s with now := 2 ^ 14 * gtUnits } : State).gt ∧ s.gt < (s.cpSlice 0).2 + 2 ^ 14 ∧
     (({ s with queues := [(0, queue 0 none), (1, queue 0 none)], cpAt := [(0, 1, 0)] } : State).cpSlice 0).1 ≠ some 0) ∧
    (let r := { step1 [] with ended := some (0, 0, 0) }
     let s := commandQueue (queue 2 (some r)) id
     packetSerial r.words = false ∧ packetCompl r.words = false ∧ s.allEnded [] = true ∧ packetSerial [256] = true ∧
     ({ s with launches := [(9, launch)] } : State).allEnded [9] = false ∧ storesAt (s.did (.packetCompletion 0)) (pad + 0x2000) (recordBytes 0 0 0 0 0 0 2) = true) ∧
    (let r := step1 [1 + 48 * 2 ^ 16, pad]
     let s := commandQueue (queue 2 (some r)) id
     r.late s.gt = false ∧ ({ r with begun := true } : RunPacket).late 2001 = true ∧ bits (wordOf r.words 1 0) 7 0 = 1 ∧ storesAt s pad (stepData r.words 1 48) = true ∧
     storesAt s (2 ^ 63) (stepData r.words 1 48) = false) ∧
    (let s := commandQueue (queue 2 (some (step1 [2, pad, 5]))) id
     storesAt s pad (leBytes 8 5) = true ∧ loadsAt s pad 8 = true) ∧ (pad + 4) % 8 ≠ 0 ∧ pad % 8 = 0 := by decide +kernel
theorem test_hyp_QueueEvents_steps :
    (let r := step1 [4, pad, pad + 64, 64]
     let s := commandQueue (queue 2 (some r)) id
     let j := s.copyJob 0 (queue 2 none) pad (pad + 64) 64
     (s.cardStorage j.access j.card) = none ∧ (s.cardStorage j.access (s.copyJob 0 (queue 2 none) (pad + 0xF00000) (pad + 64) 64).card).isSome = true ∧
     ({ r with result := some 0 } : RunPacket).result = some 0 ∧ r.result = none ∧ r.waits = none ∧
     inboxSize ≤ ({ s with jobs := (List.range 32).map (fun i => (i + 9, j)) } : State).inboxLen j.engine ∧
     bits (wordOf r.words 1 0) 7 0 = 4 ∧ wordOf r.words 1 3 = 64 ∧ s.inboxLen (s.copyJob 0 (queue 2 none) pad (pad + 64) 64).engine < inboxSize) ∧
    (let f := fun (s : State) => { s with mem := (recorded 0 0).mem, tags := (recorded 0 0).tags }
     let s := commandQueue (queue 2 (some (step1 [5, pad]))) f
     recordOf_ s (fun r t => !r.s && !r.sup && !t.cpRecordBad (queue 2 none) r true pad && decide (t.queued.length < 256)) = true ∧
     recordOf_ (commandQueue (queue 2 (some (step1 [5, pad]))) id) (fun r t => t.cpRecordBad (queue 2 none) r true pad) = true ∧
     (match s.cpRecord 1 (pad + 1) with
      | .ok _ => false
      | .error _ => true) = true) ∧
    (let q := { queue 2 (some (step1 [6 + 4 * 2 ^ 16, 7])) with amh := 7 }
     let l := { launch with root := .none, seq := 7, lr := messages, held := true }
     let s := commandQueue q (fun s => { s with launches := [(9, l)] })
     s.openLaunch q = some (9, l) ∧ (s.amsgLids 9 l).isSome = true ∧ (s.core (s.cpCore 0)).retx.length < 32 ∧ (commandQueue q id).openLaunch q = none) ∧
    (let s := commandQueue (queue 2 (some (step1 [7, 0]))) (fun s => { s with launches := [(9, launch)] })
     (let h := 2 ^ 48 + 7
      bits h 57 48 ≠ s.table.devnum ∧ ({ s with routes := [(1, [0])] } : State).routes.at (bits h 57 48) [] ≠ [] ∧ s.routes.at (bits h 57 48) [] = [] ∧ s.launchNamed h = none) ∧
     bits 0 63 58 = 0 ∧ s.launchNamed 0 = some (9, launch) ∧ launch.ctx = 1 ∧ s.launchNamed 1 = none ∧ Instr.cancelDecision 9 0 ∉ s.due) ∧
    (let r := { messages with keysTag := false, codeTag := true, code := code, argTag := true, doneTag := true, done := (cap 2 pad 64 pad).v.setWidth 128, extx := 0 }
     let s := (handled id).updCore little (fun k => { k with part := some 0 })
     s.cpRecordBad (queue 2 none) r false pad = false ∧ s.cpRecordBad (queue 2 none) r true pad = true) ∧
    (commandQueue (queue 2 none) id).hostCtx ≠ 1 ∧ ({ commandQueue (queue 2 none) id with hostCtx := 1 } : State).hostCtx = 1 ∧
    (commandQueue (queue 2 (some (step1 [8 + 3 * 256, 0]))) id).packetRuns 0 0 = false ∧
    [Halt.running, .halting, .halted, .swapped, .swappingIn].all (fun h => ((halted_ h none).parts.at 0 {}).halt == h) = true := by decide +kernel

/-- The module in service with roles on its easel, at a time of 2^20 ticks. -/
def serving : State := { handled id with roles := [(16 * coreId 0 0 0 0, 3), (16 * coreId 0 0 0 0 + 1, 5)], now := 2 ^ 20 * gtUnits, launches := [(3, launch)] }

theorem test_hyp_HealthAndBringUp :
    serving.failedPorts.at 15 false = false ∧ ({ serving with failedPorts := [(3, true)] } : State).failedPorts.at 3 false = true ∧
    (serving.roles.look (16 * coreId 0 0 0 0)).isSome = true ∧ serving.roles.look 7 = none ∧ serving.heartbeats.at (16 * coreId 0 0 0 0) 0 + 1000000 ≤ serving.gt ∧
    ({ serving with now := 0 } : State).gt < 0 + 1000000 ∧ serving.roles.look (16 * coreId 0 0 0 0 + 3) = none ∧ (16 * coreId 0 0 0 0 + 3) % 16 < 4 ∧
    serving.isEasel (coreId 0 0 0 0) = true ∧ isLittle (coreId 0 0 0 0) = true ∧ serving.boot = .service ∧ State.reset.boot = .off ∧ serving.flash.verified = none ∧
    (let s : State := { serving with flash := { serving.flash with verified := some 5 }, managers := [{ addr := 7, unacked := [{ psn := 0, data := [] }] }] }
     s.flash.verified = some 5 ∧ (∃ p ∈ s.managers, p.unacked ≠ []) ∧ 5 + 200000 ≤ s.gt ∧ ({ s with now := 0 } : State).gt < 5 + 200000) := by decide +kernel

/-- The module with host 7 as its manager and host 9 in session 1 of context 1, whose window covers the task's scratchpad. -/
def hosted : State :=
  { handled id with
    table := { ({} : ConfigTable) with mgmt := [7] }, hostCtx := 2
    sessions := [(1, { ctx := 1, peer := { addr := 9 }, windows := [(0, ⟨pad, 0x20000, true, true⟩)] })] }
def frame (kind session psn apsn src : Nat) (body : List Byte) : Frame := { src := src, data := header kind session psn apsn body.length ++ body }
/-- A MGMT request on session 0 with its arguments. -/
def request (op : Nat) (args : List Byte) : Frame := frame kMgmt 0 0 0 7 (leBytes 4 op ++ leBytes 4 1 ++ args)

/-- A packet is taken by the port and accepted, no other waiting, and the state then and its body satisfy a check. -/
def accepts (s : State) (f : Frame) (c : LPacket → State → Bool) : Bool :=
  match parsePacket f.data with
  | none => false
  | some h => match s.peer h.session f.src with
    | none => false
    | some p => s.portTakes f false && s.waiting == [] && !s.mgmtBusy f.src && h.psn == p.expect && c h ((s.setPeer h.session { p with expect := (p.expect + 1) % 2 ^ 32, owesAck := true }).push (.ackDue h.session f.src))
def asked (s : State) (op : Nat) (named : List (Nat × Nat)) (args : List Byte) (c : List Byte → State → Bool) : Bool :=
  accepts s (request op args) (fun h t => h.kind == kMgmt && h.session == 0 && h.op == op && zeroBut ([(0, 1), (4, 4)] ++ named) h.body && c h.body t)

theorem test_hyp_PortEvents :
    parsePacket [] = none ∧ hosted.peer 0 9 = none ∧ (hosted.peer 0 7).isSome = true ∧ (hosted.peer 1 9).isSome = true ∧
    (let f : Frame := { frame 0 0 0 0 9 [] with proto := 58, data := leBytes 8 128 }
     hosted.portTakes f true = true ∧ hosted.portTakes { f with data := leBytes 8 135 ++ beBytes 16 hosted.table.addr } true = true ∧ hosted.waiting = [] ∧
     hosted.portTakes { f with ipv6 := false } true = false ∧ hosted.portTakes { f with proto := 17 } true = false ∧ hosted.portTakes f false = false) ∧
    leAt (leBytes 8 128) 0 2 = 128 ∧ (leBytes 8 128).length = 8 ∧
    (let l : List Byte := leBytes 8 135 ++ beBytes 16 hosted.table.addr
     leAt l 0 2 = 135 ∧ 24 ≤ l.length ∧ (l.drop 8).take 16 = beBytes 16 hosted.table.addr) ∧
    [kAck, kNak].all (fun k => accepts hosted (frame k 1 0 0 9 []) (fun h _ => h.kind == k && h.psn == 0 && h.apsn == 0)) = true ∧
    (0 + 2 ^ 32 - 0) % 2 ^ 32 < 2 ^ 31 ∧ ¬ ((0 + 2 ^ 32 - 2 ^ 31) % 2 ^ 32 < 2 ^ 31) ∧
    accepts hosted (frame kIdent 1 0 0 9 []) (fun h _ => h.body == []) = true ∧ (parsePacket (frame kIdent 1 5 0 9 []).data).isSome = true ∧
    accepts hosted (frame kAttest 1 0 0 9 (List.replicate 40 0)) (fun h t => h.body.length == 40 && leAt h.body 34 6 == 0 && decide (t.flash.leaf < 2 ^ 20)) = true ∧
    accepts { hosted with boot := .recovery } (frame kRecover 0 0 0 1 (leBytes 8 0 ++ leBytes 8 1 ++ [7]))
      (fun h t => leAt h.body 8 4 == 1 && h.body.length == 17 && leAt h.body 12 1 == 0 && leAt h.body 13 3 == 0 && leAt h.body 0 8 == t.flash.received) = true ∧
    accepts hosted (frame kWrite 1 0 0 9 (leBytes 8 pad ++ leBytes 8 1 ++ leBytes 8 5)) (fun h t => match parseItems h.body.length h.body, t.sessions.look 1 with
      | some items, some x => t.portWorldOk x.ctx && (t.writeItems x 0 items).1 == none
      | _, _ => false) = true ∧
    accepts hosted (frame kWrite 1 0 0 9 (leBytes 8 0 ++ leBytes 8 1 ++ leBytes 8 5)) (fun h t => match parseItems h.body.length h.body, t.sessions.look 1 with
      | some items, some x => t.portWorldOk x.ctx && (t.writeItems x 0 items).1 == some (0, 8)
      | _, _ => false) = true ∧ ({ hosted with securePort := true } : State).portWorldOk 1 = false ∧
    accepts hosted (frame kRead 1 0 0 9 (leBytes 8 (pad + 1) ++ leBytes 8 7)) (fun h t => match t.sessions.look 1 with
      | some x => leAt h.body 8 4 == 7 && leAt h.body 12 4 == 0 && t.portWorldOk x.ctx && x.allows false (leAt h.body 0 8) 7 && (match t.reachRun (t.portAccess x.ctx) false true (pad + 1) 7 with
        | (.ok l, u) => !u.badRun l
        | _ => false)
      | none => false) = true ∧
    accepts hosted (frame kMgmt 1 0 0 9 (leBytes 8 16)) (fun h _ => h.kind == kMgmt && h.session != 0 && h.op == 16) = true ∧
    accepts hosted (frame kMgmt 0 0 0 7 (leBytes 8 0)) (fun h _ => h.kind == kMgmt && h.session == 0 && h.op == 0) = true := by decide +kernel

theorem test_hyp_PortEvents_contexts :
    accepts hosted (request 1 (leBytes 1 0 ++ leBytes 128 (2 ^ 1000))) (fun h _ => zeroBut [(0, 1), (4, 4), (8, 128)] h.body) = true ∧
    accepts hosted (request 1 (List.replicate 129 1)) (fun h _ => !zeroBut [(0, 1), (4, 4), (8, 128)] h.body) = true ∧
    asked hosted 1 [(8, 128)] (leBytes 128 0) (fun b _ => !recordOk (leAt b 8 128)) = true ∧
    asked hosted 1 [(8, 128)] (leBytes 128 (3 * 2 ^ 896 + 10 * 2 ^ 920 + 20 * 2 ^ 912)) (fun b t => (recordOk (leAt b 8 128)) == recordOk (3 * 2 ^ 896 + 10 * 2 ^ 920 + 20 * 2 ^ 912) && (t.ctxs.look 3).isNone) = true ∧
    asked hosted 2 [(8, 2)] (leBytes 2 5) (fun _ t => (t.ctxs.look 5).isNone) = true ∧ asked hosted 2 [(8, 2)] (leBytes 2 1) (fun _ t => (t.ctxs.look 1).isSome && t.ctxBusy 1) = true ∧
    asked { hosted with sessions := [] } 2 [(8, 2)] (leBytes 2 1) (fun _ t => (t.ctxs.look 1).isSome && !t.ctxBusy 1) = true ∧
    asked hosted 4 [(8, 1)] (leBytes 1 16) (fun b _ => decide (15 < leAt b 8 1)) = true ∧
    asked hosted 4 [(8, 1)] (leBytes 1 15) (fun _ t => !t.partActive 15 && t.ctxs.all (fun c => c.2.part != 15) && !t.haltedPart 15) = true ∧
    asked hosted 5 [(8, 2), (16, 16)] (leBytes 8 5 ++ leBytes 16 1) (fun _ t => (t.ctxs.look 5).isNone) = true ∧
    asked hosted 5 [(8, 2), (16, 16)] (leBytes 8 1 ++ leBytes 16 1) (fun _ t => (t.ctxs.look 1).isSome && decide (t.sessions.length < 256)) = true ∧
    asked hosted 6 [(8, 2)] (leBytes 2 0) (fun b _ => leAt b 8 2 == 0) = true ∧ asked hosted 6 [(8, 2)] (leBytes 2 2) (fun _ t => (t.sessions.look 2).isNone) = true ∧
    asked hosted 6 [(8, 2)] (leBytes 2 1) (fun _ t => (t.sessions.look 1).isSome) = true ∧
    asked hosted 7 [(8, 4), (16, 16)] (leBytes 4 (1 + 15 * 2 ^ 16 + 3 * 2 ^ 24) ++ leBytes 4 0 ++ leBytes 8 0 ++ leBytes 8 (2 ^ 57))
      (fun b t => leAt b 11 1 == 3 && leAt b 10 1 == 15 && virtualRange (leAt b 16 8) (leAt b 24 8) && (t.sessions.look 1).isSome) = true ∧
    asked hosted 8 [(8, 3), (12, 2), (16, 24)] (leBytes 8 (1 + 6 * 2 ^ 16) ++ leBytes 8 pad ++ leBytes 8 (pad + 0x1000) ++ leBytes 8 (pad + 0x2000))
      (fun b t => (t.ctxs.look 1).isSome && leAt b 10 1 == 6 && leAt b 16 8 % 64 == 0 && leAt b 24 8 % (64 * 2 ^ 6) == 0 && leAt b 32 8 % (32 * 2 ^ 6) == 0 && t.queues.length == 0) = true ∧
    asked hosted 9 [(8, 2)] (leBytes 2 0) (fun _ t => (t.queues.look 0).isNone) = true ∧
    asked { hosted with queues := [(0, queue 0 none)] } 9 [(8, 2)] (leBytes 2 0) (fun _ t => ((t.queues.look 0).map (fun z => z.ending.isNone && z.run.isNone)) == some true) = true := by
  decide +kernel

theorem test_hyp_PortEvents_device :
    asked hosted 3 ([(8, 2)] ++ (List.range 4).map (fun p => (16 + 8 * p, 6))) (leBytes 8 16 ++ List.replicate 32 0) (fun b t => leAt b 9 1 == 0 && (match t.partPlan b with
      | .error e => e == 2
      | .ok _ => false)) = true ∧
    asked hosted 10 [(8, 6)] (leBytes 6 5) (fun _ t => (t.ctxs.look 5).isNone) = true ∧
    asked hosted 10 [(8, 6)] (leBytes 6 1) (fun b t => (t.ctxs.look 1).isSome && leAt b 10 2 == t.table.devnum && leAt b 12 2 == 0 && decide (t.table.devnum < t.table.podsz) &&
      t.registering.isEmpty && t.podTable.isEmpty) = true ∧
    asked hosted 11 [(8, 2)] (leBytes 2 1) (fun _ t => t.podTable.isEmpty) = true ∧
    asked { hosted with podTable := [{ ctx := 1, dev0 := 0, ndev := 0 }] } 11 [(8, 2)] (leBytes 2 1) (fun _ t => t.podTable.any (fun e => e.ctx == 1) && t.launches.isEmpty) = true ∧
    asked { hosted with podTable := (List.range 64).map (fun i => { ctx := i, dev0 := 0, ndev := 0 }) } 10 [(8, 6)] (leBytes 6 1) (fun _ t => t.podTable.length == 64 && t.registering.isEmpty) = true ∧
    asked { hosted with registering := [{ ctx := 1, peer := 0, reqid := 0, dev0 := 0, ndev := 0 }], table := { hosted.table with mgmt := [7] } } 10 [(8, 6)] (leBytes 6 1)
      (fun _ t => t.registering.any (fun r => r.ctx == 1)) = true ∧
    (let f := request 1 []
     let s : State := { hosted with waiting := [f] }
     f ∈ s.waiting ∧ hosted.mgmtBusy f.src = false ∧ ({ hosted with opening := [request 3 []] } : State).mgmtBusy f.src = true) ∧
    asked hosted 12 [(8, 12), (24, 8192)] (leBytes 8 5 ++ leBytes 8 1 ++ [1]) (fun b t => leAt b 8 8 != t.flash.written) = true ∧
    asked hosted 12 [(8, 12), (24, 8192)] (leBytes 8 0 ++ leBytes 8 1 ++ [1]) (fun b t => leAt b 8 8 == t.flash.written && leAt b 16 4 == 1 && ((b.drop 24).take 1).length == 1 && zeroBut [(0, 25)] b) = true ∧
    asked hosted 13 [(8, 8)] (leBytes 8 1) (fun b t => decide (t.flash.image.length < leAt b 8 8)) = true ∧ asked hosted 13 [(8, 8)] (leBytes 8 0) (fun b t => decide (leAt b 8 8 ≤ t.flash.image.length)) = true ∧
    asked hosted 14 [(8, 2)] (leBytes 2 16) (fun b _ => decide (15 < leAt b 8 1)) = true ∧ asked hosted 14 [(8, 2)] (leBytes 2 (15 + 3 * 256)) (fun b _ => leAt b 8 1 == 15 && leAt b 9 1 == 3) = true ∧
    asked hosted 15 [(8, 6)] (leBytes 4 0 ++ leBytes 2 65) (fun b _ => decide (64 < leAt b 12 2)) = true ∧ asked hosted 15 [(8, 6)] (leBytes 4 0 ++ leBytes 2 64) (fun b _ => leAt b 12 2 == 64) = true := by
  decide +kernel

/-! ## Issue, fetch and the step -/

/-- The small state with a destination outstanding, and with a register that holds uncorrectable bits. -/
def outstanding (d : Dest) : State := (ints [1] [2] [3]).updMe (fun x => { x with board := [(d, 9)] })
def spoiled : State := (ints [1] [2] [3]).updMe (fun x => { x with badRegs := [3] })

/-- What `NotIssued` asks before an instruction may go on. -/
def issuesNow (s : State) (i : Instr) : Bool :=
  s.mayIssue s.cur.core s.cur.slot && decide i.wf && pfxOk i s.me.arch.pfx && (s.me.ship == none)

theorem test_hyp_NotIssued :
    (let i : Instr := .add 7 4 2 3 2
     let j : Instr := .add 1 4 2 3 2
     let s := ints [1] [2] [3]
     i.guard?.isSome = true ∧ (s.updMe (fun x => { x with halted := true })).mayIssue little 0 = false ∧
     s.mayIssue little 0 = true ∧ s.me.ship = none ∧ ¬ (Instr.fadd 7 4 2 3 4).wf ∧
     pfxOk i (s.updArch (fun r => { r with pfx := { i := some 3 } })).me.arch.pfx = false ∧
     [outstanding (.pred 1), outstanding (.reg 2), outstanding (.reg 4), spoiled, s].all (fun t => issuesNow t i && issuesNow t j) = true ∧
     ((outstanding (.pred 1)).me.guardStall s.opParked (governsOf j).reads (guardPred j)).isSome = true ∧ s.me.unreadable (governsOf j).reads = none ∧
     [s, spoiled, outstanding (.reg 2), outstanding (.reg 3), outstanding (.reg 4)].all (fun t =>
       (t.me.guardStall t.opParked (governsOf i).reads (guardPred i)).isNone && (t.me.guardStall t.opParked (governsOf j).reads (guardPred j)).isNone) = true ∧
     (let k : Instr := .lanePut 7 4 2 3
      issuesNow (outstanding (.reg 3)) k = true ∧ ((outstanding (.reg 3)).me.guardStall s.opParked (governsOf k).reads (guardPred k)).isSome = true ∧
      (s.me.guardStall s.opParked (governsOf k).reads (guardPred k)).isNone = true) ∧
     guardedOff (governsOf j) (s.mask ((j.guard?).getD 7)) s.me.peek = true ∧
     guardedOff (governsOf i) (s.mask ((i.guard?).getD 7)) s.me.peek = false ∧
     [Dest.reg 2, .reg 3, .reg 4].all (fun d => !((outstanding d).me.blockers ((outstanding d).uses i) (guardPred i)).isEmpty) = true ∧
     spoiled.me.blockers (spoiled.uses i) (guardPred i) = [] ∧ (spoiled.uses i).src.all (fun r => !spoiled.me.bound r) = true ∧
     (spoiled.uses i).src.find? spoiled.me.badRegs.contains = some 3) := by decide +kernel

theorem test_not_issued :
    after (.add 7 4 2 3 2) spoiled (fun t => t.me.phase == .stopped) = true ∧
    after (.add 7 4 2 3 2) (outstanding (.reg 2)) (fun t => t.me.arch.pc == 0x1000) = true ∧
    after (.add 1 4 2 3 2) (ints [1] [2] [3]) (fun t => t.me.arch.pc == 0x1004 && t.me.arch.reg 4 == (ints [1] [2] [3]).me.arch.reg 4) = true := by
  decide +kernel

/-- An instruction's word at the pc of a task that issues next. -/
def placedAt (w : Nat) : State := State.reset.withFetchWord 32 w

/-- What the step answers satisfies a check; it is a next state. -/
def steps (s : State) (p : State → Bool) : Bool := match step s with
  | .next t => p t
  | _ => false

/-- What the schedule does next satisfies a check; it is a task's turn. -/
def turn (s : State) (p : State → Bool) : Bool := match s.plan with
  | .task t => p t
  | _ => false

theorem test_step_runs : steps (placedAt 0x72028C3A) (fun t => t.me.arch.pc == (placedAt 0).me.arch.pc + 4) = true ∧
    steps (placedAt 0x00000000) (fun t => t.me.arch.pc == (placedAt 0).me.arch.pc + 4) = true ∧
    steps (placedAt 0xF8000000) (fun t => t.me.phase == .stopped) = true := by decide +kernel

theorem test_hyp_StepRunsDecoded :
    turn (placedAt 0x72028C3A) (fun t => match t.fetch with
      | .ok (i, _) => i == .add 7 5 6 7 2
      | .error _ => false) = true ∧
    turn (placedAt 0xF8000000) (fun t => match t.fetch with
      | .ok _ => false
      | .error _ => true) = true ∧
    [(0x72028C3A, true), (0xF8000000, false)].all (fun (e : Nat × Bool) =>
      let s := placedAt e.1
      let a := s.me.arch
      match s.checkAccess s.myAccess a.codeTag (Cap.ofBits a.code) { x := a.pc.toNat, n := 4, align := 4, perms := [.ex], rd := false, ex := true } with
      | (.ok p, _) => p.isLocal && !s.badAt p.key 4 && (s.me.ship == none) && (match decodeBytes ((List.range 4).map (fun k => s.byte (p.key + k))) with
        | .ok (i, rest) => e.2 && i == .add 7 5 6 7 2 && rest == []
        | .error _ => !e.2)
      | _ => false) = true ∧
    (let s := (placedAt 0x72028C3A).updArch (fun r => { r with codeTag := false })
     s.me.arch.codeTag = false ∧ s.me.ship = none) ∧
    (let s := placedAt 0x72028C3A
     s.agenda = [] ∧ s.beat = false ∧ s.mayIssue s.cur.core s.cur.slot = true ∧ s.issuers ≠ []) ∧
    (let s : State := { placedAt 0x72028C3A with beat := true, due := [.nop 7] }
     s.agenda = [] ∧ s.beat = true ∧ s.due = [.nop 7] ++ []) ∧
    (let s : State := { placedAt 0x72028C3A with agenda := [.event (.nop 7), .issue 0x610 0] }
     s.agenda = .event (.nop 7) :: [.issue 0x610 0] ∧ s.mayIssue 0x610 0 = true) := by decide +kernel

theorem test_hyp_DecodeEncodeAgree :
    ((Instr.add 7 5 6 7 2).wf ∧ encode (.add 7 5 6 7 2) = some 0x72028C3A ∧ (Instr.add 7 5 6 7 2).guard?.isSome = true) ∧
    ((Instr.add 7 63 63 63 7).wf ∧ (Instr.pfxT 15 15 2).wf ∧ encode (.pfxT 15 15 2) = some 0xF01FE400) ∧
    decode 0x72028C3A = .ok (.add 7 5 6 7 2) ∧ decodeBytes (bytesOfWord 0x72028C3A ++ [1]) = .ok (.add 7 5 6 7 2, [1]) := by
  decide +kernel

theorem test_hyp_StepKeepsCanonical :
    (let s := (placedAt 0x72028C3A)
     Memory.wf s.mem ∧ steps s (fun _ => true) = true) := by decide +kernel

/-! ## Further witnesses: full buffers, orders and other plates -/

/-- The task with sixteen stores to one bank of its write buffers on their way. -/
def buffered_ (f : State → State) : State :=
  f { atEnd 128 with ops := (List.range 16).map (fun k => (k, { task := mine, stc := true, elems := [{ key := 0x40000 + 2048 * k, n := 8, va := pad, act := .write 255 0 false }] })) }

theorem test_hyp_full_banks :
    [(0 : Nat), 0x80, 0x180].all (fun d =>
      let els : List Elem := [{ key := pad + d, n := 8, va := pad + d, act := .write 255 0 false }]
      ((atEnd 128).bankFull mine els == false) && ((buffered_ id).bankFull mine els == (d == 0))) = true ∧
    ready (buffered_ id) [.stx 7 4 9 0 3, .stv 7 4 9 0] = true ∧ (buffered_ id).stcFree ∧
    [({ key := pad, n := 4, va := pad, act := .rmw (.addInt 32 0) } : Elem), { key := pad, n := 4, va := pad, act := .feLoad 1 }, { key := pad, n := 4, va := pad, act := .setE 1 }].all
      (fun e => (atEnd 128).bankFull mine [e] == false) = true := by
  refine ⟨by decide +kernel, by decide +kernel, ?_, by decide +kernel⟩
  show (buffered_ id).me.stc < 64
  decide +kernel

theorem test_hyp_orders :
    (let s := placed id
     s.shipsNow (s.envOf (.xatom 7 4 9 3 4)) = true ∧ s.shipsNow (s.envOf (.mtxMma 7 15 2 4)) = true ∧ s.guards = [] ∧ s.me.arch.codeTag = true) ∧
    (let s := handled (fun x => { x with fences := [{ id := 1, acquire := false, release := false, full := true, scope := 4 }] })
     let t : State := { s with ops := [(0, { task := mine, elems := [far_ .read] })] }
     isReady t (.xatom 7 4 9 3 4) = true ∧ t.shipsNow (t.envOf (.xatom 7 4 9 3 4)) = false) ∧
    (let s : State := { placed id with ops := [(0, { task := mine, elems := [far_ .read] })] }
     ready s [.fence 7 10 4, .wcall 7 0] = true ∧ s.releaseReady true = false ∧ s.me.stc = 0) ∧
    (let s := sending { key := pad, n := 4, va := 0 } { task := mine } (ganged { gang := 7, e := 2, eNext := 2 } id)
     ready s [.barArrive 7 4 2, .barFull 7 2] = true ∧ s.releaseReady true = false ∧ s.me.stc = 0 ∧ (s.barrier 7 0).isSome = true) ∧
    (let s := onBig 7 (fun x => { x with mxc := 1 })
     isReady s (.gets 7 4 0x000) = true ∧ s.me.mxc ≠ 0) ∧
    (let s := placed id
     s.guardedFrom little (some mine) pad 128 true false = false) ∧
    (let s : State := { placed (fun r => r.setScalar 2 (2 ^ 48)) with routes := [(1, [0])] }
     ready s [.lctlCancel 7 4 2 3] = true ∧ bits (s.sca 2) 57 48 ≠ s.table.devnum ∧ s.routes.at (bits (s.sca 2) 57 48) [] ≠ [] ∧ s.sca 3 ≤ 1) := by decide +kernel

theorem test_hyp_Prefetch_line :
    (let e : TlbEntry := { part := 0, asid := 1, root := 0, va := 0, lg := 30, pte := 0x9B }
     let s : State := { virtually with tlbL1 := [(little, [e])] }
     let m := s.myAccess
     isReady s (.pref 7 9 0 0) = true ∧ s.tlb1 s.cur.core = [e] ∧ e.covers m.part m.ctx 0x40000 = true ∧ passes s (.pref 7 9 0 0) 9 { x := 0x40000, n := 1, align := 1 } = true ∧
     (s.slice (sliceId 0x40000)).misses.length < 64) := by decide +kernel

theorem test_hyp_Slots_plates :
    (let s : State := { placed (fun r => r.setScalar 2 (2 ^ 16 + 1)) with
       pools := [(1, { queues := [(1, { depth := 1, ctx := 1 })], ctrs := [(1, { depth := 0, ctx := 1 })] })] }
     ready s [.slotFree 7 4 2 1, .slotFree 7 4 2 2] = true ∧ corePlate s.cur.core = 0 ∧ bits (s.sca 2) 17 16 = 1 ∧ bits (s.sca 2) 10 0 = 1 ∧
     ((s.pool 1).queues.look 1).map (·.ctx) = some s.me.ctxid.toNat ∧ ((s.pool 1).ctrs.look 1).map (·.ctx) = some s.me.ctxid.toNat ∧
     s.fullAt (queueKey 1 1 0) = false ∧ (s.setFull (queueKey 1 1 0) true).fullAt (queueKey 1 1 0) = true) ∧
    (let s : State := { placed (fun r => r.setScalar 2 (2 ^ 11 + 1)) with pools := [(0, { queues := [(1, { depth := 1, ctx := 1 })] })] }
     ready s [.slotFree 7 4 2 1] = true ∧ ¬ (s.sca 2 = bits (s.sca 2) 17 16 * 2 ^ 16 + bits (s.sca 2) 10 0)) := by decide +kernel

/-- The big core's task with a copy whose follow-on multiplies buffers; `low` are the low bits of the payload's word 3. -/
def follower (deferred : Bool) (low : Nat) : State :=
  { (burin deferred {}).updMe (fun x => { x with
      arch := ((x.arch.setReg 9 (cap 0x43 (localKey little 0 0) 0x1000 (localKey little 0 0))).setReg 10 (cap 0x43 (localKey big 2 0) 0x80 (localKey big 2 0))).setVec 5
        (BitVec.ofNat 1024 (2 ^ 64 * ((encode (.mtxMma 7 3 9 10)).getD 0).toNat + 2 ^ 96 * low + 2 ^ 128 * (recordIn 1 64 0).toNat + 2 ^ 256 * (recordIn 2 64 0).toNat))
      eregs := [(0, 0x11), (2, 32 * 2 ^ 32 + 32), (7, 4)] }) with boot := .service }

theorem test_hyp_Copies_follow :
    (let s := follower false 0
     let i := Instr.cpyMtx 7 5 9 10
     let k := (s.envOf i).follow (s.issuing i) (s.vec 5) 9 10
     copies s i 5 3 = true ∧ elem (s.vec 5) 32 3 % 2 ^ 9 = 0 ∧ (s.core s.cur.core).big.deferred = false ∧ (s.issuing i).mtxForm k = none ∧
     k.operands.all (fun o => recSpace o.r != 0 && (s.issuing i).bookOk k o) = true ∧
     (match followInstr (s.vec 5) with
      | some j => pfxTOk j (followPfx (s.vec 5))
      | none => false) = true) ∧
    (let s := follower true 0
     let i := Instr.cpyMtx 7 5 9 10
     copies s i 5 3 = true ∧ (s.core s.cur.core).big.deferred = true ∧ ((s.envOf i).follow (s.issuing i) (s.vec 5) 9 10).followAuthority = none) := by decide +kernel

theorem test_hyp_MatrixCommands_forms :
    [(Instr.mtxMma 7 15 2 4, (2 : BitVec 6), (4 : BitVec 6)), (.mtxMmaz 7 0 2 4, 2, 4), (.mtxAccld 7 0 6, 6, 0), (.mtxAccst 7 0 6, 6, 0), (.mtxAccmv 7 0 9 10, 9, 10),
      (.mtxAccfree 7 0, 0, 0)].all (fun e =>
        let s := burin false {}
        let k := (s.envOf e.1).mtxCmd (s.issuing e.1) e.2.1 e.2.2 0
        ((s.issuing e.1).mtxForm k).isNone && k.operands.all (fun o => recSpace o.r != 0 && (s.issuing e.1).bookOk k o) && !k.service) = true ∧
    (let s := burin false {}
     let full : State := { s with cmds := (List.range 32).map (fun k => (k, command (.mtxAccfree 7 0))), mtxq := [(big, List.range 32)] }
     ((full.mtxq.at big []).filter (fun k => (full.cmds.look k).any (fun q => q.admitted && !q.service))).length = 32 ∧ isReady full (.mtxMma 7 15 2 4) = true ∧
     (full.mtxq.at big []).all (fun k => (full.cmds.look k).all (fun q => q.admitted)) = true) ∧
    (let s := onBig 8 id
     isReady s (.mtxAccld 7 0 6) = true ∧ ((s.envOf (.mtxAccld 7 0 6)).mtxCmd (s.issuing (.mtxAccld 7 0 6)) 6 0 0).service = true) := by decide +kernel

/-! ## Further witnesses: where instructions fault or wait -/

/-- Every instruction of a list takes its trap with a cause and TVAL. -/
def trapsAll (s : State) (l : List Instr) (code tval : Nat) : Bool :=
  l.all (fun i => isReady s i && after i s (fun t => t.me.tcause.toNat % 256 == code && t.me.tval.toNat == tval && t.me.arch.pc == 0x4000))

theorem test_hyp_ControlFlow_faults :
    (let under := fun (c : Reg) => placed (fun r => { (r.setScalar 5 2) with code := c.v.setWidth 128, codeTag := c.tag })
     [(({} : Reg), 3), (sealedAs 2 (cap 4 0 0x100000 0), 4), (cap 3 0 0x100000 0, 5), (cap 4 0 0x100 0, 6)].all (fun e =>
       trapsAll (under e.1) [.br 7 0, .call 7 0, .loop 7 5 0] e.2 0x1000) = true ∧
     trapsAll (placed (fun r => { (r.setScalar 5 2) with pc := 0 })) [.br 7 0x1FFFFF, .call 7 0x1FFFFF, .loop 7 5 0x1FF] 6 (2 ^ 64 - 4) = true) := by decide +kernel

theorem test_hyp_Prefetch_cases :
    isReady (through (cap 0x81 (2 ^ 63) 0x1000 (2 ^ 63))) (.pref 7 9 0 0) = true ∧ bits (2 ^ 63) 63 60 = 8 ∧
    (let checked := fun (s : State) => (s.issuing (.pref 7 9 0 0)).checkOne s.myAccess (s.me.arch.reg 9).tag (s.me.arch.reg 9).cap { x := 0x40000, n := 1, align := 1 }
     let s := unwalked.updMe (fun y => { y with arch := y.arch.setReg 9 { v := (cap 0x81 0 0x100000 0x40000).v } })
     let full : State := { unwalked with walks := (List.range 512).map (fun i => (i + 20, { plate := 0, part := 0, asid := 2, root := 0, va := 65536 * i })) }
     isReady s (.pref 7 9 0 0) = true ∧ (match checked s with
       | .error (.trap 3 _ 0) => true
       | _ => false) = true ∧
     [unwalked, full].all (fun u => isReady u (.pref 7 9 0 0) && (match checked u with
       | .error (.walk m _) => m == u.myAccess
       | _ => false)) = true ∧
     ((unwalked.issuing (.pref 7 9 0 0)).walkQueue (corePlate (unwalked.phys unwalked.cur.core))).length < 512 ∧
     512 ≤ ((full.issuing (.pref 7 9 0 0)).walkQueue (corePlate (full.phys full.cur.core))).length ∧
     (match checked virtually with
       | .ok (p, _) => decide ((virtually.slice (sliceId p.key)).misses.length < 64)
       | .error _ => false) = true) := by decide +kernel

/-- The forms that access one place, and a line's enabled lanes, with the element type of 128 bytes. -/
def oneForms : List Instr := [.ldx 7 4 9 0 2, .stx 7 4 9 0 2, .atom32 7 4 9 3 0, .xatom 7 4 9 3 0, .ldfe 7 4 9 0 2, .stfe 7 4 9 0 2, .feopLdf 7 4 9 2, .feopStf 7 4 9 2,
  .feopSete 7 9 2, .feopSetf 7 9 2]
def laneForms : List Instr := [.ldv 7 4 9 0, .stv 7 4 9 0, .ldfe 7 4 9 0 5, .stfe 7 4 9 0 5, .feopLdf 7 4 9 5, .feopStf 7 4 9 5, .feopSete 7 9 5, .feopSetf 7 9 5, .feopQtag 7 4 9]

theorem test_hyp_AccessFaults_forms :
    [(({} : Reg), 3, 0), (sealedAs 2 (cap 3 pad 128 pad), 4, pad), (cap 0 pad 128 pad, 5, pad), (cap 3 pad 128 (pad + 128), 6, pad + 128), (cap 3 pad 256 (pad + 2), 7, pad + 2),
      (cap 3 (2 ^ 63) 128 (2 ^ 63), 8, 2 ^ 63), (cap 3 (2 ^ 57) 128 (2 ^ 57), 8, 2 ^ 57), (cap 3 (pad + 0x20000) 128 (pad + 0x20000), 8, pad + 0x20000)].all (fun e =>
        trapsAll (through e.1) (oneForms ++ laneForms) e.2.1 e.2.2) = true ∧
    trapsAll (through (cap 3 pad 64 pad)) laneForms 6 (pad + 64) = true ∧
    (let s := through (cap 3 pad 64 pad)
     (List.range 32).filter (enabled (s.mask 7) 32) = 0 :: ((List.range 32).drop 1).take 15 ++ 16 :: (List.range 32).drop 17 ∧
     (match ((s.issuing (.ldv 7 4 9 0)).checkAccess s.myAccess true (s.me.arch.reg 9).cap { x := pad, n := 4, lead := 0, align := 128 }).1 with
      | .ok _ => true
      | .error _ => false) = true) ∧
    trapsAll (through (cap 3 pad 16 (pad + 4))) [.atom64 7 4 9 3 7] 7 (pad + 4) = true := by decide +kernel

theorem test_hyp_AccessFaults_elements :
    (let s := fun (c : Reg) => (through c).updMe (fun y => { y with arch := (y.arch.setVec 3 (lanes [0, 0x10, 2])).setPred 1 0x777 })
     let forms : List Instr := [.gath 1 4 9 3 2, .scat 1 4 9 3 2, .scatadd 1 4 9 3 0, .gathp 1 4 9 3 2]
     trapsAll (s (cap 3 pad 0x40 pad)) forms 6 (pad + 0x40) = true ∧ trapsAll (s (cap 3 pad 0x80 (pad + 1))) forms 7 (pad + 1) = true ∧ trapsAll (s {}) forms 3 0 = true ∧
     trapsAll (s (cap 0 pad 0x80 pad)) forms 5 pad = true ∧ trapsAll (s (cap 3 (pad + 0x20000) 0x80 (pad + 0x20000))) forms 8 (pad + 0x20000) = true ∧
     [Instr.gath 1 4 9 3 2, .scat 1 4 9 3 2, .scatadd 1 4 9 3 0, .ldv 7 4 9 0, .ldx 7 4 9 0 2].all (fun i =>
       let u := (unwalked.updMe (fun y => { y with arch := ((y.arch.setVec 3 (lanes [0, 0x10, 2])).setPred 1 0x777).setReg 9 (cap 3 0 0x100000 0x40000) }))
       isReady u i && after i u (fun t => t.me.wait == some .walk && t.walks.length == 1 && t.me.arch.pc == 0x1000)) = true) ∧
    (let s := oneLane.updMe (fun y => { y with notes := [{ part := y.part, asid := y.ctxid.toNat, root := 0, lo := 0x40000, hi := 0x50000, cause := 0x60A }] })
     isReady s (.gathp 1 4 9 3 2) = true ∧ (s.me.noteFor s.me.ctxid.toNat 0x40000).isSome = true ∧
     (let r : Req := { x := 0x40000, n := 4, align := 4 }
      ((s.issuing (.gathp 1 4 9 3 2)).gathpCheck s.myAccess true (s.me.arch.reg 9).cap r) = none) ∧
     after (.gathp 1 4 9 3 2) s (fun t => t.me.tval == 0x40000 && t.me.tcause.toNat % 256 == 10 && t.me.notes.length == 0) = true) := by decide +kernel

/-- A ticket of another device. -/
def foreignTicket : Reg := { v := (Cap.ofBits (ticketCap 1 0 0 1 0)).toBits.setWidth 1024, tag := true }

theorem test_hyp_AccessFaults_tickets :
    trapsAll (through (cap 0x81 pad 16 pad)) [.ldt 7 4 9 0 0] 8 pad = true ∧ trapsAll (through (cap 1 pad 16 pad)) [.ldt 7 4 9 0 0] 5 pad = true ∧
    (let u := unwalked
     isReady u (.ldt 7 4 9 0 0) = true ∧ after (.ldt 7 4 9 0 0) u (fun t => t.me.wait == some .walk) = true) ∧
    (let x := (foreignTicket).cap.addr.toNat
     bits x 59 50 ≠ (through foreignTicket).table.devnum ∧ trapsAll (through foreignTicket) [.rdm 7 4 9, .rdmS 7 4 9 5, .tkrel 7 9] 8 x = true) := by decide +kernel

theorem test_hyp_HandlerTable_faults :
    (let at_ := fun (h : Handler) (v : Reg) (x : Nat) (sr : Word) => (table_ h 0 x sr).updMe (fun y => { y with arch := y.arch.setReg 2 v })
     let num := fun (n : Nat) => ({ v := BitVec.ofNat 1024 n } : Reg)
     trapsAll (at_ { ctx := 1 } (num 0x30) 3 0) [.htabWr 7 2 3] 9 0x30 = true ∧ trapsAll (at_ { ctx := 1 } (num 0x20) 3 0) [.htabWr 7 2 3] 9 0x20 = true ∧
     (let w := ((encode (.htabWr 7 2 3)).getD 0).toNat
      trapsAll (at_ { ctx := 1, held := true, mode := 1 } (num 0) 3 0) [.htabWr 7 2 3] 2 w = true ∧
      trapsAll (at_ { ctx := 1, held := true } (cap 4 0 16 0) 35 0) [.htabWr 7 2 3] 2 w = true ∧
      trapsAll (at_ { ctx := 1, held := true } (cap 0 0 16 0) 67 0) [.htabWr 7 2 3] 2 w = true ∧ trapsAll (at_ { ctx := 7 } (num 0) 3 0) [.htabWr 7 2 3] 2 w = true) ∧
     [35, 67].all (fun x => trapsAll (at_ { ctx := 1 } {} x 0) [.htabWr 7 2 3] 3 0) = true ∧
     trapsAll (at_ { ctx := 1 } (sealedAs 2 (cap 4 0 16 0)) 35 0) [.htabWr 7 2 3] 4 0 = true ∧ trapsAll (at_ { ctx := 1 } (cap 3 0 16 0) 35 0) [.htabWr 7 2 3] 5 0 = true) := by
  decide +kernel

/-- The task holds back a release: an earlier access of it is under way. -/
def pending (s : State) : State := { s with ops := [(0, { task := mine, elems := [far_ .read] })] }

theorem test_hyp_Sends_release :
    (let s := pending ((sender 224 (localKey little 7 0x1F00) []).updArch (fun r => { r with pfx := { s := some 0x140000, first := some 0xFFC } }))
     ready s [.sendPost 7 4 9 6, .sendAck 7 4 9 6, .sendReply 7 4 9 6] = true ∧ s.releaseReady (pfxRelease s.me.arch.pfx) = false ∧ s.me.stc < 64 ∧
     [Instr.sendPost 7 4 9 6, .sendAck 7 4 9 6, .sendReply 7 4 9 6].all (fun i => after i s (fun t => t.me.wait == some .order && t.me.arch.pc == 0x1000)) = true) ∧
    (let s := sender 0 (localKey little 7 0) (List.range 32)
     after (.sendAck 7 4 9 6) s (fun t => t.me.wait == some .full) = true) := by decide +kernel

theorem test_hyp_Barriers_faults :
    (let at_ := fun (n : Nat) => ganged { gang := 7, e := 2, eNext := 2 } (fun x => { x with arch := x.arch.setScalar 2 n })
     let forms : List Instr := [.barFull 7 2, .barArrive 7 4 2, .barWait 7 2 3]
     trapsAll (at_ (2 ^ 32)) forms 9 (2 ^ 32) = true ∧ trapsAll (at_ 1) forms 9 1 = true ∧ (at_ 1).barrier 7 1 = none ∧ trapsAll (placed id) forms 9 0 = true ∧
     (placed id).me.gangId = none ∧
     (let s := pending (at_ 0)
      ready s [.barFull 7 2, .barArrive 7 4 2] = true ∧ s.releaseReady true = false ∧
      [Instr.barFull 7 2, .barArrive 7 4 2].all (fun i => after i s (fun t => t.me.wait == some .order && t.me.arch.pc == 0x1000)) = true)) := by decide +kernel

/-- A launch of the task's context, or of another, and the module as a device of a pod that reaches another. -/
def named (l : Launch) (h : Nat) : State :=
  { placed (fun r => r.setScalar 2 h) with launches := [(9, l)], table := { ({} : ConfigTable) with podsz := 2 }, routes := [(1, [0])] }

theorem test_hyp_Launching_handles :
    (let l : Launch := { lid := 1, lr := { tgt := true, pmask := 1 }, ctx := 1, part := 0, root := .dealing, total := 1 }
     let forms : List Instr := [.lctlQuery 7 4 2, .lctlWait 7 4 2, .lctlCancel 7 4 2 3]
     (named l 0).farLaunch 0 = false ∧ ((named l 0).launchNamed 0).map (·.2.ctx) = some (named l 0).me.ctxid.toNat ∧ ready (named l 0) forms = true ∧
     forms.all (fun i => after i (named l 0) (fun t => t.ops.length == 1 && t.me.arch.pc == 0x1004)) = true ∧
     forms.all (fun i => trapsAll (named { l with ctx := 2 } 0) [i] 2 ((encode i).getD 0).toNat) = true ∧
     (named l (2 ^ 48)).farLaunch (2 ^ 48) = true ∧ ready (named l (2 ^ 48)) forms = true ∧
     after (.lctlWait 7 4 2) (named { l with lr := { tgt := true, pmask := 1, ndev := 1 } } 0) (fun t => t.ops.any (fun e => e.2.acquire && e.2.acqScope == 5)) = true ∧
     after (.lctlWait 7 4 2) (named l 0) (fun t => t.ops.any (fun e => e.2.acquire && e.2.acqScope == 4)) = true) ∧
    (let s := recorded 0 0
     (s.touchLine s.me.part (some s.cur.core) pad false).isSome = true ∧ after (.launch 7 4 9) s (fun t => t.launches.length == 1) = true) ∧
    (let full : State := { recorded 0 0 with slices := [(sliceId 0x40000, { misses := (List.range 64).map (fun i => { row := { line := i, part := 0 } }) })] }
     full.touchLine full.me.part (some full.cur.core) 0x40000 false = none) := by decide +kernel

theorem test_hyp_Copies_rules :
    followRules ((follower false 0).vec 5) = true ∧ followRules ((follower false (2 ^ 21)).vec 5) = false ∧
    (match followInstr ((follower false 0).vec 5) with
     | some (.mtxMma ..) => pfxTOk (.mtxMma 7 3 9 10) (followPfx ((follower false 0).vec 5))
     | _ => false) = true := by decide +kernel

/-- The big core's task whose operand W lies in memory. -/
def unmapped : State :=
  { ({ unwalked with cores := [] } : State) with
    cur := ⟨big, 0⟩, cores := (burin false {}).cores }.updMe (fun x => { x with arch := (x.arch.setVec 2 (recordIn 0 128 0x40000)).setReg 3 (cap 0x41 0 0x100000 0x40000) })

theorem test_hyp_MatrixCommands_walk :
    isReady unmapped (.mtxAccld 7 0 2) = true ∧ (unmapped.core big).big.deferred = false ∧ mtxFails unmapped (.mtxAccld 7 0 2) 2 0 0 = notYet ∧
    after (.mtxAccld 7 0 2) unmapped (fun t => t.me.wait == some .walk && t.walks.length == 1) = true := by decide +kernel

theorem test_hyp_Invalidations_asid :
    (let s := placed (fun r => { r.setScalar 3 65536 with sr := 0x400 })
     trapsAll s [.tlbiRange 7 2 3, .tlbiL1inv 7 2 3, .tlbiL1clean 7 2 3, .tlbiCtx 7 3] 9 65536 = true ∧ s.me.arch.sup = true) := by decide +kernel

theorem test_hyp_MemoryEvents_l1 :
    (let e := { far_ .read with cached := true }
     let o : Op := { task := mine, loads := true, elems := [e] }
     let s := flying o (fun s => { s with dLines := [{ core := little, line := 0x800 }] })
     performs s = true ∧ (s.servedByL1 o e).isSome = true ∧ ((flying o id).servedByL1 o e).isNone = true) ∧
    ((missing.slice (sliceId 0x40000)).misses.all (fun m => m.copies == [])) = true := by decide +kernel

theorem test_hyp_TicketEvents_fetch :
    (let y : Ticket := { seq := 1, ctx := 1, st := .fetching, addr := 0x40000, op := 9, deadline := 10 }
     let full : State := { ticketed y redeeming with slices := [(0, { tickets := [(0, y)] }), (sliceId 0x40000, { misses := (List.range 64).map (fun i => { row := { line := i, part := 0 } }) })] }
     y.read = false ∧ ((ticketed y redeeming).touchLine y.part none y.addr false).isSome = true ∧ (full.touchLine y.part none y.addr false).isNone = true) ∧
    [({ seq := 1, ctx := 1, st := .fetching, addr := 0x40000, op := 9, deadline := 10, read := true } : Ticket),
      { seq := 1, ctx := 1, st := .waiting, redeemer := some 3, addr := 0x40000, op := 9, read := true },
      { seq := 1, ctx := 1, st := .dying, reason := .released, addr := 0x40000, op := 9 }, { seq := 1, ctx := 1, st := .dying, reason := .expired, addr := 0x40000, op := 9 }].all (fun y =>
        let s := ticketed y redeeming
        (s.ticket 0 0 == y) && (y.aged s.gt == y)) = true ∧
    (let s := flying { task := mine, kind := .ticketAlloc 0, ctx := 1, ldc := true, elems := [far_ .read] } (fun s => { s with
       slices := [(0, { tickets := [(0, { seq := 1, ctx := 1, st := .fetching, addr := 0x40000, op := 3, deadline := 10 })] })] })
     (match s.ops.look 3 with
      | some q => q.kind == .ticketAlloc 0 && !s.elemGuarded q q.first
      | none => false) = true ∧ after (.ticketDataArrival 0 0) s (fun t => (t.ticket 0 0).read && (t.ops.look 3).any (·.fetched)) = true) := by decide +kernel

/-- A walk over an address for a joined task, a core's request and a guest. -/
def asked_ (va : Nat) : State :=
  { unwalked with
    walks := [(8, { plate := 0, part := 0, asid := 1, root := 0, va := va, started := true, joined := [(mine, false)], guests := [3], askers := [(little + 1, .task mine)] })],
    guests := [(3, { guest with home := big, place := 2 })] }

theorem test_hyp_TranslationEvents_fills :
    ((asked_ 0x40000).touchWalk 0 1 false 0x40000).1 = true ∧
    (let full : State := { asked_ 0x40000 with slices := [(sliceId 0x10000, { misses := (List.range 64).map (fun i => { row := { line := 2 ^ 40 + i, part := 0 } }) })] }
     (full.touchWalk 0 1 false 0x40000).1 = false) ∧
    (match (asked_ 0x40000).walk 1 false 0x40000, (asked_ (2 ^ 36)).walk 1 false (2 ^ 36) with
     | .ok (pte, 35), .error (10, 35) => pte.testBit 3
     | _, _ => false) = true ∧
    after (.walkCompletion 8) (asked_ 0x40000) (fun t => [little, little + 1, big].all (fun c =>
      (t.tlbL1.at c []).length == 1 && (t.tlbNode.at (nodeOf c) []).length == 1 && (t.tlbPlate.at 0 []).length == 1) && t.walks == [] && t.due.contains (.guestWalkDone 3)) = true ∧
    after (.walkCompletion 8) (asked_ (2 ^ 36)) (fun t => t.tlbL1 == [] && t.walkFaults.length == 2 && (t.slot little 0).notes.length == 1) = true := by decide +kernel

theorem test_hyp_TranslationEvents_shootdown :
    (let s := shooting 0 [] (fun s => { s with
       tlbL1 := [(little, [{ part := 0, asid := 1, root := 0, va := 0, lg := 16, pte := 0x9B }])], tlbNode := [(nodeOf little, [{ part := 0, asid := 1, root := 0, va := 0x20000, lg := 16, pte := 0x9B }])] })
     s.mayStart 3 mine true true = true ∧ after (.tlbiControllerRequest 3 0) s (fun t => (t.tlbL1.at little []).isEmpty && (t.tlbNode.at (nodeOf little) []).length == 1) = true) ∧
    [2, 3].all (fun k => (shooting k [] id).mayStart 3 mine true true) = true ∧
    (shooting 0 [] (fun s => { s with ops := (1, { task := mine, stc := true, elems := [far_ .read] }) :: s.ops })).mayStart 3 mine true true = false ∧
    (let s : State := { walking 0 false with walks := [(7, { plate := 0, part := 0, asid := 1, root := 0, va := 0x10000, refused := true, till := 5 })] }
     s.walkQueue 0 = [] ∧ s.walks.any (fun y => y.2.plate == 0 && y.2.refused) = true) ∧
    (placed id).walkQueue 0 = [] := by decide +kernel

/-- The same guest with an instruction's word, at the head of its queue. -/
def guestOf (i : Instr) (f : Guest → Guest) : State := guesting (f { guest with word := (encode i).getD 0 }) 1

theorem test_hyp_GuestEvents_forms :
    (floatForms.filter shipped ++ [Instr.fred 7 4 2 0 3, .fscan 7 4 2 3, .i2f 7 4 2 0 2 3, .f2i 7 4 2 0 2 3, .fcmp 7 0 7 1 2 3 3, .fcvt 7 4 2 0 3 2, .xatom 7 4 9 3 4]).all (fun i =>
      ((guestOf i id).guests.look 3).any (fun g => (match decode g.word with
        | .ok j => j == i
        | .error _ => false)) && ((guestOf i id).core big).big.guests == [3]) = true ∧
    after (.guestIssue big) (guestOf (.fadd 7 4 2 3 3) (fun g => { g with a := { v := lanes [0, 0x3FF00000] }, b := { v := lanes [0, 0x40000000] } })) (fun t =>
      (t.guests.look 3).any (fun h => h.place == 4 && elem h.res 64 0 == 0x4008000000000000)) = true ∧
    (let f := fun (g : Guest) => { g with a := cap 0x1F pad 16 pad, b := { v := 5 }, d := { v := 9 } }
     let s := (guestOf (.xatom 7 4 9 3 4) f).store pad 8 5
     s.guardedFrom little (some mine) pad 16 true true = false ∧ s.badAt pad 16 = false ∧ (s.accessBank pad).isSome = true ∧
     after (.guestIssue big) s (fun t => t.byte pad == 9 && (t.guests.look 3).any (fun h => h.place == 4 && elem h.res 64 0 == 5)) = true ∧
     after (.guestIssue big) (guestOf (.xatom 7 4 9 3 4) id) (fun t => (t.guests.look 3).any (fun h => h.place == 4 && h.fault == some (3, 0, 0))) = true) ∧
    (let s : State := { unwalked with
       guests := [(3, { guest with word := (encode (.xatom 7 4 9 3 4)).getD 0, a := cap 0x83 0 0x100000 0x40000, place := 1, home := big, ctx := 1 })] }.updBig big (fun b => { b with guests := [3] })
     after (.guestIssue big) s (fun t => (t.guests.look 3).any (fun h => h.place == 2) && t.walks.any (fun w => w.2.guests.contains 3)) = true) := by decide +kernel

theorem test_hyp_GuestEvents_matrix :
    (let s := guestOf (.mtxAccfree 7 0) id
     isMtx (.mtxAccfree 7 0) = true ∧ (s.core big).big.deferred = false ∧ after (.guestIssue big) s (fun t => (t.guests.look 3).any (fun h => h.place == 4) && t.cmds.length == 1) = true ∧
     after (.guestIssue big) (s.updBig big (fun b => { b with deferred := true, guests := [3] })) (fun t => (t.guests.look 3).any (fun h => h.place == 3)) = true) ∧
    after (.guestIssue big) (guestOf (.mtxCodeb 7 8) (fun g => { g with pfxT := codebook.t })) (fun t => (t.guests.look 3).any (fun h => h.place == 4 && h.fault.isSome)) = true ∧
    (let s := guesting { guest with word := (encode (.fcmp 7 0 1 2 2 3 3)).getD 0, res := 5 } 4
     after (.guestResult 3) s (fun t => (t.me.arch.pred 1).toNat % 8 ≠ (t.me.arch.pred 2).toNat % 8 && t.me.ship.isNone) = true) ∧
    after (.guestResult 3) (guesting { guest with word := (encode (.xatom 7 4 9 3 4)).getD 0, res := 5, resTag := true } 4) (fun t => (t.me.arch.reg 4).tag && elem (t.me.arch.reg 4).v 64 0 == 5) = true ∧
    after (.guestResult 3) (guesting { guest with word := (encode (.mtxAccfree 7 0)).getD 0 } 4) (fun t => (t.guests.look 3).any (fun h => h.place == 5)) = true := by decide +kernel

/-- A packet at its source to the first device of a pod, which port 0 reaches, or no port does. -/
def outward (p : Packet) (ports : List Nat) (f : State → State) : State :=
  posting p {} (fun s => f { s with table := { s.table with podsz := 2 }, routes := [(1, ports)] })
def podPacket : Packet := { packet with target := 2 ^ 50 + localKey little 7 0x300, at_ := none }

/-- Through one port there is but one way. -/
theorem portTo_one (s : State) (d a b port : Nat) (h : s.routes.at d [] = [port]) : s.portTo d a b = some port := by
  simp [State.portTo, h, Nat.mod_one]

theorem test_hyp_MessageEvents_ports : (outward podPacket [0] id).portTo podPacket.device podPacket.source podPacket.core = some 0 :=
  portTo_one _ _ _ _ _ (by decide +kernel)
theorem test_hyp_MessageEvents_far :
    (let s := outward podPacket [0] id
     s.packets.look 3 = some podPacket ∧ bits podPacket.target 59 50 ≠ s.table.devnum ∧ podPacket.msg.src / 2 ^ 14 = s.table.devnum ∧ podPacket.via = none ∧
     s.waitsBehind 3 podPacket = false ∧ podPacket.device < s.table.podsz ∧ s.routes.at podPacket.device [] ≠ [] ∧
     ({ s with packets := (1, { podPacket with nacked := true }) :: s.packets } : State).waitsBehind 3 podPacket = true) ∧
    [({ podPacket with via := some 0 } : Packet), { podPacket with via := some 0, kind := 2 }, { podPacket with via := some 0, kind := 3 }].all (fun p =>
      let s := outward p [0] id
      !s.behind 3 p && s.maySend 3 p) = true ∧
    (let s := outward podPacket [] id
     s.portTo podPacket.device podPacket.source podPacket.core = none ∧ s.behind 3 podPacket = false ∧ s.maySend 3 podPacket = true ∧
     after (.messageArrival 3) s (fun t => (t.packets.look 3).any (fun p => (p.answer.map (fun w => bits w 63 48)) == some 2)) = true) ∧
    (let s : State := { (posting { packet with at_ := none } {} id) with packets := [(1, { packet with nacked := true }), (3, { packet with at_ := none })] }
     s.waitsBehind 3 { packet with at_ := none } = true ∧ after (.messageArrival 3) s (fun t => t.packets == s.packets) = true) := by decide +kernel

theorem test_hyp_MessageEvents_launch :
    (let l : Launch := { lid := 1, lr := messages, ctx := 1, part := 0, root := .dealing, total := 1 }
     let p := fun (w : Nat) => { packet with task := none, answer := some w, launchMsg := some 9 }
     let s := fun (w : Nat) (stop : Bool) => posting (p w) {} (fun s => { s with launches := [(9, { l with aborting := stop })] })
     (s (2 ^ 48) false).stopping (some 9) = false ∧ (s (2 ^ 48) true).stopping (some 9) = true ∧ (p 0).source = little ∧ bits (2 ^ 48) 63 48 = 1 ∧ (p 0).queue = none ∧ (p 0).backoff = none ∧
     (packet.msg.src / 2 ^ 14 = (s 0 false).table.devnum) ∧
     after (.answerArrival 3) (s 0 false) (fun t => t.packets == []) = true ∧ after (.answerArrival 3) (s (2 ^ 48) true) (fun t => t.packets == []) = true ∧
     (let w := { p (2 ^ 48) with backoff := some 0 }
      let u := fun (stop : Bool) (n : Nat) => posting w {} (fun s => ({ s with launches := [(9, { l with aborting := stop })] }.updCore little (fun k => { k with retx := List.range n })))
      after (.backoffExpiry 3) (u true 0) (fun t => t.packets == []) = true ∧ after (.backoffExpiry 3) (u false 0) (fun t => (t.packets.look 3).any (·.answer.isNone)) = true ∧
      32 ≤ ((u false 32).core little).retx.length ∧ (u false 32).stopping (some 9) = false)) ∧
    (let p := { packet with task := none, answer := some 0, queue := some 0 }
     after (.answerArrival 3) (posting p {} id) (fun t => (t.packets.look 3).any (·.arrived)) = true) := by decide +kernel

theorem test_hyp_TaskEvents_gated : (waiting {} id).bankLent little 1 = false ∧ after (.bankGated little 1)
      ({ waiting { st := .drowsy } (fun s => s.store (localKey little 9 0x2000) 1 7) with now := 2 ^ 16 * meshLen }) (fun t => t.byte (localKey little 9 0x2000) == 0) = true := by decide +kernel

theorem test_hyp_EngineEvents_worlds :
    (let s := copying { job 0 0 with running := true, world := true } id
     s.foreignWorld { job 0 0 with running := true, world := true } = true ∧ after (.jobCompletion 3) s (fun t => t.jobs == [] && t.me.cpc == 0) = true) ∧
    (let j : Job := { job 1 (2 ^ 32 + 2) with running := true, world := true, stages := [.filling, .free] }
     let s := copying j id
     j.iter % j.card.nstg = 0 ∧ s.foreignWorld j = true ∧ after (.stageFilled 3 0) s (fun t => t.jobs == []) = true) ∧
    (let s := copying { job 0 0 with running := true } id
     let j : Job := { job 0 0 with running := true }
     keyIsView (pad / 16 * 16) = false ∧ (s.putJobBytes j false false pad 8 7).map (fun e => e.1.wbuf.length) = some 1 ∧
     (s.putJobBytes j false false pad 16 (7 + 2 ^ 120)).map (fun e => (e.1.wbuf.length, e.2.byte pad, e.2.byte (pad + 15))) = some (0, 7, 1)) ∧
    (let m : Stream := { streamOf ((cap 0x41 0x40000 32 0x40000).v.setWidth 128) (lanes [2 + 32 * 256, 0, 4, 0, 0, 0, 0, 0, 8, 1, 1, 0]) with id := 3 }
     let s := unwalked.updMe (fun x => { x with ports := [(0, { mode := 2, stream := some m })] })
     let n := s.me.uid
     s.portRoom little (s.me.port 0) = true ∧ s.issuerDone 3 (some ⟨little, 0, n⟩) ((m.strips 0).map (fun e => ((e.2 : Int), ((e.2 + 4 : Nat) : Int)))) [] = true ∧
     (s.stripOf { s.accessOf little 0 with who := .stream little 0 0 } ⟨little, 0, n⟩ m (m.strips 0) 0).1 = none) := by decide +kernel

/-- A command at the head of the inbox, with the context's code 1 and an owned accumulator 0. -/
def begun (m : MtxCmd) (f : Big → Big) : State :=
  commanded m (fun b => f { b with accown := 1, ctab := [(0, { ctx := 1, part := 0, accsave := 0 })] })
/-- The command is decided to run. -/
def runs (s : State) (m : MtxCmd) (p : Bool → State → Bool) : Bool :=
  let u := (s.did (.matrixCommandStart big)).installCtx big 1 0
  s.cmdMayStart 3 m && !s.foreignCmd m && (match u.decideCmd m with
    | .run _ => (match u.fetchTile 3 m with
      | (b, _, v) => p b v)
    | _ => false)

theorem test_hyp_MatrixEvents_effects :
    [{ command (.mtxMma 7 0 2 4) with a := { v := recordIn 1 64 0 }, b := { v := recordIn 2 64 0 } }, { command (.mtxMmaz 7 0 2 4) with a := { v := recordIn 1 64 0 }, b := { v := recordIn 2 64 0 } }].all (fun m =>
      runs (begun m id) m (fun b _ => b) && m.t ≤ 1 && m.operands.length == 2) = true ∧
    [{ command (.mtxAccld 7 0 6) with a := { v := recordIn 3 128 0 } }, { command (.mtxAccst 7 0 6) with a := { v := recordIn 3 128 0 } },
      { command (.mtxAccq 7 0 8) with a := { v := recordIn 3 64 0 } }].all (fun m => runs (begun m id) m (fun b _ => b) && [2, 3, 6].contains m.t && m.operands.length == 1) = true ∧
    (let m := command (.mtxAccmv 7 0 9 10)
     runs (begun m id) m (fun b _ => b) = true ∧ m.t = 4 ∧ (scalarOf m.b.v).testBit 8 = false) ∧
    (let m := { command (.mtxCodeb 7 7) with prec := 5 }
     runs (begun m (fun b => { b with books := [(7, { ctx := 1, part := 0, cb := 9 })] })) m (fun b v => b && ((v.core big).big.books.look 7).isSome) = true ∧ m.t = 5 ∧ m.n = 7) := by decide +kernel

theorem test_hyp_MatrixEvents_moves :
    (let m := { command (.mtxAccld 7 0 6) with a := { v := recordIn 3 128 0 } }
     let s := (begun m id).store (m.key 3 (recAddr m.a)) 4 0x3F800000
     after (.matrixCommandStart big) s (fun t => elem (accRow ((t.core big).big.accs.at 0 0) 0) 32 0 == 0x3F800000) = true) ∧
    (let m := command (.mtxAccmv 7 0 9 10)
     let s := begun m (fun b => { b with accs := [(0, 5)] })
     after (.matrixCommandStart big) s (fun t => (t.cmds.look 3).any (fun k => elem k.row 32 0 == 5)) = true ∧
     after (.matrixCommandStart big) (begun m (fun b => { b with accs := [(0, 5)], poison := [(0, true)] })) (fun t => (t.cmds.look 3).any (fun k => elem k.row 32 31 == 0x7FC00000)) = true) ∧
    (let m := command (.mtxAccfree 7 0)
     let s : State := { begun m id with secureEngines := [(corePlate big, true)] }
     s.foreignCmd m = true ∧ after (.matrixCommandStart big) s (fun t => (t.cmds.look 3).any (fun k => k.refused && k.running)) = true) := by decide +kernel

theorem test_hyp_MatrixEvents_deferred :
    (let m := { command (.mtxAccld 7 0 6) with a := { v := recordIn 0 128 0x40000 }, a1 := cap 0x41 0 0x100000 0x40000, checked := false }
     let s : State := { unwalked with cores := (commanded m id).cores, cmds := [(3, m)], mtxq := [(big, [3])], cur := ⟨big, 0⟩ }
     (match (s.did (.deferredCheckDone 3)).mtxCheck m with
      | (.error (_, code, _), _) => code == notYet
      | _ => false) = true) := by decide +kernel

theorem test_hyp_GangEvents_waits :
    (let s := launching launch (some gang) id
     s.placing 0 = true ∧ launch.nextOf 0 = none ∧ launch.handed < launch.total ∧ launch.aborting = false ∧ launch.draining = false ∧ gang.wants.all (fun w => !(s.core w.1).moving) = true ∧
     after (.gangRangeRequest 3 0) s (fun t => t.launches == s.launches) = true) ∧
    (let l := { launch with ranges := [(0, 0, 1)] }
     let two := fun (s : State) => s.updCore (bigId 0 1 0) (fun k => { k with part := some 0 })
     let s := launching l none two
     let o := s.origins l.lr l.part 0 0
     let q := o.head?.getD (0, 0)
     let u := launching { l with avoid := [(0, q)] } none two
     2 ≤ o.length ∧ l.nextOf 0 = some (0, 1) ∧ s.placing 0 = false ∧ s.withdrawnAt l 0 0 q = false ∧ u.origins l.lr l.part 0 0 = o ∧ o.erase q ≠ []) ∧
    (let s := (launching launch (some gang) id).updCore big (fun k => { k with moving := true })
     (∃ w ∈ gang.wants, (s.core w.1).moving = true) ∧ after (.reservationComplete 4) s (fun t => t.gangs == s.gangs) = true) ∧
    (let g := { gang with dealt := true, toCreate := [0], members := [(big, 1, 0)] }
     let s := launching launch (some g) id
     after (.dealMessage 4 0) (s.updCore big (fun k => { k with moving := true })) (fun t => t.gangs == s.gangs) = true ∧
     after (.dealMessage 4 0) s (fun t => (t.slot big 1).phase != .free) = true) := by decide +kernel

theorem test_hyp_LaunchEvents_done :
    (let l := { launch with lr := messages, root := .cand 0 }
     let done := { messages with doneTag := true, done := (cap 2 pad 64 pad).v.setWidth 128 }
     [l, { l with lr := done }].all (fun l => ((queued l).placeDone 3 l ((queued l).doneSizes l)).1.isSome) = true) ∧
    (let l := { launch with lr := { messages with keys := (cap 1 0x40000 16 0x40000).v.setWidth 128 } }
     let s : State := { queued l with ctxs := unwalked.ctxs, mem := unwalked.mem, tags := unwalked.tags }
     (match s.reachCap (s.dispatcher 3 l) true (Cap.ofBits l.lr.keys) false (Cap.ofBits l.lr.keys).addr.toNat 8 with
      | (.error c, _) => c == notYet
      | _ => false) = true) ∧
    (let l := { launch with lr := messages, draining := true }
     let s := queued l
     after (.cancelDecision 3 0) s (fun t => t.launches == s.launches) = true ∧ after (.cancelDecision 3 1) s (fun t => (t.launches.look 3).any (·.aborting)) = true) ∧
    (let l := { launch with aborting := true, draining := true }
     let s := (launching l none (fun s => s.updMe (fun x => { x with launch := some 3 })))
     s.cmds = [] ∧ after (.cancel 3 big) s (fun t => (t.slot big 0).phase == .free) = true) ∧
    (let l := { launch with podMap := true }
     let s : State := { queued l with ops := [(5, { task := mine, kind := .lctl 1 0 0, ret := .scalar 4 })] }
     (s.launchNamed 0).map (·.1) = some 3 ∧ l.podMap = true) ∧
    (let s : State := { named launch (2 ^ 48) with ops := [(5, { task := mine, kind := .lctl 1 (2 ^ 48) 0, ret := .scalar 4 })] }
     s.farLaunch (2 ^ 48) = true ∧ s.alive mine = true ∧
     ({ s with routes := [] } : State).farLaunch (2 ^ 48) = false ∧
     after (.lctlAnswer 5) { s with routes := [] } (fun t => elem (t.me.arch.reg 4).v 64 0 == 0xFFFF * 2 ^ 48) = true) := by decide +kernel

theorem test_hyp_PodEvents_sums :
    (let l := { podLaunch with root := .none }
     let s := podding (.sweep 0 7 0 2 2 true) (some l)
     (s.cores.map (fun e => e.2.sent.at (256 + 4) 0)).sum = 0 ∧ ((s.updCore little (fun k => { k with sent := [(256 + 4, 1)] })).cores.map (fun e => e.2.sent.at (256 + 4) 0)).sum = 1 ∧
     after (.podSweepReport 3) s (fun t => (t.launches.look 4).any (fun x => x.root == .cand 2)) = true) ∧
    (let s := podding (.counts 0 7 0 { dealt := 1, tasks := 1, finished := 1, killed := 0, fcount := 0, fgt := 0, fcause := 0 }) (some { podLaunch with root := .cand 2, podEnded := true })
     after (.podEndReport 3) s (fun t => t.podIn == []) = true) := by decide +kernel

theorem test_hyp_PowerEvents_waits :
    after (.thermalSample little 116) (placed id) (fun t => t.boot == .tripped && t.therm && t.mem == []) = true ∧
    (let o : Op := { task := mine, stc := true, elems := [{ near_ (.feLoad 1) with stage := .parked }], tpc := 0x1000 }
     let s : State := { placed id with lpct := [(little, { st := 0, phys := little, target := some (little + 1) })], ops := [(3, o)], parked := [(pad / 2 ^ 32, 3, 0)] }
     o.isParked = true ∧ s.alive mine = true ∧ (s.slot little 0).ship = none ∧ (s.core little).slots = [(0, s.slot little 0)] ∧ (s.slot little 0).phase ≠ .free ∧
     after (.migrationDrained little) s (fun t => t.ops == [] && t.parked == [] && (t.slot little 0).arch.pc == 0x1000) = true) := by decide +kernel

theorem test_hyp_PartitionEvents_halts :
    (let o : Op := { task := mine, ldc := true, elems := [{ near_ (.feLoad 1) with stage := .parked }], tpc := 0x1000 }
     let s : State := { halted_ .halting none with ops := [(3, o)], parked := [(pad / 2 ^ 32, 3, 0)] }
     (s.withdrawAll (s.tasksOf 0)).quiet 0 = true ∧ s.tasksOf 0 = [mine] ∧
     after (.haltComplete 0) s (fun t => (t.parts.at 0 {}).halt == .halted && t.ops == [] && (t.slot little 0).arch.pc == 0x1000) = true ∧
     (({ halted_ .halting none with ops := [(3, { task := mine, ldc := true })] } : State).withdrawAll [mine]).quiet 0 = false) ∧
    (let s := onBig 0 id
     let k := s.core big
     let w := 2 ^ 17 + 12 * 2 ^ 19
     s.boot ≠ .recovery ∧ (k.big.deferred = false) ∧ ((s.setControl (.bctl big) w).core big).big.deferred = true ∧
     ({ s with mtxq := [(big, [3])] } : State).setControl (.bctl big) w = { s with mtxq := [(big, [3])] }) ∧
    (let s : State := { placed id with boot := .recovery }
     after (.fwallWrite little 5) s (fun t => t == s) = true ∧ after (.bworldWrite .port true) s (fun t => t == s) = true) := by decide +kernel

/-- The queue's descriptor and ring in memory behind a page table that no TLB entry maps yet. -/
def farQueue (q : CmdQueue) : State := { unwalked with queues := [(0, q)] }
def farDesc : CmdQueue := { queue 0 none with desc := 0x40000, qbase := 0x41000, cbase := 0x42000 }

theorem test_hyp_QueueEvents_walks :
    (let s := farQueue farDesc
     (match s.cpLoad 1 0x40000 8 with
      | .error c => c == notYet
      | _ => false) = true ∧
     (match s.cpStore 1 0x40000 [1] with
      | .error c => c == notYet
      | _ => false) = true ∧
     after (.tailRead 0) s (fun t => t.walks.length == 1) = true) ∧
    (let q := { farDesc with tail := 1 }
     (match ((farQueue q).did (.packetStart 0)).entries q 1 0 with
      | .error (c, _) => c == notYet
      | .ok _ => false) = true) ∧
    (let q := { farDesc with state := 2 }
     (match (farQueue q).cpLoad 1 (q.desc + 12) 1 with
      | .error c => c == notYet
      | _ => false) = true) ∧
    (let r := fun (l : List Nat) => step1 l
     let s := fun (l : List Nat) => farQueue { farDesc with tail := 2, run := some (r l) }
     [[1 + 8 * 2 ^ 16, 0x40000], [2, 0x40000, 5], [2 + 256, 0x40000, 5], [3, 0x40000, 5]].all (fun l => !storesAt (s l) 0x40000 [1] && !loadsAt (s l) 0x40000 8) = true ∧
     after (.cqSignal 0) (s [2, 0x40000, 5]) (fun t => t.walks.length == 1 && (t.queues.look 0).any (fun q => q.run.any (fun x => x.result.isNone))) = true ∧
     after (.cqSignal 0) (commandQueue (queue 2 (some (r [2, 2 ^ 63, 5]))) id) (fun t => (t.queues.look 0).any (fun q => q.run.any (fun x => x.ended.any (fun e => e.2.1 == 4)))) = true) := by decide +kernel

theorem test_hyp_QueueEvents_ends :
    (let q := { queue 0 none with state := 0 }
     let s := commandQueue q id
     ((s.did (.tailRead 0)).endQueue 0 q).isSome = true ∧ q.run = none ∧ q.ending = none ∧ after (.tailRead 0) s (fun t => t.queues == []) = true) ∧
    (let q := { farDesc with state := 0 }
     ((farQueue q).did (.tailRead 0)).endQueue 0 q = none ∧ after (.tailRead 0) (farQueue q) (fun t => t.queues.length == 1) = true) ∧
    (let r := { step1 [] with words := (2 ^ 9) :: (step1 []).words.drop 1, ended := some (0, 0, 0) }
     let q := { queue 2 (some r) with session := 1 }
     let s : State := { commandQueue q id with sessions := [(1, { ctx := 1, peer := { addr := 9 } })] }
     packetCompl r.words = true ∧ packetSerial r.words = false ∧
     after (.packetCompletion 0) s (fun t => t.sentFrames.length == 1 && (t.queues.look 0).any (fun q => q.run.isNone)) = true) := by decide +kernel

theorem test_hyp_QueueEvents_amsg :
    (let k := { packet with task := none, queue := some 0 }
     let r := fun (begun : Bool) => { step1 [6 + 4 * 2 ^ 16, 7] with waits := some 3, begun := begun }
     let l := { launch with root := .none, seq := 7, lr := messages, held := true }
     let s := fun (stop : Bool) (p : Packet) => commandQueue { queue 2 (some (r false)) with amh := 7, amOpen := true } (fun s => { s with launches := [(9, { l with aborting := stop })], packets := [(3, p)] })
     ((s false k).openLaunch { queue 2 none with amh := 7, amOpen := true }).map (·.1) = some 9 ∧
     (let q := { queue 2 (some { r true with since := 0 }) with amh := 7, amOpen := true }
      let u : State := { s false { k with arrived := true } with queues := [(0, q)], now := 2 ^ 40 }
      after (.stepBoundExpiry 0) u (fun t => t.packets == []) = true ∧
      after (.stepBoundExpiry 0) { u with packets := [(3, k)] } (fun t => (t.packets.look 3).any (fun p => p.queue.isNone)) = true) ∧
     after (.cqAmsg 0) (s false { k with arrived := true, answer := some 0 }) (fun t => t.packets == [] && (t.queues.look 0).any (fun q => q.run.any (fun x => x.ended.any (fun e => e.2.1 == 0)))) = true ∧
     after (.cqAmsg 0) (s false { k with arrived := true, answer := some (2 ^ 48) }) (fun t => (t.packets.look 3).any (fun p => p.backoff.isSome && !p.arrived)) = true ∧
     after (.cqAmsg 0) (s true { k with arrived := true, answer := some (2 ^ 48) }) (fun t => t.packets == [] && (t.queues.look 0).any (fun q => q.run.any (fun x => x.ended.any (fun e => e.2.1 == 6)))) = true ∧
     after (.cqAmsg 0) (s false { k with answer := some 0 }) (fun t => t.packets.length == 1) = true ∧
     (let q := { queue 2 (some (step1 [6 + 4 * 2 ^ 16, 7])) with amh := 7, amOpen := true }
      let u := fun (stop : Bool) => commandQueue q (fun s => { s with launches := [(9, { l with aborting := stop })] })
      after (.cqAmsg 0) (u true) (fun t => (t.queues.look 0).any (fun q => q.run.any (fun x => x.ended.any (fun e => e.2.1 == 6)))) = true ∧
      after (.cqAmsg 0) (u false) (fun t => t.packets.length == 1) = true)) ∧
    (let q := fun (am : Bool) (l : List Nat) => { queue 2 (some (step1 l)) with amh := 7, amOpen := am }
     after (.cqAmsg 0) (commandQueue (q false [6, 7]) id) (fun t => (t.queues.look 0).any (fun q => q.run.any (fun x => x.ended.any (fun e => e.2.1 == 3)))) = true ∧
     after (.cqOpenam 0) (commandQueue (q true [8, pad]) id) (fun t => (t.queues.look 0).any (fun q => q.run.any (fun x => x.ended.any (fun e => e.2.1 == 3)))) = true ∧
     after (.cqCloseam 0) (commandQueue (q false [8 + 256]) id) (fun t => (t.queues.look 0).any (fun q => q.run.any (fun x => x.ended.any (fun e => e.2.1 == 0)))) = true ∧
     after (.cqCloseam 0) (commandQueue (q true [8 + 256]) id) (fun t => (t.queues.look 0).any (fun q => !q.amOpen && q.run.any (fun x => x.ended.any (fun e => e.2.1 == 0)))) = true) := by decide +kernel

theorem test_hyp_HealthAndBringUp_events :
    after (.errorEvent true 0 0x40000 0) serving (fun t => t.badAt 0x40000 32) = true ∧
    (let i : Image := { cores := [(little, {})], mem := [(pad, 1)] }
     let s : State := { halted_ .swapped (some i) with parts := [(0, { halt := .swapped, image := some i })] }
     (s.parts.look 0).any (fun x => !x.inHbm && x.image.isSome) = true ∧
     after (.errorEvent true 7 (little * 2 ^ 34) 0) s (fun t => ((t.parts.look 0).bind (·.image)).any (fun k => k.bad.length == 1)) = true) ∧
    ((outward { podPacket with via := some 0 } [0] id).packets.look 3).any (fun p => p.via == some 0 && p.answer.isNone) = true ∧
    after (.firmwareHashCheck true) { serving with now := 2 ^ 30 * gtUnits } (fun t => t.hashAt == 2 ^ 30) = true ∧ ¬ (serving.hashAt + 2 ^ 30 ≤ serving.gt) ∧
    after .supplyFault { serving with flash := { serving.flash with written := 8 } } (fun t => t.boot == .off && !t.pwrgd && t.flash.torn) = true ∧
    after .supplyFault serving (fun t => !t.flash.torn) = true ∧
    after (.roleRestart 0 0) serving (fun t => t.restarts.length == 0) = true ∧
    after (.roleRestart (16 * coreId 0 0 0 0) (16 * coreId 0 0 0 0 + 3)) serving (fun t => t.restarts.length == 1) = true := by decide +kernel

/-- A MGMT frame on session 1, which the host of session 1 sends. -/
def offSession (op : Nat) : Frame := frame kMgmt 1 0 0 9 (leBytes 4 op ++ leBytes 4 1)

theorem test_hyp_PortEvents_frames :
    hosted.portWork = [] ∧ hosted.signing = [] ∧
    (let f := frame kIdent 1 0 0 9 []
     hosted.portTakes f false = true ∧
     [({ f with port := some 1 } : Frame), { f with dst := some 1 }, { f with checksum := 0 }, { f with extended := true }, { f with ipv6 := false }, { f with proto := 58 }].all (fun g => !hosted.portTakes g false) = true) ∧
    accepts hosted (offSession 1) (fun h _ => h.kind == kMgmt && h.session != 0 && h.op == 0 + 1) = true ∧
    after (.mgmtPartcores (offSession 3)) hosted (fun t => t.parts == hosted.parts && t.sentFrames.length == 1) = true ∧
    (let q : Peer := { addr := 9, unacked := [{ psn := 0, data := [1] }], since := 0 }
     let s : State := { hosted with sessions := [(1, { ctx := 1, peer := q })] }
     s.gt < q.since + 200000 ∧ after (.deviceResendTimeout 1 9) s (fun t => t.sentFrames == []) = true ∧
     after (.deviceResendTimeout 1 9) { s with now := 200000 * gtUnits } (fun t => t.sentFrames.length == 1) = true) ∧
    (let f := request 3 []
     let late := frame kMgmt 0 7 0 7 (leBytes 4 3 ++ leBytes 4 1)
     let s := fun (f : Frame) => { hosted with waiting := [f], opening := [f] }
     (s f).mgmtBusy 7 = true ∧ after (.mgmtPartcores f) (s f) (fun t => t.sentFrames == []) = true ∧
     after (.mgmtPartcores late) (s late) (fun t => t.sentFrames.length == 1) = true) := by decide +kernel

theorem test_hyp_PortEvents_attest :
    (let f := frame kAttest 1 0 0 9 (List.replicate 40 0)
     after (.attest f) hosted (fun t => t.flash.leaf == hosted.flash.leaf + 1 && t.signing.length == 1 && t.sentFrames == []) = true ∧
     (match parsePacket f.data with
      | some h => leAt h.body 32 1 == 0 && leAt h.body 34 6 == 0
      | none => false) = true) ∧
    (let g : Signing := { frame := frame kAttest 1 0 0 9 [], session := 1, body := [1], leaf := 0 }
     ({ hosted with signing := [g] } : State).signing.find? (fun x => x.frame == g.frame) = some g) ∧
    accepts hosted (frame kAttest 1 0 0 9 (List.replicate 32 0 ++ [1, 15] ++ List.replicate 6 0)) (fun h t => leAt h.body 32 1 == 1 && !t.partExists (leAt h.body 33 1)) = true ∧
    accepts { hosted with boot := .recovery } (frame kRecover 0 0 0 1 (leBytes 8 0 ++ leBytes 4 1 ++ leBytes 4 1 ++ [7])) (fun h t =>
      leAt h.body 12 1 == 1 && leAt h.body 0 8 == t.flash.received) = true := by decide +kernel

/-- The host's window is the memory that no TLB entry maps yet. -/
def farHosted : State :=
  { unwalked with
    table := { ({} : ConfigTable) with mgmt := [7] }, hostCtx := 2, queues := [(0, farDesc)],
    sessions := [(1, { ctx := 1, peer := { addr := 9 }, windows := [(0, ⟨0, 0x100000, true, true⟩)] })] }

theorem test_hyp_PortEvents_walks :
    (let f := frame kRead 1 0 0 9 (leBytes 8 0x40000 ++ leBytes 8 8)
     accepts farHosted f (fun _ t => t.portWorldOk 1 && (match t.reachRun (t.portAccess 1) false true 0x40000 8 with
       | (.error c, _) => c == notYet
       | _ => false)) = true ∧
     after (.lodjaupRead f) farHosted (fun t => t.portWork == [(f, 0)] && t.walks.length == 1) = true) ∧
    (let f := frame kWrite 1 0 0 9 (leBytes 8 0x40000 ++ leBytes 8 1 ++ leBytes 8 5)
     after (.lodjaupWrite f) farHosted (fun t => t.portWork == [(f, 0)]) = true ∧
     (let s : State := { virtually with tlbL1 := [((virtually.portAccess 1).core, virtually.tlb1 little)], table := farHosted.table, sessions := farHosted.sessions, portWork := [(f, 0)] }
      after (.lodjaupWrite f) s (fun t => t.portWork == [] && t.readMem 0x40000 1 == 5) = true)) ∧
    (let z := farDesc
     (farHosted.did (.tailRead 0)).endQueue 0 z = none) ∧
    (match farHosted.cpStore 1 0x40000 (farDesc.bytes ++ leBytes 8 0) with
     | .error c => c == notYet
     | .ok _ => false) = true := by decide +kernel

theorem test_hyp_StepRunsDecoded_walk :
    (let s := unwalked.updArch (fun r => { r with code := (cap 4 0 0x100000 0).v.setWidth 128 })
     (match (s.forget s.myAccess.who).checkAccess s.myAccess true (Cap.ofBits s.me.arch.code) { x := 0x1000, n := 4, align := 4, perms := [.ex], rd := false, ex := true } with
      | (.error c, _) => c == notYet
      | _ => false) = true ∧
     (match s.fetch with
      | .error (.next t) => t.me.wait == some .walk && t.walks.length == 1
      | _ => false) = true) ∧
    (let s := (placed id).updArch (fun r => { r with codeTag := false })
     (match s.fetch with
      | .error (.next t) => t.me.tcause.toNat % 256 == 3 && t.me.tval == 0x1000
      | _ => false) = true) := by decide +kernel

/-- The published answer of SHAKE256 on the empty message, its first 256 bits. -/
theorem test_shake256 : shake256 [] = beBytes 32 0x46b9dd2b0ba88d13233b3feb743eeb243fcd52ea62b81b82b50c27646ed5762f := by decide +kernel

end Sys2Proof.Tests
end

section
/-!
The core's own scratchpad, R185, R243: with nothing of the task under way a load or store of the task's own scratchpad is
performed in the step that issues it, and what that leaves in storage.
-/

namespace Sys2Proof.Machine

/-! ## Keys of a scratchpad, R185 -/

theorem keyIsLocal_localKey (c sp off : Nat) : keyIsLocal (localKey c sp off) = true := by
  simp only [keyIsLocal, localKey, ge_iff_le, decide_eq_true_eq]
  omega

theorem keySpace_localKey (c : Nat) {sp off : Nat} (hs : sp < 16) (ho : off < 2 ^ 32) : keySpace (localKey c sp off) = sp := by
  simp only [keySpace, bits, localKey, Nat.reduceAdd, Nat.reduceSub, Nat.reducePow] at *
  omega

/-- A place of n bytes in the scratchpad of some core. -/
structure InScratchpad (p : Place) (n : Nat) : Prop where
  key : ∃ c off, p.key = localKey c 0 off ∧ off + n ≤ 0x20000
  tags : p.tags = true

section
variable {p : Place} {n : Nat}

theorem InScratchpad.space (h : InScratchpad p n) : keyIsLocal p.key = true ∧ keySpace p.key = 0 := by
  obtain ⟨c, off, hk, ho⟩ := h.key
  rw [hk]
  exact ⟨keyIsLocal_localKey c 0 off, keySpace_localKey c (by decide) (by omega)⟩

/-- No byte of a scratchpad shows registers. -/
theorem InScratchpad.notView (h : InScratchpad p n) {i : Nat} (hi : i < n) : keyIsView (p.key + i) = false := by
  obtain ⟨c, off, hk, ho⟩ := h.key
  have hki : p.key + i = localKey c 0 (off + i) := by rw [hk]; unfold localKey; omega
  have hsp : keySpace (p.key + i) = 0 := by rw [hki]; exact keySpace_localKey c (by decide) (by omega)
  simp [keyIsView, hsp]

theorem InScratchpad.bank (h : InScratchpad p n) : bankOfKey p.key = none := by
  obtain ⟨hl, hs⟩ := h.space
  simp [bankOfKey, hl, hs]

end

/-- Where the checks of an access to space 0 lead: into the scratchpad that the address names, R184, R185, with no other state. -/
theorem State.placeOf_scratchpad {s t : State} {a : Access} {r : Req} {p : Place} (h : s.placeOf a r = (.ok p, t))
    (hx : bits r.x 63 60 = 0xE) (hs : bits r.x 35 32 = 0) : InScratchpad p r.n ∧ t = s := by
  unfold State.placeOf at h
  by_cases hal : (r.x + 2 ^ 64 - r.lead) % r.align ≠ 0
  · simp only [if_pos hal] at h
    cases h
  · simp only [if_neg hal, if_pos hx] at h
    cases hl : s.localPlace a r with
    | error c => rw [hl] at h; cases h
    | ok k =>
      rw [hl] at h
      obtain ⟨hp, rfl⟩ := Prod.mk.inj h
      obtain rfl := Except.ok.inj hp
      unfold State.localPlace at hl
      simp only [hs] at hl
      split at hl
      · cases hl
      · split at hl
        · cases hl
        · split at hl
          · cases hl
          · split at hl
            · rename_i hok
              obtain rfl := Except.ok.inj hl
              simp only [Bool.and_eq_true, decide_eq_true_eq] at hok
              have hoff : bits r.x 31 0 + r.n ≤ 0x20000 := hok.1.1.2
              refine ⟨⟨⟨_, _, rfl, hoff⟩, ?_⟩, rfl⟩
              by_cases h32 : bits r.x 31 0 < 2 ^ 32
              · simp [keyKeepsTags, keySpace_localKey _ (by decide : 0 < 16) h32]
              · omega
            · cases hl

theorem State.checkOne_scratchpad {s t : State} {a : Access} {tag : Bool} {c : Cap} {r : Req} {p : Place}
    (h : s.checkOne a tag c r = .ok (p, t)) (hx : bits r.x 63 60 = 0xE) (hs : bits r.x 35 32 = 0) :
    InScratchpad p r.n ∧ t = s := by
  unfold State.checkOne State.checkAccess at h
  cases hc : capCheck tag c r.perms r.x r.n with
  | some code => rw [hc] at h; cases h
  | none =>
    rw [hc] at h
    have hplace := fun q u => State.placeOf_scratchpad (s := s) (t := u) (a := a) (r := r) (p := q)
    generalize s.placeOf a r = y at h hplace
    obtain ⟨x, u⟩ := y
    cases x with
    | error _ => cases h
    | ok q =>
      cases hw : worldCheck a (c.has .wrld) q with
      | some code => simp only [hw] at h; cases h
      | none =>
        simp only [hw] at h
        obtain ⟨rfl, rfl⟩ := Prod.mk.inj (Except.ok.inj h)
        exact hplace q u rfl hx hs

/-! ## What a write to a scratchpad leaves -/

theorem bit_eq_testBit (x k : Nat) : bit x k = x.testBit k := by
  rw [Nat.testBit_eq_decide_div_mod_eq]; rfl

/-- Byte k of the low n bytes of a register, R4. -/
theorem byteOf_low (v : Vec) {n k : Nat} (hk : k < n) : byteOf (v.toNat % 2 ^ (8 * n)) k = v.extractLsb' (8 * k) 8 := by
  refine BitVec.eq_of_toNat_eq (Nat.eq_of_testBit_eq (fun i => ?_))
  rw [byteOf, BitVec.toNat_ofNat, BitVec.extractLsb'_toNat, Nat.testBit_mod_two_pow, Nat.testBit_mod_two_pow,
    Nat.testBit_div_two_pow, Nat.testBit_mod_two_pow, Nat.testBit_shiftRight, Nat.add_comm]
  by_cases hi : i < 8
  · simp [show 8 * k + i < 8 * n by omega]
  · simp [hi]

/-- The tag of a granule after some granules from it on were cleared. -/
theorem State.tagAt_clearTags (k : Nat) (q : Nat → Bool) (l : List Nat) (s : State) :
    (l.foldl (fun t i => if q i then t.setTag ((k / 16 + i) * 16) false else t) s).tagAt k =
      (!(l.contains 0 && q 0) && s.tagAt k) := by
  induction l generalizing s with
  | nil => simp
  | cons i l ih =>
    have hset : (s.setTag ((k / 16 + i) * 16) false).tagAt k = (decide (i ≠ 0) && s.tagAt k) := by
      have hg : (k / 16 + i) * 16 / 16 = k / 16 + i := Nat.mul_div_cancel _ (by decide)
      unfold State.tagAt State.setTag
      rw [hg, Sp.at_put]
      by_cases hi : i = 0 <;> simp [hi]
    rw [List.foldl_cons, ih, apply_ite (fun t : State => t.tagAt k), hset]
    by_cases hi : i = 0
    · subst hi
      cases q 0 <;> simp
    · simp [hi, Ne.symm hi]

/-- A write of a byte clears the tag of its granule, R215. -/
theorem State.tagAt_writeMem (s : State) {k n mask d : Nat} (hv : keyIsView k = false) (hn : 0 < n) (h0 : bit mask 0 = true) :
    (s.writeMem k n mask d).tagAt k = false := by
  have hm : mask ≠ 0 := by rintro rfl; simp [bit] at h0
  have hrange : (List.range ((k + n + 15) / 16 - k / 16)).contains 0 = true := by
    simp only [List.contains_eq_mem, List.mem_range, decide_eq_true_eq]; omega
  have hany : (List.range n).any (fun j => bit mask j && (k + j) / 16 == k / 16 + 0) = true :=
    List.any_eq_true.2 ⟨0, List.mem_range.2 hn, by simp [h0]⟩
  unfold State.writeMem
  rw [if_neg hm, keyIsView_eight hv, if_neg Bool.false_ne_true]
  refine (State.tagAt_clearTags k (fun i => (List.range n).any (fun j => bit mask j && (k + j) / 16 == k / 16 + i)) _ _).trans ?_
  rw [hrange, hany]
  rfl

theorem State.tagAt_setTag (s : State) (k : Nat) (b : Bool) : (s.setTag k b).tagAt k = b := Sp.at_put_self _ _ _ _

theorem State.due_putByte (s : State) (k : Nat) (b : Byte) : (s.putByte k b).due = s.due := by
  unfold State.putByte State.setViewByte
  split <;> rfl

/-- A write to storage puts no event on its way. -/
theorem State.due_writeMem (s : State) {k : Nat} (n mask d : Nat) (hv : keyIsView k = false) : (s.writeMem k n mask d).due = s.due := by
  unfold State.writeMem
  split
  · rfl
  · rw [keyIsView_eight hv, if_neg Bool.false_ne_true]
    refine (foldl_same (g := State.due) (fun t i => by dsimp only; split <;> rfl) _ _).trans ?_
    unfold State.putBytes
    refine (foldl_same (g := State.due) (fun t i => by split; exact State.due_putByte _ _ _; rfl) _ _).trans ?_
    unfold State.heal
    refine (foldl_same (g := State.due) (fun t i => by dsimp only; (repeat' split) <;> rfl) _ _).trans ?_
    unfold State.raiseMark State.keepStale
    (repeat' split) <;> rfl

theorem State.readMem_congr {s t : State} (h : s.mem = t.mem) {k n : Nat} (hv : ∀ i, i < n → keyIsView (k + i) = false) :
    s.readMem k n = t.readMem k n := by
  unfold State.readMem
  congr 1
  exact List.map_congr_left (fun i hi => State.byte_congr h (hv i (List.mem_range.1 hi)))

/-! ## The only operation under way -/

/-- The event that follows an operation whose elements all have their results, R212. -/
def Op.completion (o : Op) (id : Nat) : List Instr :=
  if o.ldc then [.loadCompletion id] else if o.stc then [.storeAcknowledgement id] else []

/-- An operation whose one element is performed has its result, and its completion is under way. -/
theorem State.performAt_only {s : State} {id : Nat} {o : Op} (ho : s.ops.look id = some o) (he : o.elems.length = 1)
    (x : Elem) (fwd : Option Elem) :
    (s.performAt id 0 x fwd .done).ops.look id = some { o with elems := [{ (s.performElem x fwd).1 with stage := .done }] } ∧
    (s.performAt id 0 x fwd .done).due = (s.performElem x fwd).2.due ++ o.completion id := by
  obtain ⟨y, hy⟩ := List.length_eq_one_iff.1 he
  have hops := State.ops_of_tables (State.tables_performElem s x fwd)
  obtain ⟨b, hb⟩ := (s.performElem x fwd).2.healBy_ex id x
  simp only [State.performAt, hb, State.setElemOf, hops, ho, State.finishOp, Sp.look_set_self, hy, List.set_cons_zero,
    List.all_cons, List.all_nil, Bool.and_true, beq_self_eq_true, if_true, Op.completion, State.push]
  split
  · simp
  · split <;> simp

theorem State.performAt_storage (s : State) (id j : Nat) (e : Elem) (fwd : Option Elem) (g : Stage) :
    (s.performAt id j e fwd g).mem = (s.performElem e fwd).2.mem ∧ (s.performAt id j e fwd g).tags = (s.performElem e fwd).2.tags := by
  obtain ⟨o, d, b, h⟩ := s.performAt_ex id j e fwd g
  rw [h]
  exact ⟨rfl, rfl⟩

/-- Nothing of a task is under way but one operation of one element, and no guard stands. -/
structure Alone (id : Nat) (o : Op) (e : Elem) (s : State) : Prop where
  ops : s.ops = [(id, o)]
  elems : o.elems = [e]
  packets : s.packets = []
  jobs : s.jobs = []
  guards : s.guards = []
  fences : (s.slot o.task.core o.task.slot).fences = []

section
variable {id : Nat} {o : Op} {e : Elem} {s : State}

theorem Alone.earlier (h : Alone id o e s) (t : TaskRef) : s.earlier id t = [] := by
  simp [State.earlier, h.ops]

theorem Alone.pendingWrites (h : Alone id o e s) : s.pendingWrites id o 0 e = [] := by
  simp [State.pendingWrites, h.earlier]

/-- No kept order holds the element back, R243, R245, R246, R248. -/
theorem Alone.mayPerform (h : Alone id o e s) : s.mayPerform id o 0 e = true := by
  simp [State.mayPerform, State.mayPerformAt, State.mayStartAt, State.acquired, State.sendAcquires, State.fencesAllowAt,
    h.earlier, h.pendingWrites, h.packets, h.jobs, h.fences]

theorem Alone.unguarded (h : Alone id o e s) : s.elemGuarded o e = false := by
  simp [State.elemGuarded, State.guardedFrom, h.guards]

theorem Alone.forwards (h : Alone id o e s) : s.forwards id o 0 e = none := by
  simp [State.forwards, h.pendingWrites]

/-- Sent to its core's own scratchpad, an element that looks at no full bits is performed there at once, R243. -/
theorem Alone.sendElem (h : Alone id o e s) {p : Place} (hp : InScratchpad p e.n) (hk : e.key = p.key) (c : Nat)
    (hown : ownAddress c e.va = true) (hf : e.fullEmpty = false) :
    s.sendElem c id 0 = s.performAt id 0 e none .done := by
  obtain ⟨hl, hs⟩ := hp.space
  have hlook : s.ops.look id = some o := by rw [h.ops]; simp [Sp.look]
  have hbank : s.accessBank e.key = some s := by rw [State.accessBank, hk, hp.bank]
  have hclaim : s.claim e = (e, s) := State.claim_key s e (by simp [Elem.inQueue, hk, hs])
  have hpark : s.mustPark e = false := by
    unfold Elem.fullEmpty at hf
    unfold State.mustPark
    split at hf <;> simp_all
  have hlocal : s.performLocal id 0 o e = some (s.performAt id 0 e none .done) := by
    simp only [State.performLocal, hclaim, hpark, hf, h.forwards, Bool.false_eq_true, if_false]
  simp only [State.sendElem, hlook, h.elems, List.getElem?_cons_zero, hk, hl, hown, h.mayPerform, h.unguarded, Bool.not_true,
    Bool.not_false, Bool.and_self, Bool.false_eq_true, if_false, if_true]
  rw [← hk, hbank, Option.bind_some, hlocal]

end

/-! ## The start of the only operation -/

/-- Nothing that an access of the task at the cursor could wait for is under way. -/
structure Quiet (s : State) : Prop where
  ops : s.ops = []
  packets : s.packets = []
  jobs : s.jobs = []
  fences : s.me.fences = []
  guards : s.guards = []

theorem Quiet.issuing {s : State} (h : Quiet s) (i : Instr) : Quiet (s.issuing i) := by
  have hr := (taskOnly_issuing s i).rest
  refine ⟨?_, ?_, ?_, ?_, ?_⟩
  · rw [hr]; exact h.ops
  · rw [hr]; exact h.packets
  · rw [hr]; exact h.jobs
  · rw [State.me_issuing]; exact h.fences
  · rw [hr]; exact h.guards

theorem Quiet.bankFull {s : State} (h : Quiet s) (r : TaskRef) (els : List Elem) : s.bankFull r els = false := by
  simp only [State.bankFull, h.ops, List.filter_nil, List.flatMap_nil, inBank, List.length_nil]
  rw [List.any_eq_false]
  intro b _
  simp only [Bool.and_eq_true, decide_eq_true_eq]
  omega

/-- The state in which an operation stands in the table, before its elements are sent. -/
def State.entered (u : State) (o : Op) (dests : List Dest) : State :=
  ({ u with serial := u.serial + 1, ops := u.ops.set u.serial o } : State).updMe (fun y => y.charged o dests u.serial)

theorem Quiet.alone {u : State} (h : Quiet u) {o : Op} {e : Elem} (dests : List Dest) (ht : o.task = u.myRef) (he : o.elems = [e]) :
    Alone u.serial o e (u.entered o dests) where
  ops := by show u.ops.set u.serial o = _; rw [h.ops]; rfl
  elems := he
  packets := h.packets
  jobs := h.jobs
  guards := h.guards
  fences := by
    have hme : (u.entered o dests).me = u.me.charged o dests u.serial := State.me_updMe _ _
    rw [ht]
    show (u.entered o dests).me.fences = []
    rw [hme]
    exact h.fences

/-- With nothing of the task under way, an operation of one element on the core's own scratchpad is performed as it starts, R243. -/
theorem Quiet.startOp {u : State} (h : Quiet u) {o : Op} {e : Elem} {dests : List Dest} (ht : o.task = u.myRef) (he : o.elems = [e])
    (hl : o.ldc = true → u.ldcFree) (hs : o.stc = true → u.stcFree) {p : Place} (hp : InScratchpad p e.n) (hk : e.key = p.key)
    (hown : ownAddress u.cur.core e.va = true) (hf : e.fullEmpty = false) :
    u.startOp o dests = .ok ((u.entered o dests).performAt u.serial 0 e none .done) := by
  have hsend := (h.alone dests ht he).sendElem hp hk u.cur.core hown hf
  unfold State.startOp
  rw [State.enterOp_ok u o dests hl hs (h.bankFull _ _), he]
  exact congrArg Except.ok hsend

/-! ## An access performed in the step that issues it -/

/-- The task keeps the access under which its checks are made. -/
theorem State.myAccess_issuing (s : State) (i : Instr) : (s.issuing i).myAccess = s.myAccess := by
  have hcur : (s.issuing i).cur = s.cur := (taskOnly_issuing s i).cur
  have hslot : (s.issuing i).slot s.cur.core s.cur.slot = s.slotIssuing i := by
    rw [← State.me_issuing s i, State.me, hcur]
  have hsr : (s.slotIssuing i).arch.sr = putBit s.me.arch.sr 8 false := rfl
  unfold State.myAccess State.accessOf
  rw [hcur, hslot]
  simp only [Arch.world, Arch.sup, hsr, getLsbD_putBit]
  rfl

/-- An instruction's one element performed in the step that issues it, from a state `v` with the same storage. -/
structure PerformedAtIssue (o : Op) (e : Elem) (s v t : State) : Prop where
  start : v.mem = s.mem ∧ v.tags = s.tags ∧ v.due = s.due
  op : t.ops.look s.serial = some { o with elems := [{ (v.performElem e none).1 with stage := .done }] }
  due : t.due = (v.performElem e none).2.due ++ o.completion s.serial
  mem : t.mem = (v.performElem e none).2.mem
  tags : t.tags = (v.performElem e none).2.tags

theorem performedAtIssue_of {s : State} {i : Instr} (h : Ready i s) (hq : Quiet s) {body : Env → State → Except Exit State}
    (he : exec i s = s.issue i body) {o : Op} {e : Elem} {dests : List Dest}
    (hb : body (s.envOf i) (s.issuing i) = (s.issuing i).startOp o dests)
    (ht : o.task = (s.issuing i).myRef) (ho : o.elems = [e])
    (hl : o.ldc = true → (s.issuing i).ldcFree) (hs : o.stc = true → (s.issuing i).stcFree)
    {p : Place} (hp : InScratchpad p e.n) (hk : e.key = p.key) (hown : ownAddress s.cur.core e.va = true) (hf : e.fullEmpty = false) :
    ∃ v t, exec i s = .next t ∧ PerformedAtIssue o e s v t := by
  have hr := (taskOnly_issuing s i).rest
  have hown' : ownAddress (s.issuing i).cur.core e.va = true := by rw [(taskOnly_issuing s i).cur]; exact hown
  have hstart := (hq.issuing i).startOp (dests := dests) ht ho hl hs hp hk hown' hf
  have hlook : ((s.issuing i).entered o dests).ops.look s.serial = some o := by
    rw [← State.issuing_serial s i]; exact Sp.look_set_self _ _ _
  rw [State.issuing_serial] at hstart
  obtain ⟨hop, hdue⟩ := State.performAt_only hlook (by rw [ho]; rfl) e none
  obtain ⟨hmem, htags⟩ := ((s.issuing i).entered o dests).performAt_storage s.serial 0 e none .done
  refine ⟨(s.issuing i).entered o dests, _, ?_, ⟨⟨?_, ?_, ?_⟩, hop, hdue, hmem, htags⟩⟩
  · rw [he, State.issue_ready h, hb, hstart]
  · exact (congrArg State.mem hr).trans rfl
  · exact (congrArg State.tags hr).trans rfl
  · exact (congrArg State.due hr).trans rfl

/-- An address of the core's own scratchpad, R183, R185. -/
def ownScratch (c x : Nat) : Prop := bits x 63 60 = 0xE ∧ bits x 49 36 = c ∧ bits x 35 32 = 0

theorem ownAddress_of_scratch {c x : Nat} (h : ownScratch c x) : ownAddress c x = true := by
  obtain ⟨htop, hcore, hspace⟩ := h
  simp [ownAddress, htop, hcore, hspace]

section
variable {s u : State} {g : BitVec 4} {d a o : BitVec 6} {z : BitVec 3} {p : Place}

/-- The address of LDX and STX, R209, R214. -/
def State.addrX (s : State) (a o : BitVec 6) (z : BitVec 3) : Nat :=
  ((s.me.arch.reg a.toNat).cap.addr.toNat + immNat s.me.arch.pfx 6 o.toNat * 2 ^ z.toNat) % 2 ^ 64

/-- Whether STX writes a set tag, R215. -/
def State.keepX (s : State) (d a : BitVec 6) (z : BitVec 3) : Bool :=
  z == 4 && (s.me.arch.reg d.toNat).tag && (s.me.arch.reg a.toNat).cap.has .cst

/-- The element of STX, R215. -/
def State.stxElem (s : State) (d a o : BitVec 6) (z : BitVec 3) (p : Place) : Elem :=
  p.elem (storeReq (s.addrX a o z) (2 ^ z.toNat)) 0
    (.write (2 ^ 2 ^ z.toNat - 1) ((s.me.arch.reg d.toNat).v.toNat % 2 ^ (8 * 2 ^ z.toNat)) (s.keepX d a z)) false

/-- The element of LDX, R215. -/
def State.ldxElem (s : State) (a o : BitVec 6) (z : BitVec 3) (p : Place) : Elem :=
  p.elem (loadReq (s.addrX a o z) (2 ^ z.toNat)) 0 .read (z == 4 && (s.me.arch.reg a.toNat).cap.has .cld)

theorem stx_performedAtIssue (h : Ready (.stx g d a o z) s) (hfree : s.stcFree) (hown : ownScratch s.cur.core (s.addrX a o z))
    (hq : Quiet s)
    (hc : (s.issuing (.stx g d a o z)).checkOne s.myAccess (s.me.arch.reg a.toNat).tag (s.me.arch.reg a.toNat).cap
      { storeReq (s.addrX a o z) (2 ^ z.toNat) with keepTag := s.keepX d a z, counter := z == 3 } = .ok (p, u)) :
    ∃ q v t, exec (.stx g d a o z) s = .next t ∧ q.completion s.serial = [.storeAcknowledgement s.serial] ∧
      PerformedAtIssue q (s.stxElem d a o z p) s v t := by
  obtain ⟨hp, rfl⟩ := State.checkOne_scratchpad hc hown.1 hown.2.2
  obtain ⟨v, t, ht, hpf⟩ := performedAtIssue_of h hq (exec_stx g d a o z s)
    (o := { (s.envOf (.stx g d a o z)).op (s.issuing (.stx g d a o z)) false true with elems := [s.stxElem d a o z p] }) (dests := [])
    (by
      rw [← s.myAccess_issuing (.stx g d a o z)] at hc
      exact (congrArg (fun y => y >>= _) hc).trans rfl)
    rfl rfl nofun (fun _ => by unfold State.stcFree; rw [State.me_issuing]; exact hfree) hp rfl (ownAddress_of_scratch hown) rfl
  exact ⟨_, v, t, ht, rfl, hpf⟩

theorem ldx_performedAtIssue (h : Ready (.ldx g d a o z) s) (hfree : (s.issuing (.ldx g d a o z)).ldcFree)
    (hown : ownScratch s.cur.core (s.addrX a o z)) (hq : Quiet s)
    (hc : (s.issuing (.ldx g d a o z)).checkOne s.myAccess (s.me.arch.reg a.toNat).tag (s.me.arch.reg a.toNat).cap
      { loadReq (s.addrX a o z) (2 ^ z.toNat) with counter := z == 3 } = .ok (p, u)) :
    ∃ q v t, exec (.ldx g d a o z) s = .next t ∧ q.completion s.serial = [.loadCompletion s.serial] ∧
      PerformedAtIssue q (s.ldxElem a o z p) s v t := by
  obtain ⟨hp, rfl⟩ := State.checkOne_scratchpad hc hown.1 hown.2.2
  obtain ⟨v, t, ht, hpf⟩ := performedAtIssue_of h hq (exec_ldx g d a o z s)
    (o := { (s.envOf (.ldx g d a o z)).op (s.issuing (.ldx g d a o z)) true false with
      elems := [s.ldxElem a o z p], ret := if z = 4 then .cap d.toNat else .scalar d.toNat }) (dests := [.reg d.toNat])
    (by
      rw [← s.myAccess_issuing (.ldx g d a o z)] at hc
      exact (congrArg (fun y => y >>= _) hc).trans rfl)
    rfl rfl (fun _ => hfree) nofun hp rfl (ownAddress_of_scratch hown) rfl
  exact ⟨_, v, t, ht, rfl, hpf⟩

end

/-! ## What the access did -/

section
variable {q : Op} {e : Elem} {s v t : State} {p : Place} {d : Nat} {keep : Bool}

/-- What a whole store leaves: its bytes are written, which clears the granule's tag, and then its tag where it is set, R215. -/
theorem State.performElem_write (v : State) (hact : e.act = .write (2 ^ e.n - 1) d keep) (fwd : Option Elem) :
    (v.performElem e fwd).2 =
      if keep then (v.writeMem e.key e.n (2 ^ e.n - 1) d).setTag e.key true else v.writeMem e.key e.n (2 ^ e.n - 1) d := by
  simp only [State.performElem, hact]

/-- A performed store has written its bytes and no other, R4, R215. -/
theorem PerformedAtIssue.byte_store (h : PerformedAtIssue q e s v t) (hp : InScratchpad p e.n) (hk : e.key = p.key) (hn : 0 < e.n)
    (hact : e.act = .write (2 ^ e.n - 1) d keep) {j : Nat} (hj : keyIsView j = false) :
    t.byte j = if p.key ≤ j ∧ j < p.key + e.n then byteOf d (j - p.key) else s.byte j := by
  have hmem : t.mem = (v.writeMem e.key e.n (2 ^ e.n - 1) d).mem := by
    rw [h.mem, State.performElem_write v hact]
    split <;> rfl
  rw [State.byte_congr hmem hj, hk, State.byte_writeMem v _ _ _ _ hj (fun _ hi => hp.notView hi) hn,
    State.byte_congr h.start.1 hj]
  refine if_congr ?_ rfl rfl
  rw [bit_eq_testBit, Nat.testBit_two_pow_sub_one, decide_eq_true_eq]
  omega

/-- A performed store has written its tag, R215. -/
theorem PerformedAtIssue.tag_store (h : PerformedAtIssue q e s v t) (hp : InScratchpad p e.n) (hk : e.key = p.key) (hn : 0 < e.n)
    (hact : e.act = .write (2 ^ e.n - 1) d keep) : t.tagAt p.key = keep := by
  have htags : t.tagAt p.key = (v.performElem e none).2.tagAt p.key := by rw [State.tagAt, h.tags]; rfl
  rw [htags, State.performElem_write v hact, hk]
  cases keep with
  | true => exact State.tagAt_setTag _ _ _
  | false =>
    refine State.tagAt_writeMem v (hp.notView hn) hn ?_
    rw [bit_eq_testBit, Nat.testBit_two_pow_sub_one]
    simpa using hn

/-- Behind a performed store its acknowledgement alone is under way, R212. -/
theorem PerformedAtIssue.due_store (h : PerformedAtIssue q e s v t) (hp : InScratchpad p e.n) (hk : e.key = p.key) (hn : 0 < e.n)
    (hact : e.act = .write (2 ^ e.n - 1) d keep) : t.due = s.due ++ q.completion s.serial := by
  have hwrite : (v.writeMem p.key e.n (2 ^ e.n - 1) d).due = v.due := State.due_writeMem v _ _ _ (hp.notView hn)
  have hdue : (v.performElem e none).2.due = v.due := by
    rw [State.performElem_write v hact, hk]
    cases keep <;> exact hwrite
  rw [h.due, hdue, h.start.2.2]

/-- A performed load's operation holds what storage held, R4, R215. -/
theorem PerformedAtIssue.loaded (h : PerformedAtIssue q e s v t) (hp : InScratchpad p e.n) (hk : e.key = p.key) (hact : e.act = .read) :
    (v.performElem e none).1.val = s.readMem p.key e.n ∧ (v.performElem e none).1.valTag = (s.tagAt p.key && e.keepsTag) := by
  simp only [State.performElem, hact, State.fetchElem, hk]
  refine ⟨State.readMem_congr h.start.1 (fun _ hi => hp.notView hi), ?_⟩
  rw [State.tagAt, h.start.2.1]
  rfl

/-- A performed load changes no byte of storage. -/
theorem PerformedAtIssue.bytes_load (h : PerformedAtIssue q e s v t) (hact : e.act = .read) :
    BytesKept (fun _ => False) s t := by
  refine BytesKept.of_mem (h.mem.trans ?_)
  simp only [State.performElem, hact]
  exact h.start.1

/-- Behind a performed load its completion alone is under way, R212. -/
theorem PerformedAtIssue.due_load (h : PerformedAtIssue q e s v t) (hact : e.act = .read) :
    t.due = s.due ++ q.completion s.serial := by
  rw [h.due]
  simp only [State.performElem, hact]
  rw [h.start.2.2]

end

/-- Settles O26: with nothing under way that the access could wait for, its one element is performed as its operation starts
(`performedAtIssue_of`), and a write to a scratchpad puts its bytes and tag there. -/
theorem ownScratchpad : Obligations.OwnScratchpad := by
  intro s g d a o z p u n c r x own quiet keep
  have hquiet : quiet → Quiet s := fun ⟨hops, hpackets, hjobs, hfences, hguards⟩ => ⟨hops, hpackets, hjobs, hfences, hguards⟩
  have hn : 0 < n := Nat.two_pow_pos _
  refine ⟨fun hready hfree hown hq hc => ?_, fun hready hfree hown hq hc => ?_⟩
  · have hp : InScratchpad p n := (State.checkOne_scratchpad hc hown.1 hown.2.2).1
    obtain ⟨q, v, t, ht, hack, hpf⟩ := stx_performedAtIssue hready hfree hown (hquiet hq) hc
    refine ⟨t, ht, fun k hk => ?_, hpf.tag_store hp rfl hn rfl, fun k hk hout => ?_, ?_⟩
    · rw [hpf.byte_store hp rfl hn rfl (hp.notView hk), if_pos ⟨Nat.le_add_right _ _, Nat.add_lt_add_left hk _⟩,
        Nat.add_sub_cancel_left]
      exact byteOf_low r.v hk
    · rw [hpf.byte_store hp rfl hn rfl hk]
      exact if_neg (fun hin => hout.elim (Nat.not_lt.2 hin.1) (Nat.not_le.2 hin.2))
    · rw [hpf.due_store hp rfl hn rfl, hack]
  · have hp : InScratchpad p n := (State.checkOne_scratchpad hc hown.1 hown.2.2).1
    obtain ⟨q, v, t, ht, hcompletes, hpf⟩ := ldx_performedAtIssue hready hfree hown (hquiet hq) hc
    obtain ⟨hval, htag⟩ := hpf.loaded hp rfl rfl
    refine ⟨t, _, _, ht, hpf.op, rfl, rfl, hval, ?_, ?_, hpf.bytes_load rfl⟩
    · refine htag.trans ?_
      have hkeeps : (s.ldxElem a o z p).keepsTag = (z == 4 && c.has .cld && p.tags) := rfl
      rw [hkeeps, hp.tags, Bool.and_true]
      exact Bool.and_left_comm .. |>.trans (Bool.and_assoc ..).symm
    · rw [hpf.due_load rfl, hcompletes]

end Sys2Proof.Machine
end

section
/-!
Special registers, R19 to R22: what the checks and the body of GETS and SETS come to for a ready instruction, what each
register shows, and what each write does.
-/

namespace Sys2Proof.Machine

/-! ## The state from which a body starts -/

section
variable (s : State) (i : Instr)

/-- Of a core the issue changes the slots alone. -/
theorem State.core_issuing (c : Nat) : ∃ l, (s.issuing i).core c = { s.core c with slots := l } := by
  have hcores : (s.issuing i).core c = (s.updMe (fun _ => s.slotIssuing i)).core c :=
    State.core_congr (State.issued_cores _ _) c
  rw [hcores]
  by_cases hc : c = s.cur.core
  · subst hc
    exact ⟨_, State.core_updMe s _⟩
  · exact ⟨(s.core c).slots, State.core_setSlot_ne s (Ne.symm hc) _ _⟩

/-- A part of a core that does not look at its slots is as it was. -/
theorem State.core_issuing_part {α : Type} (f : Core → α) (hf : ∀ (k : Core) (l : Sp Slot), f { k with slots := l } = f k) (c : Nat) :
    f ((s.issuing i).core c) = f (s.core c) := by
  obtain ⟨l, h⟩ := s.core_issuing i c
  rw [h, hf]

/-- A part of a state that does not look at its cores, banks and gangs is as it was. -/
theorem State.issuing_part {α : Type} (f : State → α)
    (hf : ∀ (t : State) (c : Sp Core) (b : Sp Bank) (g : Sp Gang), f { t with cores := c, banks := b, gangs := g } = f t) :
    f (s.issuing i) = f s := by
  rw [(taskOnly_issuing s i).rest, hf]

theorem State.slot_issuing_self : (s.issuing i).slot s.cur.core s.cur.slot = s.slotIssuing i := by
  rw [← State.me_issuing, State.me, (taskOnly_issuing s i).cur]

end

/-! ## The checks of R19 -/

theorem check_passes {c : Bool} (h : c = true) (code tval : Nat) : check c code tval = .ok () := if_pos h

theorem check_fails {c : Bool} (h : c = false) (code tval : Nat) : check c code tval = .error (.trap code tval 0) := by
  subst h
  rfl

section
variable {e : Env} {n : Nat} {write : Bool}

/-- A register that is in the table, on its kind of core, and for a write no read-only one. -/
def Env.specialLegal (e : Env) (n : Nat) (write : Bool) : Bool := isSpecial n && (e.big || !specialBig n) && !(write && specialRo n)

theorem Env.specialCheck_ok (hl : e.specialLegal n write = true) (hs : specialSup n = true → e.a.sup = true) :
    e.specialCheck n write = .ok () := by
  have hs' : (!specialSup n || e.a.sup) = true := by
    cases h : specialSup n with
    | false => rfl
    | true => rw [hs h]; rfl
  unfold Env.specialLegal at hl
  unfold Env.specialCheck
  rw [check_passes hl, check_passes hs']
  rfl

theorem Env.specialCheck_illegal (hl : e.specialLegal n write = false) :
    e.specialCheck n write = .error (.trap causeIllegal e.word.toNat 0) := by
  unfold Env.specialLegal at hl
  unfold Env.specialCheck
  rw [check_fails hl]
  rfl

theorem Env.specialCheck_privilege (hl : e.specialLegal n write = true) (hs : specialSup n = true) (hu : e.a.sup = false) :
    e.specialCheck n write = .error (.trap causePrivilege n 0) := by
  unfold Env.specialLegal at hl
  unfold Env.specialCheck
  rw [check_passes hl, hs, hu]
  rfl

theorem Env.srReady_ok (h : n = 0 → e.sl.mxc = 0) : e.srReady n = .ok () := by
  unfold Env.srReady stallIf
  by_cases hn : n = 0 <;> simp [hn, h]

theorem Env.srReady_wait (hn : n = 0) (h : e.sl.mxc ≠ 0) : e.srReady n = .error (.wait .counter) := by
  simp [Env.srReady, stallIf, hn, Nat.pos_of_ne_zero h]

end

/-! ## GETS -/

/-- What a special register other than SR shows, the body of GETS sees as it was before the issue. -/
theorem State.special_issuing (s : State) (i : Instr) {num : Nat} (h : num ≠ 0) :
    (s.issuing i).special s.cur.core s.cur.slot num = s.special s.cur.core s.cur.slot num := by
  have hslot := s.slot_issuing_self i
  have hbig := s.core_issuing_part i Core.big (fun _ _ => rfl) s.cur.core
  have hctx : ∀ k, (s.issuing i).ctx k = s.ctx k := fun k => s.issuing_part i (fun t => t.ctx k) (fun _ _ _ _ => rfl)
  have hacc : (s.issuing i).accSave s.cur.core s.cur.slot = s.accSave s.cur.core s.cur.slot := by
    unfold State.accSave State.accEntry
    rw [hslot, hbig, hctx]
    rfl
  have htvec : ∀ k, (s.issuing i).tvec s.cur.core k = s.tvec s.cur.core k := fun k => by
    unfold State.tvec
    rw [s.core_issuing_part i Core.tvec (fun _ _ => rfl), hctx]
  have hlpct : (s.issuing i).lpctWindow s.cur.core = s.lpctWindow s.cur.core := by
    unfold State.lpctWindow State.phys
    rw [s.core_issuing_part i Core.lpctLog (fun _ _ => rfl), s.issuing_part i State.lpct (fun _ _ _ _ => rfl)]
  have hflag : ∀ p q, (s.issuing i).flagSum p q = s.flagSum p q :=
    fun p q => s.issuing_part i (fun t => t.flagSum p q) (fun _ _ _ _ => rfl)
  have hgshare := s.core_issuing_part i Core.gshare (fun _ _ => rfl) s.cur.core
  have hspill := s.core_issuing_part i Core.spill (fun _ _ => rfl) s.cur.core
  simp only [State.special, hslot, hacc, htvec, hlpct, hflag, hgshare, hspill, hbig]
  split
  · exact absurd rfl h
  all_goals rfl

section
variable {s : State} {g : BitVec 4} {d : BitVec 6} {n : BitVec 12}

/-- An instruction whose body writes one scalar. -/
theorem writesScalar_of_body {i : Instr} (h : Ready i s) {body : Env → State → Except Exit State} {x : Nat}
    (he : exec i s = s.issue i body)
    (hb : body (s.envOf i) (s.issuing i) = .ok ((s.issuing i).updArch (fun r => r.setScalar d.toNat x))) : WritesScalar i d x s := by
  refine ⟨(s.issuing i).updArch (fun r => r.setScalar d.toNat x), ?_, regsOnly_updArch h.alone i (writesOnly_setReg _ _), noFlags_updArch s i (writesOnly_setReg _ _),
    advanced_updArch s i (writesOnly_setReg _ _), fun hd => ?_⟩
  · rw [he, State.issue_ready h, hb]
  · have hreg : ((s.issuing i).updArch (fun r => r.setScalar d.toNat x)).me.arch.reg d.toNat = { v := scalarVec x, tag := false } := by
      rw [State.me_issuing_updArch]
      exact Arch.reg_setReg_self _ (fun h0 => hd (BitVec.eq_of_toNat_eq h0)) _
    unfold State.vec
    rw [hreg]
    exact ⟨rfl, rfl⟩

/-- GETS of a register that passes its checks, R82. -/
theorem gets_reads (h : Ready (.gets g d n) s) (hl : (s.envOf (.gets g d n)).specialLegal n.toNat false = true)
    (hs : specialSup n.toNat = true → s.me.arch.sup = true) (hm : n.toNat = 0 → s.me.mxc = 0) :
    WritesScalar (.gets g d n) d (s.special s.cur.core s.cur.slot n.toNat) s := by
  refine writesScalar_of_body h (exec_gets g d n s) ?_
  rw [Env.specialCheck_ok hl hs, Env.srReady_ok hm]
  show Except.ok _ = _
  by_cases hn : n = 0
  · subst hn
    rfl
  · have hn' : n.toNat ≠ 0 := fun h0 => hn (BitVec.eq_of_toNat_eq h0)
    rw [if_neg hn]
    exact congrArg (fun x => Except.ok ((s.issuing (.gets g d n)).updArch (fun r => r.setScalar d.toNat x))) (s.special_issuing _ hn')

/-- GETS of SR waits for the task's matrix commands, R303. -/
theorem gets_waits (h : Ready (.gets g d n) s) (hl : (s.envOf (.gets g d n)).specialLegal n.toNat false = true)
    (hn : n.toNat = 0) (hm : s.me.mxc ≠ 0) : StallsFor (.gets g d n) .counter s := by
  refine stallsFor_of h (exec_gets g d n s) ?_
  have hs : specialSup n.toNat = true → (s.envOf (.gets g d n)).a.sup = true := by rw [hn]; nofun
  have hwait : (s.envOf (.gets g d n)).srReady n.toNat = .error (.wait .counter) := Env.srReady_wait hn hm
  rw [Env.specialCheck_ok hl hs, hwait]
  rfl

end

theorem isSpecial_port {n : Nat} (hlo : 0x040 ≤ n) (hhi : n ≤ 0x047) :
    isSpecial n = true ∧ specialBig n = false ∧ specialRo n = false ∧ specialSup n = false := by
  obtain ⟨q, hq, rfl⟩ : ∃ q, q < 8 ∧ n = 0x040 + q := ⟨n - 0x040, by omega, by omega⟩
  revert q
  decide

/-- The special register at 0x040 + q is PORTCFGq, R159. -/
theorem State.special_port (s : State) (c m : Nat) {q : Nat} (hq : q < 8) : s.special c m (0x040 + q) = ((s.slot c m).port q).config := by
  match q, hq with
  | 0, _ | 1, _ | 2, _ | 3, _ | 4, _ | 5, _ | 6, _ | 7, _ => rfl

/-- Settles O13: each register passes the checks of R19 under its hypotheses (`gets_reads`), and shows the value of its row. -/
theorem specialRegisterReads : Obligations.SpecialRegisterReads := by
  intro s g d n h x c big sup reads
  have small : specialBig n.toNat = false → isSpecial n.toNat = true →
      (s.envOf (.gets g d n)).specialLegal n.toNat false = true := fun hb hi => by simp [Env.specialLegal, hb, hi]
  have onBig : big → isSpecial n.toNat = true → (s.envOf (.gets g d n)).specialLegal n.toNat false = true := fun hb hi => by
    have : (s.envOf (.gets g d n)).big = true := hb
    simp [Env.specialLegal, this, hi]
  refine ⟨?_, ?_, ?_, ?_, ?_, ?_, ?_, ?_, ?_, ?_, ?_, ?_, ?_, ?_, ?_, ?_, ?_, ?_, ?_⟩
  · rintro rfl hm
    exact gets_reads h (small rfl rfl) nofun (fun _ => hm)
  · rintro rfl hm
    exact gets_waits h (small rfl rfl) rfl hm
  case refine_17 =>
    intro q hq hn
    obtain ⟨hi, hb, -, hs⟩ := isSpecial_port (n := n.toNat) (by omega) (by omega)
    have hread := gets_reads h (small hb hi) (fun hs' => absurd (hs.symm.trans hs') Bool.false_ne_true) (fun h0 => by omega)
    rw [hn, State.special_port s _ _ hq] at hread
    exact hread
  case refine_14 | refine_15 | refine_16 =>
    rintro rfl hb hs
    exact gets_reads h (onBig hb rfl) (fun _ => hs) nofun
  case refine_4 | refine_5 | refine_6 | refine_7 | refine_8 =>
    rintro rfl
    exact gets_reads h (small rfl rfl) nofun nofun
  all_goals
    rintro rfl hs
    exact gets_reads h (small rfl rfl) (fun _ => hs) nofun

end Sys2Proof.Machine
end

section
/-!
What SETS does with each register of R19, and the writes of the table's rows: the effects that lie beside the register.
-/

namespace Sys2Proof.Machine

/-! ## The storage of a bank in the spill window, R188 -/

theorem Sp.look_filter {α : Type} (m : Sp α) (p : Nat → Bool) (k : Nat) :
    Sp.look (m.filter (fun e => p e.1)) k = if p k then m.look k else none := by
  induction m with
  | nil => simp [Sp.look]
  | cons e m ih =>
    obtain ⟨j, x⟩ := e
    by_cases hj : j = k
    · subst hj
      by_cases hp : p j <;> simp [Sp.look, hp, ih]
    · by_cases hp : p j <;> simp [Sp.look, hp, hj, ih]

theorem Sp.at_filter {α : Type} (m : Sp α) (p : Nat → Bool) (k : Nat) (d : α) :
    Sp.at (m.filter (fun e => p e.1)) k d = if p k then m.at k d else d := by
  unfold Sp.at
  rw [Sp.look_filter]
  cases p k <;> rfl

/-- A key of the storage of a bank. -/
def ofBank (b : Nat × Nat) (k : Nat) : Prop :=
  localKey b.1 9 (b.2 * 0x2000) ≤ k ∧ k < localKey b.1 9 (b.2 * 0x2000) + 0x2000

theorem not_ofBank_iff {b : Nat × Nat} {k : Nat} :
    ¬ ofBank b k ↔ k < localKey b.1 9 (b.2 * 0x2000) ∨ localKey b.1 9 (b.2 * 0x2000) + 0x2000 ≤ k := by
  unfold ofBank
  omega

/-- A bank's storage reads as zero once it is cleared, and other storage as before, R26. -/
theorem State.at_clearBank (t : State) (b : Nat × Nat) (k : Nat) :
    (ofBank b k → Sp.at (t.clearBank b.1 b.2).mem k 0 = 0) ∧
      (¬ ofBank b k → Sp.at (t.clearBank b.1 b.2).mem k 0 = Sp.at t.mem k 0) := by
  have hat : Sp.at (t.clearBank b.1 b.2).mem k 0 = if (decide (k < localKey b.1 9 (b.2 * 0x2000)) ||
      decide (k ≥ localKey b.1 9 (b.2 * 0x2000) + 0x2000)) = true then Sp.at t.mem k 0 else 0 :=
    Sp.at_filter t.mem (fun j => decide (j < localKey b.1 9 (b.2 * 0x2000)) || decide (j ≥ localKey b.1 9 (b.2 * 0x2000) + 0x2000)) k 0
  rw [not_ofBank_iff, hat]
  unfold ofBank
  constructor <;> intro h
  · rw [if_neg (by simp; omega)]
  · rw [if_pos (by simpa using h)]

/-! ## SPILLMAP, R188, R365 -/

/-- The bank that SPILLMAP released, cleared. -/
def State.released (t : State) (old new : Option (Nat × Nat)) : State :=
  match old with
  | some b => if new = some b then t else (t.clearBank b.1 b.2).pushOnce (.taskSelection b.1)
  | none => t

/-- The bank that SPILLMAP names, cleared where it was gated, and awake. -/
def State.awakened (t : State) (new : Option (Nat × Nat)) : State :=
  match new with
  | some b => (if (t.banks.at (16 * b.1 + b.2) {}).st = BankState.gated then t.clearBank b.1 b.2 else t).wakeBank b.1 b.2
  | none => t

theorem State.pushOnce_ex (s : State) (i : Instr) : ∃ d, s.pushOnce i = { s with due := d } := by
  unfold State.pushOnce
  split
  · exact ⟨s.due, rfl⟩
  · exact ⟨_, rfl⟩

theorem State.released_frame (t : State) (old new : Option (Nat × Nat)) :
    (t.released old new).cores = t.cores ∧ (t.released old new).banks = t.banks := by
  cases old with
  | none => exact ⟨rfl, rfl⟩
  | some b =>
    simp only [State.released]
    split
    · exact ⟨rfl, rfl⟩
    · obtain ⟨d, hd⟩ := (t.clearBank b.1 b.2).pushOnce_ex (.taskSelection b.1)
      rw [hd]
      exact ⟨rfl, rfl⟩

/-- Of storage the release changes the bank alone that is named no more. -/
theorem State.at_released (t : State) (old new : Option (Nat × Nat)) (k : Nat) :
    (∀ b, old = some b → new ≠ some b → ofBank b k → Sp.at (t.released old new).mem k 0 = 0) ∧
      ((∀ b, old = some b → new ≠ some b → ¬ ofBank b k) → Sp.at (t.released old new).mem k 0 = Sp.at t.mem k 0) := by
  cases old with
  | none => exact ⟨nofun, fun _ => rfl⟩
  | some b =>
    obtain ⟨hin, hout⟩ := t.at_clearBank b k
    obtain ⟨d, hd⟩ := (t.clearBank b.1 b.2).pushOnce_ex (.taskSelection b.1)
    simp only [State.released, hd]
    split
    · next hn => exact ⟨fun c hc hne => by cases hc; exact absurd hn hne, fun _ => rfl⟩
    · next hn => exact ⟨fun c hc _ h => by cases hc; exact hin h, fun h => hout (h b rfl hn)⟩

theorem State.awakened_cores (t : State) (new : Option (Nat × Nat)) : (t.awakened new).cores = t.cores := by
  cases new with
  | none => rfl
  | some b =>
    simp only [State.awakened]
    rw [State.wakeBank_eq]
    split <;> rfl

/-- Of storage the naming changes the bank alone that was gated. -/
theorem State.at_awakened (t : State) (new : Option (Nat × Nat)) (k : Nat) :
    (∀ b, new = some b → (t.banks.at (16 * b.1 + b.2) {}).st = .gated → ofBank b k → Sp.at (t.awakened new).mem k 0 = 0) ∧
      ((∀ b, new = some b → (t.banks.at (16 * b.1 + b.2) {}).st = .gated → ¬ ofBank b k) →
        Sp.at (t.awakened new).mem k 0 = Sp.at t.mem k 0) := by
  cases new with
  | none => exact ⟨nofun, fun _ => rfl⟩
  | some b =>
    obtain ⟨hin, hout⟩ := t.at_clearBank b k
    simp only [State.awakened, State.wakeBank_mem]
    split
    · next hg => exact ⟨fun c hc _ h => by cases hc; exact hin h, fun h => hout (h b rfl hg)⟩
    · next hg => exact ⟨fun c hc hgc => by cases hc; exact absurd hgc hg, fun _ => rfl⟩

/-- SPILLMAP with a value that passes its checks, R188. -/
theorem State.setSpillmap_ok {t : State} {c : Nat} {word : IWord} {v : Nat} (hi : spillIllegal (isBig c) v = false)
    (hr : t.spillRange c (BitVec.ofNat 64 v) = false) :
    ∃ u, t.setSpillmap c word v = .ok u ∧ Spilled c (BitVec.ofNat 64 v) t u := by
  let old := t.namedBank c (t.core c).spill
  let new := t.namedBank c (BitVec.ofNat 64 v)
  let r := t.released old new
  obtain ⟨hrc, hrb⟩ := t.released_frame old new
  have hcores : (r.awakened new).cores = t.cores := (r.awakened_cores new).trans hrc
  refine ⟨(r.awakened new).updCore c (fun k => { k with spill := BitVec.ofNat 64 v }), ?_, ?_⟩
  · have hillegal : check (!spillIllegal (isBig c) v) causeIllegal word.toNat = .ok () := check_passes (by rw [hi]; rfl) _ _
    have hrange : check (!t.spillRange c (BitVec.ofNat 64 v)) causeRange v = .ok () := check_passes (by rw [hr]; rfl) _ _
    simp only [State.setSpillmap, hillegal, hrange]
    rfl
  · have hbanks : ∀ b : Nat × Nat, (r.banks.at (16 * b.1 + b.2) {}).st = (t.banks.at (16 * b.1 + b.2) {}).st := fun b => by
      rw [hrb]
    refine ⟨?_, fun e he => ?_, fun b hb hne k hlo hhi => ?_, fun b hb hg k hlo hhi => ?_, fun k hk hold hnew => ?_⟩
    · rw [State.updCore, State.core_setCore_self, State.core_congr hcores]
    · rw [State.updCore, State.core_setCore_ne _ (Ne.symm he), State.core_congr hcores]
    · show Sp.at (r.awakened new).mem k 0 = 0
      have hzero : Sp.at r.mem k 0 = 0 := (t.at_released old new k).1 b hb hne ⟨hlo, hhi⟩
      by_cases hin : ∃ b', new = some b' ∧ (r.banks.at (16 * b'.1 + b'.2) {}).st = .gated ∧ ofBank b' k
      · obtain ⟨b', hb', hg', hk'⟩ := hin
        exact (r.at_awakened new k).1 b' hb' hg' hk'
      · exact ((r.at_awakened new k).2 (fun b' hb' hg' hk' => hin ⟨b', hb', hg', hk'⟩)).trans hzero
    · exact (r.at_awakened new k).1 b hb ((hbanks b).trans hg) ⟨hlo, hhi⟩
    · rw [State.byte_eq _ hk, State.byte_eq _ hk]
      show Sp.at (r.awakened new).mem k 0 = _
      rw [(r.at_awakened new k).2 (fun b hb hg => not_ofBank_iff.2 (hnew b hb ((hbanks b).symm.trans hg))),
        (t.at_released old new k).2 (fun b hb hne => not_ofBank_iff.2 (hold b hb hne))]

/-! ## What the checks of SPILLMAP look at -/

section
variable (s : State) (i : Instr)

theorem Sp.filter_set {α : Type} (p : Nat × α → Bool) (m : Sp α) {k : Nat} (hk : ∀ x, p (k, x) = false) (v : α) :
    (Sp.set m k v).filter p = m.filter p := by
  induction m with
  | nil => simp [Sp.set, hk]
  | cons e m ih =>
    obtain ⟨j, x⟩ := e
    unfold Sp.set
    split
    · simp [List.filter_cons, hk]
    · split
      · next hj => subst hj; simp [hk]
      · rw [List.filter_cons, List.filter_cons, ih]

theorem State.phase_issuing (c n : Nat) : ((s.issuing i).slot c n).phase = (s.slot c n).phase := by
  by_cases h : c = s.cur.core ∧ n = s.cur.slot
  · obtain ⟨rfl, rfl⟩ := h
    rw [State.slot_issuing_self]
    rfl
  · rw [(coresKept_issuing s i).slots c n (by rwa [← not_and_or])]

theorem State.spillBank_issuing (c : Nat) (v : Word) : (s.issuing i).spillBank c v = s.spillBank c v := by
  have hlit := fun c => s.core_issuing_part i Core.lit (fun _ _ => rfl) c
  have hdark := fun c => s.core_issuing_part i Core.dark (fun _ _ => rfl) c
  have hpartner : (s.issuing i).partner c = s.partner c := by
    unfold State.partner
    simp only [hlit, hdark]
  unfold State.spillBank
  rw [hpartner]

/-- The issue leaves what the second check of SPILLMAP looks at: the phases of slots and the other cores' SPILLMAP. -/
theorem State.spillRange_issuing (v : Word) : (s.issuing i).spillRange s.cur.core v = s.spillRange s.cur.core v := by
  have hothers : (s.issuing i).cores.filter (fun e => e.1 != s.cur.core && spillKind e.2.spill == spillKind v) =
      s.cores.filter (fun e => e.1 != s.cur.core && spillKind e.2.spill == spillKind v) := by
    rw [State.issuing, State.issued_cores]
    exact Sp.filter_set _ _ (fun x => by simp) _
  unfold State.spillRange
  simp only [hothers, State.spillBank_issuing, State.phase_issuing]

end

/-! ## SR, R20, R21 -/

theorem setBits_low (x v : Nat) : setBits x 7 0 v = x / 2 ^ 8 * 2 ^ 8 + v % 2 ^ 8 := by
  simp only [setBits, bits, Nat.pow_zero, Nat.div_one, Nat.mul_one, Nat.reduceAdd, Nat.reduceSub]
  have := Nat.div_add_mod x (2 ^ 8)
  omega

/-- Flags in the accumulator of the task's partition are the task's own, R58. -/
theorem TaskOnly.sumFlags {s t : State} (h : TaskOnly s t) (f : Flags) : TaskOnly s (t.sumFlags s.cur.core s.me.part f) := by
  have hself : (t.sumFlags s.cur.core s.me.part f).core s.cur.core = { t.core s.cur.core with
      flagAcc := (t.core s.cur.core).flagAcc.set s.me.part ((t.core s.cur.core).flagAcc.at s.me.part 0 ||| f) } :=
    State.core_setCore_self _ _ _
  refine ⟨⟨fun c hc => ?_, ?_, fun n hn => ?_, fun p hp => ?_, h.banks, h.gangs, fun k hk => ?_⟩, ?_⟩
  · exact (State.core_setCore_ne _ (Ne.symm hc) _).trans (h.cores c hc)
  · rw [hself]
    exact core_with h.core _ _
  · rw [State.slot, hself]
    exact h.slots n hn
  · rw [hself]
    exact (Sp.at_set_ne _ (Ne.symm hp) _ _).trans (h.sums p hp)
  · exact State.byte_congr (show (t.sumFlags s.cur.core s.me.part f).mem = s.mem from h.mem) hk
  · refine rest_of_ex (c := (t.sumFlags s.cur.core s.me.part f).cores) (b := t.banks) (g := t.gangs) ?_
    exact congrArg (fun u : State => { u with cores := (t.sumFlags s.cur.core s.me.part f).cores }) h.rest

theorem State.me_sumFlags (t : State) (p : Nat) (f : Flags) : (t.sumFlags t.cur.core p f).me = t.me := by
  have hcore : ((t.sumFlags t.cur.core p f).core t.cur.core).slots = (t.core t.cur.core).slots :=
    (congrArg Core.slots (State.core_setCore_self t t.cur.core _)).trans rfl
  show ((t.sumFlags t.cur.core p f).core t.cur.core).slot t.cur.slot = (t.core t.cur.core).slot t.cur.slot
  unfold Core.slot
  rw [hcore]

/-- SR as SETS leaves it, R21. -/
def srWritten (v : Nat) (r : Arch) : Arch := { r with sr := BitVec.ofNat 64 (r.sr.toNat / 2 ^ 8 * 2 ^ 8 + v % 2 ^ 8) }

/-- SETS of SR with a rounding mode that there is: the task's own SR and its partition's accumulator, R21, R58. -/
theorem State.setSr_ok {s t : State} (h : TaskOnly s t) (hp : t.me.part = s.me.part) {word : IWord} {v : Nat} (hv : v % 8 ≤ 4) :
    ∃ u, t.setSr s.cur.core s.cur.slot word v = .ok u ∧ TaskOnly s u ∧ u.me = onArch (srWritten v) t.me ∧
      (u.core s.cur.core).flagAcc.at s.me.part 0 = (t.core s.cur.core).flagAcc.at s.me.part 0 ||| BitVec.ofNat 5 (v / 8) := by
  let w := t.updMe (onArch (srWritten v))
  have hw : t.updSlot s.cur.core s.cur.slot (fun x => { x with arch := { x.arch with
      sr := BitVec.ofNat 64 (setBits x.arch.sr.toNat 7 0 v) } }) = w := by
    simp only [setBits_low]
    rw [← h.cur]
    rfl
  have hwt : TaskOnly s w := h.updMe _
  have hpart : (w.slot s.cur.core s.cur.slot).part = s.me.part := by
    have : w.slot s.cur.core s.cur.slot = w.me := by rw [State.me, hwt.cur]
    rw [this, State.me_updMe]
    exact hp
  have hacc : (w.core s.cur.core).flagAcc = (t.core s.cur.core).flagAcc := by
    have := State.core_updMe t (onArch (srWritten v))
    rw [h.cur] at this
    exact (congrArg Core.flagAcc this).trans rfl
  have hset : t.setSr s.cur.core s.cur.slot word v =
      .ok (if BitVec.ofNat 5 (v / 8) = 0 then w else w.sumFlags s.cur.core s.me.part (BitVec.ofNat 5 (v / 8))) := by
    unfold State.setSr
    rw [check_passes (decide_eq_true hv), hw, ← hpart]
    rfl
  rw [hset]
  refine ⟨_, rfl, ?_⟩
  by_cases hf : (BitVec.ofNat 5 (v / 8) : Flags) = 0
  · rw [if_pos hf, hf]
    exact ⟨hwt, State.me_updMe _ _, by rw [hacc]; simp⟩
  · rw [if_neg hf]
    refine ⟨hwt.sumFlags _, ?_, ?_⟩
    · rw [← hwt.cur, State.me_sumFlags]
      exact State.me_updMe _ _
    · rw [← hacc, State.sumFlags, State.updCore, State.core_setCore_self]
      exact Sp.at_set_self _ _ _ _

/-! ## GSHARE, ACCOWN, LPCT and PORTCFG -/

section
variable {t : State} {c : Nat} {word : IWord} {v : Nat}

theorem State.setGshare_ok (hv : v % 32 ≤ 16) : t.setGshare c word v = .ok (t.updCore c (fun k => { k with gshare := v % 32 })) := by
  unfold State.setGshare
  rw [check_passes (decide_eq_true hv)]
  rfl

/-- The accumulators whose owner field changes, as fields of four bits, R303. -/
theorem Big.changed_eq (b : Big) (v : Nat) :
    b.changed v = (List.range 16).filter (fun a => b.accown.toNat / 16 ^ a % 16 != v / 16 ^ a % 16) := by
  have hfield : ∀ x a, bits x (4 * a + 3) (4 * a) = x / 16 ^ a % 16 := fun x a => by
    rw [bits, Nat.pow_mul, show 4 * a + 3 + 1 - 4 * a = 4 by omega]
    norm_num
  unfold Big.changed Big.owner
  simp only [hfield]

theorem State.setAccown_ok {l : List Nat} (hl : (t.core c).big.changed v = l)
    (hidle : (t.cmds.any (fun m => m.2.core == c && m.2.running && l.contains m.2.n)) = false) :
    t.setAccown c v = .ok (t.updCore c (fun k => { k with big := { l.foldl Big.zeroAcc k.big with accown := BitVec.ofNat 64 v } })) := by
  subst hl
  unfold State.setAccown
  simp only [hidle, stallIf]
  rfl

theorem State.setLpct_ok (h4 : v % 4 = 0) (hl : isLittle (v % 2 ^ 16 / 4) = true) (he : t.isEasel (v % 2 ^ 16 / 4) = false) :
    t.setLpct c v = .ok (t.updCore c (fun k => { k with lpctLog := v % 2 ^ 16 })) := by
  have hlog : bits v 15 0 = v % 2 ^ 16 := by simp [bits]
  have h4' : (v % 2 ^ 16 % 4 == 0) = true := by simp; omega
  have hrange : check (v % 2 ^ 16 % 4 == 0 && isLittle (v % 2 ^ 16 / 4) && !t.isEasel (v % 2 ^ 16 / 4)) causeRange v = .ok () :=
    check_passes (by rw [h4', hl, he]; rfl) _ _
  simp only [State.setLpct, hlog, hrange]
  rfl

/-- The registers 0x040 to 0x047 are the PORTCFGs, R159. -/
theorem State.setSpecial_port (n : Nat) {q : Nat} (hq : q < 8) :
    t.setSpecial c n (0x040 + q) word v = t.setPortcfg c n q word v := by
  match q, hq with
  | 0, _ | 1, _ | 2, _ | 3, _ | 4, _ | 5, _ | 6, _ | 7, _ => rfl

theorem State.setPortcfg_zero (n q : Nat) : t.setPortcfg c n q word 0 = .ok (t.unbind c n q) := rfl

end

/-! ## SETS of a ready task -/

theorem ActsOn.congr {s : State} {i : Instr} {f f' : Slot → Slot} (h : ActsOn i f s) (hf : f (s.slotIssuing i) = f' (s.slotIssuing i)) :
    ActsOn i f' s := by
  obtain ⟨t, ht, htask, hme⟩ := h
  exact ⟨t, ht, htask, hme.trans hf⟩

section
variable {s : State} {g : BitVec 4} {d : BitVec 6} {n : BitVec 12}

/-- What the checks of R19 and the wait of R303 ask of a SETS. -/
structure SetsAdmitted (g : BitVec 4) (d : BitVec 6) (n : BitVec 12) (s : State) : Prop where
  ready : Ready (.sets g d n) s
  legal : (s.envOf (.sets g d n)).specialLegal n.toNat true = true
  sup : specialSup n.toNat = true → s.me.arch.sup = true
  idle : n.toNat = 0 → s.me.mxc = 0

/-- The register write that a SETS makes. -/
def State.setsWrite (s : State) (g : BitVec 4) (d : BitVec 6) (n : BitVec 12) : Except Exit State :=
  (s.issuing (.sets g d n)).setSpecial s.cur.core s.cur.slot n.toNat ((encode (.sets g d n)).getD 0) (s.sca d)

/-- The body of an admitted SETS is its register's write. -/
theorem SetsAdmitted.body (h : SetsAdmitted g d n s) : ∃ body, exec (.sets g d n) s = s.issue (.sets g d n) body ∧
    body (s.envOf (.sets g d n)) (s.issuing (.sets g d n)) = s.setsWrite g d n := by
  refine ⟨_, exec_sets g d n s, ?_⟩
  have hidle : (s.envOf (.sets g d n)).srReady n.toNat = .ok () := Env.srReady_ok h.idle
  rw [Env.specialCheck_ok h.legal h.sup, hidle]
  rfl

theorem SetsAdmitted.next (h : SetsAdmitted g d n s) {t : State} (ht : s.setsWrite g d n = .ok t) : exec (.sets g d n) s = .next t := by
  obtain ⟨body, he, hb⟩ := h.body
  rw [he, State.issue_ready h.ready, hb, ht]

theorem SetsAdmitted.traps (h : SetsAdmitted g d n s) {code tval : Nat} (ht : s.setsWrite g d n = .error (.trap code tval 0)) :
    TrapsWith (.sets g d n) code tval s := by
  obtain ⟨body, he, hb⟩ := h.body
  exact trapsWith_of h.ready he (hb.trans ht)

theorem SetsAdmitted.actsOn (h : SetsAdmitted g d n s) {f : Slot → Slot}
    (ht : s.setsWrite g d n = .ok ((s.issuing (.sets g d n)).updSlot s.cur.core s.cur.slot f)) : ActsOn (.sets g d n) f s := by
  obtain ⟨body, he, hb⟩ := h.body
  refine actsOn_of h.ready he (hb.trans (ht.trans ?_))
  rw [State.updMe, (taskOnly_issuing s _).cur]

end

/-- Settles O14: each write passes the checks of R19 under its hypotheses (`SetsAdmitted`), and is then the write of its register. -/
theorem specialRegisterWrites : Obligations.SpecialRegisterWrites := by
  intro s g d n h i x c big sup v w
  have onAll : specialBig n.toNat = false → isSpecial n.toNat = true → specialRo n.toNat = false →
      (s.envOf i).specialLegal n.toNat true = true := fun hb hi hr => by simp [Env.specialLegal, hb, hi, hr]
  have onBig : big → isSpecial n.toNat = true → specialRo n.toNat = false → (s.envOf i).specialLegal n.toNat true = true :=
    fun hb hi hr => by
      have : (s.envOf i).big = true := hb
      simp [Env.specialLegal, this, hi, hr]
  have hctxid : ((s.issuing i).slot c s.cur.slot).ctxid = x.ctxid := by rw [State.slot_issuing_self]; rfl
  refine ⟨?_, ?_, ?_, ?_, ?_, ?_, ?_, ?_, ?_, ?_, ?_, ?_, ?_⟩
  · rintro rfl hm hv
    have ha : SetsAdmitted g d 0 s := ⟨h, onAll rfl rfl rfl, nofun, fun _ => hm⟩
    obtain ⟨t, ht, htask, hme, hacc⟩ := State.setSr_ok (taskOnly_issuing s i) (by rw [State.me_issuing]; rfl)
      (word := (encode i).getD 0) hv
    rw [s.core_issuing_part i Core.flagAcc (fun _ _ => rfl)] at hacc
    rw [State.me_issuing] at hme
    exact ⟨t, ha.next ht, htask, hme, hacc⟩
  · rintro rfl hs
    have ha : SetsAdmitted g d 0x020 s := ⟨h, onAll rfl rfl rfl, fun _ => hs, nofun⟩
    refine ha.next (Eq.trans ?_ (congrArg (fun y : Word => Except.ok ((s.issuing i).updCore c
      (fun k => { k with tvec := k.tvec.set y.toNat w }))) hctxid))
    rfl
  · rintro rfl hs
    have ha : SetsAdmitted g d 0x021 s := ⟨h, onAll rfl rfl rfl, fun _ => hs, nofun⟩
    exact ha.actsOn rfl
  · rintro rfl hs
    have ha : SetsAdmitted g d 0x022 s := ⟨h, onAll rfl rfl rfl, fun _ => hs, nofun⟩
    exact ha.actsOn rfl
  · rintro rfl hs hslot
    have ha : SetsAdmitted g d 0x023 s := ⟨h, onAll rfl rfl rfl, fun _ => hs, nofun⟩
    exact (ha.actsOn rfl).congr (congrArg (fun y : Word => ({ s.slotIssuing i with tval := y } : Slot)) (if_neg hslot))
  · rintro rfl hs hslot
    have ha : SetsAdmitted g d 0x023 s := ⟨h, onAll rfl rfl rfl, fun _ => hs, nofun⟩
    exact (ha.actsOn rfl).congr (congrArg (fun y : Word => ({ s.slotIssuing i with tval := y } : Slot)) (if_pos hslot))
  · rintro rfl hs
    have ha : SetsAdmitted g d 0x024 s := ⟨h, onAll rfl rfl rfl, fun _ => hs, nofun⟩
    exact ha.actsOn rfl
  · rintro rfl hb hs hv
    have ha : SetsAdmitted g d 0x030 s := ⟨h, onBig hb rfl rfl, fun _ => hs, nofun⟩
    exact ha.next (State.setGshare_ok hv)
  · rintro rfl hb hs accs hidle
    have ha : SetsAdmitted g d 0x031 s := ⟨h, onBig hb rfl rfl, fun _ => hs, nofun⟩
    refine ha.next (State.setAccown_ok ?_ ?_)
    · rw [s.core_issuing_part i Core.big (fun _ _ => rfl)]
      exact Big.changed_eq _ _
    · rw [s.issuing_part i State.cmds (fun _ _ _ _ => rfl)]
      exact hidle
  · rintro rfl hb hs
    have ha : SetsAdmitted g d 0x032 s := ⟨h, onBig hb rfl rfl, fun _ => hs, nofun⟩
    exact ha.next rfl
  · intro q hq hn hv
    obtain ⟨hi, hb, hr, hs⟩ := isSpecial_port (n := n.toNat) (by omega) (by omega)
    have ha : SetsAdmitted g d n s := ⟨h, onAll hb hi hr, fun hs' => absurd (hs.symm.trans hs') Bool.false_ne_true, fun h0 => by omega⟩
    refine ha.next ?_
    have hv' : s.sca d = 0 := hv
    rw [State.setsWrite, hn, State.setSpecial_port _ hq, hv', State.setPortcfg_zero]
  · rintro rfl hs h4 hl he
    have ha : SetsAdmitted g d 0x050 s := ⟨h, onAll rfl rfl rfl, fun _ => hs, nofun⟩
    exact ha.next (State.setLpct_ok h4 hl ((s.issuing_part i (fun t => t.isEasel (v % 2 ^ 16 / 4)) (fun _ _ _ _ => rfl)).trans he))
  · rintro rfl hs hi hr
    have ha : SetsAdmitted g d 0x060 s := ⟨h, onAll rfl rfl rfl, fun _ => hs, nofun⟩
    obtain ⟨t, ht, hsp⟩ := State.setSpillmap_ok (word := (encode i).getD 0) hi ((s.spillRange_issuing i w).trans hr)
    exact ⟨t, ha.next ht, hsp⟩

/-- Settles O16: each event is the write that the SETS of its register makes. -/
theorem registerWriteEvents : Obligations.RegisterWriteEvents := by
  intro s v q c n
  have hw : BitVec.ofNat 64 v.toNat = v := by simp
  have hnext : ∀ {num : BitVec 12} {t : State}, s.setSpecial s.cur.core s.cur.slot num.toNat ((encode (.sets 7 1 num)).getD 0) v.toNat = .ok t →
      s.writes num v = .next t := fun ht => by
    unfold State.writes
    rw [ht]
  refine ⟨fun hv => ?_, fun hv => ?_, fun hv => ?_, fun hidle => ?_, fun hi hr => ?_, fun h4 hl he => ?_⟩
  · obtain ⟨t, ht, hspec⟩ := State.setSr_ok (TaskOnly.refl s) rfl (word := (encode (.sets 7 1 0)).getD 0) hv
    exact ⟨t, hnext (num := 0) ht, hspec⟩
  · have hq : (0x040 + q.setWidth 12 : BitVec 12).toNat = 0x040 + q.toNat := by
      have := q.isLt
      rw [BitVec.toNat_add, BitVec.toNat_setWidth, show (0x040 : BitVec 12).toNat = 0x040 from rfl]
      omega
    refine hnext ?_
    rw [hq, State.setSpecial_port _ q.isLt, hv]
    rfl
  · exact hnext (num := 0x030) (State.setGshare_ok hv)
  · have hset := State.setAccown_ok (t := s) (c := c) (Big.changed_eq _ _) hidle
    rw [hw] at hset
    exact hnext (num := 0x031) hset
  · obtain ⟨t, ht, hsp⟩ := State.setSpillmap_ok (t := s) (word := (encode (.sets 7 1 0x060)).getD 0) hi (by rw [hw]; exact hr)
    rw [hw] at hsp
    exact ⟨t, hnext (num := 0x060) ht, hsp⟩
  · exact hnext (num := 0x050) (State.setLpct_ok h4 hl he)

end Sys2Proof.Machine
end

section
/-!
The faults of GETS and SETS, R19, R21, R82, R159, R168, R188, R362: those of the register's row first, then those of the value.
-/

namespace Sys2Proof.Machine

/-! ## The rows of R19 -/

theorem isSpecial_eq (n : Nat) : isSpecial n = [0x000, 0x001, 0x010, 0x011, 0x012, 0x013, 0x014, 0x020, 0x021, 0x022, 0x023, 0x024,
    0x030, 0x031, 0x032, 0x040, 0x041, 0x042, 0x043, 0x044, 0x045, 0x046, 0x047, 0x050, 0x060].contains n := by
  rw [Bool.eq_iff_iff]
  simp only [isSpecial, Bool.or_eq_true, Bool.and_eq_true, decide_eq_true_eq, List.contains_eq_mem, List.mem_cons, List.not_mem_nil, or_false]
  omega

theorem isSpecial_of_specialSup {n : Nat} (h : specialSup n = true) : isSpecial n = true := by
  unfold isSpecial
  simp only [specialSup, List.contains_eq_mem, List.mem_cons, List.not_mem_nil, or_false, decide_eq_true_eq] at h
  rcases h with rfl | rfl | rfl | rfl | rfl | rfl | rfl | rfl | rfl | rfl | rfl <;> rfl

/-! ## The faults of the values -/

section
variable {t : State} {c n : Nat} {word : IWord} {v : Nat}

theorem State.setSr_illegal (hv : 4 < v % 8) : t.setSr c n word v = .error (.trap causeIllegal word.toNat 0) := by
  unfold State.setSr
  rw [check_fails (decide_eq_false (Nat.not_le.2 hv))]
  rfl

theorem State.setPortcfg_illegal {q : Nat} (hv : v ≠ 0) : t.setPortcfg c n q word v = .error (.trap causeIllegal word.toNat 0) := by
  unfold State.setPortcfg
  rw [check_fails (by simpa using hv)]
  rfl

theorem State.setGshare_illegal (hv : 16 < v % 32) : t.setGshare c word v = .error (.trap causeIllegal word.toNat 0) := by
  unfold State.setGshare
  rw [check_fails (decide_eq_false (Nat.not_le.2 hv))]
  rfl

theorem State.setSpillmap_illegal (hi : spillIllegal (isBig c) v = true) :
    t.setSpillmap c word v = .error (.trap causeIllegal word.toNat 0) := by
  have hillegal : check (!spillIllegal (isBig c) v) causeIllegal word.toNat = .error (.trap causeIllegal word.toNat 0) :=
    check_fails (by rw [hi]; rfl) _ _
  simp only [State.setSpillmap, hillegal]
  rfl

theorem State.setSpillmap_range (hi : spillIllegal (isBig c) v = false) (hr : t.spillRange c (BitVec.ofNat 64 v) = true) :
    t.setSpillmap c word v = .error (.trap causeRange v 0) := by
  have hillegal : check (!spillIllegal (isBig c) v) causeIllegal word.toNat = .ok () := check_passes (by rw [hi]; rfl) _ _
  have hrange : check (!t.spillRange c (BitVec.ofNat 64 v)) causeRange v = .error (.trap causeRange v 0) :=
    check_fails (by rw [hr]; rfl) _ _
  simp only [State.setSpillmap, hillegal, hrange]
  rfl

theorem State.setLpct_range (h : v % 4 ≠ 0 ∨ isLittle (v % 2 ^ 16 / 4) = false ∨ t.isEasel (v % 2 ^ 16 / 4) = true) :
    t.setLpct c v = .error (.trap causeRange v 0) := by
  have hlog : bits v 15 0 = v % 2 ^ 16 := by simp [bits]
  have hbad : (v % 2 ^ 16 % 4 == 0 && isLittle (v % 2 ^ 16 / 4) && !t.isEasel (v % 2 ^ 16 / 4)) = false := by
    rcases h with h4 | hl | he
    · have : (v % 2 ^ 16 % 4 == 0) = false := by simp; omega
      rw [this]
      rfl
    · rw [hl, Bool.and_false]
      rfl
    · rw [he, Bool.not_true, Bool.and_false]
  have hrange := check_fails hbad causeRange v
  simp only [State.setLpct, hlog, hrange]
  rfl

end

/-! ## The faults of the row -/

section
variable {s : State} {g : BitVec 4} {d : BitVec 6} {n : BitVec 12}

theorem gets_illegal (h : Ready (.gets g d n) s) (hl : (s.envOf (.gets g d n)).specialLegal n.toNat false = false) :
    TrapsWith (.gets g d n) causeIllegal ((encode (.gets g d n)).getD 0).toNat s := by
  refine trapsWith_of h (exec_gets g d n s) ?_
  rw [Env.specialCheck_illegal hl]
  rfl

theorem gets_privilege (h : Ready (.gets g d n) s) (hl : (s.envOf (.gets g d n)).specialLegal n.toNat false = true)
    (hs : specialSup n.toNat = true) (hu : s.me.arch.sup = false) : TrapsWith (.gets g d n) causePrivilege n.toNat s := by
  refine trapsWith_of h (exec_gets g d n s) ?_
  rw [Env.specialCheck_privilege hl hs hu]
  rfl

theorem sets_illegal (h : Ready (.sets g d n) s) (hl : (s.envOf (.sets g d n)).specialLegal n.toNat true = false) :
    TrapsWith (.sets g d n) causeIllegal ((encode (.sets g d n)).getD 0).toNat s := by
  refine trapsWith_of h (exec_sets g d n s) ?_
  rw [Env.specialCheck_illegal hl]
  rfl

theorem sets_privilege (h : Ready (.sets g d n) s) (hl : (s.envOf (.sets g d n)).specialLegal n.toNat true = true)
    (hs : specialSup n.toNat = true) (hu : s.me.arch.sup = false) : TrapsWith (.sets g d n) causePrivilege n.toNat s := by
  refine trapsWith_of h (exec_sets g d n s) ?_
  rw [Env.specialCheck_privilege hl hs hu]
  rfl

end

/-- Settles O15: the faults of the row come from its check (`Env.specialLegal` says which registers pass), those of the value from the
register's write. -/
theorem specialRegisterFaults : Obligations.SpecialRegisterFaults := by
  intro s g d n big ro none_ user illegal v
  have hnone : none_ → isSpecial n.toNat = false := fun h => (isSpecial_eq _).trans h
  have hlegal : ∀ (i : Instr) (write : Bool), ¬ big → isSpecial n.toNat = true → (write = true → ¬ ro) →
      (s.envOf i).specialLegal n.toNat write = true := fun i write hb hi hr => by
    have hbig : ((s.envOf i).big || !specialBig n.toNat) = true := by
      by_cases hB : specialBig n.toNat = true
      · have : (s.envOf i).big = true := Bool.eq_true_of_not_eq_false (fun hf => hb ⟨hB, hf⟩)
        rw [this]
        rfl
      · rw [Bool.eq_false_of_not_eq_true hB, Bool.not_false, Bool.or_true]
    have hro : (write && specialRo n.toNat) = false := by
      cases write with
      | false => rfl
      | true => exact Bool.eq_false_of_not_eq_true (hr rfl)
    simp [Env.specialLegal, hbig, hro, hi]
  have hnot : ∀ (i : Instr) (write : Bool), none_ ∨ big ∨ (write = true ∧ ro) → (s.envOf i).specialLegal n.toNat write = false := by
    rintro i write (h | ⟨hB, hf⟩ | ⟨rfl, hr⟩)
    · simp [Env.specialLegal, hnone h]
    · have hB' : specialBig n.toNat = true := hB
      have : (s.envOf i).big = false := hf
      simp [Env.specialLegal, hB', this]
    · have hr' : specialRo n.toNat = true := hr
      simp [Env.specialLegal, hr']
  have hadmit : Ready (.sets g d n) s → ¬ big → ¬ ro → isSpecial n.toNat = true → ¬ user → (n.toNat = 0 → s.me.mxc = 0) →
      SetsAdmitted g d n s := fun h hb hr hi hu hm =>
    ⟨h, hlegal _ true hb hi (fun _ => hr), fun hs => Bool.eq_true_of_not_eq_false (fun hf => hu ⟨hs, hf⟩), hm⟩
  refine ⟨fun h hor => ?_, fun h hb hu => ?_, fun h hor => ?_, fun h hb hr hu => ?_, ?_, fun h hlo hhi hv => ?_, ?_, ?_, ?_, ?_⟩
  · exact gets_illegal h (hnot _ false (hor.imp_right .inl))
  · exact gets_privilege h (hlegal _ false hb (isSpecial_of_specialSup hu.1) nofun) hu.1 hu.2
  · exact sets_illegal h (hnot _ true (hor.imp_right (Or.imp_right (And.intro rfl))))
  · exact sets_privilege h (hlegal _ true hb (isSpecial_of_specialSup hu.1) (fun _ => hr)) hu.1 hu.2
  · rintro h rfl hm hv
    exact (hadmit h (nofun) nofun rfl nofun (fun _ => hm)).traps (State.setSr_illegal hv)
  · obtain ⟨hi, hB, hR, hS⟩ := isSpecial_port hlo hhi
    have ha := hadmit h (fun hb => absurd (hB.symm.trans hb.1) Bool.false_ne_true) (fun hr => absurd (hR.symm.trans hr) Bool.false_ne_true)
      hi (fun hu => absurd (hS.symm.trans hu.1) Bool.false_ne_true) (fun h0 => by omega)
    obtain ⟨q, hq, hn⟩ : ∃ q, q < 8 ∧ n.toNat = 0x040 + q := ⟨n.toNat - 0x040, by omega, by omega⟩
    refine ha.traps ?_
    rw [State.setsWrite, hn, State.setSpecial_port _ hq]
    exact State.setPortcfg_illegal hv
  · rintro h rfl hb hu hv
    exact (hadmit h hb nofun rfl hu nofun).traps (State.setGshare_illegal hv)
  · rintro h rfl hu hi
    exact (hadmit h nofun nofun rfl hu nofun).traps (State.setSpillmap_illegal hi)
  · rintro h rfl hu hi hr
    exact (hadmit h nofun nofun rfl hu nofun).traps (State.setSpillmap_range hi ((s.spillRange_issuing _ _).trans hr))
  · rintro h rfl hu hv
    refine (hadmit h nofun nofun rfl hu nofun).traps (State.setLpct_range ?_)
    rw [s.issuing_part _ (fun t => t.isEasel (v % 2 ^ 16 / 4)) (fun _ _ _ _ => rfl)]
    exact hv

end Sys2Proof.Machine
end

section
/-!
One step of the machine: the fetch of the task whose turn it is, and what the schedule's next turn is, R28, R39, R40, R74, R185, R204.
-/

namespace Sys2Proof.Machine

/-! ## The fetch -/

/-- The access of a fetch, R28, R190. -/
def fetchReq (a : Arch) : Req := { x := a.pc.toNat, n := 4, align := 4, perms := [.ex], rd := false, ex := true }

/-- The state in which a fetch is checked: what walks answered an earlier instruction is forgotten, R204. -/
def State.fetchFrom (s : State) : State := if s.me.wait.isSome = true then s else s.forget s.myAccess.who

/-- The check of a fetch. -/
def State.fetchCheck (s : State) : Except Nat Place × State :=
  s.fetchFrom.checkAccess s.myAccess s.me.arch.codeTag (Cap.ofBits s.me.arch.code) (fetchReq s.me.arch)

section
variable {s t : State}

/-- What forgetting the answers of walks leaves as it was. -/
theorem State.fetchFrom_part {α : Type} (f : State → α)
    (hf : ∀ (t : State) (w : Sp Walk) (l : List WalkFault), f { t with walks := w, walkFaults := l } = f t) : f s.fetchFrom = f s := by
  unfold State.fetchFrom
  split
  · rfl
  · exact hf s _ _

theorem State.leave_trap (h : s.me.ship = none) (first : Word) (code tval qual : Nat) :
    s.leave first (.trap code tval qual) = .next (s.enterTrap s.cur.core s.cur.slot code tval qual false 0 first) := by
  simp only [State.leave, h, Option.isSome_none, Bool.false_eq_true, if_false]

theorem State.fetchFrom_myAccess (s : State) : s.fetchFrom.myAccess = s.myAccess :=
  State.fetchFrom_part State.myAccess (fun _ _ _ => rfl)

/-- A fetch that its check refuses, R190, R204. -/
theorem State.fetch_refused {code : Nat} (h : s.fetchCheck = (.error code, t)) :
    s.fetch = .error (t.leave s.me.arch.resume (exitOf s.myAccess code s.me.arch.pc.toNat)) := by
  unfold State.fetchCheck fetchReq at h
  simp only [State.fetch, ← State.fetchFrom.eq_1, State.fetchFrom_myAccess, h]
  rfl

/-- A place of local storage is found without a translation, R184. -/
theorem State.checkAccess_local {a : Access} {tag : Bool} {c : Cap} {r : Req} {p : Place} (h : s.checkAccess a tag c r = (.ok p, t))
    (hl : p.isLocal = true) : t = s := by
  unfold State.checkAccess at h
  cases hc : capCheck tag c r.perms r.x r.n with
  | some code => rw [hc] at h; cases h
  | none =>
    rw [hc] at h
    have hplace : ∀ q u, s.placeOf a r = (.ok q, u) → q.isLocal = true → u = s := by
      intro q u hq hloc
      unfold State.placeOf at hq
      dsimp only at hq
      split at hq
      · cases hq
      · split at hq
        · split at hq <;> cases hq
          rfl
        · split at hq
          · cases hq
          · split at hq
            · cases hq
            · next e u' _ =>
              obtain ⟨hp, -⟩ := Prod.mk.inj hq
              unfold State.placeUnder at hp
              split at hp
              · cases hp
                cases hloc
              · cases hp
    generalize s.placeOf a r = y at h hplace
    obtain ⟨x, u⟩ := y
    cases x with
    | error _ => cases h
    | ok q =>
      dsimp only at h
      split at h
      · cases h
      · cases h
        exact hplace _ _ rfl hl

/-- A fetch from local storage is good and reads the word at its place, R185. -/
theorem State.fetchWord_local {p : Place} (h : s.fetchCheck = (.ok p, t)) (hl : p.isLocal = true) (hb : s.badAt p.key 4 = false) :
    s.fetchFrom.badAt p.key 4 = false ∧
      t.fetchWord s.myAccess s.me.arch.pc.toNat p = some (BitVec.ofNat 32 (s.readMem p.key 4), t) := by
  obtain rfl : t = s.fetchFrom := State.checkAccess_local h hl
  have hread : s.fetchFrom.readMem p.key 4 = s.readMem p.key 4 := State.fetchFrom_part (fun t => t.readMem p.key 4) (fun _ _ _ => rfl)
  refine ⟨(State.fetchFrom_part (fun t => t.badAt p.key 4) (fun _ _ _ => rfl)).trans hb, ?_⟩
  rw [State.fetchWord, if_pos hl, hread]

/-- A fetch from local storage reads the word at its place, R185: one that decodes is the instruction. -/
theorem State.fetch_decoded {p : Place} (h : s.fetchCheck = (.ok p, t)) (hl : p.isLocal = true) (hb : s.badAt p.key 4 = false) {i : Instr}
    (hd : decode (BitVec.ofNat 32 (s.readMem p.key 4)) = .ok i) : s.fetch = .ok (i, t) := by
  obtain ⟨hbad, hword⟩ := State.fetchWord_local h hl hb
  unfold State.fetchCheck fetchReq at h
  simp only [State.fetch, ← State.fetchFrom.eq_1, State.fetchFrom_myAccess, h, hbad, hword, hd, Bool.false_eq_true, if_false]

/-- One that decodes to no instruction is illegal, R39. -/
theorem State.fetch_undecoded {p : Place} (h : s.fetchCheck = (.ok p, t)) (hl : p.isLocal = true) (hb : s.badAt p.key 4 = false) {e : Defect}
    (hd : decode (BitVec.ofNat 32 (s.readMem p.key 4)) = .error e) :
    s.fetch = .error (t.leave s.me.arch.resume (.trap causeIllegal (BitVec.ofNat 32 (s.readMem p.key 4)).toNat 0)) := by
  obtain ⟨hbad, hword⟩ := State.fetchWord_local h hl hb
  unfold State.fetchCheck fetchReq at h
  simp only [State.fetch, ← State.fetchFrom.eq_1, State.fetchFrom_myAccess, h, hbad, hword, hd, Bool.false_eq_true, if_false]
  rfl

end

/-! ## The bytes of a word, R28 -/

theorem leNat_four (b0 b1 b2 b3 : Byte) :
    BitVec.ofNat 32 (leNat [b0, b1, b2, b3]) = wordOfBytes b0 b1 b2 b3 ∧ leNat [b0, b1, b2, b3] < 2 ^ 32 := by
  have hle : leNat [b0, b1, b2, b3] = b0.toNat + 2 ^ 8 * (b1.toNat + 2 ^ 8 * (b2.toNat + 2 ^ 8 * b3.toNat)) := by
    simp only [leNat, List.map, packList, Nat.mul_zero, Nat.add_zero, Nat.mod_eq_of_lt (BitVec.isLt _)]
  have h0 := b0.isLt
  have h1 := b1.isLt
  have h2 := b2.isLt
  have h3 := b3.isLt
  have hword : (wordOfBytes b0 b1 b2 b3).toNat = b0.toNat + 2 ^ 8 * (b1.toNat + 2 ^ 8 * (b2.toNat + 2 ^ 8 * b3.toNat)) := by
    have happ : ∀ {n : Nat} (x : BitVec n) (b : Byte), (x ++ b).toNat = x.toNat * 2 ^ 8 + b.toNat := fun x b => by
      rw [BitVec.toNat_append, ← Nat.shiftLeft_add_eq_or_of_lt b.isLt, Nat.shiftLeft_eq]
    simp only [wordOfBytes, happ]
    omega
  rw [hle]
  refine ⟨BitVec.eq_of_toNat_eq ?_, by omega⟩
  rw [hword, BitVec.toNat_ofNat]
  omega

/-- What four bytes of storage decode to is what their word decodes to. -/
theorem decodeBytes_storage (s : State) (k : Nat) :
    (∀ i rest, decodeBytes ((List.range 4).map (fun j => s.byte (k + j))) = .ok (i, rest) → decode (BitVec.ofNat 32 (s.readMem k 4)) = .ok i) ∧
      (∀ e, decodeBytes ((List.range 4).map (fun j => s.byte (k + j))) = .error e → decode (BitVec.ofNat 32 (s.readMem k 4)) = .error e) := by
  have hrange : List.range 4 = [0, 1, 2, 3] := rfl
  simp only [State.readMem, hrange, List.map, leNat_four, decodeBytes]
  cases decode (wordOfBytes (s.byte (k + 0)) (s.byte (k + 1)) (s.byte (k + 2)) (s.byte (k + 3))) with
  | ok j => exact ⟨fun i rest h => congrArg Except.ok (congrArg Prod.fst (Except.ok.inj h)), fun e h => by cases h⟩
  | error d => exact ⟨fun i rest h => (by cases h), fun e h => congrArg Except.error (Except.error.inj h)⟩

/-! ## The schedule -/

section
variable {s : State}

theorem State.plan_task (ha : s.agenda = []) (hb : s.beat = false) (hm : s.mayIssue s.cur.core s.cur.slot = true) (hi : s.issuers ≠ []) :
    s.plan = .task { s with beat := true } := by
  have hidle : ¬ (s.beat = true ∨ s.issuers.isEmpty = true) := by simp [hb, hi]
  unfold State.plan
  split
  · next t r h => rw [ha] at h; cases h
  · rw [if_neg hidle, hb]
    exact if_pos hm

theorem State.plan_due (ha : s.agenda = []) (hb : s.beat = true) {i : Instr} {r : List Instr} (hd : s.due = i :: r) :
    s.plan = .event i { s with beat := false, due := r ++ [i] } := by
  unfold State.plan
  split
  · next t l h => rw [ha] at h; cases h
  · rw [if_pos (.inl hb), hb]
    unfold State.dueTurn
    split
    · next h => exact absurd (hd.symm.trans h) nofun
    · next j l h => cases hd.symm.trans h; rfl

theorem State.plan_event {i : Instr} {r : List Turn} (ha : s.agenda = .event i :: r) : s.plan = .event i { s with agenda := r } := by
  unfold State.plan
  split
  · next t l h => cases ha.symm.trans h; rfl
  · next h => exact absurd (ha.symm.trans h) nofun

theorem State.plan_issue {c n : Nat} {r : List Turn} (ha : s.agenda = .issue c n :: r) (hm : s.mayIssue c n = true) :
    s.plan = .task { s with agenda := r, cur := ⟨c, n⟩ } := by
  unfold State.plan
  split
  · next t l h => cases ha.symm.trans h; exact if_pos hm
  · next h => exact absurd (ha.symm.trans h) nofun

theorem step_event {i : Instr} {t : State} (h : s.plan = .event i t) : step s = elapsed (exec i t) := by
  unfold step
  rw [h]

end

/-- Settles O56: the step is what `State.plan` names; a task's turn is its fetch and then its instruction. -/
theorem stepRunsDecoded : Obligations.StepRunsDecoded := by
  intro s
  refine ⟨fun t hp i u hf => ?_, fun t hp o hf => ?_, ⟨fun htag hship => ?_, fun t hc => ?_, fun p t hc hl hb => ?_⟩,
    State.plan_task, fun ha hb i r hd => step_event (State.plan_due ha hb hd), fun i r ha => step_event (State.plan_event ha),
    fun c n r ha hm => State.plan_issue ha hm, fun t => rfl⟩
  · simp only [step, hp, hf]
  · simp only [step, hp, hf]
  · have hc : s.fetchCheck = (.error causeTag, s.fetchFrom) := by
      unfold State.fetchCheck State.checkAccess
      rw [htag]
      rfl
    have hme : s.fetchFrom.me = s.me := State.fetchFrom_part State.me (fun _ _ _ => rfl)
    have hcur : s.fetchFrom.cur = s.cur := State.fetchFrom_part State.cur (fun _ _ _ => rfl)
    rw [State.fetch_refused hc, show exitOf s.myAccess causeTag s.me.arch.pc.toNat = .trap causeTag s.me.arch.pc.toNat 0 from rfl,
      State.leave_trap (by rw [hme]; exact hship), hcur]
    rfl
  · exact State.fetch_refused hc
  · refine ⟨fun i rest hd => State.fetch_decoded hc hl hb ((decodeBytes_storage s p.key).1 i rest hd), fun e hship hd => ?_⟩
    have ht : t = s.fetchFrom := State.checkAccess_local hc hl
    have hme : t.me = s.me := by rw [ht]; exact State.fetchFrom_part State.me (fun _ _ _ => rfl)
    have hlt : s.readMem p.key 4 < 2 ^ 32 := (leNat_four _ _ _ _).2
    rw [State.fetch_undecoded hc hl hb ((decodeBytes_storage s p.key).2 e hd), State.leave_trap (by rw [hme]; exact hship),
      BitVec.toNat_ofNat, Nat.mod_eq_of_lt hlt]

end Sys2Proof.Machine
end

section
/-!
The events of task creation and of register banks, R26, R122 to R130, R329, R365: the refutation of the statement about them.
-/

namespace Sys2Proof.Machine

/-! ## A bank's storage keys beyond the slots that a core has -/

/-- A slot number that no core has: the storage keys of its bank, 0x2000 times it from the start of space 9 of core 0, lie where the
register view of core 1 stands. -/
def slotBeyond : Nat := 12 * 2 ^ 19

/-- Core 1 runs a task whose v1 is 1, and the bank numbered by `slotBeyond` has been drowsy for long enough to be gated. -/
def gatingBeyond : State :=
  { now := 2 ^ 16 * meshLen,
    cores := [(1, { slots := [(0, { phase := .live, arch := { regs := [(1, { v := 1 })] } })] })],
    banks := [(slotBeyond, { st := .drowsy })] }

/-- Register v1 of slot 0 in the register view of core 1 is a key of that bank. -/
theorem viewKey_eq : localKey 0 9 (0x2000 * slotBeyond) + 0x80 = localKey 1 5 0x80 := by decide

/-- What the event leaves. -/
def gatedBeyond : State := (gatingBeyond.clearBank 0 slotBeyond).setBank 0 slotBeyond { st := .gated }

/-- A drowsy bank that nobody holds is gated, R365. -/
theorem exec_bankGated_gates {s : State} {c n : Nat} (hst : (s.bank c n).st = .drowsy) (hr : (s.bank c n).refresh = false)
    (hfree : (s.slot c n).phase = .free) (hsince : s.endedAt c n + 2 ^ 16 * meshLen ≤ s.now) (hlent : s.bankLent c n = false)
    (hdark : (s.core c).dark = none) (hpart : (s.core c).part = none) :
    exec (.bankGated c n) s = .next ((s.clearBank c n).setBank c n { s.bank c n with st := .gated }) := by
  rw [exec_bankGated, execBankGated]
  refine if_pos ⟨hst, by rw [hr]; rfl, hfree, hsince, by rw [hlent]; rfl, by rw [hdark]; rfl, ?_⟩
  rw [hpart]
  rfl

/-- The first byte of v1 in the register view of a core, R186. -/
theorem State.viewByte_v1 {s : State} {c : Nat} (hfree : (s.slot c 0).phase ≠ .free) (hbank : (s.banks.at (16 * c + 0) {}).st ≠ .gated) :
    s.viewByte c 0x80 = byteOf ((s.slot c 0).committed.reg 1).v.toNat 0 := by
  have hslot : viewSlot 0x80 = 0 := rfl
  have hshown : ((s.slot c 0).phase == .free || (s.banks.at (16 * c + 0) {}).st == .gated) = false := by
    simp only [Bool.or_eq_false_iff, beq_eq_false_iff_ne]
    exact ⟨hfree, hbank⟩
  unfold State.viewByte
  rw [hslot]
  dsimp only
  rw [hshown]
  rfl

/-- Gating the bank clears no register, so the key goes on showing v1. -/
theorem byte_gatedBeyond : gatedBeyond.byte (localKey 1 5 0x80) = 1 := by
  have hkey : keyCore (localKey 1 5 0x80) = 1 ∧ keyOff (localKey 1 5 0x80) = 0x80 := by decide
  have hreg : ((gatedBeyond.slot 1 0).committed.reg 1).v = 1#1024 := rfl
  rw [State.byte, if_pos (by decide), hkey.1, hkey.2, State.viewByte_v1 (by decide) (by decide), hreg, byteOf, BitVec.toNat_one (by decide)]
  rfl

/-- Refutes O44: the statement takes any number as a slot. For one that no core has, the keys of the bank that is gated run into
another core's register view, whose bytes keep showing the registers of the task there. -/
theorem not_taskEvents : ¬ Obligations.TaskEvents := by
  intro h
  obtain ⟨-, -, -, -, -, -, -, -, hgated, -⟩ := h gatingBeyond 0 slotBeyond 0
  obtain ⟨t, ht, -, hzero, -⟩ := hgated rfl rfl rfl (by decide) rfl rfl nofun
  obtain rfl : t = gatedBeyond := Host.Outcome.next.inj (ht.symm.trans (exec_bankGated_gates rfl rfl rfl (by decide) rfl rfl rfl))
  have hz := hzero 0x80 (by decide)
  rw [viewKey_eq, byte_gatedBeyond] at hz
  exact absurd hz (by decide)

end Sys2Proof.Machine
end

section
/-!
Where the memory instructions fault on their operands, R14, R182, R190, R211: what each check answers, and that a ready
instruction whose body begins with a check ends as the check does.
-/

namespace Sys2Proof.Machine

/-! ## What refuses an access before its translation -/

/-- The capability of a register admits an access, R14. -/
def Reg.admits (v : Reg) (r : Req) : Prop :=
  v.tag = true ∧ v.cap.otype = 0 ∧ r.perms.all v.cap.has = true ∧ v.cap.covers r.x r.n = true

/-- The whole access of which this is an element is aligned, R190. -/
def Req.aligned (r : Req) : Prop := (r.x + 2 ^ 64 - r.lead) % r.align = 0

/-- An access through a register faults with a code on its address and capability alone, R14, R182, R190. -/
def Reg.refuses (v : Reg) (r : Req) (code : Nat) : Prop :=
  code = 3 ∧ v.tag = false ∨
  code = 4 ∧ v.tag = true ∧ v.cap.otype ≠ 0 ∨
  code = 5 ∧ v.tag = true ∧ v.cap.otype = 0 ∧ r.perms.all v.cap.has = false ∨
  code = 6 ∧ v.tag = true ∧ v.cap.otype = 0 ∧ r.perms.all v.cap.has = true ∧ v.cap.covers r.x r.n = false ∨
  code = 7 ∧ v.admits r ∧ ¬ r.aligned ∨
  code = 8 ∧ v.admits r ∧ r.aligned ∧ (8 ≤ bits r.x 63 60 ∧ bits r.x 63 60 ≠ 0xE ∨ bits r.x 63 60 < 8 ∧ bits r.x 59 57 ≠ 0)

/-- The form of an address that no access reaches, R182. -/
def badForm (x : Nat) : Prop := bits x 63 60 ≠ 0xE ∧ (bits x 63 60 ≥ 8 ∨ bits x 59 57 ≠ 0)

section
variable {v : Reg} {r : Req} {code : Nat}

theorem Reg.capCheck_admits (h : v.admits r) : capCheck v.tag v.cap r.perms r.x r.n = none := by
  obtain ⟨htag, hseal, hperm, hcover⟩ := h
  simp only [capCheck, htag, hseal, hperm, hcover, Bool.not_true, Bool.false_eq_true, ne_eq, not_true_eq_false, if_false]

theorem capCheck_fault {tag : Bool} {c : Cap} {perms : List Perm} {x n : Nat} (h : capCheck tag c perms x n = some code) : code ≠ notYet := by
  unfold capCheck at h
  (repeat' split at h) <;> cases h <;> decide

/-- Where one access through a capability passes its check, another with the same permissions can fail at the bounds alone. -/
theorem capCheck_other {tag : Bool} {c : Cap} {perms : List Perm} {x n : Nat} (h : capCheck tag c perms x n = none) (y m : Nat) :
    capCheck tag c perms y m = if c.covers y m = true then none else some causeBounds := by
  unfold capCheck at h ⊢
  split at h
  · cases h
  · split at h
    · cases h
    · split at h
      · cases h
      · rename_i htag hseal hperm
        rw [if_neg htag, if_neg hseal, if_neg hperm]
        cases c.covers y m <;> rfl

/-- A refusal is the capability check's, or comes after it from the alignment or the form of the address, R190. -/
theorem Reg.refuses.cases (h : v.refuses r code) : code ≠ notYet ∧
    (capCheck v.tag v.cap r.perms r.x r.n = some code ∨
      v.admits r ∧ (code = causeAlign ∧ ¬ r.aligned ∨ code = causeAccess ∧ r.aligned ∧ badForm r.x)) := by
  rcases h with ⟨rfl, htag⟩ | ⟨rfl, htag, hseal⟩ | ⟨rfl, htag, hseal, hperm⟩ | ⟨rfl, htag, hseal, hperm, hcover⟩ |
    ⟨rfl, hv, hr⟩ | ⟨rfl, hv, hr, hx⟩
  · exact ⟨by decide, .inl (by simp [capCheck, htag, causeTag])⟩
  · exact ⟨by decide, .inl (by rw [capCheck, htag]; exact if_pos hseal)⟩
  · exact ⟨by decide, .inl (by simp only [capCheck, htag, hseal, hperm]; rfl)⟩
  · exact ⟨by decide, .inl (by simp only [capCheck, htag, hseal, hperm, hcover]; rfl)⟩
  · exact ⟨by decide, .inr ⟨hv, .inl ⟨rfl, hr⟩⟩⟩
  · exact ⟨by decide, .inr ⟨hv, .inr ⟨rfl, hr, by unfold badForm; omega⟩⟩⟩

/-- An access that is not aligned has no place, R190. -/
theorem State.placeOf_misaligned (hr : ¬ r.aligned) (t : State) (a : Access) : t.placeOf a r = (.error causeAlign, t) := by
  unfold Req.aligned at hr
  simp only [State.placeOf, ne_eq, hr, not_false_eq_true, if_true]

/-- An address of a form that no access reaches has no place, R182. -/
theorem State.placeOf_badForm (hr : r.aligned) (hx : badForm r.x) (t : State) (a : Access) :
    t.placeOf a r = (.error causeAccess, t) := by
  unfold Req.aligned at hr
  obtain ⟨htop, hform⟩ := hx
  have hfail : bits r.x 63 60 ≥ 8 ∨ bits r.x 59 57 ≠ 0 ∨ r.fe = true := hform.imp_right Or.inl
  unfold State.placeOf
  dsimp only
  rw [if_neg (not_not.2 hr), if_neg htop, if_pos hfail]

/-- An access without a place is refused with what the place was refused with, R190. -/
theorem State.checkAccess_placeOf {t u : State} {a : Access} (hv : capCheck v.tag v.cap r.perms r.x r.n = none) (hp : t.placeOf a r = (.error code, u)) :
    t.checkAccess a v.tag v.cap r = (.error code, u) := by
  unfold State.checkAccess
  rw [hv]
  generalize t.placeOf a r = y at hp
  subst hp
  rfl

/-- A refused access is refused by the checks of R190 in every state. -/
theorem Reg.refuses.checkAccess (h : v.refuses r code) (t : State) (a : Access) :
    t.checkAccess a v.tag v.cap r = (.error code, t) := by
  obtain ⟨-, hcap | ⟨hv, ⟨rfl, hr⟩ | ⟨rfl, hr, hx⟩⟩⟩ := h.cases
  · simp only [State.checkAccess, hcap]
  · exact State.checkAccess_placeOf (Reg.capCheck_admits hv) (State.placeOf_misaligned hr t a)
  · exact State.checkAccess_placeOf (Reg.capCheck_admits hv) (State.placeOf_badForm hr hx t a)

end

/-! ## What the checks of an instruction answer, R211 -/

theorem exitOf_fault {code : Nat} (h : code ≠ notYet) (a : Access) (x : Nat) : exitOf a code x = .trap code x 0 := if_neg h

/-- The access of a lane of a line, under the alignment of the whole, R210. -/
def Req.ofLane (r : Req) (j : Nat) : Req := { r with x := (r.x + 4 * j) % 2 ^ 64, n := 4, lead := 4 * j, align := 128 }

section
variable {v : Reg} {r : Req} {code : Nat} {t : State} {a : Access}

theorem Reg.refuses.checkOne (h : v.refuses r code) (t : State) (a : Access) :
    t.checkOne a v.tag v.cap r = .error (.trap code r.x 0) := by
  unfold State.checkOne
  rw [h.checkAccess]
  exact congrArg Except.error (exitOf_fault h.cases.1 a r.x)

/-- Of a line the first enabled lane is checked first. -/
theorem Reg.refuses.checkLanes {j : Nat} (h : v.refuses (r.ofLane j) code) (rest : List Nat) (t : State) (a : Access) :
    t.checkLanes a v.tag v.cap r (j :: rest) = .error (.trap code (r.ofLane j).x 0) := by
  have hc := h.checkAccess t a
  unfold Req.ofLane at hc
  unfold State.checkLanes
  dsimp only
  rw [hc]
  exact congrArg Except.error (exitOf_fault h.cases.1 a _)

theorem capCheck_of_checkAccess {tag : Bool} {c : Cap} {p : Place} {u : State} (h : t.checkAccess a tag c r = (.ok p, u)) :
    capCheck tag c r.perms r.x r.n = none := by
  unfold State.checkAccess at h
  cases hc : capCheck tag c r.perms r.x r.n with
  | none => rfl
  | some code => rw [hc] at h; cases h

/-- Once the first lane has its place, a later one can fail at the bounds alone, and the first that does is the fault. -/
theorem State.checkLanes_bounds {u : State} {p : Place} {j k : Nat} {before after : List Nat}
    (hfirst : t.checkAccess a v.tag v.cap (r.ofLane j) = (.ok p, u))
    (hbefore : ∀ q ∈ before, v.cap.covers ((r.x + 4 * q) % 2 ^ 64) 4 = true) (hk : v.cap.covers ((r.x + 4 * k) % 2 ^ 64) 4 = false) :
    t.checkLanes a v.tag v.cap r (j :: (before ++ k :: after)) = .error (.trap causeBounds ((r.x + 4 * k) % 2 ^ 64) 0) := by
  have hcap : ∀ q, capCheck v.tag v.cap r.perms ((r.x + 4 * q) % 2 ^ 64) 4 =
      if v.cap.covers ((r.x + 4 * q) % 2 ^ 64) 4 = true then none else some causeBounds :=
    fun q => capCheck_other (capCheck_of_checkAccess hfirst) _ 4
  have hbounds : capCheck v.tag v.cap r.perms ((r.x + 4 * k) % 2 ^ 64) 4 = some causeBounds := by
    rw [hcap, hk]
    rfl
  have hfind : (before ++ k :: after).find? (fun q => (capCheck v.tag v.cap r.perms ((r.x + 4 * q) % 2 ^ 64) 4).isSome) = some k := by
    rw [List.find?_append, List.find?_eq_none.2, List.find?_cons_of_pos, Option.none_or]
    · rw [hbounds]; rfl
    · intro q hq
      rw [hcap, hbefore q hq]
      exact Bool.false_ne_true
  unfold Req.ofLane at hfirst
  unfold State.checkLanes
  dsimp only
  rw [hfirst]
  dsimp only
  rw [hfind]
  dsimp only
  rw [hbounds]
  rfl

/-- Elements are checked in order: behind those that pass, the first refused one is the fault, R211. -/
theorem Reg.refuses.checkAll (h : v.refuses r code) (f : Place → Elem) (after : List (Req × (Place → Elem))) :
    ∀ {before : List (Req × (Place → Elem))} {t u : State} {els : List Elem}, t.checkAll a v.tag v.cap before = .ok (els, u) →
      t.checkAll a v.tag v.cap (before ++ (r, f) :: after) = .error (.trap code r.x 0)
  | [], t, _, _, _ => by
    rw [List.nil_append, State.checkAll, h.checkAccess]
    exact congrArg Except.error (exitOf_fault h.cases.1 a r.x)
  | (q, g) :: before, t, u, els, hb => by
    unfold State.checkAll at hb
    rw [List.cons_append, State.checkAll]
    generalize t.checkAccess a v.tag v.cap q = y at hb ⊢
    obtain ⟨_ | p, t1⟩ := y
    · cases hb
    · dsimp only at hb ⊢
      cases hrest : t1.checkAll a v.tag v.cap before with
      | error e => rw [hrest] at hb; cases hb
      | ok y =>
        rw [Reg.refuses.checkAll h f after (hrest.trans rfl)]
        rfl

/-- How the checks of some elements end depends on the accesses alone, not on what the elements do. -/
theorem State.checkAll_exit {tag : Bool} {c : Cap} {e : Exit} :
    ∀ {l l' : List (Req × (Place → Elem))}, l.map Prod.fst = l'.map Prod.fst → ∀ {t : State},
      t.checkAll a tag c l = .error e → t.checkAll a tag c l' = .error e
  | [], _, _, t, h => by cases h
  | (q, g) :: l, [], hl, t, h => by cases hl
  | (q, g) :: l, (q', g') :: l', hl, t, h => by
    obtain ⟨hq, htail⟩ := List.cons.inj hl
    obtain rfl : q = q' := hq
    unfold State.checkAll at h ⊢
    generalize t.checkAccess a tag c q = y at h ⊢
    obtain ⟨code | p, t1⟩ := y
    · exact h
    · dsimp only at h ⊢
      cases hrest : t1.checkAll a tag c l with
      | ok y => rw [hrest] at h; cases h
      | error e' =>
        rw [hrest] at h
        rw [State.checkAll_exit htail hrest]
        exact h

end

/-! ## An instruction that begins with a check -/

/-- How an instruction ends for an exit of its checks: a fault with nothing done, or a wait with a request for a walk. -/
def EndsWith (i : Instr) (s : State) (e : Exit) : Prop :=
  (∀ code x, e = .trap code x 0 → TrapsWith i code x s) ∧
  (∀ x, e = .walk s.myAccess x → exec i s = .next ((s.wantWalk s.myAccess x).updMe (fun y => y.stalls .walk s.now)))

/-- The body of an instruction begins with a check. -/
def BeginsWith {β : Type} (i : Instr) (s : State) (x : Except Exit β) : Prop :=
  ∃ (body : Env → State → Except Exit State) (k : β → Except Exit State),
    exec i s = s.issue i body ∧ body (s.envOf i) (s.issuing i) = x >>= k

section
variable {i : Instr} {s : State} {e : Exit}

theorem next_of {t : State} (h : Ready i s) {body : Env → State → Except Exit State} (he : exec i s = s.issue i body)
    (hb : body (s.envOf i) (s.issuing i) = .ok t) : exec i s = .next t := by
  rw [he, State.issue_ready h, hb]

theorem endsWith_of (h : Ready i s) {body : Env → State → Except Exit State} (he : exec i s = s.issue i body)
    (hb : body (s.envOf i) (s.issuing i) = .error e) : EndsWith i s e := by
  refine ⟨?_, ?_⟩
  · rintro code x rfl
    exact trapsWith_of h he hb
  · rintro x rfl
    rw [he, State.issue_ready h, hb]
    rfl

theorem BeginsWith.ends {β : Type} {x : Except Exit β} (hb : BeginsWith i s x) (h : Ready i s) (hx : x = .error e) : EndsWith i s e := by
  obtain ⟨body, k, he, hbody⟩ := hb
  subst hx
  exact endsWith_of h he hbody

theorem BeginsWith.traps {β : Type} {x : Except Exit β} (hb : BeginsWith i s x) (h : Ready i s) {code y : Nat}
    (hx : x = .error (.trap code y 0)) : TrapsWith i code y s :=
  (hb.ends h hx).1 code y rfl

/-- What begins with a sequence begins with its first part. -/
theorem BeginsWith.head {α β : Type} {y : Except Exit β} {x : Except Exit α} {f : α → Except Exit β} (hb : BeginsWith i s y)
    (hy : y = x >>= f) : BeginsWith i s x := by
  obtain ⟨body, k, he, hbody⟩ := hb
  subst hy
  exact ⟨body, fun y => f y >>= k, he, hbody.trans (bind_assoc x f k)⟩

end

/-! ## The faults of one access, of a line and of some elements, R211 -/

/-- The enabled lanes of a line, R210. -/
def State.line (s : State) (g : BitVec 4) : List Nat := (List.range 32).filter (enabled (s.mask g) 32)

/-- How an instruction of one access faults. -/
def OneFaults (i : Instr) (s : State) (v : Reg) (r : Req) : Prop :=
  Ready i s → (∀ code, v.refuses r code → TrapsWith i code r.x s) ∧
    ∀ e, (s.issuing i).checkOne s.myAccess v.tag v.cap r = .error e → EndsWith i s e

/-- How an instruction of a line faults: its first enabled lane is checked in full and the later ones at the bounds. -/
def LanesFault (i : Instr) (s : State) (v : Reg) (line : List Nat) (r : Req) : Prop :=
  Ready i s → ∀ j rest, line = j :: rest →
    (∀ code, v.refuses (r.ofLane j) code → TrapsWith i code (r.ofLane j).x s) ∧
    (∀ k before after p u, rest = before ++ k :: after → (s.issuing i).checkAccess s.myAccess v.tag v.cap (r.ofLane j) = (.ok p, u) →
      (∀ q ∈ before, v.cap.covers ((r.x + 4 * q) % 2 ^ 64) 4 = true) → v.cap.covers ((r.x + 4 * k) % 2 ^ 64) 4 = false →
      TrapsWith i 6 ((r.x + 4 * k) % 2 ^ 64) s) ∧
    (∀ e, (s.issuing i).checkLanes s.myAccess v.tag v.cap r line = .error e → EndsWith i s e)

/-- How an instruction of several elements faults. -/
def EachFaults (i : Instr) (s : State) (v : Reg) (l : List (Req × (Place → Elem))) : Prop :=
  Ready i s →
    (∀ code before r f after els u, l = before ++ (r, f) :: after →
      (s.issuing i).checkAll s.myAccess v.tag v.cap before = .ok (els, u) → v.refuses r code → TrapsWith i code r.x s) ∧
    ∀ e, (s.issuing i).checkAll s.myAccess v.tag v.cap l = .error e → EndsWith i s e

section
variable {i : Instr} {s : State} {v : Reg} {r : Req}

theorem oneFaults_of (hb : BeginsWith i s ((s.issuing i).checkOne (s.issuing i).myAccess v.tag v.cap r)) : OneFaults i s v r := by
  intro h
  rw [s.myAccess_issuing i] at hb
  exact ⟨fun code hr => hb.traps h (hr.checkOne _ _), fun e he => hb.ends h he⟩

theorem lanesFault_of {line : List Nat}
    (hb : BeginsWith i s ((s.issuing i).checkLanes (s.issuing i).myAccess v.tag v.cap r line)) : LanesFault i s v line r := by
  intro h j rest hl
  rw [s.myAccess_issuing i] at hb
  refine ⟨fun code hr => ?_, fun k before after p u hrest hfirst hbefore hk => ?_, fun e he => hb.ends h he⟩
  · subst hl
    exact hb.traps h (hr.checkLanes rest _ _)
  · subst hl hrest
    exact hb.traps h (State.checkLanes_bounds hfirst hbefore hk)

theorem eachFaults_of {l l' : List (Req × (Place → Elem))} (hl : l.map Prod.fst = l'.map Prod.fst)
    (hb : BeginsWith i s ((s.issuing i).checkAll (s.issuing i).myAccess v.tag v.cap l')) : EachFaults i s v l := by
  intro h
  rw [s.myAccess_issuing i] at hb
  refine ⟨fun code before r f after els u heq hbefore hr => ?_, fun e he => hb.ends h (State.checkAll_exit hl he)⟩
  refine hb.traps h (State.checkAll_exit hl ?_)
  rw [heq]
  exact hr.checkAll f after hbefore

end

/-! ## Loads, stores and atomics -/

section
variable (s : State) (g : BitVec 4) (d a b o : BitVec 6) (z t : BitVec 3)

/-- The register that holds the capability of an access. -/
def State.base (s : State) (a : BitVec 6) : Reg := s.me.arch.reg a.toNat

/-- The address of format M, R209. -/
def State.addrM (s : State) (a o : BitVec 6) (n : Nat) : Nat := ((s.base a).cap.addr.toNat + immNat s.me.arch.pfx 6 o.toNat * n) % 2 ^ 64

theorem ldx_faults : OneFaults (.ldx g d a o z) s (s.base a) { loadReq (s.addrM a o (2 ^ z.toNat)) (2 ^ z.toNat) with counter := z == 3 } :=
  oneFaults_of ⟨_, _, exec_ldx g d a o z s, rfl⟩

theorem stx_faults : OneFaults (.stx g d a o z) s (s.base a)
    { storeReq (s.addrM a o (2 ^ z.toNat)) (2 ^ z.toNat) with
      keepTag := z == 4 && ((s.base d).tag && (s.base a).cap.has .cst), counter := z == 3 } := by
  rw [← Bool.and_assoc]
  exact oneFaults_of ⟨_, _, exec_stx g d a o z s, rfl⟩

theorem ldv_faults : LanesFault (.ldv g d a o) s (s.base a) (s.line g) (loadReq (s.addrM a o 128) 128) :=
  lanesFault_of ⟨_, _, exec_ldv g d a o s, rfl⟩

theorem stv_faults : LanesFault (.stv g d a o) s (s.base a) (s.line g) (storeReq (s.addrM a o 128) 128) :=
  lanesFault_of ⟨_, _, exec_stv g d a o s, rfl⟩

theorem atom32_faults : OneFaults (.atom32 g d a b t) s (s.base a) (rmwReq (s.base a).cap.addr.toNat 4) :=
  oneFaults_of ⟨_, _, exec_atom32 g d a b t s, rfl⟩

theorem atom64_faults : OneFaults (.atom64 g d a b t) s (s.base a) { rmwReq (s.base a).cap.addr.toNat 8 with counter := true } :=
  oneFaults_of ⟨_, _, exec_atom64 g d a b t s, rfl⟩

/-- XATOM, but for the CAS128 of a little core, which is shipped, R237. -/
theorem xatom_faults (h : ¬ (t = 4 ∧ isBig s.cur.core = false)) : OneFaults (.xatom g d a b t) s (s.base a)
    { rmwReq (s.base a).cap.addr.toNat (xatomBytes t.toNat) with
      keepTag := t == 4 && ((s.base d).tag && (s.base a).cap.has .cst), counter := t == 1 || t == 3 || t == 7 } := by
  rw [← Bool.and_assoc]
  have hhere : ¬ (t = 4 ∧ (!(s.envOf (.xatom g d a b t)).big) = true) := by
    rintro ⟨ht, hb⟩
    exact h ⟨ht, (Bool.not_eq_true' _).mp hb⟩
  exact oneFaults_of ⟨_, _, exec_xatom g d a b t s, (if_neg hhere).trans rfl⟩

end

/-! ## Gathers and scatters, R217 -/

section
variable (s : State) (g : BitVec 4) (d a b : BitVec 6) (t : BitVec 3)

/-- The enabled elements of a gather or scatter with their addresses, R217. -/
def State.gathered (s : State) (g : BitVec 4) (a b : BitVec 6) (w : Nat) (signed : Bool) : List (Nat × Nat) :=
  ((List.range (1024 / w)).filter (enabled (s.mask g) w)).map (fun j =>
    (j, (((s.base a).cap.addr.toNat + readInt signed w (elem (s.vec b) w j) * ((w / 8 : Nat) : Int)) % 2 ^ 64).toNat))

theorem wrap_word (x : Int) : wrap x 64 = (x % 2 ^ 64).toNat := by
  unfold wrap
  norm_cast

theorem State.gatherAddrs_envOf {i : Instr} (hg : (i.guard?).getD 7 = g) (w : Nat) (signed : Bool) :
    (s.envOf i).gatherAddrs a b w signed = s.gathered g a b w signed := by
  subst hg
  exact List.map_congr_left (fun j _ => congrArg (Prod.mk j) (wrap_word _))

/-- The accesses of some elements with what each does there. -/
def accesses (req : Nat → Req) (act : Nat × Nat → Act) (l : List (Nat × Nat)) : List (Req × (Place → Elem)) :=
  l.map (fun j => (req j.2, fun p => p.elem (req j.2) j.1 (act j) false))

theorem accesses_reqs (req : Nat → Req) (act act' : Nat × Nat → Act) (l : List (Nat × Nat)) :
    (accesses req act l).map Prod.fst = (accesses req act' l).map Prod.fst := by
  unfold accesses
  rw [List.map_map, List.map_map]
  rfl

/-- An instruction that begins with the checks of elements, whatever the elements do, faults at the first that is refused. -/
theorem eachFaults_accesses {i : Instr} (hg : (i.guard?).getD 7 = g) {w : Nat} {signed : Bool} {req : Nat → Req} {act : Nat × Nat → Act}
    (hb : BeginsWith i s ((s.issuing i).checkAll (s.issuing i).myAccess (s.base a).tag (s.base a).cap
      (accesses req act ((s.envOf i).gatherAddrs a b w signed)))) (act' : Nat × Nat → Act) :
    EachFaults i s (s.base a) (accesses req act' (s.gathered g a b w signed)) := by
  rw [s.gatherAddrs_envOf g a b hg] at hb
  exact eachFaults_of (accesses_reqs req act' act _) hb

theorem gath_faults : EachFaults (.gath g d a b t) s (s.base a)
    (accesses (fun x => loadReq x (gathWidth t / 8)) (fun _ => .read) (s.gathered g a b (gathWidth t) (gathSigned t))) :=
  eachFaults_accesses s g a b rfl ⟨_, _, exec_gath g d a b t s, rfl⟩ _

theorem scat_faults : EachFaults (.scat g d a b t) s (s.base a)
    (accesses (fun x => storeReq x (gathWidth t / 8)) (fun j => .write (2 ^ (gathWidth t / 8) - 1) (elem (s.vec d) (gathWidth t) j.1) false)
      (s.gathered g a b (gathWidth t) (gathSigned t))) :=
  eachFaults_accesses s g a b rfl ⟨_, _, exec_scat g d a b t s, rfl⟩ _

theorem scatadd_faults (f : Nat × Nat → Rmw) : EachFaults (.scatadd g d a b t) s (s.base a)
    (accesses (fun x => rmwReq x (scataddWidth t.toNat / 8)) (fun j => .rmw (f j))
      (s.gathered g a b (scataddWidth t.toNat) (t != 1))) :=
  eachFaults_accesses s g a b rfl ⟨_, _, exec_scatadd g d a b t s, rfl⟩ _

end

/-! ## Full/empty accesses, R222 -/

section
variable (s : State) (g : BitVec 4) (d a o : BitVec 6) (z : BitVec 3)

/-- A full/empty instruction of a scalar faults as one access, one of size v as a line, R211, R222. -/
def FeFaults (z : BitVec 3) (i : Instr) (s : State) (v : Reg) (line : List Nat) (r : Req) : Prop :=
  if z = 5 then LanesFault i s v line r else OneFaults i s v r

theorem feFaults_of {i : Instr} {x : Nat} {load queue : Bool} {act : Act} (hg : (i.guard?).getD 7 = g)
    (hb : BeginsWith i s ((s.issuing i).feElem (s.envOf i) a x z load queue act)) :
    FeFaults z i s (s.base a) (s.line g)
      { (if load then loadReq x (feSize z) else storeReq x (feSize z)) with fe := true, queue := queue && z == 3 } := by
  subst hg
  unfold FeFaults
  unfold State.feElem at hb
  by_cases hz : z = 5
  · dsimp only at hb
    rw [if_pos hz] at hb ⊢
    exact lanesFault_of (hb.head rfl)
  · dsimp only at hb
    rw [if_neg hz] at hb ⊢
    exact oneFaults_of (hb.head rfl)

theorem ldfe_faults : FeFaults z (.ldfe g d a o z) s (s.base a) (s.line g)
    { loadReq (s.addrM a o (feSize z)) (feSize z) with fe := true, queue := z == 3 } :=
  feFaults_of (load := true) (queue := true) s g a z rfl ⟨_, _, exec_ldfe g d a o z s, rfl⟩

theorem stfe_faults : FeFaults z (.stfe g d a o z) s (s.base a) (s.line g)
    { storeReq (s.addrM a o (feSize z)) (feSize z) with fe := true, queue := z == 3 } :=
  feFaults_of (load := false) (queue := true) s g a z rfl ⟨_, _, exec_stfe g d a o z s, rfl⟩

theorem feopLdf_faults : FeFaults z (.feopLdf g d a z) s (s.base a) (s.line g)
    { loadReq (s.base a).cap.addr.toNat (feSize z) with fe := true } :=
  feFaults_of (load := true) (queue := false) s g a z rfl ⟨_, _, exec_feopLdf g d a z s, rfl⟩

theorem feopStf_faults : FeFaults z (.feopStf g d a z) s (s.base a) (s.line g)
    { storeReq (s.base a).cap.addr.toNat (feSize z) with fe := true } :=
  feFaults_of (load := false) (queue := false) s g a z rfl ⟨_, _, exec_feopStf g d a z s, rfl⟩

theorem feopSete_faults : FeFaults z (.feopSete g a z) s (s.base a) (s.line g)
    { storeReq (s.base a).cap.addr.toNat (feSize z) with fe := true } :=
  feFaults_of (load := false) (queue := false) s g a z rfl ⟨_, _, exec_feopSete g a z s, rfl⟩

theorem feopSetf_faults : FeFaults z (.feopSetf g a z) s (s.base a) (s.line g)
    { storeReq (s.base a).cap.addr.toNat (feSize z) with fe := true } :=
  feFaults_of (load := false) (queue := false) s g a z rfl ⟨_, _, exec_feopSetf g a z s, rfl⟩

theorem feopQtag_faults : LanesFault (.feopQtag g d a) s (s.base a) (s.line g)
    { loadReq (s.base a).cap.addr.toNat 128 with fe := true } :=
  feFaults_of (load := true) (queue := false) s g a 5 rfl ⟨_, _, exec_feopQtag g d a s, rfl⟩

end

/-! ## Tickets, R225 -/

/-- The checks of LDT, R226: those of one access, and that it is to a virtual address. -/
def State.checkTicketLoad (t : State) (v : Reg) (r : Req) : Except Exit (Place × State) :=
  match capCheck v.tag v.cap r.perms r.x r.n with
  | some code => faultAt code r.x
  | none => do
    check (r.x % r.align == 0) causeAlign r.x
    check (decide (bits r.x 63 60 < 8)) causeAccess r.x
    t.checkOne t.myAccess v.tag v.cap r

/-- The alignment of a whole access at a power of two up to an address space. -/
theorem Req.aligned_iff {r : Req} (hl : r.lead = 0) (ha : r.align ∣ 2 ^ 64) : r.aligned ↔ r.x % r.align = 0 := by
  unfold Req.aligned
  rw [hl, Nat.sub_zero, Nat.add_mod, Nat.mod_eq_zero_of_dvd ha, Nat.add_zero, Nat.mod_mod]

section
variable {t : State} {v : Reg} {r : Req} {code : Nat}

theorem State.checkTicketLoad_far (hv : v.admits r) (hr : r.x % r.align = 0) (hx : 8 ≤ bits r.x 63 60) :
    t.checkTicketLoad v r = .error (.trap causeAccess r.x 0) := by
  unfold State.checkTicketLoad
  rw [Reg.capCheck_admits hv]
  dsimp only
  rw [check_passes (beq_iff_eq.2 hr), check_fails (decide_eq_false (Nat.not_lt.2 hx))]
  rfl

theorem State.checkTicketLoad_refused (hl : r.lead = 0) (ha : r.align ∣ 2 ^ 64) (h : v.refuses r code) :
    t.checkTicketLoad v r = .error (.trap code r.x 0) := by
  obtain ⟨-, hcap | ⟨hv, ⟨rfl, hr⟩ | ⟨rfl, hr, hx⟩⟩⟩ := h.cases
  · unfold State.checkTicketLoad
    rw [hcap]
    rfl
  · rw [Req.aligned_iff hl ha] at hr
    unfold State.checkTicketLoad
    rw [Reg.capCheck_admits hv]
    dsimp only
    rw [check_fails (beq_eq_false_iff_ne.2 hr)]
    rfl
  · rw [Req.aligned_iff hl ha] at hr
    by_cases hfar : 8 ≤ bits r.x 63 60
    · exact State.checkTicketLoad_far hv hr hfar
    · unfold State.checkTicketLoad
      rw [Reg.capCheck_admits hv]
      dsimp only
      rw [check_passes (beq_iff_eq.2 hr), check_passes (decide_eq_true (Nat.lt_of_not_le hfar)), h.checkOne]
      rfl

/-- To a virtual address LDT fails as one access does. -/
theorem State.checkTicketLoad_near (hl : r.lead = 0) (ha : r.align ∣ 2 ^ 64) (hx : bits r.x 63 60 < 8) {e : Exit}
    (h : t.checkOne t.myAccess v.tag v.cap r = .error e) : t.checkTicketLoad v r = .error e := by
  have hrefused : ∀ c, t.checkAccess t.myAccess v.tag v.cap r = (.error c, t) → e = exitOf t.myAccess c r.x := by
    intro c hc
    unfold State.checkOne at h
    rw [hc] at h
    exact (Except.error.inj h).symm
  unfold State.checkTicketLoad
  cases hcap : capCheck v.tag v.cap r.perms r.x r.n with
  | some c =>
    rw [hrefused c (by simp only [State.checkAccess, hcap]), exitOf_fault (capCheck_fault hcap)]
    rfl
  | none =>
    by_cases hr : r.x % r.align = 0
    · dsimp only
      rw [check_passes (beq_iff_eq.2 hr), check_passes (decide_eq_true hx)]
      exact h
    · have hplace := State.placeOf_misaligned (mt (Req.aligned_iff hl ha).1 hr) t t.myAccess
      rw [hrefused causeAlign (State.checkAccess_placeOf hcap hplace), exitOf_fault (by decide)]
      dsimp only
      rw [check_fails (beq_eq_false_iff_ne.2 hr)]
      rfl

end

section
variable (s : State) (g : BitVec 4) (d a b o : BitVec 6) (z t : BitVec 3)

/-- The access of LDT, R226. -/
def State.ldtReq (s : State) (a o : BitVec 6) (n : Nat) : Req := { loadReq (s.addrM a o (16 * n)) (16 * n) with perms := [.ld, .tkt] }

theorem ldt_begins : BeginsWith (.ldt g d a o z) s ((s.issuing (.ldt g d a o z)).checkTicketLoad (s.base a) (s.ldtReq a o (2 ^ z.toNat))) := by
  refine ⟨_, fun y => do
    let (id, t) ← y.2.enterOp { (s.envOf (.ldt g d a o z)).op y.2 true false with
      kind := .ticketAlloc z.toNat, elems := [y.1.elem (s.ldtReq a o (2 ^ z.toNat)) 0 .read false], ret := .ticket d.toNat } [.reg d.toNat]
    .ok (t.push (.ticketAllocation id)), exec_ldt g d a o z s, ?_⟩
  have hcap : capCheck ((s.envOf (.ldt g d a o z)).tag a) ((s.envOf (.ldt g d a o z)).c a) [.ld, .tkt]
      ((s.envOf (.ldt g d a o z)).addrM a o (16 * sizeOf z)) (16 * sizeOf z) =
    capCheck (s.base a).tag (s.base a).cap (s.ldtReq a o (2 ^ z.toNat)).perms (s.ldtReq a o (2 ^ z.toNat)).x (s.ldtReq a o (2 ^ z.toNat)).n := rfl
  unfold State.checkTicketLoad
  dsimp only
  rw [hcap]
  generalize capCheck (s.base a).tag (s.base a).cap _ _ _ = y
  cases y with
  | some code => rfl
  | none =>
    simp only [bind_assoc]
    rfl

/-- LDT faults as one access, and on an address that is not virtual, R226. -/
theorem ldt_faults (h : Ready (.ldt g d a o z) s) :
    let i := Instr.ldt g d a o z
    let v := s.base a
    let r := s.ldtReq a o (2 ^ z.toNat)
    (∀ code, v.refuses r code → TrapsWith i code r.x s) ∧ (v.admits r → r.aligned → 8 ≤ bits r.x 63 60 → TrapsWith i 8 r.x s) ∧
      (bits r.x 63 60 < 8 → ∀ e, (s.issuing i).checkOne s.myAccess v.tag v.cap r = .error e → EndsWith i s e) := by
  intro i v r
  have hb := ldt_begins s g d a o z
  have hpow : r.align ∣ 2 ^ 64 := by
    have hz : r.align = 2 ^ (4 + z.toNat) := (pow_add 2 4 z.toNat).symm
    rw [hz]
    exact pow_dvd_pow 2 (by omega)
  refine ⟨fun code hr => hb.traps h (State.checkTicketLoad_refused rfl hpow hr), fun hv hr hx => hb.traps h ?_, fun hx e he => hb.ends h ?_⟩
  · exact State.checkTicketLoad_far hv ((Req.aligned_iff rfl hpow).1 hr) hx
  · rw [← s.myAccess_issuing i] at he
    exact State.checkTicketLoad_near rfl hpow hx he

/-- What a ticket operation checks, R228. -/
theorem ticket_faults {i : Instr} (hb : BeginsWith i s ((s.issuing i).checkTicket (s.base a))) (h : Ready i s) :
    let v := s.base a
    let x := v.cap.addr.toNat
    (v.tag = false → TrapsWith i 3 x s) ∧
    (v.tag = true → v.cap.otype ≠ 1 → TrapsWith i 4 x s) ∧
    (v.tag = true → v.cap.otype = 1 → v.cap.has .tkt = false → TrapsWith i 5 x s) ∧
    (v.tag = true → v.cap.otype = 1 → v.cap.has .tkt = true → bits x 59 50 ≠ s.table.devnum → TrapsWith i 8 x s) := by
  have htable : (s.issuing i).table = s.table := s.issuing_part i State.table (fun _ _ _ _ => rfl)
  unfold State.checkTicket at hb
  dsimp only at hb ⊢
  rw [htable] at hb
  refine ⟨fun htag => hb.traps h ?_, fun htag hseal => hb.traps h ?_, fun htag hseal hperm => hb.traps h ?_,
    fun htag hseal hperm hdev => hb.traps h ?_⟩
  · rw [check_fails htag]
    rfl
  · rw [check_passes htag, check_fails (beq_eq_false_iff_ne.2 hseal)]
    rfl
  · rw [check_passes htag, check_passes (beq_iff_eq.2 hseal), check_fails hperm]
    rfl
  · rw [check_passes htag, check_passes (beq_iff_eq.2 hseal), check_passes hperm, check_fails (beq_eq_false_iff_ne.2 hdev)]
    rfl

theorem ticket_begins : ∀ i ∈ [Instr.rdm g d a, .rdmS g d a b, .tkrel g a], BeginsWith i s ((s.issuing i).checkTicket (s.base a)) := by
  intro i hi
  rcases List.mem_cons.1 hi with rfl | hi
  · exact ⟨_, _, exec_rdm g d a s, rfl⟩
  · rcases List.mem_cons.1 hi with rfl | hi
    · exact ⟨_, _, exec_rdmS g d a b s, rfl⟩
    · obtain rfl := List.mem_singleton.1 hi
      exact ⟨_, _, exec_tkrel g a s, rfl⟩

end

/-! ## GATHP, R219 -/

/-- The first of a list that has an answer gives it. -/
theorem findSome?_first {α β : Type} {f : α → Option β} {before after : List α} {x : α} {y : β} (hbefore : ∀ q ∈ before, f q = none)
    (hx : f x = some y) : (before ++ x :: after).findSome? f = some y := by
  rw [List.findSome?_append, List.findSome?_eq_none_iff.2 hbefore, List.findSome?_cons, hx]
  rfl

/-- The checks of a GATHP lane refuse what those of one access refuse before its translation, R219 step 1. -/
theorem Reg.refuses.gathpCheck {v : Reg} {r : Req} {code : Nat} (h : v.refuses r code) (hl : r.lead = 0) (ha : r.align ∣ 2 ^ 64)
    (t : State) (a : Access) : t.gathpCheck a v.tag v.cap r = some code := by
  unfold State.gathpCheck
  obtain ⟨-, hcap | ⟨hv, ⟨rfl, hr⟩ | ⟨rfl, hr, hx⟩⟩⟩ := h.cases
  · rw [hcap]
  · rw [Req.aligned_iff hl ha] at hr
    rw [Reg.capCheck_admits hv]
    exact if_pos hr
  · rw [Req.aligned_iff hl ha] at hr
    rw [Reg.capCheck_admits hv]
    dsimp only
    rw [if_neg (not_not.2 hr), if_neg hx.1, if_pos hx.2]

section
variable (s : State) (g : BitVec 4) (d a b : BitVec 6) (t : BitVec 3)

/-- The lanes of a GATHP with their accesses, R219. -/
def State.gathpLanes (s : State) (g : BitVec 4) (a b : BitVec 6) (t : BitVec 3) : List (Nat × Req) :=
  (s.gathered g a b (gathWidth t) (gathSigned t)).map (fun j => (j.1, loadReq j.2 (gathWidth t / 8)))

/-- The fault of a GATHP lane at its first checks, with its address. -/
def State.laneFault (u : State) (m : Access) (v : Reg) (j : Nat × Req) : Option (Nat × Nat) :=
  (u.gathpCheck m v.tag v.cap j.2).map (fun code => (code, j.2.x))

/-- The fault note of a task for a GATHP lane at a virtual address, with the address. -/
def Slot.laneNote (x : Slot) (j : Nat × Req) : Option (Note × Nat) :=
  if bits j.2.x 63 60 = 0xE then none else (x.noteFor x.ctxid.toNat j.2.x).map (fun n => (n, j.2.x))

variable {s g d a b t}

/-- A gather's elements are aligned to a power of two. -/
theorem gathWidth_dvd (t : BitVec 3) : gathWidth t / 8 ∣ 2 ^ 64 := by
  unfold gathWidth
  split <;> decide

/-- The first lane that is refused is the fault, R219 step 1. -/
theorem gathp_refused {code x : Nat} (h : Ready (.gathp g d a b t) s)
    (hf : (s.gathpLanes g a b t).findSome? ((s.issuing (.gathp g d a b t)).laneFault s.myAccess (s.base a)) = some (code, x)) :
    TrapsWith (.gathp g d a b t) code x s := by
  refine trapsWith_of h (exec_gathp g d a b t s) ?_
  dsimp only
  rw [s.gatherAddrs_envOf g a b rfl, s.myAccess_issuing]
  split
  · rename_i heq
    obtain ⟨rfl, rfl⟩ := Prod.mk.inj (Option.some.inj (heq.symm.trans hf))
    rfl
  · rename_i heq
    exact absurd (heq.symm.trans hf) nofun

/-- Where no lane is refused, the first that has a fault note takes the noted fault, R219 step 2. -/
theorem gathp_noted {n : Note} {x : Nat} (h : Ready (.gathp g d a b t) s)
    (hf : (s.gathpLanes g a b t).findSome? ((s.issuing (.gathp g d a b t)).laneFault s.myAccess (s.base a)) = none)
    (hn : (s.gathpLanes g a b t).findSome? s.me.laneNote = some (n, x)) :
    exec (.gathp g d a b t) s = .next (((s.issuing (.gathp g d a b t)).updMe (fun _ => { s.me with notes := s.me.notes.erase n })).enterTrap
      s.cur.core s.cur.slot n.cause x 0 false 0 (s.envOf (.gathp g d a b t)).first) := by
  refine next_of h (exec_gathp g d a b t s) ?_
  dsimp only
  rw [s.gatherAddrs_envOf g a b rfl, s.myAccess_issuing]
  split
  · rename_i heq
    exact absurd (heq.symm.trans hf) nofun
  · split
    · rename_i heq
      obtain ⟨rfl, rfl⟩ := Prod.mk.inj (Option.some.inj (heq.symm.trans hn))
      rfl
    · rename_i heq
      exact absurd (heq.symm.trans hn) nofun

/-- Otherwise the lanes fault as their remaining checks do, R219 step 3. -/
theorem gathp_split {e : Exit} (h : Ready (.gathp g d a b t) s)
    (hf : (s.gathpLanes g a b t).findSome? ((s.issuing (.gathp g d a b t)).laneFault s.myAccess (s.base a)) = none)
    (hn : (s.gathpLanes g a b t).findSome? s.me.laneNote = none)
    (he : (s.issuing (.gathp g d a b t)).gathpSplit s.myAccess (s.base a).cap (s.gathpLanes g a b t) = .error e) :
    EndsWith (.gathp g d a b t) s e := by
  refine endsWith_of h (exec_gathp g d a b t s) ?_
  dsimp only
  rw [s.gatherAddrs_envOf g a b rfl, s.myAccess_issuing]
  split
  · rename_i heq
    exact absurd (heq.symm.trans hf) nofun
  · split
    · rename_i heq
      exact absurd (heq.symm.trans hn) nofun
    · exact congrArg (fun y => y >>= _) he

/-- GATHP faults at the first lane that is refused, else at the first that is noted, else as its lanes' remaining checks do, R219. -/
theorem gathp_faults (h : Ready (.gathp g d a b t) s) :
    let i := Instr.gathp g d a b t
    let m := s.myAccess
    let v := s.base a
    let l := s.gathpLanes g a b t
    (∀ code before r j after, l = before ++ (j, r) :: after → (∀ q ∈ before, (s.issuing i).gathpCheck m v.tag v.cap q.2 = none) →
      (v.refuses r code ∨ (s.issuing i).gathpCheck m v.tag v.cap r = some code) → TrapsWith i code r.x s) ∧
    ((∀ q ∈ l, (s.issuing i).gathpCheck m v.tag v.cap q.2 = none) →
      (∀ before r j after note, l = before ++ (j, r) :: after →
        (∀ q ∈ before, bits q.2.x 63 60 ≠ 0xE → s.me.noteFor s.me.ctxid.toNat q.2.x = none) →
        bits r.x 63 60 ≠ 0xE → s.me.noteFor s.me.ctxid.toNat r.x = some note →
        exec i s = .next (((s.issuing i).updMe (fun _ => { s.me with notes := s.me.notes.erase note })).enterTrap
          s.cur.core s.cur.slot note.cause r.x 0 false 0 (s.envOf i).first)) ∧
      ((∀ q ∈ l, bits q.2.x 63 60 ≠ 0xE → s.me.noteFor s.me.ctxid.toNat q.2.x = none) →
        ∀ e, (s.issuing i).gathpSplit m v.cap l = .error e → EndsWith i s e)) := by
  intro i m v l
  have hunnoted : ∀ q : Nat × Req, (bits q.2.x 63 60 ≠ 0xE → s.me.noteFor s.me.ctxid.toNat q.2.x = none) → s.me.laneNote q = none := by
    intro q hq
    unfold Slot.laneNote
    split
    · rfl
    · rw [hq ‹_›]
      rfl
  have hfind : (∀ q ∈ l, (s.issuing i).gathpCheck m v.tag v.cap q.2 = none) → l.findSome? ((s.issuing i).laneFault m v) = none :=
    fun hpass => List.findSome?_eq_none_iff.2 (fun q hq => Option.map_eq_none_iff.2 (hpass q hq))
  refine ⟨fun code before r j after hl hbefore hr => ?_, fun hpass => ⟨fun before r j after note hl hbefore hx hnote => ?_, fun hnone e he => ?_⟩⟩
  · have hcheck : (s.issuing i).gathpCheck m v.tag v.cap r = some code := by
      refine hr.elim (fun hr => ?_) id
      obtain ⟨j', -, hj⟩ := List.mem_map.1 (show (j, r) ∈ l from hl ▸ List.mem_append_right before List.mem_cons_self)
      obtain rfl := (Prod.mk.inj hj).2
      exact hr.gathpCheck rfl (gathWidth_dvd t) _ m
    refine gathp_refused h ((congrArg (List.findSome? _) hl).trans (findSome?_first (fun q hq => ?_) ?_))
    · exact congrArg (Option.map _) (hbefore q hq)
    · exact congrArg (Option.map _) hcheck
  · refine gathp_noted h (hfind hpass) ((congrArg (List.findSome? _) hl).trans (findSome?_first (fun q hq => hunnoted q (hbefore q hq)) ?_))
    unfold Slot.laneNote
    rw [if_neg hx, hnote]
    rfl
  · exact gathp_split h (hfind hpass) (List.findSome?_eq_none_iff.2 (fun q hq => hunnoted q (hnone q hq))) he

end

/-! ## All of them -/

theorem scataddWidth_toNat : ∀ t : BitVec 3, scataddWidth t.toNat = if t = 2 then 64 else if 4 ≤ t.toNat then 16 else 32 := by
  decide

theorem xatomBytes_toNat : ∀ t : BitVec 3, xatomBytes t.toNat = if t = 4 then 16 else if t = 1 ∨ t = 3 ∨ t = 7 then 8 else 4 := by
  decide

/-- Settles O25: the body of each memory instruction begins with its check (`BeginsWith`), and a ready instruction ends as the
check it begins with does (`oneFaults_of`, `lanesFault_of`, `eachFaults_of`). -/
theorem accessFaults : Obligations.AccessFaults := by
  intro s g d a b o z t v c tag m sound aligned bad ends one line lanes either at_ each load store rmw x xo n fn keep w sw an
  have hsw : scataddWidth t.toNat = sw := scataddWidth_toNat t
  have han : xatomBytes t.toNat = an := xatomBytes_toNat t
  have hscatadd := scatadd_faults s g d a b t
  rw [hsw] at hscatadd
  have hxatom := xatom_faults s g d a b t
  rw [han] at hxatom
  exact ⟨ldx_faults s g d a o z, stx_faults s g d a o z, ldv_faults s g d a o, stv_faults s g d a o, gath_faults s g d a b t,
    scat_faults s g d a b t, hscatadd, fun h => gathp_faults h, ldfe_faults s g d a o z, stfe_faults s g d a o z,
    feopLdf_faults s g d a z, feopStf_faults s g d a z, feopSete_faults s g a z, feopSetf_faults s g a z, feopQtag_faults s g d a,
    fun h => ldt_faults s g d a o z h, fun i hi h => ticket_faults s a (ticket_begins s g d a b i hi) h,
    atom32_faults s g d a b t, atom64_faults s g d a b t, hxatom⟩

end Sys2Proof.Machine
end

section
/-!
Floating-point instructions, R103 to R109: the guest that a little core sends away (R35, R166), and the value that the core which
executes the instruction itself writes.
-/

namespace Sys2Proof.Machine

/-! ## What an instruction leaves that leaves as a guest -/

/-- The tasks, banks and gangs of another state and its memory say what others keep. -/
theorem OthersKept.congr {s t u : State} (h : OthersKept s t) (hc : u.cores = t.cores) (hb : u.banks = t.banks) (hg : u.gangs = t.gangs)
    (hm : u.mem = t.mem) : OthersKept s u where
  cores c hne := (State.core_congr hc c).trans (h.cores c hne)
  core := by rw [State.core_congr hc]; exact h.core
  slots n hn := (State.slot_congr hc _ n).trans (h.slots n hn)
  sums p hp := by rw [State.core_congr hc]; exact h.sums p hp
  banks b hne := by rw [hb]; exact h.banks b hne
  gangs k := by rw [hg]; exact h.gangs k
  storage k hk := (State.byte_congr hm hk).trans (h.storage k hk)

/-- A change of the task's own slot keeps what others have. -/
theorem OthersKept.updMe {s t : State} (h : OthersKept s t) (hcur : t.cur = s.cur) (f : Slot → Slot) : OthersKept s (t.updMe f) where
  cores c hne := (State.core_setSlot_ne t (by rw [hcur]; exact Ne.symm hne) _ _).trans (h.cores c hne)
  core := by
    rw [← hcur, State.core_updMe, hcur]
    exact congrArg (fun k : Core => k.setSlot s.cur.slot (f t.me)) h.core
  slots n hn := (State.slot_setSlot_ne t (.inr (by rw [hcur]; exact Ne.symm hn)) _).trans (h.slots n hn)
  sums p hp := by
    rw [← hcur, State.core_updMe, hcur]
    exact h.sums p hp
  banks b hne := h.banks b hne
  gangs k := h.gangs k
  storage k hk := (State.byte_congr (State.updMe_mem _ _) hk).trans (h.storage k hk)

theorem State.core_countShip_self (s : State) (c : Nat) : (s.countShip c).core c = { s.core c with seq := ((s.core c).seq + 1) % 256 } :=
  State.core_setCore_self _ _ _

theorem State.core_countShip_ne (s : State) {c d : Nat} (h : c ≠ d) : (s.countShip c).core d = s.core d := State.core_setCore_ne _ h _

theorem State.slot_countShip (s : State) (c d n : Nat) : (s.countShip c).slot d n = s.slot d n := by
  unfold State.slot
  by_cases h : c = d
  · subst h
    rw [State.core_countShip_self]
    rfl
  · rw [State.core_countShip_ne s h]

theorem State.me_countShip (s : State) (c : Nat) : (s.countShip c).me = s.me := State.slot_countShip s c _ _

/-- One more shipped instruction counted on both sides. -/
theorem OthersKept.countShip {s t : State} (h : OthersKept s t) :
    OthersKept (s.countShip s.cur.core) (t.countShip s.cur.core) where
  cores c hne := by
    have hne' : s.cur.core ≠ c := fun e => hne e.symm
    rw [State.core_countShip_ne t hne', State.core_countShip_ne s hne', h.cores c hne]
  core := by
    show (t.countShip s.cur.core).core s.cur.core = { (s.countShip s.cur.core).core s.cur.core with
      slots := ((t.countShip s.cur.core).core s.cur.core).slots, flagAcc := ((t.countShip s.cur.core).core s.cur.core).flagAcc }
    rw [State.core_countShip_self, State.core_countShip_self]
    exact congrArg (fun k : Core => { k with seq := (k.seq + 1) % 256 }) h.core |>.trans rfl
  slots n hn := (State.slot_countShip ..).trans ((h.slots n hn).trans (State.slot_countShip ..).symm)
  sums p hp := by
    rw [State.me_countShip] at hp
    show ((t.countShip s.cur.core).core s.cur.core).flagAcc.at p 0 = ((s.countShip s.cur.core).core s.cur.core).flagAcc.at p 0
    rw [State.core_countShip_self, State.core_countShip_self]
    exact h.sums p hp
  banks b hne := h.banks b hne
  gangs k := h.gangs k
  storage k hk :=
    (State.byte_congr (show (t.countShip s.cur.core).mem = t.mem from rfl) hk).trans
      ((h.storage k hk).trans (State.byte_congr (show s.mem = (s.countShip s.cur.core).mem from rfl) hk))

/-- What a slot keeps of an instruction that left as a guest. -/
def Slot.shipping (x : Slot) (e : Env) (i : Instr) (id : Nat) (dests : List Dest) : Slot :=
  { x with board := x.board ++ (dests.filter Dest.real).map (fun k => (k, id)), ship := some (e.opened id false (usesOf e.sl.peek i).src) }

/-- The slot behind an instruction that left as a guest. -/
theorem State.me_ship (t : State) (i : Instr) (e : Env) (d a b : Reg) (prec : Nat) (dests : List Dest) :
    (t.ship e i d a b prec dests).me = t.me.shipping e i t.serial dests := by
  have hme : (t.ship e i d a b prec dests).me =
      ((t.fresh.2.countShip e.core).updMe (fun x => x.shipping e i t.serial dests)).me := rfl
  rw [hme, State.me_updMe, State.me_countShip]
  rfl

/-- Registers that an instruction left alone but for the pc, the prefixes and SR.PP, R37. -/
theorem regsKept_of_arch {s u : State} (h : u.me.arch = (s.me.arch.setPc (s.me.arch.pc + 4)).dropPfx) : RegsKept [] [] s u where
  regs r _ := by rw [h]; rfl
  preds p _ := by rw [h]; rfl
  code := by rw [h]; rfl
  codeTag := by rw [h]; rfl
  pfx := by rw [h]; rfl
  sr k hk _ := by
    rw [h]
    show (putBit s.me.arch.sr 8 false).getLsbD k = _
    rw [getLsbD_putBit]
    by_cases h8 : k = 8 <;> simp [h8]
  flags k _ h7 hs := by
    rw [h]
    show (putBit s.me.arch.sr 8 false).getLsbD k = true
    rw [getLsbD_putBit, if_neg (by omega)]
    exact hs

theorem State.myRef_issuing (s : State) (i : Instr) : (s.issuing i).myRef = s.myRef := by
  unfold State.myRef
  rw [State.me_issuing, (taskOnly_issuing s i).cur]
  rfl

/-- A ready instruction whose body ships it, R166, R172. -/
theorem leavesAsGuest_of {s : State} {i : Instr} (h : Ready i s) {body : Env → State → Except Exit State} {d a b : Reg} {prec : Nat}
    {dests : List Dest} (he : exec i s = s.issue i body)
    (hb : body (s.envOf i) (s.issuing i) = .ok ((s.issuing i).ship (s.envOf i) i d a b prec dests)) :
    LeavesAsGuest i d a b prec dests s := by
  have hserial : (s.issuing i).serial = s.serial := State.issuing_serial s i
  have hme := State.me_ship (s.issuing i) i (s.envOf i) d a b prec dests
  rw [State.me_issuing, State.slotIssuing_eq h.alone, hserial] at hme
  have harch := congrArg Slot.arch hme
  have hkept := (taskOnly_issuing s i).toOthersKept.countShip
  refine ⟨(s.issuing i).ship (s.envOf i) i d a b prec dests, (s.envOf i).guest (s.issuing i).fresh.2 d a b prec,
    ?_, ?_, rfl, rfl, rfl, rfl, rfl, rfl, ?_, ?_, ?_, rfl, ?_, ?_, ?_, ?_, ?_, ?_⟩
  · rw [he, State.issue_ready h, hb]
  · rw [← hserial]
    exact Sp.look_set_self _ _ _
  · exact s.issuing_part i (fun t => t.homeOf s.cur.core) (fun _ _ _ _ => rfl)
  · exact State.myRef_issuing s i
  · exact s.core_issuing_part i Core.seq (fun _ _ => rfl) s.cur.core
  · rw [← hserial]
    exact congrArg (· ++ _) (s.issuing_part i State.due (fun _ _ _ _ => rfl))
  · rw [hme]; rfl
  · rw [hme]; rfl
  · exact regsKept_of_arch harch
  · unfold Advanced
    rw [harch]; rfl
  · refine OthersKept.congr (t := ((s.issuing i).countShip s.cur.core).updMe (fun x => x.shipping (s.envOf i) i (s.issuing i).serial dests))
      (hkept.updMe ?_ _) rfl rfl rfl rfl
    exact (taskOnly_issuing s i).cur

/-! ## A float instruction that may issue -/

/-- A float instruction that a little core ships, R35, R72. -/
theorem leavesAsGuest_float {s : State} {i : Instr} {d a b : BitVec 6} {f : VecIn → Vec × Flags} (h : Ready i s)
    (hs : shipped i = true ∧ isBig s.cur.core = false) (he : exec i s = s.issueFloat i d a b f) :
    LeavesAsGuest i (s.me.arch.reg d.toNat) (s.me.arch.reg a.toNat) (s.me.arch.reg b.toNat) 0 [.reg d.toNat] s := by
  have hship : (shipped i && !(s.envOf i).big) = true := by
    show (shipped i && !isBig s.cur.core) = true
    rw [hs.1, hs.2]; rfl
  exact leavesAsGuest_of h he (if_pos hship)

/-- The core executes an instruction itself that no little core ships, or that a big core issues. -/
theorem executes_of_not_ships {i : Instr} {c : Nat} (h : ¬ (shipped i = true ∧ isBig c = false)) : shipped i = true → isBig c = true :=
  fun hs => by simpa [hs] using h

/-- An element-by-element float instruction leaves as a guest or writes its results, R72, R103. -/
theorem floatMap_runs {s : State} {i : Instr} {d a b : BitVec 6} {t : BitVec 3} (k : Fmt → Rm → Nat → Nat → Nat → FRes)
    (he : exec i s = s.issueFloat i d a b (fun o => floatMap t o (fun f x y z => k f o.rm x y z))) (h : Ready i s) :
    if shipped i = true ∧ isBig s.cur.core = false then
      LeavesAsGuest i (s.me.arch.reg d.toNat) (s.me.arch.reg a.toNat) (s.me.arch.reg b.toNat) 0 [.reg d.toNat] s
    else WritesFloats i d (Fmt.ofCode t.toNat).w (s.mask ((i.guard?).getD 7)) (fun j => k (Fmt.ofCode t.toNat) s.me.arch.rm
      (elem (s.vec a) (Fmt.ofCode t.toNat).w j) (elem (s.vec b) (Fmt.ofCode t.toNat).w j) (elem (s.vec d) (Fmt.ofCode t.toNat).w j)) s := by
  split
  · next hs => exact leavesAsGuest_float h hs he
  · next hs => exact writesFloats_of h (executes_of_not_ships hs) he

/-- Settles O5: each instruction is its element function mapped over its operands (`floatMap_runs`). -/
theorem floatElements : Obligations.FloatElements := by
  intro s g d a b o t f m rm x y z v runs
  exact ⟨floatMap_runs (fun f rm x y _ => f.add rm x y) (exec_fadd ..), floatMap_runs (fun f rm x y _ => f.sub rm x y) (exec_fsub ..),
    floatMap_runs (fun f rm x y _ => f.mul rm x y) (exec_fmul ..), floatMap_runs (fun f rm x y z => f.fma rm false z x y) (exec_fma ..),
    floatMap_runs (fun f rm x y z => f.fma rm true z x y) (exec_fnma ..), floatMap_runs (fun f _ x y _ => f.minMax false x y) (exec_fmin ..),
    floatMap_runs (fun f _ x y _ => f.minMax true x y) (exec_fmax ..), floatMap_runs (fun f _ x y _ => f.minp x y) (exec_fminp ..),
    floatMap_runs (fun f rm x y _ => f.scale rm x (sext y f.w)) (exec_fscale ..), floatMap_runs (fun f rm x y _ => f.div rm x y) (exec_fdiv ..),
    floatMap_runs (fun f rm x _ _ => f.sqrt rm x) (exec_fsqrt ..), floatMap_runs (fun f _ x _ _ => f.trans o.toNat x) (exec_ftrans ..),
    floatMap_runs (fun f rm x _ z => funopElem f rm o.toNat x z) (exec_funop ..)⟩

end Sys2Proof.Machine
end

section
/-!
Conversions, reductions, dot products and the floating-point compare, R59 to R63, R67, R68, R98, R108, R109: at the core that
executes the instruction itself and as guests (R35, R166).
-/

namespace Sys2Proof.Machine

/-! ## Instructions that write one register -/

section
variable {s : State} {i : Instr}

/-- An instruction whose body writes one register and raises flags. -/
theorem writesValue_of_body (h : Ready i s) {body : Env → State → Except Exit State} {d : BitVec 6} {r : Vec × Flags}
    (he : exec i s = s.issue i body)
    (hb : body (s.envOf i) (s.issuing i) = .ok (((s.issuing i).updArch (fun x => x.setVec d.toNat r.1)).raise r.2)) :
    WritesValue i d r s := by
  obtain ⟨hregs, hraised, hpc, harch⟩ := raised_updArch h.alone i (writesOnly_setReg d.toNat ⟨r.1, false⟩) r.2
  refine ⟨_, ?_, hregs, hraised, hpc, fun hd => ?_⟩
  · rw [he, State.issue_ready h, hb]; rfl
  · rw [harch, Arch.reg_raise]
    exact Arch.reg_setReg_self _ (fun h0 => hd (BitVec.eq_of_toNat_eq h0)) _

/-- A float instruction of one source leaves as a guest or writes its value, R72. -/
theorem float_runs {d a : BitVec 6} {f : VecIn → Vec × Flags} (he : exec i s = s.issueFloat i d a 0 f) (h : Ready i s) :
    if shipped i = true ∧ isBig s.cur.core = false then
      LeavesAsGuest i (s.me.arch.reg d.toNat) (s.me.arch.reg a.toNat) {} 0 [.reg d.toNat] s
    else WritesValue i d (f ((s.envOf i).vecIn d a 0)) s := by
  split
  · next hs => exact leavesAsGuest_float h hs he
  · next hs => exact writesValue_float h (executes_of_not_ships hs) he

end

/-! ## Parameter records, R53, R54, R63 -/

theorem prsOf_lt (t : Option (BitVec 21)) : prsOf t < 16 := by
  unfold prsOf pfxPrs bits
  split <;> omega

/-- No byte of a parameter record shows registers. -/
theorem keyIsView_recordKey (c : Nat) {prs i : Nat} (hp : prs < 16) (hi : i < 64) : keyIsView (recordKey c prs + i) = false := by
  have hkey : ∀ sp off, sp < 16 → sp ≠ 5 → sp ≠ 8 → off + i < 2 ^ 32 → keyIsView (localKey c sp off + i) = false := by
    intro sp off hsp h5 h8 hoff
    have hk : localKey c sp off + i = localKey c sp (off + i) := Nat.add_assoc _ _ _
    simp [keyIsView, hk, keySpace_localKey c hsp hoff, h5, h8]
  unfold recordKey
  split
  · exact hkey 3 _ (by decide) (by decide) (by decide) (by omega)
  · exact hkey 0 _ (by decide) (by decide) (by decide) (by omega)

section
variable (s : State) (i : Instr)

theorem State.storesPending_issuing (k n : Nat) : (s.issuing i).storesPending (s.issuing i).myRef k n = s.storesPending s.myRef k n := by
  rw [State.myRef_issuing]
  exact s.issuing_part i (fun t => t.storesPending s.myRef k n) (fun _ _ _ _ => rfl)

theorem State.readRecord_issuing (c : Nat) {prs : Nat} (hp : prs < 16) :
    (s.issuing i).readMem (recordKey c prs) 64 = s.readMem (recordKey c prs) 64 :=
  State.readMem_congr (taskOnly_issuing s i).mem (fun _ hi => keyIsView_recordKey c hp hi)

/-- A parameter record as a ready instruction reads it: where none of its task's stores to it is under way, what storage holds. -/
theorem State.record_issuing (c : Nat) {prs : Nat} (hp : prs < 16) : (s.issuing i).record c prs =
    if s.storesPending s.myRef (recordKey c prs) 64 then .error (.wait .order) else .ok (s.readMem (recordKey c prs) 64) := by
  unfold State.record
  rw [State.storesPending_issuing, State.readRecord_issuing s i c hp]

/-- What a ready instruction takes from the record that it names. -/
theorem State.boundOf_issuing (c dst : Nat) {prs : Nat} (hp : prs < 16) (h0 : prs ≠ 0) : (s.issuing i).boundOf c prs dst =
    if s.storesPending s.myRef (recordKey c prs) 64 then .error (.wait .order)
    else if validBound (Fmt.ofCode dst) (recordBound (s.readMem (recordKey c prs) 64) dst) then
      .ok (s.readMem (recordKey c prs) 64, some (recordBound (s.readMem (recordKey c prs) 64) dst))
    else .error (.trap causeParam prs 0) := by
  unfold State.boundOf
  rw [if_neg h0, State.record_issuing s i c hp]
  split
  · rfl
  · show (do check (validBound _ _) causeParam prs; _) = _
    unfold check
    split <;> rfl

end

/-! ## FCVT, R61 to R63 -/

section
variable {s : State} {g : BitVec 4} {d a : BitVec 6} {t part src : BitVec 3}

/-- A conversion whose bound is known leaves as a guest with its record or writes its value. -/
theorem fcvt_runs (h : Ready (.fcvt g d a part t src) s) {r : Nat} {b : Option Nat}
    (hb : (s.issuing (.fcvt g d a part t src)).boundOf s.cur.core (prsOf s.me.arch.pfx.t) t.toNat = .ok (r, b)) :
    if shipped (.fcvt g d a part t src) = true ∧ isBig s.cur.core = false then
      LeavesAsGuest (.fcvt g d a part t src) (s.me.arch.reg d.toNat) (s.me.arch.reg a.toNat) {} r [.reg d.toNat] s
    else WritesValue (.fcvt g d a part t src) d (valFcvt part t src b ((s.envOf (.fcvt g d a part t src)).vecIn d a 0)) s := by
  have hbody : (s.issuing (.fcvt g d a part t src)).boundOf (s.envOf (.fcvt g d a part t src)).core
    (prsOf (s.envOf (.fcvt g d a part t src)).pfx.t) t.toNat = .ok (r, b) := hb
  split
  · next hs =>
    refine leavesAsGuest_of h (exec_fcvt ..) ?_
    rw [hbody]
    exact if_pos (by show (shipped _ && !isBig s.cur.core) = true; rw [hs.1, hs.2]; rfl)
  · next hs =>
    refine writesValue_of_body h (exec_fcvt ..) ?_
    rw [hbody]
    refine if_neg (fun hship => hs ?_)
    have hship : (shipped _ && !isBig s.cur.core) = true := hship
    simpa using hship

/-- A conversion whose record cannot be read yet waits, R54. -/
theorem fcvt_waits (h : Ready (.fcvt g d a part t src) s) {why : Stall}
    (hb : (s.issuing (.fcvt g d a part t src)).boundOf s.cur.core (prsOf s.me.arch.pfx.t) t.toNat = .error (.wait why)) :
    StallsFor (.fcvt g d a part t src) why s := by
  refine stallsFor_of h (exec_fcvt ..) ?_
  show ((s.issuing (.fcvt g d a part t src)).boundOf s.cur.core (prsOf s.me.arch.pfx.t) t.toNat >>= _) = _
  rw [hb]; rfl

/-- A conversion whose record holds no valid bound faults, R63. -/
theorem fcvt_faults (h : Ready (.fcvt g d a part t src) s) {code tval : Nat}
    (hb : (s.issuing (.fcvt g d a part t src)).boundOf s.cur.core (prsOf s.me.arch.pfx.t) t.toNat = .error (.trap code tval 0)) :
    TrapsWith (.fcvt g d a part t src) code tval s := by
  refine trapsWith_of h (exec_fcvt ..) ?_
  show ((s.issuing (.fcvt g d a part t src)).boundOf s.cur.core (prsOf s.me.arch.pfx.t) t.toNat >>= _) = _
  rw [hb]; rfl

end

/-! ## Results of a compare in predicates, R17, R97 -/

theorem getLsbD_putBits (b : Bool) (lo k : Nat) (hk : k < 64) : ∀ (l : List Nat) (p : Word),
    (l.foldl (fun q i => putBit q (lo + i) b) p).getLsbD k = if k ∈ l.map (lo + ·) then b else p.getLsbD k
  | [], p => by simp
  | i :: l, p => by
    rw [List.foldl_cons, getLsbD_putBits b lo k hk l, getLsbD_putBit]
    simp only [List.map_cons, List.mem_cons]
    by_cases hl : k ∈ l.map (lo + ·)
    · rw [if_pos hl, if_pos (.inr hl)]
    · rw [if_neg hl]
      exact if_congr (by simp [hl]) (by simp [hk]) rfl

/-- The widths of elements, R9. -/
def isWidth (w : Nat) : Prop := w = 8 ∨ w = 16 ∨ w = 32 ∨ w = 64

theorem spanOf_lt {w k : Nat} (hw : isWidth w) (hk : k < 64) : spanOf w k < 1024 / w := by
  unfold spanOf
  obtain rfl | rfl | rfl | rfl := hw <;> omega

/-- One element's span written: the bits whose element it is. -/
theorem getLsbD_writeSpan {w : Nat} (hw : isWidth w) (p : Word) (j : Nat) (b : Bool) {k : Nat} (hk : k < 64) :
    (writeSpan p w j b).getLsbD k = if j = spanOf w k then b else p.getLsbD k := by
  unfold writeSpan
  split
  · next h8 =>
    subst h8
    split
    · rw [getLsbD_putBit]
      refine (if_congr (?_ : k = j / 2 ↔ j = spanOf 8 k) (by simp [hk]) rfl)
      unfold spanOf; omega
    · rw [if_neg]
      unfold spanOf; omega
  · next h8 =>
    rw [getLsbD_putBits b _ k hk]
    refine if_congr ?_ rfl rfl
    simp only [List.mem_map, List.mem_range, govBit, spanOf]
    constructor
    · rintro ⟨i, hi, rfl⟩
      obtain rfl | rfl | rfl | rfl := hw <;> omega
    · rintro rfl
      refine ⟨k - w * (16 * k / w) / 16, ?_, ?_⟩ <;> (obtain rfl | rfl | rfl | rfl := hw <;> omega)

/-- The spans of some elements written. -/
theorem getLsbD_writeSpans {w : Nat} (hw : isWidth w) (r : Nat → Bool) {k : Nat} (hk : k < 64) : ∀ (js : List Nat) (p : Word),
    (writeSpans p w (js.map (fun j => (j, r j)))).getLsbD k = if spanOf w k ∈ js then r (spanOf w k) else p.getLsbD k
  | [], p => by simp [writeSpans]
  | j :: js, p => by
    have ih := getLsbD_writeSpans hw r hk js (writeSpan p w j (r j))
    rw [getLsbD_writeSpan hw p j (r j) hk] at ih
    refine ih.trans ?_
    by_cases hjs : spanOf w k ∈ js
    · simp [hjs]
    · by_cases hj : j = spanOf w k
      · simp [hj]
      · simp [hjs, hj, Ne.symm hj]

/-- What an operation does on each set of registers as one that writes named registers and predicates alone. -/
theorem writesOnly_of_each {rs ps : List Nat} {f : Arch → Arch} (h : ∀ a, ∃ f', WritesOnly rs ps f' ∧ f a = f' a) : WritesOnly rs ps f where
  regs a := by obtain ⟨f', hw, ha⟩ := h a; rw [ha]; exact hw.regs a
  preds a := by obtain ⟨f', hw, ha⟩ := h a; rw [ha]; exact hw.preds a
  code a := by obtain ⟨f', hw, ha⟩ := h a; rw [ha]; exact hw.code a
  codeTag a := by obtain ⟨f', hw, ha⟩ := h a; rw [ha]; exact hw.codeTag a
  pc a := by obtain ⟨f', hw, ha⟩ := h a; rw [ha]; exact hw.pc a
  pfx a := by obtain ⟨f', hw, ha⟩ := h a; rw [ha]; exact hw.pfx a
  sr a := by obtain ⟨f', hw, ha⟩ := h a; rw [ha]; exact hw.sr a

theorem writesOnly_commitCompare (p e : BitVec 3) (mode w : Nat) (m : Word) (c : Nat → Bool) :
    WritesOnly [] [p.toNat, e.toNat] (commitCompare p e mode w m c) :=
  writesOnly_of_each (fun _ => ⟨_, (writesOnly_setPred p.toNat _).comp (writesOnly_setPred e.toNat _), rfl⟩)

section
variable {p e : BitVec 3} {mode w : Nat} {m : Word} {c : Nat → Bool} {a : Arch} {k : Nat}

theorem toNat_ne_of_ne {x y : BitVec 3} (h : x ≠ y) : x.toNat ≠ y.toNat := fun hn => h (BitVec.eq_of_toNat_eq hn)

theorem mem_enabled_spanOf (hw : isWidth w) (hk : k < 64) :
    spanOf w k ∈ (List.range (1024 / w)).filter (enabled m w) ↔ enabled m w (spanOf w k) = true := by
  simp [spanOf_lt hw hk]

/-- PD behind a compare, R97. -/
theorem commitCompare_first (hw : isWidth w) (hp : p ≠ 7) (hpe : p ≠ e) (hk : k < 64) :
    ((commitCompare p e mode w m c a).pred p.toNat).getLsbD k = comparedBit mode w m (a.pred p.toNat) c k := by
  have h7 : p.toNat ≠ 7 := toNat_ne_of_ne hp
  simp only [commitCompare, Arch.pred_setPred, if_neg (toNat_ne_of_ne (Ne.symm hpe)), if_neg h7, if_true]
  refine (getLsbD_writeSpans hw _ hk _ _).trans (if_congr (mem_enabled_spanOf hw hk) ?_ rfl)
  rcases mode with _ | _ | mode <;> rfl

/-- PE behind a compare: the complement of the condition, R97. -/
theorem commitCompare_second (hw : isWidth w) (he : e ≠ 7) (hk : k < 64) :
    ((commitCompare p e mode w m c a).pred e.toNat).getLsbD k = comparedBit mode w m (a.pred e.toNat) (fun j => !c j) k := by
  have h7 : e.toNat ≠ 7 := toNat_ne_of_ne he
  simp only [commitCompare, Arch.pred_setPred, if_neg h7, if_true]
  refine (getLsbD_writeSpans hw _ hk _ _).trans (if_congr (mem_enabled_spanOf hw hk) ?_ rfl)
  rcases mode with _ | _ | mode <;> rfl

/-- A compare's result counts at the enabled elements alone. -/
theorem comparedBit_congr {c' : Nat → Bool} {old : Word} (hw : isWidth w) (hk : k < 64)
    (h : ∀ j, j < 1024 / w → enabled m w j = true → c j = c' j) : comparedBit mode w m old c k = comparedBit mode w m old c' k := by
  unfold comparedBit
  dsimp only
  split
  · next hen => rw [h _ (spanOf_lt hw hk) hen]
  · rfl

end

/-! ## FCMP, R98 -/

section
variable {s : State} {g : BitVec 4} {c p e t : BitVec 3} {a b : BitVec 6}

theorem fmt_width_isWidth (t : BitVec 3) : isWidth (Fmt.ofCode t.toNat).w := by
  revert t; unfold isWidth; decide

theorem floatWidth_eq (t : BitVec 3) : floatWidth t = (Fmt.ofCode t.toNat).w := by
  revert t; decide

/-- The raw result of an enabled element. -/
theorem valFcmp_bit (t : BitVec 3) (c : Nat) (o : VecIn) {j : Nat} (hj : j < 1024 / (Fmt.ofCode t.toNat).w)
    (he : enabled o.mask (Fmt.ofCode t.toNat).w j = true) : bit (valFcmp t c o).1 j =
      ((Fmt.ofCode t.toNat).compare c (elem o.a (Fmt.ofCode t.toNat).w j) (elem o.b (Fmt.ofCode t.toNat).w j)).1 := by
  unfold valFcmp bit
  dsimp only
  have hpack := fun l => packList_elem 1 l j
  simp only [Nat.one_mul, Nat.pow_one] at hpack
  rw [hpack]
  simp only [List.getD_eq_getElem?_getD, List.getElem?_map, List.getElem?_range hj, Option.map_some, Option.getD_some, he, if_true]
  cases ((Fmt.ofCode t.toNat).compare c (elem o.a (Fmt.ofCode t.toNat).w j) (elem o.b (Fmt.ofCode t.toNat).w j)).1 <;> rfl

/-- The flags of a compare: NV where an enabled element raises it. -/
theorem valFcmp_flags (t : BitVec 3) (c : Nat) (o : VecIn) : (valFcmp t c o).2 =
    if (List.range (1024 / (Fmt.ofCode t.toNat).w)).any (fun j => enabled o.mask (Fmt.ofCode t.toNat).w j &&
      ((Fmt.ofCode t.toNat).compare c (elem o.a (Fmt.ofCode t.toNat).w j) (elem o.b (Fmt.ofCode t.toNat).w j)).2)
    then Flags.nv else 0 := by
  unfold valFcmp Flags.when
  dsimp only
  rw [List.any_map]
  refine if_congr (Eq.congr (congrArg (List.any _) (funext fun j => ?_)) rfl) rfl rfl
  by_cases he : enabled o.mask (Fmt.ofCode t.toNat).w j <;> simp [he]

theorem Defect.second_of_orElse {x y : Option Defect} (h : Defect.orElse x y = none) : y = none := by
  cases x with
  | none => exact h
  | some _ => nomatch h

/-- The predicates of a well-formed compare differ, R39. -/
theorem fcmp_preds_differ (h : (Instr.fcmp g c p e a b t).wf) (hp : p ≠ 7) : p ≠ e := by
  have hdiffer : predicatesDiffer p e = none := Defect.second_of_orElse (Defect.second_of_orElse h)
  rintro rfl
  have hsame : predicatesDiffer p p = some .samePredicates := by simpa [predicatesDiffer, need] using hp
  rw [hsame] at hdiffer
  nomatch hdiffer

theorem fcmp_leaves (h : Ready (.fcmp g c p e a b t) s) (hs : shipped (.fcmp g c p e a b t) = true ∧ isBig s.cur.core = false) :
    LeavesAsGuest (.fcmp g c p e a b t) {} (s.me.arch.reg a.toNat) (s.me.arch.reg b.toNat) 0 [.pred p.toNat, .pred e.toNat] s :=
  leavesAsGuest_of h (exec_fcmp ..) (if_pos (by show (shipped _ && !isBig s.cur.core) = true; rw [hs.1, hs.2]; rfl))

/-- FCMP at the core that executes it: the state and its registers. -/
theorem fcmp_commits (h : Ready (.fcmp g c p e a b t) s) (hs : ¬ (shipped (.fcmp g c p e a b t) = true ∧ isBig s.cur.core = false)) :
    let r := valFcmp t c.toNat ((s.envOf (.fcmp g c p e a b t)).vecIn 0 a b)
    ∃ u, exec (.fcmp g c p e a b t) s = .next u ∧ RegsOnly [] [p.toNat, e.toNat] s u ∧ Advanced s u ∧ Raised r.2 s u ∧
      ∀ q, u.me.arch.pred q = (commitCompare p e (modeOf s.me.arch.pfx.c) (floatWidth t) (s.mask g) (bit r.1)
        (s.me.arch.setPc (s.me.arch.pc + 4)).dropPfx).pred q := by
  intro r
  obtain ⟨hregs, hraised, hpc, harch⟩ := raised_updArch h.alone (.fcmp g c p e a b t)
    (writesOnly_commitCompare p e (modeOf s.me.arch.pfx.c) (floatWidth t) (s.mask g) (bit r.1)) r.2
  refine ⟨_, ?_, hregs, hpc, hraised, fun q => ?_⟩
  · rw [exec_fcmp, execFcmp, State.issue_ready h, if_neg]
    · rfl
    · intro hship
      have hship : (shipped _ && !isBig s.cur.core) = true := hship
      exact hs (by simpa using hship)
  · rw [harch, Arch.pred_raise]

/-- FCMP at the core that executes it: each predicate's bits, R97, R98. -/
theorem fcmp_writes (h : Ready (.fcmp g c p e a b t) s) (hs : ¬ (shipped (.fcmp g c p e a b t) = true ∧ isBig s.cur.core = false)) :
    let f := Fmt.ofCode t.toNat
    let cond := fun j => (f.compare c.toNat (elem (s.vec a) f.w j) (elem (s.vec b) f.w j)).1
    let bad := (List.range (1024 / f.w)).any (fun j => enabled (s.mask g) f.w j &&
      (f.compare c.toNat (elem (s.vec a) f.w j) (elem (s.vec b) f.w j)).2)
    ∃ u, exec (.fcmp g c p e a b t) s = .next u ∧ RegsOnly [] [p.toNat, e.toNat] s u ∧ Advanced s u ∧
      Raised (if bad then Flags.nv else 0) s u ∧
      ∀ k, k < 64 →
        (p ≠ 7 → (u.me.arch.pred p.toNat).getLsbD k =
          comparedBit (modeOf s.me.arch.pfx.c) f.w (s.mask g) (s.me.arch.pred p.toNat) cond k) ∧
        (e ≠ 7 → (u.me.arch.pred e.toNat).getLsbD k =
          comparedBit (modeOf s.me.arch.pfx.c) f.w (s.mask g) (s.me.arch.pred e.toNat) (fun j => !cond j) k) := by
  intro f cond bad
  have hw : isWidth f.w := fmt_width_isWidth t
  have hbit : ∀ j, j < 1024 / f.w → enabled (s.mask g) f.w j = true →
      bit (valFcmp t c.toNat ((s.envOf (.fcmp g c p e a b t)).vecIn 0 a b)).1 j = cond j :=
    fun j hj hen => valFcmp_bit t c.toNat _ hj hen
  obtain ⟨u, hu, hregs, hpc, hraised, hpred⟩ := fcmp_commits h hs
  rw [floatWidth_eq] at hpred
  refine ⟨u, hu, hregs, hpc, ?_, fun k hk => ⟨fun hp => ?_, fun he => ?_⟩⟩
  · rw [valFcmp_flags] at hraised
    exact hraised
  · rw [hpred, commitCompare_first hw hp (fcmp_preds_differ h.wf hp) hk]
    exact comparedBit_congr hw hk hbit
  · rw [hpred, commitCompare_second hw he hk]
    exact comparedBit_congr hw hk (fun j hj hen => congrArg not (hbit j hj hen))

end

/-- Settles O6: a conversion turns on what it takes from its record (`State.boundOf_issuing`), a compare on what reaches the two
predicates (`commitCompare_first`, `commitCompare_second`), and the others write one value (`float_runs`, `writesValue_regs`). -/
theorem floatOthers : Obligations.FloatOthers := by
  intro s g d a b o t part src c p e v r away runs prs key record
  have hprs : prs < 16 := prsOf_lt _
  have hbound := fun h0 : prs ≠ 0 => s.boundOf_issuing (.fcvt g d a part t src) s.cur.core t.toNat hprs h0
  refine ⟨fun h h0 => ?_, fun h h0 hst hv => ?_, fun h h0 => ⟨fun hst => ?_, fun hst hv => ?_⟩, float_runs (exec_i2f ..), float_runs (exec_f2i ..),
    float_runs (exec_fred ..), float_runs (exec_fscan ..), fun h => ?_, fun h => ?_, fcmp_leaves, fcmp_writes⟩
  · exact fcvt_runs h (if_pos h0)
  · refine fcvt_runs h ((hbound h0).trans ?_)
    rw [if_neg (by rw [hst]; decide), if_pos hv]
  · exact fcvt_waits h ((hbound h0).trans (if_pos hst))
  · refine fcvt_faults h ((hbound h0).trans ?_)
    rw [if_neg (by rw [hst]; decide), if_neg (by rw [hv]; decide)]
  · exact writesValue_regs h (fun n => valDot 2 (dotFa n.pfx.t) (dotFb n.pfx.t) (n.vecIn d a b)) (exec_fdot2 ..)
  · exact writesValue_regs h (fun n => valDot 4 (dotFa n.pfx.t) (dotFb n.pfx.t) (n.vecIn d a b)) (exec_fdot4 ..)

end Sys2Proof.Machine
end

section
/-!
Partitions, R338 to R342: the withdrawal of parked requests, the halt, the image that leaves the cores and the one that returns.
-/

namespace Sys2Proof.Machine

/-! ## Tables -/

section
variable {α : Type}

theorem Sp.look_eq_none {m : Sp α} {k : Nat} (h : k ∉ m.map (·.1)) : m.look k = none := by
  induction m with
  | nil => rfl
  | cons e m ih =>
    rw [List.map_cons, List.mem_cons, not_or] at h
    exact (if_neg (Ne.symm h.1)).trans (ih h.2)

theorem Sp.look_append (l m : Sp α) (k : Nat) : Sp.look (l ++ m) k = (l.look k).or (m.look k) := by
  induction l with
  | nil => rfl
  | cons e l ih =>
    show (if e.1 = k then _ else _) = Option.or (if e.1 = k then _ else _) _
    split
    · rfl
    · exact ih

theorem Sp.look_mapVals (m : Sp α) (f : Nat → α → α) (k : Nat) : Sp.look (m.map (fun e => (e.1, f e.1 e.2))) k = (m.look k).map (f k) := by
  induction m with
  | nil => rfl
  | cons e m ih =>
    show (if e.1 = k then _ else _) = Option.map _ (if e.1 = k then _ else _)
    split
    · next h => subst h; rfl
    · exact ih

theorem Sp.at_mapVals (m : Sp α) (f : Nat → α → α) (k : Nat) {d : α} (hd : f k d = d) :
    Sp.at (m.map (fun e => (e.1, f e.1 e.2))) k d = f k (m.at k d) := by
  unfold Sp.at
  rw [Sp.look_mapVals]
  cases m.look k with
  | none => exact hd.symm
  | some x => rfl

/-- A table that lists each key once, without some entries. -/
theorem Sp.look_filter_nodup {m : Sp α} (h : (m.map (·.1)).Nodup) (p : Nat × α → Bool) (k : Nat) :
    Sp.look (m.filter p) k = (m.look k).filter (fun x => p (k, x)) := by
  induction m with
  | nil => rfl
  | cons e m ih =>
    obtain ⟨j, x⟩ := e
    obtain ⟨hj, hm⟩ := List.nodup_cons.1 h
    have ih := ih hm
    rw [List.filter_cons]
    by_cases hjk : j = k
    · subst hjk
      have hnone : Sp.look (m.filter p) j = none := by
        rw [ih, Sp.look_eq_none hj]; rfl
      by_cases hp : p (j, x) <;> simp [Sp.look, hp, hnone, Option.filter]
    · by_cases hp : p (j, x) <;> simp [Sp.look, hp, hjk, ih]

end

/-! ## Writes at distinct places -/

section
variable {σ β κ ρ : Type} {f : σ → β → σ} {key : β → κ} {read : κ → σ → ρ}

/-- A place that no write of a list names reads as before. -/
theorem foldl_read_other (hne : ∀ s b k, key b ≠ k → read k (f s b) = read k s) {k : κ} :
    ∀ (l : List β) (s : σ), k ∉ l.map key → read k (l.foldl f s) = read k s
  | [], _, _ => rfl
  | b :: l, s, h => by
    rw [List.map_cons, List.mem_cons, not_or] at h
    exact (foldl_read_other hne l _ h.2).trans (hne s b k (Ne.symm h.1))

/-- Where each place is written once, it reads as its own write left it, made where the place read as it did at first. -/
theorem foldl_read_mem (hne : ∀ s b k, key b ≠ k → read k (f s b) = read k s) {b : β} :
    ∀ (l : List β) (s : σ), (l.map key).Nodup → b ∈ l →
      ∃ u, read (key b) u = read (key b) s ∧ read (key b) (l.foldl f s) = read (key b) (f u b)
  | x :: l, s, h, hb => by
    obtain ⟨hx, hl⟩ := List.nodup_cons.1 h
    obtain rfl | hb := List.mem_cons.1 hb
    · exact ⟨s, rfl, foldl_read_other hne l _ hx⟩
    · obtain ⟨u, hu, hr⟩ := foldl_read_mem hne l (f s x) hl hb
      exact ⟨u, hu.trans (hne s x _ (fun hk => hx (hk ▸ List.mem_map_of_mem hb))), hr⟩

end

section
variable {α : Type}

theorem Sp.look_merge_other (m l : Sp α) {k : Nat} (h : k ∉ l.map (·.1)) : (Sp.merge m l).look k = m.look k :=
  foldl_read_other (read := fun k (a : Sp α) => a.look k) (fun a e k hk => by rw [Sp.look_set, if_neg hk]) l m h

theorem Sp.look_merge_mem (m : Sp α) {l : Sp α} (h : (l.map (·.1)).Nodup) {e : Nat × α} (he : e ∈ l) :
    (Sp.merge m l).look e.1 = some e.2 := by
  obtain ⟨u, -, hr⟩ := foldl_read_mem (f := fun a (e : Nat × α) => Sp.set a e.1 e.2) (read := fun k (a : Sp α) => a.look k)
    (fun a e k hk => by rw [Sp.look_set, if_neg hk]) l m h he
  exact hr.trans (Sp.look_set_self _ _ _)

end

/-! ## Parked requests withdrawn, R339 -/

theorem State.updTask_ex (s : State) (r : TaskRef) (f : Slot → Slot) : ∃ c, s.updTask r f = { s with cores := c } := by
  unfold State.updTask
  split
  · exact ⟨_, rfl⟩
  · exact ⟨s.cores, rfl⟩

theorem State.slot_updTask_ship (s : State) (r : TaskRef) {f : Slot → Slot} (hf : ∀ x, (f x).ship = x.ship) (c n : Nat) :
    ((s.updTask r f).slot c n).ship = (s.slot c n).ship := by
  unfold State.updTask
  split
  · by_cases h : r.core = c ∧ r.slot = n
    · obtain ⟨rfl, rfl⟩ := h
      rw [State.slot_updSlot_self, hf]
    · exact congrArg Slot.ship (State.slot_setSlot_ne s (by omega) _)
  · rfl

/-- A task's parked operations. -/
def State.parkedOps (s : State) (r : TaskRef) : Sp Op := s.ops.filter (fun e => e.2.task == r && e.2.isParked)

/-- What a withdrawal leaves of the module: tasks and windows apart from its registers and counts, storage, and the operations but
the task's parked ones. -/
structure Withdrawn (s t : State) : Prop where
  out : t = { s with cores := t.cores, ops := t.ops, parked := t.parked }
  ships : ∀ c n, (t.slot c n).ship = (s.slot c n).ship
  ops : ∀ e ∈ t.ops, e ∈ s.ops

theorem Withdrawn.refl (s : State) : Withdrawn s s := ⟨rfl, fun _ _ => rfl, fun _ h => h⟩

theorem Withdrawn.trans {s t u : State} (h : Withdrawn s t) (k : Withdrawn t u) : Withdrawn s u where
  out := by
    have h1 := h.out
    have h2 := k.out
    generalize t.cores = a at h1
    generalize t.ops = b at h1
    generalize t.parked = c at h1
    subst h1
    exact h2
  ships c n := (k.ships c n).trans (h.ships c n)
  ops e he := h.ops e (k.ops e he)

theorem Withdrawn.updTask (s : State) (r : TaskRef) {f : Slot → Slot} (hf : ∀ x, (f x).ship = x.ship) : Withdrawn s (s.updTask r f) where
  out := by
    obtain ⟨c, h⟩ := s.updTask_ex r f
    rw [h]
  ships := State.slot_updTask_ship s r hf
  ops e he := by
    obtain ⟨c, h⟩ := s.updTask_ex r f
    rw [h] at he
    exact he

/-- A task's parked operations end in its slot. -/
def State.endAll (s : State) (r : TaskRef) (l : Sp Op) : State := l.foldl (fun u e => u.updTask r (fun x => x.ended e.1 e.2)) s

theorem Withdrawn.endAll (s : State) (r : TaskRef) (l : Sp Op) : Withdrawn s (s.endAll r l) :=
  foldl_keeps (P := Withdrawn s) (fun t e h => h.trans (.updTask t r (f := fun x => x.ended e.1 e.2) (fun _ => rfl))) l s (.refl s)

/-- The operations of a list of keys dropped, with what parks of them. -/
def State.dropOps (s : State) (l : List Nat) : State :=
  { s with ops := s.ops.filter (fun e => !l.contains e.1), parked := s.parked.filter (fun q => !l.contains q.2.1) }

theorem Withdrawn.dropOps (s : State) (l : List Nat) : Withdrawn s (s.dropOps l) :=
  ⟨rfl, fun _ _ => rfl, fun _ he => List.mem_of_mem_filter he⟩

/-- A withdrawal drops a task's parked operations, where it has any. -/
theorem State.withdraw_cases (s : State) (r : TaskRef) : s.parkedOps r = [] ∧ s.withdraw r = s ∨
    ∃ u, Withdrawn s u ∧ s.withdraw r = u.dropOps ((s.parkedOps r).map (·.1)) := by
  unfold State.withdraw
  cases hmine : s.parkedOps r with
  | nil =>
    unfold State.parkedOps at hmine
    exact .inl ⟨rfl, by simp only [hmine]⟩
  | cons e l =>
    unfold State.parkedOps at hmine
    refine .inr ⟨(s.endAll r (e :: l)).updTask r (fun x => { x with arch := (x.arch.setPc e.2.tpc).dropPfx, wait := none }),
      (Withdrawn.endAll s r _).trans (.updTask _ r (fun _ => rfl)), ?_⟩
    simp only [hmine]
    rfl

theorem Withdrawn.withdraw (s : State) (r : TaskRef) : Withdrawn s (s.withdraw r) := by
  obtain ⟨-, h⟩ | ⟨u, hu, h⟩ := s.withdraw_cases r
  · rw [h]; exact .refl s
  · rw [h]; exact hu.trans (.dropOps u _)

/-- Behind its withdrawal a task has no parked operation. -/
theorem State.withdraw_unparked (s : State) (r : TaskRef) : ∀ e ∈ (s.withdraw r).ops, e.2.task = r → e.2.isParked = false := by
  intro e he ht
  by_contra hp
  have hin : e ∈ s.parkedOps r := List.mem_filter.2 ⟨(Withdrawn.withdraw s r).ops e he, by simpa [ht] using hp⟩
  obtain ⟨hnil, -⟩ | ⟨u, -, h⟩ := s.withdraw_cases r
  · rw [hnil] at hin
    nomatch hin
  · rw [h] at he
    obtain ⟨-, hout⟩ := List.mem_filter.1 he
    have hkey : e.1 ∈ (s.parkedOps r).map (·.1) := List.mem_map_of_mem hin
    simp [hkey] at hout

theorem Withdrawn.withdrawAll (l : List TaskRef) (s : State) : Withdrawn s (s.withdrawAll l) :=
  foldl_keeps (P := Withdrawn s) (fun t r h => by
    split
    · exact h.trans (.withdraw t r)
    · exact h) l s (.refl s)

theorem State.withdrawAll_cons (s : State) (r : TaskRef) (l : List TaskRef) : s.withdrawAll (r :: l) =
    (if (s.slot r.core r.slot).ship.isNone then s.withdraw r else s).withdrawAll l := rfl

/-- Behind the withdrawals no task of the list has a parked operation, but for one with a guest outstanding. -/
theorem State.withdrawAll_unparked {r : TaskRef} (l : List TaskRef) (s : State) (hr : r ∈ l) (hship : (s.slot r.core r.slot).ship = none) :
    ∀ e ∈ (s.withdrawAll l).ops, e.2.task = r → e.2.isParked = false := by
  induction l generalizing s with
  | nil => nomatch hr
  | cons x l ih =>
    rw [State.withdrawAll_cons]
    obtain rfl | hr := List.mem_cons.1 hr
    · rw [if_pos (by rw [hship]; rfl)]
      exact fun e he => s.withdraw_unparked r e ((Withdrawn.withdrawAll l _).ops e he)
    · refine ih _ hr ?_
      split
      · exact ((Withdrawn.withdraw s x).ships _ _).trans hship
      · exact hship

theorem Withdrawn.part {α : Type} {s t : State} (h : Withdrawn s t) (f : State → α)
    (hf : ∀ (u : State) (c : Sp Core) (o : Sp Op) (q : List (Nat × Nat × Nat)), f { u with cores := c, ops := o, parked := q } = f u) : f t = f s := by
  rw [h.out, hf]

/-! ## The end of a halt, R339 -/

section
variable (s : State) (p : Nat)

theorem State.cleanL1_dLines : ∀ l ∈ (s.cleanL1 p).dLines, l.part ≠ p := fun l hl => by
  simpa using (List.mem_filter.1 hl).2

theorem State.cleanL1_iLines : ∀ l ∈ (s.cleanL1 p).iLines, l.part ≠ p := fun l hl => by
  simpa using (List.mem_filter.1 hl).2

/-- No line of the partition is owned behind the clean. -/
theorem State.cleanL1_owned : ∀ y ∈ (s.cleanL1 p).slices, ∀ l ∈ y.2.lines, l.owner.isSome = true → l.ownPart ≠ p := by
  intro y hy l hl hown
  obtain ⟨x, -, rfl⟩ := List.mem_map.1 hy
  obtain ⟨m, -, rfl⟩ := List.mem_map.1 hl
  split at hown
  · nomatch hown
  · next h =>
    rw [if_neg h]
    exact fun hp => h (by simp [hown, hp])

/-- A halt that is complete, R339 steps 3 to 5. -/
theorem haltComplete_halts (hx : (s.parts.at p {}).halt = .halting) (hq : (s.withdrawAll (s.tasksOf p)).quiet p = true) :
    ∃ t, exec (.haltComplete p) s = .next t ∧ (t.parts.at p {}).halt = .halted ∧ t.mem = s.mem ∧
      (∀ l ∈ t.dLines, l.part ≠ p) ∧
      (∀ r ∈ s.tasksOf p, (s.slot r.core r.slot).ship = none → ∀ e ∈ t.ops, e.2.task = r → e.2.isParked = false) ∧
      (∀ l ∈ t.iLines, l.part ≠ p) ∧ ∀ y ∈ t.slices, ∀ l ∈ y.2.lines, l.owner.isSome = true → l.ownPart ≠ p := by
  have hw := Withdrawn.withdrawAll (s.tasksOf p) s
  refine ⟨_, (if_neg (not_not.2 hx)).trans (if_neg (by rw [hq]; decide)), congrArg Part.halt (Sp.at_set_self _ _ _ _), ?_,
    State.cleanL1_dLines _ p, fun r hr hship => State.withdrawAll_unparked _ s hr hship, State.cleanL1_iLines _ p, State.cleanL1_owned _ p⟩
  exact hw.part State.mem (fun _ _ _ _ => rfl)

theorem haltComplete_waits (hx : (s.parts.at p {}).halt = .halting) (hq : (s.withdrawAll (s.tasksOf p)).quiet p = false) :
    exec (.haltComplete p) s = .next (s.withdrawAll (s.tasksOf p)) :=
  (if_neg (not_not.2 hx)).trans (if_pos (by rw [hq]; rfl))

theorem haltComplete_other (hx : (s.parts.at p {}).halt ≠ .halting) : Does (.haltComplete p) id s := if_pos hx

end

/-! ## A swap out, R340, R341 -/

section
variable (s : State) (p : Nat)

theorem State.wakeAll_ex (l : List TaskRef) (s : State) : ∃ b, l.foldl (fun u r => u.wakeBank r.core r.slot) s = { s with banks := b } :=
  foldl_keeps (P := fun t : State => ∃ b, t = { s with banks := b }) (fun t r h => by
    obtain ⟨b, rfl⟩ := h
    exact State.wakeBank_ex _ _ _) l s ⟨s.banks, rfl⟩

theorem State.mem_imageOf_accs {e : Nat × Core} (he : e ∈ s.cores) {n : Nat} (hn : n < 16) (ho : e.2.big.ownedBy p n = true) :
    (16 * e.1 + n, e.2.big.accs.at n 0, e.2.big.poison.at n false) ∈ (s.imageOf p).accs :=
  List.mem_flatMap.2 ⟨e, he, List.mem_map.2 ⟨n, List.mem_filter.2 ⟨List.mem_range.2 hn, ho⟩, rfl⟩⟩

/-- A swap whose banks await their refresh goes on later, R366. -/
theorem swapComplete_waits (h : s.refreshing ((s.coresOf p).map (·.1)) = true) : Waits (.swapComplete p) s := if_pos h

/-- What is in the image that leaves the cores. -/
theorem swapComplete_out (hx : (s.parts.at p {}).halt = .swappingOut) (h : s.refreshing ((s.coresOf p).map (·.1)) = false) :
    ∃ t i, exec (.swapComplete p) s = .next t ∧ { t with parts := s.parts, due := s.due, banks := s.banks } = s ∧
      (t.parts.at p {}).halt = .swapped ∧ (t.parts.at p {}).image = some i ∧ i = s.imageOf p := by
  obtain ⟨b, hb⟩ := State.wakeAll_ex ((s.did (.swapComplete p)).tasksOf p) (s.did (.swapComplete p))
  have hexec : exec (.swapComplete p) s = execSwapComplete p s := rfl
  rw [hexec]
  unfold execSwapComplete
  simp only [h, hx, hb]
  refine ⟨_, _, rfl, rfl, ?_, ?_, rfl⟩
  · exact congrArg Part.halt (Sp.at_set_self _ _ _ _)
  · exact congrArg Part.image (Sp.at_set_self _ _ _ _)

end

end Sys2Proof.Machine
end

section
/-!
An image that returns to its cores, R340, R342: its slots, its storage and its accumulators.
-/

namespace Sys2Proof.Machine

/-! ## The resume, R342 -/

section
variable (s : State) (p : Nat)

theorem State.core_mapCores {f : Nat → Core → Core} {c : Nat} (hf : f c {} = {}) : (s.mapCores f).core c = f c (s.core c) :=
  Sp.at_mapVals s.cores f c hf

/-- The change of a partition's slots, as `mapSlots` makes it at one core. -/
def Core.mapSlots (p : Nat) (f : Slot → Slot) (k : Core) : Core :=
  { k with slots := k.slots.map (fun e => (e.1, if e.1 != serviceSlot && e.2.part == p && e.2.phase != .free then f e.2 else e.2)) }

theorem State.core_mapSlots (f : Slot → Slot) (c : Nat) : (s.mapSlots p f).core c = (s.core c).mapSlots p f := by
  have hmap : s.mapSlots p f = s.mapCores (fun _ k => k.mapSlots p f) := by
    unfold State.mapSlots Core.mapSlots
    refine congrArg s.mapCores (funext fun _ => funext fun k => congrArg (fun l => { k with slots := l }) ?_)
    exact List.map_congr_left (fun e _ => (apply_ite (Prod.mk e.1) _ _ _).symm)
  rw [hmap, State.core_mapCores s rfl]

theorem Core.slot_mapSlots (k : Core) (f : Slot → Slot) (n : Nat) : (k.mapSlots p f).slot n =
    if n != serviceSlot && (k.slot n).part == p && (k.slot n).phase != .free then f (k.slot n) else k.slot n := by
  refine Sp.at_mapVals k.slots (fun n x => if n != serviceSlot && x.part == p && x.phase != .free then f x else x) n ?_
  exact if_neg (by simp)

/-- A resumed slot. -/
def Slot.resumed (x : Slot) : Slot := { x with halted := false }

theorem State.resumePart_ex : ∃ d, s.resumePart p = { s.mapSlots p Slot.resumed with parts := s.parts.drop p, due := d } := by
  have hpush : ∀ (l : Sp Core) (t : State), ∃ d, l.foldl (fun u e => u.pushOnce (.taskSelection e.1)) t = { t with due := d } := fun l t =>
    foldl_keeps (P := fun u : State => ∃ d, u = { t with due := d }) (fun u e h => by
      obtain ⟨d, rfl⟩ := h
      exact State.pushOnce_ex _ _) l t ⟨t.due, rfl⟩
  exact hpush _ _

/-- A partition that resumes: its slots are no longer halted, and its record is gone. -/
theorem State.resumePart_frame : (s.resumePart p).parts = s.parts.drop p ∧ (s.resumePart p).mem = s.mem ∧ (s.resumePart p).bad = s.bad ∧
    ∀ c, (s.resumePart p).core c = (s.core c).mapSlots p Slot.resumed := by
  obtain ⟨d, hd⟩ := s.resumePart_ex p
  rw [hd]
  exact ⟨rfl, rfl, rfl, fun c => (State.core_congr (t := s.mapSlots p Slot.resumed) rfl c).trans (s.core_mapSlots p _ c)⟩

end

/-! ## Accumulators, R340 -/

/-- An accumulator: whether a context of a partition owns it, its tile and its poison mark. -/
def Big.tile (p i : Nat) (b : Big) : Bool × BitVec 32768 × Bool := (b.ownedBy p i, b.accs.at i 0, b.poison.at i false)

/-- A tile and its mark put back, where a context of the partition owns the accumulator. -/
def Big.putTile (p i : Nat) (x : BitVec 32768 × Bool) (b : Big) : Big :=
  if b.ownedBy p i then { b with accs := Sp.put 0 b.accs i x.1, poison := Sp.put false b.poison i x.2 } else b

section
variable (b : Big) (p i : Nat) (x : BitVec 32768 × Bool)

theorem Big.putTile_rest : b.putTile p i x = { b with accs := (b.putTile p i x).accs, poison := (b.putTile p i x).poison } := by
  unfold Big.putTile
  split <;> rfl

theorem Big.ownedBy_putTile (j : Nat) : (b.putTile p i x).ownedBy p j = b.ownedBy p j := by
  rw [b.putTile_rest]; rfl

theorem Big.tile_putTile_self (h : b.ownedBy p i = true) : (b.putTile p i x).tile p i = (true, x) := by
  unfold Big.tile
  rw [Big.ownedBy_putTile, h, Big.putTile, if_pos h, Sp.at_put_self, Sp.at_put_self]

theorem Big.tile_putTile_ne {j : Nat} (h : i ≠ j) : (b.putTile p i x).tile p j = b.tile p j := by
  unfold Big.tile
  rw [Big.ownedBy_putTile]
  unfold Big.putTile
  split
  · rw [Sp.at_put_ne _ _ h, Sp.at_put_ne _ _ h]
  · rfl

end

section
variable (s : State) (p : Nat)

/-- An accumulator by 16 x core + index. -/
def State.accAt (p n : Nat) (s : State) : Bool × BitVec 32768 × Bool := (s.core (n / 16)).big.tile p (n % 16)

theorem State.restoreAcc_eq (a : Nat × BitVec 32768 × Bool) : s.restoreAcc p a = s.updBig (a.1 / 16) (Big.putTile p (a.1 % 16) a.2) := rfl

theorem State.core_updBig (c d : Nat) (f : Big → Big) : (s.updBig c f).core d =
    if c = d then { s.core d with big := f (s.core d).big } else s.core d := by
  split
  · next h => subst h; exact State.core_setCore_self _ _ _
  · next h => exact State.core_setCore_ne _ h _

/-- An accumulator back in its core, where a context of the partition owns it. -/
theorem State.accAt_restoreAcc_self (a : Nat × BitVec 32768 × Bool) (h : (s.core (a.1 / 16)).big.ownedBy p (a.1 % 16) = true) :
    (s.restoreAcc p a).accAt p a.1 = (true, a.2) := by
  unfold State.accAt
  rw [State.restoreAcc_eq, State.core_updBig, if_pos rfl]
  exact Big.tile_putTile_self _ p _ a.2 h

/-- Another accumulator keeps its owner, its tile and its mark. -/
theorem State.accAt_restoreAcc_ne (a : Nat × BitVec 32768 × Bool) {n : Nat} (h : a.1 ≠ n) : (s.restoreAcc p a).accAt p n = s.accAt p n := by
  unfold State.accAt
  rw [State.restoreAcc_eq, State.core_updBig]
  split
  · exact Big.tile_putTile_ne _ p _ a.2 (by omega)
  · rfl

/-- What the return of accumulators leaves of a state: all but tiles and marks. -/
structure TilesOnly (s t : State) : Prop where
  out : t = { s with cores := t.cores }
  cores : ∀ c, t.core c = { s.core c with big := { (s.core c).big with accs := (t.core c).big.accs, poison := (t.core c).big.poison } }

theorem TilesOnly.restoreAcc (a : Nat × BitVec 32768 × Bool) : TilesOnly s (s.restoreAcc p a) where
  out := rfl
  cores c := by
    rw [State.restoreAcc_eq, State.core_updBig]
    split
    · exact congrArg (fun b => { s.core c with big := b }) (Big.putTile_rest _ p _ a.2)
    · rfl

theorem TilesOnly.refl : TilesOnly s s := ⟨rfl, fun _ => rfl⟩

variable {s} in
theorem TilesOnly.trans {t u : State} (h : TilesOnly s t) (k : TilesOnly t u) : TilesOnly s u where
  out := by
    have h1 := h.out
    have h2 := k.out
    generalize t.cores = a at h1
    subst h1
    exact h2
  cores c := by
    have h1 := h.cores c
    have h2 := k.cores c
    generalize (t.core c).big.accs = a at h1
    generalize (t.core c).big.poison = b at h1
    rw [h1] at h2
    exact h2

variable {s} in
theorem TilesOnly.storage {t : State} (h : TilesOnly s t) {α : Type} (f : State → α) (hf : ∀ (u : State) (c : Sp Core), f { u with cores := c } = f u) :
    f t = f s := by
  rw [h.out, hf]

theorem TilesOnly.restoreAll (l : Sp (BitVec 32768 × Bool)) : TilesOnly s (l.foldl (fun u a => u.restoreAcc p a) s) :=
  foldl_keeps (P := TilesOnly s) (fun t a h => h.trans (.restoreAcc t p a)) l s (.refl s)

variable {s} in
/-- Whose an accumulator is does not change with its tile. -/
theorem TilesOnly.ownedBy {t : State} (h : TilesOnly s t) (c i : Nat) : (t.core c).big.ownedBy p i = (s.core c).big.ownedBy p i := by
  rw [h.cores c]; rfl

/-- Accumulators of an image that lists each once: those that a context of the partition owns are back, R340. -/
theorem State.accAt_restoreAll {l : Sp (BitVec 32768 × Bool)} (hl : (l.map (·.1)).Nodup) {a : Nat × BitVec 32768 × Bool} (ha : a ∈ l)
    (ho : (s.core (a.1 / 16)).big.ownedBy p (a.1 % 16) = true) :
    (l.foldl (fun u a => u.restoreAcc p a) s).accAt p a.1 = (true, a.2) := by
  obtain ⟨u, hu, hr⟩ := foldl_read_mem (f := fun u a => State.restoreAcc u p a) (read := fun n (t : State) => t.accAt p n)
    (fun t b n hb => t.accAt_restoreAcc_ne p b hb) l s hl ha
  refine hr.trans (u.accAt_restoreAcc_self p a ?_)
  exact (congrArg Prod.fst hu).trans ho

end

/-! ## Slots and handler entries, R338, R340 -/

/-- The slots of an image's core that lists each slot once: those with a task from the image, the service slot as it was, the others
clear. -/
theorem Core.slot_restored (k : Core) {old : Core} (h : (old.slots.map (·.1)).Nodup) (n : Nat) : (k.restored old).at n {} =
    if n = serviceSlot then k.slot serviceSlot else if (old.slot n).phase = .free then {} else old.slot n := by
  unfold Core.slot Sp.at Core.restored
  rw [Sp.look_append, Sp.look_filter_nodup h, Sp.look_filter k.slots (· == serviceSlot)]
  by_cases hn : n = serviceSlot
  · subst hn
    cases old.slots.look serviceSlot <;> simp [Option.filter]
  · cases ho : old.slots.look n with
    | none => simp [hn, Option.filter]
    | some x => by_cases hx : x.phase = .free <;> simp [hn, hx, Option.filter]

/-- A core with an image's slots and handler entries. -/
def Core.withImage (k old : Core) : Core :=
  { k with slots := k.restored old, handlers := old.handlers, lastSel := old.lastSel, mark := old.mark }

section
variable (s : State) (i : Image)

/-- The cores of an image take its slots and handler entries. -/
def State.putCores (s : State) (l : Sp Core) : State := l.foldl (fun u e => u.updCore e.1 (fun k => k.withImage e.2)) s

theorem State.restoreCores_ex : ∃ b, s.restoreCores i = { s.putCores i.cores with banks := b } :=
  foldl_keeps (P := fun t : State => ∃ b, t = { s.putCores i.cores with banks := b }) (fun t b h => by
    obtain ⟨b', rfl⟩ := h
    split
    · exact State.wakeBank_ex _ _ _
    · exact ⟨b', rfl⟩) _ _ ⟨_, rfl⟩

theorem State.core_restoreCores {e : Nat × Core} (h : (i.cores.map (·.1)).Nodup) (he : e ∈ i.cores) :
    (s.restoreCores i).core e.1 = (s.core e.1).withImage e.2 := by
  obtain ⟨b, hb⟩ := s.restoreCores_ex i
  obtain ⟨u, hu, hr⟩ := foldl_read_mem (f := fun (u : State) (e : Nat × Core) => u.updCore e.1 (fun k => k.withImage e.2))
    (read := fun c (t : State) => t.core c) (fun t e c hc => State.core_setCore_ne t hc _) i.cores s h he
  have hput : (s.restoreCores i).core e.1 = (s.putCores i.cores).core e.1 := by rw [hb]; rfl
  refine hput.trans (hr.trans ?_)
  rw [← hu]
  exact State.core_setCore_self _ _ _

end

/-! ## Storage, R340 -/

/-- What decides which of a core's storage is in an image. -/
def Core.share (k : Core) : Option Nat × Nat × Sp Nat := (k.part, k.mark, k.big.owners)

theorem State.saves_congr {s t : State} (h : ∀ c, (t.core c).share = (s.core c).share) (p k : Nat) : t.saves p k = s.saves p k := by
  have hc := h (keyCore k)
  simp only [Core.share, Prod.mk.injEq] at hc
  obtain ⟨hpart, hmark, howners⟩ := hc
  unfold State.saves Core.top
  simp only [hpart, hmark, howners]

/-- An image's storage back in place of what the partition's cores held. -/
def State.putStorage (u : State) (p : Nat) (i : Image) : State :=
  let w := u.wipe (fun k => inLocal (i.cores.map (·.1)) 0 0 (2 ^ 32) k || u.saves p k)
  { w with mem := Sp.merge w.mem (i.mem.filter (fun e => u.saves p e.1)), tags := Sp.merge w.tags (i.tags.filter (fun e => u.saves p (16 * e.1))),
           full := Sp.merge w.full (i.full.filter (fun e => u.saves p (4 * e.1))), bad := Sp.merge w.bad (i.bad.filter (fun e => u.saves p (8 * e.1))),
           jobs := Sp.merge w.jobs i.jobs }

theorem State.restore_eq (s : State) (p : Nat) (i : Image) :
    s.restore p i = i.accs.foldl (fun u a => u.restoreAcc p a) ((s.restoreCores i).putStorage p i) := rfl

theorem nodup_keys_filter {α : Type} {m : Sp α} (h : (m.map (·.1)).Nodup) (q : Nat × α → Bool) : ((m.filter q).map (·.1)).Nodup :=
  h.sublist (List.filter_sublist.map _)

section
variable (u : State) (p : Nat) (i : Image)

theorem State.look_putStorage_mem (h : (i.mem.map (·.1)).Nodup) {e : Host.Cell} (he : e ∈ i.mem) (hs : u.saves p e.1 = true) :
    Sp.look (u.putStorage p i).mem e.1 = some e.2 :=
  Sp.look_merge_mem _ (nodup_keys_filter h _) (List.mem_filter.2 ⟨he, hs⟩)

theorem State.look_putStorage_bad (h : (i.bad.map (·.1)).Nodup) {e : Nat × Bool} (he : e ∈ i.bad) (hs : u.saves p (8 * e.1) = true) :
    Sp.look (u.putStorage p i).bad e.1 = some e.2 :=
  Sp.look_merge_mem _ (nodup_keys_filter h _) (List.mem_filter.2 ⟨he, hs⟩)

/-- A byte of the partition's share that the image does not hold reads as zero. -/
theorem State.look_putStorage_none {a : Nat} (hs : u.saves p a = true) (ha : a ∉ i.mem.map (·.1)) : Sp.look (u.putStorage p i).mem a = none := by
  have hgone : a ∉ (i.mem.filter (fun e => u.saves p e.1)).map (·.1) := fun h => ha ((List.filter_sublist.map _).subset h)
  refine (Sp.look_merge_other _ _ hgone).trans ?_
  refine (Sp.look_filter u.mem (fun k => !(inLocal (i.cores.map (·.1)) 0 0 (2 ^ 32) k || u.saves p k)) a).trans (if_neg ?_)
  simp [hs]

end

/-! ## A swap in, R342 -/

section
variable (s : State) (p : Nat) (i : Image)

/-- The state behind a swap in. -/
def State.swappedIn (s : State) (p : Nat) (i : Image) : State := ((s.did (.swapComplete p)).restore p i).resumePart p

theorem swapComplete_in (hx : (s.parts.at p {}).halt = .swappingIn) (hi : (s.parts.at p {}).image = some i)
    (h : s.refreshing ((s.coresOf p).map (·.1)) = false) : exec (.swapComplete p) s = .next (s.swappedIn p i) := by
  have hexec : exec (.swapComplete p) s = execSwapComplete p s := rfl
  rw [hexec]
  unfold execSwapComplete
  simp only [h, hx, hi]
  rfl

theorem State.restore_tiles : TilesOnly (((s.did (.swapComplete p)).restoreCores i).putStorage p i) ((s.did (.swapComplete p)).restore p i) :=
  TilesOnly.restoreAll _ p _

/-- A core behind a swap in: but for its slots' halts and its tiles it is as the image's cores came back. -/
theorem State.core_swappedIn (c : Nat) : ∃ x y, (s.swappedIn p i).core c =
    Core.mapSlots p Slot.resumed { (s.did (.swapComplete p)).restoreCores i |>.core c with
      big := { ((s.did (.swapComplete p)).restoreCores i |>.core c).big with accs := x, poison := y } } := by
  obtain ⟨-, -, -, hcore⟩ := ((s.did (.swapComplete p)).restore p i).resumePart_frame p
  have htiles := (s.restore_tiles p i).cores c
  generalize (((s.did (.swapComplete p)).restore p i).core c).big.accs = x at htiles
  generalize (((s.did (.swapComplete p)).restore p i).core c).big.poison = y at htiles
  exact ⟨x, y, (hcore c).trans (congrArg (Core.mapSlots p Slot.resumed) htiles)⟩

/-- The partition's share of storage is that of the cores as they came back. -/
theorem State.saves_swappedIn (k : Nat) : (s.swappedIn p i).saves p k = ((s.did (.swapComplete p)).restoreCores i).saves p k :=
  State.saves_congr (fun c => by
    obtain ⟨x, y, h⟩ := s.core_swappedIn p i c
    rw [h]; rfl) p k

theorem State.mem_swappedIn : (s.swappedIn p i).mem = (((s.did (.swapComplete p)).restoreCores i).putStorage p i).mem := by
  obtain ⟨-, hmem, -, -⟩ := ((s.did (.swapComplete p)).restore p i).resumePart_frame p
  exact hmem.trans ((s.restore_tiles p i).storage State.mem (fun _ _ => rfl))

theorem State.bad_swappedIn : (s.swappedIn p i).bad = (((s.did (.swapComplete p)).restoreCores i).putStorage p i).bad := by
  obtain ⟨-, -, hbad, -⟩ := ((s.did (.swapComplete p)).restore p i).resumePart_frame p
  exact hbad.trans ((s.restore_tiles p i).storage State.bad (fun _ _ => rfl))

theorem State.parts_swappedIn : (s.swappedIn p i).parts.look p = none := by
  obtain ⟨hparts, -, -, -⟩ := ((s.did (.swapComplete p)).restore p i).resumePart_frame p
  have hlook := congrArg (fun m : Sp Part => m.look p) hparts
  exact hlook.trans ((Sp.look_drop _ p p).trans (if_pos rfl))

/-- The tiles that the partition's contexts own are the image's. -/
theorem State.tiles_swappedIn (h : (i.accs.map (·.1)).Nodup) {a : Nat × BitVec 32768 × Bool} (ha : a ∈ i.accs)
    (ho : ((s.swappedIn p i).core (a.1 / 16)).big.ownedBy p (a.1 % 16) = true) :
    ((s.swappedIn p i).core (a.1 / 16)).big.accs.at (a.1 % 16) 0 = a.2.1 ∧
      ((s.swappedIn p i).core (a.1 / 16)).big.poison.at (a.1 % 16) false = a.2.2 := by
  obtain ⟨-, -, -, hcore⟩ := ((s.did (.swapComplete p)).restore p i).resumePart_frame p
  have hbig : ((s.swappedIn p i).core (a.1 / 16)).big = (((s.did (.swapComplete p)).restore p i).core (a.1 / 16)).big :=
    (congrArg Core.big (hcore (a.1 / 16))).trans rfl
  rw [hbig] at ho ⊢
  have htile := State.accAt_restoreAll (((s.did (.swapComplete p)).restoreCores i).putStorage p i) p h ha
    (((s.restore_tiles p i).ownedBy p _ _).symm.trans ho)
  rw [← State.restore_eq] at htile
  simp only [State.accAt, Big.tile, Prod.ext_iff] at htile
  exact htile.2

/-- A core of the image behind a swap in. -/
theorem State.core_swappedIn_of_mem (h : (i.cores.map (·.1)).Nodup) {e : Nat × Core} (he : e ∈ i.cores) :
    ((s.swappedIn p i).core e.1).handlers = e.2.handlers ∧ ((s.swappedIn p i).core e.1).mark = e.2.mark ∧
      ∃ k : Core, k.slots = (s.core e.1).restored e.2 ∧ ∀ n, (s.swappedIn p i).slot e.1 n = (k.mapSlots p Slot.resumed).slot n := by
  obtain ⟨x, y, hcore⟩ := s.core_swappedIn p i e.1
  have hback := State.core_restoreCores (s.did (.swapComplete p)) i h he
  unfold State.slot
  rw [hcore, hback]
  exact ⟨rfl, rfl, _, rfl, fun _ => rfl⟩

/-- The slots of an image's core behind a swap in, R338, R342. -/
theorem State.slot_swappedIn (h : (i.cores.map (·.1)).Nodup) {e : Nat × Core} (he : e ∈ i.cores) (hs : (e.2.slots.map (·.1)).Nodup) :
    (s.swappedIn p i).slot e.1 serviceSlot = s.slot e.1 serviceSlot ∧
      ∀ n, n ≠ serviceSlot → ((e.2.slot n).phase = .free → ((s.swappedIn p i).slot e.1 n).phase = .free) ∧
        ((e.2.slot n).phase ≠ .free → (s.swappedIn p i).slot e.1 n = { e.2.slot n with halted := ((s.swappedIn p i).slot e.1 n).halted } ∧
          ((e.2.slot n).part = p → ((s.swappedIn p i).slot e.1 n).halted = false)) := by
  obtain ⟨-, -, k, hk, hslot⟩ := s.core_swappedIn_of_mem p i h he
  have hrest : ∀ n, k.slot n = if n = serviceSlot then s.slot e.1 serviceSlot else if (e.2.slot n).phase = .free then {} else e.2.slot n := by
    intro n
    unfold Core.slot
    rw [hk]
    exact Core.slot_restored _ hs n
  refine ⟨?_, fun n hn => ?_⟩
  · rw [hslot, Core.slot_mapSlots, hrest, if_pos rfl]
    exact if_neg (by simp)
  · rw [hslot, Core.slot_mapSlots, hrest, if_neg hn]
    by_cases hfree : (e.2.slot n).phase = .free
    · rw [if_pos hfree]
      exact ⟨fun _ => by rw [if_neg (by simp)], fun hne => absurd hfree hne⟩
    · rw [if_neg hfree]
      refine ⟨fun hf => absurd hf hfree, fun _ => ?_⟩
      split
      · exact ⟨rfl, fun _ => rfl⟩
      · next hcond => exact ⟨rfl, fun hp => absurd (by simp [hn, hp, hfree]) hcond⟩

end

end Sys2Proof.Machine
end

section
/-!
The accumulators' sweep (R58) and the control registers (R165, R197, R295, R314, R329, R330, R362, R379, R380, R413, R414), and with
them the events of partitions.
-/

namespace Sys2Proof.Machine

/-! ## FLAGSUM, R58 -/

/-- The flags of a table united into another. -/
def uniteFlags (q l : Sp Flags) : Sp Flags := l.foldl (fun q f => q.set f.1 (q.at f.1 0 ||| f.2)) q

theorem getLsbD_uniteFlags (p b : Nat) (l : Sp Flags) : ∀ q : Sp Flags, ((uniteFlags q l).at p 0).getLsbD b = true ↔
    (q.at p 0).getLsbD b = true ∨ ∃ f ∈ l, f.1 = p ∧ f.2.getLsbD b = true := by
  induction l with
  | nil => simp [uniteFlags]
  | cons f l ih =>
    intro q
    refine (ih (q.set f.1 (q.at f.1 0 ||| f.2))).trans ?_
    simp only [Sp.at_set, List.mem_cons, exists_eq_or_imp]
    by_cases hf : f.1 = p
    · subst hf
      simp [or_assoc]
    · simp [hf]

theorem getLsbD_uniteCores (p b : Nat) (l : Sp Core) : ∀ q : Sp Flags,
    ((l.foldl (fun m e => uniteFlags m e.2.flagAcc) q).at p 0).getLsbD b = true ↔
      (q.at p 0).getLsbD b = true ∨ ∃ e ∈ l, ∃ f ∈ e.2.flagAcc, f.1 = p ∧ f.2.getLsbD b = true := by
  induction l with
  | nil => simp
  | cons e l ih =>
    intro q
    refine (ih (uniteFlags q e.2.flagAcc)).trans ?_
    simp only [getLsbD_uniteFlags, List.mem_cons, exists_eq_or_imp, or_assoc]

section
variable (s : State) (c p : Nat)

/-- A sweep that is due: the union of the plate's accumulators. -/
theorem flagsumSweep_unites (h : (s.flagsum.at c {}).stamp < s.gt / 256) : ∃ t, exec (.flagsumSweep c) s = .next t ∧
    { t with flagsum := s.flagsum } = s ∧ (t.flagsum.at c {}).stamp = s.gt / 256 ∧
      ∀ b, ((t.flagsum.at c {}).parts.at p 0).getLsbD b = true ↔
        ∃ e ∈ s.cores, corePlate e.1 = c ∧ ∃ f ∈ e.2.flagAcc, f.1 = p ∧ f.2.getLsbD b = true := by
  refine ⟨_, if_neg (Nat.not_le.2 h), rfl, congrArg FlagSweep.stamp (Sp.at_set_self _ _ _ _), fun b => ?_⟩
  rw [Sp.at_set_self]
  refine (getLsbD_uniteCores p b _ []).trans ?_
  simp [Sp.at, Sp.look, and_assoc]

theorem flagsumSweep_waits (h : s.gt / 256 ≤ (s.flagsum.at c {}).stamp) : Waits (.flagsumSweep c) s := if_pos h

end

/-! ## Writes of the easel, R379, R423 -/

section
variable (s t : State)

theorem State.easelWrite_works (h : s.boot ≠ .recovery) : s.easelWrite t = .next t := congrArg Host.Outcome.next (if_neg h)

theorem State.easelWrite_recovery (h : s.boot = .recovery) : s.easelWrite t = .next s := congrArg Host.Outcome.next (if_pos h)

/-- A write that changes nothing. -/
theorem State.easelWrite_same (h : t = s) : s.easelWrite t = .next s := by
  subst h
  exact congrArg Host.Outcome.next (ite_self _)

/-- In recovery no register is written, R423. -/
theorem recovery_waits (h : s.boot = .recovery) (c : Nat) (v : BitVec 64) : Waits (.slicePairSet c v) s ∧ Waits (.checkModeSet c v) s ∧
    Waits (.fwallWrite c v) s ∧ (∀ n r, Waits (.regionTableWrite n r) s) ∧ (∀ b w, Waits (.bworldWrite b w) s) ∧
    ∀ r, Waits (.controlRegisterWrite r v) s := by
  refine ⟨s.easelWrite_recovery _ h, s.easelWrite_recovery _ h, s.easelWrite_recovery _ h, fun _ _ => s.easelWrite_recovery _ h,
    fun _ _ => s.easelWrite_recovery _ h, fun r => ?_⟩
  cases r <;> exact s.easelWrite_recovery _ h

end

/-! ## BCTL, R314, R329, R379 -/

theorem bit_toNat {w : Nat} (v : BitVec w) (k : Nat) : bit v.toNat k = v.getLsbD k := (bit_eq_testBit _ _).trans rfl

/-- The conditions of a write of the slice pair's fields, R329: at a big core, no slot that holds a task changes its group, Q lies in
its range, and in a pair each slot's context is its group's. -/
def PairLegal (s : State) (c w : Nat) : Prop :=
  isBig c = true ∧ (∀ e ∈ s.slotHolders c, bit (bits w 31 24) e.1 = bit (s.core c).big.pair.smap e.1) ∧ 12 ≤ bits w 23 19 ∧ bits w 23 19 ≤ 24 ∧
    (bit w 18 = true → ∀ e ∈ s.slotHolders c, e.2 = if bit (bits w 31 24) e.1 then bits w 47 32 else bits w 63 48)

/-- The conditions of a write of CHK, R314. -/
def ModeLegal (s : State) (c : Nat) (v : BitVec 64) : Prop :=
  isBig c = true ∧ (s.mtxq.at c [] = [] ∨ (s.core c).big.deferred = v.getLsbD 17)

section
variable (s : State) (c x : Nat)

theorem State.pairAllowed_iff : s.pairAllowed c x = true ↔ PairLegal s c x := by
  have hslen : (s.newPair c x).slen = bit x 18 := rfl
  unfold State.pairAllowed
  simp only [Bool.and_eq_true, List.all_eq_true, beq_iff_eq, decide_eq_true_eq, Bool.or_eq_true, Bool.not_eq_true', hslen]
  constructor
  · rintro ⟨⟨⟨⟨hbig, hgroups⟩, howners⟩, hlow⟩, hhigh⟩
    exact ⟨hbig, hgroups, hlow, hhigh, fun hs => howners.resolve_left (by rw [hs]; decide)⟩
  · rintro ⟨hbig, hgroups, hlow, hhigh, howners⟩
    refine ⟨⟨⟨⟨hbig, hgroups⟩, ?_⟩, hlow⟩, hhigh⟩
    cases hs : bit x 18 with
    | false => exact .inl rfl
    | true => exact .inr (howners hs)

theorem State.modeAllowed_iff (v : BitVec 64) : s.modeAllowed c v.toNat = true ↔ ModeLegal s c v := by
  unfold State.modeAllowed ModeLegal
  rw [Bool.and_eq_true, Bool.or_eq_true, beq_iff_eq, List.isEmpty_iff, or_comm, bit_toNat]

theorem State.big_updBig (f : Big → Big) : ((s.updBig c f).core c).big = f (s.core c).big := by
  rw [State.core_updBig, if_pos rfl]

/-- The mode may be written behind the pair as before it. -/
theorem State.modeAllowed_setPair : (s.setPair c x).modeAllowed c x = s.modeAllowed c x := by
  unfold State.setPair
  split
  · unfold State.modeAllowed
    rw [State.big_updBig]
    rfl
  · rfl

end

section
variable {s : State} {c : Nat} {v : BitVec 64}

/-- The slice pair's fields written where they may be. -/
theorem slicePairSet_writes (h : PairLegal s c v.toNat) (hb : s.boot ≠ .recovery) :
    exec (.slicePairSet c v) s = .next (s.updBig c (fun b => { b with pair := s.newPair c v.toNat })) :=
  (s.easelWrite_works _ hb).trans (congrArg Host.Outcome.next (if_pos ((s.pairAllowed_iff c _).2 h)))

theorem slicePairSet_waits (h : ¬ PairLegal s c v.toNat) : Waits (.slicePairSet c v) s :=
  s.easelWrite_same _ (if_neg (mt (s.pairAllowed_iff c _).1 h))

theorem State.setCheckMode_writes (h : s.modeAllowed c v.toNat = true) :
    s.setCheckMode c v.toNat = s.updBig c (fun b => { b with deferred := v.getLsbD 17 }) := by
  rw [← bit_toNat]
  exact if_pos h

/-- CHK written where it may be, R314. -/
theorem checkModeSet_writes (hb : s.boot ≠ .recovery) (h : ModeLegal s c v) :
    exec (.checkModeSet c v) s = .next (s.updBig c (fun b => { b with deferred := v.getLsbD 17 })) :=
  (s.easelWrite_works _ hb).trans (congrArg Host.Outcome.next (State.setCheckMode_writes ((s.modeAllowed_iff c v).2 h)))

theorem checkModeSet_waits (h : ¬ ModeLegal s c v) : Waits (.checkModeSet c v) s :=
  s.easelWrite_same _ (if_neg (mt (s.modeAllowed_iff c v).1 h))

/-- A write of BCTL in which a condition is broken is ignored whole, R379. -/
theorem State.setBctl_ignored (h : ¬ PairLegal s c v.toNat ∨ ¬ ModeLegal s c v) : s.setControl (.bctl c) v.toNat = s := by
  refine if_neg (fun hboth => ?_)
  rw [s.pairAllowed_iff, s.modeAllowed_iff] at hboth
  exact h.elim (fun hp => hp hboth.1) (fun hm => hm hboth.2)

/-- A write of BCTL that is allowed sets the slice pair's fields and CHK. -/
theorem State.setBctl_writes (hp : PairLegal s c v.toNat) (hm : ModeLegal s c v) :
    ((s.setControl (.bctl c) v.toNat).core c).big = { (s.core c).big with pair := s.newPair c v.toNat, deferred := v.getLsbD 17 } := by
  have hp := (s.pairAllowed_iff c _).2 hp
  have hm := (s.modeAllowed_iff c v).2 hm
  have hpair : s.setPair c v.toNat = s.updBig c (fun b => { b with pair := s.newPair c v.toNat }) := if_pos hp
  have hset : s.setControl (.bctl c) v.toNat = (s.setPair c v.toNat).setCheckMode c v.toNat := if_pos ⟨hp, hm⟩
  rw [hset, State.setCheckMode_writes ((s.modeAllowed_setPair c _).trans hm), State.big_updBig, hpair, State.big_updBig]

/-! ## FWALL, the region table and BWORLD, R380, R413, R414 -/

theorem fwallWrite_writes (hb : s.boot ≠ .recovery) (he : s.isEasel c = true) : ∃ t, exec (.fwallWrite c v) s = .next t ∧
    (∀ d, d ≠ c → t.core d = s.core d) ∧
    t.core c = { s.core c with fwall := if (s.core c).fwall.getLsbD 1 then (s.core c).fwall else v &&& 0xFFFFFFFF0100000F } := by
  refine ⟨_, s.easelWrite_works _ hb, fun d hd => ?_, ?_⟩
  · rw [show s.setControl (.fwall c) v.toNat = s.setFwall c (BitVec.ofNat 64 v.toNat) from if_pos he]
    exact State.core_setCore_ne _ (Ne.symm hd) _
  · rw [show s.setControl (.fwall c) v.toNat = s.setFwall c (BitVec.ofNat 64 v.toNat) from if_pos he, BitVec.ofNat_toNat, BitVec.setWidth_eq]
    refine (State.core_setCore_self _ _ _).trans ?_
    by_cases hlock : (s.core c).fwall.getLsbD 1 = true
    · rw [if_pos hlock]
      exact if_pos hlock
    · rw [if_neg hlock]
      exact if_neg hlock

theorem fwallWrite_waits (he : s.isEasel c = false) : Waits (.fwallWrite c v) s :=
  s.easelWrite_same _ (if_neg (by rw [he]; decide))

theorem regionTableWrite_writes (hb : s.boot ≠ .recovery) (n : BitVec 6) (r : BitVec 128) :
    let old := s.regions.at n.toNat 0
    ∃ t, exec (.regionTableWrite n r) s = .next t ∧ { t with regions := s.regions } = s ∧
      (∀ j, j ≠ n.toNat → t.regions.at j 0 = s.regions.at j 0) ∧
      t.regions.at n.toNat 0 = if old.getLsbD 2 then old else r &&& 0x00000000FFFFFFFFFFFFFFFF00000007 := by
  intro old
  refine ⟨_, s.easelWrite_works _ hb, ?_⟩
  unfold State.setRegion
  by_cases hlock : old.getLsbD 2 = true
  · rw [if_pos hlock, if_pos hlock]
    exact ⟨rfl, fun _ _ => rfl, rfl⟩
  · rw [if_neg hlock, if_neg hlock]
    exact ⟨rfl, fun j hj => Sp.at_put_ne _ _ (Ne.symm hj) _, Sp.at_put_self _ _ _ _⟩

theorem bworldWrite_waits {b : Block} {w : Bool} (h : s.blockBusy b = true ∨ b = .easel) : Waits (.bworldWrite b w) s := by
  have hbusy : s.blockBusy b = true := h.elim id (fun he => by rw [he]; rfl)
  exact s.easelWrite_same _ (if_pos hbusy)

/-- A world bit of a block without work, R413. -/
theorem bworldWrite_writes (hb : s.boot ≠ .recovery) {b : Block} {w : Bool} {t : State}
    (ht : s.setWorld b w = t) : exec (.bworldWrite b w) s = .next t :=
  (s.easelWrite_works _ hb).trans (congrArg Host.Outcome.next ht)

end

/-! ## The other control registers, R379 -/

section
variable (s : State) (c : Nat)

/-- The LPCT entry of one core. -/
theorem State.phys_setLpct (x d : Nat) : (s.setControl (.lpct c) x).phys d = if d = c then bits x 31 18 else s.phys d := by
  have hset : (s.setControl (.lpct c) x).lpct = if bits x 31 18 = c then (s.lpct.set c { st := 0, phys := bits x 31 18 }).drop c
      else (s.lpct.set c { st := 0, phys := bits x 31 18 }).set c { st := 0, phys := bits x 31 18 } := by
    simp only [State.setControl, State.settle, Sp.look_set_self]
  unfold State.phys
  rw [hset]
  by_cases hd : d = c
  · subst hd
    by_cases hx : bits x 31 18 = d <;> simp [hx, Sp.look_drop]
  · have hcd : c ≠ d := Ne.symm hd
    by_cases hx : bits x 31 18 = c <;> simp [hx, hd, hcd, Sp.look_drop, Sp.look_set]

/-- HOSTCTX of a big core written: its host context, and its command path starts anew where it had stopped, R330, R333. -/
theorem State.setHost_writes (n : Nat) : ((s.setHost c n).core c).big.host = (s.ctx n).host n ∧ ((s.setHost c n).core c).big.stopped = false ∧
    ((s.core c).big.stopped = true → Instr.matrixCommandStart c ∈ (s.setHost c n).due) := by
  have hbig := s.big_updBig c (fun b => { b with host := (s.ctx n).host n, trapped := b.trapped && !b.stopped, stopped := false })
  unfold State.setHost
  dsimp only
  by_cases hs : (s.core c).big.stopped = true
  · rw [if_pos hs]
    exact ⟨congrArg Big.host hbig, congrArg Big.stopped hbig, fun _ => List.mem_append_right _ List.mem_cons_self⟩
  · rw [if_neg hs]
    exact ⟨congrArg Big.host hbig, congrArg Big.stopped hbig, fun h => absurd h hs⟩

theorem State.look_owner_setOwner (u x : Nat) : ((s.setControl (.owner c u) x).core c).big.owners.look u = if bit x 4 then some (x % 16) else none := by
  have hbig : ((s.setControl (.owner c u) x).core c).big = _ := s.big_updBig c _
  rw [hbig]
  dsimp only
  split
  · exact Sp.look_set_self _ _ _
  · exact (Sp.look_drop _ _ _).trans (if_pos rfl)

end

/-! ## The statement -/

/-- Settles O51: a withdrawal leaves no parked operation of a task without a window (`State.withdrawAll_unparked`), a swap out takes
`State.imageOf`, a swap in puts each listed part of the image back once (`foldl_read_mem`), and each register takes its write where
its condition holds (`State.pairAllowed_iff`, `State.modeAllowed_iff`). -/
theorem partitionEvents : Obligations.PartitionEvents := by
  intro s c p v x w works
  refine ⟨fun r hr hship => State.withdrawAll_unparked _ s hr hship, haltComplete_other s p, haltComplete_waits s p, haltComplete_halts s p,
    swapComplete_waits s p, fun hx h => ?_, fun i hx hi h hcores hmem haccs hslots => ?_, flagsumSweep_waits s c, flagsumSweep_unites s c p,
    ?_, fun h => recovery_waits s h c v, fun hb hbig h => checkModeSet_writes hb ⟨hbig, h⟩, fun h => ?_, fwallWrite_writes, fwallWrite_waits,
    regionTableWrite_writes, fun b w h => bworldWrite_waits h, fun hb plate w h => ?_, fun hb plate w h => ?_, fun hb w h => ?_, fun hb plate gx gy => ?_,
    fun hb q hlo hhi => ?_, fun hb u => ?_, fun hb => ?_, fun hb => ?_⟩
  · obtain ⟨t, i, ht, hrest, hhalt, himage, rfl⟩ := swapComplete_out s p hx h
    refine ⟨t, _, ht, hrest, hhalt, himage, fun e he => ?_, fun e he => ?_, fun e he => ?_, fun j hj => ?_,
      fun e he n hn ho => s.mem_imageOf_accs p he hn ho⟩
    · simp [State.imageOf, State.coresOf, he]
    · simp [State.imageOf, he]
    · simp [State.imageOf, he]
    · simp [State.imageOf, hj]
  · refine ⟨_, swapComplete_in s p i hx hi h, s.parts_swappedIn p i, fun e he hs => ?_, fun hbad e he hs => ?_, fun a hs ha => ?_,
      fun a ha ho => s.tiles_swappedIn p i haccs ha ho, fun e he => ?_⟩
    · rw [s.mem_swappedIn]
      exact State.look_putStorage_mem _ p i hmem he ((s.saves_swappedIn p i _).symm.trans hs)
    · rw [s.bad_swappedIn]
      exact State.look_putStorage_bad _ p i hbad he ((s.saves_swappedIn p i _).symm.trans hs)
    · rw [s.mem_swappedIn]
      exact State.look_putStorage_none _ p i ((s.saves_swappedIn p i _).symm.trans hs) ha
    · obtain ⟨hhandlers, hmark, -⟩ := s.core_swappedIn_of_mem p i hcores he
      exact ⟨hhandlers, hmark, s.slot_swappedIn p i hcores he (hslots e he)⟩
  · refine ⟨State.setBctl_ignored, fun hp hm => ?_, fun hp hb => ⟨_, slicePairSet_writes hp hb, rfl, rfl, rfl, rfl, rfl⟩, slicePairSet_waits⟩
    rw [State.setBctl_writes hp hm]
    exact ⟨rfl, rfl, rfl, rfl, rfl, rfl⟩
  · refine checkModeSet_waits (fun ⟨hbig, hmode⟩ => ?_)
    obtain hlittle | ⟨hq, hne⟩ := h
    · rw [hlittle] at hbig
      nomatch hbig
    · exact hmode.elim hq hne
  · exact ⟨_, bworldWrite_writes hb (if_neg (by rw [h]; decide)), rfl, Sp.at_put_self _ _ _ _⟩
  · exact ⟨_, bworldWrite_writes hb (if_neg (by rw [h]; decide)), rfl, Sp.at_put_self _ _ _ _⟩
  · exact bworldWrite_writes hb (if_neg (by simp [State.blockBusy, h]))
  · exact s.easelWrite_works _ hb
  · have hset : s.setQuota q.toNat v.toNat = { s with quota := Sp.put 16 s.quota q.toNat v.toNat } := if_pos ⟨hlo, hhi⟩
    exact ⟨_, (s.easelWrite_works _ hb).trans (congrArg Host.Outcome.next hset), rfl, Sp.at_put_self _ _ _ _⟩
  · refine ⟨_, s.easelWrite_works _ hb, (s.look_owner_setOwner c u v.toNat).trans ?_⟩
    rw [bit_toNat]
  · exact ⟨_, s.easelWrite_works _ hb, (s.phys_setLpct c _ c).trans (if_pos rfl), fun d hd => (s.phys_setLpct c _ d).trans (if_neg hd)⟩
  · exact ⟨_, s.easelWrite_works _ hb, s.setHost_writes c (v.toNat % 2 ^ 16)⟩

end Sys2Proof.Machine
end

section
/-!
Integer element operations, R84, R85: what each element function comes to modulo 2^w.
-/

namespace Sys2Proof.Machine

/-! ## Reductions modulo 2^w -/

theorem wrap_eq (i : Int) (w : Nat) : wrap i w = (i % 2 ^ w).toNat := by
  unfold wrap
  push_cast
  rfl

theorem wrap_cast (i : Int) (w : Nat) : (wrap i w : Int) = i % 2 ^ w := by
  rw [wrap_eq, Int.toNat_of_nonneg (Int.emod_nonneg _ (by positivity))]

theorem wrap_lt (i : Int) (w : Nat) : wrap i w < 2 ^ w := by
  have h : (wrap i w : Int) < 2 ^ w := by rw [wrap_cast]; exact Int.emod_lt_of_pos _ (by positivity)
  exact_mod_cast h

theorem elem_lt (v : Vec) (w j : Nat) : elem v w j < 2 ^ w := Nat.mod_lt _ (Nat.two_pow_pos w)

theorem intWidth_pos (t : BitVec 3) : 0 < intWidth t := by
  revert t; decide

theorem subMod_eq {w x y : Nat} (hy : y ≤ 2 ^ w) : subMod w x y = (x + (2 ^ w - y)) % 2 ^ w := by
  have h : (subMod w x y : Int) = ((x + (2 ^ w - y)) % 2 ^ w : Nat) := by
    rw [subMod, wrap_cast]
    push_cast [hy]
    rw [← Int.add_emod_right]
    congr 1
    ring
  exact_mod_cast h

theorem mulHigh_eq (signed : Bool) (w x y : Nat) :
    mulHigh signed w x y = (readInt signed w x * readInt signed w y / 2 ^ w % 2 ^ w).toNat := by
  rw [mulHigh, wrap_eq]
  push_cast
  rfl

theorem notBits_eq {w x : Nat} (hx : x < 2 ^ w) : notBits w x = 2 ^ w - 1 - x := by
  rw [notBits, Nat.mod_eq_of_lt hx]

/-! ## Shifts and rotates, R85 -/

theorem shiftLeft_mod (w x k : Nat) : shiftLeft w x k % 2 ^ w = (if k < w then x * 2 ^ k else 0) % 2 ^ w := by
  unfold shiftLeft
  by_cases hk : k < w
  · rw [if_neg (Nat.not_le.2 hk), if_pos hk, Nat.mod_mod]
  · rw [if_pos (Nat.not_lt.1 hk), if_neg hk]

/-- The signed reading lies in the range of w bits, R42. -/
theorem sext_range {w : Nat} (hw : 0 < w) (x : Nat) : -(2 ^ (w - 1) : Int) ≤ sext x w ∧ sext x w < 2 ^ (w - 1) := by
  have hlt : x % 2 ^ w < 2 ^ w := Nat.mod_lt _ (Nat.two_pow_pos w)
  have hdouble : 2 ^ w = 2 * 2 ^ (w - 1) := by rw [← Nat.pow_succ', Nat.succ_eq_add_one, Nat.sub_add_cancel hw]
  have hcast : ((2 ^ (w - 1) : Nat) : Int) = 2 ^ (w - 1) := by push_cast; rfl
  unfold sext
  dsimp only
  rw [← hcast]
  split <;> omega

/-- A shift of a number of w bits by w or more leaves copies of its sign. -/
theorem ediv_two_pow_min {w : Nat} {z : Int} (hlo : -(2 ^ w) ≤ z) (hhi : z < 2 ^ w) (k : Nat) : z / 2 ^ min k w = z / 2 ^ k := by
  rcases Nat.le_total k w with hk | hk
  · rw [Nat.min_eq_left hk]
  · have hpow : (2 ^ w : Int) ≤ 2 ^ k := pow_le_pow_right₀ (by decide) hk
    have hsign : ∀ p : Int, 2 ^ w ≤ p → z / p = if z < 0 then -1 else 0 := fun p hp => by
      have hpos : (0 : Int) < 2 ^ w := by positivity
      split
      · next hz => exact (Int.ediv_eq_iff_of_pos (by omega)).2 ⟨by omega, by omega⟩
      · next hz => exact Int.ediv_eq_zero_of_lt (by omega) (by omega)
    rw [Nat.min_eq_right hk, hsign _ le_rfl, hsign _ hpow]

theorem shiftArith_eq {w : Nat} (hw : 0 < w) (x k : Nat) : shiftArith w x k = (sext x w / 2 ^ k % 2 ^ w).toNat := by
  obtain ⟨hlo, hhi⟩ := sext_range hw x
  have hpow : (2 ^ (w - 1) : Int) ≤ 2 ^ w := pow_le_pow_right₀ (by decide) (Nat.sub_le _ _)
  rw [shiftArith, wrap_eq]
  push_cast
  rw [ediv_two_pow_min (by omega) (by omega)]

theorem shiftRight_eq {w x : Nat} (hx : x < 2 ^ w) (k : Nat) : shiftRight w x k = x / 2 ^ k := by
  unfold shiftRight
  split
  · next hk => exact (Nat.div_eq_of_lt (Nat.lt_of_lt_of_le hx (Nat.pow_le_pow_right (by decide) hk))).symm
  · rfl

/-- SHR, R85: both readings shift by division. -/
theorem shr_eq {w x : Nat} (hw : 0 < w) (hx : x < 2 ^ w) (signed : Bool) (k : Nat) :
    (if signed then shiftArith w x k else shiftRight w x k) = (readInt signed w x / 2 ^ k % 2 ^ w).toNat := by
  cases signed with
  | true => exact shiftArith_eq hw x k
  | false =>
    have hdiv : x / 2 ^ k < 2 ^ w := Nat.lt_of_le_of_lt (Nat.div_le_self _ _) hx
    simp only [readInt, Bool.false_eq_true, if_false, Nat.mod_eq_of_lt hx, shiftRight_eq hx]
    exact_mod_cast (Nat.mod_eq_of_lt hdiv).symm

theorem rotateLeft_mod (w x k : Nat) :
    rotateLeft w x k % 2 ^ w = (x * 2 ^ (k % w) + x / 2 ^ (w - k % w)) % 2 ^ w := Nat.mod_add_mod _ _ _

/-- Settles O1: a ready instruction of two sources writes its element function's values (`writesLanes_int`), and each function is
the table's modulo 2^w. -/
theorem integerElements : Obligations.IntegerElements := by
  refine ⟨fun s g d a b t => ?_, fun s g d a b t => ?_⟩
  · intro w m x y X Y
    have hy : ∀ j, y j ≤ 2 ^ w := fun j => (elem_lt (s.vec b) w j).le
    refine ⟨fun h => writesLanes_int h _ (exec_add ..) (fun _ _ => rfl), fun h => writesLanes_int h _ (exec_sub ..) (fun j _ => ?_),
      fun h => writesLanes_int h _ (exec_mul ..) (fun _ _ => rfl), fun h => writesLanes_int h _ (exec_mulh ..) (fun j _ => ?_),
      fun h => writesLanes_int h _ (exec_mad ..) (fun _ _ => rfl), fun h => writesLanes_int h _ (exec_min ..) (fun _ _ => rfl),
      fun h => writesLanes_int h _ (exec_max ..) (fun _ _ => rfl), fun h => writesLanes_int h _ (exec_absd ..) (fun _ _ => rfl)⟩
    · exact (congrArg (· % 2 ^ w) (subMod_eq (hy j))).trans (Nat.mod_mod _ _)
    · exact congrArg (· % 2 ^ w) (mulHigh_eq (intSigned t) w (x j) (y j))
  · intro w m x y
    have hw : 0 < w := intWidth_pos t
    have hx : ∀ j, x j < 2 ^ w := elem_lt (s.vec a) w
    have hy : ∀ j, y j < 2 ^ w := elem_lt (s.vec b) w
    refine ⟨fun h => writesLanes_int h _ (exec_and ..) (fun _ _ => rfl), fun h => writesLanes_int h _ (exec_or ..) (fun _ _ => rfl),
      fun h => writesLanes_int h _ (exec_xor ..) (fun _ _ => rfl), fun h => writesLanes_int h _ (exec_andn ..) (fun j _ => ?_),
      fun h => writesLanes_int h _ (exec_shl ..) (fun j _ => shiftLeft_mod w (x j) (y j)),
      fun h => writesLanes_int h _ (exec_shr ..) (fun j _ => ?_),
      fun h => writesLanes_int h _ (exec_rot ..) (fun j _ => rotateLeft_mod w (x j) (y j))⟩
    · exact congrArg (fun z => (x j &&& z) % 2 ^ w) (notBits_eq (hy j))
    · exact congrArg (· % 2 ^ w) (shr_eq hw (hx j) (intSigned t) (y j))

end Sys2Proof.Machine
end

section
/-!
Immediates, unary operations, selection, permutation, reduction and scan, R86 to R91.
-/

namespace Sys2Proof.Machine

/-! ## Unary operations, R88 -/

theorem isWidth_intWidth (t : BitVec 3) : isWidth (intWidth t) := by
  revert t; unfold isWidth; decide

/-- SEXT and ZEXT write elements of twice the width. -/
theorem two_intWidth_dvd (t : BitVec 3) : 2 * intWidth t ∣ 1024 := by
  revert t; decide

/-- A number of w bits reads as itself or, where its sign bit counts, as 2^w less. -/
theorem readInt_cases {w x : Nat} (hx : x < 2 ^ w) (signed : Bool) :
    readInt signed w x = x ∨ readInt signed w x = (x : Int) - (2 ^ w : Nat) := by
  unfold readInt sext
  rw [Nat.mod_eq_of_lt hx]
  cases signed with
  | false => exact .inl rfl
  | true =>
    simp only [if_true]
    split
    · exact .inl rfl
    · exact .inr rfl

/-- NEG, R88. -/
theorem subMod_zero_mod {w x : Nat} (hx : x ≤ 2 ^ w) : subMod w 0 x % 2 ^ w = (2 ^ w - x) % 2 ^ w := by
  rw [subMod_eq hx, Nat.mod_mod, Nat.zero_add]

/-- ABS, R88. -/
theorem unopAbs_mod {t : BitVec 3} {x : Nat} (hx : x < 2 ^ intWidth t) :
    (if typed t x < 0 then subMod (intWidth t) 0 x else x) % 2 ^ intWidth t =
      (readInt (intSigned t) (intWidth t) x).natAbs % 2 ^ intWidth t := by
  unfold typed
  rcases readInt_cases hx (intSigned t) with hr | hr <;> rw [hr]
  · rw [if_neg (by omega), Int.natAbs_natCast]
  · rw [if_pos (by omega), subMod_zero_mod hx.le]
    congr 1
    omega

/-- The element operations of UNOP below the widening ones. -/
theorem unopElem_mod {t : BitVec 3} {x : Nat} (hx : x < 2 ^ intWidth t) (o : Nat) :
    unopElem t o x % 2 ^ intWidth t = (match o with
      | 0 => 2 ^ intWidth t - 1 - x
      | 1 => 2 ^ intWidth t - x
      | 2 => (readInt (intSigned t) (intWidth t) x).natAbs
      | 3 => clz (intWidth t) x
      | 4 => popCount x (intWidth t)
      | 5 => reverseBits (intWidth t) x
      | _ => reverseBytes (intWidth t) x) % 2 ^ intWidth t := by
  match o with
  | 0 => exact congrArg (· % 2 ^ intWidth t) (notBits_eq hx)
  | 1 => exact subMod_zero_mod hx.le
  | 2 => exact unopAbs_mod hx
  | 3 | 4 | 5 | _ + 6 => rfl

/-! ## REDUCE and SCAN, R91 -/

section
variable {t : BitVec 3} {o : Nat}

theorem combineInt_lt {x y : Nat} (hx : x < 2 ^ intWidth t) (hy : y < 2 ^ intWidth t) : combineInt t o x y < 2 ^ intWidth t := by
  unfold combineInt
  split
  · exact Nat.mod_lt _ (Nat.two_pow_pos _)
  · split <;> assumption
  · split <;> assumption
  · exact Nat.and_lt_two_pow x hy
  · exact Nat.or_lt_two_pow hx hy
  · exact Nat.xor_lt_two_pow hx hy

theorem foldl_combineInt_lt : ∀ {l : List Nat} {x : Nat}, x < 2 ^ intWidth t → (∀ y ∈ l, y < 2 ^ intWidth t) →
    l.foldl (combineInt t o) x < 2 ^ intWidth t
  | [], _, hx, _ => hx
  | y :: l, _, hx, hl => foldl_combineInt_lt (l := l) (combineInt_lt hx (hl y List.mem_cons_self)) (fun z hz => hl z (List.mem_cons_of_mem y hz))

theorem combineAll_lt {l : List Nat} (hl : ∀ y ∈ l, y < 2 ^ intWidth t) : combineAll t o l < 2 ^ intWidth t := by
  cases l with
  | nil => exact Nat.two_pow_pos _
  | cons x l => exact foldl_combineInt_lt (hl x List.mem_cons_self) (fun y hy => hl y (List.mem_cons_of_mem x hy))

theorem enabledBelow_lt {m : Word} {v : Vec} {w n : Nat} : ∀ y ∈ enabledBelow m v w n, y < 2 ^ w := by
  intro y hy
  obtain ⟨j, -, rfl⟩ := List.mem_map.1 hy
  exact elem_lt v w j

/-- The combination of enabled elements fits a register. -/
theorem toNat_combineAll (m : Word) (v : Vec) (n : Nat) :
    (BitVec.ofNat 1024 (combineAll t o (enabledBelow m v (intWidth t) n))).toNat = combineAll t o (enabledBelow m v (intWidth t) n) := by
  have hw : intWidth t ≤ 1024 := Nat.le_of_dvd (by decide) (intWidth_dvd t)
  rw [BitVec.toNat_ofNat]
  exact Nat.mod_eq_of_lt (Nat.lt_of_lt_of_le (combineAll_lt enabledBelow_lt) (Nat.pow_le_pow_right Nat.two_pos hw))

end

/-! ## Instructions of one source and of none -/

section
variable {s : State} {g : BitVec 4} {d a b o : BitVec 6} {t : BitVec 3}

theorem unop_elements (h : Ready (.unop g d a o t) s) (ho : o.toNat < 7) :
    WritesLanes (.unop g d a o t) d (intWidth t) (s.mask g) (fun j => unopElem t o.toNat (elem (s.vec a) (intWidth t) j)) s := by
  refine writesLanes_of h (intWidth_dvd t) (fun e j => unopElem t o.toNat (elem (e.v a) (intWidth t) j)) ?_ (fun _ _ => rfl)
  simp only [exec_unop, execUnop, if_neg (Nat.not_le.2 ho)]

theorem unop_widens (h : Ready (.unop g d a o t) s) (ho : 7 ≤ o.toNat) : WritesLanes (.unop g d a o t) d (2 * intWidth t) (s.mask g)
    (fun j => wrap (readInt (o == 7) (intWidth t) (elem (s.vec a) (intWidth t) j)) (2 * intWidth t)) s := by
  refine writesLanes_of h (two_intWidth_dvd t)
    (fun e j => wrap (readInt (o == 7) (intWidth t) (elem (e.v a) (intWidth t) j)) (2 * intWidth t)) ?_ (fun _ _ => rfl)
  simp only [exec_unop, execUnop, if_pos ho]

theorem sel_selects (h : Ready (.sel g d a b t) s) : WritesVec (.sel g d a b t) d (fun v => ∀ j, j < 1024 / intWidth t →
    elem v (intWidth t) j = if enabled (s.mask g) (intWidth t) j then elem (s.vec a) (intWidth t) j else elem (s.vec b) (intWidth t) j) s := by
  refine writesVec_of h _ (exec_sel ..) (fun j hj => ?_)
  rw [elem_ofElems (intWidth_dvd t) _ hj, Nat.mod_eq_of_lt]
  · rfl
  · split <;> exact elem_lt ..

end

/-- Values that agree modulo 2^w are written alike. -/
theorem WritesLanes.congr {i : Instr} {d : BitVec 6} {w : Nat} {m : Word} {f f' : Nat → Nat} {s : State} (h : WritesLanes i d w m f s)
    (hf : ∀ j, f j % 2 ^ w = f' j % 2 ^ w) : WritesLanes i d w m f' s := by
  unfold WritesLanes at h ⊢
  simpa only [hf] using h

/-- Settles O2: each instruction writes a register of elements (`writesLanes_of`, `writesVec_of`), and what its element function gives
is its rule's. -/
theorem integerMovesAndReductions : Obligations.IntegerMovesAndReductions := by
  refine ⟨fun s g d a b o t i k => ?_, fun s g d a o t => ?_⟩
  · intro w m x n
    have h32 : 32 ∣ 1024 := by decide
    refine ⟨fun h => writesLanes_of h h32 _ (exec_addi ..) (fun j _ => congrArg (· % 2 ^ 32) (wrap_eq _ 32)),
      fun h => writesLanes_of h h32 _ (exec_movi ..) (fun j _ => congrArg (· % 2 ^ 32) (wrap_eq _ 32)),
      fun h => writesLanes_of h h32 _ (exec_movu ..) (fun _ _ => rfl),
      fun h ho => (unop_elements h ho).congr (fun j => ?_), fun h ho => (unop_widens h ho).congr (fun j => ?_), sel_selects,
      fun h => writesLanes_of h (intWidth_dvd t) _ (exec_shuf ..) (fun _ _ => rfl),
      fun h => writesLanes_of h (intWidth_dvd t) _ (exec_bcast ..) (fun _ _ => rfl)⟩
    · exact unopElem_mod (elem_lt (s.vec a) w j) o.toNat
    · rw [wrap_eq]
  · intro w m below two all
    have hall : ∀ l, combineAll t o.toNat l = all l := fun l => by cases l <;> rfl
    refine ⟨fun h => writesVec_of h _ (exec_reduce ..) ?_,
      fun h => writesLanes_of h (intWidth_dvd t) _ (exec_scan ..) (fun j _ => congrArg (· % 2 ^ w) (hall _))⟩
    exact (toNat_combineAll ..).trans (hall _)

end Sys2Proof.Machine
end

section
/-!
The scalar group, R87, R92 to R96.
-/

namespace Sys2Proof.Machine

theorem State.sca_lt (s : State) (a : BitVec 6) : s.sca a < 2 ^ 64 := elem_lt _ 64 0

/-! ## The operations on 64-bit values -/

theorem extendTo64_eq (t : BitVec 3) (z : Int) :
    extendTo64 t z = (readInt (intSigned t) (intWidth t) (z % 2 ^ intWidth t).toNat % 2 ^ 64).toNat := by
  rw [extendTo64, wrap_eq, wrap_eq]

/-- LOGIC.X, R94. -/
theorem logicOp_mod (x : Nat) {y : Nat} (hy : y < 2 ^ 64) (t : Nat) : logicOp t x y % 2 ^ 64 = (match t with
    | 0 => x &&& y
    | 1 => x ||| y
    | 2 => x ^^^ y
    | 3 => x &&& (2 ^ 64 - 1 - y)
    | 4 => if y < 64 then x * 2 ^ y else 0
    | 5 => if y < 64 then x / 2 ^ y else 0
    | 6 => (sext x 64 / 2 ^ min y 64 % 2 ^ 64).toNat
    | _ => x * 2 ^ (y % 64) + x / 2 ^ (64 - y % 64)) % 2 ^ 64 := by
  match t with
  | 0 | 1 | 2 => rfl
  | 3 => exact congrArg (fun z => (x &&& z) % 2 ^ 64) (notBits_eq hy)
  | 4 => exact shiftLeft_mod 64 x y
  | 5 =>
    have hright : shiftRight 64 x y = if y < 64 then x / 2 ^ y else 0 := by
      unfold shiftRight
      by_cases h : y < 64 <;> simp [h, Nat.not_le.2, Nat.not_lt.1]
    exact congrArg (· % 2 ^ 64) hright
  | 6 =>
    have harith : shiftArith 64 x y = (sext x 64 / 2 ^ min y 64 % 2 ^ 64).toNat := by
      rw [shiftArith, wrap_eq]
      push_cast
      rfl
    exact congrArg (· % 2 ^ 64) harith
  | _ + 7 => exact rotateLeft_mod 64 x y

/-- DIV.X by another number than zero, R95. -/
theorem divOp_of_ne_zero {x y : Nat} (hy : y ≠ 0) (t : Nat) : divOp t x y = (match t with
    | 0 => ((sext x 64).tdiv (sext y 64) % 2 ^ 64).toNat
    | 1 => x / y
    | 2 => ((sext x 64).tmod (sext y 64) % 2 ^ 64).toNat
    | _ => x % y) := by
  match t with
  | 0 => exact (if_neg hy).trans (wrap_eq _ 64)
  | 1 => exact if_neg hy
  | 2 => exact (if_neg hy).trans (wrap_eq _ 64)
  | _ + 3 => exact if_neg hy

/-- DIV.X by zero, R95. -/
theorem divOp_zero (x t : Nat) : divOp t x 0 = if t ≤ 1 then 2 ^ 64 - 1 else x := by
  match t with
  | 0 | 1 | 2 => rfl
  | n + 3 =>
    rw [if_neg (show ¬ n + 3 ≤ 1 by omega)]
    rfl

/-- An element of a register with one element replaced, R42. -/
theorem elem_setElem {w : Nat} (hw : w ∣ 1024) (v : Vec) (k x : Nat) {j : Nat} (hj : j < 1024 / w) :
    elem (setElem v w k x) w j = if j = k then x % 2 ^ w else elem v w j := by
  unfold setElem
  rw [elem_updElems hw _ _ hj]
  split <;> split <;> simp_all

/-- Settles O3: each form writes one scalar (`writesScalar_of`) whose operation is its rule's, and LANE.PUT one element. -/
theorem scalarGroup : Obligations.ScalarGroup := by
  intro s g d a b t i k x y low
  have hx : x < 2 ^ 64 := s.sca_lt a
  have hy : y < 2 ^ 64 := s.sca_lt b
  refine ⟨fun h => writesScalar_of h _ (exec_addX ..) (congrArg (· % 2 ^ 64) (extendTo64_eq t _)),
    fun h => writesScalar_of h _ (exec_subX ..) (congrArg (· % 2 ^ 64) (extendTo64_eq t _)),
    fun h ht => writesScalar_of h _ (exec_mulX ..) (congrArg (· % 2 ^ 64) (if_pos ht)),
    fun h ht => writesScalar_of h _ (exec_mulX ..) (congrArg (· % 2 ^ 64) ((if_neg (by omega)).trans (mulHigh_eq _ 64 x y))),
    fun h => writesScalar_of h _ (exec_addiX ..) (congrArg (· % 2 ^ 64) (wrap_eq _ 64)),
    fun h => writesScalar_of h _ (exec_movlX ..) (congrArg (· % 2 ^ 64) (wrap_eq _ 64)),
    fun h => writesScalar_of h _ (exec_logicX ..) (logicOp_mod x hy t.toNat),
    fun h h0 => writesScalar_of h _ (exec_divX ..) (congrArg (· % 2 ^ 64) (divOp_of_ne_zero h0 t.toNat)),
    fun h h0 => writesScalar_of h _ (exec_divX ..) (congrArg (· % 2 ^ 64) ?_),
    fun h => writesScalar_of h _ (exec_laneGet ..) rfl, fun h => writesVec_of h _ (exec_lanePut ..) (fun j hj => ?_)⟩
  · show divOp t.toNat x y = _
    rw [h0]
    exact divOp_zero x t.toNat
  · refine (elem_setElem (by decide) _ _ _ hj).trans (if_congr Iff.rfl ?_ rfl)
    exact Nat.mod_eq_of_lt hx

end Sys2Proof.Machine
end

section
/-!
Compares and predicate instructions, R97, R99 to R102.
-/

namespace Sys2Proof.Machine

/-! ## Instructions that write predicates -/

/-- A predicate other than p7 reads as what was written to it, R18. -/
theorem Arch.pred_setPred_self (a : Arch) {p : BitVec 3} (h : p ≠ 7) (x : Word) : (a.setPred p.toNat x).pred p.toNat = x := by
  have h7 : p.toNat ≠ 7 := toNat_ne_of_ne h
  rw [Arch.pred_setPred, if_neg h7, if_pos rfl]

theorem Arch.pred_setPred_ne (a : Arch) {p q : Nat} (h : p ≠ q) (x : Word) : (a.setPred p x).pred q = a.pred q :=
  (writesOnly_setPred p x).preds a q (fun hq => h (List.mem_singleton.1 hq).symm)

/-- An instruction whose body writes the named predicates alone. -/
theorem writesPreds_of {s : State} {i : Instr} (h : Ready i s) (f : Env → Arch → Arch) {l : List (BitVec 3 × (Nat → Bool))}
    (he : exec i s = s.issueRegs i (fun e => (f e, 0))) (hw : WritesOnly [] (l.map (fun e => e.1.toNat)) (f (s.envOf i)))
    (hb : ∀ e ∈ l, e.1 ≠ 7 → ∀ k, k < 64 →
      ((f (s.envOf i) (s.me.arch.setPc (s.me.arch.pc + 4)).dropPfx).pred e.1.toNat).getLsbD k = e.2 k) : WritesPreds i l s := by
  refine ⟨_, he.trans (State.issueRegs_ready h f), regsOnly_updArch h.alone i hw, noFlags_updArch s i hw, advanced_updArch s i hw, ?_⟩
  rw [State.me_issuing_updArch]
  exact hb

/-- An instruction whose body writes one predicate. -/
theorem writesPred_of {s : State} {i : Instr} (h : Ready i s) {p : BitVec 3} (x : Env → Word) {b : Nat → Bool}
    (he : exec i s = s.issueRegs i (fun e => (fun r => r.setPred p.toNat (x e), 0)))
    (hx : ∀ k, k < 64 → (x (s.envOf i)).getLsbD k = b k) : WritesPreds i [(p, b)] s := by
  refine writesPreds_of h (fun e r => r.setPred p.toNat (x e)) he (writesOnly_setPred _ _) (fun e hmem hp k hk => ?_)
  obtain rfl := List.mem_singleton.1 hmem
  rw [Arch.pred_setPred_self _ hp, hx k hk]

/-- Two predicates that R39 takes together differ where the first is written. -/
theorem ne_of_predicatesDiffer {p e : BitVec 3} (h : predicatesDiffer p e = none) (hp : p ≠ 7) : p ≠ e := by
  rintro rfl
  have hsame : predicatesDiffer p p = some .samePredicates := by simpa [predicatesDiffer, need] using hp
  rw [hsame] at h
  nomatch h

/-! ## CMP, R97 -/

theorem cmpCond_eq (t : BitVec 3) (c x y : Nat) : cmpCond t c x y = (match c with
    | 0 => decide (x = y)
    | 1 => decide (x ≠ y)
    | 2 => decide (readInt (intSigned t) (intWidth t) x < readInt (intSigned t) (intWidth t) y)
    | 3 => decide (readInt (intSigned t) (intWidth t) x ≤ readInt (intSigned t) (intWidth t) y)
    | 4 => decide (readInt (intSigned t) (intWidth t) y < readInt (intSigned t) (intWidth t) x)
    | 5 => decide (readInt (intSigned t) (intWidth t) y ≤ readInt (intSigned t) (intWidth t) x)
    | 6 => decide (x &&& y ≠ 0)
    | _ => decide (x &&& y = 0)) := by
  match c with
  | 0 => exact Bool.eq_iff_iff.2 (by simp [cmpCond])
  | 1 => exact Bool.eq_iff_iff.2 (by simp [cmpCond])
  | 2 | 3 | 4 | 5 => rfl
  | 6 => exact Bool.eq_iff_iff.2 (by simp [cmpCond])
  | _ + 7 => rfl

theorem cmp_compares {s : State} {g : BitVec 4} {c p e : BitVec 3} {a b : BitVec 6} {t : BitVec 3} (h : Ready (.cmp g c p e a b t) s) :
    let w := intWidth t
    let cond := fun j => cmpCond t c.toNat (elem (s.vec a) w j) (elem (s.vec b) w j)
    WritesPreds (.cmp g c p e a b t)
      [(p, comparedBit (modeOf s.me.arch.pfx.c) w (s.mask g) (s.me.arch.pred p.toNat) cond),
       (e, comparedBit (modeOf s.me.arch.pfx.c) w (s.mask g) (s.me.arch.pred e.toNat) (fun j => !cond j))] s := by
  intro w cond
  have hw : isWidth w := isWidth_intWidth t
  refine writesPreds_of h _ (exec_cmp ..) (writesOnly_commitCompare ..) (fun q hq h7 k hk => ?_)
  simp only [List.mem_cons, List.not_mem_nil, or_false] at hq
  rcases hq with rfl | rfl
  · exact commitCompare_first hw h7 (ne_of_predicatesDiffer (Defect.second_of_orElse h.wf) h7) hk
  · exact commitCompare_second hw h7 hk

/-! ## Operations between predicates and registers, R99 to R102 -/

theorem plogicOp_bit (t : Nat) (x y : Word) {k : Nat} (hk : k < 64) : (plogicOp t x y).getLsbD k =
    (match t with
      | 0 => x.getLsbD k && y.getLsbD k
      | 1 => x.getLsbD k || y.getLsbD k
      | 2 => x.getLsbD k ^^ y.getLsbD k
      | 3 => x.getLsbD k && !y.getLsbD k
      | 4 => x.getLsbD k || !y.getLsbD k
      | 5 => !(x.getLsbD k && y.getLsbD k)
      | 6 => !(x.getLsbD k || y.getLsbD k)
      | _ => !(x.getLsbD k ^^ y.getLsbD k)) := by
  unfold plogicOp
  split <;> simp [hk]

/-- The low 64 bits of a register are its scalar view's, R9, R100. -/
theorem getLsbD_scalarOf (v : Vec) {k : Nat} (hk : k < 64) : (BitVec.ofNat 64 (scalarOf v)).getLsbD k = v.getLsbD k := by
  rw [BitVec.getLsbD_ofNat, scalarOf, elem, Nat.mul_zero, Nat.pow_zero, Nat.div_one, Nat.testBit_mod_two_pow]
  simp [hk, BitVec.getLsbD]

theorem count_governed (p : Word) (w : Nat) :
    (governed p w).count true = ((List.range (1024 / w)).filter (fun j => p.getLsbD (w * j / 16))).length := by
  rw [governed, List.count_eq_countP, List.countP_map, List.countP_eq_length_filter]
  congr 2
  funext j
  simp [govBit]

theorem getLsbD_allBits (b : Bool) {k : Nat} (hk : k < 64) : (allBits b).getLsbD k = b := by
  cases b with
  | false => exact BitVec.getLsbD_zero
  | true => exact (BitVec.getLsbD_allOnes ..).trans (decide_eq_true hk)

/-- PTEST writes whether any and whether all governing bits are set, R101. -/
theorem ptest_tests {s : State} {g : BitVec 4} {p q r t : BitVec 3} (h : Ready (.ptest g p q r t) s) :
    let l := governed (s.me.arch.pred r.toNat) (intWidth t)
    WritesPreds (.ptest g p q r t) [(p, fun _ => l.any id), (q, fun _ => l.all id)] s := by
  intro l
  refine writesPreds_of h _ (exec_ptest ..) ((writesOnly_setPred p.toNat _).comp (writesOnly_setPred q.toNat _)) (fun e he h7 k hk => ?_)
  simp only [List.mem_cons, List.not_mem_nil, or_false] at he
  rcases he with rfl | rfl
  · have hpq : p ≠ q := ne_of_predicatesDiffer (Defect.second_of_orElse h.wf) h7
    rw [Arch.pred_setPred_ne _ (toNat_ne_of_ne hpq.symm), Arch.pred_setPred_self _ h7]
    exact getLsbD_allBits _ hk
  · rw [Arch.pred_setPred_self _ h7]
    exact getLsbD_allBits _ hk

/-- PSET's predicate, R102. -/
theorem getLsbD_setSpans {w : Nat} (hw : isWidth w) (c : Nat) {k : Nat} (hk : k < 64) :
    (writeSpans 0 w ((List.range (1024 / w)).map (fun j => (j, decide (j < c))))).getLsbD k = decide (spanOf w k < c) := by
  rw [getLsbD_writeSpans hw _ hk, if_pos (List.mem_range.2 (spanOf_lt hw hk))]

theorem isWidth_two_pow {q : Nat} (hq : q < 4) : isWidth (8 * 2 ^ q) := by
  match q, hq with
  | 0, _ => exact .inl rfl
  | 1, _ => exact .inr (.inl rfl)
  | 2, _ => exact .inr (.inr (.inl rfl))
  | 3, _ => exact .inr (.inr (.inr rfl))

/-- Settles O4: a compare writes both predicates (`cmp_compares`), and each other instruction the bits of its rule. -/
theorem comparesAndPredicates : Obligations.ComparesAndPredicates := by
  refine ⟨fun s g c p e a b t => ?_, fun s g p q r t a d c => ?_⟩
  · intro w m mode x y X Y cond h
    have hcond : cond = fun j => cmpCond t c.toNat (x j) (y j) := funext fun j => (cmpCond_eq t c.toNat (x j) (y j)).symm
    rw [hcond]
    exact cmp_compares h
  · intro P gov
    refine ⟨fun h => writesPred_of h _ (exec_plogic ..) (fun k hk => plogicOp_bit t.toNat (P q) (P r) hk),
      fun h => writesPred_of h _ (exec_pmovPred ..) (fun _ _ => rfl),
      fun h => writesPred_of h _ (exec_pmovFromReg ..) (fun k hk => getLsbD_scalarOf (s.vec a) hk),
      fun h => writesScalar_of h _ (exec_pmovToReg ..) rfl,
      fun h => writesScalar_of h _ (exec_pcnt ..) (congrArg (· % 2 ^ 64) (count_governed (P r) (intWidth t))), fun h => ?_,
      fun h hq => writesPred_of h _ (exec_pset ..) (fun k hk => getLsbD_setSpans (isWidth_two_pow hq) c.toNat hk)⟩
    have htest := ptest_tests h
    simp only [governed, List.any_map, List.all_map] at htest
    exact htest

end Sys2Proof.Machine
end

section
/-!
The capability instructions, R110 to R115: the register that each derives, or the fault of the first of its checks that fails.
-/

namespace Sys2Proof.Machine

/-! ## The checks, R110, R114 -/

section
variable {tag : Bool} {c : Cap} {p : Perm}

theorem needDerivable_ok (ht : tag = true) (ho : c.otype = 0) : needDerivable tag c = .ok () := by
  simp only [needDerivable, check_passes ht, check_passes (beq_iff_eq.2 ho)]
  rfl

theorem needDerivable_untagged (ht : tag = false) : needDerivable tag c = .error (.trap causeTag c.addr.toNat 0) := by
  simp only [needDerivable, check_fails ht]
  rfl

theorem needDerivable_sealed (ht : tag = true) (ho : c.otype ≠ 0) : needDerivable tag c = .error (.trap causeSeal c.addr.toNat 0) := by
  simp only [needDerivable, check_passes ht, check_fails (beq_eq_false_iff_ne.2 ho)]
  rfl

theorem authority_ok (ht : tag = true) (ho : c.otype = 0) (hp : c.has p = true) (hc : c.covers c.addr.toNat 1 = true) :
    authority tag c p = .ok () := by
  simp only [authority, check_passes ht, check_passes (beq_iff_eq.2 ho), check_passes hp, check_passes hc]
  rfl

theorem authority_untagged (ht : tag = false) : authority tag c p = .error (.trap causeTag c.addr.toNat 0) := by
  simp only [authority, check_fails ht]
  rfl

theorem authority_sealed (ht : tag = true) (ho : c.otype ≠ 0) : authority tag c p = .error (.trap causeSeal c.addr.toNat 0) := by
  simp only [authority, check_passes ht, check_fails (beq_eq_false_iff_ne.2 ho)]
  rfl

theorem authority_lacking (ht : tag = true) (ho : c.otype = 0) (hp : c.has p = false) :
    authority tag c p = .error (.trap causePerm c.addr.toNat 0) := by
  simp only [authority, check_passes ht, check_passes (beq_iff_eq.2 ho), check_fails hp]
  rfl

theorem authority_outside (ht : tag = true) (ho : c.otype = 0) (hp : c.has p = true) (hc : c.covers c.addr.toNat 1 = false) :
    authority tag c p = .error (.trap causeBounds c.addr.toNat 0) := by
  simp only [authority, check_passes ht, check_passes (beq_iff_eq.2 ho), check_passes hp, check_fails hc]
  rfl

end

/-! ## What each instruction derives -/

/-- CSETB's register, R112. -/
def Reg.withBounds (v : Reg) (len : Nat) : Except Exit Reg := do
  needDerivable v.tag v.cap
  match v.cap.setBounds len with
  | none => faultAt causeBounds v.cap.addr.toNat
  | some k => .ok (capReg k.toBits true)

/-- CANDP's register, R113. -/
def Reg.withPerms (v : Reg) (x : Nat) : Except Exit Reg := do
  needDerivable v.tag v.cap
  .ok (capReg { v.cap with perm := v.cap.perm &&& BitVec.ofNat 16 x &&& 0x7FF }.toBits true)

/-- CINC's register, R113. -/
def Reg.moved (v : Reg) (n : Nat) : Except Exit Reg := do
  needDerivable v.tag v.cap
  let x := wrap ((v.cap.addr.toNat : Int) + sext n 64) 64
  .ok (capReg (v.cap.withAddr x).toBits (v.cap.representable x))

/-- The object type that an authority's address names, with the checks of R114 behind those of the sources. -/
def checkType (o : Nat) (sup : Bool) : Except Exit Unit := do
  check (o != 0 && decide (o < 65536)) causeBounds o
  check (!(o == 1 || o == 2) || sup) causePrivilege o

/-- CSEAL's register, R114. -/
def Reg.sealedBy (v k : Reg) (sup : Bool) : Except Exit Reg := do
  authority k.tag k.cap .seal
  needDerivable v.tag v.cap
  checkType k.cap.addr.toNat sup
  .ok (capReg { v.cap with otype := BitVec.ofNat 16 k.cap.addr.toNat }.toBits true)

/-- The checks of CUNSEAL behind those of its authority, R114. -/
def checkUnseal (v : Reg) (o : Nat) (sup : Bool) : Except Exit Unit := do
  check v.tag causeTag v.cap.addr.toNat
  check (v.cap.otype != 0) causeSeal v.cap.addr.toNat
  check (o == v.cap.otype.toNat && o != 1) causeSeal v.cap.addr.toNat
  check (o != 2 || sup) causePrivilege o

/-- CUNSEAL's register, R114. -/
def Reg.unsealedBy (v k : Reg) (sup : Bool) : Except Exit Reg := do
  authority k.tag k.cap .unsl
  checkUnseal v k.cap.addr.toNat sup
  .ok (capReg { v.cap with otype := 0 }.toBits true)

section
variable {o : Nat} {sup : Bool}

theorem checkType_ok (h1 : 1 ≤ o) (h2 : o < 2 ^ 16) (hs : o ≤ 2 → sup = true) : checkType o sup = .ok () := by
  have hrange : (o != 0 && decide (o < 65536)) = true := by simp; omega
  have hsup : (!(o == 1 || o == 2) || sup) = true := by
    by_cases h : o ≤ 2
    · rw [hs h, Bool.or_true]
    · simp; omega
  rw [checkType, check_passes hrange, check_passes hsup]
  rfl

theorem checkType_range (h : o = 0 ∨ 2 ^ 16 ≤ o) : checkType o sup = .error (.trap causeBounds o 0) := by
  have hrange : (o != 0 && decide (o < 65536)) = false := by simp; omega
  rw [checkType, check_fails hrange]
  rfl

theorem checkType_user (h : o = 1 ∨ o = 2) : checkType o false = .error (.trap causePrivilege o 0) := by
  rcases h with rfl | rfl <;> rfl

end

section
variable {v : Reg} {o : Nat} {sup : Bool}

theorem checkUnseal_untagged (ht : v.tag = false) : checkUnseal v o sup = .error (.trap causeTag v.cap.addr.toNat 0) := by
  rw [checkUnseal, check_fails ht]
  rfl

theorem checkUnseal_unsealed (ht : v.tag = true) (hs : v.cap.otype = 0) :
    checkUnseal v o sup = .error (.trap causeSeal v.cap.addr.toNat 0) := by
  rw [checkUnseal, check_passes ht, check_fails (bne_eq_false_iff_eq.2 hs)]
  rfl

theorem checkUnseal_other (ht : v.tag = true) (hs : v.cap.otype ≠ 0) (ho : o ≠ v.cap.otype.toNat ∨ o = 1) :
    checkUnseal v o sup = .error (.trap causeSeal v.cap.addr.toNat 0) := by
  have htype : (o == v.cap.otype.toNat && o != 1) = false := by simpa [or_iff_not_imp_left] using ho
  rw [checkUnseal, check_passes ht, check_passes (bne_iff_ne.2 hs), check_fails htype]
  rfl

/-- Behind the checks on the source and the type there is the privilege that type 2 asks for. -/
theorem checkUnseal_typed (ht : v.tag = true) (hs : v.cap.otype ≠ 0) (ho : o = v.cap.otype.toNat) (h1 : o ≠ 1) :
    checkUnseal v o sup = check (o != 2 || sup) causePrivilege o := by
  have htype : (o == v.cap.otype.toNat && o != 1) = true := by simp [← ho, h1]
  rw [checkUnseal, check_passes ht, check_passes (bne_iff_ne.2 hs), check_passes htype]
  rfl

theorem checkUnseal_ok (ht : v.tag = true) (hs : v.cap.otype ≠ 0) (ho : o = v.cap.otype.toNat) (h1 : o ≠ 1)
    (hsup : o = 2 → sup = true) : checkUnseal v o sup = .ok () := by
  rw [checkUnseal_typed ht hs ho h1, check_passes]
  simpa [or_iff_not_imp_left] using hsup

theorem checkUnseal_user (ht : v.tag = true) (hs : v.cap.otype = 2) (ho : o = 2) :
    checkUnseal v o false = .error (.trap causePrivilege 2 0) := by
  subst ho
  rw [checkUnseal_typed ht (by simp [hs]) (by simp [hs]) (by decide)]
  rfl

end

/-! ## Instructions that derive a register -/

/-- The body of an instruction is what it derives, and the write of that to one register. -/
def Derives (i : Instr) (d : BitVec 6) (x : Except Exit Reg) (s : State) : Prop :=
  ∃ body, exec i s = s.issue i body ∧
    body (s.envOf i) (s.issuing i) = x >>= fun r => .ok ((s.issuing i).updArch (fun a => a.setReg d.toNat r))

section
variable {s : State} {i : Instr} {d : BitVec 6} {x : Except Exit Reg}

theorem Derives.writes {r : Reg} (hd : Derives i d x s) (h : Ready i s) (hx : x = .ok r) : WritesReg i d r s := by
  obtain ⟨body, he, hb⟩ := hd
  subst hx
  refine ⟨_, next_of h he hb, regsOnly_updArch h.alone i (writesOnly_setReg _ _), noFlags_updArch s i (writesOnly_setReg _ _),
    advanced_updArch s i (writesOnly_setReg _ _), fun hd => ?_⟩
  rw [State.me_issuing_updArch]
  exact Arch.reg_setReg_self _ (fun h0 => hd (BitVec.eq_of_toNat_eq h0)) _

theorem Derives.traps {code y : Nat} (hd : Derives i d x s) (h : Ready i s) (hx : x = .error (.trap code y 0)) : TrapsWith i code y s := by
  obtain ⟨body, he, hb⟩ := hd
  exact BeginsWith.traps ⟨body, _, he, hb⟩ h hx

end

section
variable (s : State) (g : BitVec 4) (d a b : BitVec 6)

theorem csetb_derives : Derives (.csetb g d a b) d ((s.me.arch.reg a.toNat).withBounds (s.sca b)) s := by
  refine ⟨_, exec_csetb .., ?_⟩
  simp only [Reg.withBounds, bind_assoc]
  refine congrArg (needDerivable _ _ >>= ·) (funext fun _ => ?_)
  show (match (s.me.arch.reg a.toNat).cap.setBounds (s.sca b) with
    | none => _
    | some k => _) = _
  cases (s.me.arch.reg a.toNat).cap.setBounds (s.sca b) <;> rfl

theorem candp_derives : Derives (.candp g d a b) d ((s.me.arch.reg a.toNat).withPerms (s.sca b)) s := by
  refine ⟨_, exec_candp .., ?_⟩
  simp only [Reg.withPerms, bind_assoc]
  rfl

theorem cinc_derives : Derives (.cinc g d a b) d ((s.me.arch.reg a.toNat).moved (s.sca b)) s := by
  refine ⟨_, exec_cinc .., ?_⟩
  simp only [Reg.moved, bind_assoc]
  rfl

theorem cseal_derives : Derives (.cseal g d a b) d ((s.me.arch.reg a.toNat).sealedBy (s.me.arch.reg b.toNat) s.me.arch.sup) s := by
  refine ⟨_, exec_cseal .., ?_⟩
  simp only [Reg.sealedBy, needDerivable, checkType, bind_assoc]
  rfl

theorem cunseal_derives : Derives (.cunseal g d a b) d ((s.me.arch.reg a.toNat).unsealedBy (s.me.arch.reg b.toNat) s.me.arch.sup) s := by
  refine ⟨_, exec_cunseal .., ?_⟩
  simp only [Reg.unsealedBy, checkUnseal, bind_assoc]
  rfl

end

/-! ## The faults -/

/-- Settles O18: each instruction faults as the first of its checks that fails (`Derives.traps`). -/
theorem capabilityFaults : Obligations.CapabilityFaults := by
  intro s g d a b r c k x o user underived unauthorised auth
  have hunderived : ∀ {i : Instr} {f : Unit → Except Exit Reg}, Ready i s → Derives i d (needDerivable (r a).tag c >>= f) s → underived i :=
    fun h hd => ⟨fun ht => hd.traps h (by rw [needDerivable_untagged ht]; rfl),
      fun ht ho => hd.traps h (by rw [needDerivable_sealed ht ho]; rfl)⟩
  have hunauthorised : ∀ {i : Instr} {p : Perm} {f : Unit → Except Exit Reg}, Ready i s →
      Derives i d (authority (r b).tag k p >>= f) s → unauthorised i p :=
    fun h hd => ⟨fun ht => hd.traps h (by rw [authority_untagged ht]; rfl),
      fun ht ho => hd.traps h (by rw [authority_sealed ht ho]; rfl),
      fun ht ho hp => hd.traps h (by rw [authority_lacking ht ho hp]; rfl),
      fun ht ho hp hc => hd.traps h (by rw [authority_outside ht ho hp hc]; rfl)⟩
  refine ⟨fun h => ⟨hunderived h (csetb_derives ..), fun ht ho hnone => (csetb_derives s g d a b).traps h ?_⟩,
    fun h => hunderived h (candp_derives ..), fun h => hunderived h (cinc_derives ..),
    fun h => ⟨hunauthorised h (cseal_derives ..), ?_⟩, fun h => ⟨hunauthorised h (cunseal_derives ..), ?_⟩⟩
  · rw [Reg.withBounds, needDerivable_ok ht ho]
    show (match c.setBounds (s.sca b) with
      | none => _
      | some k => _) = _
    rw [hnone]
    rfl
  · rintro ⟨ht, ho, hp, hc⟩
    have hd := cseal_derives s g d a b
    rw [Reg.sealedBy, authority_ok ht ho hp hc] at hd
    refine ⟨hunderived h hd, fun ht ho => ?_⟩
    rw [needDerivable_ok ht ho] at hd
    exact ⟨fun hrange => hd.traps h (by rw [checkType_range hrange]; rfl),
      fun htype huser => hd.traps h (by rw [huser, checkType_user htype]; rfl)⟩
  · rintro ⟨ht, ho, hp, hc⟩
    have hd := cunseal_derives s g d a b
    rw [Reg.unsealedBy, authority_ok ht ho hp hc] at hd
    exact ⟨fun ht => hd.traps h (by rw [checkUnseal_untagged ht]; rfl),
      fun ht hs => hd.traps h (by rw [checkUnseal_unsealed ht hs]; rfl),
      fun ht hs hother => hd.traps h (by rw [checkUnseal_other ht hs hother]; rfl),
      fun ht hs htwo huser => hd.traps h (by rw [huser, checkUnseal_user ht hs htwo, htwo]; rfl)⟩

/-! ## The results -/

theorem lengthField_eq (c : Cap) :
    c.lengthField = if c.top - c.base = 2 ^ 64 then 2 ^ 64 - 1 else ((c.top - c.base) % 2 ^ 64).toNat := by
  simp only [Cap.lengthField, wrap_eq, Nat.cast_pow, Nat.cast_ofNat]

/-- CGET's field, R111. -/
theorem cget_eq (c : Cap) (tag : Bool) (n : Nat) :
    (match n with
      | 0 => c.addr.toNat
      | 1 => wrap c.base 64
      | 2 => c.lengthField
      | 3 => c.perm.toNat
      | 4 => c.otype.toNat
      | _ => b2n tag) =
    (match n with
      | 0 => c.addr.toNat
      | 1 => (c.base % 2 ^ 64).toNat
      | 2 => if c.top - c.base = 2 ^ 64 then 2 ^ 64 - 1 else ((c.top - c.base) % 2 ^ 64).toNat
      | 3 => c.perm.toNat
      | 4 => c.otype.toNat
      | _ => if tag then 1 else 0) := by
  match n with
  | 1 => exact wrap_eq _ 64
  | 2 => exact lengthField_eq c
  | 0 | 3 | 4 | n + 5 => rfl

/-- The permissions that CANDP leaves, as numbers, R113. -/
theorem perm_and_eq (p : BitVec 16) (x : Nat) : p &&& BitVec.ofNat 16 x &&& 0x7FF = BitVec.ofNat 16 (p.toNat &&& x &&& 0x7FF) := by
  refine BitVec.eq_of_toNat_eq ?_
  simp

/-- CTEST's condition, R115, as a proposition. -/
theorem ctest_eq (c k : Cap) (ta tb : Bool) :
    b2n (ta && tb && k.otype == 0 && decide (c.base ≥ k.base) && decide (c.top ≤ k.top) && c.perm &&& ~~~k.perm == 0) =
      if ta = true ∧ tb = true ∧ k.otype = 0 ∧ k.base ≤ c.base ∧ c.top ≤ k.top ∧ c.perm &&& ~~~k.perm = 0 then 1 else 0 :=
  if_congr (by simp [and_assoc]) rfl rfl

/-- Settles O17: the checks pass, so each instruction writes what it derives (`Derives.writes`). -/
theorem capabilityResults : Obligations.CapabilityResults := by
  intro s g d a b r c k o x derivable authority
  refine ⟨fun h => writesScalar_of h _ (exec_cget ..) (congrArg (· % _) ?_), ?_, ?_, ?_, ?_, ?_,
    fun h => writesScalar_of h _ (exec_ctest ..) (congrArg (· % _) (ctest_eq c k _ _)), fun h => writesVec_of h _ (exec_cclr ..) rfl⟩
  · exact cget_eq c (r a).tag b.toNat
  · rintro h ⟨ht, ho⟩ n hn
    refine (csetb_derives ..).writes h ?_
    rw [Reg.withBounds, needDerivable_ok ht ho]
    show (match c.setBounds (s.sca b) with
      | none => _
      | some k => _) = _
    rw [hn]
    rfl
  · rintro h ⟨ht, ho⟩
    refine (candp_derives ..).writes h ?_
    rw [Reg.withPerms, needDerivable_ok ht ho, perm_and_eq]
    rfl
  · rintro h ⟨ht, ho⟩
    refine (cinc_derives ..).writes h ?_
    rw [Reg.moved, needDerivable_ok ht ho, wrap_eq]
    rfl
  · rintro h ⟨ht, ho, hp, hc⟩ ⟨hta, hs⟩ h1 h2 hsup
    refine (cseal_derives ..).writes h ?_
    rw [Reg.sealedBy, authority_ok ht ho hp hc, needDerivable_ok hta hs, checkType_ok h1 h2 hsup]
    rfl
  · rintro h ⟨ht, ho, hp, hc⟩ hta hs htype h1 hsup
    refine (cunseal_derives ..).writes h ?_
    rw [Reg.unsealedBy, authority_ok ht ho hp hc, checkUnseal_ok hta hs htype h1 hsup]
    rfl

end Sys2Proof.Machine
end

section
/-!
TRAP, BRK and ERET, R81, R322, R330.
-/

namespace Sys2Proof.Machine

/-- ERET's effect on a slot, with what it restores named by the slot `x` that the instruction found, R322. -/
def Slot.restoredFrom (x y : Slot) : Slot :=
  { y with arch := { y.arch.setReg 2 x.shadowV2 with
      code := x.shadowCode, codeTag := x.shadowTag, pc := x.tpc, sr := putBit (putBit y.arch.sr 10 (x.tcause.getLsbD 17)) 11 false } }

theorem Slot.returned_eq (x : Slot) : x.returned = x.restoredFrom x := by
  simp only [Slot.returned, Slot.restoredFrom]
  rfl

/-- Issuing leaves what ERET restores as it was. -/
theorem returned_slotIssuing (s : State) (i : Instr) : (s.slotIssuing i).returned = s.me.restoredFrom (s.slotIssuing i) := by
  rw [Slot.returned_eq]
  rfl

theorem returned_issuing (s : State) (i : Instr) : (s.issuing i).me.returned = s.me.restoredFrom (s.issuing i).me := by
  rw [State.me_issuing, returned_slotIssuing]

theorem State.updMe_congr {s : State} {f f' : Slot → Slot} (h : f s.me = f' s.me) : s.updMe f = s.updMe f' :=
  congrArg (s.setSlot s.cur.core s.cur.slot) h

/-- The body of ERET where its task is in a handler. -/
theorem eret_trapped {s : State} {g : BitVec 4} (ht : s.me.arch.trapped = true) :
    ∃ body, exec (.eret g) s = s.issue (.eret g) body ∧ body (s.envOf (.eret g)) (s.issuing (.eret g)) =
      if s.cur.slot = 8 then
        .ok ((((s.issuing (.eret g)).updMe (fun x => { x.returned with phase := .free })).updCore s.cur.core
          (fun k => { k with big := { k.big with trapped := false } })).push (.matrixCommandStart s.cur.core))
      else .ok ((s.issuing (.eret g)).updMe Slot.returned) := by
  refine ⟨_, exec_eret .., ?_⟩
  show (check s.me.arch.trapped causePrivilege _ >>= _) = _
  rw [check_passes ht]
  rfl

/-- Settles O11: what TRAP and BRK hand to the trap path, and what ERET restores (`returned_slotIssuing`). -/
theorem trapInstructions : Obligations.TrapInstructions := by
  refine ⟨fun s g i => ⟨fun h => next_of h (exec_trap ..) rfl, fun h => trapsWith_of h (exec_brk ..) rfl⟩,
    fun s g h => ⟨fun ht => trapsWith_of h (exec_eret ..) ?_, fun ht hn => ?_, fun ht hn => ?_⟩⟩
  · show (check s.me.arch.trapped causePrivilege _ >>= _) = _
    rw [check_fails ht]
    rfl
  · obtain ⟨body, he, hb⟩ := eret_trapped (g := g) ht
    rw [if_neg hn] at hb
    exact (actsOn_of h he hb).congr (returned_slotIssuing s _)
  · obtain ⟨body, he, hb⟩ := eret_trapped (g := g) ht
    rw [if_pos hn] at hb
    rw [next_of h he hb, State.updMe_congr (f := fun x => { x.returned with phase := .free })
      (f' := fun x => { s.me.restoredFrom x with phase := .free })]
    · rfl
    · exact congrArg (fun x : Slot => { x with phase := .free }) (returned_issuing s _)

end Sys2Proof.Machine
end

section
/-!
END of a gang's last task on a lit core, R78, R188, R359: the refutation of the statement that it changes no byte of storage.
-/

namespace Sys2Proof.Machine

/-! ## A task that ends on a lit core -/

/-- The little core of plate 0 at node (12, 4), and its partner in the next column, R358. -/
def litCore : Nat := coreId 0 12 4 0
def darkPartner : Nat := coreId 0 13 4 0

/-- A SPILLMAP of KIND 1 with PLACE[4] set: two units of bank 0 of the partner's core, R188. -/
def partnerSpill : Word := BitVec.ofNat 64 (2 ^ 62 + 2 * 2 ^ 40 + 2 ^ 4)

/-- The first byte of the bank that `partnerSpill` names. -/
def lentByte : Nat := localKey darkPartner 9 0

/-- The gang's one task stands on the lit core, it is idle, and it has spilled a byte into the bank that the partner lends. -/
def beforeLoanEnds : State :=
  { boot := .service, cur := ⟨litCore, 0⟩, serial := 5,
    cores := [(litCore, { slots := [(0, { phase := .live, uid := 4, gangId := some 1, arch := { pc := 0x1000 } })], lit := some 1,
                          spill := partnerSpill }),
              (darkPartner, { dark := some 1 })],
    gangs := [(1, { launch := 0, gnum := 0, plate := 0, members := [(litCore, 0, 0)], alive := [0], darkCores := [darkPartner],
                    bar := { gang := 1, e := 1, eNext := 1 } })],
    mem := [(lentByte, 1)] }

/-- What END leaves: the task is gone, and with it the gang and the loan. -/
def afterLoanEnds : State := (beforeLoanEnds.issuing (.endTask 7)).removeTask litCore 0 false

theorem ready_beforeLoanEnds : Ready (.endTask 7) beforeLoanEnds where
  may := by decide
  wf := by decide
  pfx := by decide
  clear := by decide
  alone := by decide
  unbound := by decide
  good := by decide
  on := by decide

theorem exec_endTask_beforeLoanEnds : exec (.endTask 7) beforeLoanEnds = .next afterLoanEnds :=
  next_of ready_beforeLoanEnds (exec_endTask ..) rfl

theorem lentByte_before : beforeLoanEnds.byte lentByte = 1 := by decide

/-- The loan's end clears the bank, R188, R359 (`State.endLoan`). -/
theorem lentByte_after : afterLoanEnds.byte lentByte = 0 := by decide

/-- Refutes O9: the statement says that END of an ordinary task changes no byte of storage. Where the task is its gang's last on a
lit core, the loan ends with it, and the partner's bank that SPILLMAP names is cleared. -/
theorem not_waitsTimersAndEnd : ¬ Obligations.WaitsTimersAndEnd := by
  rintro ⟨-, hend⟩
  obtain ⟨-, hfree, -⟩ := hend beforeLoanEnds 7 ready_beforeLoanEnds
  obtain ⟨t, ht, -, hbytes, -⟩ := hfree (by decide) (by decide) rfl
  obtain rfl : t = afterLoanEnds := Host.Outcome.next.inj (ht.symm.trans exec_endTask_beforeLoanEnds)
  have hkept := hbytes lentByte (by decide) not_false
  rw [lentByte_before, lentByte_after] at hkept
  exact absurd hkept (by decide)

end Sys2Proof.Machine
end

section
/-!
HTAB, R127, R129, R131: the checks of the entry's index and owner, and then what a write makes of the entry.
-/

namespace Sys2Proof.Machine

/-! ## The two checks of HTAB -/

/-- The checks with which HTAB begins, R131: the selector names a part of an entry, and the entry is the task's to see. -/
def State.entryCheck (s : State) (x word : Nat) : Except Exit Unit := do
  check (decide (x < 128) && bits x 6 5 != 3) causeRange x
  check ((s.handler s.cur.core (x % 32)).ctx == s.me.ctxid.toNat || s.me.arch.sup) causePrivilege word

section
variable {s : State} {x word : Nat}

theorem selector_named (hx : x < 96) : (decide (x < 128) && bits x 6 5 != 3) = true := by
  have : x / 2 ^ 5 % 2 ^ 2 ≠ 3 := by omega
  simp only [bits, Bool.and_eq_true, decide_eq_true_eq, bne_iff_ne]
  exact ⟨by omega, this⟩

theorem selector_unnamed (hx : 96 ≤ x) : (decide (x < 128) && bits x 6 5 != 3) = false := by
  have : x < 128 → x / 2 ^ 5 % 2 ^ 2 = 3 := by omega
  simpa [bits] using this

theorem State.entryCheck_ok (hx : x < 96) (hm : (s.handler s.cur.core (x % 32)).ctx = s.me.ctxid.toNat ∨ s.me.arch.sup = true) :
    s.entryCheck x word = .ok () := by
  simp only [State.entryCheck, check_passes (selector_named hx)]
  exact check_passes (by simpa using hm) _ _

theorem State.entryCheck_range (hx : 96 ≤ x) : s.entryCheck x word = .error (.trap causeRange x 0) := by
  simp only [State.entryCheck, check_fails (selector_unnamed hx)]
  rfl

theorem State.entryCheck_privilege (hx : x < 96)
    (hm : ¬ ((s.handler s.cur.core (x % 32)).ctx = s.me.ctxid.toNat ∨ s.me.arch.sup = true)) :
    s.entryCheck x word = .error (.trap causePrivilege word 0) := by
  simp only [State.entryCheck, check_passes (selector_named hx)]
  exact check_fails (by simpa using hm) _ _

end

/-! ## What a write makes of an entry -/

/-- A write of one part of an entry, R131: of its control word, its code or its argument, with the checks of each. -/
def Handler.writePart (h : Handler) (p : Nat) (r : Reg) (sup world : Bool) (word : Nat) : Except Exit Handler :=
  match p with
  | 0 => do
    let v := scalarOf r.v
    check (bits v 5 4 != 3 && (bits v 5 4 == 2) == (h.mode == 2)) causeRange v
    check (!h.held || bits v 5 4 == h.mode || sup) causePrivilege word
    .ok (h.setControl v sup)
  | 1 => do
    check r.tag causeTag r.cap.addr.toNat
    check (r.cap.otype == 0) causeSeal r.cap.addr.toNat
    check (r.cap.has .ex) causePerm r.cap.addr.toNat
    check (!h.held || sup) causePrivilege word
    .ok { h.advance with code := some r.cap.toBits, esup := sup, esec := world, eheat := 0 }
  | _ => do
    check r.tag causeTag r.cap.addr.toNat
    check (!h.held || sup) causePrivilege word
    .ok { h.advance with arg := some r.cap.toBits }

section
variable {h : Handler} {r : Reg} {sup world : Bool} {word : Nat}

theorem Handler.writePart_control {v : Nat} (hv : scalarOf r.v = v) (h3 : v / 16 % 4 ≠ 3) (h2 : v / 16 % 4 = 2 ↔ h.mode = 2)
    (hh : h.held = true → v / 16 % 4 = h.mode ∨ sup = true) : h.writePart 0 r sup world word = .ok (h.setControl v sup) := by
  have hm : bits v 5 4 = v / 16 % 4 := rfl
  have hmode : (bits v 5 4 != 3 && (bits v 5 4 == 2) == (h.mode == 2)) = true := by simp [hm, h3, h2]
  have hheld : (!h.held || bits v 5 4 == h.mode || sup) = true := by
    simpa [hm, or_assoc, or_iff_not_imp_left] using hh
  subst hv
  simp only [Handler.writePart, check_passes hmode, check_passes hheld]
  rfl

theorem Handler.writePart_mode {v : Nat} (hv : scalarOf r.v = v) (hm : v / 16 % 4 = 3 ∨ ¬ (v / 16 % 4 = 2 ↔ h.mode = 2)) :
    h.writePart 0 r sup world word = .error (.trap causeRange v 0) := by
  have hmode : (bits v 5 4 != 3 && (bits v 5 4 == 2) == (h.mode == 2)) = false := by
    rw [← Bool.not_eq_true]
    simp only [bits, Bool.and_eq_true, bne_iff_ne, beq_iff_eq]
    rintro ⟨h3, h2⟩
    exact hm.elim h3 (fun hn => hn (by simpa using h2))
  subst hv
  simp only [Handler.writePart, check_fails hmode]
  rfl

theorem Handler.writePart_claimed {v : Nat} (hv : scalarOf r.v = v) (h3 : v / 16 % 4 ≠ 3) (h2 : v / 16 % 4 = 2 ↔ h.mode = 2)
    (hh : h.held = true) (hm : v / 16 % 4 ≠ h.mode) (hs : sup = false) :
    h.writePart 0 r sup world word = .error (.trap causePrivilege word 0) := by
  have hb : bits v 5 4 = v / 16 % 4 := rfl
  have hmode : (bits v 5 4 != 3 && (bits v 5 4 == 2) == (h.mode == 2)) = true := by simp [hb, h3, h2]
  have hheld : (!h.held || bits v 5 4 == h.mode || sup) = false := by simp [hb, hh, hm, hs]
  subst hv
  simp only [Handler.writePart, check_passes hmode, check_fails hheld]
  rfl

theorem Handler.writePart_code (ht : r.tag = true) (ho : r.cap.otype = 0) (hx : r.cap.has .ex = true) (hh : h.held = true → sup = true) :
    h.writePart 1 r sup world word = .ok { h.advance with code := some r.cap.toBits, esup := sup, esec := world, eheat := 0 } := by
  have hheld : (!h.held || sup) = true := by simpa [or_iff_not_imp_left] using hh
  simp only [Handler.writePart, check_passes ht, check_passes (beq_iff_eq.2 ho), check_passes hx, check_passes hheld]
  rfl

theorem Handler.writePart_arg (ht : r.tag = true) (hh : h.held = true → sup = true) :
    h.writePart 2 r sup world word = .ok { h.advance with arg := some r.cap.toBits } := by
  have hheld : (!h.held || sup) = true := by simpa [or_iff_not_imp_left] using hh
  simp only [Handler.writePart, check_passes ht, check_passes hheld]
  rfl

theorem Handler.writePart_untagged {p : Nat} (hp : p ≠ 0) (ht : r.tag = false) :
    h.writePart p r sup world word = .error (.trap causeTag r.cap.addr.toNat 0) := by
  match p, hp with
  | 1, _ | _ + 2, _ =>
    simp only [Handler.writePart, check_fails ht]
    rfl

theorem Handler.writePart_sealed (ht : r.tag = true) (ho : r.cap.otype ≠ 0) :
    h.writePart 1 r sup world word = .error (.trap causeSeal r.cap.addr.toNat 0) := by
  simp only [Handler.writePart, check_passes ht, check_fails (beq_eq_false_iff_ne.2 ho)]
  rfl

theorem Handler.writePart_noCode (ht : r.tag = true) (ho : r.cap.otype = 0) (hx : r.cap.has .ex = false) :
    h.writePart 1 r sup world word = .error (.trap causePerm r.cap.addr.toNat 0) := by
  simp only [Handler.writePart, check_passes ht, check_passes (beq_iff_eq.2 ho), check_fails hx]
  rfl

theorem Handler.writePart_code_claimed (ht : r.tag = true) (ho : r.cap.otype = 0) (hx : r.cap.has .ex = true) (hh : h.held = true)
    (hs : sup = false) : h.writePart 1 r sup world word = .error (.trap causePrivilege word 0) := by
  simp only [Handler.writePart, check_passes ht, check_passes (beq_iff_eq.2 ho), check_passes hx,
    check_fails (c := !h.held || sup) (by simp [hh, hs])]
  rfl

theorem Handler.writePart_arg_claimed (ht : r.tag = true) (hh : h.held = true) (hs : sup = false) :
    h.writePart 2 r sup world word = .error (.trap causePrivilege word 0) := by
  simp only [Handler.writePart, check_passes ht, check_fails (c := !h.held || sup) (by simp [hh, hs])]
  rfl

/-- A write of part 0 with another mode advances GEN, R129. -/
theorem Handler.setControl_eq (v : Nat) : h.setControl v sup =
    (let h0 := fun (h : Handler) => { h with mode := v / 16 % 4, mask := v.testBit 3, prio := v % 4, ctx := if sup then v / 2 ^ 16 % 2 ^ 16 else h.ctx }
     if v / 16 % 4 = h.mode then h0 h else h0 h.advance) := by
  have hbit : bit v 3 = v.testBit 3 := by simp [bit, Nat.testBit_eq_decide_div_mod_eq]
  simp only [Handler.setControl, bits, hbit, Nat.pow_zero, Nat.div_one]
  rfl

end

/-! ## The instructions -/

section
variable (s : State) (g : BitVec 4) (d a b : BitVec 6)

theorem State.handler_issuing (i : Instr) (c n : Nat) : (s.issuing i).handler c n = s.handler c n :=
  s.core_issuing_part i (fun k => k.handler n) (fun _ _ => rfl) c

/-- HTAB write: its checks, and then what the write makes of the entry. -/
theorem htabWr_body : ∃ body, exec (.htabWr g a b) s = s.issue (.htabWr g a b) body ∧
    body (s.envOf (.htabWr g a b)) (s.issuing (.htabWr g a b)) =
      (s.entryCheck (s.sca b) ((encode (.htabWr g a b)).getD 0).toNat >>= fun _ =>
        (s.handler s.cur.core (s.sca b % 32)).writePart (bits (s.sca b) 6 5) (s.me.arch.reg a.toNat) s.me.arch.sup s.me.arch.world
          ((encode (.htabWr g a b)).getD 0).toNat) >>= fun h =>
        .ok (((s.issuing (.htabWr g a b)).updHandler s.cur.core (s.sca b % 32) (fun _ => h)).pushOnce (.taskSelection s.cur.core)) := by
  refine ⟨_, exec_htabWr .., ?_⟩
  have hh : (s.issuing (.htabWr g a b)).handler (s.envOf (.htabWr g a b)).core ((s.envOf (.htabWr g a b)).x b % 32) =
      s.handler s.cur.core (s.sca b % 32) := s.handler_issuing _ _ _
  simp only [hh, State.entryCheck, bind_assoc]
  refine congrArg (check _ _ _ >>= ·) (funext fun _ => ?_)
  refine congrArg (check _ _ _ >>= ·) (funext fun _ => ?_)
  show (match bits (s.sca b) 6 5 with | 0 => _ | 1 => _ | _ => _) = _
  match bits (s.sca b) 6 5 with
  | 0 | 1 | _ + 2 =>
    simp only [Handler.writePart, bind_assoc]
    rfl

/-- What HTAB read shows of an entry, R131: the code or the argument as a capability, where it has one. -/
def Handler.shown (h : Handler) (p : Nat) : Reg :=
  match p with
  | 0 => { v := scalarVec h.control }
  | 1 => (match h.code with
    | some k => capReg k true
    | none => {})
  | _ => (match h.arg with
    | some k => capReg k true
    | none => {})

theorem htabRd_derives : Derives (.htabRd g d b) d
    (s.entryCheck (s.sca b) ((encode (.htabRd g d b)).getD 0).toNat >>= fun _ =>
      .ok ((s.handler s.cur.core (s.sca b % 32)).shown (bits (s.sca b) 6 5))) s := by
  refine ⟨_, exec_htabRd .., ?_⟩
  have hh : (s.issuing (.htabRd g d b)).handler (s.envOf (.htabRd g d b)).core ((s.envOf (.htabRd g d b)).x b % 32) =
      s.handler s.cur.core (s.sca b % 32) := s.handler_issuing _ _ _
  simp only [hh, State.entryCheck, bind_assoc]
  refine congrArg (check _ _ _ >>= ·) (funext fun _ => ?_)
  refine congrArg (check _ _ _ >>= ·) (funext fun _ => ?_)
  show Except.ok ((s.issuing _).updArch fun r => match bits (s.sca b) 6 5 with | 0 => _ | 1 => _ | _ => _) = _
  match bits (s.sca b) 6 5 with
  | 0 => rfl
  | 1 => cases hc : (s.handler s.cur.core (s.sca b % 32)).code <;> simp [Handler.shown, hc] <;> rfl
  | _ + 2 => cases hc : (s.handler s.cur.core (s.sca b % 32)).arg <;> simp [Handler.shown, hc] <;> rfl

end

section
variable {s : State} {g : BitVec 4} {d a b : BitVec 6}

theorem htabRd_reads (h : Ready (.htabRd g d b) s) (hx : s.sca b < 96)
    (hm : (s.handler s.cur.core (s.sca b % 32)).ctx = s.me.ctxid.toNat ∨ s.me.arch.sup = true) :
    WritesReg (.htabRd g d b) d ((s.handler s.cur.core (s.sca b % 32)).shown (bits (s.sca b) 6 5)) s :=
  (htabRd_derives s g d b).writes h (by rw [State.entryCheck_ok hx hm]; rfl)

theorem htabWr_writes (h : Ready (.htabWr g a b) s) (hx : s.sca b < 96)
    (hm : (s.handler s.cur.core (s.sca b % 32)).ctx = s.me.ctxid.toNat ∨ s.me.arch.sup = true) {p : Nat} (hp : bits (s.sca b) 6 5 = p)
    {k : Handler} (hw : (s.handler s.cur.core (s.sca b % 32)).writePart p (s.me.arch.reg a.toNat) s.me.arch.sup s.me.arch.world
      ((encode (.htabWr g a b)).getD 0).toNat = .ok k) :
    exec (.htabWr g a b) s =
      .next (((s.issuing (.htabWr g a b)).updHandler s.cur.core (s.sca b % 32) (fun _ => k)).pushOnce (.taskSelection s.cur.core)) := by
  obtain ⟨body, he, hb⟩ := htabWr_body s g a b
  refine next_of h he (hb.trans ?_)
  rw [State.entryCheck_ok hx hm, hp]
  simp only [bind, Except.bind, hw]

theorem htabWr_traps (h : Ready (.htabWr g a b) s) (hx : s.sca b < 96)
    (hm : (s.handler s.cur.core (s.sca b % 32)).ctx = s.me.ctxid.toNat ∨ s.me.arch.sup = true) {p : Nat} (hp : bits (s.sca b) 6 5 = p)
    {code y : Nat} (hw : (s.handler s.cur.core (s.sca b % 32)).writePart p (s.me.arch.reg a.toNat) s.me.arch.sup s.me.arch.world
      ((encode (.htabWr g a b)).getD 0).toNat = .error (.trap code y 0)) : TrapsWith (.htabWr g a b) code y s := by
  obtain ⟨body, he, hb⟩ := htabWr_body s g a b
  refine BeginsWith.traps ⟨body, _, he, hb⟩ h ?_
  rw [State.entryCheck_ok hx hm, hp]
  exact hw

theorem htabRd_refused (h : Ready (.htabRd g d b) s) {code y : Nat}
    (hc : s.entryCheck (s.sca b) ((encode (.htabRd g d b)).getD 0).toNat = .error (.trap code y 0)) : TrapsWith (.htabRd g d b) code y s :=
  (htabRd_derives s g d b).traps h (by rw [hc]; rfl)

theorem htabWr_refused (h : Ready (.htabWr g a b) s) {code y : Nat}
    (hc : s.entryCheck (s.sca b) ((encode (.htabWr g a b)).getD 0).toNat = .error (.trap code y 0)) : TrapsWith (.htabWr g a b) code y s := by
  obtain ⟨body, he, hb⟩ := htabWr_body s g a b
  refine BeginsWith.traps ⟨body, _, he, hb⟩ h ?_
  rw [hc]
  rfl

end

/-- A register with a scalar result, R9. -/
theorem writesScalar_of_reg {i : Instr} {d : BitVec 6} {x : Nat} {s : State} (h : WritesReg i d { v := scalarVec x } s) :
    WritesScalar i d x s := by
  obtain ⟨t, he, hr, hf, ha, hd⟩ := h
  refine ⟨t, he, hr, hf, ha, fun h0 => ?_⟩
  unfold State.vec
  rw [hd h0]
  exact ⟨rfl, rfl⟩

/-- Settles O27: HTAB begins with its two checks (`State.entryCheck`), a read then shows the part of the entry, and a write makes of the
entry what `Handler.writePart` answers. -/
theorem handlerTable : Obligations.HandlerTable := by
  intro s g d a b c x h sup mine v r m put advanced h0 word
  have hctl : x < 32 → bits x 6 5 = 0 := fun h => by show x / 32 % 4 = 0; omega
  have hcode : 32 ≤ x → x < 64 → bits x 6 5 = 1 := fun h h' => by show x / 32 % 4 = 1; omega
  have harg : 64 ≤ x → x < 96 → bits x 6 5 = 2 := fun h h' => by show x / 32 % 4 = 2; omega
  have hlow : x < 32 → x < 96 := fun h => by omega
  have hmid : x < 64 → x < 96 := fun h => by omega
  refine ⟨fun hr hx hm => ?_, fun hr h1 hx hm => ?_, fun hr hx hm h3 h2 hh => ?_, fun hr h1 hx hm ht ho he hh => ?_,
    fun hr h1 hx hm ht hh => ?_, fun hr hx => ?_, fun hr hx => ?_, fun hr hx hm => ?_, fun hr hx hm => ?_, fun hr hx hm hb => ?_,
    fun hr hx hm h3 h2 hh hn hs => ?_, fun hr h1 hx hm ht => ?_, fun hr h1 hx hm ht ho => ?_, fun hr h1 hx hm ht ho he => ?_,
    fun hr h1 hx hm ht ho he hh hs => ?_, fun hr h1 hx hm ht hh hs => ?_⟩
  · have := htabRd_reads hr (hlow hx) hm
    rw [hctl hx] at this
    exact writesScalar_of_reg this
  · have := htabRd_reads hr hx hm
    by_cases h2 : x < 64
    · rw [hcode h1 h2] at this
      rw [if_pos h2]
      exact this
    · rw [harg (Nat.le_of_not_lt h2) hx] at this
      rw [if_neg h2]
      exact this
  · have := htabWr_writes hr (hlow hx) hm (hctl hx) (Handler.writePart_control rfl h3 h2 hh)
    rw [Handler.setControl_eq] at this
    exact this
  · exact htabWr_writes hr (hmid hx) hm (hcode h1 hx) (Handler.writePart_code ht ho he hh)
  · exact htabWr_writes hr hx hm (harg h1 hx) (Handler.writePart_arg ht hh)
  · exact htabRd_refused hr (State.entryCheck_range hx)
  · exact htabWr_refused hr (State.entryCheck_range hx)
  · exact htabRd_refused hr (State.entryCheck_privilege hx hm)
  · exact htabWr_refused hr (State.entryCheck_privilege hx hm)
  · exact htabWr_traps hr (hlow hx) hm (hctl hx) (Handler.writePart_mode rfl hb)
  · exact htabWr_traps hr (hlow hx) hm (hctl hx) (Handler.writePart_claimed rfl h3 h2 hh hn hs)
  · have hp : bits x 6 5 ≠ 0 := by show x / 32 % 4 ≠ 0; omega
    exact htabWr_traps hr hx hm rfl (Handler.writePart_untagged hp ht)
  · exact htabWr_traps hr (hmid hx) hm (hcode h1 hx) (Handler.writePart_sealed ht ho)
  · exact htabWr_traps hr (hmid hx) hm (hcode h1 hx) (Handler.writePart_noCode ht ho he)
  · exact htabWr_traps hr (hmid hx) hm (hcode h1 hx) (Handler.writePart_code_claimed ht ho he hh hs)
  · exact htabWr_traps hr hx hm (harg h1 hx) (Handler.writePart_arg_claimed ht hh hs)

end Sys2Proof.Machine
end

section
/-!
SEND, R150 to R157: its checks in their order (R153), and then the packet on its way, its copy, and the counters.
-/

namespace Sys2Proof.Machine

/-! ## Orders and launches do not look at what the issue changes -/

section
variable (s : State) (i : Instr)

theorem State.releaseReady_issuing (rel : Bool) : (s.issuing i).releaseReady rel = s.releaseReady rel := by
  unfold State.releaseReady
  rw [State.issuing_serial, State.myRef_issuing]
  exact s.issuing_part i (fun t => !rel || ((t.earlier s.serial s.myRef).all (fun o => o.performed) && !t.sentBefore s.serial s.myRef))
    (fun _ _ _ _ => rfl)

theorem State.lidAt_issuing (launch : Option Nat) (dev lid : Nat) : (s.issuing i).lidAt launch dev lid = s.lidAt launch dev lid :=
  s.issuing_part i (fun t => t.lidAt launch dev lid) (fun _ _ _ _ => rfl)

theorem State.table_issuing : (s.issuing i).table = s.table := s.issuing_part i State.table (fun _ _ _ _ => rfl)

theorem State.due_issuing : (s.issuing i).due = s.due := s.issuing_part i State.due (fun _ _ _ _ => rfl)

theorem State.cur_issuing : (s.issuing i).cur = s.cur := (taskOnly_issuing s i).cur

end

/-! ## The checks, R153 -/

/-- The bits of SEND's operand that have a meaning, R150: the length of the body, and no B + 1 beyond v63. -/
def sendShape (x : Nat) (b : BitVec 6) : Prop := x / 2 ^ 32 = 0 ∧ bits x 15 9 = 0 ∧ x % 256 ≤ 224 ∧ (128 < x % 256 → b ≠ 63)

/-- A target that a SEND of a kind may name, R150, R153. -/
def State.sendTarget (s : State) (kind : Nat) (r : Reg) : Prop :=
  r.tag = true ∧ r.cap.has .snd = true ∧ (r.cap.otype = 0 ∨ r.cap.otype = 2 ∧ kind ≠ 3) ∧ r.cap.covers r.cap.addr.toNat 1 = true ∧
    bits r.cap.addr.toNat 63 60 = 0xE ∧ (if kind = 3 then isInbox r.cap.addr.toNat else isChannel r.cap.addr.toNat) = true ∧
    (bits r.cap.addr.toNat 59 50 = s.table.devnum → isCore (bits r.cap.addr.toNat 49 36) = true)

section
variable {t : State} {kind x : Nat} {b : BitVec 6} {r : Reg}

theorem sendShape_length (hx : x < 2 ^ 64) :
    (bits x 63 32 == 0 && bits x 15 9 == 0 && decide (bits x 7 0 ≤ 224)) = true ∧ (!(decide (bits x 7 0 > 128) && b == 63)) = true ↔
      sendShape x b := by
  have hhi : bits x 63 32 = x / 2 ^ 32 := Nat.mod_eq_of_lt (by omega)
  have hlo : bits x 7 0 = x % 256 := by simp [bits]
  have himp : (!(decide (bits x 7 0 > 128) && b == 63)) = true ↔ (128 < x % 256 → b ≠ 63) := by
    rw [hlo]
    by_cases h : 128 < x % 256 <;> simp [h]
  rw [himp]
  simp [sendShape, hhi, hlo, and_assoc]

theorem State.sendChecks_shape (hx : x < 2 ^ 64) (h : ¬ sendShape x b) : t.sendChecks kind x b r = .error (.trap causeRange x 0) := by
  rw [← sendShape_length hx, not_and_or, Bool.not_eq_true, Bool.not_eq_true] at h
  unfold State.sendChecks
  by_cases hlen : (bits x 63 32 == 0 && bits x 15 9 == 0 && decide (bits x 7 0 ≤ 224)) = true
  · simp only [check_passes hlen, check_fails (h.resolve_left (by simp [hlen]))]
    rfl
  · simp only [check_fails (Bool.eq_false_of_not_eq_true hlen)]
    rfl

theorem State.sendChecks_untagged (hx : x < 2 ^ 64) (h : sendShape x b) (ht : r.tag = false) :
    t.sendChecks kind x b r = .error (.trap causeTag r.cap.addr.toNat 0) := by
  obtain ⟨hlen, hb⟩ := (sendShape_length hx).2 h
  simp only [State.sendChecks, check_passes hlen, check_passes hb, check_fails ht]
  rfl

theorem State.sendChecks_ok (hx : x < 2 ^ 64) (h : sendShape x b) (hr : t.sendTarget kind r) : t.sendChecks kind x b r = .ok () := by
  obtain ⟨hlen, hb⟩ := (sendShape_length hx).2 h
  obtain ⟨htag, hsnd, hseal, hcov, hwin, hplace, hcore⟩ := hr
  have hseal' : (!(r.cap.otype == 2 && kind == 3) && (r.cap.otype == 0 || r.cap.otype == 2)) = true := by
    rcases hseal with h0 | ⟨h2, h3⟩
    · simp [h0]
    · simp [h2, h3]
  have hcore' : (addrDevice r.cap.addr.toNat != t.table.devnum || isCore (addrCore r.cap.addr.toNat)) = true := by
    simpa [addrDevice, addrCore, or_iff_not_imp_left] using hcore
  simp only [State.sendChecks, check_passes hlen, check_passes hb, check_passes htag, check_passes hsnd, check_passes hseal',
    check_passes hcov, check_passes (beq_iff_eq.2 hwin), check_passes hplace, check_passes hcore']
  rfl

end

/-! ## The packet on its way -/

theorem State.core_updCore_self (s : State) (c : Nat) (f : Core → Core) : (s.updCore c f).core c = f (s.core c) :=
  State.core_setCore_self _ _ _

theorem State.core_updCore_ne (s : State) {c d : Nat} (h : c ≠ d) (f : Core → Core) : (s.updCore c f).core d = s.core d :=
  State.core_setCore_ne _ h _

@[simp] theorem State.core_push (s : State) (i : Instr) (c : Nat) : (s.push i).core c = s.core c := rfl

theorem State.core_countSent_self (s : State) (c l : Nat) :
    (s.countSent c l).core c = { s.core c with sent := Sp.put 0 (s.core c).sent l (((s.core c).sent.at l 0 + 1) % 2 ^ 32) } :=
  State.core_updCore_self s c _

theorem State.core_countSent_ne (s : State) {c d : Nat} (h : c ≠ d) (l : Nat) : (s.countSent c l).core d = s.core d :=
  State.core_updCore_ne s h _

section
variable (t : State) (c : Nat) (p : Packet)

theorem State.sendPacket_due :
    (t.sendPacket c p).2.due = t.due ++ [if p.kind = 3 then .engineCardArrival t.serial else .messageArrival t.serial] := rfl

theorem State.sendPacket_look : (t.sendPacket c p).2.packets.look t.serial = some p := Sp.look_set_self _ _ _

theorem State.core_sendPacket_self : (t.sendPacket c p).2.core c =
    { t.core c with sent := Sp.put 0 (t.core c).sent p.ownLid (((t.core c).sent.at p.ownLid 0 + 1) % 2 ^ 32), retx := (t.core c).retx ++ [t.serial] } := by
  show (State.updCore (State.push (State.countSent _ c p.ownLid) _) c _).core c = _
  rw [State.core_updCore_self, State.core_push, State.core_countSent_self]
  rfl

theorem State.core_sendPacket_ne {d : Nat} (h : c ≠ d) : (t.sendPacket c p).2.core d = t.core d := by
  show (State.updCore (State.push (State.countSent _ c p.ownLid) _) c _).core d = _
  rw [State.core_updCore_ne _ h, State.core_push, State.core_countSent_ne _ h]
  rfl

theorem State.slot_sendPacket (d n : Nat) : (t.sendPacket c p).2.slot d n = t.slot d n := by
  unfold State.slot
  by_cases h : c = d
  · subst h
    rw [State.core_sendPacket_self]
    rfl
  · rw [State.core_sendPacket_ne _ _ _ h]

end

/-! ## The instruction -/

section
variable {s : State} {g : BitVec 4} {i : Instr} {kind : Nat} {d a b : BitVec 6}

/-- The message of a SEND, R152, R406. -/
def State.msgOf (s : State) (d a b : BitVec 6) : Msg :=
  let len := s.sca d % 256
  let at_ := (s.me.arch.reg a.toNat).cap.addr.toNat
  let hi := if 128 < len then (s.me.arch.reg (b.toNat + 1)).v.toNat else 0
  { lid := s.lidAt s.me.launch (bits at_ 59 50) s.me.lid, src := s.table.devnum * 2 ^ 14 + s.cur.core, len := len,
    body := ((s.vec b).toNat + hi * 2 ^ 1024) % 2 ^ (8 * len), tag0 := (s.me.arch.reg b.toNat).tag && decide (16 ≤ len),
    tag128 := decide (144 ≤ len) && (s.me.arch.reg (b.toNat + 1)).tag, ctx := s.me.ctxid.toNat, world := s.me.arch.world }

/-- The packet of a SEND, R151, R153, R154. -/
def State.packetOf (s : State) (kind : Nat) (d a b : BitVec 6) : Packet :=
  { kind := kind, target := (s.me.arch.reg a.toNat).cap.addr.toNat, gc := (s.sca d).testBit 8, gen := bits (s.sca d) 31 16,
    msg := s.msgOf d a b, task := some s.myRef, dest := d.toNat, acquire := pfxAcquire s.me.arch.pfx, lidHere := some s.me.lid }

/-- The state once the packet is on its way and counts in its task, R153. -/
def State.sendOut (t : State) (c : Nat) (p : Packet) (d : BitVec 6) : State :=
  (t.sendPacket c p).2.updMe (fun y => { y with
    stc := y.stc + (if p.kind = 2 then 0 else 1),
    board := y.board ++ (if (p.kind = 1 ∨ p.kind = 3) ∧ d ≠ 0 then [(.reg d.toNat, t.serial)] else []) })

/-- The body of a SEND once its operands are legal, R153: whether its copy finds room, then the counter and the order. -/
def State.sendLegal (s : State) (i : Instr) (kind : Nat) (d a b : BitVec 6) : Except Exit State :=
  let full := decide ((s.core s.cur.core).retx.length ≥ 32)
  if full ∧ kind = 2 then faultAt causeSendFull (s.me.arch.reg a.toNat).cap.addr.toNat
  else do
    stallIf full .full
    stallIf (kind != 2 && decide (s.me.stc ≥ 64)) .counter
    stallIf (!s.releaseReady (pfxRelease s.me.arch.pfx)) .order
    .ok ((s.issuing i).sendOut s.cur.core (s.packetOf kind d a b) d)

theorem send_body : ∃ body, s.send i kind d a b = s.issue i body ∧
    body (s.envOf i) (s.issuing i) = (s.issuing i).sendChecks kind (s.sca d) b (s.me.arch.reg a.toNat) >>= fun _ => s.sendLegal i kind d a b := by
  refine ⟨_, rfl, ?_⟩
  refine congrArg (State.sendChecks _ _ _ _ _ >>= ·) (funext fun _ => ?_)
  have hretx : ((s.issuing i).core (s.envOf i).core).retx = (s.core s.cur.core).retx := s.core_issuing_part i Core.retx (fun _ _ => rfl) _
  have hrel : (s.issuing i).releaseReady (pfxRelease (s.envOf i).pfx) = s.releaseReady (pfxRelease s.me.arch.pfx) := s.releaseReady_issuing i _
  have hlen : bits ((s.envOf i).x d) 7 0 = s.sca d % 256 := congrArg (· % 256) (Nat.div_one _)
  have hgc : bit ((s.envOf i).x d) 8 = (s.sca d).testBit 8 := bit_eq_testBit _ _
  have hstc : b2n (kind != 2) = if kind = 2 then 0 else 1 := by by_cases h : kind = 2 <;> simp [b2n, h]
  simp only [hretx, hrel, hlen, hgc, hstc, s.myRef_issuing, State.srcField, s.table_issuing, s.lidAt_issuing]
  rfl

theorem State.core_updMe_ex (u : State) (f : Slot → Slot) (c : Nat) : ∃ l, (u.updMe f).core c = { u.core c with slots := l } := by
  by_cases h : u.cur.core = c
  · subst h
    exact ⟨_, State.core_updMe u f⟩
  · exact ⟨(u.core c).slots, State.core_setSlot_ne u h _ _⟩

/-- Of its own core a SEND changes the slots, the counter of its launch and the copies, R144, R155. -/
theorem core_sendOut (s : State) (i : Instr) (p : Packet) (d : BitVec 6) :
    ∃ l, ((s.issuing i).sendOut s.cur.core p d).core s.cur.core =
      { s.core s.cur.core with slots := l,
                               sent := Sp.put 0 (s.core s.cur.core).sent p.ownLid (((s.core s.cur.core).sent.at p.ownLid 0 + 1) % 2 ^ 32),
                               retx := (s.core s.cur.core).retx ++ [s.serial] } := by
  obtain ⟨l, hl⟩ := State.core_updMe_ex ((s.issuing i).sendPacket s.cur.core p).2 _ s.cur.core
  obtain ⟨k, hk⟩ := s.core_issuing i s.cur.core
  refine ⟨l, ?_⟩
  unfold State.sendOut
  rw [hl, State.core_sendPacket_self, hk, s.issuing_serial]

/-- What a SEND leaves of the other tasks and cores, and of storage: of its own core the copies and the counters changed. -/
theorem sendOut_kept (s : State) (i : Instr) (p : Packet) (d : BitVec 6) :
    let t := (s.issuing i).sendOut s.cur.core p d
    (t.core s.cur.core).rest = { (s.core s.cur.core).rest with retx := (t.core s.cur.core).retx, sent := (t.core s.cur.core).sent } ∧
      (∀ e, e ≠ s.cur.core → (t.core e).rest = (s.core e).rest) ∧
      (∀ e n, e ≠ s.cur.core ∨ n ≠ s.cur.slot → t.slot e n = s.slot e n) := by
  have hk := coresKept_issuing s i
  have hcur : ((s.issuing i).sendPacket s.cur.core p).2.cur = s.cur := s.cur_issuing i
  refine ⟨?_, fun e he => ?_, fun e n hn => ?_⟩
  · obtain ⟨l, hl⟩ := core_sendOut s i p d
    simp only [hl]
    rfl
  · obtain ⟨l, hl⟩ := State.core_updMe_ex ((s.issuing i).sendPacket s.cur.core p).2 _ e
    unfold State.sendOut
    rw [hl, State.core_sendPacket_ne _ _ _ (Ne.symm he), ← hk.cores]
    rfl
  · unfold State.sendOut
    rw [State.slot_updMe_ne _ _ (by rw [hcur]; exact hn.imp Ne.symm Ne.symm), State.slot_sendPacket]
    exact hk.slots e n hn

end

section
variable {s : State} {i : Instr} {kind : Nat} {d a b : BitVec 6}

theorem stallIf_passes {c : Bool} (h : c = false) (why : Stall) : stallIf c why = .ok () := by
  subst h
  rfl

theorem stallIf_waits {c : Bool} (h : c = true) (why : Stall) : stallIf c why = .error (.wait why) := by
  subst h
  rfl

theorem send_refused (he : exec i s = s.send i kind d a b) (h : Ready i s) {code y : Nat}
    (hc : (s.issuing i).sendChecks kind (s.sca d) b (s.me.arch.reg a.toNat) = .error (.trap code y 0)) : TrapsWith i code y s := by
  obtain ⟨body, hi, hb⟩ := send_body (s := s) (i := i) (kind := kind) (d := d) (a := a) (b := b)
  exact BeginsWith.traps ⟨body, _, he.trans hi, hb⟩ h hc

theorem State.sendTarget_issuing {r : Reg} (h : s.sendTarget kind r) : (s.issuing i).sendTarget kind r := by
  unfold State.sendTarget at *
  rw [s.table_issuing]
  exact h

/-- A SEND whose operands are legal. -/
theorem send_legal (he : exec i s = s.send i kind d a b) (hs : sendShape (s.sca d) b)
    (ht : s.sendTarget kind (s.me.arch.reg a.toNat)) : ∃ body, exec i s = s.issue i body ∧
      body (s.envOf i) (s.issuing i) = s.sendLegal i kind d a b := by
  obtain ⟨body, hi, hb⟩ := send_body (s := s) (i := i) (kind := kind) (d := d) (a := a) (b := b)
  rw [State.sendChecks_ok (s.sca_lt d) hs (State.sendTarget_issuing ht)] at hb
  exact ⟨body, he.trans hi, hb⟩

theorem State.sendLegal_goes (hr : (s.core s.cur.core).retx.length < 32) (hc : kind ≠ 2 → s.me.stc < 64)
    (ho : s.releaseReady (pfxRelease s.me.arch.pfx) = true) :
    s.sendLegal i kind d a b = .ok ((s.issuing i).sendOut s.cur.core (s.packetOf kind d a b) d) := by
  have hfull : decide ((s.core s.cur.core).retx.length ≥ 32) = false := decide_eq_false (Nat.not_le.2 hr)
  have hcount : (kind != 2 && decide (s.me.stc ≥ 64)) = false := by
    by_cases h2 : kind = 2
    · simp [h2]
    · simp [Nat.not_le.2 (hc h2)]
  unfold State.sendLegal
  simp only [hfull, hcount, ho, Bool.false_eq_true, false_and, if_false, Bool.not_true, stallIf_passes]
  rfl

theorem State.sendLegal_order (hr : (s.core s.cur.core).retx.length < 32) (hc : s.me.stc < 64)
    (ho : s.releaseReady (pfxRelease s.me.arch.pfx) = false) : s.sendLegal i kind d a b = .error (.wait .order) := by
  have hfull : decide ((s.core s.cur.core).retx.length ≥ 32) = false := decide_eq_false (Nat.not_le.2 hr)
  have hcount : (kind != 2 && decide (s.me.stc ≥ 64)) = false := by simp [Nat.not_le.2 hc]
  unfold State.sendLegal
  simp only [hfull, hcount, ho, Bool.false_eq_true, false_and, if_false, Bool.not_false, stallIf_passes, stallIf_waits]
  rfl

theorem State.sendLegal_full (hr : ¬ (s.core s.cur.core).retx.length < 32) (hk : kind ≠ 2) :
    s.sendLegal i kind d a b = .error (.wait .full) := by
  have hfull : decide ((s.core s.cur.core).retx.length ≥ 32) = true := decide_eq_true (Nat.not_lt.1 hr)
  unfold State.sendLegal
  simp only [hfull, hk, and_false, if_false, stallIf_waits]
  rfl

theorem State.sendLegal_reply_full (hr : ¬ (s.core s.cur.core).retx.length < 32) :
    s.sendLegal i 2 d a b = .error (.trap causeSendFull (s.me.arch.reg a.toNat).cap.addr.toNat 0) :=
  if_pos ⟨decide_eq_true (Nat.not_lt.1 hr), rfl⟩

/-- The counter SENT of the launch, R144. -/
theorem sent_sendOut (s : State) (i : Instr) (p : Packet) (d : BitVec 6) (l : Nat) :
    (((s.issuing i).sendOut s.cur.core p d).core s.cur.core).sent.at l 0 =
      if l = p.ownLid then ((s.core s.cur.core).sent.at l 0 + 1) % 2 ^ 32 else (s.core s.cur.core).sent.at l 0 := by
  obtain ⟨k, hk⟩ := core_sendOut s i p d
  rw [hk]
  show (Sp.put 0 _ p.ownLid _).at l 0 = _
  rw [Sp.at_put]
  by_cases hl : p.ownLid = l
  · subst hl
    simp only [if_true]
  · rw [if_neg hl, if_neg (Ne.symm hl)]

theorem retx_sendOut (s : State) (i : Instr) (p : Packet) (d : BitVec 6) :
    (((s.issuing i).sendOut s.cur.core p d).core s.cur.core).retx = (s.core s.cur.core).retx ++ [s.serial] := by
  obtain ⟨k, hk⟩ := core_sendOut s i p d
  rw [hk]

theorem me_sendOut (s : State) (i : Instr) (p : Packet) (d : BitVec 6) :
    ((s.issuing i).sendOut s.cur.core p d).me = { s.slotIssuing i with
      stc := s.me.stc + (if p.kind = 2 then 0 else 1),
      board := s.me.board ++ (if (p.kind = 1 ∨ p.kind = 3) ∧ d ≠ 0 then [(.reg d.toNat, s.serial)] else []) } := by
  have hme : ((s.issuing i).sendPacket s.cur.core p).2.me = s.slotIssuing i := by
    unfold State.me
    rw [State.slot_sendPacket]
    exact s.me_issuing i
  unfold State.sendOut
  rw [State.me_updMe, hme, s.issuing_serial]
  rfl

/-- A SEND that goes, R144, R150 to R155: the packet, its event, its copy and its counters, and what it leaves as it was. -/
theorem send_sends (he : exec i s = s.send i kind d a b) (h : Ready i s) (hs : sendShape (s.sca d) b)
    (ht : s.sendTarget kind (s.me.arch.reg a.toNat)) (hr : (s.core s.cur.core).retx.length < 32) (hc : kind ≠ 2 → s.me.stc < 64)
    (ho : s.releaseReady (pfxRelease s.me.arch.pfx) = true) :
    exec i s = .next ((s.issuing i).sendOut s.cur.core (s.packetOf kind d a b) d) := by
  obtain ⟨body, hi, hb⟩ := send_legal he hs ht
  exact next_of h hi (hb.trans (State.sendLegal_goes hr hc ho))

theorem send_stalls (he : exec i s = s.send i kind d a b) (h : Ready i s) (hs : sendShape (s.sca d) b)
    (ht : s.sendTarget kind (s.me.arch.reg a.toNat)) {why : Stall} (hl : s.sendLegal i kind d a b = .error (.wait why)) :
    StallsFor i why s := by
  obtain ⟨body, hi, hb⟩ := send_legal he hs ht
  exact stallsFor_of h hi (hb.trans hl)

end

/-- Settles O28: the checks of R153 pass or fail as one (`State.sendChecks_ok`), and a legal SEND then goes (`send_sends`) or waits. -/
theorem sends : Obligations.Sends := by
  intro s g d a b c x len dst k at_ shape legal room hi m sends
  have hgoes : ∀ i kind, exec i s = s.send i kind d a b → sends i kind := by
    intro i kind he h hs ht hr hc ho
    obtain ⟨hrest, hothers, hslots⟩ := sendOut_kept s i (s.packetOf kind d a b) d
    refine ⟨_, send_sends he h hs ht hr hc ho, ?_, ?_, me_sendOut .., retx_sendOut .., sent_sendOut s i _ d, hrest, hothers, hslots, ?_⟩
    · rw [← s.issuing_serial i]
      exact State.sendPacket_look (s.issuing i) s.cur.core (s.packetOf kind d a b)
    · rw [← s.issuing_serial i, ← s.due_issuing i]
      exact State.sendPacket_due (s.issuing i) s.cur.core (s.packetOf kind d a b)
    · exact BytesKept.of_mem (taskOnly_issuing s i).mem
  have hlegal : ∀ kind, legal kind → s.sendTarget kind (s.me.arch.reg a.toNat) := fun _ h => h
  have hall : ∀ i ∈ [Instr.sendPost g d a b, .sendAck g d a b, .sendReply g d a b, .sendEng g d a b], ∃ kind, exec i s = s.send i kind d a b := by
    simp only [List.forall_mem_cons, List.not_mem_nil, false_implies, implies_true, and_true]
    exact ⟨⟨0, exec_sendPost ..⟩, ⟨1, exec_sendAck ..⟩, ⟨2, exec_sendReply ..⟩, ⟨3, exec_sendEng ..⟩⟩
  refine ⟨hgoes _ 0 (exec_sendPost ..), hgoes _ 1 (exec_sendAck ..), hgoes _ 2 (exec_sendReply ..), hgoes _ 3 (exec_sendEng ..),
    fun i hi h hs => ?_, fun i hi h hs ht => ?_, fun h hs hl hr => ?_, fun h hs hl hr => ?_, fun e hmem h hs hl hr hc ho => ?_⟩
  · obtain ⟨kind, he⟩ := hall i hi
    exact send_refused he h (State.sendChecks_shape (s.sca_lt d) hs)
  · obtain ⟨kind, he⟩ := hall i hi
    exact send_refused he h (State.sendChecks_untagged (s.sca_lt d) hs ht)
  · obtain ⟨body, hi, hb⟩ := send_legal (exec_sendReply g d a b s) hs hl
    exact trapsWith_of h hi (hb.trans (State.sendLegal_reply_full hr))
  · exact send_stalls (exec_sendAck g d a b s) h hs hl (State.sendLegal_full hr (by decide))
  · have he : exec e.1 s = s.send e.1 e.2 d a b := by
      simp only [List.mem_cons, List.not_mem_nil, or_false] at hmem
      rcases hmem with rfl | rfl | rfl | rfl <;> rfl
    exact send_stalls he h hs hl (State.sendLegal_order hr hc ho)

end Sys2Proof.Machine
end

section
/-!
BAR, R135, R136: the barrier that a handle names, the end of a phase and the tasks that it releases, and the three forms.
-/

namespace Sys2Proof.Machine

/-! ## Barriers and phases -/

section
variable {s : State} {i : Instr} {k h : Nat}

/-- The issue changes nothing of a gang but its watchdog count, R328. -/
theorem State.gang_issuing {g : Gang} (hg : s.gangs.look k = some g) :
    ∃ n, (s.issuing i).gangs.look k = some { g with idleSince := n } := by
  have hk := (taskOnly_issuing s i).gangs k
  rw [hg] at hk
  obtain ⟨g', hl, he⟩ := Option.map_eq_some_iff.1 hk
  have hg' : g' = { g with idleSince := g'.idleSince } := congrArg (fun x : Gang => { x with idleSince := g'.idleSince }) he
  exact ⟨g'.idleSince, hl.trans (congrArg some hg')⟩

theorem State.gang_issuing_none (hg : s.gangs.look k = none) : (s.issuing i).gangs.look k = none := by
  have hk := (taskOnly_issuing s i).gangs k
  rw [hg] at hk
  exact Option.map_eq_none_iff.1 hk

theorem State.pool_issuing (p : Nat) : (s.issuing i).pool p = s.pool p := s.issuing_part i (fun t => t.pool p) (fun _ _ _ _ => rfl)

theorem State.barrier_issuing : (s.issuing i).barrier k h = s.barrier k h := by
  unfold State.barrier
  cases hg : s.gangs.look k with
  | none => rw [State.gang_issuing_none hg]
  | some g =>
    obtain ⟨n, hn⟩ := State.gang_issuing (i := i) hg
    simp only [hn, State.pool_issuing]

end

/-- What an arrival makes of a barrier: the last one ends the phase. -/
theorem Barrier.arrive_eq (b : Barrier) (me : Nat) : b.arrive me =
    (if b.arrived.length + 1 = b.e then { b with phase := (b.phase + 1) % 2 ^ 32, arrived := [], e := b.eNext }
      else { b with arrived := b.arrived ++ [me] }) := by
  simp only [Barrier.arrive, Barrier.settle, List.length_append, List.length_singleton]

theorem Barrier.gang_arrive (b : Barrier) (me : Nat) : (b.arrive me).gang = b.gang := by
  rw [Barrier.arrive_eq]
  split <;> rfl

theorem Barrier.past_of_phase (b : Barrier) : ({ b with phase := (b.phase + 1) % 2 ^ 32, arrived := [], e := b.eNext } : Barrier).past b.phase = true := by
  have : ((b.phase + 1) % 2 ^ 32 + 2 ^ 32 - b.phase % 2 ^ 32) % 2 ^ 32 = 1 := by omega
  simp only [Barrier.past, this]
  decide

theorem Barrier.past_arrive_last {b : Barrier} (h : b.arrived.length + 1 = b.e) (me : Nat) : (b.arrive me).past b.phase = true := by
  rw [Barrier.arrive_eq, if_pos h]
  exact b.past_of_phase

/-- The phase of a barrier is not over while it lasts. -/
theorem Barrier.past_arrive {b : Barrier} (h : b.arrived.length + 1 ≠ b.e) (me : Nat) : (b.arrive me).past b.phase = false := by
  have : (b.phase + 2 ^ 32 - b.phase % 2 ^ 32) % 2 ^ 32 = 0 := by omega
  rw [Barrier.arrive_eq, if_neg h]
  simp only [Barrier.past, this]
  decide

/-! ## Those that a barrier lets go on -/

/-- A task of a gang waits on a barrier for a phase that is over. -/
def Slot.released (x : Slot) (gang h : Nat) (b : Barrier) : Prop := x.gangId = some gang ∧ ∃ v, x.barred = some (h, v) ∧ b.past v = true

/-- One task of a gang goes on, if it waited for a phase that is over. -/
def State.goOn (gang h : Nat) (b : Barrier) (u : State) (m : Nat × Nat × Nat) : State :=
  let x := u.slot m.1 m.2.1
  match x.barred with
  | some (k, v) => if x.gangId = some gang ∧ k = h ∧ b.past v then u.setSlot m.1 m.2.1 { x with barred := none, wait := none } else u
  | none => u

section
variable {gang h : Nat} {b : Barrier}

theorem State.goOn_released {u : State} {m : Nat × Nat × Nat} (hr : (u.slot m.1 m.2.1).released gang h b) :
    State.goOn gang h b u m = u.setSlot m.1 m.2.1 { u.slot m.1 m.2.1 with barred := none, wait := none } := by
  obtain ⟨hg, v, hv, hp⟩ := hr
  simp only [State.goOn, hv]
  simp only [hg, hp, and_self, if_true]

theorem State.goOn_kept {u : State} {m : Nat × Nat × Nat} (hr : ¬ (u.slot m.1 m.2.1).released gang h b) : State.goOn gang h b u m = u := by
  cases hx : (u.slot m.1 m.2.1).barred with
  | none => simp only [State.goOn, hx]
  | some w =>
    simp only [State.goOn, hx]
    refine if_neg ?_
    rintro ⟨hg, rfl, hp⟩
    exact hr ⟨hg, w.2, hx, hp⟩

theorem State.goOn_ex (u : State) (m : Nat × Nat × Nat) : ∃ l, State.goOn gang h b u m = { u with cores := l } := by
  by_cases hr : (u.slot m.1 m.2.1).released gang h b
  · exact ⟨_, State.goOn_released hr⟩
  · exact ⟨u.cores, State.goOn_kept hr⟩

theorem State.rest_goOn (u : State) (m : Nat × Nat × Nat) (c : Nat) : ((State.goOn gang h b u m).core c).rest = (u.core c).rest := by
  by_cases hr : (u.slot m.1 m.2.1).released gang h b
  · rw [State.goOn_released hr]
    by_cases hc : m.1 = c
    · subst hc
      rw [State.core_setSlot_self]
      rfl
    · rw [State.core_setSlot_ne _ hc]
  · rw [State.goOn_kept hr]

/-- A task that goes on waits no more. -/
theorem Slot.not_released_unbarred (x : Slot) : ¬ ({ x with barred := none, wait := none } : Slot).released gang h b := by
  rintro ⟨-, v, hv, -⟩
  exact absurd hv (by simp)

/-- Of those named, the slots whose wait is over go on. -/
theorem State.slot_goOn (l : List (Nat × Nat × Nat)) (u : State) (c n : Nat) :
    ((∃ m ∈ l, m.1 = c ∧ m.2.1 = n) → (u.slot c n).released gang h b →
      (l.foldl (State.goOn gang h b) u).slot c n = { u.slot c n with barred := none, wait := none }) ∧
    (¬ ((∃ m ∈ l, m.1 = c ∧ m.2.1 = n) ∧ (u.slot c n).released gang h b) → (l.foldl (State.goOn gang h b) u).slot c n = u.slot c n) := by
  induction l generalizing u with
  | nil => exact ⟨fun ⟨_, hm, _⟩ => absurd hm (by simp), fun _ => rfl⟩
  | cons m l ih =>
    obtain ⟨hin, hout⟩ := ih (State.goOn gang h b u m)
    rw [List.foldl_cons]
    by_cases hr : (u.slot m.1 m.2.1).released gang h b
    · by_cases hm : m.1 = c ∧ m.2.1 = n
      · obtain ⟨rfl, rfl⟩ := hm
        have hs : (State.goOn gang h b u m).slot m.1 m.2.1 = { u.slot m.1 m.2.1 with barred := none, wait := none } := by
          rw [State.goOn_released hr, State.slot_setSlot_self]
        have hgo := hout (fun ⟨_, hx⟩ => Slot.not_released_unbarred _ (hs ▸ hx))
        exact ⟨fun _ _ => hgo.trans hs, fun hn => absurd ⟨⟨m, by simp, rfl, rfl⟩, hr⟩ hn⟩
      · have hs : (State.goOn gang h b u m).slot c n = u.slot c n := by
          rw [State.goOn_released hr]
          exact State.slot_setSlot_ne _ (not_and_or.1 hm) _
        simpa [hs, hm] using And.intro hin hout
    · rw [State.goOn_kept hr] at hin hout ⊢
      have hm : (u.slot c n).released gang h b → ¬ (m.1 = c ∧ m.2.1 = n) := by
        rintro hx ⟨rfl, rfl⟩
        exact hr hx
      refine ⟨fun ⟨p, hp, hpc⟩ hx => hin ?_ hx, fun hn => hout fun ⟨⟨p, hp, hpc⟩, hx⟩ => hn ⟨⟨p, List.mem_cons_of_mem _ hp, hpc⟩, hx⟩⟩
      rcases List.mem_cons.1 hp with rfl | hp
      · exact absurd hpc (hm hx)
      · exact ⟨p, hp, hpc⟩

end

/-! ## A barrier replaced -/

/-- A barrier of a gang's plate, or the gang's own, replaced. -/
def State.putBarrier (s : State) (gang h : Nat) (g : Gang) (b : Barrier) : State :=
  if h = 0 then { s with gangs := s.gangs.set gang { g with bar := b } } else s.updPool g.plate (fun p => { p with bars := p.bars.set h b })

section
variable {s : State} {k h : Nat} {g : Gang} {b b' : Barrier}

theorem State.setBarrier_eq (hg : s.gangs.look k = some g) :
    s.setBarrier k h b = g.members.foldl (State.goOn k h b) (s.putBarrier k h g b) := by
  unfold State.setBarrier
  rw [hg]
  rfl

theorem State.putBarrier_ex : ∃ p q, s.putBarrier k h g b = { s with gangs := p, pools := q } := by
  unfold State.putBarrier
  split
  · exact ⟨_, _, rfl⟩
  · exact ⟨_, _, rfl⟩

/-- A replaced barrier touches the gangs, the pools and the slots of the tasks that go on. -/
theorem State.setBarrier_ex (hg : s.gangs.look k = some g) : ∃ l p q, s.setBarrier k h b = { s with cores := l, gangs := p, pools := q } := by
  rw [State.setBarrier_eq hg]
  refine foldl_keeps (P := fun t => ∃ l p q, t = { s with cores := l, gangs := p, pools := q }) ?_ _ _ ?_
  · rintro _ m ⟨l, p, q, rfl⟩
    obtain ⟨l', h'⟩ := State.goOn_ex (gang := k) (h := h) (b := b) { s with cores := l, gangs := p, pools := q } m
    exact ⟨l', p, q, h'⟩
  · obtain ⟨p, q, hp⟩ := State.putBarrier_ex (s := s) (k := k) (h := h) (g := g) (b := b)
    exact ⟨s.cores, p, q, hp⟩

theorem State.barrier_goOn (u : State) (m : Nat × Nat × Nat) : (State.goOn k h b u m).barrier k h = u.barrier k h := by
  obtain ⟨l, hl⟩ := State.goOn_ex (gang := k) (h := h) (b := b) u m
  rw [hl]
  rfl

theorem State.barrier_putBarrier (hg : s.gangs.look k = some g) (hb : h ≠ 0 → b.gang = k) : (s.putBarrier k h g b).barrier k h = some b := by
  unfold State.putBarrier State.barrier
  by_cases h0 : h = 0
  · simp [h0]
  · simp only [h0, if_false]
    show (match s.gangs.look k with | none => none | some g => _) = _
    simp [hg, State.updPool, State.pool, hb h0]

/-- A barrier replaced is the one that its handle names. -/
theorem State.barrier_setBarrier (hg : s.gangs.look k = some g) (hb : h ≠ 0 → b.gang = k) : (s.setBarrier k h b).barrier k h = some b := by
  rw [State.setBarrier_eq hg]
  exact (foldl_same (g := fun t => State.barrier t k h) State.barrier_goOn _ _).trans (State.barrier_putBarrier hg hb)

theorem State.slot_putBarrier (c n : Nat) : (s.putBarrier k h g b).slot c n = s.slot c n := by
  obtain ⟨p, q, hp⟩ := State.putBarrier_ex (s := s) (k := k) (h := h) (g := g) (b := b)
  rw [hp]
  rfl

theorem State.slot_setBarrier_released (hg : s.gangs.look k = some g) {c n : Nat} (hm : ∃ m ∈ g.members, m.1 = c ∧ m.2.1 = n)
    (hr : (s.slot c n).released k h b) : (s.setBarrier k h b).slot c n = { s.slot c n with barred := none, wait := none } := by
  have := State.slot_putBarrier (s := s) (k := k) (h := h) (g := g) (b := b) c n
  rw [State.setBarrier_eq hg, (State.slot_goOn _ _ _ _).1 hm (this ▸ hr), this]

theorem State.slot_setBarrier_kept (hg : s.gangs.look k = some g) {c n : Nat}
    (hr : ¬ ((∃ m ∈ g.members, m.1 = c ∧ m.2.1 = n) ∧ (s.slot c n).released k h b)) : (s.setBarrier k h b).slot c n = s.slot c n := by
  have := State.slot_putBarrier (s := s) (k := k) (h := h) (g := g) (b := b) c n
  rw [State.setBarrier_eq hg, (State.slot_goOn _ _ _ _).2 (this ▸ hr), this]

/-- A barrier of the pool, by its handle, is its gang's. -/
theorem State.barrier_gang (hb : s.barrier k h = some b) (h0 : h ≠ 0) : b.gang = k := by
  unfold State.barrier at hb
  simp only [h0, if_false] at hb
  split at hb
  · exact absurd hb (by simp)
  · split at hb
    · split at hb
      next hq => exact Option.some.inj hb ▸ hq
      · exact absurd hb (by simp)
    · exact absurd hb (by simp)

end

/-! ## The handle of BAR -/

section
variable {s : State} {i : Instr} {a : BitVec 6} {k : Nat} {b : Barrier}

theorem Env.bar_ok (hh : s.sca a < 2 ^ 32) (hk : s.me.gangId = some k) (hb : s.barrier k (s.sca a) = some b) :
    (s.envOf i).bar (s.issuing i) a = .ok (k, s.sca a, b) := by
  have hx : (s.envOf i).x a = s.sca a := rfl
  have hg : (s.envOf i).sl.gangId = some k := hk
  simp only [Env.bar, hx, hg, State.barrier_issuing, hb, ge_iff_le, Nat.not_le.2 hh, if_false]

theorem Env.bar_wide (hh : 2 ^ 32 ≤ s.sca a) : (s.envOf i).bar (s.issuing i) a = .error (.trap causeRange (s.sca a) 0) := by
  have hx : (s.envOf i).x a = s.sca a := rfl
  simp only [Env.bar, hx, ge_iff_le, hh, if_true]
  rfl

theorem Env.bar_noGang (hk : s.me.gangId = none) : (s.envOf i).bar (s.issuing i) a = .error (.trap causeRange (s.sca a) 0) := by
  have hx : (s.envOf i).x a = s.sca a := rfl
  have hg : (s.envOf i).sl.gangId = none := hk
  simp only [Env.bar, hx, hg]
  exact ite_self _

theorem Env.bar_unnamed (hk : s.me.gangId = some k) (hb : s.barrier k (s.sca a) = none) :
    (s.envOf i).bar (s.issuing i) a = .error (.trap causeRange (s.sca a) 0) := by
  have hx : (s.envOf i).x a = s.sca a := rfl
  have hg : (s.envOf i).sl.gangId = some k := hk
  simp only [Env.bar, hx, hg, State.barrier_issuing, hb]
  exact ite_self _

end

/-! ## The arrival -/

section
variable {s : State} {i : Instr} {a : BitVec 6} {k h : Nat} {b : Barrier}

theorem Env.arrive_ok (hf : s.me.gti ∉ b.arrived) (hc : s.me.stc = 0) (ho : s.releaseReady true = true) :
    (s.envOf i).arrive (s.issuing i) k h b = .ok (b.phase, (s.issuing i).setBarrier k h (b.arrive s.me.gti)) := by
  have hin : b.arrived.contains (s.envOf i).sl.gti = false := by simpa [State.envOf] using hf
  have hcnt : ((s.envOf i).sl.stc != 0) = false := by simpa [State.envOf] using hc
  have hord : (!(s.issuing i).releaseReady true) = false := by rw [State.releaseReady_issuing, ho]; rfl
  simp only [Env.arrive, stallIf_passes hin, stallIf_passes hcnt, stallIf_passes hord]
  rfl

theorem Env.arrive_waits (hf : ¬ (s.me.gti ∉ b.arrived ∧ s.me.stc = 0)) :
    (s.envOf i).arrive (s.issuing i) k h b = .error (.wait .barrier) := by
  by_cases hin : b.arrived.contains (s.envOf i).sl.gti = true
  · simp only [Env.arrive, stallIf_waits hin]
    rfl
  · have hcnt : ((s.envOf i).sl.stc != 0) = true := by
      simp only [State.envOf, List.contains_eq_mem, decide_eq_true_eq] at hin
      simpa [State.envOf, hin] using hf
    simp only [Env.arrive, stallIf_passes (Bool.eq_false_of_not_eq_true hin), stallIf_waits hcnt]
    rfl

theorem Env.arrive_order (hf : s.me.gti ∉ b.arrived) (hc : s.me.stc = 0) (ho : s.releaseReady true = false) :
    (s.envOf i).arrive (s.issuing i) k h b = .error (.wait .order) := by
  have hin : b.arrived.contains (s.envOf i).sl.gti = false := by simpa [State.envOf] using hf
  have hcnt : ((s.envOf i).sl.stc != 0) = false := by simpa [State.envOf] using hc
  have hord : (!(s.issuing i).releaseReady true) = true := by rw [State.releaseReady_issuing, ho]; rfl
  simp only [Env.arrive, stallIf_passes hin, stallIf_passes hcnt, stallIf_waits hord]
  rfl

/-- A task that issues waits on no barrier. -/
theorem Ready.unbarred (h : Ready i s) : s.me.barred = none := by
  have hm := h.may
  simp only [State.mayIssue, Slot.mayIssue, Bool.and_eq_true, Option.isNone_iff_eq_none] at hm
  obtain ⟨⟨⟨_, hb⟩, _⟩, _⟩ := hm
  exact hb

end

/-! ## The state after an arrival -/

/-- What an arrival leaves behind: the barrier, the bytes, and the tasks beside the one that arrives. -/
structure BarrierPut (s : State) (k h : Nat) (g : Gang) (b : Barrier) (t : State) : Prop where
  barrier : t.barrier k h = some b
  bytes : BytesKept (fun _ => False) s t
  slots : ∀ c n, c ≠ s.cur.core ∨ n ≠ s.cur.slot →
    ((∃ m ∈ g.members, m.1 = c ∧ m.2.1 = n) ∧ (s.slot c n).released k h b → t.slot c n = { s.slot c n with barred := none, wait := none }) ∧
    (¬ ((∃ m ∈ g.members, m.1 = c ∧ m.2.1 = n) ∧ (s.slot c n).released k h b) → t.slot c n = s.slot c n)

section
variable {s : State} {i : Instr} {k h : Nat} {g : Gang} {b : Barrier}

theorem BarrierPut.updMe {t : State} (hp : BarrierPut s k h g b t) (hc : t.cur = s.cur) (f : Slot → Slot) : BarrierPut s k h g b (t.updMe f) where
  barrier := hp.barrier
  bytes := hp.bytes.trans (BytesKept.of_mem rfl)
  slots c n hn := by
    rw [State.slot_updMe_ne t f (by simpa [hc, eq_comm] using hn)]
    exact hp.slots c n hn

theorem State.cur_setBarrier (hg : s.gangs.look k = some g) : (s.setBarrier k h b).cur = s.cur := by
  obtain ⟨l, p, q, ht⟩ := State.setBarrier_ex (h := h) (b := b) hg
  rw [ht]

theorem State.now_setBarrier (hg : s.gangs.look k = some g) : (s.setBarrier k h b).now = s.now := by
  obtain ⟨l, p, q, ht⟩ := State.setBarrier_ex (h := h) (b := b) hg
  rw [ht]

theorem State.mem_setBarrier (hg : s.gangs.look k = some g) : (s.setBarrier k h b).mem = s.mem := by
  obtain ⟨l, p, q, ht⟩ := State.setBarrier_ex (h := h) (b := b) hg
  rw [ht]

/-- The task that arrives does not wait, so it is as it was. -/
theorem State.me_setBarrier_issuing (hr : Ready i s) (hg : s.gangs.look k = some g) :
    ((s.issuing i).setBarrier k h b).me = s.slotIssuing i := by
  obtain ⟨n, hn⟩ := State.gang_issuing (i := i) hg
  have hme : (s.issuing i).slot s.cur.core s.cur.slot = s.slotIssuing i := s.slot_issuing_self i
  unfold State.me
  rw [State.cur_setBarrier hn, s.cur_issuing, State.slot_setBarrier_kept hn, hme]
  rintro ⟨-, -, v, hv, -⟩
  rw [hme] at hv
  exact absurd (hv.symm.trans hr.unbarred) (by simp)

theorem barrierPut_issuing (hg : s.gangs.look k = some g) (hb : h ≠ 0 → b.gang = k) : BarrierPut s k h g b ((s.issuing i).setBarrier k h b) := by
  obtain ⟨n, hn⟩ := State.gang_issuing (i := i) hg
  refine ⟨State.barrier_setBarrier hn hb, BytesKept.of_mem ((State.mem_setBarrier hn).trans (taskOnly_issuing s i).mem), fun c m hm => ?_⟩
  have hs : (s.issuing i).slot c m = s.slot c m := (coresKept_issuing s i).slots c m hm
  refine ⟨fun ⟨hm, hx⟩ => ?_, fun hx => ?_⟩
  · rw [State.slot_setBarrier_released hn hm (hs ▸ hx), hs]
  · rw [State.slot_setBarrier_kept hn (hs ▸ hx), hs]

end

/-! ## BAR.arrive, BAR.full and BAR.wait -/

/-- A task that waits on a barrier for a phase to end. -/
def Slot.waitsAt (x : Slot) (now h v : Nat) : Slot := { x.stalls .barrier now with barred := some (h, v) }

section
variable {t : State} {k h v : Nat} {b : Barrier}

theorem State.barWait_past (hb : t.barrier k h = some b) (hp : b.past v = true) : t.barWait k h v = t := by
  simp only [State.barWait, hb, hp, if_true]

theorem State.barWait_waits (hb : t.barrier k h = some b) (hp : b.past v = false) :
    t.barWait k h v = t.updMe (fun x => x.waitsAt t.now h v) := by
  simp only [State.barWait, hb, hp]
  rfl

end

/-- A task at a barrier of its gang, as BAR names it. -/
structure AtBarrier (s : State) (a : BitVec 6) (k : Nat) (g : Gang) (b : Barrier) : Prop where
  own : s.me.gangId = some k
  gang : s.gangs.look k = some g
  narrow : s.sca a < 2 ^ 32
  named : s.barrier k (s.sca a) = some b

/-- Nothing keeps a task from arriving. -/
structure MayArrive (s : State) (b : Barrier) : Prop where
  absent : s.me.gti ∉ b.arrived
  stores : s.me.stc = 0
  order : s.releaseReady true = true

section
variable {s : State} {i : Instr} {g : BitVec 4} {d a b : BitVec 6} {k : Nat} {gang : Gang} {bar : Barrier}

/-- The state once the task has arrived. -/
def State.arriving (s : State) (i : Instr) (k h : Nat) (b : Barrier) : State := (s.issuing i).setBarrier k h (b.arrive s.me.gti)

theorem AtBarrier.put (hb : AtBarrier s a k gang bar) :
    BarrierPut s k (s.sca a) gang (bar.arrive s.me.gti) (s.arriving i k (s.sca a) bar) :=
  barrierPut_issuing hb.gang (fun h0 => (Barrier.gang_arrive _ _).trans (State.barrier_gang hb.named h0))

theorem AtBarrier.cur (hb : AtBarrier s a k gang bar) : (s.arriving i k (s.sca a) bar).cur = s.cur := by
  obtain ⟨n, hn⟩ := State.gang_issuing (i := i) hb.gang
  exact (State.cur_setBarrier hn).trans (s.cur_issuing i)

theorem AtBarrier.now (hb : AtBarrier s a k gang bar) : (s.arriving i k (s.sca a) bar).now = s.now := by
  obtain ⟨n, hn⟩ := State.gang_issuing (i := i) hb.gang
  exact (State.now_setBarrier hn).trans (s.issuing_part i State.now (fun _ _ _ _ => rfl))

theorem AtBarrier.me (hb : AtBarrier s a k gang bar) (hr : Ready i s) : (s.arriving i k (s.sca a) bar).me = s.slotIssuing i :=
  State.me_setBarrier_issuing hr hb.gang

theorem AtBarrier.bar_ok (hb : AtBarrier s a k gang bar) : (s.envOf i).bar (s.issuing i) a = .ok (k, s.sca a, bar) :=
  Env.bar_ok hb.narrow hb.own hb.named

theorem MayArrive.arrive_ok (hm : MayArrive s bar) (h : Nat) :
    (s.envOf i).arrive (s.issuing i) k h bar = .ok (bar.phase, s.arriving i k h bar) := Env.arrive_ok hm.absent hm.stores hm.order

theorem barArrive_arrives (hb : AtBarrier s a k gang bar) (hr : Ready (.barArrive g d a) s) (hm : MayArrive s bar) :
    ∃ t, exec (.barArrive g d a) s = .next t ∧ BarrierPut s k (s.sca a) gang (bar.arrive s.me.gti) t ∧
      t.me = onArch (fun r => r.setScalar d.toNat bar.phase) (s.slotIssuing (.barArrive g d a)) := by
  refine ⟨(s.arriving (.barArrive g d a) k (s.sca a) bar).updMe (onArch (fun r => r.setScalar d.toNat bar.phase)),
    next_of hr (exec_barArrive g d a s) ?_, hb.put.updMe hb.cur _, ?_⟩
  · simp only [hb.bar_ok, hm.arrive_ok, bind, Except.bind]
    rfl
  · rw [State.me_updMe, hb.me hr]

theorem barFull_arrives (hb : AtBarrier s a k gang bar) (hr : Ready (.barFull g a) s) (hm : MayArrive s bar) :
    ∃ t, exec (.barFull g a) s = .next t ∧ BarrierPut s k (s.sca a) gang (bar.arrive s.me.gti) t ∧
      (bar.arrived.length + 1 = bar.e → t.me = s.slotIssuing (.barFull g a)) ∧
      (bar.arrived.length + 1 ≠ bar.e → t.me = (s.slotIssuing (.barFull g a)).waitsAt s.now (s.sca a) bar.phase) := by
  have hbody : ∀ t, (s.arriving (.barFull g a) k (s.sca a) bar).barWait k (s.sca a) bar.phase = t → exec (.barFull g a) s = .next t := by
    rintro t rfl
    refine next_of hr (exec_barFull g a s) ?_
    simp only [hb.bar_ok, hm.arrive_ok, bind, Except.bind]
  have hput := hb.put (i := .barFull g a)
  by_cases hl : bar.arrived.length + 1 = bar.e
  · exact ⟨_, hbody _ (State.barWait_past hput.barrier (Barrier.past_arrive_last hl _)), hput, fun _ => hb.me hr, fun hn => absurd hl hn⟩
  · refine ⟨_, hbody _ (State.barWait_waits hput.barrier (Barrier.past_arrive hl _)), hput.updMe hb.cur _, fun hn => absurd hn hl, fun _ => ?_⟩
    rw [State.me_updMe, hb.me hr, hb.now]

theorem AtBarrier.barrier_issuing (hb : AtBarrier s a k gang bar) : (s.issuing i).barrier k (s.sca a) = some bar :=
  State.barrier_issuing.trans hb.named

theorem barWait_past (hb : AtBarrier s a k gang bar) (hr : Ready (.barWait g a b) s) (hp : bar.past (elem (s.vec b) 32 0) = true) :
    ActsOn (.barWait g a b) id s := by
  refine actsOn_id hr (exec_barWait g a b s) ?_
  simp only [hb.bar_ok, bind, Except.bind]
  exact congrArg Except.ok (State.barWait_past hb.barrier_issuing hp)

theorem barWait_waits (hb : AtBarrier s a k gang bar) (hr : Ready (.barWait g a b) s) (hp : bar.past (elem (s.vec b) 32 0) = false) :
    ActsOn (.barWait g a b) (fun x => x.waitsAt s.now (s.sca a) (elem (s.vec b) 32 0)) s := by
  refine actsOn_of hr (exec_barWait g a b s) ?_
  simp only [hb.bar_ok, bind, Except.bind]
  rw [← s.issuing_part (.barWait g a b) State.now (fun _ _ _ _ => rfl)]
  exact congrArg Except.ok (State.barWait_waits hb.barrier_issuing hp)

/-- An arrival that may not happen yet stalls either form. -/
theorem bar_stalls (hb : AtBarrier s a k gang bar) {why : Stall} (hr : Ready i s)
    (ha : (s.envOf i).arrive (s.issuing i) k (s.sca a) bar = .error (.wait why)) (hi : i ∈ [Instr.barFull g a, .barArrive g d a]) :
    StallsFor i why s := by
  simp only [List.mem_cons, List.not_mem_nil, or_false] at hi
  rcases hi with rfl | rfl
  · refine stallsFor_of hr (exec_barFull g a s) ?_
    simp only [hb.bar_ok, ha, bind, Except.bind]
  · refine stallsFor_of hr (exec_barArrive g d a s) ?_
    simp only [hb.bar_ok, ha, bind, Except.bind]

/-- A handle that names no barrier of the task's gang stops every form. -/
theorem bar_traps (hr : Ready i s) (ha : (s.envOf i).bar (s.issuing i) a = .error (.trap causeRange (s.sca a) 0))
    (hi : i ∈ [Instr.barFull g a, .barArrive g d a, .barWait g a b]) : TrapsWith i 9 (s.sca a) s := by
  simp only [List.mem_cons, List.not_mem_nil, or_false] at hi
  rcases hi with rfl | rfl | rfl
  · refine trapsWith_of hr (exec_barFull g a s) ?_
    simp only [ha, bind, Except.bind]
    rfl
  · refine trapsWith_of hr (exec_barArrive g d a s) ?_
    simp only [ha, bind, Except.bind]
    rfl
  · refine trapsWith_of hr (exec_barWait g a b s) ?_
    simp only [ha, bind, Except.bind]
    rfl

end

/-- Settles O31: a task at a barrier of its gang (`AtBarrier`) that may arrive (`MayArrive`) replaces the barrier, which lets the tasks go
on whose wait is over (`Slot.released`), and then waits itself unless its own phase has ended. -/
theorem barriers : Obligations.Barriers := by
  refine ⟨?_, fun s g d a b i hi hr => ?_⟩
  · intro s g d a b k gang bar hk hg h hh hbar me last bar' free may goesOn arrives waits
    have hb : AtBarrier s a k gang bar := ⟨hk, hg, hh, hbar⟩
    have harr : ∀ t, BarrierPut s k h gang (bar.arrive s.me.gti) t → arrives t := fun t ht =>
      ⟨ht.barrier.trans (congrArg some (Barrier.arrive_eq _ _)), ht.bytes, fun c n hn => by
        have hs := ht.slots c n hn
        rw [Barrier.arrive_eq] at hs
        simpa only [goesOn, Slot.released, and_assoc] using hs⟩
    refine ⟨fun hr ⟨⟨hf, hc⟩, ho⟩ => ?_, fun hr ⟨⟨hf, hc⟩, ho⟩ => ?_, fun hr hp => barWait_past hb hr hp, fun hr hp => barWait_waits hb hr hp,
      fun i hi hr hf => bar_stalls hb hr (Env.arrive_waits hf) hi, fun i hi hr hf ho => bar_stalls hb hr (Env.arrive_order hf.1 hf.2 ho) hi⟩
    · obtain ⟨t, he, ht, hme⟩ := barArrive_arrives hb hr ⟨hf, hc, ho⟩
      exact ⟨t, he, harr t ht, hme⟩
    · obtain ⟨t, he, ht, hlast, hwait⟩ := barFull_arrives hb hr ⟨hf, hc, ho⟩
      exact ⟨t, he, harr t ht, hlast, hwait⟩
  · exact ⟨fun hh => bar_traps hr (Env.bar_wide hh) hi, fun hk => bar_traps hr (Env.bar_noGang hk) hi,
      fun k hk hb => bar_traps hr (Env.bar_unnamed hk hb) hi⟩

end Sys2Proof.Machine
end

section
/-!
SLOT, R137, R238 to R240: a pool's free place, the storage of a new slot, and the answers of the two forms.
-/

namespace Sys2Proof.Machine

/-! ## Sparse tables and what holds of one of their values -/

theorem Sp.mem_of_look {α : Type} {m : Sp α} {k : Nat} {w : α} (h : m.look k = some w) : (k, w) ∈ m := by
  induction m with
  | nil => exact absurd h (by simp [Sp.look])
  | cons e r ih =>
    obtain ⟨j, x⟩ := e
    rw [Sp.look] at h
    split at h
    next hj => rw [hj, Option.some.inj h]; exact List.mem_cons_self
    · exact List.mem_cons_of_mem _ (ih h)

/-- A replaced value changes nothing of what some value has, when it has it as the old one had. -/
theorem Sp.any_set {α : Type} (m : Sp α) (k : Nat) (v d : α) (P : α → Bool) (hd : P d = false) (hv : P v = P (m.at k d)) :
    (Sp.set m k v).any (fun e => P e.2) = m.any (fun e => P e.2) := by
  induction m with
  | nil =>
    have : P v = false := hv.trans hd
    simp [Sp.set, this]
  | cons e r ih =>
    obtain ⟨j, x⟩ := e
    by_cases hlt : k < j
    · have hmem : P v = true → ∃ e ∈ (j, x) :: r, P e.2 = true := by
        intro hp
        rw [hv] at hp
        unfold Sp.at at hp
        cases hl : Sp.look ((j, x) :: r) k with
        | none =>
          rw [hl] at hp
          exact absurd hp (by simp [hd])
        | some w =>
          rw [hl] at hp
          exact ⟨(k, w), Sp.mem_of_look hl, hp⟩
      rw [Sp.set, if_pos hlt, List.any_cons]
      cases hp : P v with
      | false => rfl
      | true => exact (List.any_eq_true.2 (hmem hp)).symm
    · by_cases heq : k = j
      · subst heq
        have : P v = P x := by simpa [Sp.at, Sp.look] using hv
        simp [Sp.set, this]
      · rw [Sp.set, if_neg hlt, if_neg heq, List.any_cons, List.any_cons, ih (by simpa [Sp.at, Sp.look, Ne.symm heq] using hv)]

/-! ## A store to local storage -/

theorem keyIsView_localKey {c sp off i : Nat} (hs : sp < 16) (h5 : sp ≠ 5) (h8 : sp ≠ 8) (ho : off + i < 2 ^ 32) :
    keyIsView (localKey c sp off + i) = false := by
  have hk : localKey c sp off + i = localKey c sp (off + i) := Nat.add_assoc _ _ _
  simp [keyIsView, hk, keySpace_localKey c hs ho, h5, h8]

/-- A write of storage touches the cores' marks, memory, the stale words of instruction lines, errors and tags. -/
structure StoredIn (s t : State) : Prop where
  rest : ∃ l m i b g, t = { s with cores := l, mem := m, iLines := i, bad := b, tags := g }

namespace StoredIn
variable {s t u : State}

theorem refl (s : State) : StoredIn s s := ⟨s.cores, s.mem, s.iLines, s.bad, s.tags, rfl⟩

theorem trans (h : StoredIn s t) (k : StoredIn t u) : StoredIn s u := by
  obtain ⟨l, m, i, b, g, rfl⟩ := h
  obtain ⟨l', m', i', b', g', rfl⟩ := k
  exact ⟨l', m', i', b', g', rfl⟩

theorem foldl {β : Type} {f : State → β → State} (hf : ∀ t b, StoredIn t (f t b)) (l : List β) (s : State) : StoredIn s (l.foldl f s) :=
  foldl_keeps (P := StoredIn s) (fun t b h => h.trans (hf t b)) l s (refl s)

theorem keepStale (s : State) (k n : Nat) : StoredIn s (s.keepStale k n) := by
  unfold State.keepStale
  split
  · exact refl s
  · exact ⟨_, _, _, _, _, rfl⟩

theorem raiseMark (s : State) (k n : Nat) : StoredIn s (s.raiseMark k n) := by
  unfold State.raiseMark
  split
  · exact ⟨_, _, _, _, _, rfl⟩
  · exact refl s

theorem heal (s : State) (k n m : Nat) : StoredIn s (s.heal k n m) := by
  unfold State.heal
  dsimp only
  generalize (if keyIsLocal k = true then 8 else 32) = step
  refine foldl (fun t i => ?_) _ _
  split
  · exact ⟨_, _, _, _, _, rfl⟩
  · exact refl t

theorem putByte (s : State) (k : Nat) (b : Byte) : StoredIn s (s.putByte k b) := by
  unfold State.putByte
  split
  · exact ⟨_, _, _, _, _, rfl⟩
  · exact ⟨_, _, _, _, _, rfl⟩

theorem putBytes (s : State) (k n m d : Nat) : StoredIn s (s.putBytes k n m d) := by
  refine foldl (fun t i => ?_) _ _
  split
  · exact putByte _ _ _
  · exact refl t

theorem writeMem {k : Nat} (hk : keyIsView k = false) (s : State) (n m d : Nat) : StoredIn s (s.writeMem k n m d) := by
  unfold State.writeMem
  rw [keyIsView_eight hk]
  split
  · exact refl s
  · refine (((keepStale s k n).trans (raiseMark _ _ _)).trans (heal _ _ _ _)).trans ((putBytes _ _ _ _ _).trans (foldl (fun t i => ?_) _ _))
    dsimp only
    split
    · exact ⟨_, _, _, _, _, rfl⟩
    · exact refl t

end StoredIn

/-! ## The storage of a new slot, R239, R240 -/

section
variable (s : State) (k n : Nat)

/-- A bit that is clear stays so while others are cleared. -/
theorem State.clear_setFull {t : State} {j : Nat} (h : t.full.at j false = false) : (t.setFull k false).full.at j false = false := by
  show (Sp.put false t.full (k / 4) false).at j false = false
  rw [Sp.at_put]
  split
  · rfl
  · exact h

theorem State.fullAt_clearSlot {w : Nat} (hw : w < n) : (s.clearSlot k n).fullAt (k + 8 * w) = false := by
  have hfold : ∀ (l : List Nat) (t : State), (2 * w ∈ l ∨ t.full.at ((k + 8 * w) / 4) false = false) →
      (l.foldl (fun u i => u.setFull (k + 4 * i) false) t).full.at ((k + 8 * w) / 4) false = false := by
    intro l
    induction l with
    | nil => exact fun t h => h.resolve_left (by simp)
    | cons i l ih =>
      intro t h
      refine ih _ ?_
      by_cases hi : i = 2 * w
      · subst hi
        refine .inr ?_
        have : k + 8 * w = k + 4 * (2 * w) := by omega
        rw [this]
        exact Sp.at_put_self false t.full _ false
      · exact (h.imp (fun hm => (List.mem_cons.1 hm).resolve_left (Ne.symm hi)) (State.clear_setFull _))
  exact hfold _ _ (.inl (List.mem_range.2 (by omega)))

/-- Beside the store a new slot's storage differs in its full bits. -/
theorem State.clearSlot_ex : ∃ f, s.clearSlot k n = { s.store k (8 * n) 0 with full := f } :=
  foldl_keeps (P := fun t => ∃ f, t = { s.store k (8 * n) 0 with full := f }) (by rintro _ i ⟨f, rfl⟩; exact ⟨_, rfl⟩) _ _ ⟨_, rfl⟩

theorem State.mem_clearSlot : (s.clearSlot k n).mem = (s.store k (8 * n) 0).mem := by
  obtain ⟨f, h⟩ := s.clearSlot_ex k n
  rw [h]

theorem State.cores_clearSlot : (s.clearSlot k n).cores = (s.store k (8 * n) 0).cores := by
  obtain ⟨f, h⟩ := s.clearSlot_ex k n
  rw [h]

theorem State.pools_clearSlot (hk : keyIsView k = false) : (s.clearSlot k n).pools = s.pools := by
  obtain ⟨l, m, i, b, g, h⟩ := (StoredIn.writeMem hk s (8 * n) (2 ^ (8 * n) - 1) 0).rest
  obtain ⟨f, hf⟩ := s.clearSlot_ex k n
  rw [hf, State.store, h]

theorem State.cur_clearSlot (hk : keyIsView k = false) : (s.clearSlot k n).cur = s.cur := by
  obtain ⟨l, m, i, b, g, h⟩ := (StoredIn.writeMem hk s (8 * n) (2 ^ (8 * n) - 1) 0).rest
  obtain ⟨f, hf⟩ := s.clearSlot_ex k n
  rw [hf, State.store, h]

variable {s k n} (hv : ∀ x, k ≤ x → x < k + 8 * n → keyIsView x = false) (hn : 0 < n)
include hv hn

theorem SameCores.clearSlot : SameCores s (s.clearSlot k n) :=
  (SameCores.writeMem s k (8 * n) _ 0 (hv k (by omega) (by omega)) hv).trans (.of_cores (State.cores_clearSlot s k n))

theorem BytesKept.clearSlot : BytesKept (fun x => k ≤ x ∧ x < k + 8 * n) s (s.clearSlot k n) :=
  (BytesKept.writeMem s k (8 * n) _ 0 (hv k (by omega) (by omega)) hv).trans (.of_mem (State.mem_clearSlot s k n))

theorem State.byte_clearSlot {x : Nat} (hlo : k ≤ x) (hhi : x < k + 8 * n) : (s.clearSlot k n).byte x = 0 := by
  rw [State.byte_congr (State.mem_clearSlot s k n) (hv x hlo hhi), State.store,
    State.byte_writeMem s k (8 * n) _ 0 (hv x hlo hhi) (fun i hi => hv _ (by omega) (by omega)) (by omega)]
  have hbit : bit (2 ^ (8 * n) - 1) (x - k) = true := by
    rw [bit_eq_testBit, Nat.testBit_two_pow_sub_one]
    exact decide_eq_true (by omega)
  rw [if_pos ⟨hlo, hhi, hbit⟩]
  simp [byteOf]

theorem State.readMem_clearSlot {w : Nat} (hw : w < n) : (s.clearSlot k n).readMem (k + 8 * w) 8 = 0 := by
  have hz : (List.range 8).map (fun i => (s.clearSlot k n).byte (k + 8 * w + i)) = List.replicate 8 0 := by
    refine List.eq_replicate_iff.2 ⟨by simp, fun b hb => ?_⟩
    obtain ⟨i, hi, rfl⟩ := List.mem_map.1 hb
    have := List.mem_range.1 hi
    exact State.byte_clearSlot hv hn (by omega) (by omega)
  rw [State.readMem, hz]
  decide

end

/-! ## SLOT alloc -/

/-- A place taken in a pool, R137: the least free one, unless the quota or the pool is full. -/
def State.take {α : Type} (t : State) (m : Sp α) (cap held : Nat) (put : Nat → State → State) (handle : Nat → Nat) : State × Nat :=
  let (ok, t) := t.underQuota held
  match freeIndex m cap with
  | some i => if ok then (put i t, slotWord 0 (handle i)) else (t, slotWord 1 0)
  | none => (t, slotWord 1 0)

section
variable {α : Type} {t : State} {m : Sp α} {cap held : Nat} {put : Nat → State → State} {handle : Nat → Nat}

theorem State.underQuota_ex (t : State) (held : Nat) : ∃ b n, t.underQuota held = (b, { t with draws := n }) ∧ (held = 0 → b = true) := by
  unfold State.underQuota
  by_cases h : held = 0
  · exact ⟨true, t.draws, if_pos h, fun _ => rfl⟩
  · exact ⟨_, _, if_neg h, fun h0 => absurd h0 h⟩

theorem State.take_full (h : freeIndex m cap = none) : ∃ n, t.take m cap held put handle = ({ t with draws := n }, 1 * 2 ^ 48) := by
  obtain ⟨b, n, hq, -⟩ := t.underQuota_ex held
  refine ⟨n, ?_⟩
  simp only [State.take, hq, h]
  rfl

theorem State.take_free {i : Nat} (h : freeIndex m cap = some i) : ∃ n,
    t.take m cap held put handle = (put i { t with draws := n }, handle i) ∨
      held ≠ 0 ∧ t.take m cap held put handle = ({ t with draws := n }, 1 * 2 ^ 48) := by
  obtain ⟨b, n, hq, hb⟩ := t.underQuota_ex held
  refine ⟨n, ?_⟩
  cases b with
  | true =>
    refine .inl ?_
    simp only [State.take, hq, h, if_true, slotWord, Nat.zero_mul, Nat.zero_add]
  | false =>
    refine .inr ⟨fun h0 => absurd (hb h0) (by decide), ?_⟩
    simp only [State.take, hq, h]
    rfl

/-- What is made of a place taken is made of each of its three outcomes. -/
theorem State.take_apply {β : Type} (F : State × Nat → β) : F (t.take m cap held put handle) =
    (let (ok, u) := t.underQuota held
     match freeIndex m cap with
     | some i => if ok then F (put i u, slotWord 0 (handle i)) else F (u, slotWord 1 0)
     | none => F (u, slotWord 1 0)) := by
  unfold State.take
  dsimp only
  split
  · exact apply_ite F _ _ _
  · rfl

end

/-- A queue or counter slot of a task, R137. -/
def Slot.ownSlot (x : Slot) (depth : Nat) : QueueSlot := { depth := depth, ctx := x.ctxid.toNat, part := x.part, launch := x.launch }

/-- A barrier of a task's gang with n arrivals in each phase, R135, R137. -/
def Slot.ownBarrier (x : Slot) (gang n : Nat) : Barrier :=
  { gang := gang, e := n, eNext := n, ctx := x.ctxid.toNat, part := x.part, launch := x.launch.getD 0 }

/-- What SLOT alloc does beside its answer's register, and the answer: for a task's slot, on a plate, with an operand. -/
def State.alloc (t : State) (x : Slot) (plate n k : Nat) : State × Nat :=
  let p := t.pool plate
  match k with
  | 0 => match x.gangId with
    | none => (t, slotWord 5 0)
    | some gid =>
      if n = 0 ∨ n > 1024 ∨ n > bits x.gang.toNat 51 42 + 1 then (t, slotWord 2 0)
      else t.take p.bars 256 (p.bars.filter (fun b => b.2.part == x.part)).length
        (fun i u => u.updPool plate (fun p => { p with bars := p.bars.set i (x.ownBarrier gid n) })) id
  | 1 =>
    if n = 0 ∨ n > 256 then (t, slotWord 2 0)
    else t.take p.queues 256 (p.queues.filter (fun b => b.2.part == x.part)).length
      (fun i u => (u.updPool plate (fun p => { p with queues := p.queues.set i (x.ownSlot n) })).clearSlot (queueKey plate i 0) n) (slotHandle plate)
  | _ => t.take p.ctrs 1024 (p.ctrs.filter (fun b => b.2.part == x.part)).length
      (fun i u => (u.updPool plate (fun p => { p with ctrs := p.ctrs.set i (x.ownSlot 0) })).clearSlot (counterKey plate i) 1) (slotHandle plate)

section
variable (s : State) (g : BitVec 4) (d a : BitVec 6) (k : BitVec 3)

/-- SLOT alloc of a ready task. -/
theorem exec_slotAlloc_ready (h : Ready (.slotAlloc g d a k) s) {r : State × Nat}
    (hr : (s.issuing (.slotAlloc g d a k)).alloc s.me (corePlate s.cur.core) (s.sca a) k.toNat = r) :
    exec (.slotAlloc g d a k) s = .next (r.1.updArch (fun x => x.setScalar d.toNat r.2)) := by
  subst hr
  refine next_of h (exec_slotAlloc g d a k s) ?_
  generalize s.issuing (.slotAlloc g d a k) = u
  let F : State × Nat → Except Exit State := fun r => .ok (r.1.updArch (fun x => x.setScalar d.toNat r.2))
  show (match k.toNat with | 0 => _ | 1 => _ | _ => _) = F (u.alloc s.me (corePlate s.cur.core) (s.sca a) k.toNat)
  have hk : k.toNat = 1 → k = 1 := fun h1 => BitVec.eq_of_toNat_eq h1
  match hn : k.toNat with
  | 0 =>
    show (match s.me.gangId with | none => _ | some gid => _) = F (match s.me.gangId with | none => _ | some gid => _)
    cases s.me.gangId with
    | none => rfl
    | some gid =>
      show _ = F (ite _ _ (State.take _ _ _ _ _ _))
      rw [apply_ite F, State.take_apply F]
      rfl
  | 1 =>
    obtain rfl := hk hn
    show _ = F (ite _ _ (State.take _ _ _ _ _ _))
    rw [apply_ite F, State.take_apply F]
    rfl
  | m + 2 =>
    have ha : ∀ (t : State) (x : Slot) (p n : Nat), t.alloc x p n (m + 2) = t.take (t.pool p).ctrs 1024
        ((t.pool p).ctrs.filter (fun b => b.2.part == x.part)).length
        (fun i u => (u.updPool p (fun q => { q with ctrs := q.ctrs.set i (x.ownSlot 0) })).clearSlot (counterKey p i) 1) (slotHandle p) :=
      fun _ _ _ _ => rfl
    rw [ha, State.take_apply F]
    have : k ≠ 1 := fun h1 => by subst h1; exact absurd hn (by simp)
    simp only [if_neg this]
    have hc : (s.envOf (.slotAlloc g d a k)).core = s.cur.core := rfl
    have hl : (s.envOf (.slotAlloc g d a k)).sl = s.me := rfl
    simp only [hc, hl]
    cases freeIndex (u.pool (corePlate s.cur.core)).ctrs 1024 with
    | none => rfl
    | some i =>
      dsimp only
      split
      · rfl
      · rfl

end

/-- A state from which SLOT answers: the tasks and cores are those of the issue, with given pools, and the other bytes are kept. -/
structure SlotState (s : State) (i : Instr) (p : Sp Pools) (but : Nat → Prop) (u : State) : Prop where
  cur : u.cur = s.cur
  same : SameCores (s.issuing i) u
  pools : u.pools = p
  bytes : BytesKept but s u

/-- The state after SLOT's answer. -/
structure SlotAnswer (s : State) (i : Instr) (d : BitVec 6) (w : Nat) (p : Sp Pools) (but : Nat → Prop) (t : State) : Prop where
  me : t.me = onArch (fun r => r.setScalar d.toNat w) (s.slotIssuing i)
  cores : CoresKept s t
  pools : t.pools = p
  bytes : BytesKept but s t

section
variable {s u : State} {i : Instr} {p : Sp Pools} {but : Nat → Prop}

theorem State.pools_issuing (s : State) (i : Instr) : (s.issuing i).pools = s.pools := s.issuing_part i State.pools (fun _ _ _ _ => rfl)

theorem SlotState.drawn (n : Nat) : SlotState s i s.pools (fun _ => False) { s.issuing i with draws := n } where
  cur := s.cur_issuing i
  same := .of_cores rfl
  pools := s.pools_issuing i
  bytes := (BytesKept.of_mem (taskOnly_issuing s i).mem).trans (.of_mem rfl)

theorem SlotState.updPool (h : SlotState s i s.pools but u) (plate : Nat) (f : Pools → Pools) :
    SlotState s i (s.pools.set plate (f (s.pool plate))) but (u.updPool plate f) where
  cur := h.cur
  same := h.same.trans (.of_cores rfl)
  pools := by
    have hp : u.pool plate = s.pool plate := congrArg (fun q : Sp Pools => q.at plate {}) h.pools
    rw [State.updPool, hp, h.pools]
  bytes := h.bytes.trans (.of_mem rfl)

theorem SlotState.clearSlot {k n : Nat} (h : SlotState s i p (fun _ => False) u) (hv : ∀ x, k ≤ x → x < k + 8 * n → keyIsView x = false)
    (hn : 0 < n) : SlotState s i p (fun x => k ≤ x ∧ x < k + 8 * n) (u.clearSlot k n) where
  cur := (State.cur_clearSlot u k n (hv k (by omega) (by omega))).trans h.cur
  same := h.same.trans (.clearSlot hv hn)
  pools := (State.pools_clearSlot u k n (hv k (by omega) (by omega))).trans h.pools
  bytes := (h.bytes.mono (fun _ hf => hf.elim)).trans (.clearSlot hv hn)

theorem SlotState.answer (h : SlotState s i p but u) (d : BitVec 6) (w : Nat) :
    SlotAnswer s i d w p but (u.updArch (fun r => r.setScalar d.toNat w)) where
  me := by
    have hme : u.me = s.slotIssuing i := by
      rw [State.me, h.cur, h.same.slots, State.slot_issuing_self]
    rw [State.me_updArch, hme]
    rfl
  cores := ((coresKept_issuing s i).trans_same h.same).updMe h.cur _
  pools := h.pools
  bytes := h.bytes.trans (.of_mem rfl)

theorem SlotState.undrawn : SlotState s i s.pools (fun _ => False) (s.issuing i) := SlotState.drawn (s.issuing i).draws

end

/-! ## The keys of queues and counters -/

section
variable {plate q n x : Nat}

/-- The least free index lies in its pool. -/
theorem freeIndex_le {α : Type} {m : Sp α} {n i : Nat} (h : freeIndex m n = some i) : i ≤ n := by
  have := List.mem_of_find?_eq_some h
  simp only [List.mem_map, List.mem_range] at this
  omega

theorem queueKey_word (w : Nat) : queueKey plate q w = queueKey plate q 0 + 8 * w := by
  simp only [queueKey, localKey]
  omega

theorem keyIsView_queueKey (hq : q ≤ 256) (hn : n ≤ 256) (hlo : queueKey plate q 0 ≤ x) (hhi : x < queueKey plate q 0 + 8 * n) :
    keyIsView x = false := by
  obtain ⟨i, rfl⟩ := Nat.exists_eq_add_of_le hlo
  exact keyIsView_localKey (by decide) (by decide) (by decide) (by omega)

theorem keyIsView_counterKey (hq : q ≤ 1024) (hlo : counterKey plate q ≤ x) (hhi : x < counterKey plate q + 8) : keyIsView x = false := by
  obtain ⟨i, rfl⟩ := Nat.exists_eq_add_of_le hlo
  exact keyIsView_localKey (by decide) (by decide) (by decide) (by omega)

end

/-! ## The answers of SLOT alloc -/

section
variable {s : State} {g : BitVec 4} {d a : BitVec 6} {k : BitVec 3}

theorem slotAlloc_answers (h : Ready (.slotAlloc g d a k) s) {u : State} {w : Nat} {p : Sp Pools} {but : Nat → Prop}
    (hr : (s.issuing (.slotAlloc g d a k)).alloc s.me (corePlate s.cur.core) (s.sca a) k.toNat = (u, w))
    (hs : SlotState s (.slotAlloc g d a k) p but u) :
    ∃ t, exec (.slotAlloc g d a k) s = .next t ∧ SlotAnswer s (.slotAlloc g d a k) d w p but t ∧ t.full = u.full ∧ t.mem = u.mem :=
  ⟨_, exec_slotAlloc_ready s g d a k h hr, hs.answer d w, rfl, rfl⟩

/-- The answer where no place is taken. -/
theorem slotAlloc_status (h : Ready (.slotAlloc g d a k) s) {n w : Nat}
    (hr : (s.issuing (.slotAlloc g d a k)).alloc s.me (corePlate s.cur.core) (s.sca a) k.toNat = ({ s.issuing (.slotAlloc g d a k) with draws := n }, w)) :
    ∃ t, exec (.slotAlloc g d a k) s = .next t ∧ SlotAnswer s (.slotAlloc g d a k) d w s.pools (fun _ => False) t := by
  obtain ⟨t, he, ha, -⟩ := slotAlloc_answers h hr (SlotState.drawn n)
  exact ⟨t, he, ha⟩

/-- A place taken in a pool, with what `put` makes of the state. -/
theorem slotAlloc_takes {α : Type} {m : Sp α} {cap held : Nat} {put : Nat → State → State} {handle : Nat → Nat} (h : Ready (.slotAlloc g d a k) s)
    (hr : (s.issuing (.slotAlloc g d a k)).alloc s.me (corePlate s.cur.core) (s.sca a) k.toNat =
      (s.issuing (.slotAlloc g d a k)).take m cap held put handle) :
    ∃ t, exec (.slotAlloc g d a k) s = .next t ∧
      (freeIndex m cap = none → SlotAnswer s (.slotAlloc g d a k) d (1 * 2 ^ 48) s.pools (fun _ => False) t) ∧
      ∀ i, freeIndex m cap = some i →
        (∃ n u, u = put i { s.issuing (.slotAlloc g d a k) with draws := n } ∧ (∀ p but, SlotState s (.slotAlloc g d a k) p but u →
          SlotAnswer s (.slotAlloc g d a k) d (handle i) p but t) ∧ t.full = u.full ∧ t.mem = u.mem) ∨
        held ≠ 0 ∧ SlotAnswer s (.slotAlloc g d a k) d (1 * 2 ^ 48) s.pools (fun _ => False) t := by
  cases hf : freeIndex m cap with
  | none =>
    obtain ⟨n, hn⟩ := State.take_full (t := s.issuing (.slotAlloc g d a k)) (held := held) (put := put) (handle := handle) hf
    obtain ⟨t, he, ha⟩ := slotAlloc_status h (hr.trans hn)
    exact ⟨t, he, fun _ => ha, fun i hi => absurd hi (by simp)⟩
  | some j =>
    obtain ⟨n, hn | ⟨hh, hn⟩⟩ := State.take_free (t := s.issuing (.slotAlloc g d a k)) (held := held) (put := put) (handle := handle) hf
    · refine ⟨_, exec_slotAlloc_ready s g d a k h (hr.trans hn), fun hi => absurd hi (by simp), fun i hi => ?_⟩
      obtain rfl := Option.some.inj hi
      exact .inl ⟨n, _, rfl, fun p but hs => hs.answer d _, rfl, rfl⟩
    · obtain ⟨t, he, ha⟩ := slotAlloc_status h (hr.trans hn)
      exact ⟨t, he, fun hi => absurd hi (by simp), fun i hi => .inr ⟨hh, ha⟩⟩

end

/-! ## SLOT free -/

/-- What SLOT free does beside its answer's register, and the answer: for a task's slot, of a plate, with a handle. -/
def State.freeing (t : State) (x : Slot) (plate h k : Nat) : State × Nat :=
  let i := bits h 10 0
  let p := t.pool plate
  match k with
  | 0 => match p.bars.look h with
    | none => (t, slotWord 3 0)
    | some b =>
      if b.ctx ≠ x.ctxid.toNat ∨ x.gangId ≠ some b.gang then (t, slotWord 3 0)
      else if t.cores.any (fun c => c.2.slots.any (fun x => x.2.gangId == some b.gang && (match x.2.barred with
          | some (j, _) => j == h
          | none => false))) then (t, slotWord 4 0)
      else (t.updPool plate (fun p => { p with bars := p.bars.drop h }), slotWord 0 h)
  | 1 => match p.queues.look i with
    | none => (t, slotWord 3 0)
    | some q =>
      if q.ctx ≠ x.ctxid.toNat ∨ h ≠ slotHandle plate i then (t, slotWord 3 0)
      else if t.queueHolds plate i q.depth then (t, slotWord 4 0)
      else (t.updPool plate (fun p => { p with queues := p.queues.drop i }), slotWord 0 h)
  | _ => match p.ctrs.look i with
    | none => (t, slotWord 3 0)
    | some q =>
      if q.ctx ≠ x.ctxid.toNat ∨ h ≠ slotHandle plate i then (t, slotWord 3 0)
      else (t.updPool plate (fun p => { p with ctrs := p.ctrs.drop i }), slotWord 0 h)

section
variable (s : State) (g : BitVec 4) (d a : BitVec 6) (k : BitVec 3)

/-- SLOT free of a ready task. -/
theorem exec_slotFree_ready (h : Ready (.slotFree g d a k) s) {r : State × Nat}
    (hr : (s.issuing (.slotFree g d a k)).freeing s.me (if k = 0 then corePlate s.cur.core else bits (s.sca a) 17 16) (s.sca a) k.toNat = r) :
    exec (.slotFree g d a k) s = .next (r.1.updArch (fun x => x.setScalar d.toNat r.2)) := by
  subst hr
  refine next_of h (exec_slotFree g d a k s) ?_
  generalize s.issuing (.slotFree g d a k) = u
  let F : State × Nat → Except Exit State := fun r => .ok (r.1.updArch (fun x => x.setScalar d.toNat r.2))
  let plate := if k = 0 then corePlate s.cur.core else bits (s.sca a) 17 16
  show (match k.toNat with | 0 => _ | 1 => _ | _ => _) = F (u.freeing s.me plate (s.sca a) k.toNat)
  match k.toNat with
  | 0 =>
    show (match (u.pool plate).bars.look (s.sca a) with | none => _ | some b => _) =
      F (match (u.pool plate).bars.look (s.sca a) with | none => _ | some b => _)
    cases (u.pool plate).bars.look (s.sca a) with
    | none => rfl
    | some b =>
      show _ = F (ite _ _ (ite _ _ _))
      rw [apply_ite F, apply_ite F]
      rfl
  | 1 =>
    show (match (u.pool plate).queues.look (bits (s.sca a) 10 0) with | none => _ | some b => _) =
      F (match (u.pool plate).queues.look (bits (s.sca a) 10 0) with | none => _ | some b => _)
    cases (u.pool plate).queues.look (bits (s.sca a) 10 0) with
    | none => rfl
    | some b =>
      show _ = F (ite _ _ (ite _ _ _))
      rw [apply_ite F, apply_ite F]
      rfl
  | m + 2 =>
    show (match (u.pool plate).ctrs.look (bits (s.sca a) 10 0) with | none => _ | some b => _) =
      F (match (u.pool plate).ctrs.look (bits (s.sca a) 10 0) with | none => _ | some b => _)
    cases (u.pool plate).ctrs.look (bits (s.sca a) 10 0) with
    | none => rfl
    | some b =>
      show _ = F (ite _ _ _)
      rw [apply_ite F]
      rfl

end

/-- A task of a gang waits on the barrier of a handle. -/
def Slot.waitsOn (x : Slot) (gang h : Nat) : Bool := x.gangId == some gang && (match x.barred with
  | some (j, _) => j == h
  | none => false)

section
variable {s : State} {i : Instr} {gang h : Nat}

theorem Slot.waitsOn_iff (x : Slot) : x.waitsOn gang h = true ↔ x.gangId = some gang ∧ ∃ v, x.barred = some (h, v) := by
  unfold Slot.waitsOn
  cases x.barred with
  | none => simp
  | some w => simp [Prod.ext_iff]

theorem Slot.waitsOn_unbarred {x : Slot} (hx : x.barred = none) : x.waitsOn gang h = false := by
  simp [Slot.waitsOn, hx]

/-- Of the tasks that wait on a barrier the one that issues is none, before and after. -/
theorem State.waitsOn_issuing (hr : Ready i s) : (s.issuing i).cores.any (fun c => c.2.slots.any (fun x => x.2.waitsOn gang h)) =
    s.cores.any (fun c => c.2.slots.any (fun x => x.2.waitsOn gang h)) := by
  have hc : (s.issuing i).cores = s.cores.set s.cur.core ((s.core s.cur.core).setSlot s.cur.slot (s.slotIssuing i)) := State.issued_cores _ _
  rw [hc]
  refine Sp.any_set s.cores s.cur.core _ {} (fun k : Core => k.slots.any (fun x => x.2.waitsOn gang h)) rfl ?_
  refine Sp.any_set (s.core s.cur.core).slots s.cur.slot _ {} (fun x : Slot => x.waitsOn gang h) rfl ?_
  exact (Slot.waitsOn_unbarred hr.unbarred).trans (Slot.waitsOn_unbarred hr.unbarred).symm

theorem State.waitsOn_exists : s.cores.any (fun c => c.2.slots.any (fun x => x.2.waitsOn gang h)) = true ↔
    ∃ c ∈ s.cores, ∃ y ∈ c.2.slots, y.2.gangId = some gang ∧ ∃ v, y.2.barred = some (h, v) := by
  simp only [List.any_eq_true, Slot.waitsOn_iff]

theorem State.queueHolds_issuing (plate j n : Nat) : (s.issuing i).queueHolds plate j n = s.queueHolds plate j n :=
  s.issuing_part i (fun t => t.queueHolds plate j n) (fun _ _ _ _ => rfl)

theorem State.queueHolds_iff (plate j n : Nat) : s.queueHolds plate j n = true ↔ ∃ w, w < n ∧ s.fullAt (queueKey plate j w) = true := by
  simp only [State.queueHolds, List.any_eq_true, List.mem_range]

end

section
variable {s : State} {i : Instr} {x : Slot} {plate h : Nat} {q : QueueSlot} {b : Barrier}

theorem State.freeing_bar_unlisted (hl : (s.pool plate).bars.look h = none) : (s.issuing i).freeing x plate h 0 = (s.issuing i, 3 * 2 ^ 48) := by
  simp only [State.freeing, State.pool_issuing, hl]
  rfl

theorem State.freeing_bar_foreign (hl : (s.pool plate).bars.look h = some b) (hf : b.ctx ≠ x.ctxid.toNat ∨ x.gangId ≠ some b.gang) :
    (s.issuing i).freeing x plate h 0 = (s.issuing i, 3 * 2 ^ 48) := by
  simp only [State.freeing, State.pool_issuing, hl, if_pos hf]
  rfl

theorem State.freeing_bar_own (hr : Ready i s) (hl : (s.pool plate).bars.look h = some b) (hc : b.ctx = x.ctxid.toNat) (hg : x.gangId = some b.gang) :
    (s.issuing i).freeing x plate h 0 =
      (if s.cores.any (fun c => c.2.slots.any (fun x => x.2.waitsOn b.gang h)) then (s.issuing i, slotWord 4 0)
        else ((s.issuing i).updPool plate (fun p => { p with bars := p.bars.drop h }), slotWord 0 h)) := by
  have hn : ¬ (b.ctx ≠ x.ctxid.toNat ∨ x.gangId ≠ some b.gang) := by simp [hc, hg]
  rw [← State.waitsOn_issuing hr]
  simp only [State.freeing, State.pool_issuing, hl, if_neg hn]
  rfl

theorem State.freeing_queue_foreign (hf : ∀ q, (s.pool plate).queues.look (bits h 10 0) = some q → q.ctx ≠ x.ctxid.toNat ∨ h ≠ slotHandle plate (bits h 10 0)) :
    (s.issuing i).freeing x plate h 1 = (s.issuing i, 3 * 2 ^ 48) := by
  cases hl : (s.pool plate).queues.look (bits h 10 0) with
  | none =>
    simp only [State.freeing, State.pool_issuing, hl]
    rfl
  | some q =>
    simp only [State.freeing, State.pool_issuing, hl, if_pos (hf q hl)]
    rfl

theorem State.freeing_queue_own (hl : (s.pool plate).queues.look (bits h 10 0) = some q) (hc : q.ctx = x.ctxid.toNat) (hh : h = slotHandle plate (bits h 10 0)) :
    (s.issuing i).freeing x plate h 1 =
      (if s.queueHolds plate (bits h 10 0) q.depth then (s.issuing i, slotWord 4 0)
        else ((s.issuing i).updPool plate (fun p => { p with queues := p.queues.drop (bits h 10 0) }), slotWord 0 h)) := by
  have hn : ¬ (q.ctx ≠ x.ctxid.toNat ∨ h ≠ slotHandle plate (bits h 10 0)) := by simp only [hc, ← hh]; simp
  rw [← State.queueHolds_issuing (i := i)]
  simp only [State.freeing, State.pool_issuing, hl, if_neg hn]

theorem State.freeing_counter_foreign (hf : ∀ q, (s.pool plate).ctrs.look (bits h 10 0) = some q → q.ctx ≠ x.ctxid.toNat ∨ h ≠ slotHandle plate (bits h 10 0)) :
    (s.issuing i).freeing x plate h 2 = (s.issuing i, 3 * 2 ^ 48) := by
  cases hl : (s.pool plate).ctrs.look (bits h 10 0) with
  | none =>
    simp only [State.freeing, State.pool_issuing, hl]
    rfl
  | some q =>
    simp only [State.freeing, State.pool_issuing, hl, if_pos (hf q hl)]
    rfl

theorem State.freeing_counter_own (hl : (s.pool plate).ctrs.look (bits h 10 0) = some q) (hc : q.ctx = x.ctxid.toNat) (hh : h = slotHandle plate (bits h 10 0)) :
    (s.issuing i).freeing x plate h 2 =
      ((s.issuing i).updPool plate (fun p => { p with ctrs := p.ctrs.drop (bits h 10 0) }), slotWord 0 h) := by
  have hn : ¬ (q.ctx ≠ x.ctxid.toNat ∨ h ≠ slotHandle plate (bits h 10 0)) := by simp only [hc, ← hh]; simp
  simp only [State.freeing, State.pool_issuing, hl, if_neg hn]

end

section
variable {s : State} {g : BitVec 4} {d a : BitVec 6} {k : BitVec 3}

/-- What SLOT free answers, with the pools it leaves. -/
def FreeGives (s : State) (g : BitVec 4) (d a : BitVec 6) (k : BitVec 3) (w : Nat) (p : Sp Pools) : Prop :=
  ∃ t, exec (.slotFree g d a k) s = .next t ∧ t.pools = p ∧
    t.me = onArch (fun r => r.setScalar d.toNat w) (s.slotIssuing (.slotFree g d a k)) ∧ CoresKept s t ∧ BytesKept (fun _ => False) s t

theorem freeGives_of (h : Ready (.slotFree g d a k) s) {u : State} {w : Nat} {p : Sp Pools}
    (hr : (s.issuing (.slotFree g d a k)).freeing s.me (if k = 0 then corePlate s.cur.core else bits (s.sca a) 17 16) (s.sca a) k.toNat = (u, w))
    (hs : SlotState s (.slotFree g d a k) p (fun _ => False) u) : FreeGives s g d a k w p :=
  have ha := hs.answer d w
  ⟨_, exec_slotFree_ready s g d a k h hr, ha.pools, ha.me, ha.cores, ha.bytes⟩

theorem freeGives_status (h : Ready (.slotFree g d a k) s) {w : Nat}
    (hr : (s.issuing (.slotFree g d a k)).freeing s.me (if k = 0 then corePlate s.cur.core else bits (s.sca a) 17 16) (s.sca a) k.toNat =
      (s.issuing (.slotFree g d a k), w)) : FreeGives s g d a k w s.pools :=
  freeGives_of h hr SlotState.undrawn

theorem freeGives_drop (h : Ready (.slotFree g d a k) s) {plate : Nat} {f : Pools → Pools}
    (hr : (s.issuing (.slotFree g d a k)).freeing s.me (if k = 0 then corePlate s.cur.core else bits (s.sca a) 17 16) (s.sca a) k.toNat =
      ((s.issuing (.slotFree g d a k)).updPool plate f, slotWord 0 (s.sca a))) :
    FreeGives s g d a k (s.sca a) (s.pools.set plate (f (s.pool plate))) := by
  rw [show slotWord 0 (s.sca a) = s.sca a by simp [slotWord]] at hr
  exact freeGives_of h hr (SlotState.undrawn.updPool plate f)

end

section
variable {s : State} {i : Instr} {x : Slot} {plate n j : Nat}

theorem State.alloc_noGang (hg : x.gangId = none) : (s.issuing i).alloc x plate n 0 = (s.issuing i, 5 * 2 ^ 48) := by
  show (match x.gangId with | none => _ | some gid => _) = _
  rw [hg]
  rfl

theorem State.alloc_bar_size (hg : x.gangId = some j) (hn : n = 0 ∨ 1024 < n ∨ bits x.gang.toNat 51 42 + 1 < n) :
    (s.issuing i).alloc x plate n 0 = (s.issuing i, 2 * 2 ^ 48) := by
  show (match x.gangId with | none => _ | some gid => _) = _
  rw [hg]
  exact if_pos hn

theorem State.alloc_bar (hg : x.gangId = some j) (hn : ¬ (n = 0 ∨ 1024 < n ∨ bits x.gang.toNat 51 42 + 1 < n)) :
    (s.issuing i).alloc x plate n 0 = (s.issuing i).take (s.pool plate).bars 256 ((s.pool plate).bars.filter (fun b => b.2.part == x.part)).length
      (fun m u => u.updPool plate (fun p => { p with bars := p.bars.set m (x.ownBarrier j n) })) id := by
  rw [← State.pool_issuing (i := i) plate]
  show (match x.gangId with | none => _ | some gid => _) = _
  rw [hg]
  exact if_neg hn

theorem State.alloc_queue_size (hn : n = 0 ∨ 256 < n) : (s.issuing i).alloc x plate n 1 = (s.issuing i, 2 * 2 ^ 48) := if_pos hn

theorem State.alloc_queue (hn : ¬ (n = 0 ∨ 256 < n)) :
    (s.issuing i).alloc x plate n 1 = (s.issuing i).take (s.pool plate).queues 256 ((s.pool plate).queues.filter (fun b => b.2.part == x.part)).length
      (fun m u => (u.updPool plate (fun p => { p with queues := p.queues.set m (x.ownSlot n) })).clearSlot (queueKey plate m 0) n) (slotHandle plate) := by
  rw [← State.pool_issuing (i := i) plate]
  exact if_neg hn

theorem State.alloc_counter :
    (s.issuing i).alloc x plate n 2 = (s.issuing i).take (s.pool plate).ctrs 1024 ((s.pool plate).ctrs.filter (fun b => b.2.part == x.part)).length
      (fun m u => (u.updPool plate (fun p => { p with ctrs := p.ctrs.set m (x.ownSlot 0) })).clearSlot (counterKey plate m) 1) (slotHandle plate) := by
  rw [← State.pool_issuing (i := i) plate]
  rfl

end

section
variable {s u : State} {i : Instr} {plate q n : Nat}

/-- The words of a queue that was put in a pool are empty and zero. -/
theorem clearedQueue (hq : q ≤ 256) (hn : n ≤ 256) (h0 : 0 < n) {t : State} (hf : t.full = (u.clearSlot (queueKey plate q 0) n).full)
    (hm : t.mem = (u.clearSlot (queueKey plate q 0) n).mem) {w : Nat} (hw : w < n) :
    t.fullAt (queueKey plate q w) = false ∧ t.readMem (queueKey plate q w) 8 = 0 := by
  rw [queueKey_word]
  refine ⟨?_, ?_⟩
  · rw [State.fullAt, hf]
    exact State.fullAt_clearSlot u _ n hw
  · rw [State.readMem_congr hm fun j hj => keyIsView_queueKey (plate := plate) hq hn (by omega) (by omega)]
    exact State.readMem_clearSlot (fun x => keyIsView_queueKey hq hn) h0 hw

/-- The word of a counter that was put in a pool is empty and zero. -/
theorem clearedCounter (hq : q ≤ 1024) {t : State} (hf : t.full = (u.clearSlot (counterKey plate q) 1).full)
    (hm : t.mem = (u.clearSlot (counterKey plate q) 1).mem) :
    t.fullAt (counterKey plate q) = false ∧ t.readMem (counterKey plate q) 8 = 0 := by
  refine ⟨?_, ?_⟩
  · rw [State.fullAt, hf]
    exact State.fullAt_clearSlot u _ 1 (w := 0) (by decide)
  · rw [State.readMem_congr hm fun j hj => keyIsView_counterKey (plate := plate) hq (by omega) (by omega)]
    exact State.readMem_clearSlot (w := 0) (n := 1) (fun x => keyIsView_counterKey hq) (by decide) (by decide)

end

/-- Settles O32. SLOT alloc takes a place (`State.take`) or answers why not, SLOT free drops a slot (`State.freeing`) or answers why not. -/
theorem slots : Obligations.Slots := by
  refine ⟨?_, ?_⟩
  · intro s g d a k hr n x plate pl own gives handle status free i0 i1 i2
    have hstatus : ∀ {t c}, SlotAnswer s (.slotAlloc g d a k) d (c * 2 ^ 48) s.pools (fun _ => False) t → status t c :=
      fun h => ⟨⟨h.me, h.cores⟩, h.pools, h.bytes⟩
    have hfree : ∀ {held : Nat} {o : Option Nat} {t : State} {done : Nat → Prop}, (o = none → status t 1) →
        (∀ i, o = some i → (done i ∧ gives t (handle i)) ∨ held ≠ 0 ∧ status t 1) → free held o t done := by
      intro held o t done hn hs
      cases o with
      | none => exact hn rfl
      | some i => exact hs i rfl
    clear_value free
    by_cases hk : k = 0
    · subst hk
      have h1 : ∀ P : Prop, (0 : BitVec 3) = 1 → P := fun _ h => absurd h (by decide)
      have h2 : ∀ P : Prop, (0 : BitVec 3) = 2 → P := fun _ h => absurd h (by decide)
      cases hg : s.me.gangId with
      | none =>
        obtain ⟨t, he, ha⟩ := slotAlloc_status hr (State.alloc_noGang hg)
        exact ⟨t, he, fun _ _ => hstatus ha, fun j _ hj => absurd hj (by simp), h1 _, h1 _, h2 _⟩
      | some j =>
        by_cases hn : n = 0 ∨ 1024 < n ∨ bits x.gang.toNat 51 42 + 1 < n
        · obtain ⟨t, he, ha⟩ := slotAlloc_status hr (State.alloc_bar_size hg hn)
          refine ⟨t, he, fun _ h => absurd h (by simp), fun j' _ hj => ⟨fun _ => hstatus ha, fun hp hb hs => ?_⟩, h1 _, h1 _, h2 _⟩
          exact absurd hn (by omega)
        · obtain ⟨t, he, hnone, hsome⟩ := slotAlloc_takes hr (State.alloc_bar hg hn)
          refine ⟨t, he, fun _ h => absurd h (by simp), fun j' _ hj => ⟨fun hn' => absurd hn' hn, fun hp hb hs => ?_⟩, h1 _, h1 _, h2 _⟩
          obtain rfl := Option.some.inj hj
          refine hfree (fun hi => hstatus (hnone hi)) fun i hi => (hsome i hi).imp ?_ (fun ⟨hh, ha⟩ => ⟨hh, hstatus ha⟩)
          rintro ⟨m, u, rfl, ha, -, -⟩
          have hput := ha _ _ ((SlotState.drawn m).updPool plate _)
          exact ⟨⟨hput.pools, hput.bytes⟩, hput.me, hput.cores⟩
    · have h0 : ∀ P : Prop, k = 0 → P := fun _ h => absurd h hk
      by_cases hk1 : k = 1
      · subst hk1
        have h2 : ∀ P : Prop, (1 : BitVec 3) = 2 → P := fun _ h => absurd h (by decide)
        by_cases hn : n = 0 ∨ 256 < n
        · obtain ⟨t, he, ha⟩ := slotAlloc_status hr (State.alloc_queue_size hn)
          exact ⟨t, he, h0 _, fun _ => h0 _, fun _ _ => hstatus ha, fun _ hp hb => absurd hn (by omega), h2 _⟩
        · obtain ⟨t, he, hnone, hsome⟩ := slotAlloc_takes hr (State.alloc_queue hn)
          refine ⟨t, he, h0 _, fun _ => h0 _, fun _ hn' => absurd hn' hn, fun _ hp hb => ?_, h2 _⟩
          refine hfree (fun hi => hstatus (hnone hi)) fun i hi => (hsome i hi).imp ?_ (fun ⟨hh, ha⟩ => ⟨hh, hstatus ha⟩)
          rintro ⟨m, u, rfl, ha, hf, hm⟩
          have hput := ha _ _ (((SlotState.drawn m).updPool plate _).clearSlot (fun x => keyIsView_queueKey (freeIndex_le hi) hb) hp)
          exact ⟨⟨hput.pools, fun w hw => clearedQueue (freeIndex_le hi) hb hp hf hm hw, hput.bytes⟩, hput.me, hput.cores⟩
      · have h1 : ∀ P : Prop, k = 1 → P := fun _ h => absurd h hk1
        by_cases hk2 : k = 2
        · subst hk2
          obtain ⟨t, he, hnone, hsome⟩ := slotAlloc_takes hr State.alloc_counter
          refine ⟨t, he, h0 _, fun _ => h0 _, h1 _, h1 _, fun _ => ?_⟩
          refine hfree (fun hi => hstatus (hnone hi)) fun i hi => (hsome i hi).imp ?_ (fun ⟨hh, ha⟩ => ⟨hh, hstatus ha⟩)
          rintro ⟨m, u, rfl, ha, hf, hm⟩
          have hput := ha _ _ (((SlotState.drawn m).updPool plate _).clearSlot (fun x => keyIsView_counterKey (freeIndex_le hi)) (by decide))
          obtain ⟨hfull, hmem⟩ := clearedCounter (freeIndex_le hi) hf hm
          exact ⟨⟨hput.pools, hfull, hmem, hput.bytes⟩, hput.me, hput.cores⟩
        · exact ⟨_, exec_slotAlloc_ready s g d a k hr rfl, h0 _, fun _ => h0 _, h1 _, h1 _, fun h => absurd h hk2⟩
  · intro s g d a k hr h x plate n named pl gives frees waits
    have hwaits : ∀ b, waits b ↔ s.cores.any (fun c => c.2.slots.any (fun x => x.2.waitsOn b.gang h)) = true := fun b => State.waitsOn_exists.symm
    refine ⟨fun hk hl => ?_, fun b hk hl hf => ?_, fun b hk hl hc hg hw => ?_, fun b hk hl hc hg hw => ?_, fun hk hl => ?_, fun q hk hl hf => ?_,
      fun q hk hn hl hc hw => ?_, fun q hk hn hl hc hw => ?_, fun hk hl => ?_, fun q hk hl hf => ?_, fun q hk hn hl hc => ?_⟩ <;> subst hk
    · exact freeGives_status hr (State.freeing_bar_unlisted hl)
    · exact freeGives_status hr (State.freeing_bar_foreign hl hf)
    · exact freeGives_status hr ((State.freeing_bar_own hr hl hc hg).trans (if_pos ((hwaits b).1 hw)))
    · exact freeGives_drop hr ((State.freeing_bar_own hr hl hc hg).trans (if_neg (fun h => hw ((hwaits b).2 h))))
    · refine freeGives_status hr (State.freeing_queue_foreign fun q hq => hl.elim .inr fun hl => ?_)
      exact absurd (hq.symm.trans hl) (by simp)
    · refine freeGives_status hr (State.freeing_queue_foreign fun q' hq => .inl ?_)
      rwa [Option.some.inj (hq.symm.trans hl)]
    · exact freeGives_status hr ((State.freeing_queue_own hl hc hn).trans (if_pos ((State.queueHolds_iff _ _ _).2 hw)))
    · refine freeGives_drop hr ((State.freeing_queue_own hl hc hn).trans (if_neg fun hq => ?_))
      obtain ⟨w, hlt, hf⟩ := (State.queueHolds_iff _ _ _).1 hq
      exact absurd ((hw w hlt).symm.trans hf) (by decide)
    · refine freeGives_status hr (State.freeing_counter_foreign fun q hq => hl.elim .inr fun hl => ?_)
      exact absurd (hq.symm.trans hl) (by simp)
    · refine freeGives_status hr (State.freeing_counter_foreign fun q' hq => .inl ?_)
      rwa [Option.some.inj (hq.symm.trans hl)]
    · exact freeGives_drop hr (State.freeing_counter_own hl hc hn)

end Sys2Proof.Machine
end

section
/-!
LAUNCH and LCTL, R138, R402, R410: the events that an access at its home slice puts under way, the record that LAUNCH reads, and the
request of LCTL with its decision.
-/

namespace Sys2Proof.Machine

/-! ## The fills that an access asks for, R195 -/

/-- The events under way have grown by fills alone. -/
def FillsAfter (s t : State) : Prop := ∃ l, t.due = s.due ++ l ∧ ∀ e ∈ l, ∃ i n, e = Instr.fillArrival i n

namespace FillsAfter
variable {s t u : State}

theorem of_due (h : t.due = s.due) : FillsAfter s t := ⟨[], by rw [h, List.append_nil], fun _ he => absurd he (by simp)⟩

theorem trans (h : FillsAfter s t) (k : FillsAfter t u) : FillsAfter s u := by
  obtain ⟨l, hl, hf⟩ := h
  obtain ⟨m, hm, hg⟩ := k
  exact ⟨l ++ m, by rw [hm, hl, List.append_assoc], fun e he => (List.mem_append.1 he).elim (hf e) (hg e)⟩

theorem push (s : State) (i n : Nat) : FillsAfter s (s.push (.fillArrival i n)) :=
  ⟨[.fillArrival i n], rfl, fun _ he => ⟨i, n, List.mem_singleton.1 he⟩⟩

end FillsAfter

section
variable (s : State)

theorem State.due_recall (l : Line) (v : Visit) : (s.recall l v).2.due = s.due := by
  unfold State.recall
  split
  · rfl
  · split <;> rfl

theorem State.due_placeAtomic (i : Nat) (l : Line) (c : Nat) (v : Visit) : (s.placeAtomic i l c v).2.due = s.due := by
  unfold State.placeAtomic
  dsimp only
  split
  · rfl
  · split
    · rfl
    · split <;> rfl

theorem State.due_visit (i : Nat) (l : Line) (v : Visit) : (s.visit i l v).2.due = s.due := by
  have h1 := s.due_recall l v
  unfold State.visit
  generalize s.recall l v = p at h1 ⊢
  obtain ⟨l1, s1⟩ := p
  have h2 : (if v.writes then s1.invalidate l1 (if v.lsu then v.core else none) else (l1, s1)).2.due = s1.due := by
    split <;> rfl
  dsimp only
  generalize (if v.writes then s1.invalidate l1 (if v.lsu then v.core else none) else (l1, s1)) = q at h2 ⊢
  have h : q.2.due = s.due := h2.trans h1
  rcases v.placed with _ | _ <;> rcases v.core with _ | c
  · exact h
  · exact h
  · exact h
  · exact (q.2.due_placeAtomic i q.1 c v).trans h

theorem State.due_intoL1 (e : DLine) : (s.intoL1 e).due = s.due := by
  unfold State.intoL1
  split
  · rfl
  · dsimp only
    split
    · rfl
    · split <;> rfl

theorem State.due_takeCopies (l : Line) (c : List DLine) : (s.takeCopies l c).due = s.due := by
  unfold State.takeCopies
  refine foldl_same (g := State.due) (fun t d => ?_) c s
  split
  · exact State.due_intoL1 _ _
  · rfl

theorem State.due_tookWay (i p l : Nat) : ((s.takeWay i p l).getD s).due = s.due := by
  unfold State.takeWay
  split <;> rfl

end

namespace FillsAfter
variable {s t : State}

theorem updSlice (s : State) (i : Nat) (f : Slice → Slice) : FillsAfter s (s.updSlice i f) := of_due rfl

theorem tookWay (s : State) (i p l : Nat) : FillsAfter s ((s.takeWay i p l).getD s) := of_due (s.due_tookWay i p l)

theorem reach {v : Visit} {w : Option (Nat × Nat)} {b : Bool} (h : s.reach v w = some (b, t)) : FillsAfter s t := by
  unfold State.reach at h
  dsimp only at h
  split at h
  · cases h
    exact of_due ((State.due_takeCopies _ _ _).trans (State.due_visit _ _ _ _))
  · cases h
    exact of_due (State.due_visit _ _ _ _)
  · split at h
    · cases h
    · cases h
      have hv := State.due_visit s (sliceId v.key) { line := lineOf v.key, part := v.part } v
      generalize s.visit (sliceId v.key) { line := lineOf v.key, part := v.part } v = p at hv ⊢
      exact (of_due hv).trans ((updSlice _ _ _).trans ((tookWay _ _ _ _).trans (push _ _ _)))

theorem touchHome {p k : Nat} {c : Option Nat} {w : Bool} (h : s.touchHome p c k w = some t) : FillsAfter s t := by
  unfold State.touchHome at h
  obtain ⟨⟨b, u⟩, hr, rfl⟩ := Option.map_eq_some_iff.mp h
  exact reach hr

theorem touchLine {p k : Nat} {c : Option Nat} {w : Bool} (h : s.touchLine p c k w = some t) : FillsAfter s t := by
  unfold State.touchLine at h
  split at h
  · obtain ⟨b, rfl⟩ := State.accessBank_ex h
    exact of_due rfl
  · exact touchHome h

end FillsAfter

theorem Visited.same {s t : State} (h : Visited s t) : SameCores s t where
  slots := h.slots
  rest c := by
    have := congrArg (fun k : Core => ({ k with slots := [], mark := 0 } : Core)) (h.cores c)
    exact this

/-! ## What a task's access leaves of the state -/

/-- A state without the parts that the issue, a translation and an access at a home slice may change. -/
def State.pastAccess (s : State) : State :=
  { s with cores := [], banks := [], gangs := [], draws := 0, tlbL1 := [], tlbNode := [], slices := [], dLines := [], bad := [], due := [] }

/-- The state after the issue of an instruction, a translation and an access: the tasks are those of the issue, and the events under
way have grown by fills alone. -/
structure Accessed (s : State) (i : Instr) (t : State) : Prop where
  past : t.pastAccess = s.pastAccess
  same : SameCores (s.issuing i) t
  fills : FillsAfter s t

namespace Accessed
variable {s t u : State} {i : Instr}

theorem translated (h : Translated (s.issuing i) t) : Accessed s i t where
  past := by
    have hi := congrArg State.pastAccess (taskOnly_issuing s i).rest
    have ht := congrArg State.pastAccess h.out
    exact ht.trans hi
  same := h.same
  fills := .of_due (by rw [h.out]; exact s.due_issuing i)

theorem visited (h : Accessed s i t) (hv : Visited t u) (hf : FillsAfter t u) : Accessed s i u where
  past := (congrArg State.pastAccess hv.past).trans h.past
  same := h.same.trans hv.same
  fills := h.fills.trans hf

/-- A part of the state that such an access does not change. -/
theorem part (h : Accessed s i t) {α : Type} (f : State → α) (hf : ∀ x : State, f x.pastAccess = f x) : f t = f s := by
  rw [← hf t, h.past, hf]

theorem cur (h : Accessed s i t) : t.cur = s.cur := h.part State.cur (fun _ => rfl)
theorem serial (h : Accessed s i t) : t.serial = s.serial := h.part State.serial (fun _ => rfl)

theorem me (h : Accessed s i t) : t.me = s.slotIssuing i := by
  rw [State.me, h.cur, h.same.slots, State.slot_issuing_self]

theorem myRef (h : Accessed s i t) : t.myRef = s.myRef := by
  unfold State.myRef
  rw [h.me, h.cur]
  rfl

theorem kept (h : Accessed s i t) : CoresKept s t := (coresKept_issuing s i).trans_same h.same

theorem bytes (h : Accessed s i t) : BytesKept (fun _ => False) s t := .of_mem (h.part State.mem (fun _ => rfl))

theorem core_part (h : Accessed s i t) (c : Nat) : (t.core c).part = (s.core c).part := by
  have := congrArg Core.part (h.kept.cores c)
  exact this

theorem storesPending (h : Accessed s i t) (k n : Nat) : t.storesPending t.myRef k n = s.storesPending s.myRef k n := by
  rw [h.myRef]
  exact h.part (fun x => x.storesPending s.myRef k n) (fun _ => rfl)

theorem guardedFrom (h : Accessed s i t) (c k n : Nat) (r w : Bool) :
    t.guardedFrom c (some t.myRef) k n r w = s.guardedFrom c (some s.myRef) k n r w := by
  rw [h.myRef]
  exact h.part (fun x => x.guardedFrom c (some s.myRef) k n r w) (fun _ => rfl)

theorem releaseReady (h : Accessed s i t) (r : Bool) : t.releaseReady r = s.releaseReady r := by
  unfold State.releaseReady
  rw [h.myRef, h.serial]
  exact h.part (fun x => !r || ((x.earlier s.serial s.myRef).all (fun o => o.performed) && !x.sentBefore s.serial s.myRef)) (fun _ => rfl)

end Accessed

/-! ## The issue leaves marks of bad data as they are -/

section
variable {s : State} {i : Instr}

/-- The issue marks no register bad, R431. -/
theorem State.slot_issuing_bad (c n r : Nat) (h : ((s.slot c n).phase != .free && (s.slot c n).badRegs.contains r) = false) :
    (((s.issuing i).slot c n).phase != .free && ((s.issuing i).slot c n).badRegs.contains r) = false := by
  by_cases hn : c ≠ s.cur.core ∨ n ≠ s.cur.slot
  · rw [(coresKept_issuing s i).slots c n hn]
    exact h
  · obtain ⟨rfl, rfl⟩ : c = s.cur.core ∧ n = s.cur.slot := by simpa [not_or] using hn
    rw [State.slot_issuing_self]
    have hbad : (s.slotIssuing i).badRegs.contains r = true → s.me.badRegs.contains r = true := by
      show (ite _ _ _ : List Nat).contains r = true → _
      split
      · simp only [List.contains_eq_mem, decide_eq_true_eq, List.mem_filter]
        exact And.left
      · exact id
    cases hp : ((s.slotIssuing i).phase != .free && (s.slotIssuing i).badRegs.contains r) with
    | false => rfl
    | true =>
      obtain ⟨hph, hb⟩ := Bool.and_eq_true_iff.1 hp
      exact (Bool.and_eq_true_iff.2 ⟨hph, hbad hb⟩).symm.trans h

theorem State.badAt_issuing {k n : Nat} (h : s.badAt k n = false) : (s.issuing i).badAt k n = false := by
  unfold State.badAt at h ⊢
  obtain ⟨hv, hb⟩ := Bool.or_eq_false_iff.1 h
  refine Bool.or_eq_false_iff.2 ⟨?_, ?_⟩
  · unfold State.badView at hv ⊢
    dsimp only at hv ⊢
    rw [Bool.and_assoc] at hv ⊢
    cases hx : (keyIsLocal k && keySpace k == 5 && decide (keyOff k < 65536)) with
    | false => rfl
    | true =>
      rw [hx] at hv
      rw [Bool.true_and] at hv ⊢
      exact State.slot_issuing_bad _ _ _ hv
  · exact (s.issuing_part i (fun t => (List.range ((k + n + 7) / 8 - k / 8)).any (fun j => t.bad.at (k / 8 + j) false)) (fun _ _ _ _ => rfl)).trans hb

theorem Translated.badAt {t u : State} (h : Translated t u) (k n : Nat) : u.badAt k n = t.badAt k n := by
  rw [h.out]
  rfl

end

/-! ## The record that LAUNCH reads -/

/-- No byte of a record in HBM or a scratchpad shows registers. -/
theorem keyIsView_record {k j : Nat} (hk : keyIsLocal k = false ∨ keySpace k = 0) (hj : j < 128) : keyIsView (k + j) = false := by
  have hs : keyIsLocal (k + j) = true → keySpace (k + j) ≠ 5 ∧ keySpace (k + j) ≠ 8 := by
    simp only [keyIsLocal, keySpace, bits, Nat.reduceAdd, Nat.reduceSub, Nat.reducePow, decide_eq_true_eq, decide_eq_false_iff_not,
      ge_iff_le] at hk ⊢
    omega
  cases hl : keyIsLocal (k + j) with
  | false => simp [keyIsView, hl]
  | true =>
    obtain ⟨h5, h8⟩ := hs hl
    simp [keyIsView, h5, h8]

/-- The tags of a record's four capabilities, R403. -/
def State.recordTags (s : State) (p : Place) : Nat :=
  if p.tags then packList 1 ((List.range 4).map (fun k => b2n (s.tagAt (p.key + 16 * k)))) else 0

/-- The record at a place. -/
def State.recordAt (s : State) (p : Place) : LaunchRec := LaunchRec.ofBits (s.readMem p.key 128) (s.recordTags p)

section
variable {s t : State} {i : Instr}

theorem Accessed.recordAt (h : Accessed s i t) {p : Place} (hk : keyIsLocal p.key = false ∨ keySpace p.key = 0) :
    t.recordAt p = s.recordAt p := by
  have hm : t.mem = s.mem := h.part State.mem (fun _ => rfl)
  have ht : t.recordTags p = s.recordTags p := h.part (fun x => x.recordTags p) (fun _ => rfl)
  rw [State.recordAt, ht, State.readMem_congr hm (fun j hj => keyIsView_record hk hj)]
  rfl

theorem Accessed.recordFault (h : Accessed s i t) (r : LaunchRec) (ctx part : Nat) (sup world keys : Bool) (x word : Nat) :
    t.recordFault r ctx part sup world keys x word = s.recordFault r ctx part sup world keys x word := by
  have htable : t.table = s.table := h.part State.table (fun _ => rfl)
  have hroutes : t.routes = s.routes := h.part State.routes (fun _ => rfl)
  have hpods : t.podTable = s.podTable := h.part State.podTable (fun _ => rfl)
  unfold State.recordFault State.recordShape State.isEasel
  simp only [htable, hroutes, hpods, h.core_part]

end

/-! ## LAUNCH -/

/-- The accesses of LAUNCH, R402: the record is checked, waits for the task's stores to it and for guards, and its line is brought. -/
def State.reachRecord (t : State) (a : Access) (tag : Bool) (c : Cap) (core : Nat) : Except Exit (Place × State) :=
  match t.checkAccess a tag c { x := c.addr.toNat, n := 128, align := 128, perms := [.ld, .cld] } with
  | (.error code, _) => .error (exitOf a code c.addr.toNat)
  | (.ok p, t) => do
    stallIf (t.storesPending t.myRef p.key 128 || t.guardedFrom core (some t.myRef) p.key 128 true false) .order
    check (!t.badAt p.key 128) causeData c.addr.toNat
    match t.touchLine a.part (some core) p.key false with
    | none => .error (.wait .full)
    | some t => .ok (p, t)

/-- The launch that a task asks for with a record. -/
def State.askedLaunch (t : State) (x : Slot) (r : LaunchRec) (d : Nat) : Launch :=
  { lid := 0, lr := r, ctx := x.ctxid.toNat, part := x.part, world := (t.ctx x.ctxid.toNat).s, asker := some (t.myRef, d) }

/-- What LAUNCH does with a record that it has read. -/
def State.launchWith (t : State) (e : Env) (d : BitVec 6) (x : Nat) (r : LaunchRec) : Except Exit State :=
  match t.recordFault r e.sl.ctxid.toNat e.sl.part e.a.sup e.a.world true x e.word.toNat with
  | some f => faultAt f.1 f.2
  | none => do
    stallIf (!t.releaseReady true) .order
    stallIf (decide (t.queued.length ≥ 256)) .full
    let (id, t) := t.queueLaunch (t.askedLaunch e.sl r d.toNat)
    let board := if d = 0 then [] else [(Dest.reg d.toNat, id)]
    .ok ((t.updMe (fun y => { y with board := y.board ++ board })).push (.launchHandleReturn id))

section
variable {s : State} {g : BitVec 4} {d a : BitVec 6}

theorem launch_body : ∃ body, exec (.launch g d a) s = s.issue (.launch g d a) body ∧
    body (s.envOf (.launch g d a)) (s.issuing (.launch g d a)) =
      ((s.issuing (.launch g d a)).reachRecord s.myAccess (s.me.arch.reg a.toNat).tag (s.me.arch.reg a.toNat).cap s.cur.core >>= fun q =>
        q.2.launchWith (s.envOf (.launch g d a)) d (s.me.arch.reg a.toNat).cap.addr.toNat (q.2.recordAt q.1)) := by
  refine ⟨_, exec_launch g d a s, ?_⟩
  dsimp only
  rw [s.myAccess_issuing]
  unfold State.reachRecord
  have htag : (s.envOf (.launch g d a)).tag a = (s.me.arch.reg a.toNat).tag := rfl
  have hcap : (s.envOf (.launch g d a)).c a = (s.me.arch.reg a.toNat).cap := rfl
  have hcore : (s.envOf (.launch g d a)).core = s.cur.core := rfl
  rw [htag, hcap, hcore]
  generalize (s.issuing (.launch g d a)).checkAccess _ _ _ _ = q
  obtain ⟨_ | p, t⟩ := q
  · rfl
  · simp only [bind_assoc]
    refine congrArg (stallIf _ _ >>= ·) (funext fun _ => ?_)
    refine congrArg (check _ _ _ >>= ·) (funext fun _ => ?_)
    generalize t.touchLine _ _ _ _ = q
    cases q <;> rfl

variable {p : Place} {u : State}

/-- What keeps LAUNCH from touching its record's line neither waits nor faults. -/
theorem State.reachRecord_eq (hc : (s.issuing (.launch g d a)).checkAccess s.myAccess (s.me.arch.reg a.toNat).tag (s.me.arch.reg a.toNat).cap
      { x := (s.me.arch.reg a.toNat).cap.addr.toNat, n := 128, align := 128, perms := [.ld, .cld] } = (.ok p, u))
    (hs : s.storesPending s.myRef p.key 128 = false) (hg : s.guardedFrom s.cur.core (some s.myRef) p.key 128 true false = false)
    (hb : s.badAt p.key 128 = false) :
    (s.issuing (.launch g d a)).reachRecord s.myAccess (s.me.arch.reg a.toNat).tag (s.me.arch.reg a.toNat).cap s.cur.core =
      (match u.touchLine s.me.part (some s.cur.core) p.key false with
        | none => .error (.wait .full)
        | some t => .ok (p, t)) := by
  have ht := Translated.checkAccess hc
  have hu := Accessed.translated ht
  have hwait : (u.storesPending u.myRef p.key 128 || u.guardedFrom s.cur.core (some u.myRef) p.key 128 true false) = false := by
    rw [hu.storesPending, hu.guardedFrom, hs, hg]
    rfl
  have hgood : (!u.badAt p.key 128) = true := by
    rw [ht.badAt, State.badAt_issuing hb]
    rfl
  simp only [State.reachRecord, hc, stallIf_passes hwait, check_passes hgood]
  rfl

/-- A LAUNCH whose slice takes no access now stalls. -/
theorem launch_stalls (hr : Ready (.launch g d a) s)
    (hc : (s.issuing (.launch g d a)).checkAccess s.myAccess (s.me.arch.reg a.toNat).tag (s.me.arch.reg a.toNat).cap
      { x := (s.me.arch.reg a.toNat).cap.addr.toNat, n := 128, align := 128, perms := [.ld, .cld] } = (.ok p, u))
    (hs : s.storesPending s.myRef p.key 128 = false) (hg : s.guardedFrom s.cur.core (some s.myRef) p.key 128 true false = false)
    (hb : s.badAt p.key 128 = false) (ht : u.touchLine s.me.part (some s.cur.core) p.key false = none) : StallsFor (.launch g d a) .full s := by
  obtain ⟨body, he, hbody⟩ := launch_body (s := s) (g := g) (d := d) (a := a)
  refine stallsFor_of hr he (hbody.trans ?_)
  rw [State.reachRecord_eq hc hs hg hb, ht]
  rfl

/-- The slot of a task that has asked for a launch: the handle's register is pending. -/
def Slot.asked (x : Slot) (d : BitVec 6) (id : Nat) : Slot :=
  { x with board := x.board ++ (if d = 0 then [] else [(Dest.reg d.toNat, id)]) }

/-- The state once a launch has joined the queue, and its handle is on its way. -/
def State.launched (t : State) (d : BitVec 6) (l : Launch) : State :=
  ((t.queueLaunch l).2.updMe (fun y => y.asked d t.serial)).push (.launchHandleReturn t.serial)

theorem State.launchWith_ok {t : State} {e : Env} {x : Nat} {r : LaunchRec}
    (hf : t.recordFault r e.sl.ctxid.toNat e.sl.part e.a.sup e.a.world true x e.word.toNat = none) (hr : t.releaseReady true = true)
    (hq : t.queued.length < 256) : t.launchWith e d x r = .ok (t.launched d (t.askedLaunch e.sl r d.toNat)) := by
  have hrel : (!t.releaseReady true) = false := by rw [hr]; rfl
  have hlen : decide (t.queued.length ≥ 256) = false := decide_eq_false (by omega)
  unfold State.launchWith
  rw [hf]
  simp only [stallIf_passes hrel, stallIf_passes hlen]
  rfl

theorem Accessed.launched {t : State} {i : Instr} (h : Accessed s i t) (l : Launch) :
    Leaves ((s.slotIssuing i).asked d s.serial) [.launchClaim s.serial, .launchHandleReturn s.serial] s (t.launched d l) where
  slot := by
    have hme : (t.queueLaunch l).2.me = t.me := rfl
    show ((t.queueLaunch l).2.updMe (fun y => y.asked d t.serial)).me = _
    rw [State.me_updMe, hme, h.me, h.serial]
  others := by
    have hq : CoresKept s (t.queueLaunch l).2 := h.kept.trans_same (.of_cores rfl)
    exact (CoresKept.updMe (u := (t.queueLaunch l).2) h.cur hq (fun y => y.asked d t.serial)).trans_same (.of_cores rfl)
  bytes := h.bytes.trans (.of_mem rfl)
  due := by
    obtain ⟨m, hm, hf⟩ := h.fills
    refine ⟨m, ?_, hf⟩
    show t.due ++ [_] ++ [_] = _
    rw [hm, h.serial]
    simp

/-- A LAUNCH with a legal record joins the queue. -/
theorem launch_queues (hr : Ready (.launch g d a) s)
    (hc : (s.issuing (.launch g d a)).checkAccess s.myAccess (s.me.arch.reg a.toNat).tag (s.me.arch.reg a.toNat).cap
      { x := (s.me.arch.reg a.toNat).cap.addr.toNat, n := 128, align := 128, perms := [.ld, .cld] } = (.ok p, u))
    (hk : keyIsLocal p.key = false ∨ keySpace p.key = 0)
    (hs : s.storesPending s.myRef p.key 128 = false) (hg : s.guardedFrom s.cur.core (some s.myRef) p.key 128 true false = false)
    (hb : s.badAt p.key 128 = false)
    (hf : s.recordFault (s.recordAt p) s.me.ctxid.toNat s.me.part s.me.arch.sup s.me.arch.world true (s.me.arch.reg a.toNat).cap.addr.toNat
      ((encode (.launch g d a)).getD 0).toNat = none)
    (ho : s.releaseReady true = true) (hq : s.queued.length < 256) (ht : u.touchLine s.me.part (some s.cur.core) p.key false ≠ none) :
    ∃ t, Accessed s (.launch g d a) t ∧ exec (.launch g d a) s = .next (t.launched d (t.askedLaunch s.me (s.recordAt p) d.toNat)) := by
  obtain ⟨t, hl⟩ := Option.ne_none_iff_exists'.1 ht
  have ha : Accessed s (.launch g d a) t :=
    (Accessed.translated (Translated.checkAccess hc)).visited (Visited.touchLine hl) (FillsAfter.touchLine hl)
  refine ⟨t, ha, ?_⟩
  obtain ⟨body, he, hbody⟩ := launch_body (s := s) (g := g) (d := d) (a := a)
  refine next_of hr he (hbody.trans ?_)
  rw [State.reachRecord_eq hc hs hg hb, hl, ← ha.recordAt hk]
  refine State.launchWith_ok ?_ ((ha.releaseReady true).trans ho) ?_
  · rw [ha.recordAt hk, ha.recordFault]
    exact hf
  · rw [ha.part State.queued (fun _ => rfl)]
    exact hq

end

/-! ## LCTL -/

/-- Whether LCTL is refused as one of another context's launch, with the free choice of R404 for a launch of another device. -/
def State.lctlForeign (s : State) (ctx h v : Nat) : Bool :=
  (match s.launchNamed h with
    | some (_, l) => l.ctx != ctx
    | none => false) || v % 2 == 1

/-- Whether the launch is a pod grid's, with that choice. -/
def State.lctlPod (s : State) (h v : Nat) : Bool :=
  match s.launchNamed h with
  | some (_, l) => l.lr.isPod s.table.devnum
  | none => v / 2 % 2 == 1

/-- The request of LCTL, R410. -/
def Env.lctlOp (e : Env) (t : State) (kind h mode d : Nat) (pod : Bool) : Op :=
  { e.op t false false with
    kind := .lctl kind h mode, ldc := false, stc := false, acquire := kind == 2, acqScope := 4 + b2n pod, ret := .scalar d }

/-- Of the state the request looks at the task's name alone. -/
theorem Env.lctlOp_congr {e : Env} {s t : State} (h : t.myRef = s.myRef) (kind n mode d : Nat) (pod : Bool) :
    e.lctlOp t kind n mode d pod = e.lctlOp s kind n mode d pod := by
  unfold Env.lctlOp Env.op
  rw [h]

/-- What a cancel puts under way beside its answer: its decision, or its request to another device. -/
def State.asksRoot (t : State) (named : Option (Nat × Launch)) (kind h mode : Nat) : State :=
  match kind, named with
  | 0, some (l, _) => t.push (.cancelDecision l mode)
  | 0, none => t.cancelFar h mode
  | _, _ => t

/-- The state once LCTL's request is on its way. -/
def State.lctlSent (t : State) (o : Op) (d : BitVec 6) (named : Option (Nat × Launch)) (kind h mode : Nat) : State :=
  ((({ t with serial := t.serial + 1, ops := t.ops.set t.serial o } : State).updMe (fun y => y.charged o [.reg d.toNat] t.serial)).asksRoot
    named kind h mode).push (.lctlAnswer t.serial)

section
variable {s : State} {i : Instr} {kind : Nat} {d a : BitVec 6} {mode : Env → Nat}

theorem lctl_range (he : exec i s = s.lctl i kind d a mode) (hr : Ready i s) (hl : ¬ (bits (s.sca a) 63 58 = 0 ∧ bits (s.sca a) 39 32 = 0)) :
    TrapsWith i 9 (s.sca a) s := by
  refine trapsWith_of hr he ?_
  have hx : (s.envOf i).x a = s.sca a := rfl
  dsimp only
  rw [hx, check_fails (by simpa using hl)]
  rfl

theorem lctl_mode (he : exec i s = s.lctl i kind d a mode) (hr : Ready i s) (hl : bits (s.sca a) 63 58 = 0 ∧ bits (s.sca a) 39 32 = 0)
    (hm : 1 < mode (s.envOf i)) : TrapsWith i 9 (mode (s.envOf i)) s := by
  refine trapsWith_of hr he ?_
  have hx : (s.envOf i).x a = s.sca a := rfl
  dsimp only
  rw [hx, check_passes (by simpa using hl), check_fails (decide_eq_false (Nat.not_le.2 hm))]
  rfl

/-- The free choice that LCTL draws for a launch of another device, R404. -/
def State.lctlDraw (s : State) (h : Nat) : Nat × State := if s.farLaunch h then s.draw else (0, s)

theorem State.lctlDraw_ex (h : Nat) : ∃ n, s.lctlDraw h = ((s.lctlDraw h).1, { s with draws := n }) := by
  unfold State.lctlDraw
  split
  · exact ⟨_, rfl⟩
  · exact ⟨s.draws, rfl⟩

theorem State.lctlDraw_near {h : Nat} (hf : s.farLaunch h = false) : (s.lctlDraw h).1 = 0 := by
  unfold State.lctlDraw
  rw [hf]
  rfl

/-- LCTL with a legal handle: refused, or on its way. -/
theorem lctl_legal (he : exec i s = s.lctl i kind d a mode) (hr : Ready i s) (hl : bits (s.sca a) 63 58 = 0 ∧ bits (s.sca a) 39 32 = 0)
    (hm : mode (s.envOf i) ≤ 1) : ∃ n,
    let v := ((s.issuing i).lctlDraw (s.sca a)).1
    let t : State := { s.issuing i with draws := n }
    ((s.me.arch.sup || !s.lctlForeign s.me.ctxid.toNat (s.sca a) v) = false → TrapsWith i 2 ((encode i).getD 0).toNat s) ∧
    ((s.me.arch.sup || !s.lctlForeign s.me.ctxid.toNat (s.sca a) v) = true →
      exec i s = .next (t.lctlSent ((s.envOf i).lctlOp s kind (s.sca a) (mode (s.envOf i)) d.toNat (s.lctlPod (s.sca a) v)) d (s.launchNamed (s.sca a))
        kind (s.sca a) (mode (s.envOf i)))) := by
  obtain ⟨n, hn⟩ := State.lctlDraw_ex (s := s.issuing i) (s.sca a)
  refine ⟨n, ?_⟩
  dsimp only
  generalize ((s.issuing i).lctlDraw (s.sca a)).1 = v at hn ⊢
  generalize ht : ({ s.issuing i with draws := n } : State) = t at hn ⊢
  have hx : (s.envOf i).x a = s.sca a := rfl
  have hd : (if (s.issuing i).farLaunch (s.sca a) then (s.issuing i).draw else (0, s.issuing i)) = (v, t) := hn
  have hnamed : (s.issuing i).launchNamed (s.sca a) = s.launchNamed (s.sca a) := s.issuing_part i (fun t => t.launchNamed (s.sca a)) (fun _ _ _ _ => rfl)
  refine ⟨fun hf => ?_, fun hf => ?_⟩
  · refine trapsWith_of hr he ?_
    dsimp only
    rw [hx, check_passes (by simpa using hl), check_passes (decide_eq_true hm), hd, hnamed]
    show (check (s.me.arch.sup || !s.lctlForeign s.me.ctxid.toNat (s.sca a) v) causePrivilege _ >>= fun _ => _) = _
    rw [check_fails hf]
    rfl
  · refine next_of hr he ?_
    dsimp only
    rw [hx, check_passes (by simpa using hl), check_passes (decide_eq_true hm), hd, hnamed]
    show (check (s.me.arch.sup || !s.lctlForeign s.me.ctxid.toNat (s.sca a) v) causePrivilege _ >>= fun _ => _) = _
    rw [check_passes hf]
    have href : t.myRef = s.myRef := by
      rw [← ht]
      exact s.myRef_issuing i
    have htable : t.table = s.table := by
      rw [← ht]
      exact s.table_issuing i
    have hfull : t.bankFull t.myRef ((s.envOf i).lctlOp s kind (s.sca a) (mode (s.envOf i)) d.toNat (s.lctlPod (s.sca a) v)).elems = false :=
      State.bankFull_reads _ _ (fun _ he => absurd he (by simp [Env.lctlOp, Env.op]))
    let sent : Nat × State → Except Exit State := fun q =>
      .ok ((q.2.asksRoot (s.launchNamed (s.sca a)) kind (s.sca a) (mode (s.envOf i))).push (.lctlAnswer q.1))
    show (t.enterOp ((s.envOf i).lctlOp t kind (s.sca a) (mode (s.envOf i)) d.toNat (match s.launchNamed (s.sca a) with
      | some (_, l) => l.lr.isPod t.table.devnum
      | none => v / 2 % 2 == 1)) [.reg d.toNat] >>= sent) = _
    rw [htable, Env.lctlOp_congr href]
    show (t.enterOp ((s.envOf i).lctlOp s kind (s.sca a) (mode (s.envOf i)) d.toNat (s.lctlPod (s.sca a) v)) [.reg d.toNat] >>= sent) = _
    rw [State.enterOp_ok t _ _ (fun hc => absurd hc (by simp [Env.lctlOp])) (fun hc => absurd hc (by simp [Env.lctlOp])) hfull]
    rfl

end

/-- What the decision of a cancel puts under way, where this device knows the launch. -/
def decisionOf (named : Option (Nat × Launch)) (kind mode : Nat) : List Instr :=
  match kind, named with
  | 0, some (l, _) => [.cancelDecision l mode]
  | _, _ => []

section
variable {s t : State} {i : Instr} {named : Option (Nat × Launch)} {kind h mode : Nat} {d : BitVec 6} {o : Op}

theorem State.cancelFar_ex : ∃ x, t.cancelFar h mode = { t with podOut := x } := by
  unfold State.cancelFar
  dsimp only
  split
  · exact ⟨t.podOut, rfl⟩
  next hd =>
    unfold State.podSend
    rw [if_neg (fun h => hd (.inl h))]
    exact ⟨_, rfl⟩

/-- A cancel puts its decision under way, or its request among the packets for other devices. -/
theorem State.asksRoot_ex : ∃ x, t.asksRoot named kind h mode = { t with due := t.due ++ decisionOf named kind mode, podOut := x } := by
  match kind, named with
  | 0, some _ => exact ⟨t.podOut, rfl⟩
  | 0, none =>
    obtain ⟨x, hx⟩ := State.cancelFar_ex (t := t) (h := h) (mode := mode)
    refine ⟨x, hx.trans ?_⟩
    show _ = { t with due := t.due ++ [], podOut := x }
    rw [List.append_nil]
  | _ + 1, _ =>
    refine ⟨t.podOut, ?_⟩
    show t = { t with due := t.due ++ [] }
    rw [List.append_nil]

/-- LCTL's request on its way, behind the decision. -/
theorem Accessed.lctlSent (ha : Accessed s i t) (hd : t.due = s.due) :
    Entered ((s.slotIssuing i).charged o [.reg d.toNat] s.serial) o (decisionOf named kind mode ++ [.lctlAnswer s.serial]) s
      (t.lctlSent o d named kind h mode) := by
  unfold State.lctlSent
  generalize hu : (({ t with serial := t.serial + 1, ops := t.ops.set t.serial o } : State).updMe (fun y => y.charged o [.reg d.toNat] t.serial)) = u
  obtain ⟨x, hx⟩ := State.asksRoot_ex (t := u) (named := named) (kind := kind) (h := h) (mode := mode)
  rw [hx, ha.serial]
  have hcores : CoresKept s ({ t with serial := t.serial + 1, ops := t.ops.set t.serial o } : State) := ha.kept.trans_same (.of_cores rfl)
  refine ⟨⟨?_, ?_, ?_, ⟨[], ?_, fun _ he => absurd he (by simp)⟩⟩, ?_⟩
  · show u.me = _
    rw [← hu, State.me_updMe, ← ha.me, ha.serial]
    rfl
  · have : CoresKept s u := by
      rw [← hu]
      exact CoresKept.updMe (u := { t with serial := t.serial + 1, ops := t.ops.set t.serial o }) ha.cur hcores _
    exact this.trans_same (.of_cores rfl)
  · have : BytesKept (fun _ => False) s u := by
      rw [← hu]
      exact ha.bytes.trans (.of_mem rfl)
    exact this.trans (.of_mem rfl)
  · have hdue : u.due = s.due := by
      rw [← hu]
      exact hd
    show u.due ++ _ ++ _ = _
    rw [hdue]
    simp
  · show u.ops.look s.serial = some o
    rw [← hu, ← ha.serial]
    exact Sp.look_set_self _ _ _

/-- The request of a cancel to the device that the handle names. -/
theorem Accessed.podOut_lctlSent (ha : Accessed s i t) (hd : bits h 57 48 ≠ s.table.devnum) (hr : s.routes.at (bits h 57 48) [] ≠ []) :
    (t.lctlSent o d none 0 h mode).podOut = s.podOut ++ [{
      src := s.table.devnum, dst := bits h 57 48, body := .cancel h mode, via := s.portTo (bits h 57 48) (s.roleCore 2) (s.roleCore 2) }] := by
  have htable : t.table = s.table := ha.part State.table (fun _ => rfl)
  have hroutes : t.routes = s.routes := ha.part State.routes (fun _ => rfl)
  have hport : t.portTo (bits h 57 48) (t.roleCore 2) (t.roleCore 2) = s.portTo (bits h 57 48) (s.roleCore 2) (s.roleCore 2) :=
    ha.part (fun x => x.portTo (bits h 57 48) (x.roleCore 2) (x.roleCore 2)) (fun _ => rfl)
  have hout : t.podOut = s.podOut := ha.part State.podOut (fun _ => rfl)
  have hfar : ∀ u : State, u.table = t.table → u.routes = t.routes → u.cancelFar h mode = u.podSend (bits h 57 48) (.cancel h mode) := by
    intro u hu hv
    unfold State.cancelFar
    refine if_neg ?_
    rw [hu, hv, htable, hroutes]
    simp [hd, hr]
  show (State.cancelFar (State.updMe _ _) h mode).podOut = _
  rw [hfar]
  · unfold State.podSend
    rw [if_neg]
    · show t.podOut ++ [_] = _
      rw [hout, ← hport, ← htable]
      rfl
    · show bits h 57 48 ≠ t.table.devnum
      rw [htable]
      exact hd
  · rfl
  · rfl

end

section
variable {s : State} {h ctx v : Nat}

theorem State.launchNamed_far (hd : bits h 57 48 ≠ s.table.devnum) : s.launchNamed h = none := if_neg hd

theorem State.farLaunch_device (hf : s.farLaunch h = true) : bits h 57 48 ≠ s.table.devnum := by
  simp only [State.farLaunch, Bool.and_eq_true, bne_iff_ne] at hf
  exact hf.1.1

/-- A task may ask for a launch of its own context, and with SR.SUP for any. -/
theorem State.lctlForeign_near {sup : Bool} : (sup || !s.lctlForeign ctx h 0) = true ↔ ∀ e, s.launchNamed h = some e → e.2.ctx = ctx ∨ sup = true := by
  unfold State.lctlForeign
  cases s.launchNamed h with
  | none => simp
  | some e => simp [or_comm]

theorem State.lctlPod_near : s.lctlPod h 0 = (match s.launchNamed h with
    | some (_, l) => l.lr.isPod s.table.devnum
    | none => false) := by
  unfold State.lctlPod
  cases s.launchNamed h <;> rfl

end

section
variable {s : State} {i : Instr} {kind : Nat} {d a : BitVec 6} {mode : Env → Nat}

/-- What the statement says of LCTL on its way. -/
def LctlGoes (s : State) (i : Instr) (kind h mode : Nat) (d : BitVec 6) (evs : List Instr) (pod : Bool) : Prop :=
  ∃ t, exec i s = .next t ∧ Entered ((s.slotIssuing i).charged ((s.envOf i).lctlOp s kind h mode d.toNat pod) [.reg d.toNat] s.serial)
    ((s.envOf i).lctlOp s kind h mode d.toNat pod) (evs ++ [.lctlAnswer s.serial]) s t

theorem Accessed.drawn (n : Nat) : Accessed s i { s.issuing i with draws := n } := .translated ⟨rfl⟩

theorem lctl_asks (he : exec i s = s.lctl i kind d a mode) (hr : Ready i s) (hl : bits (s.sca a) 63 58 = 0 ∧ bits (s.sca a) 39 32 = 0)
    (hm : mode (s.envOf i) ≤ 1) :
    (s.farLaunch (s.sca a) = false → (∀ e, s.launchNamed (s.sca a) = some e → e.2.ctx = s.me.ctxid.toNat ∨ s.me.arch.sup = true) →
      LctlGoes s i kind (s.sca a) (mode (s.envOf i)) d (decisionOf (s.launchNamed (s.sca a)) kind (mode (s.envOf i)))
        (match s.launchNamed (s.sca a) with
          | some (_, l) => l.lr.isPod s.table.devnum
          | none => false)) ∧
    (s.farLaunch (s.sca a) = false → ¬ (∀ e, s.launchNamed (s.sca a) = some e → e.2.ctx = s.me.ctxid.toNat ∨ s.me.arch.sup = true) →
      TrapsWith i 2 ((encode i).getD 0).toNat s) ∧
    (s.farLaunch (s.sca a) = true →
      (∃ p, LctlGoes s i kind (s.sca a) (mode (s.envOf i)) d (decisionOf (s.launchNamed (s.sca a)) kind (mode (s.envOf i))) p) ∨
        (s.me.arch.sup = false ∧ TrapsWith i 2 ((encode i).getD 0).toNat s)) := by
  obtain ⟨n, hn⟩ := lctl_legal he hr hl hm
  dsimp only at hn
  have hgoes : ∀ v, exec i s = .next ((({ s.issuing i with draws := n } : State)).lctlSent
      ((s.envOf i).lctlOp s kind (s.sca a) (mode (s.envOf i)) d.toNat (s.lctlPod (s.sca a) v)) d (s.launchNamed (s.sca a)) kind (s.sca a) (mode (s.envOf i))) →
      LctlGoes s i kind (s.sca a) (mode (s.envOf i)) d (decisionOf (s.launchNamed (s.sca a)) kind (mode (s.envOf i))) (s.lctlPod (s.sca a) v) :=
    fun v hv => ⟨_, hv, (Accessed.drawn n).lctlSent (s.due_issuing i)⟩
  have hfar : (s.issuing i).farLaunch (s.sca a) = s.farLaunch (s.sca a) := s.issuing_part i (fun t => t.farLaunch (s.sca a)) (fun _ _ _ _ => rfl)
  have hnear : s.farLaunch (s.sca a) = false → ((s.issuing i).lctlDraw (s.sca a)).1 = 0 := fun hf => State.lctlDraw_near (hfar.trans hf)
  refine ⟨fun hf hmine => ?_, fun hf hmine => ?_, fun hf => ?_⟩
  · rw [hnear hf] at hn
    rw [← State.lctlPod_near]
    exact hgoes 0 (hn.2 (State.lctlForeign_near.2 hmine))
  · rw [hnear hf] at hn
    exact hn.1 (Bool.eq_false_of_not_eq_true fun h => hmine (State.lctlForeign_near.1 h))
  · generalize ((s.issuing i).lctlDraw (s.sca a)).1 = v at hn
    cases hv : (s.me.arch.sup || !s.lctlForeign s.me.ctxid.toNat (s.sca a) v) with
    | true => exact .inl ⟨_, hgoes v (hn.2 hv)⟩
    | false => exact .inr ⟨(Bool.or_eq_false_iff.1 hv).1, hn.1 hv⟩

/-- A cancel of a launch of another device that the links reach leaves by its port. -/
theorem lctl_cancels_far (he : exec i s = s.lctl i 0 d a mode) (hr : Ready i s) (hl : bits (s.sca a) 63 58 = 0 ∧ bits (s.sca a) 39 32 = 0)
    (hm : mode (s.envOf i) ≤ 1) (hd : bits (s.sca a) 57 48 ≠ s.table.devnum) (hroute : s.routes.at (bits (s.sca a) 57 48) [] ≠ [])
    (hs : s.me.arch.sup = true ∨ s.farLaunch (s.sca a) = false) :
    ∃ t, exec i s = .next t ∧ t.podOut = s.podOut ++ [{
      src := s.table.devnum, dst := bits (s.sca a) 57 48, body := .cancel (s.sca a) (mode (s.envOf i)),
      via := s.portTo (bits (s.sca a) 57 48) (s.roleCore 2) (s.roleCore 2) }] := by
  obtain ⟨n, hn⟩ := lctl_legal he hr hl hm
  dsimp only at hn
  have hfar : (s.issuing i).farLaunch (s.sca a) = s.farLaunch (s.sca a) := s.issuing_part i (fun t => t.farLaunch (s.sca a)) (fun _ _ _ _ => rfl)
  have hnone : s.launchNamed (s.sca a) = none := State.launchNamed_far hd
  have hmay : (s.me.arch.sup || !s.lctlForeign s.me.ctxid.toNat (s.sca a) ((s.issuing i).lctlDraw (s.sca a)).1) = true := by
    rcases hs with hs | hf
    · rw [hs]
      rfl
    · rw [State.lctlDraw_near (hfar.trans hf)]
      exact State.lctlForeign_near.2 (fun e he => absurd (hnone.symm.trans he) (by simp))
  refine ⟨_, hn.2 hmay, ?_⟩
  rw [hnone]
  exact (Accessed.drawn n).podOut_lctlSent hd hroute

end

/-- Settles O33: LAUNCH reads its record as `State.reachRecord` does and joins the queue (`State.launched`), LCTL draws the choice of a launch
of another device (`State.lctlDraw`), and is refused or on its way with what its cancel asks for (`State.lctlSent`). -/
theorem launching : Obligations.Launching := by
  intro s g d a b p u c x i r h legal mine word pod goes asks decision
  refine ⟨fun hr hc hk hs hg hb hf ho hq ht => ?_, fun hr hc hs hg hb ht => launch_stalls hr hc hs hg hb ht,
    fun hr hl => lctl_asks (exec_lctlQuery g d a s) hr hl (Nat.zero_le 1), fun hr hl => lctl_asks (exec_lctlWait g d a s) hr hl (Nat.zero_le 1),
    fun hr hl hm => ?_, fun hr hl hm hd hroute hsup => lctl_cancels_far (exec_lctlCancel g d a b s) hr hl hm hd hroute hsup,
    fun hr hl => lctl_range (exec_lctlQuery g d a s) hr hl, fun hr hl => lctl_range (exec_lctlWait g d a s) hr hl,
    fun hr hl => lctl_range (exec_lctlCancel g d a b s) hr hl, fun hr hl hm => lctl_mode (exec_lctlCancel g d a b s) hr hl hm⟩
  · obtain ⟨t, ha, he⟩ := launch_queues hr hc hk hs hg hb hf ho hq ht
    have hctx : t.ctx s.me.ctxid.toNat = s.ctx s.me.ctxid.toNat := ha.part (fun y => y.ctx s.me.ctxid.toNat) (fun _ => rfl)
    refine ⟨_, { t.askedLaunch s.me (s.recordAt p) d.toNat with seq := t.launchSeq }, he, ?_, rfl, rfl, ha.part State.launchSeq (fun _ => rfl), rfl, rfl, congrArg Ctx.s hctx, ?_, ?_, ?_, ha.launched _⟩
    · rw [← ha.serial]
      exact Sp.look_set_self _ _ _
    · exact congrArg (fun k => some (k, d.toNat)) ha.myRef
    · rw [← ha.serial, ← ha.part State.launchq (fun _ => rfl)]
      rfl
    · rw [← ha.part State.launchSeq (fun _ => rfl)]
      rfl
  · have hdec : decisionOf (s.launchNamed h) 0 (s.sca b) = decision (s.sca b) := by
      show decisionOf (s.launchNamed h) 0 (s.sca b) = (match s.launchNamed h with | some (l, _) => _ | none => _)
      cases s.launchNamed h <;> rfl
    rw [← hdec]
    exact lctl_asks (exec_lctlCancel g d a b s) hr hl hm

end Sys2Proof.Machine
end

section
/-!
Gangs, R122, R125, R132 to R134, R141, R328: where a plate's next gang goes, its reservation, its deal messages, and its watchdog.
-/

namespace Sys2Proof.Machine

/-! ## Events put under way once -/

theorem State.mem_due_pushOnce (s : State) (i : Instr) : i ∈ (s.pushOnce i).due := by
  unfold State.pushOnce
  split
  next h => exact List.contains_iff_mem.1 h
  · exact List.mem_append_right _ (List.mem_singleton_self i)

theorem State.due_sub_pushOnce (s : State) (i : Instr) : s.due ⊆ (s.pushOnce i).due := by
  unfold State.pushOnce
  split
  · exact List.Subset.refl _
  · exact List.subset_append_left _ _

/-! ## Where a plate's next gang goes, R125, R132 -/

/-- The origins among which a plate's next gang is placed: those free now, or else those where it fits. -/
def State.choices (s : State) (x : Launch) (plate g : Nat) : List (Nat × Nat) :=
  let fits := x.elsewhere plate (s.origins x.lr x.part plate g)
  let free := (s.freeOrigins x.lr x.ctx x.part plate g).filter fits.contains
  if free.isEmpty then fits else free

section
variable {s : State} {x : Launch} {plate n id : Nat}

theorem Launch.elsewhere_ne_nil {l : List (Nat × Nat)} (h : l ≠ []) : x.elsewhere plate l ≠ [] := by
  unfold Launch.elsewhere
  split
  · split
    · exact h
    next hl => exact fun he => hl (List.isEmpty_iff.2 he)
  · exact h

theorem Launch.elsewhere_sub (l : List (Nat × Nat)) : x.elsewhere plate l ⊆ l := by
  unfold Launch.elsewhere
  split
  · split
    · exact List.Subset.refl l
    · exact List.erase_subset
  · exact List.Subset.refl l

/-- What the statement says of the origin to which a gang goes. -/
def State.chosen (s : State) (x : Launch) (plate n : Nat) (o : Nat × Nat) : Prop :=
  o ∈ s.origins x.lr x.part plate n ∧ o ∈ x.elsewhere plate (s.origins x.lr x.part plate n) ∧
    ((s.freeOrigins x.lr x.ctx x.part plate n).filter (x.elsewhere plate (s.origins x.lr x.part plate n)).contains ≠ [] →
      o ∈ (s.freeOrigins x.lr x.ctx x.part plate n).filter (x.elsewhere plate (s.origins x.lr x.part plate n)).contains)

theorem State.chosen_of_mem {o : Nat × Nat} (h : o ∈ s.choices x plate n) : s.chosen x plate n o := by
  unfold State.choices at h
  dsimp only at h
  split at h
  next he => exact ⟨Launch.elsewhere_sub _ h, h, fun hn => absurd (List.isEmpty_iff.1 he) hn⟩
  · have hf := (List.mem_filter.1 h).2
    exact ⟨Launch.elsewhere_sub _ (List.contains_iff_mem.1 hf), List.contains_iff_mem.1 hf, fun _ => h⟩

theorem State.choices_ne_nil (h : s.origins x.lr x.part plate n ≠ []) : s.choices x plate n ≠ [] := by
  unfold State.choices
  dsimp only
  split
  · exact Launch.elsewhere_ne_nil h
  next he => exact fun hn => he (List.isEmpty_iff.2 hn)

theorem State.pushPlacement_eq : s.pushPlacement id x plate n =
    (match (s.choices x plate n)[s.draw.1 % (s.choices x plate n).length]? with
      | some o => s.draw.2.push (.gangPlacement id plate o.1 o.2)
      | none => s.draw.2.pushOnce (.gangRangeRequest id plate)) := rfl

/-- A plate's next gang goes to a freely chosen origin. -/
theorem State.pushPlacement_goes (h : s.origins x.lr x.part plate n ≠ []) : ∃ o m, s.chosen x plate n o ∧
    s.pushPlacement id x plate n = ({ s with draws := m } : State).push (.gangPlacement id plate o.1 o.2) := by
  have hlen : s.draw.1 % (s.choices x plate n).length < (s.choices x plate n).length :=
    Nat.mod_lt _ (List.length_pos_of_ne_nil (State.choices_ne_nil h))
  refine ⟨(s.choices x plate n)[s.draw.1 % (s.choices x plate n).length], s.draws + 1, State.chosen_of_mem (List.getElem_mem hlen), ?_⟩
  rw [State.pushPlacement_eq, List.getElem?_eq_getElem hlen]
  rfl

/-- An origin free now is one that fits. -/
theorem State.origins_of_free (h : s.freeOrigins x.lr x.ctx x.part plate n ≠ []) : s.origins x.lr x.part plate n ≠ [] := by
  intro hn
  refine h ?_
  unfold State.freeOrigins
  dsimp only
  rw [hn]
  rfl

end

/-! ## The request for a range, R141 -/

/-- A plate's dispatcher deals a tile launch on a plate of its mask. -/
structure Launch.asksRange (l : Launch) (plate : Nat) : Prop where
  root : l.root = .dealing
  heard : l.reached.contains (16384 + plate) = false
  tiles : l.lr.kind = false
  masked : bit l.lr.pmask plate = true

section
variable {s : State} {id plate : Nat} {l : Launch}

theorem Launch.asksRange.deals (h : l.asksRange plate) : l.deals plate = true := by
  unfold Launch.deals
  rw [h.root, h.heard]
  rfl

theorem Launch.asksRange.passes (h : l.asksRange plate) : ¬ ((!l.deals plate) = true ∨ l.lr.kind = true ∨ (!bit l.lr.pmask plate) = true) := by
  simp [h.deals, h.tiles, h.masked]

/-- What the statement says of a gang on its way to an origin. -/
def PlacedAfter (s : State) (id plate : Nat) (l : Launch) (n : Nat) (t : State) : Prop :=
  ∃ o, s.chosen l plate n o ∧ t.due = s.due.erase (.gangRangeRequest id plate) ++ [.gangPlacement id plate o.1 o.2] ∧
    t.gangs = s.gangs ∧ t.cores = s.cores

/-- The plate's next gang is placed. -/
theorem gangRangeRequest_next (hl : s.launches.look id = some l) (h : l.asksRange plate) {n stop : Nat} (hn : l.nextOf plate = some (n, stop))
    (ho : s.origins l.lr l.part plate n ≠ []) :
    ∃ t, exec (.gangRangeRequest id plate) s = .next t ∧ PlacedAfter s id plate l n t ∧ t.launches = s.launches := by
  obtain ⟨o, m, hc, hp⟩ := State.pushPlacement_goes (s := s.did (.gangRangeRequest id plate)) (x := l) (id := id) ho
  refine ⟨({ s.did (.gangRangeRequest id plate) with draws := m } : State).push (.gangPlacement id plate o.1 o.2), ?_, ⟨o, hc, rfl, rfl, rfl⟩, rfl⟩
  rw [exec_gangRangeRequest]
  unfold execGangRangeRequest
  simp only [hl, if_neg h.passes, hn]
  exact congrArg Host.Outcome.next hp

/-- The request of a plate whose range is dealt waits while the plate may place no gang. -/
theorem gangRangeRequest_waits (hl : s.launches.look id = some l) (h : l.asksRange plate) (hn : l.nextOf plate = none) (hh : l.handed < l.total)
    (ha : l.aborting = false) (hd : l.draining = false) (hp : s.placing plate = true) : Waits (.gangRangeRequest id plate) s := by
  have hmore : ¬ (l.handed ≥ l.total ∨ l.aborting = true ∨ l.draining = true) := by simp [hh, ha, hd]
  unfold Waits
  rw [exec_gangRangeRequest]
  unfold execGangRangeRequest
  simp only [hl, if_neg h.passes, hn, if_neg hmore, hp, true_or, if_true]

/-- A launch of which a run of gangs is handed to a plate. -/
def Launch.handedTo (l : Launch) (plate n : Nat) : Launch :=
  { l.setRange plate l.handed (l.handed + min n (l.total - l.handed)) with handed := l.handed + min n (l.total - l.handed) }

/-- A run of at most 64 gangs is handed to the plate, and the first of them placed. -/
theorem gangRangeRequest_hands (hl : s.launches.look id = some l) (h : l.asksRange plate) (hn : l.nextOf plate = none) (hh : l.handed < l.total)
    (ha : l.aborting = false) (hd : l.draining = false) (hp : s.placing plate = false) (hpart : s.haltedPart l.part = false)
    (hf : s.freeOrigins l.lr l.ctx l.part plate l.handed ≠ []) :
    ∃ t n, exec (.gangRangeRequest id plate) s = .next t ∧ 1 ≤ n ∧ n ≤ 64 ∧ PlacedAfter s id plate l l.handed t ∧
      t.launches.look id = some { l with ranges := l.ranges.filter (fun e => e.1 != plate) ++ [(plate, l.handed, l.handed + min n (l.total - l.handed))],
                                         handed := l.handed + min n (l.total - l.handed) } := by
  have hmore : ¬ (l.handed ≥ l.total ∨ l.aborting = true ∨ l.draining = true) := by simp [hh, ha, hd]
  have hgo : ¬ (s.placing plate = true ∨ s.haltedPart l.part = true ∨ (s.freeOrigins l.lr l.ctx l.part plate l.handed).isEmpty = true) := by
    simp [hp, hpart, List.isEmpty_iff, hf]
  let n := 1 + (s.did (.gangRangeRequest id plate)).draw.1 % 64
  let u : State := { (s.did (.gangRangeRequest id plate)).draw.2 with launches := s.launches.set id (l.handedTo plate n) }
  obtain ⟨o, m, hc, hpl⟩ := State.pushPlacement_goes (s := u) (x := l.handedTo plate n) (plate := plate) (n := l.handed) (id := id)
    (State.origins_of_free hf)
  refine ⟨({ u with draws := m } : State).push (.gangPlacement id plate o.1 o.2), n, ?_, by omega, by omega, ⟨o, hc, rfl, rfl, rfl⟩,
    Sp.look_set_self _ _ _⟩
  rw [exec_gangRangeRequest]
  unfold execGangRangeRequest
  simp only [hl, if_neg h.passes, hn, if_neg hmore, if_neg hgo]
  exact congrArg Host.Outcome.next hpl

end

/-! ## Placement and reservation, R125, R132, R133 -/

section
variable {s : State} {ctx : Nat}

/-- The slots reserved for one core. -/
def State.reserveOn (s : State) (ctx : Nat) (g : Gang) (w : Nat × Nat) : Gang :=
  let have_ := (g.reserved.filter (fun r => r.1 == w.1)).length
  let more := ((s.reservable w.1 ctx).filter (fun n => !g.reserved.contains (w.1, n))).take (w.2 - have_)
  { g with reserved := g.reserved ++ more.map (fun n => (w.1, n)) }

theorem State.reserveMore_eq (g : Gang) : s.reserveMore g ctx = g.wants.foldl (s.reserveOn ctx) g := rfl

/-- Reserving changes a gang's reservations alone. -/
theorem State.reserveMore_ex (g : Gang) : ∃ r, s.reserveMore g ctx = { g with reserved := r } := by
  rw [State.reserveMore_eq]
  refine foldl_keeps (P := fun h => ∃ r, h = { g with reserved := r }) ?_ _ _ ⟨g.reserved, rfl⟩
  rintro _ w ⟨r, rfl⟩
  exact ⟨_, rfl⟩

/-- What is reserved beyond what was may be reserved. -/
theorem State.reserveMore_open {g : Gang} (h : ∀ r ∈ g.reserved, r.2 ∈ s.reservable r.1 ctx) : ∀ r ∈ (s.reserveMore g ctx).reserved, r.2 ∈ s.reservable r.1 ctx := by
  refine foldl_keeps (P := fun h => ∀ r ∈ h.reserved, r.2 ∈ s.reservable r.1 ctx) (fun h w hh r hr => ?_) g.wants g h
  rcases List.mem_append.1 hr with hr | hr
  · exact hh r hr
  · obtain ⟨n, hn, rfl⟩ := List.mem_map.1 hr
    exact (List.mem_filter.1 (List.mem_of_mem_take hn)).1

end

section
variable {s : State} {id plate x y n stop : Nat} {l : Launch}

/-- A gang is not placed where its reservation was withdrawn while it fits elsewhere. -/
theorem gangPlacement_elsewhere (hl : s.launches.look id = some l) (h : l.asksRange plate) (hn : l.nextOf plate = some (n, stop))
    (hp : s.placing plate = false) (hpart : s.haltedPart l.part = false) (ha : l.avoid.look plate = some (x, y))
    (hf : (s.origins l.lr l.part plate n).erase (x, y) ≠ []) :
    Does (.gangPlacement id plate x y) (fun u => u.pushOnce (.gangRangeRequest id plate)) s := by
  have hgo : ¬ (s.placing plate = true ∨ s.haltedPart l.part = true) := by simp [hp, hpart]
  have hw : s.withdrawnAt l plate n (x, y) = true := by
    simp [State.withdrawnAt, ha, hf]
  unfold Does
  rw [exec_gangPlacement]
  unfold execGangPlacement
  simp only [hl, hn, h.deals, Bool.not_true, Bool.false_eq_true, if_false, if_neg hgo, hw, if_true]

/-- The gang of a rectangle that meets R132, before its first reservations. -/
def State.newGang (s : State) (id plate x y n : Nat) (l : Launch) (q : List Nat × List Nat) : Gang :=
  { launch := id, gnum := n, plate := plate,
    members := (l.lr.tasksOf n).filterMap (fun i => (l.lr.place plate x y i).map (fun c => (c, (l.lr.local i).2.2, i))),
    wants := wantsOf l.lr plate x y (l.lr.tasksOf n) q, darkCores := q.2, since := s.now, place := (x, y),
    bar := { gang := s.serial, e := (l.lr.tasksOf n).length, eNext := (l.lr.tasksOf n).length, ctx := l.ctx, part := l.part, launch := id },
    idleSince := s.gt }

/-- The state once a gang is placed: with the reservations that hold already, and its two events. -/
def State.placed (s : State) (id plate x y n stop : Nat) (l : Launch) (q : List Nat × List Nat) : State :=
  let u := (s.did (.gangPlacement id plate x y)).fresh.2
  let t : State := { u with
    gangs := u.gangs.set s.serial (u.reserveMore (s.newGang id plate x y n l q) l.ctx),
    launches := u.launches.set id { l.setRange plate (n + 1) stop with avoid := l.avoid.drop plate } }
  (t.push (.reservationComplete s.serial)).push (.reservationWithdrawal s.serial)

theorem gangPlacement_places (hl : s.launches.look id = some l) (h : l.asksRange plate) (hn : l.nextOf plate = some (n, stop))
    (hp : s.placing plate = false) (hpart : s.haltedPart l.part = false) (hw : s.withdrawnAt l plate n (x, y) = false) {q : List Nat × List Nat}
    (hq : s.rectangle l.lr l.part plate x y (l.lr.tasksOf n) = some q) :
    exec (.gangPlacement id plate x y) s = .next (s.placed id plate x y n stop l q) := by
  have hgo : ¬ (s.placing plate = true ∨ s.haltedPart l.part = true) := by simp [hp, hpart]
  rw [exec_gangPlacement]
  unfold execGangPlacement
  simp only [hl, hn, h.deals, Bool.not_true, Bool.false_eq_true, if_false, if_neg hgo, hw, hq]
  rfl

end

/-! ## The reservations of a gang, R125, R133 -/

section
variable {s : State} {k : Nat} {g : Gang} {l : Launch}

theorem reservationComplete_waits (hg : s.gangs.look k = some g) (hl : s.launches.look g.launch = some l) (hd : g.dealt = false)
    (hw : s.haltedPart l.part = true ∨ ∃ w ∈ g.wants, (s.core w.1).moving = true) : Waits (.reservationComplete k) s := by
  have hwait : s.haltedPart l.part = true ∨ g.wants.any (fun w => (s.core w.1).moving) = true := by simpa using hw
  unfold Waits
  rw [exec_reservationComplete]
  unfold execReservationComplete
  simp only [hg, hl, hd, Bool.false_eq_true, if_false, if_pos hwait]

theorem reservationComplete_partial (hg : s.gangs.look k = some g) (hl : s.launches.look g.launch = some l) (hd : g.dealt = false)
    (hpart : s.haltedPart l.part = false) (hm : ∀ w ∈ g.wants, (s.core w.1).moving = false) (hw : (s.reserveMore g l.ctx).whole = false) :
    exec (.reservationComplete k) s = .next { s with gangs := s.gangs.set k (s.reserveMore g l.ctx) } := by
  have hgo : ¬ (s.haltedPart l.part = true ∨ g.wants.any (fun w => (s.core w.1).moving) = true) := by
    simpa [hpart] using hm
  rw [exec_reservationComplete]
  unfold execReservationComplete
  simp only [hg, hl, hd, Bool.false_eq_true, if_false, if_neg hgo, hw, Bool.not_false, if_true]

end

/-! ## A gang dealt, R122, R133, R144 -/

/-- A fold that passes a value which brings about what no step undoes brings it about. -/
theorem foldl_reaches {σ β : Type} {P : σ → Prop} {f : σ → β → σ} (hf : ∀ s b, P s → P (f s b)) {b : β} (hb : ∀ s, P (f s b)) :
    ∀ {l : List β}, b ∈ l → ∀ s, P (l.foldl f s)
  | [], h, _ => absurd h (by simp)
  | a :: l, h, s => by
    rcases List.mem_cons.1 h with rfl | h
    · exact foldl_keeps hf l _ (hb s)
    · exact foldl_reaches hf hb h _

section
variable (s : State) (k : Nat) (g : Gang)

/-- A hatch is made over the cores alone. -/
theorem State.setHatch_ex : ∃ l, s.setHatch k g = { s with cores := l } := by
  unfold State.setHatch
  dsimp only
  refine foldl_keeps (P := fun t => ∃ l, t = { s with cores := l }) ?_ _ _ (foldl_keeps (P := fun t => ∃ l, t = { s with cores := l }) ?_ _ _ ⟨s.cores, rfl⟩)
  · rintro _ c ⟨l, rfl⟩
    split
    · exact ⟨_, rfl⟩
    · exact ⟨l, rfl⟩
  · rintro _ c ⟨l, rfl⟩
    exact ⟨_, rfl⟩

/-- A change of one core that keeps a core's darkness. -/
theorem State.dark_updCore {f : Core → Core} (hf : ∀ x, (f x).dark = x.dark) (t : State) (c d : Nat) : ((t.updCore c f).core d).dark = (t.core d).dark := by
  by_cases h : c = d
  · subst h
    rw [State.core_updCore_self, hf]
  · rw [State.core_updCore_ne _ h]

theorem State.dark_setHatch {c : Nat} (hc : c ∈ g.darkCores) : ((s.setHatch k g).core c).dark = some k := by
  unfold State.setHatch
  dsimp only
  refine foldl_keeps (P := fun t : State => (t.core c).dark = some k) (fun t d ht => ?_) _ _
    (foldl_reaches (P := fun t : State => (t.core c).dark = some k) (fun t d ht => ?_) (fun t => ?_) hc s)
  · split
    · refine (State.dark_updCore ?_ t _ c).trans ht
      exact fun _ => rfl
    · exact ht
  · by_cases h : d = c
    · subst h
      rw [State.core_updCore_self]
    · rw [State.core_updCore_ne _ h]
      exact ht
  · rw [State.core_updCore_self]

/-- The deal messages of a gang leave, each counted in SENT. -/
def State.sendDeals (t : State) (from_ lid : Nat) (l : List (Nat × Nat × Nat)) : State :=
  l.foldl (fun u m => (u.countSent from_ lid).push (.dealMessage k m.2.2)) t

variable {s}

theorem State.sendDeals_ex (from_ lid : Nat) (l : List (Nat × Nat × Nat)) : ∃ c d, s.sendDeals k from_ lid l = { s with cores := c, due := d } := by
  refine foldl_keeps (P := fun t => ∃ c d, t = { s with cores := c, due := d }) ?_ _ _ ⟨s.cores, s.due, rfl⟩
  rintro _ m ⟨c, d, rfl⟩
  exact ⟨_, _, rfl⟩

theorem State.dark_sendDeals (from_ lid : Nat) (l : List (Nat × Nat × Nat)) (c : Nat) : ((s.sendDeals k from_ lid l).core c).dark = (s.core c).dark := by
  refine foldl_same (g := fun t : State => (t.core c).dark) (fun t m => ?_) l s
  exact State.dark_updCore (f := fun x : Core => { x with sent := Sp.put 0 x.sent lid ((x.sent.at lid 0 + 1) % 2 ^ 32) }) (fun _ => rfl) t from_ c

theorem State.mem_due_sendDeals (from_ lid : Nat) {l : List (Nat × Nat × Nat)} {m : Nat × Nat × Nat} (hm : m ∈ l) :
    Instr.dealMessage k m.2.2 ∈ (s.sendDeals k from_ lid l).due :=
  foldl_reaches (P := fun t : State => Instr.dealMessage k m.2.2 ∈ t.due) (fun _ _ h => List.mem_append_left _ h)
    (fun _ => List.mem_append_right _ (List.mem_singleton_self _)) hm s

theorem State.maybeDealt_ex (id : Nat) : ∃ d, s.maybeDealt id = { s with due := d } ∧ s.due ⊆ d := by
  have hid : ∃ d, s = { s with due := d } ∧ s.due ⊆ d := ⟨s.due, rfl, List.Subset.refl _⟩
  unfold State.maybeDealt
  split
  · exact hid
  · split
    · obtain ⟨d, hd⟩ := s.pushOnce_ex (.dealingDone id)
      refine ⟨d, hd, ?_⟩
      have hsub := State.due_sub_pushOnce s (.dealingDone id)
      rw [hd] at hsub
      exact hsub
    · exact hid

end

/-- A gang whose reservations all hold, with the slot of each of its tasks, R132, R133 (assumption 108). -/
def Gang.dealtAt (g : Gang) (gt : Nat) : Gang :=
  let slots := fun (c : Nat) => (g.reserved.filter (fun r => r.1 == c)).map (·.2)
  let members := g.members.map (fun m => (m.1, ((slots m.1).mergeSort)[m.2.1]?.getD 0, m.2.2))
  { g with members := members, dealt := true, toCreate := members.map (·.2.2), idleSince := gt }

theorem Gang.dealtAt_created (g : Gang) (gt : Nat) : (g.dealtAt gt).toCreate = g.members.map (·.2.2) := by
  unfold Gang.dealtAt
  simp

theorem Gang.dealtAt_places (g : Gang) (gt : Nat) : (g.dealtAt gt).members.map (fun m => (m.1, m.2.2)) = g.members.map (fun m => (m.1, m.2.2)) := by
  unfold Gang.dealtAt
  simp

/-- Each task has its slot. -/
theorem Gang.dealtAt_members {g : Gang} {m : Nat × Nat × Nat} (hm : m ∈ g.members) (gt : Nat) : ∃ n, (m.1, n, m.2.2) ∈ (g.dealtAt gt).members :=
  ⟨_, List.mem_map.2 ⟨m, hm, rfl⟩⟩

/-- The hatch of a gang is made, its deal messages go out, and its plate asks for the next gang. -/
def State.dealOn (t : State) (k : Nat) (g : Gang) (lid : Nat) : State :=
  let t := t.setHatch k g
  let t := t.sendDeals k (t.columnCore g.plate (coreX ((g.members.map (·.1)).headD 0))) lid g.members
  (t.pushOnce (.gangRangeRequest g.launch g.plate)).maybeDealt g.launch

/-- The state once the deal messages of a gang have gone out. -/
def State.dealtOut (s : State) (k : Nat) (g : Gang) (lid : Nat) : State :=
  let t : State := { (s.did (.reservationComplete k)).did (.reservationWithdrawal k) with gangs := s.gangs.set k g }
  (t.updLaunch g.launch (fun l => { l with dealt := l.dealt + 1 })).dealOn k g lid

section
variable {s : State} {k : Nat} {g : Gang} {l : Launch}

theorem reservationComplete_deals (hg : s.gangs.look k = some g) (hl : s.launches.look g.launch = some l) (hd : g.dealt = false)
    (hpart : s.haltedPart l.part = false) (hm : ∀ w ∈ g.wants, (s.core w.1).moving = false) (hw : (s.reserveMore g l.ctx).whole = true) :
    exec (.reservationComplete k) s = .next (s.dealtOut k ((s.reserveMore g l.ctx).dealtAt s.gt) l.lid) := by
  have hgo : ¬ (s.haltedPart l.part = true ∨ g.wants.any (fun w => (s.core w.1).moving) = true) := by
    simpa [hpart] using hm
  rw [exec_reservationComplete]
  unfold execReservationComplete
  simp only [hg, hl, hd, Bool.false_eq_true, if_false, if_neg hgo, hw, Bool.not_true]
  rfl

theorem State.gangs_updLaunch (s : State) (id : Nat) (f : Launch → Launch) : (s.updLaunch id f).gangs = s.gangs := by
  unfold State.updLaunch
  split <;> rfl

theorem State.cores_updLaunch (s : State) (id : Nat) (f : Launch → Launch) : (s.updLaunch id f).cores = s.cores := by
  unfold State.updLaunch
  split <;> rfl

theorem State.due_updLaunch (s : State) (id : Nat) (f : Launch → Launch) : (s.updLaunch id f).due = s.due := by
  unfold State.updLaunch
  split <;> rfl

theorem State.look_updLaunch {id : Nat} (hl : s.launches.look id = some l) (f : Launch → Launch) :
    (s.updLaunch id f).launches.look id = some (f l) := by
  unfold State.updLaunch
  rw [hl]
  exact Sp.look_set_self _ _ _

/-- What a gang's deal leaves, beside the cores and the events under way. -/
theorem State.dealOn_facts (u : State) (lid : Nat) :
    (u.dealOn k g lid).gangs = u.gangs ∧ (u.dealOn k g lid).launches = u.launches ∧
    (∀ m ∈ g.members, Instr.dealMessage k m.2.2 ∈ (u.dealOn k g lid).due) ∧ ∀ c ∈ g.darkCores, ((u.dealOn k g lid).core c).dark = some k := by
  unfold State.dealOn
  dsimp only
  have hdark := fun c hc => State.dark_setHatch u k g (c := c) hc
  obtain ⟨cores, hh⟩ := State.setHatch_ex u k g
  rw [hh] at hdark ⊢
  generalize hv : ({ u with cores := cores } : State) = v at hdark ⊢
  generalize v.columnCore g.plate (coreX ((g.members.map (·.1)).headD 0)) = from_
  have hsent := fun m hm => State.mem_due_sendDeals (s := v) k from_ lid (l := g.members) (m := m) hm
  have hkeep := State.dark_sendDeals (s := v) k from_ lid g.members
  obtain ⟨c, d, hw⟩ := State.sendDeals_ex (s := v) k from_ lid g.members
  generalize hx : v.sendDeals k from_ lid g.members = w at hsent hkeep hw ⊢
  have hsub := w.due_sub_pushOnce (.gangRangeRequest g.launch g.plate)
  obtain ⟨e, he⟩ := w.pushOnce_ex (.gangRangeRequest g.launch g.plate)
  rw [he] at hsub ⊢
  obtain ⟨f, hf, hef⟩ := State.maybeDealt_ex (s := { w with due := e }) g.launch
  rw [hf]
  refine ⟨?_, ?_, fun m hm => hef (hsub (hsent m hm)), fun c hc => (hkeep c).trans (hdark c hc)⟩
  · show w.gangs = u.gangs
    rw [hw, ← hv]
  · show w.launches = u.launches
    rw [hw, ← hv]

theorem State.dealtOut_facts (hl : s.launches.look g.launch = some l) (lid : Nat) :
    (s.dealtOut k g lid).gangs = s.gangs.set k g ∧ (s.dealtOut k g lid).launches.look g.launch = some { l with dealt := l.dealt + 1 } ∧
    (∀ m ∈ g.members, Instr.dealMessage k m.2.2 ∈ (s.dealtOut k g lid).due) ∧ ∀ c ∈ g.darkCores, ((s.dealtOut k g lid).core c).dark = some k := by
  obtain ⟨hgangs, hlaunches, hdue, hdark⟩ := State.dealOn_facts (k := k) (g := g)
    (({ (s.did (.reservationComplete k)).did (.reservationWithdrawal k) with gangs := s.gangs.set k g } : State).updLaunch g.launch
      (fun l => { l with dealt := l.dealt + 1 })) lid
  refine ⟨hgangs.trans (State.gangs_updLaunch _ _ _), ?_, hdue, hdark⟩
  unfold State.dealtOut
  dsimp only
  rw [hlaunches]
  exact State.look_updLaunch (s := { (s.did (.reservationComplete k)).did (.reservationWithdrawal k) with gangs := s.gangs.set k g }) hl _

/-! ## A reservation withdrawn, R125 -/

theorem reservationWithdrawal_waits (hg : s.gangs.look k = some g) (hd : g.dealt = false)
    (ht : s.now < g.since + 2 ^ 16 * cycleLen (coreX (s.columnCore g.plate g.place.1))) : Waits (.reservationWithdrawal k) s := by
  unfold Waits
  rw [exec_reservationWithdrawal]
  unfold execReservationWithdrawal
  simp only [hg, hd, Bool.false_eq_true, if_false, if_pos ht]

/-- A launch whose gang has been withdrawn: the gang stands at the head of its plate's range again, and avoids its origin. -/
def Launch.withdrawn (l : Launch) (g : Gang) : Launch :=
  { l.setRange g.plate g.gnum (match l.nextOf g.plate with
      | some (_, e) => e
      | none => g.gnum + 1) with avoid := l.avoid.set g.plate g.place }

/-- The state once a gang's reservations are given up. -/
def State.withdrawn (s : State) (k : Nat) (g : Gang) : State :=
  let t : State := { (s.did (.reservationWithdrawal k)).did (.reservationComplete k) with gangs := s.gangs.drop k }
  ((g.wants.foldl (fun u w => u.pushOnce (.taskSelection w.1)) t).updLaunch g.launch (fun l => l.withdrawn g)).pushOnce (.gangRangeRequest g.launch g.plate)

theorem reservationWithdrawal_withdraws (hg : s.gangs.look k = some g) (hd : g.dealt = false)
    (ht : g.since + 2 ^ 16 * cycleLen (coreX (s.columnCore g.plate g.place.1)) ≤ s.now) :
    exec (.reservationWithdrawal k) s = .next (s.withdrawn k g) := by
  rw [exec_reservationWithdrawal]
  unfold execReservationWithdrawal
  simp only [hg, hd, Bool.false_eq_true, if_false, if_neg (Nat.not_lt.2 ht)]
  rfl

theorem State.withdrawn_facts (hl : s.launches.look g.launch = some l) :
    (s.withdrawn k g).gangs = s.gangs.drop k ∧ (s.withdrawn k g).cores = s.cores ∧ (s.withdrawn k g).launches.look g.launch = some (l.withdrawn g) ∧
      Instr.gangRangeRequest g.launch g.plate ∈ (s.withdrawn k g).due := by
  unfold State.withdrawn
  dsimp only
  obtain ⟨d, hd⟩ : ∃ d, g.wants.foldl (fun u w => u.pushOnce (.taskSelection w.1))
      ({ (s.did (.reservationWithdrawal k)).did (.reservationComplete k) with gangs := s.gangs.drop k } : State) = { s with gangs := s.gangs.drop k, due := d } := by
    refine foldl_keeps (P := fun t => ∃ d, t = { s with gangs := s.gangs.drop k, due := d }) ?_ g.wants _
      ⟨((s.did (.reservationWithdrawal k)).did (.reservationComplete k)).due, rfl⟩
    rintro _ w ⟨d, rfl⟩
    obtain ⟨e, he⟩ := State.pushOnce_ex { s with gangs := s.gangs.drop k, due := d } (.taskSelection w.1)
    exact ⟨e, he⟩
  rw [hd]
  generalize hu : ({ s with gangs := s.gangs.drop k, due := d } : State) = u
  have hul : u.launches.look g.launch = some l := by rw [← hu]; exact hl
  refine ⟨?_, ?_, ?_, State.mem_due_pushOnce _ _⟩
  · obtain ⟨e, he⟩ := State.pushOnce_ex (u.updLaunch g.launch (fun l => l.withdrawn g)) (.gangRangeRequest g.launch g.plate)
    rw [he]
    exact (State.gangs_updLaunch _ _ _).trans (by rw [← hu])
  · obtain ⟨e, he⟩ := State.pushOnce_ex (u.updLaunch g.launch (fun l => l.withdrawn g)) (.gangRangeRequest g.launch g.plate)
    rw [he]
    exact (State.cores_updLaunch _ _ _).trans (by rw [← hu])
  · obtain ⟨e, he⟩ := State.pushOnce_ex (u.updLaunch g.launch (fun l => l.withdrawn g)) (.gangRangeRequest g.launch g.plate)
    rw [he]
    exact State.look_updLaunch hul _

end

/-! ## A deal message lands, R122, R144 -/

section
variable {s : State} {c n id : Nat} {l : Launch}

theorem State.core_countRcvd_self (s : State) (c l : Nat) :
    (s.countRcvd c l).core c = { s.core c with rcvd := Sp.put 0 (s.core c).rcvd l (((s.core c).rcvd.at l 0 + 1) % 2 ^ 32) } :=
  State.core_updCore_self s c _

theorem State.core_countRcvd_ne (s : State) {c d : Nat} (h : c ≠ d) (l : Nat) : (s.countRcvd c l).core d = s.core d :=
  State.core_updCore_ne s h _

theorem State.slot_countRcvd (s : State) (c l d m : Nat) : (s.countRcvd c l).slot d m = s.slot d m := by
  unfold State.slot
  by_cases h : c = d
  · subst h
    rw [State.core_countRcvd_self]
    rfl
  · rw [State.core_countRcvd_ne s h]

/-- The slot of a new task. -/
def State.newSlot (s : State) (c n : Nat) (k : NewTask) : Slot :=
  let part := (s.ctx k.ctx).part
  let b := s.banks.at (16 * c + n) {}
  let len := cycleLen (coreX (s.phys c))
  let ready := if b.st = .gated then max ((s.slot c n).readyAt + 32 * len) (s.now + 32 * meshLen + 64 * len) else (s.slot c n).readyAt
  { k.slot s.serial part ready with halted := s.haltedPart part }

theorem State.newSlot_ex (s : State) (c n : Nat) (k : NewTask) :
    ∃ part ready halted, s.newSlot c n k = { k.slot s.serial part ready with halted := halted } := ⟨_, _, _, rfl⟩

theorem State.createTask_eq {k : NewTask} (hk : k.launch = some id) : s.createTask c n k =
    (((({ s with serial := s.serial + 1 } : State).setSlot c n (s.newSlot c n k)).push (.slotClearingEnd c n)).wakeBank c n).updLaunch id
      (fun y => { y with tasks := y.tasks + 1 }) := by
  unfold State.createTask
  rw [hk]
  rfl

/-- What a new task of a launch leaves. -/
theorem State.createTask_facts {k : NewTask} (hk : k.launch = some id) (hl : s.launches.look id = some l) :
    let t := s.createTask c n k
    t.slot c n = s.newSlot c n k ∧ (∀ d m, d ≠ c ∨ m ≠ n → t.slot d m = s.slot d m) ∧ (∀ d, (t.core d).rcvd = (s.core d).rcvd) ∧ t.gangs = s.gangs ∧
      t.launches.look id = some { l with tasks := l.tasks + 1 } ∧ t.due = s.due ++ [.slotClearingEnd c n] := by
  intro t
  have ht : t = s.createTask c n k := rfl
  rw [State.createTask_eq hk] at ht
  generalize hu : (({ s with serial := s.serial + 1 } : State).setSlot c n (s.newSlot c n k)) = u at ht
  rw [State.wakeBank_eq] at ht
  generalize ((u.push (.slotClearingEnd c n)).wakeBank c n).banks = b at ht
  have hcores : t.cores = u.cores := by
    rw [ht]
    exact State.cores_updLaunch _ _ _
  refine ⟨?_, fun d m hd => ?_, fun d => ?_, ?_, ?_, ?_⟩
  · rw [State.slot_congr hcores, ← hu]
    exact State.slot_setSlot_self _ _ _ _
  · rw [State.slot_congr hcores, ← hu]
    exact State.slot_setSlot_ne _ (hd.imp Ne.symm Ne.symm) _
  · rw [State.core_congr hcores, ← hu]
    by_cases hc : c = d
    · subst hc
      rw [State.core_setSlot_self]
      rfl
    · rw [State.core_setSlot_ne _ hc]
      rfl
  · rw [ht, State.gangs_updLaunch, ← hu]
    rfl
  · rw [ht]
    refine State.look_updLaunch (l := l) ?_ _
    rw [← hu]
    exact hl
  · rw [ht, State.due_updLaunch, ← hu]
    rfl

end

section
variable {k : NewTask} {uid part ready : Nat}

/-- What a new task starts with, R26. -/
theorem NewTask.slot_facts : let a := (k.slot uid part ready).arch
    a.code = k.code.getD 0 ∧ a.codeTag = k.code.isSome ∧ a.reg 3 = k.arg ∧ a.sr = putBit (putBit 0 10 k.sup) 9 k.world := by
  have hstart : ∀ (b : Arch) (o : Option CapBits), (b.startCode o).code = o.getD 0 ∧ (b.startCode o).codeTag = o.isSome ∧ (b.startCode o).sr = b.sr := by
    rintro b (_ | o) <;> exact ⟨rfl, rfl, rfl⟩
  obtain ⟨hcode, htag, hsr⟩ := hstart ({ sr := putBit (putBit 0 10 k.sup) 9 k.world } : Arch) k.code
  exact ⟨(Arch.setReg_code _ _ _).trans hcode, (Arch.setReg_codeTag _ _ _).trans htag, Arch.reg_setReg_self _ (by decide) _, (Arch.setReg_sr _ _ _).trans hsr⟩

end

/-- A gang of which a task has been created. -/
def Gang.created (g : Gang) (c n i : Nat) : Gang := { g with reserved := g.reserved.erase (c, n), toCreate := g.toCreate.erase i, alive := g.alive ++ [i] }

/-- The task that a deal message creates, R122, R134. -/
def State.dealtTask (s : State) (k : Nat) (g : Gang) (l : Launch) (c i : Nat) : NewTask :=
  { code := (s.handler c l.lr.chan).code,
    arg := (match (s.handler c l.lr.chan).arg with
      | some a => capReg a true
      | none => {}),
    sup := l.lr.sup, world := l.lr.s, heat := l.lr.heat, ctx := l.ctx, tcoord := l.lr.tcoord g.gnum i,
    gang := gangWord l.lid g.members.length i g.gnum, lid := l.lid, launch := some g.launch, gangId := some k, gti := i }

/-- The state once a deal message has created its task. -/
def State.dealtIn (s : State) (k : Nat) (g : Gang) (l : Launch) (c n i : Nat) : State :=
  let t : State := { (s.did (.dealMessage k i)).countRcvd c l.lid with gangs := s.gangs.set k (g.created c n i) }
  t.createTask c n (s.dealtTask k g l c i)

section
variable {s : State} {k c n i : Nat} {g : Gang} {l : Launch}

theorem State.handler_countRcvd (s : State) (c l d m : Nat) : (s.countRcvd c l).handler d m = s.handler d m := by
  unfold State.handler
  by_cases h : c = d
  · subst h
    rw [State.core_countRcvd_self]
    rfl
  · rw [State.core_countRcvd_ne s h]

theorem dealMessage_waits (hg : s.gangs.look k = some g) (hl : s.launches.look g.launch = some l)
    (hm : g.members.find? (fun m => m.2.2 == i) = some (c, n, i)) (hi : g.toCreate.contains i = true)
    (hw : s.haltedPart l.part = true ∨ (s.core c).moving = true) : Waits (.dealMessage k i) s := by
  unfold Waits
  rw [exec_dealMessage]
  unfold execDealMessage
  simp only [hg, hl, hm, hi, Bool.not_true, Bool.false_eq_true, if_false, if_pos hw]

theorem dealMessage_creates (hg : s.gangs.look k = some g) (hl : s.launches.look g.launch = some l)
    (hm : g.members.find? (fun m => m.2.2 == i) = some (c, n, i)) (hi : g.toCreate.contains i = true)
    (hpart : s.haltedPart l.part = false) (hmove : (s.core c).moving = false) (ha : l.aborting = true → l.reached.contains c = false) :
    exec (.dealMessage k i) s = .next (s.dealtIn k g l c n i) := by
  have hgo : ¬ (s.haltedPart l.part = true ∨ (s.core c).moving = true) := by simp [hpart, hmove]
  have hlive : ¬ (l.aborting = true ∧ l.reached.contains c = true) := fun ⟨h, hr⟩ => absurd (hr.symm.trans (ha h)) (by decide)
  have hh : ((s.did (.dealMessage k i)).countRcvd c l.lid).handler c l.lr.chan = s.handler c l.lr.chan := State.handler_countRcvd _ _ _ _ _
  rw [exec_dealMessage]
  unfold execDealMessage
  simp only [hg, hl, hm, hi, Bool.not_true, Bool.false_eq_true, if_false, if_neg hgo, if_neg hlive, hh]
  rfl

/-- What a deal message leaves. -/
theorem State.dealtIn_facts (hl : s.launches.look g.launch = some l) : let t := s.dealtIn k g l c n i
    (∀ d m, d ≠ c ∨ m ≠ n → t.slot d m = s.slot d m) ∧ (t.core c).rcvd.at l.lid 0 = ((s.core c).rcvd.at l.lid 0 + 1) % 2 ^ 32 ∧
      t.gangs.look k = some (g.created c n i) ∧ t.launches.look g.launch = some { l with tasks := l.tasks + 1 } ∧ Instr.slotClearingEnd c n ∈ t.due ∧
      ∃ part ready halted, t.slot c n = { (s.dealtTask k g l c i).slot s.serial part ready with halted := halted } := by
  unfold State.dealtIn
  dsimp only
  generalize hu : ({ (s.did (.dealMessage k i)).countRcvd c l.lid with gangs := s.gangs.set k (g.created c n i) } : State) = u
  obtain ⟨hself, hslots, hrcvd, hgangs, hlaunch, hdue⟩ := State.createTask_facts (s := u) (k := s.dealtTask k g l c i) (c := c) (n := n) rfl
    (l := l) (by rw [← hu]; exact hl)
  have hcore : ∀ d, u.core d = (s.countRcvd c l.lid).core d := fun d => by rw [← hu]; rfl
  refine ⟨fun d m hd => ?_, ?_, ?_, hlaunch, ?_, ?_⟩
  · rw [hslots d m hd, ← State.slot_countRcvd s c l.lid, State.slot, hcore]
    rfl
  · rw [hrcvd c, hcore, State.core_countRcvd_self]
    exact Sp.at_put_self _ _ _ _
  · rw [hgangs, ← hu]
    exact Sp.look_set_self _ _ _
  · rw [hdue]
    exact List.mem_append_right _ (List.mem_singleton_self _)
  · have hserial : u.serial = s.serial := by rw [← hu]; rfl
    obtain ⟨part, ready, halted, hn⟩ := u.newSlot_ex c n (s.dealtTask k g l c i)
    rw [hserial] at hn
    exact ⟨part, ready, halted, hself.trans hn⟩

end

/-! ## The watchdog, R328 -/

theorem foldl_min_le {l : List Nat} {m a : Nat} (ha : a = m ∨ a ∈ l) : l.foldl min m ≤ a := by
  induction l generalizing m a with
  | nil => exact (ha.resolve_right (by simp)).ge
  | cons b l ih =>
    rw [List.foldl_cons]
    rcases ha with rfl | ha
    · exact (ih (.inl rfl)).trans (Nat.min_le_left _ _)
    · rcases List.mem_cons.1 ha with rfl | ha
      · exact (ih (.inl rfl)).trans (Nat.min_le_right _ _)
      · exact ih (.inr ha)

theorem foldl_min_mem {l : List Nat} {m : Nat} : l.foldl min m ∈ m :: l := by
  induction l generalizing m with
  | nil => exact List.mem_cons_self
  | cons b l ih =>
    rw [List.foldl_cons]
    rcases List.mem_cons.1 (ih (m := min m b)) with h | h
    · rw [h]
      rcases Nat.le_total m b with hb | hb
      · rw [Nat.min_eq_left hb]
        exact List.mem_cons_self
      · rw [Nat.min_eq_right hb]
        exact List.mem_cons_of_mem _ List.mem_cons_self
    · exact List.mem_cons_of_mem _ (List.mem_cons_of_mem _ h)

/-- The lowest of some indexes. -/
theorem foldl_min_headD {l : List Nat} {m : Nat} (hm : m ∈ l) (hle : ∀ i ∈ l, m ≤ i) : l.foldl min (l.headD 0) = m := by
  cases l with
  | nil => exact absurd hm (by simp)
  | cons a l =>
    have hmem : (a :: l).foldl min a ∈ a :: l := by
      rw [List.foldl_cons, Nat.min_self]
      exact foldl_min_mem
    have hlow : (a :: l).foldl min a ≤ m := by
      rw [List.foldl_cons, Nat.min_self]
      exact foldl_min_le (List.mem_cons.1 hm)
    exact Nat.le_antisymm hlow (hle _ hmem)

section
variable {s : State} {k : Nat} {g : Gang}

theorem gangWatchdogExpiry_waits (hg : s.gangs.look k = some g) (ht : s.gt < g.idleSince + 2 ^ (s.ctx g.bar.ctx).wdog) :
    Waits (.gangWatchdogExpiry k) s := by
  unfold Waits
  rw [exec_gangWatchdogExpiry]
  unfold execGangWatchdogExpiry
  simp only [hg, ht, or_true, if_true]

theorem gangWatchdogExpiry_traps (hg : s.gangs.look k = some g) (hw : (s.ctx g.bar.ctx).wdog ≠ 0) (hd : g.dealt = true)
    (ht : g.idleSince + 2 ^ (s.ctx g.bar.ctx).wdog ≤ s.gt) {m : Nat × Nat × Nat} (ha : m.2.2 ∈ g.alive) (hle : ∀ i ∈ g.alive, m.2.2 ≤ i)
    (hm : g.members.find? (fun y => y.2.2 == m.2.2) = some m) :
    exec (.gangWatchdogExpiry k) s = .next (s.enterTrap m.1 m.2.1 19 (g.gnum % 2 ^ 32) 0 false 0 (s.slot m.1 m.2.1).arch.resume) := by
  rw [exec_gangWatchdogExpiry]
  unfold execGangWatchdogExpiry
  simp only [hg, hw, hd, Nat.not_lt.2 ht, Bool.not_true, Bool.false_eq_true, or_self, if_false, foldl_min_headD ha hle, hm]
  rfl

theorem Sp.look_map {α β : Type} (f : Nat → α → β) (m : Sp α) (k : Nat) : Sp.look (m.map (fun e => (e.1, f e.1 e.2))) k = (m.look k).map (f k) := by
  induction m with
  | nil => rfl
  | cons e r ih =>
    obtain ⟨j, x⟩ := e
    by_cases h : j = k
    · subst h
      simp [Sp.look]
    · simp [Sp.look, h, ih]

theorem State.look_watchGangs (hg : s.gangs.look k = some g) (ticks : Nat) : (s.watchGangs ticks).look k =
    some (if s.gangStalled k g = true ∧ s.gangPaused k g = false then g else { g with idleSince := g.idleSince + ticks }) := by
  unfold State.watchGangs
  rw [Sp.look_map (fun j (x : Gang) => if s.gangStalled j x && !s.gangPaused j x then x else { x with idleSince := x.idleSince + ticks }), hg]
  simp

end

/-- Settles O47: a plate's next gang goes where `State.choices` lets it (`State.pushPlacement_goes`); its reservations are taken, dealt, or
withdrawn (`State.dealtOut`, `State.withdrawn`); a deal message creates its task (`State.dealtIn`); and the watchdog counts as
`State.watchGangs` says. -/
theorem gangEvents : Obligations.GangEvents := by
  intro s id k plate l g hl request deals still place
  have hdeals : deals → l.asksRange plate := fun ⟨hr, hh, ht, hm⟩ => ⟨hr, hh, ht, hm⟩
  have hplace : ∀ n t, PlacedAfter s id plate l n t → place l n t := fun n t ⟨o, ⟨ho, hf, hfree⟩, hdue, hgangs, hcores⟩ =>
    ⟨o, ho, hf, hfree, hdue, hgangs, hcores⟩
  refine ⟨fun hd n stop hn ho => ?_, fun hd hn hh ha hdr hp => gangRangeRequest_waits hl (hdeals hd) hn hh ha hdr hp,
    fun hd hn hh ha hdr hp hpart hf => ?_, fun x y n stop hd hn hp hpart ha hf => gangPlacement_elsewhere hl (hdeals hd) hn hp hpart ha hf,
    fun x y n stop q hd hn hp hpart hw hq => ?_, fun hg hgl hd hw => ?_, fun hg hgl hd hpart hs hw => ?_, fun hg hgl hd hpart hs hw => ?_,
    fun hg hgl hd ht => reservationWithdrawal_waits hg hd ht, fun hg hgl hd ht => ?_, fun c n i hg hgl hm hi hw => ?_,
    fun c n i hg hgl hm hi hpart hmove ha => ?_,
    fun m hg hw hd ht _ ha hle hm => gangWatchdogExpiry_traps hg hw hd ht ha hle hm, fun hg ht => gangWatchdogExpiry_waits hg ht,
    fun ticks hg => State.look_watchGangs hg ticks⟩
  · obtain ⟨t, he, hp, hla⟩ := gangRangeRequest_next hl (hdeals hd) hn ho
    exact ⟨t, he, hplace n t hp, hla⟩
  · obtain ⟨t, n, he, h1, h64, hp, hla⟩ := gangRangeRequest_hands hl (hdeals hd) hn hh ha hdr hp hpart hf
    exact ⟨t, n, he, h1, h64, hplace _ t hp, hla⟩
  · obtain ⟨r, hr⟩ := State.reserveMore_ex (s := (s.did (.gangPlacement id plate x y)).fresh.2) (ctx := l.ctx) (s.newGang id plate x y n l q)
    have hopen := State.reserveMore_open (s := (s.did (.gangPlacement id plate x y)).fresh.2) (ctx := l.ctx) (g := s.newGang id plate x y n l q)
      (fun _ h => absurd h (by simp [State.newGang]))
    refine ⟨_, _, gangPlacement_places hl (hdeals hd) hn hp hpart hw hq, Sp.look_set_self _ _ _, ?_⟩
    rw [hr] at hopen ⊢
    exact ⟨rfl, rfl, rfl, rfl, rfl, rfl, rfl, rfl, rfl, hopen, Sp.look_set_self _ _ _, List.append_assoc _ _ _, rfl⟩
  · subst hgl
    exact reservationComplete_waits hg hl hd hw
  · subst hgl
    exact reservationComplete_partial hg hl hd hpart hs hw
  · subst hgl
    obtain ⟨r, hr⟩ := State.reserveMore_ex (s := s) (ctx := l.ctx) g
    have hlaunch : s.launches.look ((s.reserveMore g l.ctx).dealtAt s.gt).launch = some l := by
      rw [hr]
      exact hl
    obtain ⟨hgangs, hla, hdue, hdark⟩ := State.dealtOut_facts (k := k) hlaunch l.lid
    refine ⟨_, (s.reserveMore g l.ctx).dealtAt s.gt, reservationComplete_deals hg hl hd hpart hs hw, ?_, rfl, rfl, ?_, ?_, ?_, ?_, ?_⟩
    · rw [hgangs]
      exact Sp.look_set_self _ _ _
    · rw [hr]
      exact Gang.dealtAt_created _ _
    · rw [hr]
      exact Gang.dealtAt_places _ _
    · intro m hm
      obtain ⟨n, hn⟩ := Gang.dealtAt_members (g := s.reserveMore g l.ctx) (m := m) (by rw [hr]; exact hm) s.gt
      exact hdue (m.1, n, m.2.2) hn
    · rw [hr] at hla ⊢
      exact congrArg (Option.map Launch.dealt) hla
    · intro c hc
      refine hdark c ?_
      rw [hr]
      exact hc
  · subst hgl
    obtain ⟨hgangs, hcores, hlaunch, hdue⟩ := State.withdrawn_facts (k := k) hl
    refine ⟨_, _, reservationWithdrawal_withdraws hg hd ht, hgangs, hcores, hlaunch, ?_, rfl, hdue⟩
    show _ ++ [(_, _, match l.nextOf g.plate with | some (_, e) => e | none => g.gnum + 1)] = _
    cases l.nextOf g.plate <;> rfl
  · subst hgl
    exact dealMessage_waits hg hl hm hi hw
  · subst hgl
    obtain ⟨hslots, hrcvd, hgangs, hlaunch, hdue, part, ready, halted, hself⟩ := State.dealtIn_facts (k := k) (c := c) (n := n) (i := i) hl
    refine ⟨_, dealMessage_creates hg hl hm hi hpart hmove ha, hslots, hrcvd, hgangs, congrArg (Option.map Launch.tasks) hlaunch, hdue, ?_⟩
    obtain ⟨hcode, htag, harg, hsr⟩ := NewTask.slot_facts (k := s.dealtTask k g l c i) (uid := s.serial) (part := part) (ready := ready)
    rw [hself]
    exact ⟨rfl, rfl, rfl, rfl, rfl, rfl, rfl, rfl, rfl, hcode, htag, harg, hsr⟩

end Sys2Proof.Machine
end

section
/-!
Messages, R128, R143, R144, R154 to R158, R351 to R355, R363: the routes of the mesh, a packet's way over them, its decision at its target,
and its answer.
-/

namespace Sys2Proof.Machine

/-! ## Routes, R351 -/

/-- A way from a router ends at a router. -/
def Ends (r : Router) (l : List Router) (t : Router) : Prop := (r :: l).getLast? = some t

theorem Ends.nil (r : Router) : Ends r [] r := rfl

theorem Ends.cons {r s t : Router} {l : List Router} (h : Ends s l t) : Ends r (s :: l) t := by
  unfold Ends at h ⊢
  rw [List.getLast?_cons_cons, h]

theorem Ends.append {r t u : Router} {l m : List Router} (h : Ends r l t) (k : Ends t m u) : Ends r (l ++ m) u := by
  induction l generalizing r with
  | nil =>
    obtain rfl : r = t := Option.some.inj h
    exact k
  | cons s l ih => exact (ih (show Ends s l t by unfold Ends at h ⊢; rwa [List.getLast?_cons_cons] at h)).cons

theorem channels_append {r t : Router} {l m : List Router} (h : Ends r l t) : channels r (l ++ m) = channels r l ++ channels t m := by
  induction l generalizing r with
  | nil =>
    obtain rfl : r = t := Option.some.inj h
    rfl
  | cons s l ih =>
    have hs : Ends s l t := by unfold Ends at h ⊢; rwa [List.getLast?_cons_cons] at h
    rw [List.cons_append, channels, channels, ih hs, List.cons_append]

theorem ways_self (a : Nat) : ways a a = [] := by simp [ways]

theorem ways_up {a b : Nat} (h : a < b) : ways a b = (a + 1) :: ways (a + 1) b := by
  have hlen : b - a = (b - (a + 1)) + 1 := by omega
  unfold ways
  rw [if_pos h.le, if_pos (show a + 1 ≤ b from h), hlen, List.range_succ_eq_map, List.map_cons, List.map_map]
  congr 1
  exact List.map_congr_left fun i _ => by simp only [Function.comp]; omega

theorem ways_down {a b : Nat} (h : b < a) : ways a b = (a - 1) :: ways (a - 1) b := by
  have hlen : a - b = (a - 1 - b) + 1 := by omega
  unfold ways
  rw [if_neg (Nat.not_le.2 h), hlen, List.range_succ_eq_map, List.map_cons, List.map_map]
  by_cases he : a - 1 ≤ b
  · obtain rfl : a - 1 = b := by omega
    simp
  · rw [if_neg he]
    congr 1
    exact List.map_congr_left fun i _ => by simp only [Function.comp]; omega

/-- A way along one coordinate, all of whose channels have one rank. -/
theorem along_line {f : Nat → Router} {k m : Nat} (hf : ∀ v w, v < m → w < m → v + 1 = w ∨ w + 1 = v → channelRank (f v) (f w) = k) {a b : Nat}
    (ha : a < m) (hb : b < m) : Ends (f a) ((ways a b).map f) (f b) ∧ ∀ c ∈ channels (f a) ((ways a b).map f), c = k := by
  have hstep : ∀ n, ∀ a, a < m → (a - b) + (b - a) = n →
      Ends (f a) ((ways a b).map f) (f b) ∧ ∀ c ∈ channels (f a) ((ways a b).map f), c = k := by
    intro n
    induction n with
    | zero =>
      intro a ha hn
      obtain rfl : a = b := by omega
      rw [ways_self]
      exact ⟨Ends.nil _, fun c hc => absurd hc (by simp [channels])⟩
    | succ n ih =>
      intro a ha hn
      rcases Nat.lt_or_ge a b with h | h
      · obtain ⟨he, hc⟩ := ih (a + 1) (by omega) (by omega)
        rw [ways_up h, List.map_cons]
        refine ⟨he.cons, fun c hm => ?_⟩
        rcases List.mem_cons.1 hm with rfl | hm
        · exact hf _ _ ha (by omega) (.inl rfl)
        · exact hc c hm
      · obtain ⟨he, hc⟩ := ih (a - 1) (by omega) (by omega)
        rw [ways_down (by omega), List.map_cons]
        refine ⟨he.cons, fun c hm => ?_⟩
        rcases List.mem_cons.1 hm with rfl | hm
        · exact hf _ _ ha (by omega) (.inr (by omega))
        · exact hc c hm
  exact hstep _ a ha rfl

/-- A router of the package. -/
structure Router.legal (r : Router) : Prop where
  plate : r.plate < 4
  x : r.x < 32
  y : r.y < 24

namespace Router.legal
variable {r : Router}

theorem px_lt (h : r.legal) : r.px < 64 := by
  have := h.plate
  have := h.x
  simp only [Router.px, packageX]
  omega

theorem py_lt (h : r.legal) : r.py < 48 := by
  have := h.plate
  have := h.y
  simp only [Router.py, packageY]
  omega

/-- A router stands at its package coordinates. -/
theorem at_ (h : r.legal) (z : Nat) : routerAt z r.px r.py = { r with z := z } := by
  have hp := h.plate
  have hx := h.x
  have hy := h.y
  simp only [routerAt, Router.px, Router.py, packageX, packageY, Router.mk.injEq, and_true]
  omega

end Router.legal

theorem py_routerAt {z px py : Nat} (hx : px < 64) : (routerAt z px py).py = py := by
  simp only [routerAt, Router.py, packageY]
  omega

theorem channelRank_layer {z px py qx qy : Nat} (hp : px < 64) (hq : qx < 64) :
    channelRank (routerAt z px py) (routerAt z qx qy) = 3 * z + (if py = qy then 1 else 2) := by
  unfold channelRank
  rw [py_routerAt hp, py_routerAt hq]
  simp [routerAt]

/-- The way over one layer ends at its target, first in x and then in y. -/
theorem along_ends {z px py qx qy : Nat} (hpx : px < 64) (hqx : qx < 64) (hpy : py < 48) (hqy : qy < 48) :
    Ends (routerAt z px py) (along z px py qx qy) (routerAt z qx qy) ∧
      ∃ l m, channels (routerAt z px py) (along z px py qx qy) = l ++ m ∧ (∀ c ∈ l, c = 3 * z + 1) ∧ ∀ c ∈ m, c = 3 * z + 2 := by
  obtain ⟨hex, hcx⟩ := along_line (f := fun v => routerAt z v py) (k := 3 * z + 1) (m := 64)
    (fun v w hv hw _ => by rw [channelRank_layer hv hw, if_pos rfl]) hpx hqx
  obtain ⟨hey, hcy⟩ := along_line (f := fun v => routerAt z qx v) (k := 3 * z + 2) (m := 48)
    (fun v w _ _ hvw => by rw [channelRank_layer hqx hqx, if_neg (by omega)]) hpy hqy
  exact ⟨hex.append hey, _, _, channels_append hex, hcx, hcy⟩

theorem cross_ends (r : Router) (z : Nat) : Ends r (r.cross z) { r with z := z } := by
  unfold Router.cross
  split
  next h => subst h; exact Ends.nil _
  · exact (Ends.nil _).cons

theorem channels_cross (r : Router) (z : Nat) : ∀ c ∈ channels r (r.cross z), z ≠ r.z ∧ c = if z < r.z then 0 else 3 := by
  unfold Router.cross
  split
  · exact fun c hc => absurd hc (by simp [channels])
  next h =>
    intro c hc
    obtain rfl := List.mem_singleton.1 hc
    refine ⟨Ne.symm h, ?_⟩
    unfold channelRank
    dsimp only
    split
    · rfl
    · rw [if_pos (by omega)]

theorem rises_const {l : List Nat} {k : Nat} (h : ∀ c ∈ l, c = k) : l.Pairwise (· ≤ ·) :=
  List.pairwise_of_forall_mem_list fun a ha b hb => by rw [h a ha, h b hb]

/-- Ranks that rise stay so behind lower ones. -/
theorem rises_append {l m : List Nat} {k : Nat} (hl : ∀ c ∈ l, c = k) (hm : m.Pairwise (· ≤ ·)) (h : ∀ c ∈ m, k ≤ c) :
    (l ++ m).Pairwise (· ≤ ·) :=
  List.pairwise_append.2 ⟨rises_const hl, hm, fun a ha b hb => by rw [hl a ha]; exact h b hb⟩

section
variable {a b : Router}

theorem route_same (ha : a.legal) (hb : b.legal) (h : a.plate = b.plate) (haz : a.z < 2) (hbz : b.z < 2) :
    Ends a (route a b) b ∧ (channels a (route a b)).Pairwise (· ≤ ·) := by
  have hc := cross_ends a b.z
  have hcross := channels_cross a b.z
  rw [← ha.at_] at hc
  obtain ⟨he, l, m, hlm, hl, hm⟩ := along_ends (z := b.z) ha.px_lt hb.px_lt ha.py_lt hb.py_lt
  rw [hb.at_] at he
  unfold route
  rw [if_pos h]
  refine ⟨hc.append he, ?_⟩
  rw [channels_append hc, hlm]
  have hrest : (l ++ m).Pairwise (· ≤ ·) := rises_append hl (rises_const hm) fun c hc => by rw [hm c hc]; omega
  refine rises_append (k := 3 * b.z) (fun c hc => ?_) hrest fun c hc => ?_
  · obtain ⟨hne, rfl⟩ := hcross c hc
    split <;> omega
  · rcases List.mem_append.1 hc with hc | hc
    · rw [hl c hc]
      omega
    · rw [hm c hc]
      omega

theorem route_other (ha : a.legal) (hb : b.legal) (h : a.plate ≠ b.plate) :
    Ends a (route a b) b ∧ (channels a (route a b)).Pairwise (· ≤ ·) ∧ ∀ r ∈ route a b, r.z = 0 ∨ r = b := by
  have hc := cross_ends a 0
  have hcross := channels_cross a 0
  have hd := cross_ends { b with z := 0 } b.z
  have hlast := channels_cross { b with z := 0 } b.z
  rw [← ha.at_] at hc
  obtain ⟨he, l, m, hlm, hl, hm⟩ := along_ends (z := 0) ha.px_lt hb.px_lt ha.py_lt hb.py_lt
  rw [hb.at_] at he
  unfold route
  rw [if_neg h]
  refine ⟨(hc.append he).append hd, ?_, fun r hr => ?_⟩
  · rw [channels_append (hc.append he), channels_append hc, hlm, List.append_assoc, List.append_assoc]
    have hlow : ∀ c ∈ channels { b with z := 0 } (({ b with z := 0 } : Router).cross b.z), c = 3 := by
      intro c hc
      obtain ⟨hne, rfl⟩ := hlast c hc
      exact if_neg (Nat.not_lt_zero _)
    have hmid : (m ++ channels { b with z := 0 } (({ b with z := 0 } : Router).cross b.z)).Pairwise (· ≤ ·) :=
      rises_append hm (rises_const hlow) fun c hc => by rw [hlow c hc]; decide
    refine rises_append (k := 0) (fun c hc => ?_) (rises_append hl hmid fun c hc => ?_) fun c _ => Nat.zero_le c
    · obtain ⟨hne, rfl⟩ := hcross c hc
      exact if_pos (Nat.pos_of_ne_zero (Ne.symm hne))
    · rcases List.mem_append.1 hc with hc | hc
      · rw [hm c hc]
        decide
      · rw [hlow c hc]
        decide
  · rcases List.mem_append.1 hr with hr | hr
    · rcases List.mem_append.1 hr with hr | hr
      · refine .inl ?_
        unfold Router.cross at hr
        split at hr
        · exact absurd hr (by simp)
        · rw [List.mem_singleton.1 hr]
      · refine .inl ?_
        rcases List.mem_append.1 hr with hr | hr <;> obtain ⟨v, -, rfl⟩ := List.mem_map.1 hr <;> rfl
    · refine .inr ?_
      unfold Router.cross at hr
      split at hr
      · exact absurd hr (by simp)
      · exact List.mem_singleton.1 hr

end

/-! ## A packet on its way, R351, R355, R363 -/

section
variable {s t : State} {id : Nat} {p : Packet}

/-- A packet whose turn it is takes it, whichever its kind. -/
theorem travels_turn (hl : s.packets.look id = some p) (ha : p.answer = none) (hn : p.nacked = false) (h : s.enroute id p = some t) :
    exec (p.travels id) s = .next t := by
  unfold Packet.travels
  split
  next hk =>
    rw [exec_engineCardArrival]
    unfold execEngineCardArrival
    simp only [hl, hk, ha, hn, h, ne_eq, not_true_eq_false, Option.isSome_none, Bool.false_eq_true, or_self, if_false]
  next hk =>
    rw [exec_messageArrival]
    unfold execMessageArrival
    simp only [hl, hk, ha, hn, h, Option.isSome_none, Bool.false_eq_true, or_self, if_false]

/-- A packet of this device to one of its cores. -/
theorem Packet.local_iff (hd : bits p.target 59 50 = s.table.devnum) (hs : p.msg.src / 2 ^ 14 = s.table.devnum) :
    p.foreign s.table.devnum = false ∧ p.device = s.table.devnum := ⟨by rw [Packet.foreign, hs, bne_self_eq_false], hd⟩

theorem State.enroute_start (hd : bits p.target 59 50 = s.table.devnum) (hs : p.msg.src / 2 ^ 14 = s.table.devnum) (ha : p.at_ = none) :
    s.enroute id p = some (if s.holdsBack id p = true ∨ s.waitsBehind id p = true then s else { s with packets := s.packets.set id { p with
      at_ := some (routerOf (s.phys p.source), routerOf (s.phys p.source)),
      path := route (routerOf (s.phys p.source)) (routerOf (s.phys p.core)), goal := s.phys p.core, ready := s.now } }) := by
  obtain ⟨hf, hdev⟩ := Packet.local_iff hd hs
  simp only [State.enroute, hf, hdev, ha, ne_eq, not_true_eq_false, Bool.false_eq_true, if_false]

theorem State.enroute_hop (hd : bits p.target 59 50 = s.table.devnum) (hs : p.msg.src / 2 ^ 14 = s.table.devnum) {x r n : Router} {l : List Router}
    (ha : p.at_ = some (x, r)) (hr : p.ready ≤ s.now) (hp : p.path = n :: l) :
    s.enroute id p = some (if (p.escape && s.slotTaken id p (r, n)) = true then s else { s with packets := s.packets.set id { p with
      at_ := some (r, n), path := l, ready := s.now + crossing r n * meshLen } }) := by
  obtain ⟨hf, hdev⟩ := Packet.local_iff hd hs
  simp only [State.enroute, hf, hdev, ha, hp, if_neg (Nat.not_lt.2 hr), ne_eq, not_true_eq_false, Bool.false_eq_true, if_false]

/-- A packet of this device to another one. -/
theorem Packet.leaves_iff (hd : bits p.target 59 50 ≠ s.table.devnum) (hs : p.msg.src / 2 ^ 14 = s.table.devnum) :
    p.foreign s.table.devnum = false ∧ p.device ≠ s.table.devnum := ⟨by rw [Packet.foreign, hs, bne_self_eq_false], hd⟩

theorem State.enroute_port (hd : bits p.target 59 50 ≠ s.table.devnum) (hs : p.msg.src / 2 ^ 14 = s.table.devnum) (hv : p.via = none) {port : Nat}
    (hp : s.portTo p.device p.source p.core = some port) :
    s.enroute id p = some (if s.waitsBehind id p = true then s else { s with packets := s.packets.set id { p with via := some port } }) := by
  obtain ⟨hf, hdev⟩ := Packet.leaves_iff hd hs
  simp only [State.enroute, hf, hv, hp, Bool.false_eq_true, if_false, if_pos hdev]

theorem State.enroute_left (hd : bits p.target 59 50 ≠ s.table.devnum) (hs : p.msg.src / 2 ^ 14 = s.table.devnum)
    (hv : p.via ≠ none ∨ s.portTo p.device p.source p.core = none) : s.enroute id p = none := by
  obtain ⟨hf, hdev⟩ := Packet.leaves_iff hd hs
  simp only [State.enroute, hf, Bool.false_eq_true, if_false, if_pos hdev]
  rcases hv with hv | hp
  · obtain ⟨v, hv⟩ := Option.ne_none_iff_exists'.1 hv
    rw [hv]
  · rw [hp]
    cases p.via <;> rfl

end

/-! ## A packet to another device, R158, R400 -/

/-- An answer that R158 allows another device to give. -/
structure Packet.MayGet (p : Packet) (st gen q : Nat) : Prop where
  status : st = 0 ∧ 1 ≤ q ∨ st = 1 ∧ p.kind ≠ 2 ∨ st = 2 ∨ st = 3 ∧ p.kind ≠ 3 ∧ 128 < p.msg.len
  inbox : p.kind = 3 → gen = 0 ∧ q ≤ 32
  entry : p.kind ≠ 3 → q ≤ 16
  kept : p.kind ≠ 3 → p.gc = true → st ≠ 2 → gen = p.gen

section
variable {s : State} {id : Nat} {p : Packet}

/-- A number drawn between two bounds lies between them. -/
theorem drawn_between {lo hi : Nat} (h : lo ≤ hi) (v : Nat) : lo ≤ lo + v % (hi + 1 - lo) ∧ lo + v % (hi + 1 - lo) ≤ hi := by
  have := Nat.mod_lt v (show 0 < hi + 1 - lo by omega)
  omega

theorem Packet.waitingFor_le (p : Packet) (st : Nat) : (p.waitingFor st).1 ≤ (p.waitingFor st).2 ∧
    (p.kind = 3 → (p.waitingFor st).2 ≤ 32) ∧ (p.kind ≠ 3 → (p.waitingFor st).2 ≤ 16) := by
  unfold Packet.waitingFor
  by_cases hk : p.kind = 3
  · by_cases h2 : st = ansStale
    · subst h2
      simp [hk]
      decide
    · have : b2n (st == ansAccepted) ≤ inboxSize := by cases (st == ansAccepted) <;> decide
      simp [hk, h2, this]
      decide
  · have hle : b2n (st == ansAccepted) ≤ 8 := by cases (st == ansAccepted) <;> decide
    by_cases hb : st = ansAccepted ∧ p.msg.len > 128
    · simp [hk, hb]
      decide
    · simp [hk, hb]
      omega

theorem Packet.of_mem_mayAnswer {st : Nat} (h : some st ∈ p.mayAnswer) :
    st = 0 ∨ st = 1 ∧ p.kind ≠ 2 ∨ st = 2 ∨ st = 3 ∧ p.kind ≠ 3 ∧ 128 < p.msg.len := by
  unfold Packet.mayAnswer at h
  rcases List.mem_append.1 h with h | h
  · rcases List.mem_cons.1 h with h | h
    · exact .inl (Option.some.inj h)
    · rcases List.mem_cons.1 h with h | h
      · exact .inr (.inr (.inl (Option.some.inj h)))
      · have h := List.mem_singleton.1 h
        split at h
        · cases h
        next hk => exact .inr (.inl ⟨Option.some.inj h, hk⟩)
  · split at h
    next hb => exact .inr (.inr (.inr ⟨Option.some.inj (List.mem_singleton.1 h), hb⟩))
    · cases h

/-- A reply alone is dropped. -/
theorem Packet.reply_of_mem_mayAnswer (h : none ∈ p.mayAnswer) : p.kind = 2 := by
  unfold Packet.mayAnswer at h
  by_contra hk
  rw [if_neg hk] at h
  rcases List.mem_append.1 h with h | h
  · simp at h
  · split at h <;> simp at h

theorem Packet.mayGet_drawn {st : Nat} (hst : some st ∈ p.mayAnswer) (v w : Nat) :
    p.MayGet st (p.genFor st v) ((p.waitingFor st).1 + w % ((p.waitingFor st).2 + 1 - (p.waitingFor st).1)) := by
  obtain ⟨hle, hin, hen⟩ := p.waitingFor_le st
  obtain ⟨hlo, hhi⟩ := drawn_between hle w
  refine ⟨?_, fun hk => ⟨by simp [Packet.genFor, hk], hhi.trans (hin hk)⟩, fun hk => hhi.trans (hen hk), fun hk hg h2 => ?_⟩
  · rcases Packet.of_mem_mayAnswer hst with rfl | ⟨rfl, hk⟩ | rfl | h3
    · exact .inl ⟨rfl, hlo⟩
    · exact .inr (.inl ⟨rfl, hk⟩)
    · exact .inr (.inr (.inl rfl))
    · exact .inr (.inr (.inr h3))
  · unfold Packet.genFor
    rw [if_neg hk, if_pos ⟨hg, h2⟩]

end

/-! ## A packet at its target, R156, R158 -/

/-- A packet that is not decided yet, and whose turn at its target has come. -/
structure State.Reaches (s : State) (id : Nat) (p : Packet) : Prop where
  look : s.packets.look id = some p
  answer : p.answer = none
  nacked : p.nacked = false
  way : s.enroute id p = none
  turn : s.behind id p = false
  order : s.maySend id p = true

/-- What an answered packet's arrival does: the answer is on its way, and the target's core counts the message. -/
structure State.Decided (s t : State) (id : Nat) (p : Packet) (ev : Instr) (w : Nat) : Prop where
  packet : t.packets.look id = some { p with answer := some w }
  due : t.due = s.due.erase ev ++ [.answerArrival id]
  rcvd : (t.core p.core).rcvd.at p.msg.lid 0 = ((s.core p.core).rcvd.at p.msg.lid 0 + 1) % 2 ^ 32

/-- A packet as its NACK sends it back, R353. -/
def State.backed (s : State) (p : Packet) : Packet :=
  { p with nacked := true, remap := false, ready := s.now + (match p.at_ with
    | some (_, r) => (route r (routerOf (s.phys p.source))).length
    | none => 0) * meshLen }

theorem State.nack_backed (s : State) (id : Nat) (p : Packet) :
    s.nack id p false = ({ s with packets := s.packets.set id (s.backed p) } : State).push (.nackArrival id) := rfl

theorem State.look_answer (s : State) (id : Nat) (p : Packet) (w : Nat) : (s.answer id p w).packets.look id = some { p with answer := some w } :=
  Sp.look_set_self _ _ _

section
variable {s : State} {id : Nat} {p : Packet}

/-- A decision of another device, R158, or, for a reply alone, none. -/
theorem State.farAnswer_drawn (s : State) (hd : p.device < s.table.podsz) (hr : s.routes.at p.device [] ≠ []) : ∃ d,
    p.kind = 2 ∧ s.farAnswer p = (none, { s with draws := d }) ∨
    ∃ st gen q, p.MayGet st gen q ∧ s.farAnswer p = (some (answerWord st gen q p.retries), { s with draws := d }) := by
  have hc : ¬ (p.device ≥ s.table.podsz ∨ (s.routes.at p.device []).isEmpty) := by
    rintro (h | h)
    · exact absurd hd (Nat.not_lt.2 h)
    · exact hr (List.isEmpty_iff.1 h)
  unfold State.farAnswer
  rw [if_neg hc]
  refine ⟨s.draws + 1, ?_⟩
  show _ ∨ _
  generalize hv : Config.freeNat s.draws = v
  have hlen : v % p.mayAnswer.length < p.mayAnswer.length := Nat.mod_lt v (by unfold Packet.mayAnswer; simp)
  obtain ⟨x, hx⟩ : ∃ x, p.mayAnswer[v % p.mayAnswer.length]? = some x := ⟨_, List.getElem?_eq_getElem hlen⟩
  have hmem : x ∈ p.mayAnswer := List.mem_of_getElem? hx
  simp only [State.draw, hv, hx, Option.getD_some]
  cases x with
  | none => exact .inl ⟨Packet.reply_of_mem_mayAnswer hmem, rfl⟩
  | some st => exact .inr ⟨st, _, _, Packet.mayGet_drawn hmem _ _, rfl⟩

/-- Where no link leads to the target's device, the answer is STALE, R153, R400. -/
theorem State.farAnswer_nowhere (s : State) (h : s.table.podsz ≤ p.device ∨ s.routes.at p.device [] = []) :
    s.farAnswer p = (some (answerWord 2 0 0 p.retries), s) := by
  unfold State.farAnswer
  rw [if_pos (h.imp id fun h => List.isEmpty_iff.2 h)]
  rfl

theorem State.Reaches.travels_far (hr : s.Reaches id p) (hd : p.device ≠ s.table.devnum) {x : Option Nat} {t : State}
    (hf : (s.did (p.travels id)).farAnswer p = (x, t)) :
    exec (p.travels id) s = .next (x.elim (t.nack id p false) (t.answer id p)) := by
  obtain ⟨hl, ha, hn, hw, hb, ho⟩ := hr
  unfold Packet.travels at hf ⊢
  split
  next hk =>
    rw [if_pos hk] at hf
    rw [exec_engineCardArrival]
    unfold execEngineCardArrival
    simp only [hl, hk, ha, hn, hw, hb, ho, hd, hf, ne_eq, not_true_eq_false, not_false_eq_true, Option.isSome_none, Bool.false_eq_true, Bool.not_true, or_self, if_false, if_true]
    cases x <;> rfl
  next hk =>
    rw [if_neg hk] at hf
    rw [exec_messageArrival]
    unfold execMessageArrival
    simp only [hl, hk, ha, hn, hw, hb, ho, hd, hf, ne_eq, not_false_eq_true, Option.isSome_none, Bool.false_eq_true, Bool.not_true, or_self, if_false, if_true]
    cases x <;> rfl

theorem State.Reaches.messageArrival_answered (hr : s.Reaches id p) (hk : p.kind ≠ 3) (hd : p.device = s.table.devnum)
    (hadm : s.admits p.core false p.chan p.msg = true) {st q : Nat} (hj : s.judge p.core p.chan p = (some st, q)) (h0 : st ≠ 0) :
    exec (.messageArrival id) s = .next (((s.did (.messageArrival id)).countRcvd p.core p.msg.lid).answer id p
      (answerWord st (s.handler p.core p.chan).gen q p.retries)) := by
  obtain ⟨hl, ha, hn, hw, hb, ho⟩ := hr
  rw [exec_messageArrival]
  unfold execMessageArrival
  simp only [hl, hk, ha, hn, hw, hb, ho, hd, hadm, hj, ansAccepted, h0, ne_eq, not_true_eq_false, Option.isSome_none, Bool.false_eq_true, Bool.not_true,
    or_self, if_false]

theorem State.Reaches.messageArrival_dropped (hr : s.Reaches id p) (hk : p.kind ≠ 3) (hd : p.device = s.table.devnum)
    (hadm : s.admits p.core false p.chan p.msg = true) {q : Nat} (hj : s.judge p.core p.chan p = (none, q)) :
    exec (.messageArrival id) s = .next ((s.did (.messageArrival id)).nack id p false) := by
  obtain ⟨hl, ha, hn, hw, hb, ho⟩ := hr
  rw [exec_messageArrival]
  unfold execMessageArrival
  simp only [hl, hk, ha, hn, hw, hb, ho, hd, hadm, hj, ne_eq, not_true_eq_false, Option.isSome_none, Bool.false_eq_true, Bool.not_true,
    or_self, if_false]

theorem State.Reaches.messageArrival_accepted (hr : s.Reaches id p) (hk : p.kind ≠ 3) (hd : p.device = s.table.devnum)
    (hadm : s.admits p.core false p.chan p.msg = true) {q : Nat} (hj : s.judge p.core p.chan p = (some 0, q)) :
    exec (.messageArrival id) s = .next ((((s.did (.messageArrival id)).countRcvd p.core p.msg.lid).deliverMsg p.core p.chan p.msg).answer id p
      (answerWord 0 (s.handler p.core p.chan).gen q p.retries)) := by
  obtain ⟨hl, ha, hn, hw, hb, ho⟩ := hr
  rw [exec_messageArrival]
  unfold execMessageArrival
  simp only [hl, hk, ha, hn, hw, hb, ho, hd, hadm, hj, ansAccepted, ne_eq, not_true_eq_false, Option.isSome_none, Bool.false_eq_true, Bool.not_true,
    or_self, if_false, if_true]

end

/-! ## What an entry decides, R158 -/

/-- A message that an entry may take, where it is neither halted nor full. -/
structure State.Fits (s : State) (c ch : Nat) (p : Packet) : Prop where
  gen : p.gc = true → p.gen = (s.handler c ch).gen
  mode : (s.handler c ch).mode ≠ 0
  kept : s.abortedEntry c (s.handler c ch) = false
  ctx : (s.handler c ch).ctx = p.msg.ctx
  world : (s.ctx (s.handler c ch).ctx).s = p.msg.world

section
variable {s : State} {c ch n q : Nat} {p : Packet}

theorem State.judge_gen (hg : p.gc = true) (hn : p.gen ≠ (s.handler c ch).gen) : ∃ q, s.judge c ch p = (some 2, q) := by
  unfold State.judge
  exact ⟨_, if_pos ⟨hg, hn⟩⟩

theorem State.judge_stale (h : (s.handler c ch).mode = 0 ∨ s.abortedEntry c (s.handler c ch) = true ∨ (s.handler c ch).ctx ≠ p.msg.ctx ∨
    (s.ctx (s.handler c ch).ctx).s ≠ p.msg.world) : ∃ q, s.judge c ch p = (some 2, q) := by
  by_cases hg : p.gc = true ∧ p.gen ≠ (s.handler c ch).gen
  · exact State.judge_gen hg.1 hg.2
  unfold State.judge
  simp only
  rw [if_neg hg]
  by_cases hm : (s.handler c ch).mode = 0 ∨ s.abortedEntry c (s.handler c ch) = true
  · exact ⟨_, if_pos hm⟩
  · rw [if_neg hm]
    exact ⟨_, if_pos (h.elim (fun h => absurd (.inl h) hm) fun h => h.elim (fun h => absurd (.inr h) hm) id)⟩

/-- An entry of another message is decided by its mode alone. -/
theorem State.Fits.not_stale (h : s.Fits c ch p) : ¬ (p.gc = true ∧ p.gen ≠ (s.handler c ch).gen) ∧
    ¬ ((s.handler c ch).mode = 0 ∨ s.abortedEntry c (s.handler c ch) = true) ∧
    ¬ ((s.handler c ch).ctx ≠ p.msg.ctx ∨ (s.ctx (s.handler c ch).ctx).s ≠ p.msg.world) := by
  obtain ⟨hg, hm, hk, hc, hw⟩ := h
  exact ⟨fun h => h.2 (hg h.1), not_or.2 ⟨hm, Bool.eq_false_iff.1 hk⟩, not_or.2 ⟨not_not.2 hc, not_not.2 hw⟩⟩

theorem State.Fits.judge_mailbox (h : s.Fits c ch p) (hm : (s.handler c ch).mode = 1) (hp : s.portTask c ch = none) :
    s.judge c ch p = if s.haltedCtx (s.handler c ch).ctx = true ∨ 8 ≤ (s.handler c ch).mail.length
      then (if p.kind = 2 then none else some 1, (s.handler c ch).mail.length) else (some 0, (s.handler c ch).mail.length + 1) := by
  obtain ⟨h1, h2, h3⟩ := h.not_stale
  unfold State.judge
  simp only
  rw [if_neg h1, if_neg h2, if_neg h3, if_neg (by rw [hm]; decide), hp]
  rfl

theorem State.Fits.judge_unbound (h : s.Fits c ch p) (hm : (s.handler c ch).mode = 2) (hp : s.portTask c ch = none) :
    s.judge c ch p = (some 2, 0) := by
  obtain ⟨h1, h2, h3⟩ := h.not_stale
  unfold State.judge
  simp only
  rw [if_neg h1, if_neg h2, if_neg h3, if_pos hm, hp]
  rfl

theorem State.Fits.judge_port (h : s.Fits c ch p) (hm : (s.handler c ch).mode = 2) (hp : s.portTask c ch = some (n, q)) :
    s.judge c ch p = if 128 < p.msg.len then (some 3, ((s.slot c n).port q).fifo.length)
      else if s.haltedCtx (s.handler c ch).ctx = true ∨ (!s.portRoom c ((s.slot c n).port q)) = true
      then (if p.kind = 2 then none else some 1, ((s.slot c n).port q).fifo.length) else (some 0, ((s.slot c n).port q).fifo.length + 1) := by
  obtain ⟨h1, h2, h3⟩ := h.not_stale
  unfold State.judge
  simp only
  rw [if_neg h1, if_neg h2, if_neg h3, if_pos hm, hp]
  rfl

end

/-! ## What a decision leaves, R128, R154 -/

section
variable (s : State) (id : Nat) (p : Packet) (ev : Instr) (w : Nat)

theorem State.decided_answer : s.Decided (((s.did ev).countRcvd p.core p.msg.lid).answer id p w) id p ev w where
  packet := State.look_answer _ _ _ _
  due := rfl
  rcvd := by
    show (((s.did ev).countRcvd p.core p.msg.lid).core p.core).rcvd.at p.msg.lid 0 = _
    rw [State.core_countRcvd_self]
    exact Sp.at_put_self _ _ _ _

theorem State.slot_decided (c n : Nat) : (((s.did ev).countRcvd p.core p.msg.lid).answer id p w).slot c n = s.slot c n :=
  State.slot_countRcvd _ _ _ _ _

theorem State.bytes_decided : BytesKept (fun _ => False) s (((s.did ev).countRcvd p.core p.msg.lid).answer id p w) := fun _ hk _ =>
  State.byte_congr (s := ((s.did ev).countRcvd p.core p.msg.lid).answer id p w) (t := s) rfl hk

theorem State.handler_decided (c n : Nat) : (((s.did ev).countRcvd p.core p.msg.lid).answer id p w).handler c n = s.handler c n :=
  State.handler_countRcvd _ _ _ _ _

end

/-- A message accepted into a mailbox, R128. -/
theorem State.deliverMsg_mailbox {s : State} {c ch : Nat} {m : Msg} (hm : (s.handler c ch).mode = 1) :
    s.deliverMsg c ch m = (s.updHandler c ch (fun h => { h with mail := h.mail ++ [m], since := if (s.handler c ch).mail = [] then s.now else (s.handler c ch).since })).pushOnce
      (.taskSelection c) := by
  unfold State.deliverMsg
  simp only [hm, List.isEmpty_iff, show ¬ (1 = 2) by decide, if_false]

/-- A message accepted behind a port, R158. -/
theorem State.deliverMsg_port {s : State} {c ch n q : Nat} {m : Msg} (hm : (s.handler c ch).mode = 2) (hp : s.portTask c ch = some (n, q)) :
    s.deliverMsg c ch m = s.updSlot c n (fun x =>
      x.setPort q { x.port q with fifo := (x.port q).fifo ++ [{ v := BitVec.ofNat 1024 m.body, tag := m.tag0, lid := m.lid }] }) := by
  unfold State.deliverMsg
  simp only [hm, hp, if_true]

theorem State.handler_updHandler_self (s : State) (c ch : Nat) (f : Handler → Handler) : (s.updHandler c ch f).handler c ch = f (s.handler c ch) := by
  unfold State.updHandler State.handler
  rw [State.core_updCore_self]
  exact Sp.at_set_self _ _ _ _

theorem State.handler_updHandler_ne (s : State) (c : Nat) {ch k : Nat} (h : ch ≠ k) (f : Handler → Handler) : (s.updHandler c ch f).handler c k = s.handler c k := by
  unfold State.updHandler State.handler
  rw [State.core_updCore_self]
  exact Sp.at_set_ne _ h _ _

theorem State.handler_pushOnce (s : State) (i : Instr) (c n : Nat) : (s.pushOnce i).handler c n = s.handler c n := by
  obtain ⟨d, hd⟩ := State.pushOnce_ex s i
  rw [hd]
  rfl

theorem State.handler_answer (s : State) (id : Nat) (p : Packet) (w c n : Nat) : (s.answer id p w).handler c n = s.handler c n := rfl

theorem State.portTask_countRcvd (s : State) (c l ch : Nat) : (s.countRcvd c l).portTask c ch = s.portTask c ch := by
  unfold State.portTask
  simp only [State.slot_countRcvd]
  rw [State.core_countRcvd_self]
  rfl

section
variable {s : State} {id : Nat} {p : Packet}

/-- A message accepted into a mailbox starts a handler's task, in time, R128. -/
theorem State.mailbox_answer (s : State) (ev : Instr) (w : Nat) (hm : (s.handler p.core p.chan).mode = 1) :
    let h := s.handler p.core p.chan
    let t := (((s.did ev).countRcvd p.core p.msg.lid).deliverMsg p.core p.chan p.msg).answer id p w
    t.packets.look id = some { p with answer := some w } ∧
    t.handler p.core p.chan = { h with mail := h.mail ++ [p.msg], since := if h.mail = [] then s.now else h.since } ∧
    (∀ k, k ≠ p.chan → t.handler p.core k = s.handler p.core k) ∧ Instr.taskSelection p.core ∈ t.due ∧ Instr.answerArrival id ∈ t.due := by
  intro h t
  have hh : ∀ k, ((s.did ev).countRcvd p.core p.msg.lid).handler p.core k = s.handler p.core k := State.handler_countRcvd _ _ _ _
  have ht : t = ((((s.did ev).countRcvd p.core p.msg.lid).updHandler p.core p.chan (fun h' => { h' with
      mail := h'.mail ++ [p.msg], since := if h.mail = [] then s.now else h.since })).pushOnce (.taskSelection p.core)).answer id p w := by
    show State.answer _ id p w = State.answer _ id p w
    rw [State.deliverMsg_mailbox (by rw [hh]; exact hm), hh]
    rfl
  refine ⟨State.look_answer _ _ _ _, ?_, fun k hk => ?_, ?_, List.mem_append_right _ (List.mem_singleton_self _)⟩
  · rw [ht, State.handler_answer, State.handler_pushOnce, State.handler_updHandler_self, hh]
  · rw [ht, State.handler_answer, State.handler_pushOnce, State.handler_updHandler_ne _ _ (Ne.symm hk), hh]
  · rw [ht]
    exact List.mem_append_left _ (State.mem_due_pushOnce _ _)

/-- A message accepted behind a port joins its entries, R158. -/
theorem State.port_answer (s : State) (ev : Instr) (w : Nat) {n q : Nat} (hm : (s.handler p.core p.chan).mode = 2)
    (hp : s.portTask p.core p.chan = some (n, q)) :
    let t := (((s.did ev).countRcvd p.core p.msg.lid).deliverMsg p.core p.chan p.msg).answer id p w
    s.Decided t id p ev w ∧
    ((t.slot p.core n).port q).fifo = ((s.slot p.core n).port q).fifo ++ [{ v := BitVec.ofNat 1024 p.msg.body, tag := p.msg.tag0, lid := p.msg.lid }] := by
  intro t
  have hdel := State.deliverMsg_port (s := (s.did ev).countRcvd p.core p.msg.lid) (c := p.core) (ch := p.chan) (n := n) (q := q) (m := p.msg)
    (by rw [State.handler_countRcvd]; exact hm) (by rw [State.portTask_countRcvd]; exact hp)
  have ht : t = State.answer _ id p w := congrArg (fun u => State.answer u id p w) hdel
  rw [ht]
  refine ⟨⟨State.look_answer _ _ _ _, rfl, ?_⟩, ?_⟩
  · show ((State.setSlot _ p.core n _).core p.core).rcvd.at p.msg.lid 0 = _
    rw [State.core_setSlot_self]
    exact s.decided_answer id p ev w |>.rcvd
  · show (((State.setSlot _ p.core n _).slot p.core n).port q).fifo = _
    rw [State.slot_setSlot_self, State.slot_countRcvd]
    show ((Sp.set _ q (_ : Port)).at q {}).fifo = _
    rw [Sp.at_set_self]
    rfl

end

/-! ## Cards at an engine's inbox, R264, R266 -/

section
variable {s : State} {id : Nat} {p : Packet}

/-- The job of a card that an inbox takes, R266. -/
def State.cardJob (s : State) (p : Packet) : Job :=
  { id := s.serial, card := p.msg.card, engine := engineId p.core (bits p.target 9 8), core := p.core, bySend := true,
    valid := bits p.target 9 8 != 2 && s.cardValid ⟨p.core, p.msg.ctx, (s.ctx p.msg.ctx).part, p.msg.world, false, .job 0⟩ p.msg, ctx := p.msg.ctx,
    part := (s.ctx p.msg.ctx).part, world := p.msg.world, lid := p.msg.lid, launch := s.launchOf p.msg.lid }

/-- The state in which an inbox has taken a card. -/
def State.takeCard (s : State) (id : Nat) (p : Packet) : State :=
  let t := (s.did (.engineCardArrival id)).countRcvd p.core p.msg.lid
  ({ t with serial := t.serial + 1, jobs := t.jobs.set s.serial (s.cardJob p) } : State).push (.jobStart s.serial)

theorem State.due_takeCard (s : State) (id : Nat) (p : Packet) :
    (s.takeCard id p).due = s.due.erase (.engineCardArrival id) ++ [.jobStart s.serial] := rfl

theorem State.jobs_takeCard (s : State) (id : Nat) (p : Packet) : (s.takeCard id p).jobs = s.jobs.set s.serial (s.cardJob p) := rfl

theorem State.Reaches.card_taken (hr : s.Reaches id p) (hk : p.kind = 3) (hd : p.device = s.table.devnum)
    (hadm : s.admits p.core true 0 p.msg = true) (hn : if isBig p.core = true then bits p.target 9 8 ≤ 2 else bits p.target 9 8 = 0)
    (hh : s.haltedCtx p.msg.ctx = false) (hc : s.sendCards (engineId p.core (bits p.target 9 8)) < 16)
    (hi : s.inboxLen (engineId p.core (bits p.target 9 8)) < 32) :
    exec (.engineCardArrival id) s = .next ((s.takeCard id p).answer id p
      (answerWord 0 0 (s.inboxLen (engineId p.core (bits p.target 9 8)) + 1) p.retries)) := by
  obtain ⟨hl, ha, hnk, hw, hb, ho⟩ := hr
  have hno : ¬ ((!s.admits p.core true 0 p.msg) = true ∨ if isBig p.core = true then bits p.target 9 8 > 2 else bits p.target 9 8 ≠ 0) := by
    rw [hadm]
    split at hn <;> simp_all
  have hroom : ¬ (s.haltedCtx p.msg.ctx = true ∨ s.sendCards (engineId p.core (bits p.target 9 8)) ≥ 16 ∨
      s.inboxLen (engineId p.core (bits p.target 9 8)) ≥ inboxSize) := by
    rw [hh]
    exact not_or.2 ⟨Bool.false_ne_true, not_or.2 ⟨Nat.not_le.2 hc, Nat.not_le.2 hi⟩⟩
  rw [exec_engineCardArrival]
  unfold execEngineCardArrival
  simp only [hl, hk, ha, hnk, hw, hb, ho, hd, ne_eq, not_true_eq_false, Option.isSome_none, Bool.false_eq_true, Bool.not_true, or_self, if_false,
    if_neg hno, if_neg hroom]
  rfl

end

/-! ## Packets sent again, R353 to R355 -/

section
variable {s : State} {id : Nat} {p : Packet}

theorem packetDiscard_drops (hl : s.packets.look id = some p) (ha : p.answer = none) (hn : p.nacked = false) (he : p.escape = false)
    (hv : p.at_ ≠ none ∨ p.via ≠ none) :
    exec (.packetDiscard id) s = .next (((s.did (.messageArrival id)).did (.engineCardArrival id)).nack id p false) := by
  have hgo : ¬ (p.answer.isSome = true ∨ p.nacked = true ∨ p.escape = true ∨ p.at_.isNone = true ∧ p.via.isNone = true) := by
    rw [ha, hn, he]
    rintro (h | h | h | ⟨h, h'⟩)
    · cases h
    · cases h
    · cases h
    · exact hv.elim (fun k => k (Option.isNone_iff_eq_none.1 h)) fun k => k (Option.isNone_iff_eq_none.1 h')
  rw [exec_packetDiscard]
  unfold execPacketDiscard
  simp only [hl]
  rw [if_neg hgo]

theorem packetDiscard_waits (hl : s.packets.look id = some p) (h : p.escape = true ∨ p.at_ = none ∧ p.via = none) : Waits (.packetDiscard id) s := by
  have hgo : p.answer.isSome = true ∨ p.nacked = true ∨ p.escape = true ∨ p.at_.isNone = true ∧ p.via.isNone = true :=
    .inr (.inr (h.imp_right fun ⟨h1, h2⟩ => ⟨by rw [h1]; rfl, by rw [h2]; rfl⟩))
  unfold Waits
  rw [exec_packetDiscard]
  unfold execPacketDiscard
  simp only [hl]
  rw [if_pos hgo]

/-- A NACK at its source, before its time, and with and without a remap mark, R354, R355, R363. -/
theorem nackArrival_waits (hl : s.packets.look id = some p) (hn : p.nacked = true) (hb : p.backoff = none) (hr : s.now < p.ready) :
    Waits (.nackArrival id) s := by
  unfold Waits
  rw [exec_nackArrival]
  unfold execNackArrival
  simp only [hl, hn, hb, hr, Bool.not_true, Bool.false_eq_true, Option.isSome_none, or_self, if_false, if_true]

theorem nackArrival_remaps (hl : s.packets.look id = some p) (hn : p.nacked = true) (hb : p.backoff = none) (hr : p.ready ≤ s.now) (hm : p.remap = true) :
    exec (.nackArrival id) s = .next (({ s.did (.nackArrival id) with packets := s.packets.set id { p with nacked := false, remap := false, at_ := none } } : State).push
      (p.travels id)) := by
  rw [exec_nackArrival]
  unfold execNackArrival
  simp only [hl, hn, hb, hm, if_neg (Nat.not_lt.2 hr), Bool.not_true, Bool.false_eq_true, Option.isSome_none, or_self, if_false, if_true]
  rfl

theorem nackArrival_backs_off (hl : s.packets.look id = some p) (hn : p.nacked = true) (hb : p.backoff = none) (hr : p.ready ≤ s.now) (hm : p.remap = false) :
    exec (.nackArrival id) s = .next (({ s.did (.nackArrival id) with draws := s.draws + 1, packets := s.packets.set id { p with
      retries := p.retries + 1, backoff := some (s.now + (s.nackWait p.source (p.retries + 1)).1), escape := decide (p.retries + 1 ≥ 8), at_ := none, via := none } } : State).push
      (.backoffExpiry id)) := by
  rw [exec_nackArrival]
  unfold execNackArrival
  simp only [hl, hn, hb, hm, if_neg (Nat.not_lt.2 hr), Bool.not_true, Bool.false_eq_true, Option.isSome_none, or_self, if_false]
  rfl

/-- The wait of R355, with its free part. -/
theorem State.nackWait_eq (s : State) (c n : Nat) : ∃ j, j < 32 ∧ (s.nackWait c n).1 = (32 * 2 ^ (min n 8 - 1) + j) * cycleLen (coreX (s.phys c)) :=
  ⟨_, Nat.mod_lt _ (by decide), rfl⟩

theorem backoffExpiry_waits (hl : s.packets.look id = some p) {w : Nat} (hb : p.backoff = some w) (hw : s.now < w) : Waits (.backoffExpiry id) s := by
  unfold Waits
  rw [exec_backoffExpiry]
  unfold execBackoffExpiry
  simp only [hl, hb, hw, if_true]

theorem backoffExpiry_resends (hl : s.packets.look id = some p) {w : Nat} (hb : p.backoff = some w) (hw : w ≤ s.now) (ha : p.answer = none) :
    exec (.backoffExpiry id) s = .next (({ s.did (.backoffExpiry id) with packets := s.packets.set id { p with nacked := false, backoff := none, at_ := none, via := none } } : State).push
      (p.travels id)) := by
  have hsame : ({ p with nacked := false, backoff := none, answer := none, at_ := none, via := none, retries := p.retries, escape := p.escape && !false } : Packet) =
      { p with nacked := false, backoff := none, answer := none, at_ := none, via := none } := by
    rw [Bool.not_false, Bool.and_true]
  rw [exec_backoffExpiry]
  unfold execBackoffExpiry
  simp only [hl, hb, if_neg (Nat.not_lt.2 hw), ha, Option.isSome_none, Bool.false_eq_true, false_and, if_false]
  exact congrArg (fun q => Host.Outcome.next (({ s.did (.backoffExpiry id) with packets := s.packets.set id q } : State).push (p.travels id))) hsame

/-- A refused launch message whose launch stops is gone, R412. -/
theorem backoffExpiry_ends (hl : s.packets.look id = some p) {w v : Nat} (hb : p.backoff = some w) (hw : w ≤ s.now) (ha : p.answer = some v)
    (hs : s.stopping p.launchMsg = true) : exec (.backoffExpiry id) s = .next ((s.did (.backoffExpiry id)).lastMessage id p) := by
  rw [exec_backoffExpiry]
  unfold execBackoffExpiry
  simp only [hl, hb, if_neg (Nat.not_lt.2 hw), ha, hs, Option.isSome_some, and_self, if_true]

theorem backoffExpiry_full (hl : s.packets.look id = some p) {w v : Nat} (hb : p.backoff = some w) (hw : w ≤ s.now) (ha : p.answer = some v)
    (hs : s.stopping p.launchMsg = false) (hf : 32 ≤ (s.core p.source).retx.length) : Waits (.backoffExpiry id) s := by
  unfold Waits
  rw [exec_backoffExpiry]
  unfold execBackoffExpiry
  simp only [hl, hb, if_neg (Nat.not_lt.2 hw), ha, hs, hf, Option.isSome_some, Bool.false_eq_true, and_false, and_self, if_false, if_true]

/-- The state in which a refused launch message is sent again, R143. -/
def State.sendAgain (s : State) (id : Nat) (p : Packet) : State :=
  let t := ((s.did (.backoffExpiry id)).countSent p.source p.ownLid).updCore p.source (fun k => { k with retx := k.retx ++ [id] })
  ({ t with packets := s.packets.set id { p with
    nacked := false, backoff := none, answer := none, at_ := none, via := none, retries := 0, escape := false } } : State).push (p.travels id)

theorem State.look_sendAgain (s : State) (id : Nat) (p : Packet) : (s.sendAgain id p).packets.look id = some { p with
    nacked := false, backoff := none, answer := none, at_ := none, via := none, retries := 0, escape := false } := Sp.look_set_self _ _ _

theorem State.mem_due_sendAgain (s : State) (id : Nat) (p : Packet) : p.travels id ∈ (s.sendAgain id p).due :=
  List.mem_append_right _ (List.mem_singleton_self _)

theorem State.retx_sendAgain (s : State) (id : Nat) (p : Packet) : ((s.sendAgain id p).core p.source).retx = (s.core p.source).retx ++ [id] := by
  have h : (s.sendAgain id p).cores = (((s.did (.backoffExpiry id)).countSent p.source p.ownLid).updCore p.source
    (fun k => { k with retx := k.retx ++ [id] })).cores := rfl
  rw [State.core_congr h, State.core_updCore_self, State.core_countSent_self]
  rfl

/-- A refused launch message sent again takes a new entry of the retransmit buffer, R143. -/
theorem backoffExpiry_again (hl : s.packets.look id = some p) {w v : Nat} (hb : p.backoff = some w) (hw : w ≤ s.now) (ha : p.answer = some v)
    (hs : s.stopping p.launchMsg = false) (hf : (s.core p.source).retx.length < 32) :
    exec (.backoffExpiry id) s = .next (s.sendAgain id p) := by
  have hesc : (p.escape && !true) = false := by rw [Bool.not_true, Bool.and_false]
  rw [exec_backoffExpiry]
  unfold execBackoffExpiry
  simp only [hl, hb, if_neg (Nat.not_lt.2 hw), ha, hs, if_neg (Nat.not_le.2 hf), ge_iff_le, Option.isSome_some, Bool.false_eq_true, and_false, true_and, if_false, if_true,
    hesc]
  rfl

end

/-! ## Answers at the sender, R143, R154 -/

section
variable {s : State} {id w : Nat} {p : Packet}

theorem State.freeCopy_local (s : State) (hs : p.msg.src / 2 ^ 14 = s.table.devnum) :
    s.freeCopy id p = s.updCore p.source (fun k => { k with retx := k.retx.erase id }) := if_pos hs

theorem State.dropPacket_local (s : State) (hs : p.msg.src / 2 ^ 14 = s.table.devnum) :
    s.dropPacket id p = ({ s with packets := s.packets.drop id } : State).updCore p.source (fun k => { k with retx := k.retx.erase id }) := if_pos hs

theorem State.lastMessage_launch (s : State) {l : Nat} (hl : p.launchMsg = some l) (hs : p.msg.src / 2 ^ 14 = s.table.devnum) :
    s.lastMessage id p = (({ s with packets := s.packets.drop id } : State).updCore p.source (fun k => { k with retx := k.retx.erase id })).pushOnce
      (.launchMessageSend l) := by
  unfold State.lastMessage
  rw [State.dropPacket_local s hs, hl]

theorem State.lastMessage_task (s : State) (hl : p.launchMsg = none) (hs : p.msg.src / 2 ^ 14 = s.table.devnum) :
    s.lastMessage id p = ({ s with packets := s.packets.drop id } : State).updCore p.source (fun k => { k with retx := k.retx.erase id }) := by
  unfold State.lastMessage
  rw [State.dropPacket_local s hs, hl]

/-- The next turn of a refused launch message, R143. -/
theorem answerArrival_refused (hl : s.packets.look id = some p) (ha : p.answer = some w) (hb : p.backoff = none) (hq : p.queue = none)
    (hm : p.launchMsg.isSome = true) (hr : bits w 63 48 = 1) (hs : s.stopping p.launchMsg = false) (hloc : p.msg.src / 2 ^ 14 = s.table.devnum) :
    exec (.answerArrival id) s = .next (({ (s.did (.answerArrival id)).updCore p.source (fun k => { k with retx := k.retx.erase id }) with
      draws := s.draws + 1,
      packets := s.packets.set id { p with refused := p.refused + 1, backoff := some (s.now + (s.nackWait p.source (p.refused + 1)).1) } } : State).push
        (.backoffExpiry id)) := by
  rw [exec_answerArrival]
  unfold execAnswerArrival
  simp only [hl, ha, hb, hq, hm, hr, hs, ansRefused, Option.isSome_none, Bool.false_eq_true, Bool.not_false, and_self, if_false, if_true]
  rw [State.freeCopy_local _ (show p.msg.src / 2 ^ 14 = (s.did (.answerArrival id)).table.devnum from hloc)]
  rfl

/-- An answer that ends a packet of a launch alone. -/
theorem answerArrival_ends (hl : s.packets.look id = some p) (ha : p.answer = some w) (hb : p.backoff = none) (hq : p.queue = none)
    (hr : ¬ (p.launchMsg.isSome = true ∧ bits w 63 48 = 1 ∧ (!s.stopping p.launchMsg) = true)) (ht : p.task = none) :
    exec (.answerArrival id) s = .next ((s.did (.answerArrival id)).lastMessage id p) := by
  rw [exec_answerArrival]
  unfold execAnswerArrival
  simp only [hl, ha, hb, hq, ht, ansRefused, ite_self, Option.isSome_none, Bool.false_eq_true, if_false]
  rw [if_neg hr]

/-- What an answer leaves of the task that waits for it. -/
def Slot.answered (x : Slot) (id w : Nat) (p : Packet) : Slot :=
  let y := { x with stc := x.stc - 1, board := x.board.filter (fun b => b.2 != id) }
  if p.kind = 0 then y else y.land (fun a => a.setScalar p.dest w)

/-- An answer that ends a packet of a task ends what waits for it there. -/
theorem answerArrival_answers (hl : s.packets.look id = some p) (ha : p.answer = some w) (hb : p.backoff = none) (hq : p.queue = none)
    (hm : p.launchMsg = none) (hk : p.kind ≠ 2) {r : TaskRef} (ht : p.task = some r) :
    exec (.answerArrival id) s = .next (((s.did (.answerArrival id)).lastMessage id p).updTask r (fun x => x.answered id w p)) := by
  rw [exec_answerArrival]
  unfold execAnswerArrival
  simp only [hl, ha, hb, hq, ht, hm, hk, Option.isSome_none, Bool.false_eq_true, false_and, if_false, Slot.answered]

/-- The source of a task's packet. -/
theorem Packet.source_of (p : Packet) {d c : Nat} (h : p.msg.src = d * 2 ^ 14 + c) (hc : c < 2 ^ 14) : p.source = c ∧ p.msg.src / 2 ^ 14 = d := by
  unfold Packet.source
  rw [h]
  omega

/-- A task's answer: STC falls, its copy is freed, and, but for a posted message, its status word is written, R154, R155. -/
theorem answerArrival_task (hl : s.packets.look id = some p) (ha : p.answer = some w) (hb : p.backoff = none) (hq : p.queue = none)
    (hm : p.launchMsg = none) (hk : p.kind ≠ 2) {r : TaskRef} (ht : p.task = some r) (hlive : s.alive r = true)
    (hsrc : p.msg.src = s.table.devnum * 2 ^ 14 + r.core) (hc : r.core < 2 ^ 14) :
    let x := s.slot r.core r.slot
    let y : Slot := { x with stc := x.stc - 1, board := x.board.filter (fun b => b.2 != id) }
    ∃ t, exec (.answerArrival id) s = .next t ∧ t.packets = s.packets.drop id ∧
      (t.core r.core).retx = (s.core r.core).retx.erase id ∧
      t.slot r.core r.slot = if p.kind = 0 then y else y.land (fun a => a.setScalar p.dest w) := by
  intro x y
  obtain ⟨hs, hdev⟩ := p.source_of hsrc hc
  have hlast := State.lastMessage_task (id := id) (s.did (.answerArrival id)) hm hdev
  rw [hs] at hlast
  generalize hu : (s.did (.answerArrival id)).lastMessage id p = u at hlast
  have hcore : u.core r.core = { s.core r.core with retx := (s.core r.core).retx.erase id } := by
    rw [hlast, State.core_updCore_self]
    rfl
  have hslot : u.slot r.core r.slot = x := by
    unfold State.slot
    rw [hcore]
    rfl
  have halive : u.alive r = true := by
    unfold State.alive at hlive ⊢
    rw [hslot]
    exact hlive
  have hrun := answerArrival_answers hl ha hb hq hm hk ht
  rw [hu] at hrun
  refine ⟨_, hrun, ?_, ?_, ?_⟩
  · unfold State.updTask
    rw [if_pos halive]
    show u.packets = _
    rw [hlast]
    rfl
  · unfold State.updTask State.updSlot
    rw [if_pos halive, State.core_setSlot_self, hcore]
    rfl
  · unfold State.updTask State.updSlot
    rw [if_pos halive, State.slot_setSlot_self, hslot]
    rfl

end

/-- An answer that a queue's packet waits for, R396. -/
theorem answerArrival_queue {s : State} {id w : Nat} {p : Packet} (hl : s.packets.look id = some p) (ha : p.answer = some w) (hb : p.backoff = none)
    (hq : p.queue ≠ none) (hs : p.msg.src / 2 ^ 14 = s.table.devnum) : Does (.answerArrival id) (fun u =>
      { u.updCore p.source (fun k => { k with retx := k.retx.erase id }) with packets := u.packets.set id { p with arrived := true } }) s := by
  unfold Does
  rw [exec_answerArrival]
  unfold execAnswerArrival
  simp only [hl]
  generalize ({ p with arrived := true } : Packet) = p'
  simp only [ha, hb, Option.isSome_iff_ne_none.2 hq, Option.isSome_none, Bool.false_eq_true, if_false, if_true]
  exact congrArg Host.Outcome.next (State.freeCopy_local { s.did (.answerArrival id) with packets := s.packets.set id p' } hs)

/-! ## The messages' events -/

section
variable {s : State} {id : Nat} {p : Packet}

/-- A packet that another device decides, R158, R400. -/
theorem State.Reaches.decided_far (hr : s.Reaches id p) (hd : p.device ≠ s.table.devnum) (hp : p.device < s.table.podsz)
    (hroute : s.routes.at p.device [] ≠ []) :
    ∃ t, exec (p.travels id) s = .next t ∧
      (p.kind = 2 ∧ t.packets.look id = some (s.backed p) ∧ Instr.nackArrival id ∈ t.due ∨
        ∃ st gen q, p.MayGet st gen q ∧ t.packets.look id = some { p with answer := some (answerWord st gen q p.retries) } ∧ Instr.answerArrival id ∈ t.due) := by
  obtain ⟨d, ⟨hk, hf⟩ | ⟨st, gen, q, hg, hf⟩⟩ := State.farAnswer_drawn (s.did (p.travels id)) (p := p) hp hroute
  · exact ⟨_, hr.travels_far hd hf, .inl ⟨hk, Sp.look_set_self _ _ _, List.mem_append_right _ (List.mem_singleton_self _)⟩⟩
  · exact ⟨_, hr.travels_far hd hf, .inr ⟨st, gen, q, hg, State.look_answer _ id p _, List.mem_append_right _ (List.mem_singleton_self _)⟩⟩

/-- What an arrival that an entry answers, without taking the message, leaves as it is. -/
theorem State.Reaches.decides (hr : s.Reaches id p) (hk : p.kind ≠ 3) (hd : p.device = s.table.devnum)
    (hadm : s.admits p.core false p.chan p.msg = true) {st q : Nat} (hj : s.judge p.core p.chan p = (some st, q)) (h0 : st ≠ 0) :
    ∃ t, exec (.messageArrival id) s = .next t ∧ s.Decided t id p (.messageArrival id) (answerWord st (s.handler p.core p.chan).gen q p.retries) ∧
      BytesKept (fun _ => False) s t ∧ (∀ c n, t.slot c n = s.slot c n) ∧ ∀ c n, t.handler c n = s.handler c n :=
  ⟨_, hr.messageArrival_answered hk hd hadm hj h0, State.decided_answer _ _ _ _ _, State.bytes_decided _ _ _ _ _, State.slot_decided _ _ _ _ _,
    State.handler_decided _ _ _ _ _⟩

end

/-- Settles O43: the routes are R351's, and each event is decided by the packet's place, its entry and its answer. -/
theorem messageEvents : Obligations.MessageEvents := by
  unfold Obligations.MessageEvents
  refine ⟨fun a b ap ax ay az bp bx by_ bz => ?_, fun s id p hl => ?_⟩
  · have ha : a.legal := ⟨ap, ax, ay⟩
    have hb : b.legal := ⟨bp, bx, by_⟩
    by_cases h : a.plate = b.plate
    · obtain ⟨he, hc⟩ := route_same ha hb h az bz
      exact ⟨he, hc, fun hne => absurd h hne⟩
    · obtain ⟨he, hc, hz⟩ := route_other ha hb h
      exact ⟨he, hc, fun _ => hz⟩
  intro c ch h arrive word answered decides moving here mine leaves goal from_ back travels wait arrives good full local_ stops freed gone
  have hreach : here → s.Reaches id p ∧ p.device = s.table.devnum := fun ⟨⟨ha, hn⟩, hw, hb, ho, hd⟩ => ⟨⟨hl, ha, hn, hw, hb, ho⟩, hd⟩
  have hfits : good → s.Fits c ch p := fun ⟨_, hg, hm, hk, hc, hw⟩ => ⟨hg, hm, hk, hc, hw⟩
  have hdec : arrives → ∀ {st q : Nat}, s.judge c ch p = (some st, q) → st ≠ 0 → decides st q := fun ⟨hk, hh, hadm⟩ st q hj h0 => by
    obtain ⟨t, he, ⟨hp, hdue, hr⟩, hkept⟩ := (hreach hh).1.decides hk (hreach hh).2 hadm hj h0
    exact ⟨t, he, ⟨hp, hdue, hr⟩, hkept⟩
  have hmail : good → h.mode = 1 → s.portTask c ch = none → full → s.judge c ch p = (if p.kind = 2 then none else some 1, h.mail.length) :=
    fun hg hm hp hfull => by rw [(hfits hg).judge_mailbox hm hp, if_pos hfull]
  refine ⟨?_, ?_, ?_, ?_, ?_, ?_, ?_, ?_, ?_, ?_, ?_, ?_, ?_, ?_, ?_, ?_, ?_, ?_, ?_, ?_, ?_, ?_, ?_, ?_, ?_, ?_⟩
  · rintro ⟨ha, hn⟩ ⟨hd, hs⟩ hat hhold hwait
    refine travels_turn hl ha hn ((State.enroute_start hd hs hat).trans ?_)
    rw [if_neg (by rw [hhold, hwait]; simp)]
    rfl
  · rintro ⟨ha, hn⟩ ⟨hd, hs⟩ hat hwait
    refine travels_turn hl ha hn ((State.enroute_start hd hs hat).trans ?_)
    rw [if_pos hwait]
  · rintro ⟨ha, hn⟩ ⟨hd, hs⟩ hv port hport hwait
    refine travels_turn hl ha hn ((State.enroute_port hd hs hv hport).trans ?_)
    rw [if_pos hwait]
  · rintro ⟨ha, hn⟩ ⟨hd, hs⟩ hv port hport hwait
    refine travels_turn hl ha hn ((State.enroute_port hd hs hv hport).trans ?_)
    rw [hwait]
    rfl
  · rintro ⟨ha, hn⟩ ⟨hd, hs⟩ hv hb ho
    have hr : s.Reaches id p := ⟨hl, ha, hn, State.enroute_left hd hs hv, hb, ho⟩
    refine ⟨fun hno => hr.travels_far hd (State.farAnswer_nowhere _ hno), fun hp hroute => ?_⟩
    obtain ⟨t, he, ⟨hk, hback, hdue⟩ | ⟨st, gen, q, ⟨hst, hin, hen, hkept⟩, hans, hdue⟩⟩ := hr.decided_far hd hp hroute
    · exact ⟨t, he, .inl ⟨hk, hback, hdue⟩⟩
    · exact ⟨t, he, .inr ⟨st, gen, q, hans, hdue, hst, hin, hen, hkept⟩⟩
  · rintro ⟨ha, hn⟩ ⟨hd, hs⟩ x r n l hat hready hpath
    refine ⟨fun ⟨he, ht⟩ => travels_turn hl ha hn ((State.enroute_hop hd hs hat hready hpath).trans ?_),
      fun hfree => travels_turn hl ha hn ((State.enroute_hop hd hs hat hready hpath).trans ?_)⟩
    · rw [he, ht]
      rfl
    · rw [if_neg (by simpa using hfree)]
  · intro har hg hne
    obtain ⟨q, hj⟩ := State.judge_gen hg hne
    exact ⟨q, hdec har hj (by decide)⟩
  · intro har hst
    obtain ⟨q, hj⟩ := State.judge_stale hst
    exact ⟨q, hdec har hj (by decide)⟩
  · intro hg hm hp hfull hk
    have hj := hmail hg hm hp hfull
    rw [if_neg hk] at hj
    exact hdec hg.1 hj (by decide)
  · intro hg hm hp hfull hk
    have hj := hmail hg hm hp hfull
    rw [if_pos hk] at hj
    obtain ⟨hk3, hh, hadm⟩ := hg.1
    exact (hreach hh).1.messageArrival_dropped hk3 (hreach hh).2 hadm hj
  · intro hg hm hp hroom
    have hj := (hfits hg).judge_mailbox hm hp
    rw [if_neg hroom] at hj
    obtain ⟨hk3, hh, hadm⟩ := hg.1
    exact ⟨_, (hreach hh).1.messageArrival_accepted hk3 (hreach hh).2 hadm hj, s.mailbox_answer _ _ hm⟩
  · intro hg hm hp
    exact hdec hg.1 ((hfits hg).judge_unbound hm hp) (by decide)
  · intro n q hg hm hp f
    have hj := (hfits hg).judge_port hm hp
    refine ⟨fun hlong => ?_, fun hlen hhalt hroom => ?_⟩
    · rw [if_pos hlong] at hj
      exact hdec hg.1 hj (by decide)
    · rw [if_neg (Nat.not_lt.2 hlen), if_neg (by rw [hhalt, hroom]; simp)] at hj
      obtain ⟨hk3, hh, hadm⟩ := hg.1
      obtain ⟨⟨hpk, hdue, hrcvd⟩, hfifo⟩ := s.port_answer (id := id) (p := p) arrive (word 0 h.gen (f.fifo.length + 1)) hm hp
      exact ⟨_, (hreach hh).1.messageArrival_accepted hk3 (hreach hh).2 hadm hj, ⟨hpk, hdue, hrcvd⟩, hfifo⟩
  · intro n e ev hk hh hadm hn hhalt hcards hinbox part
    refine ⟨_, (hreach hh).1.card_taken hk (hreach hh).2 hadm hn hhalt hcards hinbox, State.look_answer _ id p _, ?_, ?_⟩
    · show (s.takeCard id p).due ++ [_] = _
      rw [State.due_takeCard, List.append_assoc]
      rfl
    · show (s.takeCard id p).jobs.look _ = _
      rw [State.jobs_takeCard, Sp.look_set_self]
      rfl
  · rintro ⟨ha, hn⟩ he hv
    exact packetDiscard_drops hl ha hn he hv
  · rintro - h
    exact packetDiscard_waits hl h
  · exact fun hn hb hr => nackArrival_waits hl hn hb hr
  · intro hn hb hr hm
    obtain ⟨j, hj, hw⟩ := s.nackWait_eq p.source (p.retries + 1)
    refine ⟨j, hj, (nackArrival_backs_off hl hn hb hr hm).trans ?_⟩
    rw [hw]
    rfl
  · exact fun hn hb hr hm => nackArrival_remaps hl hn hb hr hm
  · exact fun w hb hw ha => backoffExpiry_resends hl hb hw ha
  · intro w v l hb hw ha hlm hk hloc
    have hstop : s.stopping p.launchMsg = s.stopping (some l) := by rw [hlm]
    refine ⟨fun hs => ?_, fun hs hf => ?_, fun hs hf => ?_⟩
    · refine (backoffExpiry_ends hl hb hw ha (hstop.trans hs)).trans ?_
      exact congrArg Host.Outcome.next (State.lastMessage_launch (s.did _) hlm hloc)
    · exact backoffExpiry_full hl hb hw ha (hstop.trans (Bool.eq_false_iff.2 hs)) hf
    · have hev : p.travels id = arrive := if_neg hk
      exact ⟨_, backoffExpiry_again hl hb hw ha (hstop.trans (Bool.eq_false_iff.2 hs)) hf, hev ▸ s.mem_due_sendAgain id p, s.look_sendAgain id p,
        s.retx_sendAgain id p⟩
  · exact fun w hb hw => backoffExpiry_waits hl hb hw
  · exact fun w r ha hb hq hm hk ht hlive hsrc hc => answerArrival_task hl ha hb hq hm hk ht hlive hsrc hc
  · intro w l ha hb hq hlm hr hloc hs
    obtain ⟨j, hj, hw⟩ := s.nackWait_eq p.source (p.refused + 1)
    refine ⟨j, hj, (answerArrival_refused hl ha hb hq (by rw [hlm]; rfl) hr (by rw [hlm]; exact Bool.eq_false_iff.2 hs) hloc).trans ?_⟩
    rw [hw]
    rfl
  · intro w l ha hb hq hlm ht hloc hend
    refine (answerArrival_ends hl ha hb hq (fun ⟨_, hr, hs⟩ => ?_) ht).trans
      (congrArg Host.Outcome.next (State.lastMessage_launch (s.did _) hlm hloc))
    rw [hlm] at hs
    exact hend.elim (fun h => h hr) fun h => by rw [h] at hs; cases hs
  · exact fun w ha hb hq hloc => answerArrival_queue hl ha hb hq hloc

end Sys2Proof.Machine
end


section
/-!
SUPPORT. Launches: claims and their entries, what a dispatcher's run on its way changes, the end of a launch, stops, and the answers of
LCTL (O48).
-/

namespace Sys2Proof.Machine

/-! ## Entries written one after the other, R140, R147 -/

/-- Some handler entries, each named by its core and channel, changed alike. -/
def State.updHandlers (s : State) (l : List (Nat × Nat)) (f : Handler → Handler) : State := l.foldl (fun u p => u.updHandler p.1 p.2 f) s

section
variable (s : State) (l : List (Nat × Nat)) (f : Handler → Handler)

theorem State.updHandlers_cons (p : Nat × Nat) : s.updHandlers (p :: l) f = (s.updHandler p.1 p.2 f).updHandlers l f := rfl

theorem State.updHandlers_ex : ∃ k, s.updHandlers l f = { s with cores := k } := by
  unfold State.updHandlers
  refine foldl_keeps (P := fun u => ∃ k, u = { s with cores := k }) (fun u p ⟨k, h⟩ => ?_) l s ⟨s.cores, rfl⟩
  subst h
  exact ⟨_, rfl⟩

theorem State.core_updHandler_ex (c n d : Nat) : ∃ k, (s.updHandler c n f).core d = { s.core d with handlers := k } := by
  unfold State.updHandler
  by_cases h : c = d
  · subst h
    exact ⟨_, State.core_updCore_self _ _ _⟩
  · exact ⟨_, State.core_updCore_ne _ h _⟩

theorem State.core_updHandlers_ex (d : Nat) : ∃ k, (s.updHandlers l f).core d = { s.core d with handlers := k } := by
  unfold State.updHandlers
  refine foldl_keeps (P := fun u => ∃ k, u.core d = { s.core d with handlers := k }) (fun u p ⟨k, h⟩ => ?_) l s ⟨_, rfl⟩
  obtain ⟨k', h'⟩ := u.core_updHandler_ex f p.1 p.2 d
  exact ⟨k', by rw [h', h]⟩

theorem State.handler_updHandler_other {c n d m : Nat} (h : (c, n) ≠ (d, m)) : (s.updHandler c n f).handler d m = s.handler d m := by
  by_cases hc : c = d
  · subst hc
    exact s.handler_updHandler_ne c (fun hn => h (by rw [hn])) f
  · unfold State.handler State.updHandler
    rw [State.core_updCore_ne _ hc]

theorem State.handler_updHandlers_other {p : Nat × Nat} (h : p ∉ l) : (s.updHandlers l f).handler p.1 p.2 = s.handler p.1 p.2 := by
  induction l generalizing s with
  | nil => rfl
  | cons q l ih =>
    obtain ⟨hq, hl⟩ := not_or.1 (mt List.mem_cons.2 h)
    rw [State.updHandlers_cons, ih _ hl]
    exact s.handler_updHandler_other f (Ne.symm hq)

/-- Each entry named has been changed last by the change. -/
theorem State.handler_updHandlers {p : Nat × Nat} (h : p ∈ l) : ∃ x, (s.updHandlers l f).handler p.1 p.2 = f x := by
  induction l generalizing s with
  | nil => cases h
  | cons q l ih =>
    rw [State.updHandlers_cons]
    by_cases hl : p ∈ l
    · exact ih _ hl
    · obtain rfl : p = q := (List.mem_cons.1 h).resolve_right hl
      exact ⟨_, ((s.updHandler p.1 p.2 f).handler_updHandlers_other l f hl).trans (s.handler_updHandler_self p.1 p.2 f)⟩

end

/-! ## The equations of a run of accesses

A comparison of two different matches makes the kernel evaluate what they match on, and evaluating `placeOf` at an address that is not a
literal does not end. So the match on the list is taken apart while its alternatives are variables, and the equations stand case by case. -/

section
variable {s t u : State} {a : Access} {wr wrld : Bool} {x n c : Nat} {l ls : List (Nat × Nat)} {p : Place}

/-- A match on a list that is not empty, taken apart whatever its alternatives are. -/
theorem cons_of_match {B : List (Nat × Nat) → Type} {β : Type} (hls : ls = (x, n) :: l)
    {M : (Unit → B [] → β) → ((x n : Nat) → (r : List (Nat × Nat)) → B ((x, n) :: r) → β) → B ls → β} {h1 h2} {b : B ls} {y : β}
    (hM : ∀ h1 h2 b, M h1 h2 b = h2 x n l (hls ▸ b)) (h : h2 x n l (hls ▸ b) = y) : M h1 h2 b = y := (hM h1 h2 b).trans h

/-- What a recursion on a list that is not empty hands to its step. -/
theorem brecOn_cons {β : Type} (F : (t : List (Nat × Nat)) → List.below (motive := fun _ => β) t → β) (hls : ls = (x, n) :: l) :
    ∃ b : List.below (motive := fun _ => β) ls, List.brecOn ls F = F ls b ∧
      (hls ▸ b : List.below (motive := fun _ => β) ((x, n) :: l)).1 = List.brecOn l F := by
  subst hls
  exact ⟨(List.brecOn.go ((x, n) :: l) F).2, @List.brecOn.eq _ (fun _ => β) ((x, n) :: l) F, rfl⟩

/-- What the first access of a run hands on to the rest. -/
abbrev RunRest (l : List (Nat × Nat)) : Type := List.below (motive := fun _ => State → Except Nat (List (Nat × Nat × Nat)) × State) l

theorem State.placeRun_unfold (a : Access) (wr wrld : Bool) (hls : ls = (x, n) :: l) : ∃ b : RunRest ls,
    (∀ s : State, s.placeRun a wr wrld ls = State.placeRun._f a wr wrld ls b s) ∧
    ∀ t : State, (hls ▸ b : RunRest ((x, n) :: l)).1 t = t.placeRun a wr wrld l := by
  delta State.placeRun
  obtain ⟨b, hb, hr⟩ := brecOn_cons (State.placeRun._f a wr wrld) hls
  exact ⟨b, fun s => congrFun hb s, fun t => congrFun hr t⟩

theorem State.placeRun_fails (hls : ls = (x, n) :: l)
    (h : s.placeOf a { x := x, n := n, align := n, rd := !wr, wr := wr } = (.error c, t)) :
    s.placeRun a wr wrld ls = (.error c, t) := by
  obtain ⟨b, hb, -⟩ := State.placeRun_unfold a wr wrld hls
  rw [hb]
  delta State.placeRun._f
  refine cons_of_match hls (fun h1 h2 b => ?_) ?_
  · subst hls
    rfl
  · rw [h]

theorem State.placeRun_barred (hls : ls = (x, n) :: l)
    (h : s.placeOf a { x := x, n := n, align := n, rd := !wr, wr := wr } = (.ok p, t)) (hw : worldCheck a wrld p = some c) :
    s.placeRun a wr wrld ls = (.error c, t) := by
  obtain ⟨b, hb, -⟩ := State.placeRun_unfold a wr wrld hls
  rw [hb]
  delta State.placeRun._f
  refine cons_of_match hls (fun h1 h2 b => ?_) ?_
  · subst hls
    rfl
  · rw [h]
    dsimp only
    rw [hw]

theorem State.placeRun_goes (hls : ls = (x, n) :: l)
    (h : s.placeOf a { x := x, n := n, align := n, rd := !wr, wr := wr } = (.ok p, t)) (hw : worldCheck a wrld p = none)
    {y : Except Nat (List (Nat × Nat × Nat))} (hr : t.placeRun a wr wrld l = (y, u)) :
    s.placeRun a wr wrld ls = (y.map (fun q => (x, n, p.key) :: q), u) := by
  obtain ⟨b, hb, hrest⟩ := State.placeRun_unfold a wr wrld hls
  rw [← hrest] at hr
  rw [hb]
  delta State.placeRun._f
  refine cons_of_match hls (fun h1 h2 b => ?_) ?_
  · subst hls
    rfl
  · rw [h]
    dsimp only
    rw [hw]
    dsimp only
    generalize (hls ▸ b : RunRest ((x, n) :: l)) = b' at hr ⊢
    obtain ⟨f, r⟩ := b'
    dsimp only
    rw [show f t = (y, u) from hr]
    cases y <;> rfl

end

/-! ## A dispatcher's run on its way, R192, R195, R204 -/

/-- A state without the parts that a run of accesses may change on its way. -/
def State.pastRun (s : State) : State :=
  { s with cores := [], draws := 0, serial := 0, tlbL1 := [], tlbNode := [], walks := [], walkFaults := [], slices := [], dLines := [], bad := [],
           banks := [], due := [] }

/-- What a run can do before it reads or writes: beside those parts it changes the contention predictors of cores alone. -/
structure OnWay (s t : State) : Prop where
  past : t.pastRun = s.pastRun
  cores : ∀ c, ({ t.core c with predictor := [] } : Core) = { s.core c with predictor := [] }

namespace OnWay
variable {s t u : State}

theorem refl (s : State) : OnWay s s := ⟨rfl, fun _ => rfl⟩

theorem trans (h : OnWay s t) (k : OnWay t u) : OnWay s u := ⟨k.past.trans h.past, fun c => (k.cores c).trans (h.cores c)⟩

theorem of_cores (h : t.pastRun = s.pastRun) (k : t.cores = s.cores) : OnWay s t := ⟨h, fun c => by rw [State.core_congr k]⟩

theorem visited (h : Visited s t) : OnWay s t where
  past := by
    have := congrArg State.pastRun h.past
    exact this
  cores := h.cores

theorem launches (h : OnWay s t) : t.launches = s.launches := by
  have := congrArg State.launches h.past
  exact this

theorem now (h : OnWay s t) : t.now = s.now := by
  have := congrArg State.now h.past
  exact this

theorem gt (h : OnWay s t) : t.gt = s.gt := by
  unfold State.gt
  rw [h.now]

theorem handler (h : OnWay s t) (c n : Nat) : t.handler c n = s.handler c n := by
  have := congrArg (fun k : Core => k.handler n) (h.cores c)
  exact this

theorem translated (h : Translated s t) : OnWay s t := by
  rw [h.out]
  exact of_cores rfl rfl

theorem atHand (s : State) (a : Access) (x : Nat) : OnWay s (s.atHand a x).2 := translated (.atHand s a x)

theorem wantWalk (s : State) (a : Access) (x : Nat) : OnWay s (s.wantWalk a x) :=
  of_cores (by
    have h := s.askWalk_pastWalks a x (fun w => { w with askers := if w.askers.contains (a.core, a.who) then w.askers else w.askers ++ [(a.core, a.who)] })
    have := congrArg State.pastRun h
    exact this) (s.wantWalk_kept a x).2.1

theorem translate (s : State) (a : Access) (x : Nat) : OnWay s (s.translate a x).2 := by
  have h := atHand s a x
  unfold State.translate
  split
  next heq => rwa [heq] at h
  next heq =>
    rw [heq] at h
    split
    · exact h.trans (translated (.fillTwo ..))
    · split
      · exact h.trans (of_cores rfl rfl)
      · exact h.trans (wantWalk _ a x)

theorem placeOf {a : Access} {r : Req} {y : Except Nat Place} (h : s.placeOf a r = (y, t)) : OnWay s t := by
  have k := translate s a r.x
  unfold State.placeOf at h
  dsimp only at h
  split at h
  · cases h
    exact refl s
  · split at h
    · split at h <;> cases h <;> exact refl s
    · split at h
      · cases h
        exact refl s
      · split at h
        next heq =>
          cases h
          rwa [heq] at k
        next heq =>
          rw [heq] at k
          cases (Prod.mk.inj h).2
          exact k

theorem placeRun {a : Access} {wr wrld : Bool} : ∀ {l : List (Nat × Nat)} {s : State} {y : Except Nat (List (Nat × Nat × Nat))},
    s.placeRun a wr wrld l = (y, t) → OnWay s t
  | [], _, _, h => by
    cases h
    exact refl _
  | (x, n) :: l, s, y, h => by
    cases hp : s.placeOf a { x := x, n := n, align := n, rd := !wr, wr := wr } with
    | mk q v =>
      have k := placeOf hp
      cases q with
      | error c =>
        rw [State.placeRun_fails rfl hp] at h
        cases h
        exact k
      | ok p =>
        cases hw : worldCheck a wrld p with
        | some c =>
          rw [State.placeRun_barred rfl hp hw] at h
          cases h
          exact k
        | none =>
          cases hr : v.placeRun a wr wrld l with
          | mk q' w =>
            rw [State.placeRun_goes rfl hp hw hr] at h
            cases h
            exact k.trans (placeRun hr)

theorem reachRun (s : State) (a : Access) (wr wrld : Bool) (x n : Nat) : OnWay s (s.reachRun a wr wrld x n).2 := by
  unfold State.reachRun
  split
  next heq => exact placeRun heq
  next l t heq =>
    have k := visited (Visited.touchRun a.part (some a.core) wr l t)
    split
    next heq' =>
      rw [heq'] at k
      exact (placeRun heq).trans k
    next heq' =>
      rw [heq'] at k
      exact (placeRun heq).trans k

theorem reachCap (s : State) (a : Access) (tag : Bool) (c : Cap) (wr : Bool) (x n : Nat) : OnWay s (s.reachCap a tag c wr x n).2 := by
  unfold State.reachCap
  split
  · exact refl s
  · exact reachRun _ _ _ _ _ _

theorem placeDone (id : Nat) (l : Launch) (z : List (Nat × Nat)) (s : State) : OnWay s (s.placeDone id l z).2 := by
  induction z generalizing s with
  | nil => exact refl s
  | cons e z ih =>
    obtain ⟨off, n⟩ := e
    have h := reachCap s (s.dispatcher id l) l.lr.doneTag (Cap.ofBits l.lr.done) true ((Cap.ofBits l.lr.done).addr.toNat + off) n
    unfold State.placeDone
    dsimp only
    split
    next code t heq =>
      rw [heq] at h
      split
      · exact h
      · exact h.trans (ih t)
    next p t heq =>
      rw [heq] at h
      exact h.trans (ih t)

end OnWay

/-! ### A run that has come to its end -/

section
variable {s t : State} {a : Access} {wr wrld : Bool}

theorem Translated.serial (h : Translated s t) : t.serial = s.serial := by rw [h.out]

theorem Visited.serial (h : Visited s t) : t.serial = s.serial := by
  have := congrArg State.serial h.past
  exact this

theorem State.serial_placeRun : ∀ {l : List (Nat × Nat)} {s : State} {p : List (Nat × Nat × Nat)},
    s.placeRun a wr wrld l = (.ok p, t) → t.serial = s.serial
  | [], _, _, h => by
    cases h
    rfl
  | (x, n) :: l, s, p, h => by
    cases hp : s.placeOf a { x := x, n := n, align := n, rd := !wr, wr := wr } with
    | mk q v =>
      cases q with
      | error c =>
        rw [State.placeRun_fails rfl hp] at h
        cases h
      | ok p =>
        cases hw : worldCheck a wrld p with
        | some c =>
          rw [State.placeRun_barred rfl hp hw] at h
          cases h
        | none =>
          cases hr : v.placeRun a wr wrld l with
          | mk q' w =>
            rw [State.placeRun_goes rfl hp hw hr] at h
            cases q' with
            | error c => cases h
            | ok l' =>
              cases h
              exact (State.serial_placeRun hr).trans (Translated.placeOf hp).serial

/-- A run that needs no walk takes no number. -/
theorem State.serial_reachCap {tag : Bool} {c : Cap} {x n : Nat} {p : List (Nat × Nat × Nat)} (h : s.reachCap a tag c wr x n = (.ok p, t)) :
    t.serial = s.serial := by
  unfold State.reachCap State.reachRun at h
  split at h
  · cases h
  · split at h
    · cases h
    next l v heq =>
      have k := (Visited.touchRun a.part (some a.core) wr l v).serial
      split at h
      next heq' =>
        cases h
        rw [heq'] at k
        exact k.trans (State.serial_placeRun heq)
      · cases h

end

/-! ## What leaves every handler entry as it is -/

/-- Every handler entry as it was. -/
def HandlersKept (s t : State) : Prop := ∀ c n, t.handler c n = s.handler c n

namespace HandlersKept
variable {s t u : State}

theorem refl (s : State) : HandlersKept s s := fun _ _ => rfl

theorem trans (h : HandlersKept s t) (k : HandlersKept t u) : HandlersKept s u := fun c n => (k c n).trans (h c n)

theorem of_cores (h : t.cores = s.cores) : HandlersKept s t := fun c n => congrArg (fun k : Core => k.handler n) (State.core_congr h c)

theorem foldl {β : Type} {f : State → β → State} (hf : ∀ t b, HandlersKept t (f t b)) (l : List β) (s : State) : HandlersKept s (l.foldl f s) :=
  foldl_keeps (P := HandlersKept s) (fun t b h => h.trans (hf t b)) l s (refl s)

theorem updCore (s : State) (c : Nat) {f : Core → Core} (hf : ∀ k, (f k).handlers = k.handlers) : HandlersKept s (s.updCore c f) := by
  intro d n
  unfold State.handler Core.handler
  by_cases h : c = d
  · subst h
    rw [State.core_updCore_self, hf]
  · rw [State.core_updCore_ne s h]

theorem updSlot (s : State) (c n : Nat) (f : Slot → Slot) : HandlersKept s (s.updSlot c n f) := updCore s c fun _ => rfl

theorem updBig (s : State) (c : Nat) (f : Big → Big) : HandlersKept s (s.updBig c f) := updCore s c fun _ => rfl

theorem push (s : State) (i : Instr) : HandlersKept s (s.push i) := of_cores rfl

theorem settle (s : State) (c : Nat) : HandlersKept s (s.settle c) := by
  unfold State.settle
  split
  · exact refl s
  · exact of_cores rfl

theorem setQuota (s : State) (p x : Nat) : HandlersKept s (s.setQuota p x) := by
  unfold State.setQuota
  split
  · exact of_cores rfl
  · exact refl s

theorem setWorld (s : State) (b : Block) (v : Bool) : HandlersKept s (s.setWorld b v) := by
  unfold State.setWorld
  split
  · exact refl s
  · cases b <;> exact of_cores rfl

theorem setRegion (s : State) (n : Nat) (v : BitVec 128) : HandlersKept s (s.setRegion n v) := by
  unfold State.setRegion
  split
  · exact refl s
  · exact of_cores rfl

theorem setHost (s : State) (c n : Nat) : HandlersKept s (s.setHost c n) := by
  unfold State.setHost
  dsimp only
  split
  · exact (updBig s c _).trans (push _ _)
  · exact updBig s c _

theorem setFwall (s : State) (c : Nat) (v : Word) : HandlersKept s (s.setFwall c v) := updCore s c fun k => by
  split <;> rfl

theorem setPair (s : State) (c x : Nat) : HandlersKept s (s.setPair c x) := by
  unfold State.setPair
  split
  · exact updBig s c _
  · exact refl s

theorem setCheckMode (s : State) (c x : Nat) : HandlersKept s (s.setCheckMode c x) := by
  unfold State.setCheckMode
  split
  · exact updBig s c _
  · exact refl s

/-- A control register written changes no handler entry, R379. -/
theorem setControl (s : State) (r : CtlReg) (x : Nat) : HandlersKept s (s.setControl r x) := by
  cases r with
  | ghome => exact of_cores rfl
  | quota => exact foldl (fun t p => setQuota _ _ _) _ _
  | power => exact refl s
  | lpct c => exact trans (of_cores rfl) (settle _ c)
  | telem => exact refl s
  | world b => exact setWorld _ _ _
  | owner c unit => exact updBig _ _ _
  | bctl c =>
    unfold State.setControl
    dsimp only
    split
    · exact (setPair s c x).trans (setCheckMode _ c x)
    · exact refl s
  | hostctx c => exact setHost _ _ _
  | fwall c =>
    unfold State.setControl
    dsimp only
    split
    · exact setFwall _ _ _
    · exact refl s
  | region n high => exact setRegion _ _ _

theorem writeControl (s : State) (k n m d : Nat) : HandlersKept s (s.writeControl k n m d) := by
  unfold State.writeControl
  refine foldl (fun t i => ?_) _ _
  dsimp only
  split
  · exact refl t
  · unfold State.setControlWord
    split
    · exact setControl _ _ _
    · exact refl t

theorem putBytes (s : State) (k n m d : Nat) : HandlersKept s (s.putBytes k n m d) := by
  refine foldl (fun t i => ?_) _ _
  split
  · unfold State.putByte
    split
    · exact updSlot _ _ _ _
    · exact of_cores rfl
  · exact refl t

theorem writeMem (s : State) (k n m d : Nat) : HandlersKept s (s.writeMem k n m d) := by
  unfold State.writeMem
  split
  · exact refl s
  · split
    · exact writeControl _ _ _ _ _
    · have hstale : HandlersKept s (s.keepStale k n) := by
        unfold State.keepStale
        split
        · exact refl s
        · exact of_cores rfl
      have hmark : HandlersKept (s.keepStale k n) ((s.keepStale k n).raiseMark k n) := by
        unfold State.raiseMark
        split
        · exact updCore _ _ fun _ => rfl
        · exact refl _
      have hheal : HandlersKept ((s.keepStale k n).raiseMark k n) (((s.keepStale k n).raiseMark k n).heal k n m) := by
        unfold State.heal
        dsimp only
        generalize (if keyIsLocal k = true then 8 else 32) = step
        refine foldl (fun t i => ?_) _ _
        split
        · exact of_cores rfl
        · exact refl t
      refine ((hstale.trans hmark).trans hheal).trans ((putBytes _ _ _ _ _).trans (foldl (fun t i => ?_) _ _))
      dsimp only
      split
      · exact of_cores rfl
      · exact refl t

theorem writeRun (s : State) (x : Nat) (d : List Byte) (l : List (Nat × Nat × Nat)) : HandlersKept s (s.writeRun x d l) :=
  foldl (fun _ _ => writeMem _ _ _ _ _) l s

end HandlersKept

/-! ## The end of a launch, R146, R147 -/

section
variable {s : State} {id : Nat} {l : Launch}

/-- The launch as it stands when it has ended. -/
def Launch.ended (l : Launch) (gt : Nat) : Launch := { l with root := .ended, gtend := gt }

theorem State.look_endLaunch (hl : s.launches.look id = some l) (p : List (Nat × Nat × Nat)) (c : PodCounts) :
    (s.endLaunch id p c).launches.look id = some (l.ended s.gt) := by
  unfold State.endLaunch
  simp only [hl]
  exact Sp.look_set_self _ _ _

theorem State.releaseLaunch_kept (s : State) (id : Nat) (l : Launch) : HandlersKept (s.updHandlers l.claimed Handler.released) (s.releaseLaunch id l) :=
  .of_cores rfl

/-- A launch that ends gives back the entries that it claimed, R147. -/
theorem State.handler_endLaunch (hl : s.launches.look id = some l) (p : List (Nat × Nat × Nat)) (k : PodCounts) {c : Nat × Nat} (hc : c ∈ l.claimed) :
    ((s.endLaunch id p k).handler c.1 c.2).held = false ∧ ((s.endLaunch id p k).handler c.1 c.2).mode = 0 := by
  obtain ⟨h, hh⟩ := s.handler_updHandlers l.claimed Handler.released hc
  have hend : ∃ x d, HandlersKept (((s.releaseLaunch id (l.ended s.gt)).writeRun x d p)) (s.endLaunch id p k) := by
    unfold State.endLaunch
    simp only [hl]
    exact ⟨_, _, .of_cores rfl⟩
  obtain ⟨x, d, hend⟩ := hend
  have hk := ((s.releaseLaunch_kept id (l.ended s.gt)).trans (.writeRun _ x d p)).trans hend c.1 c.2
  rw [hk, show (s.updHandlers (l.ended s.gt).claimed Handler.released).handler c.1 c.2 = h.released from hh]
  exact ⟨rfl, rfl⟩

/-- Until a launch's record can be stored, its event stays under way. -/
theorem State.whenPlaced_waits {act : List (Nat × Nat × Nat) → State → State} {u : State} (h : s.placeDone id l (s.doneSizes l) = (none, u)) :
    s.whenPlaced id l act = .next u := by
  unfold State.whenPlaced
  rw [h]

theorem State.whenPlaced_goes {act : List (Nat × Nat × Nat) → State → State} {p : List (Nat × Nat × Nat)} {u : State}
    (h : s.placeDone id l (s.doneSizes l) = (some p, u)) : s.whenPlaced id l act = .next (act p u) := by
  unfold State.whenPlaced
  rw [h]

end

/-! ## Claims, R140 -/

/-- A launch as it stands once its claim has been made, R140, R141. -/
def State.begun (s : State) (l : Launch) : Launch :=
  { l with lid := s.freeLid, root := .dealing, claimed := (s.claimCores l).map (fun c => (c, l.lr.chan)), handed := 0, total := l.lr.gangs, sweepAt := s.gt }

/-- The claim of some cores' entries for a launch, made whole, R140. -/
def State.claimAs (s : State) (id : Nat) (l : Launch) (cores : List Nat) : State :=
  let t := { s.did (.launchClaim id) with nextLid := (l.lid + 1) % 256, launches := s.launches.set id l }
  let t := { t with cores := t.cores.map (fun (e : Nat × Core) => (e.1, { e.2 with sent := e.2.sent.drop l.lid, rcvd := e.2.rcvd.drop l.lid })) }
  cores.foldl (fun (u : State) (c : Nat) => u.updHandler c l.lr.chan (fun h => h.claimed id l)) t

/-- What the claim takes for granted, R140, R402. -/
structure State.MayClaim (s : State) (id : Nat) (l : Launch) : Prop where
  look : s.launches.look id = some l
  root : l.root = .queued
  first : s.queued.head? = some id
  alone : l.lr.isPod s.table.devnum = false
  local_ : l.podRoot = none
  room : s.activeCount < 64
  goes : s.haltedPart l.part = false
  free : ∀ c ∈ s.claimCores l, (s.handler c l.lr.chan).held = false

section
variable {s : State} {id : Nat} {l : Launch}

theorem State.origins_congr {s t : State} (hp : ∀ c, (t.core c).part = (s.core c).part) (hl : t.lostCores = s.lostCores) (ht : t.table = s.table)
    (r : LaunchRec) (part plate g : Nat) : t.origins r part plate g = s.origins r part plate g := by
  have he : ∀ c, t.isEasel c = s.isEasel c := fun c => by unfold State.isEasel; rw [ht]
  have hok : t.coreOk r part = s.coreOk r part := funext fun c => by unfold State.coreOk; rw [he, hp, hl]
  unfold State.origins State.rectangle
  simp only [hp, hl, hok]

section
variable (s) (id) (l) (cores : List Nat)

theorem State.claimAs_ex : ∃ k, s.claimAs id l cores = { s.did (.launchClaim id) with nextLid := (l.lid + 1) % 256, launches := s.launches.set id l, cores := k } := by
  unfold State.claimAs
  dsimp only
  refine foldl_keeps (P := fun u : State => ∃ k, u = { s.did (.launchClaim id) with nextLid := (l.lid + 1) % 256, launches := s.launches.set id l, cores := k })
    (fun u c ⟨k, h⟩ => ?_) cores _ ⟨_, rfl⟩
  subst h
  exact ⟨_, rfl⟩

theorem State.look_claimAs : (s.claimAs id l cores).launches.look id = some l := by
  obtain ⟨k, h⟩ := s.claimAs_ex id l cores
  rw [h]
  exact Sp.look_set_self _ _ _

theorem State.due_claimAs : (s.claimAs id l cores).due = s.due.erase (.launchClaim id) := by
  obtain ⟨k, h⟩ := s.claimAs_ex id l cores
  rw [h]
  rfl

/-- The entries of the cores that a launch claims. -/
theorem State.claimAs_updHandlers : s.claimAs id l cores = ({ s.did (.launchClaim id) with
    nextLid := (l.lid + 1) % 256, launches := s.launches.set id l,
    cores := s.cores.map (fun (e : Nat × Core) => (e.1, { e.2 with sent := e.2.sent.drop l.lid, rcvd := e.2.rcvd.drop l.lid })) } : State).updHandlers
      (cores.map (fun c => (c, l.lr.chan))) (fun h => h.claimed id l) := by
  unfold State.claimAs State.updHandlers
  rw [List.foldl_map]
  rfl

theorem State.handler_claimAs {c : Nat} (hc : c ∈ cores) : ∃ h : Handler, (s.claimAs id l cores).handler c l.lr.chan = h.claimed id l := by
  rw [State.claimAs_updHandlers]
  exact State.handler_updHandlers _ _ _ (List.mem_map.2 ⟨c, hc, rfl⟩)

/-- Of a core, a claim changes its entries, and clears the counts of the identity, R144. -/
theorem State.core_claimAs (c : Nat) : ∃ k, (s.claimAs id l cores).core c =
    { s.core c with handlers := k, sent := (s.core c).sent.drop l.lid, rcvd := (s.core c).rcvd.drop l.lid } := by
  rw [State.claimAs_updHandlers]
  obtain ⟨k, hk⟩ := State.core_updHandlers_ex ({ s.did (.launchClaim id) with
    nextLid := (l.lid + 1) % 256, launches := s.launches.set id l,
    cores := s.cores.map (fun (e : Nat × Core) => (e.1, { e.2 with sent := e.2.sent.drop l.lid, rcvd := e.2.rcvd.drop l.lid })) } : State)
      (cores.map (fun c => (c, l.lr.chan))) (fun h => h.claimed id l) c
  refine ⟨k, hk.trans ?_⟩
  have hmap : Sp.at (s.cores.map (fun (e : Nat × Core) => (e.1, { e.2 with sent := e.2.sent.drop l.lid, rcvd := e.2.rcvd.drop l.lid }))) c {} =
      { s.core c with sent := (s.core c).sent.drop l.lid, rcvd := (s.core c).rcvd.drop l.lid } :=
    Sp.at_mapVals s.cores (fun _ k => { k with sent := k.sent.drop l.lid, rcvd := k.rcvd.drop l.lid }) c rfl
  unfold State.core at hmap ⊢
  rw [hmap]

theorem State.counts_claimAs (c : Nat) : ((s.claimAs id l cores).core c).sent.at l.lid 0 = 0 ∧ ((s.claimAs id l cores).core c).rcvd.at l.lid 0 = 0 := by
  obtain ⟨k, hk⟩ := s.core_claimAs id l cores c
  rw [hk]
  exact ⟨by rw [Sp.at_drop, if_pos rfl], by rw [Sp.at_drop, if_pos rfl]⟩

theorem State.origins_claimAs (r : LaunchRec) (part plate g : Nat) : (s.claimAs id l cores).origins r part plate g = s.origins r part plate g := by
  obtain ⟨k, hk⟩ := s.claimAs_ex id l cores
  refine State.origins_congr (fun c => ?_) (by rw [hk]; rfl) (by rw [hk]; rfl) r part plate g
  obtain ⟨k, hk⟩ := s.core_claimAs id l cores c
  rw [hk]

end

/-- The claim of the oldest launch of the queue: it begins, or, where its gangs fit nowhere, ends. -/
theorem State.MayClaim.launchClaim (h : s.MayClaim id l) : exec (.launchClaim id) s =
    if (l.lr.kind || (platesOf l.lr.pmask).any (fun p => !(s.origins l.lr l.part p 0).isEmpty)) = true
    then .next ((s.claimAs id (s.begun l) (s.claimCores l)).beginLaunch id (s.begun l))
    else s.whenPlaced id (s.begun l) (fun p u => ((u.claimAs id (s.begun l) (s.claimCores l)).updLaunch id (fun x => { x with status := 3 })).endLaunch id p {}) := by
  obtain ⟨hl, hq, hf, hp, hr, ha, hh, hfree⟩ := h
  have hbusy : ¬ (s.activeCount ≥ 64 ∨ s.haltedPart l.part = true ∨ (s.claimCores l).any (fun c => (s.handler c l.lr.chan).held) = true) := by
    rw [hh]
    refine not_or.2 ⟨Nat.not_le.2 ha, not_or.2 ⟨Bool.false_ne_true, fun h => ?_⟩⟩
    obtain ⟨c, hc, hheld⟩ := List.any_eq_true.1 h
    rw [hfree c hc] at hheld
    cases hheld
  have horigins : ∀ p, (s.claimAs id (s.begun l) (s.claimCores l)).origins l.lr l.part p 0 = s.origins l.lr l.part p 0 :=
    fun p => s.origins_claimAs id (s.begun l) (s.claimCores l) l.lr l.part p 0
  rw [exec_launchClaim]
  unfold execLaunchClaim
  simp only [hl]
  rw [if_neg (not_not.2 hq), if_neg (not_not.2 hf), if_neg (by rw [hp]; simp), if_neg hbusy]
  have hshare : s.gangShare l = (0, l.lr.gangs) := by
    unfold State.gangShare
    rw [hr]
    rfl
  simp only [hshare, ← horigins]
  split
  next heq =>
    rw [hr] at heq
    cases heq
  · rfl

theorem launchClaim_waits (hl : s.launches.look id = some l) (hq : l.root = .queued) (hf : s.queued.head? ≠ some id) : Waits (.launchClaim id) s := by
  unfold Waits
  rw [exec_launchClaim]
  unfold execLaunchClaim
  simp only [hl]
  rw [if_neg (not_not.2 hq), if_pos hf]

end

/-! ### A launch begins, R140, R141, R143 -/

section
variable (s : State) (id : Nat) {l : Launch}

theorem State.beginLaunch_messages (hk : l.lr.kind = true) (hh : l.held = false) :
    s.beginLaunch id l = (s.push (.quiescenceSweep id 16384)).push (.launchMessageSend id) := by
  unfold State.beginLaunch
  simp only [hk, hh, if_true, Bool.false_eq_true, if_false]

/-- A tile launch that begins: every plate's dispatcher asks for gangs. -/
theorem State.beginLaunch_gangs (hk : l.lr.kind = false) : ∃ d, s.beginLaunch id l = { s with due := d } ∧
    Instr.quiescenceSweep id 16384 ∈ d ∧ ∀ p ∈ platesOf l.lr.pmask, Instr.gangRangeRequest id p ∈ d := by
  unfold State.beginLaunch
  simp only [hk, Bool.false_eq_true, if_false]
  generalize hu : (platesOf l.lr.pmask).foldl (fun u p => u.push (.gangRangeRequest id p)) (s.push (.quiescenceSweep id 16384)) = u
  have hpush : ∀ (P : Instr) (v : State) (i : Instr), P ∈ v.due → P ∈ (v.push i).due := fun _ _ _ h => List.mem_append_left _ h
  have hsweep : Instr.quiescenceSweep id 16384 ∈ u.due := by
    rw [← hu]
    exact foldl_keeps (P := fun v : State => Instr.quiescenceSweep id 16384 ∈ v.due) (fun v p h => hpush _ v _ h) _ _
      (List.mem_append_right _ (List.mem_singleton_self _))
  have hplates : ∀ p ∈ platesOf l.lr.pmask, Instr.gangRangeRequest id p ∈ u.due := fun p hp => by
    rw [← hu]
    exact foldl_reaches (P := fun v : State => Instr.gangRangeRequest id p ∈ v.due) (fun v q h => hpush _ v _ h)
      (fun v => List.mem_append_right _ (List.mem_singleton_self _)) hp _
  have hout : ∃ d, u = { s with due := d } := by
    rw [← hu]
    refine foldl_keeps (P := fun v : State => ∃ d, v = { s with due := d }) (fun v p ⟨d, h⟩ => ?_) _ _ ⟨_, rfl⟩
    subst h
    exact ⟨_, rfl⟩
  obtain ⟨d, hd, hsub⟩ := u.maybeDealt_ex id
  obtain ⟨e, rfl⟩ := hout
  exact ⟨d, hd, hsub hsweep, fun p hp => hsub (hplates p hp)⟩

end

/-! ## Message launches, R143 -/

section
variable {s t : State} {id : Nat} {l : Launch}

theorem State.updLaunch_eq (hl : s.launches.look id = some l) (f : Launch → Launch) :
    s.updLaunch id f = { s with launches := s.launches.set id (f l) } := by
  unfold State.updLaunch
  rw [hl]

/-- The run by which a launch's dispatcher reads its next key. -/
def State.nextKey (s : State) (id : Nat) (l : Launch) : Except Nat (List (Nat × Nat × Nat)) × State :=
  s.reachCap (s.dispatcher id l) l.lr.keysTag (Cap.ofBits l.lr.keys) false ((Cap.ofBits l.lr.keys).addr.toNat + 8 * l.nextMsg) 8

/-- A launch whose dispatcher has a message to send and room for its copy. -/
structure State.MaySendNext (s : State) (id : Nat) (l : Launch) : Prop where
  look : s.launches.look id = some l
  root : l.root = .dealing
  kind : l.lr.kind = true
  open_ : l.held = false
  live : l.aborting = false
  full : l.draining = false
  left : l.nextMsg ≤ l.lr.extx
  goes : s.haltedPart l.part = false
  room : (s.core (s.roleCore 3)).retx.length < 32

/-- What the dispatcher does once it has asked for the key. -/
def State.withKey (s : State) (id : Nat) (l : Launch) : Except Nat (List (Nat × Nat × Nat)) × State → State
  | (.error code, t) => if code = notYet then t else (s.did (.launchMessageSend id)).dispatcherFault id code
  | (.ok p, t) => if t.badRun p then (s.did (.launchMessageSend id)).dispatcherFault id causeData
    else (((t.did (.launchMessageSend id)).updLaunch id (fun x => { x with nextMsg := l.nextMsg + 1, dealt := x.dealt + 1 })).sendPacket (s.roleCore 3)
        (t.launchPacket id l (s.roleCore 3) (leNat (t.readRun p)) 12 l.nextMsg)).2.push (.launchMessageSend id)

theorem State.MaySendNext.run (h : s.MaySendNext id l) : exec (.launchMessageSend id) s = .next (s.withKey id l (s.nextKey id l)) := by
  obtain ⟨hl, hr, hk, ho, ha, hd, hn, hh, hroom⟩ := h
  have hmore : ¬ (l.aborting = true ∨ l.draining = true ∨ (!l.held) = true ∧ l.nextMsg > l.lr.extx) := by
    rw [ha, hd]
    rintro (h | h | ⟨-, h⟩)
    · cases h
    · cases h
    · exact absurd hn (Nat.not_le.2 h)
  have hwait : ¬ (s.haltedPart l.part = true ∨ (s.core (s.roleCore 3)).retx.length ≥ 32) := by
    rw [hh]
    exact not_or.2 ⟨Bool.false_ne_true, Nat.not_le.2 hroom⟩
  rw [exec_launchMessageSend]
  unfold execLaunchMessageSend
  simp only [hl]
  rw [if_neg (by rw [hr, hk]; simp), if_neg hmore, if_neg (by rw [ho]; simp), if_neg hwait]
  have hk : s.nextKey id l = s.reachCap (s.dispatcher id l) l.lr.keysTag (Cap.ofBits l.lr.keys) false ((Cap.ofBits l.lr.keys).addr.toNat + 8 * l.nextMsg) 8 := rfl
  rw [← hk]
  obtain ⟨q, u⟩ := s.nextKey id l
  cases q with
  | error code => rfl
  | ok p =>
    show (if u.badRun p = true then _ else _) = Host.Outcome.next (if u.badRun p = true then _ else _)
    split <;> rfl

theorem State.MaySendNext.waits (h : s.MaySendNext id l) {u : State} (hk : s.nextKey id l = (.error notYet, u)) :
    exec (.launchMessageSend id) s = .next u := by
  rw [h.run, hk]
  rfl

theorem State.MaySendNext.faults (h : s.MaySendNext id l) {code : Nat} {u : State} (hk : s.nextKey id l = (.error code, u)) (hc : code ≠ notYet) :
    Does (.launchMessageSend id) (fun v => { v with due := v.due ++ [.faultNotice id s.gt code (faultPlace (s.roleCore 3) (s.roleSlot 3))] }) s := by
  unfold Does
  rw [h.run, hk, State.withKey, if_neg hc]
  rfl

/-- The key read is sent with its number to its owner, R143. -/
theorem State.MaySendNext.sends (h : s.MaySendNext id l) {p : List (Nat × Nat × Nat)} {u : State} (hk : s.nextKey id l = (.ok p, u))
    (hb : u.badRun p = false) : ∃ t, exec (.launchMessageSend id) s = .next t ∧
      t.launches.look id = some { l with nextMsg := l.nextMsg + 1, dealt := l.dealt + 1 } ∧
      t.packets.look s.serial = some (u.launchPacket id l (s.roleCore 3) (leNat (u.readRun p)) 12 l.nextMsg) := by
  have hway : OnWay s u := by
    have := OnWay.reachCap s (s.dispatcher id l) l.lr.keysTag (Cap.ofBits l.lr.keys) false ((Cap.ofBits l.lr.keys).addr.toNat + 8 * l.nextMsg) 8
    rwa [show s.reachCap _ _ _ _ _ _ = _ from hk] at this
  have hserial : u.serial = s.serial := State.serial_reachCap hk
  have hlook : (u.did (.launchMessageSend id)).launches.look id = some l := by
    show u.launches.look id = some l
    rw [hway.launches, h.look]
  have hrun := h.run
  rw [hk, State.withKey, if_neg (by rw [hb]; exact Bool.false_ne_true)] at hrun
  generalize hv : (u.did (.launchMessageSend id)).updLaunch id (fun x => { x with nextMsg := l.nextMsg + 1, dealt := x.dealt + 1 }) = v at hrun
  have hvl : v.launches.look id = some { l with nextMsg := l.nextMsg + 1, dealt := l.dealt + 1 } := by
    rw [← hv]
    exact State.look_updLaunch hlook _
  have hvs : v.serial = s.serial := by
    rw [← hv, State.updLaunch_eq hlook]
    exact hserial
  refine ⟨_, hrun, hvl, ?_⟩
  rw [← hvs]
  exact v.sendPacket_look (s.roleCore 3) _

/-- A message of a launch that is no part of a pod grid carries its identity. -/
theorem State.lid_launchPacket (s : State) (id : Nat) (l : Launch) (h : l.podRoot = none) (c x n k : Nat) : (s.launchPacket id l c x n k).msg.lid = l.lid := by
  show l.lidFor _ = _
  unfold Launch.lidFor
  rw [h]
  rfl

end

/-! ## Dealing, and the sweeps, R145, R146 -/

section
variable {s : State} {id : Nat} {l : Launch}

/-- Whether a launch's dispatcher still deals. -/
def State.leftToDeal (s : State) (id : Nat) (l : Launch) : Bool :=
  let goes := !l.aborting && !l.draining
  if l.lr.kind then goes && (l.held || decide (l.nextMsg ≤ l.lr.extx))
  else goes && decide (l.handed < l.total) || s.gangs.any (fun g => g.2.launch == id && !g.2.dealt) || l.ranges.any (fun e => decide (e.2.1 < e.2.2))

theorem dealingDone_ends (hl : s.launches.look id = some l) (hr : l.root = .dealing) (hd : s.leftToDeal id l = false) (hs : s.launchSending id = false) :
    Does (.dealingDone id) (fun u => { u with launches := u.launches.set id { l with root := .none } }) s := by
  have hgo : ¬ (l.root ≠ .dealing ∨ s.leftToDeal id l = true ∨ s.launchSending id = true) := by
    rw [hr, hd, hs]
    simp
  unfold Does
  rw [exec_dealingDone]
  unfold execDealingDone
  simp only [hl]
  refine (if_neg hgo).trans ?_
  rw [State.updLaunch_eq (show (s.did _).launches.look id = some l from hl)]

theorem dealingDone_goesOn (hl : s.launches.look id = some l) (hd : s.leftToDeal id l = true) : Does (.dealingDone id) (fun u => u) s := by
  have hgo : l.root ≠ .dealing ∨ s.leftToDeal id l = true ∨ s.launchSending id = true := .inr (.inl hd)
  unfold Does
  rw [exec_dealingDone]
  unfold execDealingDone
  simp only [hl]
  exact if_pos hgo

theorem State.leftToDeal_messages (hk : l.lr.kind = true) (h : l.aborting = true ∨ l.draining = true ∨ l.held = false ∧ l.lr.extx < l.nextMsg) :
    s.leftToDeal id l = false := by
  unfold State.leftToDeal
  simp only [hk, if_true]
  rcases h with h | h | ⟨h, hn⟩
  · rw [h]
    rfl
  · rw [h, Bool.not_true, Bool.and_false, Bool.false_and]
  · rw [h, decide_eq_false (Nat.not_le.2 hn), Bool.or_false, Bool.and_false]

theorem State.leftToDeal_gangs (hk : l.lr.kind = false) (h : l.aborting = true ∨ l.draining = true ∨ l.total ≤ l.handed)
    (hg : ∀ g ∈ s.gangs, g.2.launch = id → g.2.dealt = true) (hr : ∀ e ∈ l.ranges, e.2.2 ≤ e.2.1) : s.leftToDeal id l = false := by
  have hgoes : (!l.aborting && !l.draining && decide (l.handed < l.total)) = false := by
    rcases h with h | h | h
    · rw [h]
      rfl
    · rw [h, Bool.not_true, Bool.and_false, Bool.false_and]
    · rw [decide_eq_false (Nat.not_lt.2 h), Bool.and_false]
  have hgangs : s.gangs.any (fun g => g.2.launch == id && !g.2.dealt) = false := List.any_eq_false.2 fun g hg' hx => by
    obtain ⟨h1, h2⟩ := Bool.and_eq_true_iff.1 hx
    rw [hg g hg' (beq_iff_eq.1 h1)] at h2
    cases h2
  have hranges : l.ranges.any (fun e => decide (e.2.1 < e.2.2)) = false := List.any_eq_false.2 fun e he hx =>
    absurd (of_decide_eq_true hx) (Nat.not_lt.2 (hr e he))
  unfold State.leftToDeal
  simp only [hk, Bool.false_eq_true, if_false]
  rw [hgoes, hgangs, hranges]
  rfl

theorem State.leftToDeal_live (ha : l.aborting = false) (hd : l.draining = false) (hm : l.lr.kind = true → l.held = true ∨ l.nextMsg ≤ l.lr.extx)
    (hg : l.lr.kind = false → l.handed < l.total) : s.leftToDeal id l = true := by
  unfold State.leftToDeal
  rw [ha, hd]
  cases hk : l.lr.kind with
  | true =>
    rcases hm hk with h | h
    · simp [h]
    · simp [h]
  | false => simp [hg hk]

end

/-! ### A sweep that passes every core at once, R146 -/

/-- What a sweep of all cores counts of a launch's messages. -/
def State.sentOf (s : State) (l : Launch) : Nat := (s.cores.map (fun e => e.2.sent.at l.lid 0)).sum
def State.rcvdOf (s : State) (l : Launch) : Nat := (s.cores.map (fun e => e.2.rcvd.at l.lid 0)).sum

/-- Whether a sweep of all cores finds a launch quiescent. -/
def State.quiesced (s : State) (id : Nat) (l : Launch) : Bool :=
  s.cores.all (fun e => s.idleCore e.1 e.2 id l) && s.idleDispatchers id l && s.sentOf l % 2 ^ 32 == s.rcvdOf l % 2 ^ 32

/-- A launch after a sweep of all cores that does not end it. -/
def State.afterSweep (s : State) (id : Nat) (l : Launch) : Launch :=
  { l with root := l.root.swept (s.quiesced id l) (s.sentOf l % 2 ^ 32), sweepAt := s.gt }

/-- A sweep that starts afresh and passes every core. -/
structure State.Sweeps (s : State) (id : Nat) (l : Launch) (upto : Nat) : Prop where
  look : s.launches.look id = some l
  live : l.root ≠ .ended
  claimed : l.root ≠ .queued
  local_ : l.podRoot = none
  swept : l.swept = 0
  sent : l.sumSent = 0
  rcvd : l.sumRcvd = 0
  idle : l.sumIdle = true
  due : l.sweepAt + 1000 ≤ s.gt
  all : 16384 ≤ upto
  cores : ∀ e ∈ s.cores, e.1 < 16384

section
variable {s : State} {id upto : Nat} {l : Launch}

theorem State.Sweeps.run (h : s.Sweeps id l upto) : exec (.quiescenceSweep id upto) s =
    if l.root.swept (s.quiesced id l) (s.sentOf l % 2 ^ 32) = .ended
    then s.whenPlaced id l (fun p u => ({ u.did (.quiescenceSweep id upto) with launches := u.launches.set id { l with sweepAt := s.gt } } : State).endLaunch id p {})
    else .next (({ s.did (.quiescenceSweep id upto) with draws := s.draws + 1, launches := s.launches.set id (s.afterSweep id l) } : State).push
        (.quiescenceSweep id (1 + Config.freeNat s.draws % 16384))) := by
  obtain ⟨hl, hr, hq, hp, hsw, hse, hrc, hid, hdue, hupto, hc⟩ := h
  have hall : s.cores.filter (fun e => decide (0 ≤ e.1) && decide (e.1 < upto)) = s.cores := List.filter_eq_self.2 fun e he => by
    rw [decide_eq_true (Nat.zero_le _), decide_eq_true (Nat.lt_of_lt_of_le (hc e he) hupto)]
    rfl
  rw [exec_quiescenceSweep]
  unfold execQuiescenceSweep
  simp only [hl]
  rw [if_neg (not_or.2 ⟨hr, hq⟩), if_neg (fun h => absurd hdue (Nat.not_le.2 h.2))]
  simp only [if_neg (Nat.not_lt.2 hupto), State.afterSweep, hsw, hse, hrc, hid, hall, Nat.zero_add, Bool.true_and, if_true]
  split
  next heq =>
    rw [hp] at heq
    cases heq
  · rfl

theorem State.Sweeps.becomes (h : s.Sweeps id l upto) {r : Root} (hr : l.root.swept (s.quiesced id l) (s.sentOf l % 2 ^ 32) = r) (hne : r ≠ .ended) :
    ∃ t, exec (.quiescenceSweep id upto) s = .next t ∧ t.launches.look id = some { l with root := r, sweepAt := s.gt } := by
  have hafter : s.afterSweep id l = { l with root := r, sweepAt := s.gt } := by
    unfold State.afterSweep
    rw [hr]
  rw [h.run, hr, if_neg hne, hafter]
  exact ⟨_, rfl, Sp.look_set_self _ _ _⟩

theorem State.Sweeps.waits (h : s.Sweeps id l upto) (hr : l.root.swept (s.quiesced id l) (s.sentOf l % 2 ^ 32) = .ended) {u : State}
    (hu : s.placeDone id l (s.doneSizes l) = (none, u)) : exec (.quiescenceSweep id upto) s = .next u := by
  rw [h.run, if_pos hr]
  exact State.whenPlaced_waits hu

/-- The sweep that confirms the last one ends the launch, R146, R147. -/
theorem State.Sweeps.ends (h : s.Sweeps id l upto) (hr : l.root.swept (s.quiesced id l) (s.sentOf l % 2 ^ 32) = .ended) {p : List (Nat × Nat × Nat)} {u : State}
    (hu : s.placeDone id l (s.doneSizes l) = (some p, u)) : ∃ t x, exec (.quiescenceSweep id upto) s = .next t ∧ t.launches.look id = some x ∧
      x.root = .ended ∧ x.gtend = s.gt ∧ ∀ c ∈ l.claimed, (t.handler c.1 c.2).held = false ∧ (t.handler c.1 c.2).mode = 0 := by
  have hway : OnWay s u := by
    have := OnWay.placeDone id l (s.doneSizes l) s
    rwa [hu] at this
  generalize hv : ({ u.did (.quiescenceSweep id upto) with launches := u.launches.set id { l with sweepAt := s.gt } } : State) = v
  have hlook : v.launches.look id = some { l with sweepAt := s.gt } := by
    rw [← hv]
    exact Sp.look_set_self _ _ _
  have hgt : v.gt = s.gt := by
    rw [← hv]
    exact hway.gt
  refine ⟨v.endLaunch id p {}, _, ?_, State.look_endLaunch hlook p {}, rfl, hgt, fun c hc => State.handler_endLaunch hlook p {} hc⟩
  rw [h.run, if_pos hr, State.whenPlaced_goes hu, hv]

/-- The transitions of R146. -/
theorem State.quiesced_iff : s.quiesced id l = true ↔ (s.cores.all (fun e => s.idleCore e.1 e.2 id l) && s.idleDispatchers id l) = true ∧
    s.sentOf l % 2 ^ 32 = s.rcvdOf l % 2 ^ 32 := by
  unfold State.quiesced
  rw [Bool.and_eq_true_iff, beq_iff_eq]

end

/-! ## Faults, aborts and cancels, R324 to R326, R412 -/

section
variable {s : State} {id : Nat} {l : Launch}

/-- Some events sent on their way, one for each entry of a list. -/
theorem State.foldl_push_ex {β : Type} (g : β → Instr) : ∀ (m : List β) (s : State),
    ∃ d, m.foldl (fun u e => u.push (g e)) s = { s with due := d } ∧ s.due ⊆ d ∧ ∀ e ∈ m, g e ∈ d
  | [], s => ⟨s.due, rfl, List.Subset.refl _, fun _ h => absurd h (by simp)⟩
  | b :: m, s => by
    obtain ⟨d, hd, hsub, hall⟩ := State.foldl_push_ex g m (s.push (g b))
    refine ⟨d, hd, fun x hx => hsub (List.mem_append_left _ hx), fun e he => ?_⟩
    rcases List.mem_cons.1 he with rfl | he
    · exact hsub (List.mem_append_right _ (List.mem_singleton_self _))
    · exact hall e he

/-- A stop goes to every core and every plate's dispatchers. -/
theorem State.sendStop_local (s : State) (id : Nat) (hp : l.lr.isPod s.table.devnum = false) (ev : Nat → Instr) : ∃ d, s.sendStop id l ev = { s with due := d } ∧
    (∀ e ∈ s.cores, ev e.1 ∈ d) ∧ ∀ p, p < 4 → ev (16384 + p) ∈ d := by
  obtain ⟨d1, h1, -, hcores⟩ := State.foldl_push_ex (fun e : Nat × Core => ev e.1) s.cores s
  obtain ⟨d2, h2, hsub, hplates⟩ := State.foldl_push_ex (fun p => ev (16384 + p)) (List.range 4) { s with due := d1 }
  obtain ⟨d3, h3⟩ := ({ s with due := d2 } : State).pushOnce_ex (.launchMessageSend id)
  have hlast := ({ s with due := d2 } : State).due_sub_pushOnce (.launchMessageSend id)
  rw [h3] at hlast
  refine ⟨d3, ?_, fun e he => hlast (hsub (hcores e he)), fun p hp => hlast (hplates p (List.mem_range.2 hp))⟩
  unfold State.sendStop
  rw [if_neg (by rw [hp]; simp), h1]
  exact (congrArg (fun u : State => u.pushOnce (.launchMessageSend id)) h2).trans h3

/-- A launch put in its place, and its stop on its way. -/
theorem State.stops_spread (s : State) (id : Nat) (i : Instr) (x : Launch) (hp : x.lr.isPod s.table.devnum = false) (ev : Nat → Instr) :
    ∃ t, ({ s.did i with launches := s.launches.set id x } : State).sendStop id x ev = t ∧
      ((∀ e ∈ s.cores, ev e.1 ∈ t.due) ∧ ∀ p, p < 4 → ev (16384 + p) ∈ t.due) ∧ t.launches.look id = some x := by
  obtain ⟨d, hd, hcores, hplates⟩ := ({ s.did i with launches := s.launches.set id x } : State).sendStop_local id (l := x) hp ev
  exact ⟨_, hd, ⟨hcores, hplates⟩, Sp.look_set_self _ _ _⟩

/-- The first fault starts the abort of its launch, R324. -/
theorem faultNotice_aborts (hl : s.launches.look id = some l) (hr : l.root ≠ .ended) (hp : l.podRoot = none) (ha : l.aborting = false) (hf : l.fcount = 0)
    (gt cause place : Nat) : exec (.faultNotice id gt cause place) s = .next (({ s.did (.faultNotice id gt cause place) with
      launches := s.launches.set id { l with fgt := gt, fcause := cause % 2 ^ 32, floc := place, fcount := 1, aborting := true, status := if l.draining then 2 else 1 } } : State).sendStop id
        { l with fgt := gt, fcause := cause % 2 ^ 32, floc := place, fcount := 1, aborting := true, status := if l.draining then 2 else 1 } (fun k => .abort id k)) := by
  rw [exec_faultNotice]
  unfold execFaultNotice
  simp only [hl]
  rw [if_neg hr]
  split
  next heq =>
    rw [hp] at heq
    cases heq
  · rw [if_neg (by rw [ha]; exact Bool.false_ne_true)]
    simp only [hf, true_or, if_true, Nat.zero_add]
    rfl

/-- A later fault is counted, and replaces an earlier one in the order of R325. -/
theorem faultNotice_counts (hl : s.launches.look id = some l) (hr : l.root ≠ .ended) (hp : l.podRoot = none) (ha : l.aborting = true) (hf : l.fcount ≠ 0)
    (gt cause place : Nat) : Does (.faultNotice id gt cause place) (fun u => { u with
        launches := u.launches.set id (if gt < l.fgt ∨ gt = l.fgt ∧ place < l.floc
          then { l with fgt := gt, fcause := cause % 2 ^ 32, floc := place, fcount := l.fcount + 1 } else { l with fcount := l.fcount + 1 }) }) s := by
  have hearlier : (l.fcount = 0 ∨ earlierFault gt place l.fgt l.floc = true) ↔ (gt < l.fgt ∨ gt = l.fgt ∧ place < l.floc) := by
    unfold earlierFault
    simp [hf]
  unfold Does
  rw [exec_faultNotice]
  unfold execFaultNotice
  simp only [hl]
  rw [if_neg hr]
  split
  next heq =>
    rw [hp] at heq
    cases heq
  · rw [if_pos ha]
    by_cases h : gt < l.fgt ∨ gt = l.fgt ∧ place < l.floc
    · rw [if_pos (hearlier.2 h), if_pos h]
    · rw [if_neg (mt hearlier.1 h), if_neg h]

/-- A cancel of a launch that still waits to be claimed ends it, R412. -/
theorem cancelDecision_queued (hl : s.launches.look id = some l) (hr : l.root = .queued) (hp : l.podRoot = none) (ha : l.aborting = false) (hd : l.draining = false)
    (mode : Nat) : exec (.cancelDecision id mode) s = s.whenPlaced id l (fun p u => ((u.did (.cancelDecision id mode)).updLaunch id (fun x => { x with status := 2 })).endLaunch id p {}) := by
  rw [exec_cancelDecision]
  unfold execCancelDecision
  simp only [hl]
  rw [if_neg (by rw [hr, ha, hd, hp]; simp), if_pos hr]

/-- A cancel that goes to the cores, R412: the first, or one that kills after one that drains. -/
theorem cancelDecision_stops (hl : s.launches.look id = some l) (hr : l.root ≠ .ended) (hq : l.root ≠ .queued) (hp : l.podRoot = none) (ha : l.aborting = false)
    {mode : Nat} (hd : l.draining = true → mode = 1) : exec (.cancelDecision id mode) s = .next (({ s.did (.cancelDecision id mode) with
      launches := s.launches.set id { l with status := if l.draining then l.status else 2, aborting := mode == 1, draining := l.draining || mode == 0 } } : State).sendStop id
        { l with status := if l.draining then l.status else 2, aborting := mode == 1, draining := l.draining || mode == 0 } (fun k => .cancel id k)) := by
  have hgo : ¬ (l.root = .ended ∨ l.aborting = true ∨ (l.draining = true ∧ mode ≠ 1) ∨ l.podRoot.isSome = true) := by
    rw [ha, hp]
    rintro (h | h | ⟨h, hm⟩ | h)
    · exact hr h
    · cases h
    · exact hm (hd h)
    · cases h
  rw [exec_cancelDecision]
  unfold execCancelDecision
  simp only [hl]
  rw [if_neg hgo, if_neg hq]
  rfl

theorem cancelDecision_late (hl : s.launches.look id = some l) (hd : l.draining = true) {mode : Nat} (hm : mode ≠ 1) :
    Does (.cancelDecision id mode) (fun u => u) s := by
  unfold Does
  rw [exec_cancelDecision]
  unfold execCancelDecision
  simp only [hl]
  rw [if_pos (.inr (.inr (.inl ⟨hd, hm⟩)))]

end

/-! ## Tasks killed, R326 -/

/-- What leaves every slot, every matrix command and every launch's reach of stops as it is. -/
structure Unslotted (s t : State) : Prop where
  slots : ∀ c n, t.slot c n = s.slot c n
  cmds : t.cmds = s.cmds
  reached : ∀ id, (t.launches.look id).map (·.reached) = (s.launches.look id).map (·.reached)

namespace Unslotted
variable {s t u : State}

theorem refl (s : State) : Unslotted s s := ⟨fun _ _ => rfl, rfl, fun _ => rfl⟩

theorem trans (h : Unslotted s t) (k : Unslotted t u) : Unslotted s u :=
  ⟨fun c n => (k.slots c n).trans (h.slots c n), k.cmds.trans h.cmds, fun id => (k.reached id).trans (h.reached id)⟩

theorem of_cores (h : t.cores = s.cores) (k : t.cmds = s.cmds) (j : t.launches = s.launches) : Unslotted s t :=
  ⟨fun c n => State.slot_congr h c n, k, fun id => by rw [j]⟩

theorem foldl {β : Type} {f : State → β → State} (hf : ∀ t b, Unslotted t (f t b)) (l : List β) (s : State) : Unslotted s (l.foldl f s) :=
  foldl_keeps (P := Unslotted s) (fun t b h => h.trans (hf t b)) l s (refl s)

theorem updCore (s : State) (c : Nat) (f : Core → Core) (hf : ∀ k, (f k).slots = k.slots) : Unslotted s (s.updCore c f) where
  slots d n := by
    unfold State.slot Core.slot
    by_cases h : c = d
    · subst h
      rw [State.core_updCore_self, hf]
    · rw [State.core_updCore_ne s h]
  cmds := rfl
  reached _ := rfl

theorem pushOnce (s : State) (i : Instr) : Unslotted s (s.pushOnce i) := by
  obtain ⟨d, h⟩ := s.pushOnce_ex i
  rw [h]
  exact of_cores rfl rfl rfl

theorem updLaunch (s : State) (id : Nat) {f : Launch → Launch} (hf : ∀ l, (f l).reached = l.reached) : Unslotted s (s.updLaunch id f) where
  slots c n := State.slot_congr (s.cores_updLaunch id f) c n
  cmds := by
    unfold State.updLaunch
    split <;> rfl
  reached j := by
    unfold State.updLaunch
    split
    · rfl
    next l hl =>
      show ((s.launches.set id (f l)).look j).map _ = _
      rw [Sp.look_set]
      split
      next h =>
        subst h
        rw [hl]
        exact congrArg some (hf l)
      · rfl

end Unslotted

/-- What a loan's end does in turn, R359: the loan's mark and SPILLMAP go, the partner's banks are cleared, and its slots are released. -/
def State.unlend (s : State) (c : Nat) (spill : Word) : State := s.updCore c (fun k => { k with lit := none, spill := spill })
def State.unspill (s : State) (b : Option (Nat × Nat)) : State :=
  match b with
  | some b => s.clearBank b.1 b.2
  | none => s
def State.unreserve (s : State) (g p : Nat) : State :=
  match s.gangs.look g with
  | some x => { s with gangs := s.gangs.set g { x with reserved := x.reserved.filter (fun r => r.1 != p) } }
  | none => s
def State.undark (s : State) (g p : Nat) : State :=
  if (s.core p).dark = some g then (s.updCore p (fun k => { k with dark := none })).pushOnce (.taskSelection p) else s

theorem State.endLoan_ex (s : State) (c : Nat) : s.endLoan c = s ∨ ∃ spill b g p, s.endLoan c = (((s.unlend c spill).unspill b).unreserve g p).undark g p := by
  unfold State.endLoan
  dsimp only
  split
  · exact .inl rfl
  next g _ =>
    refine .inr ⟨if spillKind (s.core c).spill = 1 ∧ bit (spillPlace (s.core c).spill) 4 = true then 0 else (s.core c).spill,
      if (if spillKind (s.core c).spill = 1 ∧ bit (spillPlace (s.core c).spill) 4 = true then 0 else (s.core c).spill) = (s.core c).spill then none
        else s.namedBank c (s.core c).spill, g, coreId (corePlate c) (coreX c ^^^ 1) (coreY c) (coreK c), ?_⟩
    generalize (if spillKind (s.core c).spill = 1 ∧ bit (spillPlace (s.core c).spill) 4 = true then 0 else (s.core c).spill) = spill
    by_cases h : spill = (s.core c).spill
    · rw [if_pos h, if_pos h]
      rfl
    · rw [if_neg h, if_neg h]
      rfl

namespace Unslotted
variable {s t u : State}

theorem unlend (s : State) (c : Nat) (spill : Word) : Unslotted s (s.unlend c spill) := updCore s c _ fun _ => rfl

theorem unspill (s : State) (b : Option (Nat × Nat)) : Unslotted s (s.unspill b) := by
  cases b with
  | some b => exact of_cores rfl rfl rfl
  | none => exact refl s

theorem unreserve (s : State) (g p : Nat) : Unslotted s (s.unreserve g p) := by
  unfold State.unreserve
  split
  · exact of_cores rfl rfl rfl
  · exact refl s

theorem undark (s : State) (g p : Nat) : Unslotted s (s.undark g p) := by
  unfold State.undark
  split
  · exact (updCore s p (fun k => { k with dark := none }) fun _ => rfl).trans (pushOnce _ _)
  · exact refl s

/-- A loan's end changes no slot, R359. -/
theorem endLoan (s : State) (c : Nat) : Unslotted s (s.endLoan c) := by
  rcases s.endLoan_ex c with h | ⟨spill, b, g, p, h⟩
  · rw [h]
    exact refl s
  · rw [h]
    exact (((unlend s c spill).trans (unspill _ b)).trans (unreserve _ g p)).trans (undark _ g p)

end Unslotted

/-- What a gang's last task leaves of it, R325, R357. -/
def State.endGang (s : State) (k : Nat) (g : Gang) : State :=
  (g.darkCores.foldl (fun u c => u.undark k c) ({ s with gangs := s.gangs.drop k } : State)).updLaunch g.launch
    (fun l => if g.anyKilled then { l with killed := l.killed + 1 } else { l with finished := l.finished + 1 })

namespace Unslotted
variable {s t u : State}

theorem endGang (s : State) (k : Nat) (g : Gang) : Unslotted s (s.endGang k g) := by
  have hgone : Unslotted s { s with gangs := s.gangs.drop k } := of_cores rfl rfl rfl
  refine (hgone.trans (foldl (fun t c => undark t k c) g.darkCores _)).trans (updLaunch _ g.launch fun l => ?_)
  split <;> rfl

/-- A task that leaves its gang changes no slot, R325, R357. -/
theorem leaveGang (s : State) (k i : Nat) (b : Bool) : Unslotted s (s.leaveGang k i b) := by
  unfold State.leaveGang
  split
  · exact refl s
  next g _ =>
    have hset : ∀ x : Gang, Unslotted s { s with gangs := s.gangs.set k x } := fun x => of_cores rfl rfl rfl
    have hend : ∀ u x, Unslotted s u → Unslotted s (u.endGang k x) := fun u x h => h.trans (endGang u k x)
    dsimp only
    split
    next h =>
      split
      · exact hset _
      · split
        · exact hset _
        · split
          · exact (hset _).trans (endLoan _ _)
          · exact hset _
    next h =>
      refine hend _ { g with toCreate := g.toCreate.erase i, alive := g.alive.erase i, anyKilled := g.anyKilled || b } ?_
      split
      · exact hset _
      · split
        · exact hset _
        · split
          · exact (hset _).trans (endLoan _ _)
          · exact hset _

end Unslotted

/-- What a kill at a core does beside the kill itself: no other core's slot changes, no slot takes a task, no matrix command comes or
goes, and a launch's stops have reached what they had. -/
structure Killing (c : Nat) (s t : State) : Prop where
  others : ∀ d n, d ≠ c → t.slot d n = s.slot d n
  free : ∀ n, (s.slot c n).phase = .free → (t.slot c n).phase = .free
  cmds : t.cmds = s.cmds
  reached : ∀ id, (t.launches.look id).map (·.reached) = (s.launches.look id).map (·.reached)

namespace Killing
variable {s t u : State} {c : Nat}

theorem refl (s : State) : Killing c s s := ⟨fun _ _ _ => rfl, fun _ h => h, rfl, fun _ => rfl⟩

theorem trans (h : Killing c s t) (k : Killing c t u) : Killing c s u :=
  ⟨fun d n hd => (k.others d n hd).trans (h.others d n hd), fun n hn => k.free n (h.free n hn), k.cmds.trans h.cmds,
    fun id => (k.reached id).trans (h.reached id)⟩

theorem unslotted (h : Unslotted s t) : Killing c s t :=
  ⟨fun d n _ => h.slots d n, fun n hn => by rw [h.slots, hn], h.cmds, h.reached⟩

theorem foldl {β : Type} {f : State → β → State} (hf : ∀ t b, Killing c t (f t b)) (l : List β) (s : State) : Killing c s (l.foldl f s) :=
  foldl_keeps (P := Killing c s) (fun t b h => h.trans (hf t b)) l s (refl s)

theorem setSlot (s : State) (c n : Nat) (x : Slot) (hx : (s.slot c n).phase = .free → x.phase = .free) : Killing c s (s.setSlot c n x) where
  others d m hd := State.slot_setSlot_ne s (.inl (Ne.symm hd)) x
  free m hm := by
    by_cases h : n = m
    · subst h
      rw [State.slot_setSlot_self]
      exact hx hm
    · rw [State.slot_setSlot_ne s (.inr h)]
      exact hm
  cmds := rfl
  reached _ := rfl

theorem unbind (s : State) (c n q : Nat) : Killing c s (s.unbind c n q) := by
  have h : Killing c s (s.updSlot c n (fun x => { x with ports := x.ports.drop q })) := setSlot s c n _ fun h => h
  unfold State.unbind
  dsimp only
  split
  · exact h.trans (unslotted (.updCore _ c _ fun _ => rfl))
  · exact h

theorem freeSlot (s : State) (c n : Nat) : Killing c s (s.freeSlot c n) := (setSlot s c n _ fun _ => rfl).trans (unslotted (.pushOnce _ _))

/-- A task that is killed leaves its slot free, R124, R326. -/
theorem phase_freeSlot (s : State) (c n : Nat) : ((s.freeSlot c n).slot c n).phase = .free := by
  unfold State.freeSlot
  rw [(Unslotted.pushOnce _ _).slots, State.slot_setSlot_self]

theorem removeTask (s : State) (c n : Nat) : Killing c s (s.removeTask c n true) ∧ ((s.removeTask c n true).slot c n).phase = .free := by
  have hunbind : ∀ (t : State) (q : Nat), Killing c t (t.unbind c n q) := fun t q => unbind t c n q
  have hfree : Killing c s ((s.unbindAll c n).freeSlot c n) := (foldl hunbind (List.range 8) s).trans (freeSlot (s.unbindAll c n) c n)
  have hphase := phase_freeSlot (s.unbindAll c n) c n
  have hgone : s.removeTask c n true = (s.unbindAll c n).freeSlot c n ∨
      ∃ g i, s.removeTask c n true = ((s.unbindAll c n).freeSlot c n).leaveGang g i true := by
    unfold State.removeTask
    cases hg : (s.slot c n).gangId with
    | none => exact .inl (by simp only [hg])
    | some g =>
      refine .inr ⟨g, (s.slot c n).gti, ?_⟩
      simp only [hg, if_true]
      split <;> rfl
  generalize (s.unbindAll c n).freeSlot c n = u at hfree hphase hgone
  rcases hgone with h | ⟨g, i, h⟩
  · rw [h]
    exact ⟨hfree, hphase⟩
  · rw [h]
    exact ⟨hfree.trans (unslotted (.leaveGang u g i true)), by rw [(Unslotted.leaveGang u g i true).slots, hphase]⟩

theorem killTask (s : State) (c n : Nat) : Killing c s (s.killTask c n) ∧ ((s.killTask c n).slot c n).phase = .free := by
  have hun : Unslotted s (s.unpark ⟨c, n, (s.slot c n).uid⟩) := .of_cores rfl rfl rfl
  obtain ⟨hk, hf⟩ := removeTask (s.unpark ⟨c, n, (s.slot c n).uid⟩) c n
  exact ⟨(unslotted hun).trans hk, hf⟩

end Killing

theorem State.fillInbox_none {s : State} (h : s.cmds = []) (c : Nat) : s.fillInbox c = s := by
  unfold State.fillInbox
  refine foldl_keeps (P := fun t => t = s) (fun t k ht => ?_) _ s rfl
  subst ht
  rw [h]
  rfl

theorem State.dropCmds_none {s : State} (h : s.cmds = []) (c id : Nat) : s.dropCmds c id = s := by
  unfold State.dropCmds
  rw [h]
  exact State.fillInbox_none h c

/-- The tasks of some slots of a core killed, one after the other. -/
def State.killTasks (s : State) (c : Nat) (l : List (Nat × Slot)) : State := l.foldl (fun u e => u.killTask c e.1) s

theorem Killing.killTasks (c : Nat) : ∀ (l : List (Nat × Slot)) (s : State), Killing c s (s.killTasks c l)
  | [], s => Killing.refl s
  | e :: l, s => (Killing.killTask s c e.1).1.trans (Killing.killTasks c l (s.killTask c e.1))

theorem State.phase_killTasks (c : Nat) {n : Nat} : ∀ (l : List (Nat × Slot)) (s : State), n ∈ l.map (·.1) → ((s.killTasks c l).slot c n).phase = .free
  | [], _, h => absurd h (by simp)
  | e :: l, s, h => by
    rcases List.mem_cons.1 h with rfl | h
    · exact (Killing.killTasks c l (s.killTask c e.1)).free e.1 (Killing.killTask s c e.1).2
    · exact State.phase_killTasks c l (s.killTask c e.1) h

/-- A slot that holds a launch's task is listed. -/
theorem State.slot_listed {s : State} {c n id : Nat} (h : (s.slot c n).launch = some id) : (n, s.slot c n) ∈ (s.core c).slots := by
  unfold State.slot Core.slot Sp.at at h ⊢
  cases hlook : (s.core c).slots.look n with
  | none =>
    rw [hlook] at h
    cases h
  | some x => exact Sp.mem_of_look hlook

/-- ABORT at a core that holds no matrix command: every task of the launch is killed, R324, R326. -/
theorem Killing.killCore {s : State} (h : s.cmds = []) (id c : Nat) : Killing c s (s.killCore id c) ∧
    ∀ n, (s.slot c n).launch = some id → ((s.killCore id c).slot c n).phase = .free := by
  generalize hl : (s.core c).slots.filter (fun e => e.2.phase != .free && e.2.launch == some id) = l
  have hfold := Killing.killTasks c l s
  have hfree : ∀ n, (s.slot c n).launch = some id → ((s.killTasks c l).slot c n).phase = .free := fun n hn => by
    by_cases hp : (s.slot c n).phase = .free
    · exact hfold.free n hp
    · have hmem : (n, s.slot c n) ∈ l := by
        rw [← hl, List.mem_filter]
        exact ⟨State.slot_listed hn, by simp [hp, hn]⟩
      exact State.phase_killTasks c l s (List.mem_map.2 ⟨_, hmem, rfl⟩)
  have hend : ∃ u, s.killCore id c = u.dropCmds c id ∧ Unslotted (s.killTasks c l) u := by
    unfold State.killCore
    rw [hl]
    exact ⟨_, rfl, (Unslotted.updCore (s.killTasks c l) c (fun k => { k with handlers := k.handlers.map (fun h =>
      (h.1, if h.2.held && h.2.launch == some id then h.2.advance else h.2)) }) fun _ => rfl).trans (.of_cores rfl rfl rfl)⟩
  obtain ⟨u, hu, hun⟩ := hend
  rw [hu, State.dropCmds_none (hun.cmds.trans (hfold.cmds.trans h))]
  exact ⟨hfold.trans (.unslotted hun), fun n hn => by rw [hun.slots, hfree n hn]⟩

/-! ### Stops at a core, R324, R412 -/

section
variable {s : State} {id c : Nat} {l : Launch}

theorem abort_reaches (hl : s.launches.look id = some l) (hr : l.root ≠ .ended) (ha : l.aborting = true) (hn : l.reached.contains c = false) :
    exec (.abort id c) s = .next ((s.did (.abort id c)).stopAt id c true) := by
  rw [exec_abort]
  unfold execAbort
  simp only [hl]
  rw [if_neg (by rw [ha, hn]; simp [hr])]

theorem cancel_reaches (hl : s.launches.look id = some l) (hr : l.root ≠ .ended) (hg : l.aborting = true ∨ l.draining = true)
    (hn : l.reached.contains c = false ∨ l.aborting = true ∧ l.draining = true) :
    exec (.cancel id c) s = .next ((s.did (.cancel id c)).stopAt id c l.aborting) := by
  have hgo : ¬ (l.root = .ended ∨ (!(decide (l.aborting = true ∨ l.draining = true))) = true ∨
      l.reached.contains c = true ∧ (!(decide (l.aborting = true ∧ l.draining = true))) = true) := by
    rintro (h | h | ⟨h, h'⟩)
    · exact hr h
    · simp [hg] at h
    · rcases hn with hn | hn
      · rw [hn] at h
        cases h
      · simp [hn] at h'
  rw [exec_cancel]
  unfold execCancel
  simp only [hl]
  exact if_neg hgo

/-- A stop that kills at a core. -/
theorem State.stopAt_kills (hl : s.launches.look id = some l) (hc : c < 16384) (h : s.cmds = []) :
    (∀ n, (s.slot c n).launch = some id → ((s.stopAt id c true).slot c n).phase = .free) ∧
    (∀ d n, d ≠ c → (s.stopAt id c true).slot d n = s.slot d n) ∧
    ((s.stopAt id c true).launches.look id).map (·.reached) = some (l.reached ++ [c]) := by
  have hstop : s.stopAt id c true = ({ s with launches := s.launches.set id { l with reached := l.reached ++ [c] } } : State).killCore id c := by
    unfold State.stopAt
    dsimp only
    rw [if_neg (by omega), if_neg (by omega), if_pos rfl, State.updLaunch_eq hl]
  obtain ⟨hk, hfree⟩ := Killing.killCore (s := { s with launches := s.launches.set id { l with reached := l.reached ++ [c] } }) h id c
  rw [hstop]
  refine ⟨hfree, hk.others, (hk.reached id).trans ?_⟩
  show ((s.launches.set id _).look id).map _ = _
  rw [Sp.look_set_self]
  rfl

/-- A stop that lets a core's tasks go on. -/
theorem State.stopAt_drains (hl : s.launches.look id = some l) (hc : c < 16384) :
    s.stopAt id c false = { s with launches := s.launches.set id { l with reached := l.reached ++ [c] } } := by
  unfold State.stopAt
  dsimp only
  rw [if_neg (by omega), if_neg (by omega), if_neg Bool.false_ne_true, State.updLaunch_eq hl]

end

/-! ## Handles and answers at their tasks, R402, R410, R411 -/

/-- What a task's slot becomes with a scalar that it waits for. -/
def Slot.given (x : Slot) (d id w : Nat) : Slot := ({ x with board := x.board.filter (fun b => b.2 != id) } : Slot).land (fun a => a.setScalar d w)

section
variable {s : State} {id op d h kind mode : Nat} {l : Launch} {o : Op} {r : TaskRef}

theorem State.slot_giveScalar (hr : s.alive r = true) (d id w : Nat) : (s.giveScalar r d id w).slot r.core r.slot = (s.slot r.core r.slot).given d id w := by
  unfold State.giveScalar State.updTask
  rw [if_pos hr]
  exact State.slot_setSlot_self _ _ _ _

theorem State.giveScalar_ex (s : State) (r : TaskRef) (d id w : Nat) : ∃ k, s.giveScalar r d id w = { s with cores := k } := s.updTask_ex r _

/-- The handle of a launch reaches the task that launched it, R402, R404. -/
theorem launchHandleReturn_gives (hl : s.launches.look id = some l) (ha : l.asker = some (r, d)) :
    exec (.launchHandleReturn id) s = .next (({ s.did (.launchHandleReturn id) with launches := s.launches.set id { l with asker := none } } : State).giveScalar r d id
      (s.table.devnum * 2 ^ 48 + l.seq)) := by
  have hword : s.launchHandle { l with lid := 0 } = s.table.devnum * 2 ^ 48 + l.seq := by
    unfold State.launchHandle
    rw [Nat.zero_mul, Nat.add_zero]
  rw [exec_launchHandleReturn]
  unfold execLaunchHandleReturn
  simp only [hl, ha]
  rw [State.updLaunch_eq (show (s.did _).launches.look id = some l from hl), ← hword]
  rfl

/-- The state in which an operation has its answer, before its task has it. -/
def State.answering (s : State) (op n : Nat) : State := { s.did (.lctlAnswer op) with ops := s.ops.drop op, draws := s.draws + n }

/-- An answer that has reached its task, R410. -/
theorem State.given_answering (hr : s.alive o.task = true) (n d w : Nat) : let t := (s.answering op n).giveScalar o.task d op w
    t.ops = s.ops.drop op ∧ t.slot o.task.core o.task.slot = (s.slot o.task.core o.task.slot).given d op w := by
  intro t
  obtain ⟨k, hk⟩ := (s.answering op n).giveScalar_ex o.task d op w
  exact ⟨by rw [show t = _ from hk]; rfl, State.slot_giveScalar (s := s.answering op n) hr d op w⟩

/-- A query of a launch of this device that has not ended, R411. -/
theorem lctlAnswer_queried (ho : s.ops.look op = some o) (hk : o.kind = .lctl 1 h mode) (hret : o.ret = .scalar d) (hdev : bits h 57 48 = s.table.devnum)
    (hn : s.launchNamed h = some (id, l)) (hr : l.root ≠ .ended) (hm : l.podMap = false) :
    exec (.lctlAnswer op) s = .next ((s.answering op 1).giveScalar o.task d op l.answer) := by
  have hword : ({ s.did (.lctlAnswer op) with ops := s.ops.drop op, draws := s.draws + 1 } : State).lctlWord h = l.answer := by
    have hn' : ({ s.did (.lctlAnswer op) with ops := s.ops.drop op, draws := s.draws + 1 } : State).launchNamed h = some (id, l) := hn
    unfold State.lctlWord
    simp only [hn']
    exact if_pos hr
  rw [exec_lctlAnswer]
  unfold execLctlAnswer
  simp only [ho, hk, hret, hdev, hn, hm, ne_eq, not_true_eq_false, if_false, false_and, and_false, Bool.and_false, Bool.false_eq_true,
    show ¬ (1 = 2) by decide, show ¬ (1 = 0) by decide, or_self]
  rw [← hword]
  rfl

/-- A query of an active pod grid at its root, R411. -/
theorem lctlAnswer_podQueried (ho : s.ops.look op = some o) (hk : o.kind = .lctl 1 h mode) (hret : o.ret = .scalar d) (hdev : bits h 57 48 = s.table.devnum)
    (hn : s.launchNamed h = some (id, l)) (hr : l.root ≠ .ended) (hm : l.podMap = true) :
    exec (.lctlAnswer op) s = .next ((s.answering op 1).giveScalar o.task d op (s.podAnswer l (Config.freeNat s.draws))) := by
  have hactive : (l.root != .ended) = true := bne_iff_ne.2 hr
  rw [exec_lctlAnswer]
  unfold execLctlAnswer
  simp only [ho, hk, hret, hdev, hn, hm, hactive, ne_eq, not_true_eq_false, if_false, false_and, and_false, Bool.and_self, if_true,
    show ¬ (1 = 2) by decide, show ¬ (1 = 0) by decide, or_self]
  rfl

/-- A wait for a launch that has not ended, R410. -/
theorem lctlAnswer_waits (ho : s.ops.look op = some o) (hk : o.kind = .lctl 2 h mode) (hdev : bits h 57 48 = s.table.devnum)
    (hn : s.launchNamed h = some (id, l)) (hr : l.root ≠ .ended) : Waits (.lctlAnswer op) s := by
  have hactive : (l.root != .ended) = true := bne_iff_ne.2 hr
  unfold Waits
  rw [exec_lctlAnswer]
  unfold execLctlAnswer
  simp only [ho, hk, hdev, hn, hactive, ne_eq, not_true_eq_false, decide_false, Bool.not_false, and_self, true_or, if_true]

/-- The answer for a launch of another device, R411. -/
theorem lctlAnswer_far (ho : s.ops.look op = some o) (hk : o.kind = .lctl kind h mode) (hret : o.ret = .scalar d) (hdev : bits h 57 48 ≠ s.table.devnum) :
    exec (.lctlAnswer op) s = .next (((s.answering op 1).farLctl h (kind == 2)).2.giveScalar o.task d op ((s.answering op 1).farLctl h (kind == 2)).1) := by
  rw [exec_lctlAnswer]
  unfold execLctlAnswer
  simp only [ho, hk, hret, hdev, ne_eq, not_false_eq_true, if_true]
  rfl

theorem State.farLctl_unreached (hf : s.farLaunch h = false) (w : Bool) : s.farLctl h w = (0xFFFF * 2 ^ 48, s) := by
  unfold State.farLctl
  rw [hf]
  rfl

/-- The states and statuses of R411. -/
theorem mem_lctlPairs {w : Bool} {st state : Nat} (hp : (st, state) ∈ lctlPairs w) :
    st = 0xFFFF ∧ state = 0 ∨ st ≤ 3 ∧ state = 4 ∨ st = 0xFFFE ∧ w = false ∧ state ≤ 3 := by
  cases w with
  | true =>
    simp only [lctlPairs, if_true, List.append_nil, List.mem_cons, Prod.mk.injEq, List.not_mem_nil, or_false] at hp
    simp only [Bool.true_eq_false, false_and, and_false, or_false]
    omega
  | false =>
    simp only [lctlPairs, Bool.false_eq_true, if_false, List.cons_append, List.nil_append, List.mem_cons, Prod.mk.injEq, List.not_mem_nil, or_false] at hp
    simp only [true_and]
    omega

theorem State.farLctl_reached (hf : s.farLaunch h = true) (w : Bool) : ∃ st state n, s.farLctl h w = (st * 2 ^ 48 + state * 2 ^ 40 + n, { s with draws := s.draws + 1 }) ∧
    n < 2 ^ 32 ∧ (state < 2 → n = 0) ∧ (st = 0xFFFF ∧ state = 0 ∨ st ≤ 3 ∧ state = 4 ∨ st = 0xFFFE ∧ w = false ∧ state ≤ 3) := by
  generalize hv : Config.freeNat s.draws = v
  have hlen : v % (lctlPairs w).length < (lctlPairs w).length := Nat.mod_lt v (by cases w <;> decide)
  obtain ⟨⟨st, state⟩, hx⟩ : ∃ x, (lctlPairs w)[v % (lctlPairs w).length]? = some x := ⟨_, List.getElem?_eq_getElem hlen⟩
  refine ⟨st, state, if state < 2 then 0 else v / 16 % 2 ^ 32, ?_, ?_, fun h => if_pos h, mem_lctlPairs (List.mem_of_getElem? hx)⟩
  · unfold State.farLctl
    rw [if_neg (by rw [hf]; simp)]
    simp only [State.draw, hv, hx, Option.getD_some]
  · split
    · decide
    · exact Nat.mod_lt _ (by decide)

/-- Dealing or dealt, or either where the model leaves it open, R411. -/
theorem two_or_three (p more : Prop) [Decidable p] [Decidable more] (v : Nat) : (if p then 2 else if more then 2 + v % 2 else 3) = 2 ∨
    (if p then 2 else if more then 2 + v % 2 else 3) = 3 := by
  split
  · exact .inl rfl
  · split
    · omega
    · exact .inr rfl

/-- An active pod grid reads as dealing or as dealt, R411. -/
theorem State.podAnswer_state (s : State) (l : Launch) (v : Nat) : s.podAnswer l v / 2 ^ 48 = 0xFFFE ∧
    (bits (s.podAnswer l v) 47 40 = 2 ∨ bits (s.podAnswer l v) 47 40 = 3) := by
  have hword : ∃ st n, s.podAnswer l v = 0xFFFE * 2 ^ 48 + st * 2 ^ 40 + n % 2 ^ 32 ∧ (st = 2 ∨ st = 3) := by
    unfold State.podAnswer
    dsimp only
    exact ⟨_, _, rfl, two_or_three _ _ _⟩
  obtain ⟨st, n, hw, hst⟩ := hword
  have hn : n % 2 ^ 32 < 2 ^ 32 := Nat.mod_lt _ (by decide)
  generalize n % 2 ^ 32 = m at hw hn
  rw [hw]
  unfold bits
  constructor <;> omega

/-- The state of an active launch that is no pod grid, R411. -/
theorem Launch.answer_active (hr : l.root ≠ .ended) (hlid : l.lid ≠ 256) : l.answer = 0xFFFE * 2 ^ 48 + (match l.root with
    | .queued => 0
    | .dealing => 2
    | _ => 3) * 2 ^ 40 + l.dealt % 2 ^ 32 := by
  have hfalse : (decide (l.lid = 256) && !l.podMap) = false := by
    rw [decide_eq_false hlid]
    rfl
  unfold Launch.answer
  rw [if_neg hr]
  cases hroot : l.root with
  | ended => exact absurd hroot hr
  | dealing =>
    simp only [hfalse]
    rfl
  | queued => rfl
  | none => rfl
  | cand v => rfl

end

/-- Settles O48: each event of a launch is decided by its root's state, its stops and what it still has to place. -/
theorem launchEvents : Obligations.LaunchEvents := by
  unfold Obligations.LaunchEvents
  intro s id l hl cores chan claim may claimed begun placed waits fits key dealt all
  have hmay : may → s.MayClaim id l := fun ⟨hr, hf, hp, hn, ha, hh, hfree⟩ => ⟨hl, hr, hf, hp, hn, ha, hh, hfree⟩
  have hclaimed : ∀ u : State, (∀ c ∈ cores, ∃ h : Handler, u.handler c chan = h.claimed id begun) → claimed u := fun u hu c hc => by
    obtain ⟨h, hh⟩ := hu c hc
    show _ ∧ _
    rw [hh]
    exact ⟨rfl, rfl, rfl, rfl, rfl, rfl, rfl, rfl, rfl, rfl, rfl, rfl, rfl⟩
  have hfits : ∀ k : Bool, k = false → (fits ↔ (k || (platesOf l.lr.pmask).any (fun p => !(s.origins l.lr l.part p 0).isEmpty)) = true) := fun k hk => by
    rw [hk, Bool.false_or, List.any_eq_true]
    simp only [fits, Bool.not_eq_true', List.isEmpty_eq_false_iff]
  have hnext : l.root = .dealing → l.lr.kind = true → l.held = false → l.aborting = false → l.draining = false → l.nextMsg ≤ l.lr.extx →
      s.haltedPart l.part = false → (s.core (s.roleCore 3)).retx.length < 32 → s.MaySendNext id l :=
    fun hr hk ho ha hd hn hh hroom => ⟨hl, hr, hk, ho, ha, hd, hn, hh, hroom⟩
  refine ⟨?_, ?_, ?_, ?_, ?_, ?_, ?_, ?_, ?_, ?_, ?_, ?_, ?_, ?_, ?_, ?_, ?_, ?_, ?_, ?_, ?_, ?_, ?_, ?_⟩
  · intro hm hk hh
    have hrun := (hmay hm).launchClaim
    rw [if_pos (by rw [hk, Bool.true_or]), State.beginLaunch_messages _ id (l := s.begun l) hk hh] at hrun
    refine ⟨_, hrun, hclaimed _ fun c hc => State.handler_claimAs s id (s.begun l) cores hc, State.look_claimAs s id (s.begun l) cores, ?_,
      fun c => State.counts_claimAs s id (s.begun l) cores c⟩
    show ((s.claimAs id (s.begun l) cores).due ++ [_]) ++ [_] = _
    rw [State.due_claimAs, List.append_assoc]
    rfl
  · intro hm hk hfit
    have hrun := (hmay hm).launchClaim
    rw [if_pos ((hfits _ hk).1 hfit)] at hrun
    obtain ⟨d, hd, hsweep, hplates⟩ := (s.claimAs id (s.begun l) cores).beginLaunch_gangs id (l := s.begun l) hk
    rw [hd] at hrun
    exact ⟨_, hrun, hclaimed _ fun c hc => State.handler_claimAs s id (s.begun l) cores hc, State.look_claimAs s id (s.begun l) cores, hsweep, hplates⟩
  · intro hm hk hfit u hu
    rw [(hmay hm).launchClaim, if_neg (mt (hfits _ hk).2 hfit)]
    exact State.whenPlaced_waits hu
  · rintro hm hk hfit ⟨p, u, hu⟩
    have hrun := (hmay hm).launchClaim
    rw [if_neg (mt (hfits _ hk).2 hfit), State.whenPlaced_goes (l := s.begun l) hu] at hrun
    refine ⟨_, _, hrun, State.look_endLaunch (State.look_updLaunch (State.look_claimAs u id (s.begun l) cores) _) p {}, rfl, rfl⟩
  · exact fun hr hf => launchClaim_waits hl hr hf
  · intro hr hk ho ha hd hn hh hroom p u hkey hbad
    obtain ⟨t, he, hlook, hpk⟩ := (hnext hr hk ho ha hd hn hh hroom).sends hkey hbad
    exact ⟨t, he, hlook, _, hpk, rfl, rfl, rfl, rfl, rfl, fun hp => u.lid_launchPacket id l hp _ _ _ _⟩
  · intro hr hk ho ha hd hn hh hroom
    exact ⟨fun u hkey => (hnext hr hk ho ha hd hn hh hroom).waits hkey, fun code u hkey hc => (hnext hr hk ho ha hd hn hh hroom).faults hkey hc⟩
  · exact fun hr hk hstop hs => dealingDone_ends hl hr (State.leftToDeal_messages hk hstop) hs
  · exact fun hr hk hstop hs hg he => dealingDone_ends hl hr (State.leftToDeal_gangs hk hstop hg he) hs
  · exact fun ha hd hm hg => dealingDone_goesOn hl (State.leftToDeal_live ha hd hm hg)
  · intro upto hr hq hp hsw hse hrc hid hdue hupto hc sent rcvd good becomes
    have h : s.Sweeps id l upto := ⟨hl, hr, hq, hp, hsw, hse, hrc, hid, hdue, hupto, hc⟩
    have hgood : s.quiesced id l = true ↔ good := State.quiesced_iff
    have hbad : ¬ good → s.quiesced id l = false := fun hn => Bool.eq_false_iff.2 (mt hgood.1 hn)
    have hsum : s.sentOf l = sent := rfl
    have hend : l.root = .cand (sent % 2 ^ 32) → good → l.root.swept (s.quiesced id l) (s.sentOf l % 2 ^ 32) = .ended := fun hroot hg => by
      rw [hroot, hgood.2 hg, hsum]
      exact if_pos rfl
    refine ⟨fun hroot => h.becomes ?_ (by simp), fun hroot hg => h.becomes ?_ (by simp), fun hroot hg => h.becomes ?_ (by simp),
      fun v hroot hg => h.becomes ?_ (by simp), fun v hroot hg hne => h.becomes ?_ (by simp), fun hroot hg u hu => h.waits (hend hroot hg) hu, ?_⟩
    · rw [hroot]
      rfl
    · rw [hroot, hgood.2 hg]
      rfl
    · rw [hroot, hbad hg]
      rfl
    · rw [hroot, hbad hg]
      rfl
    · rw [hroot, hgood.2 hg, hsum]
      exact if_neg (Ne.symm hne)
    · rintro hroot hg ⟨p, u, hu⟩
      exact h.ends (hend hroot hg) hu
  · intro gt cause place hr hp ha hf hpod
    obtain ⟨t, ht, hall, hlook⟩ := s.stops_spread id (.faultNotice id gt cause place) { l with
      fgt := gt, fcause := cause % 2 ^ 32, floc := place, fcount := 1, aborting := true, status := if l.draining then 2 else 1 } hpod (fun k => .abort id k)
    exact ⟨t, ht ▸ faultNotice_aborts hl hr hp ha hf gt cause place, hall, hlook⟩
  · exact fun gt cause place hr hp ha hf => faultNotice_counts hl hr hp ha hf gt cause place
  · intro c hr ha hn hc hcmds ev hev
    have hrun : exec ev s = .next ((s.did ev).stopAt id c true) := by
      rcases List.mem_cons.1 hev with rfl | hev
      · exact abort_reaches hl hr ha hn
      · obtain rfl := List.mem_singleton.1 hev
        rw [cancel_reaches hl hr (.inl ha) (.inl hn), ha]
    exact ⟨_, hrun, State.stopAt_kills (s := s.did ev) hl hc hcmds⟩
  · intro c hr hd ha hn hc
    have hrun := cancel_reaches hl hr (c := c) (.inr hd) (.inl hn)
    rw [ha] at hrun
    exact hrun.trans (congrArg Host.Outcome.next (State.stopAt_drains (s := s.did (.cancel id c)) hl hc))
  · intro mode hm hr hq ha hd hp hpod
    have hnew : ({ l with status := if l.draining = true then l.status else 2, aborting := mode == 1, draining := l.draining || mode == 0 } : Launch) =
        { l with status := 2, aborting := mode == 1, draining := mode == 0 } := by
      rw [hd]
      rfl
    obtain ⟨t, ht, hall, hlook⟩ := s.stops_spread id (.cancelDecision id mode) { l with
      status := if l.draining then l.status else 2, aborting := mode == 1, draining := l.draining || mode == 0 } hpod (fun k => .cancel id k)
    exact ⟨t, ht ▸ cancelDecision_stops hl hr hq hp ha (mode := mode) (fun h => by rw [hd] at h; cases h), hall, hnew ▸ hlook⟩
  · intro mode hr ha hd hp
    refine ⟨fun hm => cancelDecision_late hl hd hm, fun hm hq hpod => ?_⟩
    have hnew : ({ l with status := if l.draining = true then l.status else 2, aborting := mode == 1, draining := l.draining || mode == 0 } : Launch) =
        { l with aborting := true } := by
      rw [hm, if_pos hd, hd]
      rfl
    obtain ⟨t, ht, hall, hlook⟩ := s.stops_spread id (.cancelDecision id mode) { l with
      status := if l.draining then l.status else 2, aborting := mode == 1, draining := l.draining || mode == 0 } hpod (fun k => .cancel id k)
    exact ⟨t, ht ▸ cancelDecision_stops hl hr hq hp ha (mode := mode) (fun _ => hm), hall, hnew ▸ hlook⟩
  · intro c hr ha hd hc hcmds
    have hrun := cancel_reaches (c := c) hl hr (.inl ha) (.inr ⟨ha, hd⟩)
    rw [ha] at hrun
    exact ⟨_, hrun, (State.stopAt_kills (s := s.did (.cancel id c)) hl hc hcmds).1⟩
  · intro mode hr ha hd hp u hu
    rw [cancelDecision_queued hl hr hp ha hd]
    exact State.whenPlaced_waits hu
  · rintro mode hr ha hd hp ⟨p, u, hu⟩
    have hway : OnWay s u := by
      have := OnWay.placeDone id l (s.doneSizes l) s
      rwa [hu] at this
    have hlook : (u.did (.cancelDecision id mode)).launches.look id = some l := by
      show u.launches.look id = _
      rw [hway.launches, hl]
    have hrun := cancelDecision_queued hl hr hp ha hd mode
    rw [State.whenPlaced_goes hu] at hrun
    exact ⟨_, _, hrun, State.look_endLaunch (State.look_updLaunch hlook _) p {}, rfl, rfl⟩
  · intro r d ha hlive
    have hrun := launchHandleReturn_gives hl ha
    generalize hv : ({ s.did (.launchHandleReturn id) with launches := s.launches.set id { l with asker := none } } : State) = v at hrun
    obtain ⟨k, hk⟩ := v.giveScalar_ex r d id (s.table.devnum * 2 ^ 48 + l.seq)
    have hslot := State.slot_giveScalar (s := v) (r := r) (by rw [← hv]; exact hlive) d id (s.table.devnum * 2 ^ 48 + l.seq)
    refine ⟨_, hrun, ?_, hslot.trans ?_⟩
    · rw [hk, ← hv]
      exact Sp.look_set_self _ _ _
    · rw [← hv]
      rfl
  · intro op o d h kind ho hk hkind hret hdev hn hlid hm hr hlive
    subst hkind
    have hrun := lctlAnswer_queried ho hk hret hdev hn hr hm
    rw [Launch.answer_active hr hlid] at hrun
    obtain ⟨hops, hslot⟩ := State.given_answering (op := op) hlive 1 d _
    exact ⟨_, hrun, hops, hslot⟩
  · exact fun op o h ho hk hdev hn hr => lctlAnswer_waits ho hk hdev hn hr
  · intro op o d h kind mode ho hk hret hlive x gets
    have hgets : ∀ n w, exec (.lctlAnswer op) s = .next ((s.answering op n).giveScalar o.task d op w) → gets w := fun n w hrun => by
      obtain ⟨hops, hslot⟩ := State.given_answering (op := op) hlive n d w
      exact ⟨_, hrun, hops, hslot⟩
    refine ⟨fun hdev hn hkind hm hr => ?_, fun hdev hf => ?_, fun hf => ?_⟩
    · subst hkind
      exact ⟨_, hgets 1 _ (lctlAnswer_podQueried ho hk hret hdev hn hr hm), s.podAnswer_state l _⟩
    · have hrun := lctlAnswer_far ho hk hret hdev
      rw [State.farLctl_unreached (s := s.answering op 1) hf] at hrun
      exact hgets 1 _ hrun
    · have hdev : bits h 57 48 ≠ s.table.devnum := fun hd => by
        unfold State.farLaunch at hf
        simp [hd] at hf
      obtain ⟨st, state, n, hfar, hn, hzero, hp⟩ := State.farLctl_reached (s := s.answering op 1) hf (kind == 2)
      have hrun := lctlAnswer_far ho hk hret hdev
      rw [hfar] at hrun
      refine ⟨st, state, n, hgets 2 _ hrun, hn, ?_⟩
      rcases hp with ⟨h1, h2⟩ | ⟨h1, h2⟩ | ⟨h1, h2, h3⟩
      · exact .inl ⟨h1, h2, hzero (by omega)⟩
      · exact .inr (.inl ⟨h1, h2⟩)
      · exact .inr (.inr ⟨h1, by simpa using h2, h3, fun h => hzero (by omega)⟩)

end Sys2Proof.Machine
end

section
/-!
PORT.BIND, PORT.UNBIND and PORT.QLEN, R159 to R161: the checks of a binding, and what the handler entry and the port become.
-/

namespace Sys2Proof.Machine

/-! ## Channels that a core's ports are bound to, R161 -/

/-- Whether one of a slot's ports is bound to a channel. -/
def Slot.binds (c : Nat) (x : Slot) : Bool := x.ports.any (fun p => p.2.mode == 1 && p.2.chan == c)

theorem Core.boundTo_isNone (k : Core) (c : Nat) : (k.boundTo c).isNone = !k.slots.any (fun e => e.2.binds c) := by
  have hslot : ∀ e : Nat × Slot,
      ((e.2.ports.find? (fun p => p.2.mode == 1 && p.2.chan == c)).map (fun p => (e.1, p.1))).isSome = e.2.binds c := fun e => by
    rw [Option.isSome_map, Bool.eq_iff_iff, List.find?_isSome, Slot.binds, List.any_eq_true]
  rw [← Option.not_isSome, Core.boundTo, List.isSome_findSome?]
  exact congrArg (fun f => !k.slots.any f) (funext hslot)

/-- The issue of an instruction binds no channel. -/
theorem State.boundTo_issuing (s : State) (i : Instr) (c : Nat) :
    (((s.issuing i).core s.cur.core).boundTo c).isNone = ((s.core s.cur.core).boundTo c).isNone := by
  have hcore : (s.issuing i).core s.cur.core = (s.core s.cur.core).setSlot s.cur.slot (s.slotIssuing i) :=
    (State.core_congr (State.issued_cores _ _) _).trans (s.core_updMe _)
  rw [Core.boundTo_isNone, Core.boundTo_isNone, hcore]
  exact congrArg (!·) (Sp.any_set _ _ _ {} _ rfl rfl)

/-! ## PORT.BIND -/

/-- The checks of PORT.BIND, R161: the operand names a channel, its entry is free or the task's own, and neither the entry nor the
port is in use. -/
def State.bindCheck (s : State) (x q word : Nat) : Except Exit Unit := do
  let h := s.handler s.cur.core (x % 32)
  check (x / 32 == 0) causeRange x
  check (h.ctx == 0 || h.ctx == s.me.ctxid.toNat) causePrivilege word
  check (h.mode == 0 && !h.held && (s.me.port q).mode == 0 && ((s.core s.cur.core).boundTo (x % 32)).isNone) causeRange x

/-- A handler entry bound to a port of a context's task, R161. -/
def Handler.boundBy (ctx : Nat) (h : Handler) : Handler :=
  { h with ctx := ctx, pb := h.pb || h.ctx == 0, mode := 2, gen := (h.gen + 1) % 2 ^ 16, mail := [], aged := 0 }

/-- An entry that is free or the context's own becomes its port-mode entry with GEN advanced. -/
theorem Handler.boundBy_eq {h : Handler} {ctx : Nat} (hc : h.ctx = 0 ∨ h.ctx = ctx) :
    ({ (if h.ctx = 0 then { h with ctx := ctx, pb := true } else h) with mode := 2 } : Handler).advance = h.boundBy ctx := by
  by_cases h0 : h.ctx = 0
  · simp [h0, Handler.boundBy, Handler.advance]
  · obtain rfl := hc.resolve_left h0
    simp [h0, Handler.boundBy, Handler.advance]

theorem State.updHandler_congr {s : State} {c n : Nat} {f f' : Handler → Handler} (h : f (s.handler c n) = f' (s.handler c n)) :
    s.updHandler c n f = s.updHandler c n f' :=
  congrArg (fun y => s.setCore c ((s.core c).setHandler n y)) h

section
variable {s : State} {x q word : Nat}

theorem State.bindCheck_range (hx : 32 ≤ x) : s.bindCheck x q word = .error (.trap causeRange x 0) := by
  have hfails : (x / 32 == 0) = false := by simp; omega
  simp only [State.bindCheck, check_fails hfails]
  rfl

theorem State.bindCheck_privilege (hx : x < 32) (h0 : (s.handler s.cur.core x).ctx ≠ 0)
    (hc : (s.handler s.cur.core x).ctx ≠ s.me.ctxid.toNat) : s.bindCheck x q word = .error (.trap causePrivilege word 0) := by
  have hpasses : (x / 32 == 0) = true := by simp; omega
  have hfails : ((s.handler s.cur.core x).ctx == 0 || (s.handler s.cur.core x).ctx == s.me.ctxid.toNat) = false := by simp [h0, hc]
  simp only [State.bindCheck, Nat.mod_eq_of_lt hx, check_passes hpasses, check_fails hfails]
  rfl

/-- Where a channel's entry is free or the task's own, the last check decides. -/
theorem State.bindCheck_own (hx : x < 32) (hc : (s.handler s.cur.core x).ctx = 0 ∨ (s.handler s.cur.core x).ctx = s.me.ctxid.toNat) :
    s.bindCheck x q word = if (s.handler s.cur.core x).mode = 0 ∧ (s.handler s.cur.core x).held = false ∧ (s.me.port q).mode = 0 ∧
      (s.core s.cur.core).boundTo x = none then .ok () else .error (.trap causeRange x 0) := by
  have hpasses : (x / 32 == 0) = true := by simp; omega
  have hown : ((s.handler s.cur.core x).ctx == 0 || (s.handler s.cur.core x).ctx == s.me.ctxid.toNat) = true := by simpa using hc
  simp only [State.bindCheck, Nat.mod_eq_of_lt hx, check_passes hpasses, check_passes hown]
  exact if_congr (by simp [and_assoc]) rfl rfl

end

/-- The body of PORT.BIND: its checks, and then the entry and the port. -/
theorem portBind_body (s : State) (g : BitVec 4) (a b : BitVec 6) : ∃ body, exec (.portBind g a b) s = s.issue (.portBind g a b) body ∧
    body (s.envOf (.portBind g a b)) (s.issuing (.portBind g a b)) =
      s.bindCheck (s.sca b) (a.toNat - 56) ((encode (.portBind g a b)).getD 0).toNat >>= fun _ =>
        .ok (((s.issuing (.portBind g a b)).updHandler s.cur.core (s.sca b % 32) (fun h =>
          { (if h.ctx = 0 then { h with ctx := s.me.ctxid.toNat, pb := true } else h) with mode := 2 }.advance)).updMe
            (fun y => y.setPort (a.toNat - 56) { mode := 1, chan := s.sca b % 32 })) := by
  refine ⟨_, exec_portBind .., ?_⟩
  have hh : (s.issuing (.portBind g a b)).handler (s.envOf (.portBind g a b)).core ((s.envOf (.portBind g a b)).x b % 32) =
      s.handler s.cur.core (s.sca b % 32) := s.handler_issuing _ _ _
  have hb : (((s.issuing (.portBind g a b)).core (s.envOf (.portBind g a b)).core).boundTo ((s.envOf (.portBind g a b)).x b % 32)).isNone =
      ((s.core s.cur.core).boundTo (s.sca b % 32)).isNone := s.boundTo_issuing _ _
  simp only [hh, hb, State.bindCheck, bind_assoc]
  rfl

section
variable {s : State} {g : BitVec 4} {a b : BitVec 6}

theorem portBind_binds (hr : Ready (.portBind g a b) s) (hx : s.sca b < 32)
    (hc : (s.handler s.cur.core (s.sca b)).ctx = 0 ∨ (s.handler s.cur.core (s.sca b)).ctx = s.me.ctxid.toNat)
    (hf : (s.handler s.cur.core (s.sca b)).mode = 0 ∧ (s.handler s.cur.core (s.sca b)).held = false ∧ (s.me.port (a.toNat - 56)).mode = 0 ∧
      (s.core s.cur.core).boundTo (s.sca b) = none) :
    exec (.portBind g a b) s = .next (((s.issuing (.portBind g a b)).updHandler s.cur.core (s.sca b) (Handler.boundBy s.me.ctxid.toNat)).updMe
      (fun y => y.setPort (a.toNat - 56) { mode := 1, chan := s.sca b })) := by
  obtain ⟨body, he, hb⟩ := portBind_body s g a b
  refine next_of hr he (hb.trans ?_)
  rw [State.bindCheck_own hx hc, if_pos hf, Nat.mod_eq_of_lt hx]
  refine congrArg (fun t : State => Except.ok (t.updMe _)) (State.updHandler_congr (Handler.boundBy_eq ?_))
  rwa [s.handler_issuing]

theorem portBind_traps (hr : Ready (.portBind g a b) s) {code y : Nat}
    (hc : s.bindCheck (s.sca b) (a.toNat - 56) ((encode (.portBind g a b)).getD 0).toNat = .error (.trap code y 0)) :
    TrapsWith (.portBind g a b) code y s := by
  obtain ⟨body, he, hb⟩ := portBind_body s g a b
  exact BeginsWith.traps ⟨body, _, he, hb⟩ hr hc

/-! ## PORT.UNBIND and PORT.QLEN -/

/-- A handler entry whose port is unbound, R161. -/
theorem Handler.unbound_eq (h : Handler) : h.unbound = { h with
    mode := 0, gen := (h.gen + 1) % 2 ^ 16, mail := [], aged := 0, ctx := if h.pb then 0 else h.ctx, pb := false } := by
  obtain ⟨gen, lid, held, pb⟩ := h
  cases pb <;> rfl

/-- What an unbinding by a ready instruction does: it looks at the port as the issue left it. -/
theorem State.unbind_issuing (s : State) (i : Instr) (q : Nat) : (s.issuing i).unbind s.cur.core s.cur.slot q =
    if (s.me.port q).mode = 1 then
      ((s.issuing i).updMe (fun y => { y with ports := y.ports.drop q })).updHandler s.cur.core (s.me.port q).chan Handler.unbound
    else (s.issuing i).updMe (fun y => { y with ports := y.ports.drop q }) := by
  have hp : ((s.issuing i).slot s.cur.core s.cur.slot).port q = s.me.port q := by
    rw [State.slot_issuing_self]
    rfl
  have hme : (s.issuing i).updMe = (s.issuing i).updSlot s.cur.core s.cur.slot := by
    unfold State.updMe
    rw [State.cur_issuing]
  rw [State.unbind, hp, hme]

theorem portUnbind_of_unbound (hr : Ready (.portUnbind g a) s) (hp : (s.me.port (a.toNat - 56)).mode ≠ 1) :
    ActsOn (.portUnbind g a) (fun y => { y with ports := y.ports.drop (a.toNat - 56) }) s :=
  actsOn_of hr (exec_portUnbind ..) (congrArg Except.ok ((s.unbind_issuing _ _).trans (if_neg hp)))

theorem portUnbind_of_bound (hr : Ready (.portUnbind g a) s) (hp : (s.me.port (a.toNat - 56)).mode = 1) :
    exec (.portUnbind g a) s = .next (((s.issuing (.portUnbind g a)).updMe (fun y => { y with ports := y.ports.drop (a.toNat - 56) })).updHandler
      s.cur.core (s.me.port (a.toNat - 56)).chan Handler.unbound) :=
  next_of hr (exec_portUnbind ..) (congrArg Except.ok ((s.unbind_issuing _ _).trans (if_pos hp)))

end

theorem portQlen_writes {s : State} {g : BitVec 4} {d a : BitVec 6} (hr : Ready (.portQlen g d a) s) :
    WritesScalar (.portQlen g d a) d ((s.me.port (a.toNat - 56)).mode * 2 ^ 62 + (s.me.port (a.toNat - 56)).fifo.length) s :=
  writesScalar_of_body hr (exec_portQlen ..) rfl

/-- Settles O29: the checks of a binding (`State.bindCheck`) with what it makes of the entry (`Handler.boundBy_eq`), and an unbinding
(`State.unbind_issuing`, `Handler.unbound_eq`). -/
theorem ports : Obligations.Ports := by
  intro s g d a b ha c q p x h ctx word bind free unbind
  refine ⟨portBind_binds, fun hr hx => portBind_traps hr (State.bindCheck_range hx),
    fun hr hx h0 hc => portBind_traps hr (State.bindCheck_privilege hx h0 hc),
    fun hr hx hc hf => portBind_traps hr ((State.bindCheck_own hx hc).trans (if_neg hf)),
    portUnbind_of_unbound, fun hr hp => ?_, portQlen_writes⟩
  rw [portUnbind_of_bound hr hp]
  exact congrArg (fun f => Host.Outcome.next (State.updHandler _ _ _ f)) (funext Handler.unbound_eq)

end Sys2Proof.Machine
end

section
/-!
Matrix commands of a little core, R170, R315: what lets one leave as a guest, and the guest and the task that it leaves behind.
-/

namespace Sys2Proof.Machine

/-! ## The orders before a shipped instruction do not look at what the issue changes -/

section
variable (s : State) (i : Instr)

theorem State.fences_issuing : ((s.issuing i).slot s.cur.core s.cur.slot).fences = s.me.fences := by
  rw [State.slot_issuing_self]
  rfl

theorem State.mayStart_issuing (id : Nat) (st rel : Bool) :
    (s.issuing i).mayStart id s.myRef st rel = s.mayStart id s.myRef st rel := by
  have hearlier : (s.issuing i).earlier = s.earlier := s.issuing_part i State.earlier (fun _ _ _ _ => rfl)
  have hacquired : (s.issuing i).acquired = s.acquired := s.issuing_part i State.acquired (fun _ _ _ _ => rfl)
  have hops : (s.issuing i).ops = s.ops := s.issuing_part i State.ops (fun _ _ _ _ => rfl)
  have hsent : (s.issuing i).sentBefore = s.sentBefore := s.issuing_part i State.sentBefore (fun _ _ _ _ => rfl)
  have hfences : ((s.issuing i).slot s.myRef.core s.myRef.slot).fences = (s.slot s.myRef.core s.myRef.slot).fences := s.fences_issuing i
  simp only [State.mayStart, State.mayStartAt, State.fencesAllowAt, hearlier, hacquired, hops, hsent, hfences]

theorem State.shipsNow_issuing (e : Env) : (s.issuing i).shipsNow e = s.shipsNow e := by
  unfold State.shipsNow
  rw [State.issuing_serial, State.myRef_issuing, State.mayStart_issuing, State.releaseReady_issuing]

end

/-! ## A matrix command that leaves -/

/-- One more shipped instruction counted on both sides. -/
theorem CoresKept.countShip {s t : State} (h : CoresKept s t) (c : Nat) : CoresKept (s.countShip c) (t.countShip c) where
  slots d n hn := (State.slot_countShip t c d n).trans ((h.slots d n hn).trans (State.slot_countShip s c d n).symm)
  cores d := by
    by_cases hd : c = d
    · subst hd
      rw [State.core_countShip_self, State.core_countShip_self]
      exact congrArg (fun k : Core => { k with seq := (k.seq + 1) % 256 }) (h.cores c)
    · rw [State.core_countShip_ne t hd, State.core_countShip_ne s hd]
      exact h.cores d

/-- The register that a command's row goes to. -/
def rowDests : Option Nat → List Dest
  | some d => [.reg d]
  | none => []

/-- The packet of a matrix command, R315: a guest with both registers of each operand. -/
def Env.mtxGuest (e : Env) (t : State) (a b : BitVec 6) (prec : Nat) : Guest :=
  { e.guest t {} (e.a.reg a.toNat) (e.a.reg b.toNat) prec with a1 := e.a.reg (a.toNat + 1), b1 := e.a.reg (b.toNat + 1) }

/-- The slot behind a matrix command that left as a guest: MXC counts it, R315. -/
def Slot.shippingMtx (x : Slot) (e : Env) (i : Instr) (id : Nat) (dests : List Dest) : Slot :=
  { x.shipping e i id dests with mxc := x.mxc + 1 }

/-- The state in which a matrix command has left as a guest. -/
def State.mtxShipped (t : State) (e : Env) (i : Instr) (a b : BitVec 6) (prec : Nat) (dests : List Dest) : State :=
  let u := (t.fresh.2.countShip e.core).updMe (fun x => x.shippingMtx e i t.serial dests)
  ({ u with guests := u.guests.set t.serial (e.mtxGuest t.fresh.2 a b prec) }).push (.guestPacketArrival t.serial)

/-- A matrix command leaves once LDC and STC are 0, the orders allow it and MXC admits one more, R170, R315. -/
theorem State.mtxShip_ok {t : State} {e : Env} (i : Instr) (a b : BitVec 6) (prec : Nat) (dests : List Dest) (hl : e.sl.ldc = 0)
    (hs : e.sl.stc = 0) (ho : t.shipsNow e = true) (hm : e.sl.mxc < 16) :
    t.mtxShip e i a b prec dests = .ok (t.mtxShipped e i a b prec dests) := by
  have hcount : (e.sl.ldc != 0 || e.sl.stc != 0) = false := by simp [hl, hs]
  have horder : (!t.shipsNow e) = false := by simp [ho]
  have hroom : decide (e.sl.mxc ≥ 16) = false := by simpa using hm
  simp only [State.mtxShip, stallIf_passes hcount, stallIf_passes horder, stallIf_passes hroom]
  rfl

section
variable {s : State} {i : Instr} {a b : BitVec 6} {prec : Nat} {dests : List Dest}

/-- The slot behind a ready instruction that left as a guest, R172: what the carry-ahead window keeps, and its pending results. -/
theorem shippingMtx_issuing (hr : Ready i s) (id : Nat) : (s.slotIssuing i).shippingMtx (s.envOf i) i id dests =
    { s.slotIssuing i with
      mxc := s.me.mxc + 1, ship := some { id := id, saved := s.me.arch, tpc := (s.envOf i).first },
      board := s.me.board ++ (dests.filter Dest.real).map (fun k => (k, id)) } := by
  have hpop : (s.envOf i).popped (usesOf s.me.peek i).src = [] := by
    show (s.me.boundSources (s.uses i).src).filterMap _ = []
    rw [State.boundSources_nil hr.unbound]
    rfl
  have hopen : (s.envOf i).opened id false (usesOf s.me.peek i).src = { id := id, saved := s.me.arch, tpc := (s.envOf i).first } := by
    unfold Env.opened
    rw [hpop]
    rfl
  unfold Slot.shippingMtx Slot.shipping
  rw [show (usesOf (s.envOf i).sl.peek i).src = (usesOf s.me.peek i).src from rfl, hopen]
  rfl

theorem mtxShipped_leaves (hr : Ready i s) : Leaves { s.slotIssuing i with
      mxc := s.me.mxc + 1, ship := some { id := s.serial, saved := s.me.arch, tpc := (s.envOf i).first },
      board := s.me.board ++ (dests.filter Dest.real).map (fun k => (k, s.serial)) }
    [.guestPacketArrival s.serial] (s.countShip s.cur.core) ((s.issuing i).mtxShipped (s.envOf i) i a b prec dests) where
  slot := by
    show (((s.issuing i).fresh.2.countShip s.cur.core).updMe (fun x => x.shippingMtx (s.envOf i) i (s.issuing i).serial dests)).me = _
    rw [State.me_updMe, State.me_countShip, State.issuing_serial]
    exact (congrArg (fun x : Slot => x.shippingMtx (s.envOf i) i s.serial dests) (s.me_issuing i)).trans (shippingMtx_issuing hr _)
  others :=
    have hc : CoresKept s (s.issuing i).fresh.2 := (coresKept_issuing s i).trans_same (.of_cores rfl)
    have hcur : ((s.issuing i).fresh.2.countShip s.cur.core).cur = (s.countShip s.cur.core).cur := s.cur_issuing i
    ((hc.countShip s.cur.core).updMe hcur (fun x => x.shippingMtx (s.envOf i) i (s.issuing i).serial dests)).trans_same (.of_cores rfl)
  bytes := .of_mem (taskOnly_issuing s i).mem
  due := ⟨[], by
    rw [List.append_nil, ← s.issuing_serial i]
    exact congrArg (· ++ _) (s.due_issuing i), by simp⟩

/-- The guest of a matrix command that left. -/
theorem mtxShipped_guest (s : State) (i : Instr) (a b : BitVec 6) (prec : Nat) (dests : List Dest) :
    ((s.issuing i).mtxShipped (s.envOf i) i a b prec dests).guests.look s.serial =
      some ((s.envOf i).mtxGuest (s.issuing i).fresh.2 a b prec) := by
  rw [← s.issuing_serial i]
  exact Sp.look_set_self _ _ _

/-- The record that a command takes with it, R54: what storage holds, where none of its task's stores to it is under way. -/
theorem State.mtxRecord_issuing (s : State) (i : Instr) (c : Nat) (needs : Bool)
    (h : needs = true → prsOf s.me.arch.pfx.t ≠ 0 → s.storesPending s.myRef (recordKey c (prsOf s.me.arch.pfx.t)) 64 = false) :
    (if needs = true ∧ prsOf s.me.arch.pfx.t ≠ 0 then (s.issuing i).record c (prsOf s.me.arch.pfx.t) else .ok 0) =
      .ok (if needs = true ∧ prsOf s.me.arch.pfx.t ≠ 0 then s.readMem (recordKey c (prsOf s.me.arch.pfx.t)) 64 else 0) := by
  split
  · next hn => rw [State.record_issuing s i c (prsOf_lt _), h hn.1 hn.2, if_neg Bool.false_ne_true]
  · rfl

/-- A ready matrix command of a little core leaves as a guest. -/
theorem mtx_leaves {needs : Bool} {rowTo : Env → Option Nat} (hbig : isBig s.cur.core = false) (he : exec i s = s.mtx i a b needs rowTo)
    (hr : Ready i s) (hl : s.me.ldc = 0) (hs : s.me.stc = 0) (hm : s.me.mxc < 16) (ho : s.shipsNow (s.envOf i) = true)
    (hp : needs = true → prsOf s.me.arch.pfx.t ≠ 0 →
      s.storesPending s.myRef (recordKey s.cur.core (prsOf s.me.arch.pfx.t)) 64 = false) :
    exec i s = .next ((s.issuing i).mtxShipped (s.envOf i) i a b
      (if needs = true ∧ prsOf s.me.arch.pfx.t ≠ 0 then s.readMem (recordKey s.cur.core (prsOf s.me.arch.pfx.t)) 64 else 0)
      (rowDests (rowTo (s.envOf i)))) := by
  refine next_of hr he ?_
  show ((if needs = true ∧ prsOf s.me.arch.pfx.t ≠ 0 then (s.issuing i).record s.cur.core (prsOf s.me.arch.pfx.t) else .ok 0) >>= _) = _
  rw [s.mtxRecord_issuing i s.cur.core needs hp]
  show (if isBig s.cur.core = true then _ else _) = _
  rw [if_neg (by rw [hbig]; exact Bool.false_ne_true)]
  exact State.mtxShip_ok _ _ _ _ _ hl hs ((s.shipsNow_issuing i _).trans ho) hm

end

/-- The pending register of a command's row, which is never v0. -/
theorem rowDests_board (row : Option Nat) (id : Nat) : ((rowDests row).filter Dest.real).map (fun k => (k, id)) =
    (match row with
      | some d => if d = 0 then [] else [(.reg d, id)]
      | none => []) := by
  cases row with
  | none => rfl
  | some d => by_cases h : d = 0 <;> simp [rowDests, Dest.real, h]

/-- Settles O36: a matrix command of a little core leaves as a guest (`mtx_leaves`, `mtxShipped_leaves`). -/
theorem matrixGuests : Obligations.MatrixGuests := by
  intro s g n a b hbig c r prs ships
  have hships : ∀ (i : Instr) (a b : BitVec 6) (needs : Bool) (rowTo : Env → Option Nat) (row : Option Nat),
      exec i s = s.mtx i a b needs rowTo → rowTo (s.envOf i) = row → ships i a b needs row := by
    intro i a b needs rowTo row he hrow hr hl hs hm ho hp
    have hleaves := mtxShipped_leaves (a := a) (b := b) (dests := rowDests row) hr
      (prec := if needs = true ∧ prs ≠ 0 then s.readMem (recordKey c prs) 64 else 0)
    rw [rowDests_board] at hleaves
    refine ⟨_, _, mtx_leaves hbig he hr hl hs hm ho hp, mtxShipped_guest .., rfl, rfl, rfl, rfl, rfl, ?_, s.myRef_issuing i, ?_, rfl, rfl, ?_⟩
    · exact s.issuing_part i (fun t => t.homeOf s.cur.core) (fun _ _ _ _ => rfl)
    · exact s.core_issuing_part i Core.seq (fun _ _ => rfl) s.cur.core
    · rw [hrow]
      exact hleaves
  have hrow : (if bit (s.sca b) 8 then none else some a.toNat) = if (s.sca b).testBit 8 then none else some a.toNat := by
    rw [bit_eq_testBit]
  exact ⟨hships _ _ _ _ _ _ (exec_mtxMma ..) rfl, hships _ _ _ _ _ _ (exec_mtxMmaz ..) rfl, hships _ _ _ _ _ _ (exec_mtxAccld ..) rfl,
    hships _ _ _ _ _ _ (exec_mtxAccst ..) rfl, hships _ _ _ _ _ _ (exec_mtxAccmv ..) hrow, hships _ _ _ _ _ _ (exec_mtxCodeb ..) rfl,
    hships _ _ _ _ _ _ (exec_mtxAccq ..) rfl, hships _ _ _ _ _ _ (exec_mtxAccfree ..) rfl⟩

end Sys2Proof.Machine
end

section
/-!
The guest queue, R167 to R169: a guest enters it, goes back to its head, and takes its turn there; a guest without a memory operand
executes at once (R170).
-/

namespace Sys2Proof.Machine

/-! ## Entering the queue, R167 -/

section
variable {s : State} {k c : Nat} {g : Guest}

theorem guestPacketArrival_enters (hg : s.guests.look k = some g) (hp : g.place = 0)
    (hf : ∀ e ∈ s.guests, e.1 < k → e.2.place = 0 → nodeOf e.2.task.core ≠ nodeOf g.task.core)
    (he : s.entryFree g.home (nodeOf g.task.core) = true) :
    Does (.guestPacketArrival k) (fun u => (({ u with guests := u.guests.set k { g with place := 1 } } : State).updCore g.home (fun b =>
      { b with big := { b.big with guests := b.big.guests ++ [k] } })).push (.guestIssue g.home)) s := by
  have holder : s.guests.any (fun x => decide (x.1 < k) && x.2.place == 0 && nodeOf x.2.task.core == nodeOf g.task.core) = false := by
    rw [List.any_eq_false]
    intro e hmem
    simpa [and_assoc] using hf e hmem
  unfold Does
  rw [exec_guestPacketArrival, execGuestPacketArrival, hg]
  simp only [hp, holder, he, Bool.not_true, Bool.false_eq_true, ne_eq, not_true_eq_false, or_self, if_false]
  rfl

theorem guestPacketArrival_waits (hg : s.guests.look k = some g) (hp : g.place = 0)
    (he : s.entryFree g.home (nodeOf g.task.core) = false) : Waits (.guestPacketArrival k) s := by
  unfold Waits
  rw [exec_guestPacketArrival, execGuestPacketArrival, hg]
  simp only [hp, he, Bool.not_false, ne_eq, not_true_eq_false, or_true, if_true, if_false]

/-- A guest that stood aside goes back to the head of the queue, R169. -/
theorem guestWalkDone_returns (hg : s.guests.look k = some g) (hp : g.place = 2) :
    Does (.guestWalkDone k) (fun u => (({ u with guests := u.guests.set k { g with place := 1 } } : State).updCore g.home (fun b =>
      { b with big := { b.big with guests := k :: b.big.guests } })).push (.guestIssue g.home)) s := by
  unfold Does
  rw [exec_guestWalkDone, execGuestWalkDone, hg]
  simp only [hp, ne_eq, not_true_eq_false, if_false]
  rfl

end

/-! ## The turn of the guest at the head, R168, R169 -/

/-- The state in which the guest at the head of a queue takes its turn: the queue is as it will be behind it. -/
def State.guestTurn (s : State) (c : Nat) (r : List Nat) : State :=
  (s.did (.guestIssue c)).updCore c (fun b => { b with big := { b.big with guests := r } })

/-- Whether a shipped instruction is a CAS128. -/
def isCas : Instr → Bool
  | .xatom .. => true
  | _ => false

/-- The addresses for whose walks a guest has to stand aside, R169. -/
def State.guestWalks (t : State) (k : Nat) (g : Guest) (i : Instr) : List Nat :=
  if isCas i then g.casWalk else if isMtx i then t.mtxWalks k g else []

/-- What a guest does that does not stand aside, R170. -/
def State.runGuest (s t : State) (k : Nat) (g : Guest) (i : Instr) : State :=
  if isCas i then (t.runCas k g).getD s
  else if isMtx i then t.runMtxGuest k g
  else t.answerGuest k { g with res := (guestValue i g).1, flags := (guestValue i g).2 }

section
variable {s t : State} {k c : Nat} {g : Guest} {r : List Nat} {i : Instr}

theorem State.guestTurn_eq (hq : (s.core c).big.guests = k :: r) :
    (s.did (.guestIssue c)).updBig c (fun b => { b with guests := b.guests.erase k }) = s.guestTurn c r := by
  have herase : (s.core c).big.guests.erase k = r := by rw [hq, List.erase_cons_head]
  exact congrArg (fun l => (s.did (.guestIssue c)).setCore c { s.core c with big := { (s.core c).big with guests := l } }) herase

/-- The guest at the head stands aside for a walk or runs. -/
theorem guestIssue_head (hg : s.guests.look k = some g) (hq : (s.core c).big.guests = k :: r) (hd : decode g.word = .ok i) :
    exec (.guestIssue c) s =
      .next ((((s.guestTurn c r).asideFor k g ((s.guestTurn c r).guestWalks k g i)).1.map
        (((s.guestTurn c r).asideFor k g ((s.guestTurn c r).guestWalks k g i)).2.setAside k g)).getD
        (s.runGuest ((s.guestTurn c r).asideFor k g ((s.guestTurn c r).guestWalks k g i)).2 k g i)) := by
  rw [exec_guestIssue, execGuestIssue, hq]
  simp only [hg, hd, s.guestTurn_eq hq]
  show (match (s.guestTurn c r).asideFor k g ((s.guestTurn c r).guestWalks k g i) with | (some x, t) => _ | (none, t) => _) = _
  obtain ⟨_ | x, t⟩ := (s.guestTurn c r).asideFor k g ((s.guestTurn c r).guestWalks k g i)
  · show (if isCas i then _ else _) = Host.Outcome.next (s.runGuest t k g i)
    unfold State.runGuest
    cases isCas i with
    | true =>
      show (match t.runCas k g with | some u => _ | none => _) = _
      cases t.runCas k g <;> rfl
    | false => cases isMtx i <;> rfl
  · rfl

theorem guestIssue_runs (hg : s.guests.look k = some g) (hq : (s.core c).big.guests = k :: r) (hd : decode g.word = .ok i)
    (ha : (s.guestTurn c r).asideFor k g ((s.guestTurn c r).guestWalks k g i) = (none, t)) :
    exec (.guestIssue c) s = .next (s.runGuest t k g i) := by
  rw [guestIssue_head hg hq hd, ha]
  rfl

end

/-! ## Standing aside for a walk, R169, R204 -/

section
variable {s : State} {k : Nat} {g : Guest}

/-- Who asks for a walk has joined one. -/
theorem State.askWalk_joins (t : State) (a : Access) (x : Nat) (join : Walk → Walk) :
    ∃ n w, (t.askWalk a x join).walks.look n = some (join w) := by
  unfold State.askWalk
  dsimp only
  split
  · exact ⟨_, _, Sp.look_set_self _ _ _⟩
  · exact ⟨_, _, Sp.look_set_self _ _ _⟩

theorem State.setAside_stands (t : State) (k : Nat) (g : Guest) (x : Nat) : ∃ h, (t.setAside k g x).guests.look k = some h ∧
    h.place = 2 ∧ ∃ n y, (t.setAside k g x).walks.look n = some y ∧ k ∈ y.guests := by
  have hguests : (t.setAside k g x).guests = t.guests.set k { g with place := 2, walked := g.walked ++ [x / 65536] } := by
    have := congrArg State.guests ((t.setGuest k { g with place := 2, walked := g.walked ++ [x / 65536] }).askWalk_pastWalks (g.access k) x
      (fun w => { w with guests := if w.guests.contains k then w.guests else w.guests ++ [k] }))
    exact this
  obtain ⟨n, w, hw⟩ := (t.setGuest k { g with place := 2, walked := g.walked ++ [x / 65536] }).askWalk_joins (g.access k) x
    (fun w => { w with guests := if w.guests.contains k then w.guests else w.guests ++ [k] })
  refine ⟨_, by rw [hguests]; exact Sp.look_set_self _ _ _, rfl, n, _, hw, ?_⟩
  show k ∈ (if w.guests.contains k then w.guests else w.guests ++ [k])
  split
  · next hk => simpa using hk
  · simp

theorem guestIssue_standsAside {c : Nat} {r : List Nat} {i : Instr} (hg : s.guests.look k = some g)
    (hq : (s.core c).big.guests = k :: r) (hd : decode g.word = .ok i)
    (ha : ((s.guestTurn c r).asideFor k g ((s.guestTurn c r).guestWalks k g i)).1 ≠ none) :
    ∃ u h, exec (.guestIssue c) s = .next u ∧ u.guests.look k = some h ∧ h.place = 2 ∧ ∃ n y, u.walks.look n = some y ∧ k ∈ y.guests := by
  obtain ⟨x, hx⟩ := Option.ne_none_iff_exists'.1 ha
  obtain ⟨h, hlook⟩ := State.setAside_stands ((s.guestTurn c r).asideFor k g ((s.guestTurn c r).guestWalks k g i)).2 k g x
  refine ⟨_, h, ?_, hlook⟩
  rw [guestIssue_head hg hq hd, hx]
  rfl

end

/-! ## A guest without a memory operand, R170 -/

section
variable {s : State} {k c : Nat} {g : Guest} {r : List Nat} {i : Instr}

/-- A guest's result on its way: the rest of the queue, the events and storage. -/
theorem answerGuest_guestTurn (s : State) (k c : Nat) (r : List Nat) (h : Guest) :
    ((s.guestTurn c r).answerGuest k h).guests.look k = some { h with place := 4 } ∧
      (((s.guestTurn c r).answerGuest k h).core c).big.guests = r ∧
      ((s.guestTurn c r).answerGuest k h).due = s.due.erase (.guestIssue c) ++ [.guestResult k] ∧
      BytesKept (fun _ => False) s ((s.guestTurn c r).answerGuest k h) := by
  refine ⟨Sp.look_set_self _ _ _, ?_, rfl, .of_mem rfl⟩
  have hcore : ((s.guestTurn c r).answerGuest k h).core c = (s.guestTurn c r).core c := rfl
  rw [hcore, State.guestTurn, State.core_updCore_self]

/-- The guest at the head that has no memory operand gives its value. -/
theorem guestIssue_gives (hg : s.guests.look k = some g) (hq : (s.core c).big.guests = k :: r) (hc : isCas i = false)
    (hm : isMtx i = false) (hd : decode g.word = .ok i) : exec (.guestIssue c) s =
      .next ((s.guestTurn c r).answerGuest k { g with res := (guestValue i g).1, flags := (guestValue i g).2 }) := by
  have hwalks : (s.guestTurn c r).guestWalks k g i = [] := by
    unfold State.guestWalks
    rw [hc, hm]
    rfl
  rw [guestIssue_runs hg hq hd (by rw [hwalks]; rfl), State.runGuest, hc, hm]
  rfl

end

end Sys2Proof.Machine
end

section
/-!
The values of guests without a memory operand, R170, R176.
-/

namespace Sys2Proof.Machine

section
variable {s : State} {k c : Nat} {g : Guest} {r : List Nat} {i : Instr}

/-- A guest whose value is its element function mapped over its operands, R103. -/
theorem guestIssue_collects {w : Nat} {f : Nat → FRes} (hg : s.guests.look k = some g) (hq : (s.core c).big.guests = k :: r)
    (hw : w ∣ 1024) (hv : guestValue i g = collect w g.guard g.d.v f) (hc : isCas i = false) (hm : isMtx i = false)
    (hd : decode g.word = .ok i) :
    ∃ u h, exec (.guestIssue c) s = .next u ∧
      (u.guests.look k = some h ∧ h.place = 4 ∧ h.fault = g.fault ∧ (u.core c).big.guests = r ∧
        u.due = s.due.erase (.guestIssue c) ++ [.guestResult k] ∧ BytesKept (fun _ => False) s u) ∧
      h.flags = (List.range (1024 / w)).foldl (fun z j => if enabled g.guard w j then z ||| (f j).flags else z) 0 ∧
      ∀ j, j < 1024 / w → elem h.res w j = if enabled g.guard w j then (f j).bits % 2 ^ w else elem g.d.v w j := by
  obtain ⟨hlook, hrest⟩ := answerGuest_guestTurn s k c r { g with res := (guestValue i g).1, flags := (guestValue i g).2 }
  refine ⟨_, _, guestIssue_gives hg hq hc hm hd, ⟨hlook, rfl, rfl, hrest⟩, ?_, fun j hj => ?_⟩
  · show (guestValue i g).2 = _
    rw [hv, collect_flags]
  · show elem (guestValue i g).1 w j = _
    rw [hv, collect_elem hw _ _ _ hj]

/-- A guest gives the value of its instruction. -/
theorem guestIssue_value (hg : s.guests.look k = some g) (hq : (s.core c).big.guests = k :: r) (hc : isCas i = false)
    (hm : isMtx i = false) (hd : decode g.word = .ok i) :
    ∃ u h, exec (.guestIssue c) s = .next u ∧
      (u.guests.look k = some h ∧ h.place = 4 ∧ h.fault = g.fault ∧ (u.core c).big.guests = r ∧
        u.due = s.due.erase (.guestIssue c) ++ [.guestResult k] ∧ BytesKept (fun _ => False) s u) ∧
      h.res = (guestValue i g).1 ∧ h.flags = (guestValue i g).2 := by
  obtain ⟨hlook, hrest⟩ := answerGuest_guestTurn s k c r { g with res := (guestValue i g).1, flags := (guestValue i g).2 }
  exact ⟨_, _, guestIssue_gives hg hq hc hm hd, ⟨hlook, rfl, rfl, hrest⟩, rfl, rfl⟩

end

/-- A raw compare result as a guest returns it. -/
theorem guestValue_fcmp_bit (g : Guest) (q : BitVec 4) (cc p e : BitVec 3) (a b : BitVec 6) (t : BitVec 3) {j : Nat}
    (hj : j < 1024 / (Fmt.ofCode t.toNat).w) (he : enabled g.guard (Fmt.ofCode t.toNat).w j = true) :
    (guestValue (.fcmp q cc p e a b t) g).1.getLsbD j =
      ((Fmt.ofCode t.toNat).compare cc.toNat (elem g.a.v (Fmt.ofCode t.toNat).w j) (elem g.b.v (Fmt.ofCode t.toNat).w j)).1 := by
  have hlt : j < 1024 := Nat.lt_of_lt_of_le hj (Nat.div_le_self _ _)
  have hbit : (BitVec.ofNat 1024 (valFcmp t cc.toNat g.vecIn).1).getLsbD j = bit (valFcmp t cc.toNat g.vecIn).1 j := by
    rw [bit_eq_testBit, BitVec.getLsbD_ofNat, decide_eq_true hlt, Bool.true_and]
  exact hbit.trans (valFcmp_bit t cc.toNat g.vecIn hj he)

end Sys2Proof.Machine
end

section
/-!
A guest's result at its sender, R171, R175, and the done notice behind it, R315.
-/

namespace Sys2Proof.Machine

/-! ## Flags of a slot, R56 to R58 -/

theorem Sp.set_set {α : Type} (m : Sp α) (k : Nat) (v w : α) : Sp.set (Sp.set m k v) k w = Sp.set m k w := by
  induction m with
  | nil => simp [Sp.set]
  | cons e r ih =>
    obtain ⟨j, x⟩ := e
    by_cases hlt : k < j
    · simp [Sp.set, hlt]
    · by_cases heq : k = j
      · subst heq; simp [Sp.set]
      · simp [Sp.set, hlt, heq, ih]

theorem State.setSlot_setSlot (s : State) (c n : Nat) (x y : Slot) : (s.setSlot c n x).setSlot c n y = s.setSlot c n y := by
  show (s.setCore c _).setCore c (((s.setSlot c n x).core c).setSlot n y) = s.setCore c ((s.core c).setSlot n y)
  rw [State.setCore_setCore, State.core_setSlot_self]
  show s.setCore c { (s.core c) with slots := Sp.set (Sp.set _ n x) n y } = _
  rw [Sp.set_set]
  rfl

theorem Arch.raise_none (a : Arch) : a.raise 0 = a := by
  show ({ a with sr := a.sr ||| 0#64 } : Arch) = a
  rw [BitVec.or_zero]

theorem Flags.or_none (f : Flags) : f ||| 0 = f := BitVec.or_zero

theorem Flags.shift_or (f g : Flags) : (f ||| g).setWidth 64 <<< 3 = f.setWidth 64 <<< 3 ||| g.setWidth 64 <<< 3 := by
  rw [BitVec.setWidth_or, BitVec.shiftLeft_or_distrib]

section
variable {s : State} {c n : Nat} {x : Slot} {sh : Ship}

/-- Inside a carry-ahead window flags wait in the window, R57. -/
theorem State.slot_raiseFor_window (hx : s.slot c n = x) (hs : x.ship = some sh) (f : Flags) : (s.raiseFor c n f).slot c n =
    { x with arch := x.arch.raise f, ship := some { sh with raised := sh.raised ||| f } } := by
  subst hx
  unfold State.raiseFor
  by_cases hf : f = 0
  · rw [if_pos hf, hf, Arch.raise_none, Flags.or_none, ← hs]
  · rw [if_neg hf]
    simp only [hs]
    exact State.slot_setSlot_self ..

theorem State.flagAcc_raiseFor_window (hx : s.slot c n = x) (hs : x.ship = some sh) (f : Flags) :
    ((s.raiseFor c n f).core c).flagAcc = (s.core c).flagAcc := by
  subst hx
  unfold State.raiseFor
  by_cases hf : f = 0
  · rw [if_pos hf]
  · rw [if_neg hf]
    simp only [hs]
    rw [State.core_setSlot_self]
    rfl

/-- Outside a carry-ahead window flags enter SR and the accumulator, R58. -/
theorem State.slot_raiseFor_open (hx : s.slot c n = x) (hs : x.ship = none) (f : Flags) : (s.raiseFor c n f).slot c n =
    { x with arch := x.arch.raise f } := by
  subst hx
  unfold State.raiseFor
  by_cases hf : f = 0
  · rw [if_pos hf, hf, Arch.raise_none]
  · rw [if_neg hf]
    simp only [hs]
    unfold State.slot
    rw [State.core_updCore_self]
    exact Core.slot_setSlot_self ..

theorem State.flagAcc_raiseFor_open (hx : s.slot c n = x) (hs : x.ship = none) (f : Flags) :
    ((s.raiseFor c n f).core c).flagAcc.at x.part 0 = (s.core c).flagAcc.at x.part 0 ||| f := by
  subst hx
  unfold State.raiseFor
  by_cases hf : f = 0
  · rw [if_pos hf, hf, Flags.or_none]
  · rw [if_neg hf]
    simp only [hs]
    rw [State.core_updCore_self]
    exact Sp.at_set_self ..

theorem State.raiseFor_none (s : State) (c n : Nat) : s.raiseFor c n 0 = s := if_pos rfl

theorem State.guests_raiseFor (s : State) (c n : Nat) (f : Flags) : (s.raiseFor c n f).guests = s.guests := by
  unfold State.raiseFor
  split
  · rfl
  · dsimp only
    split <;> rfl

theorem State.takeDataError_of_none {r : TaskRef} (h : (s.slot r.core r.slot).dataError = none) : s.takeDataError r = s := by
  unfold State.takeDataError
  dsimp only
  rw [h]

/-- A window with no data error behind it closes: its flags reach SR and the accumulator, R57, R171. -/
theorem State.closeWindow_eq {r : TaskRef} (hx : s.slot r.core r.slot = x) (hs : x.ship = some sh) (hd : x.dataError = none) :
    s.closeWindow r = (s.setSlot r.core r.slot { x with ship := none }).raiseFor r.core r.slot sh.raised := by
  have hopen : (s.setSlot r.core r.slot { x with ship := none }).slot r.core r.slot = { x with ship := none } := State.slot_setSlot_self ..
  subst hx
  unfold State.closeWindow
  simp only [hs]
  refine State.takeDataError_of_none ?_
  rw [State.slot_raiseFor_open hopen rfl]
  exact hd

/-- The slot behind a window that closed. -/
theorem State.slot_closeWindow {r : TaskRef} (hx : s.slot r.core r.slot = x) (hs : x.ship = some sh) (hd : x.dataError = none) :
    (s.closeWindow r).slot r.core r.slot = { x with ship := none, arch := x.arch.raise sh.raised } := by
  rw [State.closeWindow_eq hx hs hd]
  exact State.slot_raiseFor_open (x := { x with ship := none }) (State.slot_setSlot_self ..) rfl _

theorem State.flagAcc_closeWindow {r : TaskRef} (hx : s.slot r.core r.slot = x) (hs : x.ship = some sh) (hd : x.dataError = none) :
    ((s.closeWindow r).core r.core).flagAcc.at x.part 0 = (s.core r.core).flagAcc.at x.part 0 ||| sh.raised := by
  rw [State.closeWindow_eq hx hs hd]
  refine (State.flagAcc_raiseFor_open (x := { x with ship := none }) (State.slot_setSlot_self ..) rfl _).trans ?_
  rw [State.core_setSlot_self]
  rfl

theorem State.guests_closeWindow {r : TaskRef} (hx : s.slot r.core r.slot = x) (hs : x.ship = some sh) (hd : x.dataError = none) :
    (s.closeWindow r).guests = s.guests := by
  rw [State.closeWindow_eq hx hs hd]
  exact State.guests_raiseFor ..

end

/-! ## What a result writes, R171 -/

section
variable {s : State} {k : Nat} {g : Guest} {i : Instr}

theorem Guest.commit_sr (g : Guest) (i : Instr) (a : Arch) : (g.commit i a).sr = a.sr := by
  unfold Guest.commit
  split
  · exact (writesOnly_commitCompare ..).sr a
  · exact Arch.setReg_sr ..
  · split
    · rfl
    · exact Arch.setVec_sr ..
  all_goals simp

/-- The flags that a result brings; those of a matrix command come with its done notice, R315. -/
def Guest.brings (g : Guest) (i : Instr) : Flags := if isMtx i then 0 else g.flags

/-- The guests behind a result: one of a matrix command waits for its done notice, R315. -/
def State.guestReturned (s : State) (k : Nat) (g : Guest) (i : Instr) : State :=
  if isMtx i then (s.did (.guestResult k)).setGuest k { g with place := 5 }
  else { s.did (.guestResult k) with guests := s.guests.drop k }

/-- The slot of the sender with the result, its window still open. -/
def Guest.landed (g : Guest) (k : Nat) (i : Instr) (x : Slot) : Slot :=
  { x with arch := g.commit i x.arch, board := x.board.filter (fun b => b.2 != k) }

/-- A result in its sender's slot, the flags that it brings with it. -/
def State.guestLands (s : State) (k : Nat) (g : Guest) (i : Instr) : State :=
  ((s.guestReturned k g i).setSlot g.task.core g.task.slot (g.landed k i (s.slot g.task.core g.task.slot))).raiseFor
    g.task.core g.task.slot (g.brings i)

theorem State.guestLands_value (s : State) (k : Nat) (hm : isMtx i = false) : s.guestLands k g i =
    (({ s.did (.guestResult k) with guests := s.guests.drop k } : State).setSlot g.task.core g.task.slot
      (g.landed k i (s.slot g.task.core g.task.slot))).raiseFor g.task.core g.task.slot g.flags := by
  have hno : ¬ (isMtx i = true) := Bool.eq_false_iff.1 hm
  rw [State.guestLands, State.guestReturned, Guest.brings, if_neg hno, if_neg hno]

theorem State.guestLands_mtx (s : State) (k : Nat) (hm : isMtx i = true) : s.guestLands k g i =
    ((s.did (.guestResult k)).setGuest k { g with place := 5 }).setSlot g.task.core g.task.slot
      (g.landed k i (s.slot g.task.core g.task.slot)) := by
  rw [State.guestLands, State.guestReturned, Guest.brings, if_pos hm, if_pos hm, State.raiseFor_none]

/-- Whether a result belongs to an open window of its task, as the event asks. -/
theorem guest_mine {sh : Ship} {x : Slot} {a : Bool} (ha : a = true) (hs : x.ship = some sh) (hk : sh.id = k) :
    (a && (match x.ship with
      | some sh => sh.id == k
      | none => false)) = true := by
  rw [hs, ha, ← hk, Bool.true_and]
  exact beq_self_eq_true sh.id

theorem guestResult_lands {sh : Ship} (hg : s.guests.look k = some g) (hd : decode g.word = .ok i) (hp : g.place = 4)
    (hf : g.fault = none) (ha : s.alive g.task = true) (hs : (s.slot g.task.core g.task.slot).ship = some sh) (hk : sh.id = k) :
    exec (.guestResult k) s = .next ((s.guestLands k g i).closeWindow g.task) := by
  rw [exec_guestResult, execGuestResult, hg]
  simp only [hd, hp, ne_eq, not_true_eq_false, if_false]
  split
  · next hsome => exact absurd (hf.symm.trans hsome) nofun
  refine (if_neg (fun hn => Bool.noConfusion ((guest_mine ha hs hk).symm.trans ((Bool.not_eq_true' _).mp hn)))).trans ?_
  refine congrArg (fun t : State => Host.Outcome.next (t.closeWindow g.task)) ?_
  cases hm : isMtx i with
  | false =>
    rw [State.guestLands_value s k hm]
    rfl
  | true =>
    rw [State.guestLands_mtx s k hm]
    rfl

theorem State.guestReturned_kept (s : State) (k : Nat) (g : Guest) (i : Instr) : (s.guestReturned k g i).cores = s.cores ∧
    (s.guestReturned k g i).guests = if isMtx i then s.guests.set k { g with place := 5 } else s.guests.drop k := by
  unfold State.guestReturned
  cases isMtx i <;> exact ⟨rfl, rfl⟩

section
variable {sh : Ship} {x : Slot}

/-- The slot that a result finds, the flags it brings with the window's. -/
theorem slot_guestLands (hx : s.slot g.task.core g.task.slot = x) (hs : x.ship = some sh) :
    (s.guestLands k g i).slot g.task.core g.task.slot =
      { g.landed k i x with arch := (g.commit i x.arch).raise (g.brings i), ship := some { sh with raised := sh.raised ||| g.brings i } } := by
  subst hx
  exact State.slot_raiseFor_window (x := g.landed k i (s.slot g.task.core g.task.slot)) (State.slot_setSlot_self ..) hs _

/-- The slot of the sender behind a result. -/
theorem slot_guestLands_closed (hx : s.slot g.task.core g.task.slot = x) (hs : x.ship = some sh) (hn : x.dataError = none) :
    ((s.guestLands k g i).closeWindow g.task).slot g.task.core g.task.slot =
      { x with arch := ((g.commit i x.arch).raise (g.brings i)).raise (sh.raised ||| g.brings i), ship := none,
               board := x.board.filter (fun b => b.2 != k) } := by
  have hslot := State.slot_closeWindow (slot_guestLands (k := k) (i := i) hx hs) rfl hn
  exact hslot

theorem flagAcc_guestLands (hx : s.slot g.task.core g.task.slot = x) (hs : x.ship = some sh) :
    ((s.guestLands k g i).core g.task.core).flagAcc = (s.core g.task.core).flagAcc := by
  subst hx
  have hcore : (s.guestReturned k g i).core g.task.core = s.core g.task.core :=
    congrArg (fun l : Sp Core => l.at g.task.core {}) (s.guestReturned_kept k g i).1
  refine (State.flagAcc_raiseFor_window (x := g.landed k i (s.slot g.task.core g.task.slot)) (State.slot_setSlot_self ..) hs _).trans ?_
  rw [State.core_setSlot_self, hcore]
  rfl

/-- The flag accumulator of the sender's core behind a result. -/
theorem flagAcc_guestLands_closed (hx : s.slot g.task.core g.task.slot = x) (hs : x.ship = some sh) (hn : x.dataError = none) :
    (((s.guestLands k g i).closeWindow g.task).core g.task.core).flagAcc.at x.part 0 =
      (s.core g.task.core).flagAcc.at x.part 0 ||| (sh.raised ||| g.brings i) := by
  have hacc := State.flagAcc_closeWindow (slot_guestLands (k := k) (i := i) hx hs) rfl hn
  rw [flagAcc_guestLands hx hs] at hacc
  exact hacc

theorem guests_guestLands_closed (hx : s.slot g.task.core g.task.slot = x) (hs : x.ship = some sh) (hn : x.dataError = none) :
    ((s.guestLands k g i).closeWindow g.task).guests =
      if isMtx i then s.guests.set k { g with place := 5 } else s.guests.drop k := by
  rw [State.guests_closeWindow (slot_guestLands hx hs) rfl hn]
  unfold State.guestLands
  rw [State.guests_raiseFor]
  exact (s.guestReturned_kept k g i).2

end

theorem sr_raise_raise (a : Arch) (f h : Flags) : ((a.raise f).raise (h ||| f)).sr = a.sr ||| (h ||| f).setWidth 64 <<< 3 := by
  show a.sr ||| f.setWidth 64 <<< 3 ||| (h ||| f).setWidth 64 <<< 3 = _
  rw [Flags.shift_or, BitVec.or_assoc, BitVec.or_comm (h.setWidth 64 <<< 3), ← BitVec.or_assoc (f.setWidth 64 <<< 3), BitVec.or_self]

end

/-! ## A guest that faulted, R175 -/

section
variable {s : State} {k : Nat} {g : Guest} {i : Instr} {code tval qual : Nat} {sh : Ship} {x : Slot}

/-- A window in which nothing was taken from a port is discarded and the fault taken. -/
theorem State.remoteFault_traps {r : TaskRef} (hx : s.slot r.core r.slot = x) (hs : x.ship = some sh) (hp : sh.popped = [])
    (hn : x.dataError = none) (code tval qual : Nat) : s.remoteFault r code tval qual =
      (s.setSlot r.core r.slot { x with arch := sh.saved, ship := none, board := x.board.filter (fun b => b.2 != sh.id) }).enterTrap
        r.core r.slot code tval qual true sh.count sh.tpc := by
  subst hx
  unfold State.remoteFault
  simp only [hs, hp, List.foldr_nil, hn, Option.isSome_none, Bool.false_eq_true, if_false]

theorem guestResult_faults (hg : s.guests.look k = some g) (hd : decode g.word = .ok i) (hp : g.place = 4)
    (hf : g.fault = some (code, tval, qual)) (ha : s.alive g.task = true) (hx : s.slot g.task.core g.task.slot = x)
    (hs : x.ship = some sh) (hk : sh.id = k) (hpop : sh.popped = []) (hn : x.dataError = none) :
    Does (.guestResult k) (fun u => (({ u with guests := u.guests.drop k } : State).setSlot g.task.core g.task.slot
      { x with arch := sh.saved, ship := none, board := x.board.filter (fun b => b.2 != k), mxc := x.mxc - b2n (isMtx i) }).enterTrap
        g.task.core g.task.slot code tval qual true sh.count sh.tpc) s := by
  unfold Does
  rw [exec_guestResult, execGuestResult, hg]
  simp only [hd, hp, hf, ne_eq, not_true_eq_false, if_false]
  refine (if_pos (guest_mine ha (hx.symm ▸ hs) hk)).trans (congrArg Host.Outcome.next ?_)
  cases isMtx i with
  | false =>
    rw [if_neg Bool.false_ne_true]
    refine (State.remoteFault_traps (s := { s.did (.guestResult k) with guests := s.guests.drop k }) hx hs hpop hn ..).trans ?_
    rw [hk]
    rfl
  | true =>
    subst hx
    let t : State := { s.did (.guestResult k) with guests := s.guests.drop k }
    let y : Slot := { s.slot g.task.core g.task.slot with mxc := (s.slot g.task.core g.task.slot).mxc - 1 }
    have hupd : t.updTask g.task (fun y => { y with mxc := y.mxc - 1 }) = t.setSlot g.task.core g.task.slot y := if_pos ha
    refine (congrArg (fun u : State => u.remoteFault g.task code tval qual) ((if_pos rfl).trans hupd)).trans ?_
    rw [State.remoteFault_traps (State.slot_setSlot_self t _ _ y) hs hpop hn, State.setSlot_setSlot, hk]
    rfl

end

/-! ## The done notice, R315 -/

section
variable {s : State} {k : Nat} {g : Guest} {x : Slot}

theorem doneNotice_waits (hg : s.guests.look k = some g) (hp : g.place ≠ 5) : Waits (.doneNotice k) s := by
  unfold Waits
  rw [exec_doneNotice, execDoneNotice, hg]
  exact if_pos hp

theorem Slot.land_raise_none (y : Slot) : y.land (fun a => a.raise 0) = y := by
  simp only [Slot.land, Arch.raise_none, Option.map_id']

/-- Flags that a carry-ahead window does not undo. -/
theorem State.raiseLate_lands {c n : Nat} (hx : s.slot c n = x) (f : Flags) : (s.raiseLate c n f).guests = s.guests ∧
    ((s.raiseLate c n f).core c).flagAcc.at x.part 0 = (s.core c).flagAcc.at x.part 0 ||| f ∧
    (s.raiseLate c n f).slot c n = x.land (fun a => a.raise f) := by
  subst hx
  unfold State.raiseLate
  by_cases hf : f = 0
  · rw [if_pos hf, hf, Slot.land_raise_none, Flags.or_none]
    exact ⟨rfl, rfl, rfl⟩
  · rw [if_neg hf]
    refine ⟨rfl, ?_, ?_⟩
    · unfold State.sumFlags
      rw [State.core_updCore_self]
      refine (Sp.at_set_self ..).trans ?_
      rw [State.updSlot, State.core_setSlot_self]
      rfl
    · unfold State.sumFlags State.slot
      rw [State.core_updCore_self]
      exact State.slot_updSlot_self s c n _

theorem doneNotice_lands (hg : s.guests.look k = some g) (hp : g.place = 5) (ha : s.alive g.task = true)
    (hx : s.slot g.task.core g.task.slot = x) :
    ∃ t, exec (.doneNotice k) s = .next t ∧ t.guests = s.guests.drop k ∧
      (t.core g.task.core).flagAcc.at x.part 0 = (s.core g.task.core).flagAcc.at x.part 0 ||| g.flags ∧
      t.slot g.task.core g.task.slot =
        ({ x with mxc := x.mxc - 1 } : Slot).land (fun a => { a with sr := a.sr ||| g.flags.setWidth 64 <<< 3 }) := by
  subst hx
  let t : State := { s.did (.doneNotice k) with guests := s.guests.drop k }
  have hstep : exec (.doneNotice k) s =
      .next ((t.updSlot g.task.core g.task.slot (fun x => { x with mxc := x.mxc - 1 })).raiseLate g.task.core g.task.slot g.flags) := by
    have halive : t.alive g.task = true := ha
    rw [exec_doneNotice, execDoneNotice, hg]
    simp only [hp, ne_eq, not_true_eq_false, if_false]
    show (if !t.alive g.task then _ else Host.Outcome.next ((t.updTask g.task _).raiseLate _ _ _)) = _
    rw [halive, State.updTask, if_pos halive]
    rfl
  obtain ⟨hguests, hacc, hslot⟩ := State.raiseLate_lands (s := t.updSlot g.task.core g.task.slot (fun x => { x with mxc := x.mxc - 1 }))
    (State.slot_updSlot_self ..) g.flags
  refine ⟨_, hstep, hguests, hacc.trans ?_, hslot⟩
  rw [State.updSlot, State.core_setSlot_self]
  rfl

end

end Sys2Proof.Machine
end

section
/-!
Guests of matrix commands: the checks of R298 in a guest's turn, and the way into the inbox of its home core, R299, R315.
-/

namespace Sys2Proof.Machine

/-! ## What an inbox leaves as it was, R298, R299 -/

/-- A state that differs in its cores and in the events under way alone. -/
def CoresAndDue (s t : State) : Prop := ∃ k d, t = { s with cores := k, due := d }

section
variable {s t u : State}

theorem CoresAndDue.refl (s : State) : CoresAndDue s s := ⟨s.cores, s.due, rfl⟩

theorem CoresAndDue.trans (h : CoresAndDue s t) (h' : CoresAndDue t u) : CoresAndDue s u := by
  obtain ⟨_, _, rfl⟩ := h
  obtain ⟨k, d, rfl⟩ := h'
  exact ⟨k, d, rfl⟩

theorem coresAndDue_updCore (s : State) (c : Nat) (f : Core → Core) : CoresAndDue s (s.updCore c f) := ⟨_, s.due, rfl⟩

theorem coresAndDue_abortTask (s : State) (c n cause : Nat) : CoresAndDue s (s.abortTask c n cause) := by
  unfold State.abortTask
  dsimp only
  split
  · exact ⟨_, _, rfl⟩
  · exact coresAndDue_updCore ..

theorem coresAndDue_enterTrap (s : State) (c n code tval qual : Nat) (remote : Bool) (twin : Nat) (tpc : Word) :
    CoresAndDue s (s.enterTrap c n code tval qual remote twin tpc) := by
  unfold State.enterTrap
  dsimp only
  split
  · exact coresAndDue_abortTask ..
  · exact coresAndDue_updCore ..

theorem coresAndDue_dataTrap (s : State) (r : TaskRef) (va : Nat) : CoresAndDue s (s.dataTrap r va) := by
  unfold State.dataTrap
  dsimp only
  split
  · exact .refl s
  · split
    · exact coresAndDue_updCore ..
    · exact coresAndDue_enterTrap ..

theorem coresAndDue_takeDataError (s : State) (r : TaskRef) : CoresAndDue s (s.takeDataError r) := by
  unfold State.takeDataError
  dsimp only
  split
  · exact .refl s
  · split
    · exact (coresAndDue_updCore ..).trans (coresAndDue_dataTrap ..)
    · exact .refl s

theorem coresAndDue_updTask (s : State) (r : TaskRef) (f : Slot → Slot) : CoresAndDue s (s.updTask r f) := by
  unfold State.updTask
  split
  · exact ⟨_, s.due, rfl⟩
  · exact .refl s

theorem coresAndDue_takeBook (s : State) (m : MtxCmd) : CoresAndDue s (s.takeBook m) := by
  unfold State.takeBook
  split
  · exact coresAndDue_updCore ..
  · exact .refl s

theorem coresAndDue_admitCmd (s : State) (id : Nat) (m : MtxCmd) :
    CoresAndDue { s with cmds := s.cmds.set id { m with admitted := true } } (s.admitCmd id m) := by
  unfold State.admitCmd
  dsimp only
  split
  · exact coresAndDue_takeBook ..
  · split
    · split
      all_goals split
      · exact (coresAndDue_takeBook ..).trans ((coresAndDue_updTask ..).trans (coresAndDue_takeDataError ..))
      · exact coresAndDue_takeBook ..
      · exact (coresAndDue_takeBook ..).trans ((coresAndDue_updTask ..).trans (coresAndDue_takeDataError ..))
      · exact coresAndDue_takeBook ..
    · exact coresAndDue_takeBook ..

end

/-- A state with the guests and inboxes of another, in which a command stands, admitted or waiting. -/
def Inboxed (s : State) (id : Nat) (m : MtxCmd) (t : State) : Prop :=
  t.guests = s.guests ∧ t.mtxq = s.mtxq ∧ ∃ b, t.cmds.look id = some { m with admitted := b }

section
variable {s t u : State} {id : Nat} {m : MtxCmd}

theorem Inboxed.coresAndDue (h : Inboxed s id m t) (hu : CoresAndDue t u) : Inboxed s id m u := by
  obtain ⟨_, _, rfl⟩ := hu
  exact h

/-- One command admitted leaves every other, and itself but for the mark. -/
theorem Inboxed.admitCmd (h : Inboxed s id m t) {k : Nat} {m' : MtxCmd} (hk : t.cmds.look k = some m') :
    Inboxed s id m (t.admitCmd k m') := by
  obtain ⟨hguests, hq, b, hb⟩ := h
  refine Inboxed.coresAndDue (t := { t with cmds := t.cmds.set k { m' with admitted := true } }) ⟨hguests, hq, ?_⟩
    (coresAndDue_admitCmd t k m')
  by_cases heq : k = id
  · subst heq
    obtain rfl := Option.some.inj (hk.symm.trans hb)
    exact ⟨true, Sp.look_set_self ..⟩
  · exact ⟨b, (Sp.look_set ..).trans ((if_neg heq).trans hb)⟩

theorem Inboxed.fillInbox (h : Inboxed s id m t) (c : Nat) : Inboxed s id m (t.fillInbox c) := by
  refine foldl_keeps (P := Inboxed s id m) (fun v k hv => ?_) _ t h
  split
  · next m' hm' =>
    split
    · exact hv
    · exact hv.admitCmd hm'
  · exact hv

/-- A command stands in its inbox, and its start is under way. -/
theorem State.enterInbox_stands (s : State) (id : Nat) {m : MtxCmd} (hs : m.service = false) :
    (s.enterInbox id m).guests = s.guests ∧ id ∈ (s.enterInbox id m).mtxq.at m.core [] ∧
      (∃ b, (s.enterInbox id m).cmds.look id = some { m with admitted := b }) ∧
      Instr.matrixCommandStart m.core ∈ (s.enterInbox id m).due := by
  have hin : Inboxed { s with cmds := s.cmds.set id m, mtxq := s.mtxq.set m.core (joinQueue s (s.mtxq.at m.core []) id m.service) } id m
      { s with cmds := s.cmds.set id m, mtxq := s.mtxq.set m.core (joinQueue s (s.mtxq.at m.core []) id m.service) } :=
    ⟨rfl, rfl, m.admitted, Sp.look_set_self ..⟩
  obtain ⟨hguests, hq, hcmd⟩ := hin.fillInbox m.core
  refine ⟨hguests, ?_, hcmd, List.mem_append_right _ List.mem_cons_self⟩
  show id ∈ (State.fillInbox _ m.core).mtxq.at m.core []
  rw [hq, Sp.at_set_self, joinQueue, hs]
  simp

end

/-! ## The checks in a guest's turn, R298 -/

theorem isCas_of_isMtx {i : Instr} (h : isMtx i = true) : isCas i = false := by
  unfold isMtx at h
  split at h
  case h_9 => exact absurd h Bool.false_ne_true
  all_goals rfl

theorem capRole_fault {r : Reg} {p : Perm} {f : CardFault} (h : capRole r p = some f) : f.1 ≠ notYet := by
  unfold capRole at h
  dsimp only at h
  split at h
  · cases h
    exact (by decide : causeTag ≠ notYet)
  · split at h
    · cases h
      exact (by decide : causeSeal ≠ notYet)
    · split at h <;> cases h
      exact (by decide : causePerm ≠ notYet)

theorem Operand.capFault_code {o : Operand} {f : CardFault} (h : o.capFault = some f) : f.1 ≠ notYet := by
  unfold Operand.capFault at h
  split at h
  · cases h
  · dsimp only at h
    split at h
    · next f' hf =>
      cases h
      exact capRole_fault hf
    · split at h <;> cases h
      exact (by decide : causeBounds ≠ notYet)

theorem MtxCmd.fieldFault_code {m : MtxCmd} {f : CardFault} (h : m.fieldFault = some f) : f.1 ≠ notYet := by
  unfold MtxCmd.fieldFault at h
  dsimp only at h
  split at h
  · cases h
    exact (by decide : causeRange ≠ notYet)
  · split at h
    · cases h
      exact (by decide : causeRange ≠ notYet)
    · split at h <;> cases h
      exact (by decide : causeParam ≠ notYet)

/-- Steps 3 to 6 of R298 end in a fault, never in a walk. -/
theorem State.mtxForm_code {s : State} {m : MtxCmd} {f : Nat × CardFault} (h : s.mtxForm m = some f) : f.2.1 ≠ notYet := by
  unfold State.mtxForm at h
  dsimp only at h
  split at h
  · cases h
    exact (by decide : causeRange ≠ notYet)
  · next hf =>
    cases h
    exact MtxCmd.fieldFault_code hf
  · split at h
    · next f' hf =>
      cases h
      obtain ⟨o, -, ho⟩ := List.exists_of_findSome?_eq_some hf
      exact Operand.capFault_code ho
    · split at h
      · cases h
        exact (by decide : causeAlign ≠ notYet)
      · obtain ⟨o, -, rfl⟩ := Option.map_eq_some_iff.1 h
        exact (by decide : causeAccess ≠ notYet)

/-- A key's entry replaced, in a map whose values are made from keys and values. -/
theorem Sp.set_map {α β : Type} (f : Nat → α → β) (m : Sp α) (k : Nat) (v : α) :
    (Sp.set m k v).map (fun e => (e.1, f e.1 e.2)) = Sp.set (m.map (fun e => (e.1, f e.1 e.2))) k (f k v) := by
  induction m with
  | nil => rfl
  | cons e r ih =>
    obtain ⟨j, x⟩ := e
    by_cases hlt : k < j
    · simp [Sp.set, hlt]
    · by_cases heq : k = j <;> simp [Sp.set, hlt, heq, ih]

/-- A replaced value changes nothing of what some value has at its key, when it has it as the old one had. -/
theorem Sp.any_set_key {α : Type} (m : Sp α) (k : Nat) (v d : α) (P : Nat → α → Bool) (hd : P k d = false) (hv : P k v = P k (m.at k d)) :
    (Sp.set m k v).any (fun e => P e.1 e.2) = m.any (fun e => P e.1 e.2) := by
  have hpair : ∀ l : Sp α, l.any (fun e => P e.1 e.2) =
      List.any (l.map (fun e => (e.1, (e.1, e.2)))) (fun e => (fun p : Nat × α => P p.1 p.2) e.2) := fun l => by
    rw [List.any_map]
    rfl
  have hat : (Sp.at (m.map (fun e => (e.1, (e.1, e.2)))) k (k, d)) = (k, m.at k d) := by
    unfold Sp.at
    rw [Sp.look_map (fun i x => (i, x)) m k]
    cases m.look k <;> rfl
  rw [hpair m, hpair, Sp.set_map (fun i x => (i, x))]
  exact Sp.any_set _ k (k, v) (k, d) (fun p => P p.1 p.2) hd (by rw [hat]; exact hv)

section
variable {s : State} {k c : Nat} {g : Guest} {r : List Nat} {i : Instr} {m : MtxCmd}

/-- What of a core does not lie in its guest queue is in a guest's turn as it was. -/
theorem State.core_guestTurn {γ : Type} {f : Core → γ} (hf : ∀ b l, f { b with big := { b.big with guests := l } } = f b)
    (s : State) (c : Nat) (r : List Nat) (d : Nat) : f ((s.guestTurn c r).core d) = f (s.core d) := by
  by_cases h : c = d
  · subst h
    rw [State.guestTurn, State.core_updCore_self]
    exact hf _ _
  · rw [State.guestTurn, State.core_updCore_ne _ h]
    rfl

theorem State.cUnitLent_guestTurn (s : State) (c : Nat) (r : List Nat) (big off : Nat) :
    (s.guestTurn c r).cUnitLent big off = s.cUnitLent big off :=
  Sp.any_set_key s.cores c _ {} (fun n b => spillKind b.spill == 2 && spillBig n b.spill == big &&
    decide (spillPlace b.spill ≤ off / 4096) && decide (off / 4096 < spillPlace b.spill + spillLen b.spill)) rfl rfl

theorem State.recordAccess_guestTurn (s : State) (c : Nat) (r : List Nat) (m : MtxCmd) (o : Operand) :
    (s.guestTurn c r).recordAccess m o = s.recordAccess m o := by
  unfold State.recordAccess
  simp only [State.cUnitLent_guestTurn, State.core_guestTurn (f := fun b => b.big.owners) (fun _ _ => rfl)]

theorem State.mtxForm_guestTurn (s : State) (c : Nat) (r : List Nat) (m : MtxCmd) : (s.guestTurn c r).mtxForm m = s.mtxForm m := by
  unfold State.mtxForm
  simp only [State.recordAccess_guestTurn]

theorem State.bookOk_guestTurn (s : State) (c : Nat) (r : List Nat) (m : MtxCmd) (o : Operand) :
    (s.guestTurn c r).bookOk m o = s.bookOk m o := by
  unfold State.bookOk
  simp only [State.core_guestTurn (f := fun b => b.big.books) (fun _ _ => rfl)]

theorem State.deferred_guestTurn (s : State) (c : Nat) (r : List Nat) (d : Nat) :
    ((s.guestTurn c r).core d).big.deferred = (s.core d).big.deferred :=
  State.core_guestTurn (f := fun b => b.big.deferred) (fun _ _ => rfl) s c r d

/-! ## The addresses for whose walks a matrix guest stands aside, R169 -/

theorem State.mtxWalks_guestTurn (s : State) (c : Nat) (r : List Nat) (k : Nat) (g : Guest) :
    (s.guestTurn c r).mtxWalks k g = s.mtxWalks k g := by
  unfold State.mtxWalks
  simp only [State.deferred_guestTurn, State.mtxForm_guestTurn]

theorem State.guestWalks_mtx (t : State) (k : Nat) (g : Guest) (hm : isMtx i = true) : t.guestWalks k g i = t.mtxWalks k g := by
  rw [State.guestWalks, isCas_of_isMtx hm, hm]
  rfl

theorem State.mtxWalks_of_deferred (hd : (s.core g.home).big.deferred = true) : s.mtxWalks k g = [] := by
  unfold State.mtxWalks
  exact if_pos (Or.inl hd)

theorem State.mtxWalks_of_form {f : Nat × CardFault} (hf : s.mtxForm (g.cmd k) = some f) : s.mtxWalks k g = [] := by
  unfold State.mtxWalks
  exact if_pos (Or.inr (by rw [hf]; rfl))

theorem State.mtxWalks_of_local (ho : ∀ o ∈ (g.cmd k).operands, recSpace o.r ≠ 0) : s.mtxWalks k g = [] := by
  have hnone : (g.cmd k).operands.filter (fun o => recSpace o.r == 0) = [] :=
    List.filter_eq_nil_iff.2 (fun o hmem => by simpa using ho o hmem)
  unfold State.mtxWalks
  dsimp only
  rw [hnone, List.flatMap_nil, ite_self]

/-- Step 7 of R298 has nothing to pin where no operand lies in L2. -/
theorem State.pinAll_local (t : State) (m : MtxCmd) (l : Sp Nat) : ∀ {os : List Operand}, (∀ o ∈ os, recSpace o.r ≠ 0) →
    t.pinAll m os l = (.ok l, t)
  | [], _ => rfl
  | o :: _, h => (if_pos (h o List.mem_cons_self)).trans (State.pinAll_local t m l (fun p hp => h p (List.mem_cons_of_mem _ hp)))

/-! ## A matrix guest's turn, R169, R298, R314, R315 -/

theorem guestIssue_mtx (hg : s.guests.look k = some g) (hq : (s.core c).big.guests = k :: r) (hd : decode g.word = .ok i)
    (hm : isMtx i = true) (hw : s.mtxWalks k g = []) :
    exec (.guestIssue c) s = .next ((s.guestTurn c r).runMtxGuest k g) := by
  have hwalks : (s.guestTurn c r).guestWalks k g i = [] := by
    rw [State.guestWalks_mtx _ k g hm, State.mtxWalks_guestTurn, hw]
  rw [guestIssue_runs hg hq hd (by rw [hwalks]; rfl), State.runGuest, isCas_of_isMtx hm, hm]
  rfl

section
variable {t u : State}

theorem State.runMtxGuest_deferred (hd : (t.core g.home).big.deferred = true) :
    t.runMtxGuest k g = (t.fresh.2.setGuest k { g with place := 3 }).enterInbox t.serial (g.cmd k) := if_pos hd

theorem State.runMtxGuest_ok (hd : (t.core g.home).big.deferred = false) (hcheck : t.fresh.2.mtxCheck (g.cmd k) = (.ok m, u)) :
    t.runMtxGuest k g = if m.rowTo.isSome then (u.setGuest k { g with place := 3 }).enterInbox t.serial m
      else (u.enterInbox t.serial m).answerGuest k g := by
  refine (if_neg (Bool.eq_false_iff.1 hd)).trans ?_
  dsimp only [State.fresh] at hcheck
  rw [hcheck]

theorem State.runMtxGuest_error {f : Nat × CardFault} (hd : (t.core g.home).big.deferred = false)
    (hcheck : t.fresh.2.mtxCheck (g.cmd k) = (.error f, u)) (hf : f.2.1 ≠ notYet) :
    t.runMtxGuest k g = u.answerGuest k { g with fault := some (f.2.1, f.2.2, 0) } := by
  refine (if_neg (Bool.eq_false_iff.1 hd)).trans ?_
  dsimp only [State.fresh] at hcheck
  rw [hcheck]
  exact if_neg hf

end

/-- A matrix command of a guest that stands in its inbox, with the guest's place. -/
def MtxEnters (k : Nat) (g : Guest) (u : State) (place : Nat) (m : MtxCmd) : Prop :=
  u.guests.look k = some { g with place := place } ∧
    (∃ n, u.cmds.look n = some { m with admitted := ((u.cmds.look n).map (·.admitted)).getD false } ∧ n ∈ u.mtxq.at g.home []) ∧
    Instr.matrixCommandStart g.home ∈ u.due ∧ (place = 4 → Instr.guestResult k ∈ u.due)

/-- A guest that waits for its command to be done, R315. -/
theorem mtxEnters_waiting (t : State) (id : Nat) (hs : m.service = false) (hc : m.core = g.home) :
    MtxEnters k g ((t.setGuest k { g with place := 3 }).enterInbox id m) 3 m := by
  obtain ⟨hguests, hq, ⟨b, hb⟩, hdue⟩ := (t.setGuest k { g with place := 3 }).enterInbox_stands id hs
  rw [hc] at hq hdue
  refine ⟨by rw [hguests]; exact Sp.look_set_self .., ⟨id, ?_, hq⟩, hdue, fun h => absurd h (by decide)⟩
  rw [hb]
  rfl

/-- A guest whose result is under way as soon as its command stands in the inbox, R315. -/
theorem mtxEnters_answered (t : State) (id : Nat) (hs : m.service = false) (hc : m.core = g.home) :
    MtxEnters k g ((t.enterInbox id m).answerGuest k g) 4 m := by
  obtain ⟨-, hq, ⟨b, hb⟩, hdue⟩ := t.enterInbox_stands id hs
  rw [hc] at hq hdue
  refine ⟨Sp.look_set_self .., ⟨id, ?_, hq⟩, List.mem_append_left _ hdue, fun _ => List.mem_append_right _ List.mem_cons_self⟩
  show (t.enterInbox id m).cmds.look id = some { m with admitted := (((t.enterInbox id m).cmds.look id).map (·.admitted)).getD false }
  rw [hb]
  rfl

theorem guestIssue_mtx_deferred (hg : s.guests.look k = some g) (hq : (s.core c).big.guests = k :: r) (hd : decode g.word = .ok i)
    (hm : isMtx i = true) (hdef : (s.core g.home).big.deferred = true) :
    ∃ u, exec (.guestIssue c) s = .next u ∧ MtxEnters k g u 3 (g.cmd k) := by
  rw [guestIssue_mtx hg hq hd hm (State.mtxWalks_of_deferred hdef),
    State.runMtxGuest_deferred ((s.deferred_guestTurn c r g.home).trans hdef)]
  exact ⟨_, rfl, mtxEnters_waiting _ _ rfl rfl⟩

/-- The checks of R298 pass for a command with no operand in L2. -/
theorem State.mtxCheck_guestTurn (hform : s.mtxForm m = none) (ho : ∀ o ∈ m.operands, recSpace o.r ≠ 0)
    (hb : ∀ o ∈ m.operands, s.bookOk m o = true) :
    (s.guestTurn c r).fresh.2.mtxCheck m = (.ok { m with pins := [], checked := true }, (s.guestTurn c r).fresh.2) := by
  have hform' : (s.guestTurn c r).fresh.2.mtxForm m = none := (s.mtxForm_guestTurn c r m).trans hform
  have hbook : m.operands.find? (fun o => !(s.guestTurn c r).fresh.2.bookOk m o) = none := by
    refine List.find?_eq_none.2 (fun o hmem => ?_)
    have hok : (s.guestTurn c r).fresh.2.bookOk m o = true := (s.bookOk_guestTurn c r m o).trans (hb o hmem)
    simp [hok]
  unfold State.mtxCheck
  rw [hform', State.pinAll_local _ m [] ho]
  show (match m.operands.find? _ with | some o => _ | none => _) = _
  rw [hbook]

theorem guestIssue_mtx_checked (hg : s.guests.look k = some g) (hq : (s.core c).big.guests = k :: r) (hd : decode g.word = .ok i)
    (hm : isMtx i = true) (hdef : (s.core g.home).big.deferred = false) (hform : s.mtxForm (g.cmd k) = none)
    (ho : ∀ o ∈ (g.cmd k).operands, recSpace o.r ≠ 0) (hb : ∀ o ∈ (g.cmd k).operands, s.bookOk (g.cmd k) o = true) :
    ∃ u, exec (.guestIssue c) s = .next u ∧
      MtxEnters k g u (if (g.cmd k).rowTo.isSome then 3 else 4) { g.cmd k with pins := [], checked := true } := by
  rw [guestIssue_mtx hg hq hd hm (State.mtxWalks_of_local ho),
    State.runMtxGuest_ok ((s.deferred_guestTurn c r g.home).trans hdef) (State.mtxCheck_guestTurn hform ho hb)]
  refine ⟨_, rfl, ?_⟩
  cases (g.cmd k).rowTo.isSome with
  | false => exact mtxEnters_answered _ _ rfl rfl
  | true => exact mtxEnters_waiting _ _ rfl rfl

theorem guestIssue_mtx_faults {f : Nat × CardFault} (hg : s.guests.look k = some g) (hq : (s.core c).big.guests = k :: r)
    (hd : decode g.word = .ok i) (hm : isMtx i = true) (hdef : (s.core g.home).big.deferred = false)
    (hform : s.mtxForm (g.cmd k) = some f) : ∃ u h, exec (.guestIssue c) s = .next u ∧ u.guests.look k = some h ∧ h.place = 4 ∧
      h.fault = some (f.2.1, f.2.2, 0) ∧ Instr.guestResult k ∈ u.due := by
  have hform' : (s.guestTurn c r).fresh.2.mtxForm (g.cmd k) = some f := (s.mtxForm_guestTurn c r _).trans hform
  have hcheck : (s.guestTurn c r).fresh.2.mtxCheck (g.cmd k) = (.error f, (s.guestTurn c r).fresh.2) := by
    unfold State.mtxCheck
    rw [hform']
  rw [guestIssue_mtx hg hq hd hm (State.mtxWalks_of_form hform),
    State.runMtxGuest_error ((s.deferred_guestTurn c r g.home).trans hdef) hcheck (State.mtxForm_code hform)]
  exact ⟨_, _, rfl, Sp.look_set_self .., rfl, rfl, List.mem_append_right _ List.mem_cons_self⟩

end

end Sys2Proof.Machine
end

section
/-!
What a CAS128 guest finds at its place: storage as it was before its turn, after translations (R203), and after the access to its home
slice (R191) or its register bank (R366).
-/

namespace Sys2Proof.Machine

theorem Translated.asideFor (k : Nat) (g : Guest) : ∀ (l : List Nat) (s : State), Translated s (s.asideFor k g l).2
  | [], s => .refl s
  | x :: l, s => by
    unfold State.asideFor
    split
    · exact Translated.asideFor k g l s
    · have hhand := Translated.atHand s (g.access k) x
      split
      · next heq =>
        rw [heq] at hhand
        exact hhand.trans (Translated.asideFor k g l _)
      · next heq =>
        rw [heq] at hhand
        exact hhand

/-! ## Storage as it shows -/

/-- A state in which every byte of storage, tag and mark of bad data shows as in another. -/
structure Shows (s t : State) : Prop where
  mem : t.mem = s.mem
  tags : t.tags = s.tags
  bytes : ∀ k, t.byte k = s.byte k
  bad : ∀ k n, t.badAt k n = s.badAt k n

section
variable {s t u : State}

theorem Shows.trans (h : Shows s t) (h' : Shows t u) : Shows s u where
  mem := h'.mem.trans h.mem
  tags := h'.tags.trans h.tags
  bytes k := (h'.bytes k).trans (h.bytes k)
  bad k n := (h'.bad k n).trans (h.bad k n)

theorem Shows.readMem (h : Shows s t) (k n : Nat) : t.readMem k n = s.readMem k n := by
  unfold State.readMem
  simp only [h.bytes]

theorem Shows.tagAt (h : Shows s t) (k : Nat) : t.tagAt k = s.tagAt k := by
  rw [State.tagAt, h.tags, State.tagAt]

theorem Shows.translated (h : Translated s t) : Shows s t where
  mem := by rw [h.out]
  tags := by rw [h.out]
  bytes k := by rw [h.out]; rfl
  bad := h.badAt

theorem State.slot_guestTurn (s : State) (c : Nat) (r : List Nat) (d n : Nat) : (s.guestTurn c r).slot d n = s.slot d n :=
  State.core_guestTurn (f := fun b => b.slot n) (fun _ _ => rfl) s c r d

/-- No control register shows a guest queue, R379. -/
theorem State.control_guestTurn (s : State) (c : Nat) (r : List Nat) (x : CtlReg) : (s.guestTurn c r).control x = s.control x := by
  cases x with
  | owner d unit => exact State.core_guestTurn (f := fun b => b.big.ownerWord unit) (fun _ _ => rfl) s c r d
  | bctl d => exact State.core_guestTurn (f := fun b => b.big.bctl) (fun _ _ => rfl) s c r d
  | hostctx d => exact State.core_guestTurn (f := fun b => b.big.host.ctx) (fun _ _ => rfl) s c r d
  | fwall d => exact State.core_guestTurn (f := fun b => b.fwall.toNat) (fun _ _ => rfl) s c r d
  | _ => rfl

/-- A byte shows memory, a register, or a control register, R186, R379. -/
theorem State.byte_of_parts (hm : t.mem = s.mem) (hv : ∀ d o, t.viewByte d o = s.viewByte d o)
    (hr : ∀ d w, t.controlReg d w = s.controlReg d w) (hc : ∀ x, t.control x = s.control x) (k : Nat) : t.byte k = s.byte k := by
  simp only [State.byte, State.controlWord, hm, hv, hr, hc]

theorem State.viewByte_guestTurn (s : State) (c : Nat) (r : List Nat) (d o : Nat) : (s.guestTurn c r).viewByte d o = s.viewByte d o := by
  unfold State.viewByte
  rw [s.slot_guestTurn c r]
  rfl

theorem Shows.guestTurn (s : State) (c : Nat) (r : List Nat) : Shows s (s.guestTurn c r) where
  mem := rfl
  tags := rfl
  bytes := State.byte_of_parts rfl (s.viewByte_guestTurn c r) (fun _ _ => rfl) (s.control_guestTurn c r)
  bad k n := by
    unfold State.badAt State.badView
    rw [s.slot_guestTurn c r]
    rfl

/-- An access to a bank gates none and ungates none, R366. -/
theorem State.accessBank_gated {k : Nat} (h : s.accessBank k = some t) (i : Nat) :
    ((t.banks.at i {}).st == .gated) = ((s.banks.at i {}).st == .gated) := by
  unfold State.accessBank at h
  split at h
  · cases h
    rfl
  · next j _ =>
    dsimp only at h
    split at h
    · cases h
    · cases h
      split
      · next hd =>
        show ((Sp.at (Sp.put {} s.banks j _) i {}).st == _) = _
        rw [Sp.at_put]
        split
        · next heq =>
          subst heq
          rw [hd]
          rfl
        · rfl
      · rfl

theorem Shows.accessBank {k : Nat} (h : s.accessBank k = some t) : Shows s t := by
  have hgated := State.accessBank_gated h
  obtain ⟨b, rfl⟩ := State.accessBank_ex h
  refine ⟨rfl, rfl, State.byte_of_parts rfl (fun d o => ?_) (fun _ _ => rfl) (fun x => by cases x <;> rfl), fun _ _ => rfl⟩
  have hg : ((b.at (16 * d + viewSlot o) {}).st == .gated) = ((s.banks.at (16 * d + viewSlot o) {}).st == .gated) := hgated _
  have hslot : ({ s with banks := b } : State).slot d (viewSlot o) = s.slot d (viewSlot o) := rfl
  unfold State.viewByte
  dsimp only
  rw [hg, hslot]

end

end Sys2Proof.Machine
end

section
/-!
A CAS128 guest's access to its home slice: which marks of bad data it leaves, and which keys have a home slice at all, R191, R430; and
what its store leaves of memory and of the guest queues.
-/

namespace Sys2Proof.Machine

/-! ## Marks of bad data, R430 -/

/-- No mark of bad data has appeared. -/
def NoneWorse (s t : State) : Prop := ∀ j, s.bad.at j false = false → t.bad.at j false = false

section
variable {s t u : State}

theorem NoneWorse.trans (h : NoneWorse s t) (h' : NoneWorse t u) : NoneWorse s u := fun j hj => h' j (h j hj)

theorem NoneWorse.of_bad (h : t.bad = s.bad) : NoneWorse s t := fun j hj => by rw [h]; exact hj

theorem NoneWorse.updSlice (s : State) (i : Nat) (f : Slice → Slice) : NoneWorse s (s.updSlice i f) := .of_bad rfl

theorem NoneWorse.push (s : State) (i : Instr) : NoneWorse s (s.push i) := .of_bad rfl

theorem NoneWorse.forgetSoft (s : State) (l : List Line) : NoneWorse s (s.forgetSoft l) := fun j hj => by
  unfold State.forgetSoft
  refine foldl_keeps (P := fun b : Sp Bool => b.at j false = false) (fun b x hb => ?_) _ _ hj
  refine foldl_keeps (P := fun b : Sp Bool => b.at j false = false) (fun b i hb => ?_) _ _ hb
  rw [Sp.at_put, hb, ite_self]

theorem State.bad_visit (s : State) (i : Nat) (l : Line) (v : Visit) : (s.visit i l v).2.bad = s.bad := by
  have hrecall : (s.recall l v).2.bad = s.bad := by
    unfold State.recall
    split
    · rfl
    · split <;> rfl
  have hplace : ∀ (u : State) (l : Line) (c : Nat), (u.placeAtomic i l c v).2.bad = u.bad := fun u l c => by
    unfold State.placeAtomic
    dsimp only
    split
    · rfl
    · split
      · rfl
      · split <;> rfl
  unfold State.visit
  generalize s.recall l v = p at hrecall ⊢
  obtain ⟨l1, s1⟩ := p
  have hinvalidate : (if v.writes then s1.invalidate l1 (if v.lsu then v.core else none) else (l1, s1)).2.bad = s.bad := by
    split <;> exact hrecall
  dsimp only
  generalize (if v.writes then s1.invalidate l1 (if v.lsu then v.core else none) else (l1, s1)) = q at hinvalidate ⊢
  split
  · exact (hplace ..).trans hinvalidate
  · exact hinvalidate

theorem State.bad_takeCopies (s : State) (l : Line) (c : List DLine) : (s.takeCopies l c).bad = s.bad := by
  unfold State.takeCopies
  refine foldl_same (g := State.bad) (fun t d => ?_) _ _
  split
  · unfold State.intoL1
    split
    · rfl
    · dsimp only
      split
      · rfl
      · split <;> rfl
  · rfl

theorem NoneWorse.tookWay (s : State) (i p l : Nat) : NoneWorse s ((s.takeWay i p l).getD s) := by
  unfold State.takeWay
  split
  · exact .of_bad rfl
  · exact NoneWorse.forgetSoft s _

/-- An access that its slice accepts marks nothing bad. -/
theorem NoneWorse.reach {v : Visit} {w : Option (Nat × Nat)} {b : Bool} (h : s.reach v w = some (b, t)) : NoneWorse s t := by
  unfold State.reach at h
  dsimp only at h
  split at h
  · cases h
    exact .of_bad ((State.bad_takeCopies ..).trans (State.bad_visit ..))
  · cases h
    exact .of_bad (State.bad_visit s (sliceId v.key) _ v)
  · split at h
    · cases h
    · cases h
      have hv := State.bad_visit s (sliceId v.key) { line := lineOf v.key, part := v.part } v
      generalize s.visit (sliceId v.key) { line := lineOf v.key, part := v.part } v = p at hv ⊢
      exact NoneWorse.trans (.of_bad hv) (NoneWorse.trans (.updSlice _ _ _) (NoneWorse.trans (.tookWay _ _ _ _) (.push _ _)))

/-- A slice with room in its miss table accepts an access, R196. -/
theorem State.reach_accepts (v : Visit) (w : Option (Nat × Nat)) (h : (s.slice (sliceId v.key)).misses.length < 64) :
    ∃ b t, s.reach v w = some (b, t) := by
  unfold State.reach
  dsimp only
  split
  · exact ⟨_, _, rfl⟩
  · exact ⟨_, _, rfl⟩
  · rw [if_neg (Nat.not_le.2 h)]
    exact ⟨_, _, rfl⟩

end

/-! ## Keys of HBM, R201 -/

theorem bits_lt (x hi lo : Nat) : bits x hi lo < 2 ^ (hi + 1 - lo) := Nat.mod_lt _ (Nat.two_pow_pos _)

/-- The bytes at a place under a translation lie in HBM. -/
theorem TlbEntry.pa_notView (e : TlbEntry) (x : Nat) {i : Nat} (hi : i < 16) : keyIsView (e.pa x + i) = false := by
  have hadr : pteAdr e.pte < 2 ^ 48 := by
    have := bits_lt e.pte 47 8
    unfold pteAdr
    omega
  have hoff : bits x 56 0 % 2 ^ e.lg < 2 ^ 57 := Nat.lt_of_le_of_lt (Nat.mod_le _ _) (bits_lt x 56 0)
  have hlocal : keyIsLocal (e.pa x + i) = false := by
    refine decide_eq_false ?_
    unfold TlbEntry.pa
    generalize bits x 56 0 % 2 ^ e.lg = o at hoff ⊢
    omega
  rw [keyIsView, hlocal, Bool.false_and]

/-- A place that is not local was found by a translation. -/
theorem State.checkAccess_hbm {s t : State} {a : Access} {tag : Bool} {c : Cap} {r : Req} {p : Place}
    (h : s.checkAccess a tag c r = (.ok p, t)) (hl : p.isLocal = false) : ∃ e : TlbEntry, p.key = e.pa r.x := by
  have hplace : ∀ q u, s.placeOf a r = (.ok q, u) → q.isLocal = false → ∃ e : TlbEntry, q.key = e.pa r.x := by
    intro q u hq hloc
    unfold State.placeOf at hq
    dsimp only at hq
    split at hq
    · cases hq
    · split at hq
      · split at hq <;> cases hq
        cases hloc
      · split at hq
        · cases hq
        · split at hq
          · cases hq
          · next e _ _ =>
            obtain ⟨hp, -⟩ := Prod.mk.inj hq
            unfold State.placeUnder at hp
            split at hp <;> cases hp
            exact ⟨e, rfl⟩
  unfold State.checkAccess at h
  cases hc : capCheck tag c r.perms r.x r.n with
  | some code => rw [hc] at h; cases h
  | none =>
    rw [hc] at h
    generalize s.placeOf a r = y at h hplace
    obtain ⟨_ | q, u⟩ := y
    · cases h
    · dsimp only at h
      split at h <;> cases h
      exact hplace _ _ rfl hl

/-! ## Memory behind a store -/

theorem State.mem_putByte_congr {s t : State} (h : s.mem = t.mem) (k : Nat) (b : Byte) : (s.putByte k b).mem = (t.putByte k b).mem := by
  unfold State.putByte
  split
  · rw [State.setViewByte_mem, State.setViewByte_mem, h]
  · exact congrArg (fun m => Sp.put 0 m k b) h

theorem State.mem_putBytes_congr {s t : State} (h : s.mem = t.mem) (k n mask d : Nat) :
    (s.putBytes k n mask d).mem = (t.putBytes k n mask d).mem := by
  unfold State.putBytes
  generalize List.range n = l
  induction l generalizing s t with
  | nil => exact h
  | cons i l ih =>
    refine ih ?_
    dsimp only
    split
    · exact State.mem_putByte_congr h _ _
    · exact h

/-- The same write to the same memory leaves the same memory. -/
theorem State.mem_writeMem_congr {s t : State} (h : s.mem = t.mem) (k n mask d : Nat) :
    (s.writeMem k n mask d).mem = (t.writeMem k n mask d).mem := by
  have htags : ∀ (u : State) (P : Nat → Bool) (l : List Nat),
      (l.foldl (fun t i => if P i then t.setTag ((k / 16 + i) * 16) false else t) u).mem = u.mem := fun u P l =>
    foldl_same (g := State.mem) (fun t i => by split <;> rfl) l u
  unfold State.writeMem
  split
  · exact h
  · split
    · rw [State.writeControl_mem, State.writeControl_mem, h]
    · refine (htags _ _ _).trans ((State.mem_putBytes_congr ?_ k n mask d).trans (htags _ _ _).symm)
      simp only [State.heal_mem, State.raiseMark_mem, State.keepStale_mem, h]

/-! ## Guest queues behind a store -/

/-- Every guest queue as it was. -/
def QueuesKept (s t : State) : Prop := ∀ c, (t.core c).big.guests = (s.core c).big.guests

namespace QueuesKept
variable {s t u : State}

theorem refl (s : State) : QueuesKept s s := fun _ => rfl

theorem trans (h : QueuesKept s t) (h' : QueuesKept t u) : QueuesKept s u := fun c => (h' c).trans (h c)

theorem of_cores (h : t.cores = s.cores) : QueuesKept s t := fun c => congrArg (fun k : Core => k.big.guests) (State.core_congr h c)

theorem of_same (h : SameCores s t) : QueuesKept s t := fun c => by
  have := congrArg (fun k : Core => k.big.guests) (h.rest c)
  exact this

theorem foldl {β : Type} {f : State → β → State} (hf : ∀ t b, QueuesKept t (f t b)) (l : List β) (s : State) : QueuesKept s (l.foldl f s) :=
  foldl_keeps (P := QueuesKept s) (fun t b h => h.trans (hf t b)) l s (refl s)

theorem updCore (s : State) (c : Nat) {f : Core → Core} (hf : ∀ k, (f k).big.guests = k.big.guests) : QueuesKept s (s.updCore c f) := by
  intro d
  by_cases h : c = d
  · subst h
    rw [State.core_updCore_self, hf]
  · rw [State.core_updCore_ne s h]

theorem updBig (s : State) (c : Nat) {f : Big → Big} (hf : ∀ b, (f b).guests = b.guests) : QueuesKept s (s.updBig c f) :=
  updCore s c fun k => hf k.big

theorem push (h : QueuesKept s t) (i : Instr) : QueuesKept s (t.push i) := h

/-- No control register is a guest queue, R379. -/
theorem setControl (s : State) (r : CtlReg) (x : Nat) : QueuesKept s (s.setControl r x) := by
  cases r with
  | ghome => exact of_cores rfl
  | quota =>
    refine foldl (fun t p => of_cores ?_) _ _
    unfold State.setQuota
    simp only [apply_ite State.cores, ite_self]
  | power => exact refl s
  | lpct c =>
    refine of_cores ?_
    unfold State.setControl State.settle
    dsimp only
    split <;> rfl
  | telem => exact refl s
  | world b =>
    refine of_cores ?_
    unfold State.setControl State.setWorld
    dsimp only
    split
    · rfl
    · cases b <;> rfl
  | owner c unit => exact updBig s c fun _ => rfl
  | bctl c =>
    have hpair : QueuesKept s (s.setPair c x) := by
      unfold State.setPair
      split
      · exact updBig s c fun _ => rfl
      · exact refl s
    unfold State.setControl State.setCheckMode
    dsimp only
    split
    · split
      · exact hpair.trans (updBig _ c fun _ => rfl)
      · exact hpair
    · exact refl s
  | hostctx c =>
    unfold State.setControl State.setHost
    dsimp only
    split
    · refine push ?_ _
      exact updBig s c fun _ => rfl
    · exact updBig s c fun _ => rfl
  | fwall c =>
    unfold State.setControl State.setFwall
    dsimp only
    split
    · refine updCore s c fun k => ?_
      split <;> rfl
    · exact refl s
  | region n high =>
    refine of_cores ?_
    unfold State.setControl State.setRegion
    dsimp only
    split <;> rfl

theorem writeControl (s : State) (k n m d : Nat) : QueuesKept s (s.writeControl k n m d) := by
  refine foldl (fun t i => ?_) _ s
  dsimp only
  split
  · exact refl t
  · unfold State.setControlWord
    split
    · exact setControl _ _ _
    · exact refl t

theorem putBytes (s : State) (k n m d : Nat) : QueuesKept s (s.putBytes k n m d) := by
  refine foldl (fun t i => ?_) _ s
  split
  · unfold State.putByte
    split
    · exact updCore t _ fun _ => rfl
    · exact of_cores rfl
  · exact refl t

/-- A write to storage leaves the guest queues. -/
theorem writeMem (s : State) (k n m d : Nat) : QueuesKept s (s.writeMem k n m d) := by
  have hstale : QueuesKept s (s.keepStale k n) := of_cores (by unfold State.keepStale; split <;> rfl)
  have hheal : ∀ u : State, QueuesKept u (u.heal k n m) := fun u =>
    of_cores (foldl_same (g := State.cores) (fun t i => by simp only [apply_ite State.cores, ite_self]) _ u)
  unfold State.writeMem
  split
  · exact refl s
  · split
    · exact writeControl _ _ _ _ _
    · refine hstale.trans ((of_same (.raiseMark _ k n)).trans ((hheal _).trans ((putBytes _ k n m d).trans (foldl (fun t i => ?_) _ _))))
      dsimp only
      split <;> exact of_cores rfl

end QueuesKept

end Sys2Proof.Machine
end

section
/-!
A CAS128 guest in its turn, R170, R237: it stands aside for its page's walk, faults, or performs its one access.
-/

namespace Sys2Proof.Machine

/-! ## The one access, R237 -/

/-- The element of a CAS128 guest at its place. -/
def Guest.casElem (g : Guest) (p : Place) : Elem :=
  p.elem g.casReq 0 (.rmw (xatomOp 4 g.b.v g.d.v g.b.tag g.d.tag (g.a.cap.has .cst))) (g.a.cap.has .cld)

/-- The access of a CAS128 guest to its home slice. -/
def Guest.casVisit (g : Guest) (p : Place) : Visit :=
  { key := p.key, part := g.part, core := some g.home, asid := g.ctx, va := g.a.cap.addr.toNat, placed := (g.casElem p).placed,
    writes := true, lsu := true }

/-- The storage to which a CAS128 guest gets, where it accepts the access. -/
def State.casReach (w : State) (g : Guest) (p : Place) : Option State :=
  if p.isLocal then w.accessBank p.key else (w.reach (g.casVisit p) none).map (·.2)

section
variable {s t u v w : State} {k : Nat} {g : Guest} {p : Place}

/-- A read-modify-write of good data: what it read, and its new value where it has one. -/
theorem State.performElem_rmw (v : State) {e : Elem} {r : Rmw} (hact : e.act = .rmw r) (hb : v.badAt e.key e.n = false) :
    v.performElem e none = (v.fetchElem e none, (r.apply (v.readMem e.key e.n) (v.tagAt e.key)).elim v (fun x =>
      if r.newTag then (v.store e.key e.n x).setTag e.key true else v.store e.key e.n x)) := by
  have hgood : ¬ (v.fetchElem e none).bad = true := Bool.eq_false_iff.1 hb
  have hval : (v.fetchElem e none).val = v.readMem e.key e.n := rfl
  unfold State.performElem
  rw [hact]
  dsimp only
  rw [if_neg hgood, hval]
  cases r.apply (v.readMem e.key e.n) (v.tagAt e.key) <;> rfl

/-- The state behind the one access of a CAS128. -/
def State.casStored (v : State) (g : Guest) (p : Place) : State :=
  if v.readMem p.key 16 = elem g.b.v 128 0 ∧ v.tagAt p.key = g.b.tag then
    if g.d.tag && g.a.cap.has .cst then (v.store p.key 16 (elem g.d.v 128 0)).setTag p.key true else v.store p.key 16 (elem g.d.v 128 0)
  else v

theorem State.performElem_cas (v : State) (g : Guest) (p : Place) (hb : v.badAt p.key 16 = false) :
    v.performElem (g.casElem p) none = (v.fetchElem (g.casElem p) none, v.casStored g p) := by
  rw [v.performElem_rmw (e := g.casElem p) rfl hb]
  refine congrArg (Prod.mk _) ?_
  show Option.elim (if v.readMem p.key 16 = elem g.b.v 128 0 ∧ v.tagAt p.key = g.b.tag then some (elem g.d.v 128 0) else none) v _ = _
  unfold State.casStored
  split <;> rfl

/-- A CAS128's result, R171, R237. -/
def Guest.casAnswer (g : Guest) (v : State) (p : Place) : Guest :=
  { g with res := BitVec.ofNat 1024 (v.readMem p.key 16), resTag := v.tagAt p.key && (g.a.cap.has .cld && p.tags) }

theorem Guest.fault_casAnswer (g : Guest) (v : State) (p : Place) : (g.casAnswer v p).fault = g.fault := by
  unfold Guest.casAnswer
  rfl

/-- What a CAS128 guest answers with the element that it performed. -/
def Guest.casResult (g : Guest) (f : Elem) : Guest :=
  if f.bad then { g with fault := some (causeData, g.a.cap.addr.toNat, 0) }
  else { g with res := BitVec.ofNat 1024 f.val, resTag := f.valTag }

theorem Guest.casResult_good (g : Guest) {v : State} {p : Place} (hb : v.badAt p.key 16 = false) :
    g.casResult (v.fetchElem (g.casElem p) none) = g.casAnswer v p := by
  have hgood : (v.fetchElem (g.casElem p) none).bad = false := hb
  exact if_neg (Bool.eq_false_iff.1 hgood)

/-- A CAS128 that gets to its storage answers. -/
theorem State.runCas_reaches (hc : t.checkAccess (g.access k) g.a.tag g.a.cap g.casReq = (.ok p, w))
    (hg : w.guardedFrom g.task.core (some g.task) p.key 16 true true = false) (hr : w.casReach g p = some v) :
    t.runCas k g = some ((v.performElem (g.casElem p) none).2.answerGuest k (g.casResult (v.performElem (g.casElem p) none).1)) := by
  unfold State.runCas
  dsimp only
  rw [hc]
  refine (if_neg (Bool.eq_false_iff.1 hg)).trans ((congrArg (Option.map _) hr).trans (congrArg some ?_))
  dsimp only
  unfold Guest.casResult
  exact (apply_ite _ _ _ _).symm

/-- A CAS128 performed. -/
theorem State.runCas_performs (hc : t.checkAccess (g.access k) g.a.tag g.a.cap g.casReq = (.ok p, w))
    (hg : w.guardedFrom g.task.core (some g.task) p.key 16 true true = false) (hr : w.casReach g p = some v) (hb : v.badAt p.key 16 = false) :
    t.runCas k g = some ((v.casStored g p).answerGuest k (g.casAnswer v p)) := by
  rw [State.runCas_reaches hc hg hr, v.performElem_cas g p hb, g.casResult_good hb]

theorem State.runCas_waits (hc : t.checkAccess (g.access k) g.a.tag g.a.cap g.casReq = (.error notYet, w)) :
    t.runCas k g = some (t.setAside k g g.a.cap.addr.toNat) := by
  unfold State.runCas
  dsimp only
  rw [hc]
  exact congrArg some (if_pos rfl)

theorem State.runCas_faults {code : Nat} (hc : t.checkAccess (g.access k) g.a.tag g.a.cap g.casReq = (.error code, w)) (hn : code ≠ notYet) :
    t.runCas k g = some (w.answerGuest k { g with fault := some (code, g.a.cap.addr.toNat, 0) }) := by
  unfold State.runCas
  dsimp only
  rw [hc]
  exact congrArg some (if_neg hn)

/-! ## Storage behind the access -/

theorem State.mem_casStored (v : State) (g : Guest) (p : Place) : (v.casStored g p).mem =
    if v.readMem p.key 16 = elem g.b.v 128 0 ∧ v.tagAt p.key = g.b.tag then (v.store p.key 16 (elem g.d.v 128 0)).mem else v.mem := by
  unfold State.casStored
  split
  · split <;> rfl
  · rfl

theorem QueuesKept.casStored (v : State) (g : Guest) (p : Place) : QueuesKept v (v.casStored g p) := by
  unfold State.casStored
  split
  · split
    · exact QueuesKept.trans (QueuesKept.writeMem v p.key 16 _ _) (.of_cores rfl)
    · exact QueuesKept.writeMem v p.key 16 _ _
  · exact .refl v

/-- What a CAS128 finds once it has its storage, R191, R366: what stood there before its turn. -/
structure CasFinds (s v : State) (p : Place) : Prop where
  mem : v.mem = s.mem
  value : v.readMem p.key 16 = s.readMem p.key 16
  tag : v.tagAt p.key = s.tagAt p.key
  good : s.badAt p.key 16 = false → v.badAt p.key 16 = false
  queues : QueuesKept s v

theorem CasFinds.of_shows (h : Shows s v) (hq : QueuesKept s v) : CasFinds s v p :=
  ⟨h.mem, h.readMem _ _, h.tagAt _, fun hb => (h.bad _ _).trans hb, hq⟩

/-- An access to a home slice finds what HBM held. -/
theorem CasFinds.of_reach {b : Bool} {a : Visit} (hp : ∀ i, i < 16 → keyIsView (p.key + i) = false) (h : s.reach a none = some (b, v)) :
    CasFinds s v p where
  mem := (Visited.reach h).mem
  value := State.readMem_congr (Visited.reach h).mem hp
  tag := by
    have htags := congrArg State.tags (Visited.reach h).past
    exact congrArg (fun l : Sp Bool => l.at (p.key / 16) false) htags
  good hb := by
    have hworse := NoneWorse.reach h
    unfold State.badAt at hb ⊢
    obtain ⟨-, hmarks⟩ := Bool.or_eq_false_iff.1 hb
    have hview : v.badView p.key = false := by
      have h5 := keyIsView_five (hp 0 (by decide))
      unfold State.badView
      rw [Nat.add_zero] at h5
      simp only [h5, Bool.false_and]
    rw [hview, Bool.false_or, List.any_eq_false]
    intro i hi
    exact Bool.eq_false_iff.1 (hworse _ (Bool.eq_false_iff.2 (List.any_eq_false.1 hmarks i hi)))
  queues c := by
    have hcore := congrArg (fun b : Core => b.big.guests) ((Visited.reach h).cores c)
    exact hcore

theorem CasFinds.of_casReach (hc : t.checkAccess (g.access k) g.a.tag g.a.cap g.casReq = (.ok p, w)) (hr : w.casReach g p = some v) :
    CasFinds w v p := by
  unfold State.casReach at hr
  split at hr
  · refine .of_shows (.accessBank hr) ?_
    obtain ⟨b, rfl⟩ := State.accessBank_ex hr
    exact .of_cores rfl
  · next hl =>
    obtain ⟨⟨b, v'⟩, hreach, rfl⟩ := Option.map_eq_some_iff.1 hr
    obtain ⟨e, he⟩ := State.checkAccess_hbm hc (Bool.eq_false_iff.2 hl)
    exact .of_reach (fun j hj => by rw [he]; exact e.pa_notView _ hj) hreach

theorem State.accessBank_isSome_congr (h : t.banks = s.banks) (x : Nat) : (t.accessBank x).isSome = (s.accessBank x).isSome := by
  unfold State.accessBank
  rw [h]
  split
  · rfl
  · dsimp only
    split <;> rfl

theorem State.guardedFrom_congr (hg : t.guards = s.guards) (hl : t.lpct = s.lpct) (ho : t.ops = s.ops) (c : Nat) (x : Option TaskRef)
    (key n : Nat) (rd wr : Bool) : t.guardedFrom c x key n rd wr = s.guardedFrom c x key n rd wr := by
  simp only [State.guardedFrom, State.inScope, State.phys, State.guardLive, hg, hl, ho]

/-- A CAS128 guest gets to its storage where a bank or a slice accepts it, R191, R366. -/
theorem State.casReach_accepts (h : if p.isLocal then (w.accessBank p.key).isSome = true else (w.slice (sliceId p.key)).misses.length < 64) :
    ∃ v, w.casReach g p = some v := by
  unfold State.casReach
  split at h
  · next hl =>
    rw [if_pos hl]
    exact Option.isSome_iff_exists.1 h
  · next hl =>
    obtain ⟨b, v, hv⟩ := State.reach_accepts (g.casVisit p) none h
    rw [if_neg hl, hv]
    exact ⟨v, rfl⟩

/-- The storage behind a CAS128 shows its new value where it swaps, and else what it showed before. -/
theorem State.byte_casStored (hm : v.mem = s.mem) (hval : v.readMem p.key 16 = s.readMem p.key 16) (htag : v.tagAt p.key = s.tagAt p.key)
    {b : Nat} (hb : keyIsView b = false) : (v.casStored g p).byte b =
      (if s.readMem p.key 16 = elem g.b.v 128 0 ∧ s.tagAt p.key = g.b.tag then s.store p.key 16 (elem g.d.v 128 0) else s).byte b := by
  refine State.byte_congr ?_ hb
  rw [v.mem_casStored, hval, htag, hm]
  split
  · exact State.mem_writeMem_congr hm ..
  · rfl

end

theorem State.core_answerGuest (t : State) (k : Nat) (h : Guest) (c : Nat) : (t.answerGuest k h).core c = t.core c := rfl

theorem State.byte_answerGuest (t : State) (k : Nat) (h : Guest) {b : Nat} (hb : keyIsView b = false) :
    (t.answerGuest k h).byte b = t.byte b := State.byte_congr rfl hb

theorem State.look_answerGuest (t : State) (k : Nat) (h : Guest) : (t.answerGuest k h).guests.look k = some { h with place := 4 } :=
  Sp.look_set_self ..

theorem State.due_answerGuest (t : State) (k : Nat) (h : Guest) : Instr.guestResult k ∈ (t.answerGuest k h).due :=
  List.mem_append_right _ List.mem_cons_self

/-! ## A CAS128 guest's turn -/

section
variable {s t w : State} {k c : Nat} {g : Guest} {r : List Nat} {i : Instr}

theorem guestIssue_cas {u : State} (hg : s.guests.look k = some g) (hq : (s.core c).big.guests = k :: r) (hd : decode g.word = .ok i)
    (hi : isCas i = true) (ha : ((s.guestTurn c r).asideFor k g g.casWalk).1 = none)
    (hrun : ((s.guestTurn c r).asideFor k g g.casWalk).2.runCas k g = some u) : exec (.guestIssue c) s = .next u := by
  have hwalks : (s.guestTurn c r).guestWalks k g i = g.casWalk := if_pos hi
  have haside : (s.guestTurn c r).asideFor k g ((s.guestTurn c r).guestWalks k g i) =
      (none, ((s.guestTurn c r).asideFor k g g.casWalk).2) := by
    rw [hwalks]
    exact Prod.ext ha rfl
  rw [guestIssue_runs hg hq hd haside, State.runGuest, if_pos hi, hrun]
  rfl

theorem guestIssue_cas_waits (hg : s.guests.look k = some g) (hq : (s.core c).big.guests = k :: r) (hd : decode g.word = .ok i)
    (hi : isCas i = true) (ha : ((s.guestTurn c r).asideFor k g g.casWalk).1 = none)
    (hc : ((s.guestTurn c r).asideFor k g g.casWalk).2.checkAccess (g.access k) g.a.tag g.a.cap g.casReq = (.error notYet, w)) :
    ∃ u h, exec (.guestIssue c) s = .next u ∧ u.guests.look k = some h ∧ h.place = 2 ∧ ∃ n y, u.walks.look n = some y ∧ k ∈ y.guests := by
  obtain ⟨h, hstands⟩ := State.setAside_stands ((s.guestTurn c r).asideFor k g g.casWalk).2 k g g.a.cap.addr.toNat
  exact ⟨_, h, guestIssue_cas hg hq hd hi ha (State.runCas_waits hc), hstands⟩

theorem guestIssue_cas_faults {code : Nat} (hg : s.guests.look k = some g) (hq : (s.core c).big.guests = k :: r)
    (hd : decode g.word = .ok i) (hi : isCas i = true) (ha : ((s.guestTurn c r).asideFor k g g.casWalk).1 = none)
    (hc : ((s.guestTurn c r).asideFor k g g.casWalk).2.checkAccess (g.access k) g.a.tag g.a.cap g.casReq = (.error code, w))
    (hn : code ≠ notYet) : ∃ u h, exec (.guestIssue c) s = .next u ∧ u.guests.look k = some h ∧ h.place = 4 ∧
      h.fault = some (code, g.a.cap.addr.toNat, 0) ∧ Instr.guestResult k ∈ u.due :=
  ⟨_, _, guestIssue_cas hg hq hd hi ha (State.runCas_faults hc hn), State.look_answerGuest .., rfl, rfl, State.due_answerGuest ..⟩

theorem guestIssue_cas_performs {p : Place} (hg : s.guests.look k = some g) (hq : (s.core c).big.guests = k :: r)
    (hd : decode g.word = .ok i) (hi : isCas i = true) (ha : ((s.guestTurn c r).asideFor k g g.casWalk).1 = none)
    (hc : ((s.guestTurn c r).asideFor k g g.casWalk).2.checkAccess (g.access k) g.a.tag g.a.cap g.casReq = (.ok p, w))
    (hguard : s.guardedFrom g.task.core (some g.task) p.key 16 true true = false) (hbad : s.badAt p.key 16 = false)
    (hfree : if p.isLocal then (s.accessBank p.key).isSome = true else (s.slice (sliceId p.key)).misses.length < 64) :
    ∃ u h, exec (.guestIssue c) s = .next u ∧ u.guests.look k = some h ∧ h.place = 4 ∧ h.fault = g.fault ∧ Instr.guestResult k ∈ u.due ∧
      (u.core c).big.guests = r ∧ h.res = BitVec.ofNat 1024 (s.readMem p.key 16) ∧
      h.resTag = (s.tagAt p.key && (g.a.cap.has .cld && p.tags)) ∧ ∀ b, keyIsView b = false → u.byte b =
        (if s.readMem p.key 16 = elem g.b.v 128 0 ∧ s.tagAt p.key = g.b.tag then s.store p.key 16 (elem g.d.v 128 0) else s).byte b := by
  have htrans : Translated (s.guestTurn c r) w := (Translated.asideFor k g g.casWalk _).trans (.checkAccess hc)
  have hshows : Shows s w := (Shows.guestTurn s c r).trans (.translated htrans)
  have hguard' : w.guardedFrom g.task.core (some g.task) p.key 16 true true = false := by
    rw [State.guardedFrom_congr (s := s) (by rw [htrans.out]; rfl) (by rw [htrans.out]; rfl) (by rw [htrans.out]; rfl), hguard]
  have hbanks : w.banks = s.banks := by rw [htrans.out]; rfl
  have hslice : w.slice (sliceId p.key) = s.slice (sliceId p.key) := by rw [htrans.out]; rfl
  obtain ⟨v, hv⟩ := State.casReach_accepts (w := w) (g := g) (p := p) (by rw [State.accessBank_isSome_congr hbanks, hslice]; exact hfree)
  have hfinds := CasFinds.of_casReach hc hv
  have hvalue := hfinds.value.trans (hshows.readMem p.key 16)
  have htag := hfinds.tag.trans (hshows.tagAt p.key)
  have hmem : v.mem = s.mem := hfinds.mem.trans hshows.mem
  have hqueue : (w.core c).big.guests = r := by
    have hw : (w.core c).big.guests = ((s.guestTurn c r).core c).big.guests := QueuesKept.of_same htrans.same c
    rw [hw, State.guestTurn, State.core_updCore_self]
  refine ⟨_, _, guestIssue_cas hg hq hd hi ha (State.runCas_performs hc hguard' hv (hfinds.good ((hshows.bad _ _).trans hbad))),
    State.look_answerGuest .., rfl, ?_, State.due_answerGuest .., ?_, ?_, ?_, fun b hb => ?_⟩
  · dsimp only
    rw [Guest.fault_casAnswer]
  · rw [State.core_answerGuest, QueuesKept.casStored v g p c, hfinds.queues c, hqueue]
  · exact congrArg (BitVec.ofNat 1024) hvalue
  · exact congrArg (· && (g.a.cap.has .cld && p.tags)) htag
  · rw [State.byte_answerGuest _ _ _ hb]
    exact State.byte_casStored hmem hvalue htag hb

end

end Sys2Proof.Machine
end

section
/-!
Guests: the obligation on their events.
-/

namespace Sys2Proof.Machine

/-! ## What a result writes in its sender's registers, R171 -/

section
variable {g : Guest} {i : Instr} {x : Arch}

theorem Guest.commit_value (g : Guest) (q : BitVec 4) (d a b o : BitVec 6) (t part src : BitVec 3) (x : Arch)
    (hi : i ∈ [Instr.fadd q d a b t, .fsub q d a b t, .fmul q d a b t, .fma q d a b t, .fnma q d a b t, .fmin q d a b t, .fmax q d a b t,
      .fminp q d a b t, .fscale q d a b t, .fdiv q d a b t, .fsqrt q d a t, .ftrans q d a o t, .funop q d a o t, .fcvt q d a part t src,
      .i2f q d a part src t, .f2i q d a part t src, .fred q d a o t, .fscan q d a t]) :
    g.commit i x = x.setReg d.toNat { v := g.res, tag := false } := by
  simp only [List.mem_cons, List.not_mem_nil, or_false] at hi
  rcases hi with rfl | rfl | rfl | rfl | rfl | rfl | rfl | rfl | rfl | rfl | rfl | rfl | rfl | rfl | rfl | rfl | rfl | rfl <;> rfl

/-- A matrix command that returns no row writes no register, R315. -/
theorem Guest.commit_rowless (g : Guest) (q : BitVec 4) (n : BitVec 5) (a b : BitVec 6) (x : Arch)
    (hi : i ∈ [Instr.mtxMma q n a b, .mtxMmaz q n a b, .mtxAccld q n a, .mtxAccst q n a, .mtxCodeb q n, .mtxAccq q n a, .mtxAccfree q n]) :
    g.commit i x = x := by
  simp only [List.mem_cons, List.not_mem_nil, or_false] at hi
  rcases hi with rfl | rfl | rfl | rfl | rfl | rfl | rfl <;> rfl

theorem Guest.commit_accmv (g : Guest) (q : BitVec 4) (n : BitVec 5) (d b : BitVec 6) (x : Arch) :
    g.commit (.mtxAccmv q n d b) x =
      if (scalarOf g.b.v).testBit 8 then x else x.setReg d.toNat { v := g.res, tag := false } := by
  show (if bit (scalarOf g.b.v) 8 then x else x.setVec d.toNat g.res) = _
  rw [bit_eq_testBit]
  rfl

end

/-! ## The result at the sender -/

section
variable {s : State} {k : Nat} {g : Guest} {i : Instr} {sh : Ship} {x : Slot}

/-- What of a result's slot its registers show: the flags that it brings stand apart. -/
theorem guestLands_registers (hx : s.slot g.task.core g.task.slot = x) (hs : x.ship = some sh) (hn : x.dataError = none) :
    (∀ r, (((s.guestLands k g i).closeWindow g.task).slot g.task.core g.task.slot).arch.reg r = (g.commit i x.arch).reg r) ∧
      ∀ p, (((s.guestLands k g i).closeWindow g.task).slot g.task.core g.task.slot).arch.pred p = (g.commit i x.arch).pred p := by
  rw [slot_guestLands_closed hx hs hn]
  exact ⟨fun _ => rfl, fun _ => rfl⟩

theorem guestLands_sr (hx : s.slot g.task.core g.task.slot = x) (hs : x.ship = some sh) (hn : x.dataError = none) :
    (((s.guestLands k g i).closeWindow g.task).slot g.task.core g.task.slot).arch.sr =
      x.arch.sr ||| (sh.raised ||| g.brings i).setWidth 64 <<< 3 := by
  rw [slot_guestLands_closed hx hs hn]
  exact (sr_raise_raise _ _ _).trans (by rw [g.commit_sr])

end

/-- A guest's compare in predicates, R17, R97, R171. -/
theorem Guest.commit_fcmp (g : Guest) (q : BitVec 4) (cc p e : BitVec 3) (a b : BitVec 6) (t : BitVec 3) (x : Arch) :
    (∀ r, (g.commit (.fcmp q cc p e a b t) x).reg r = x.reg r) ∧
    (∀ r, r ≠ p.toNat → r ≠ e.toNat → (g.commit (.fcmp q cc p e a b t) x).pred r = x.pred r) ∧
    ∀ j, j < 64 →
      (p ≠ 7 → p ≠ e → ((g.commit (.fcmp q cc p e a b t) x).pred p.toNat).getLsbD j =
        comparedBit (modeOf g.pfxC) (Fmt.ofCode t.toNat).w g.guard (x.pred p.toNat) (fun l => g.res.getLsbD l) j) ∧
      (e ≠ 7 → ((g.commit (.fcmp q cc p e a b t) x).pred e.toNat).getLsbD j =
        comparedBit (modeOf g.pfxC) (Fmt.ofCode t.toNat).w g.guard (x.pred e.toNat) (fun l => !g.res.getLsbD l) j) := by
  have hw : isWidth (Fmt.ofCode t.toNat).w := fmt_width_isWidth t
  have hcommit : g.commit (.fcmp q cc p e a b t) x =
      commitCompare p e (modeOf g.pfxC) (Fmt.ofCode t.toNat).w g.guard (fun j => g.res.getLsbD j) x := by
    show commitCompare p e (modeOf g.pfxC) (floatWidth t) g.guard (fun j => bit g.res.toNat j) x = _
    simp only [bit_toNat, floatWidth_eq]
  have honly := writesOnly_commitCompare p e (modeOf g.pfxC) (Fmt.ofCode t.toNat).w g.guard (fun j => g.res.getLsbD j)
  rw [hcommit]
  refine ⟨fun r => honly.regs x r List.not_mem_nil, fun r hp he => honly.preds x r (by simp [hp, he]), fun j hj => ⟨fun hp hpe => ?_, fun he => ?_⟩⟩
  · exact commitCompare_first hw hp hpe hj
  · exact commitCompare_second hw he hj

/-- Settles O42, event by event: the arrival, the turn of each form at the head of the queue (a value, a CAS128, a matrix command), the
return from a walk, the result that commits or faults, and the done notice. -/
theorem guestEvents : Obligations.GuestEvents := by
  unfold Obligations.GuestEvents
  intro s k c g hg x first mine issue rm leaves setAside
  refine ⟨fun hp hf he => guestPacketArrival_enters hg hp hf he, fun hp he => guestPacketArrival_waits hg hp he, ?values, ?matrix,
    fun hp => guestWalkDone_returns hg hp, ?commits, ?faults, fun hp ha => doneNotice_lands hg hp ha rfl, fun hp => doneNotice_waits hg hp⟩
  case values =>
    intro r hq q d a b o t part src cc p e f x y z v runs gives
    have hw : f.w ∣ 1024 := fmt_width_dvd t
    have hruns : ∀ {i : Instr} {f' : Nat → FRes}, guestValue i g = collect f.w g.guard g.d.v f' → isCas i = false → isMtx i = false →
        runs i f' := fun hv hc hm hd => guestIssue_collects hg hq hw hv hc hm hd
    have hgives : ∀ {i : Instr}, isCas i = false → isMtx i = false → gives i (guestValue i g) :=
      fun hc hm hd => guestIssue_value hg hq hc hm hd
    refine ⟨hruns rfl rfl rfl, hruns rfl rfl rfl, hruns rfl rfl rfl, hruns rfl rfl rfl, hruns rfl rfl rfl, hruns rfl rfl rfl,
      hruns rfl rfl rfl, hruns rfl rfl rfl, hruns rfl rfl rfl, hruns rfl rfl rfl, hruns rfl rfl rfl, hruns rfl rfl rfl,
      hruns rfl rfl rfl, hgives rfl rfl, hgives rfl rfl, hgives rfl rfl, hgives rfl rfl, hgives rfl rfl, fun hd => ?_, fun hd => ?_⟩
    · obtain ⟨u, h, hu, hl, hres, hflags⟩ := guestIssue_value hg hq rfl rfl hd
      refine ⟨u, h, hu, hl, hflags.trans (valFcmp_flags ..), fun j hj he => ?_⟩
      rw [hres]
      exact guestValue_fcmp_bit g q cc p e a b t hj he
    · intro at_ req s0 aside checked
      exact ⟨fun ha => guestIssue_standsAside hg hq hd ha, fun w ha hc => guestIssue_cas_waits hg hq hd rfl ha hc,
        fun pl w ha hc hguard hbad hfree => guestIssue_cas_performs hg hq hd rfl ha hc hguard hbad hfree,
        fun code w ha hc hn => guestIssue_cas_faults hg hq hd rfl ha hc hn⟩
  case matrix =>
    intro r i hq hd hm s0 cmd enters
    refine ⟨fun ha => guestIssue_standsAside hg hq hd ?_, fun hdef => guestIssue_mtx_deferred hg hq hd hm hdef,
      fun hdef hform ho hb => guestIssue_mtx_checked hg hq hd hm hdef hform ho hb, fun f hdef hform => guestIssue_mtx_faults hg hq hd hm hdef hform⟩
    rw [State.guestWalks_mtx _ k g hm]
    exact ha
  case commits =>
    intro i sh hd hp hf hmine hs
    obtain ⟨ha, hn, sh', hs', hk⟩ := hmine
    obtain rfl : sh' = sh := Option.some.inj (hs'.symm.trans hs)
    let u := ((s.guestLands k g i).closeWindow g.task).slot g.task.core g.task.slot
    obtain ⟨hreg, hpred⟩ : (∀ r, u.arch.reg r = (g.commit i x.arch).reg r) ∧ ∀ p, u.arch.pred p = (g.commit i x.arch).pred p :=
      guestLands_registers rfl hs hn
    have hsr := guestLands_sr (s := s) (k := k) (g := g) (i := i) rfl hs hn
    have hacc := flagAcc_guestLands_closed (s := s) (k := k) (g := g) (i := i) rfl hs hn
    have hguests := guests_guestLands_closed (s := s) (k := k) (g := g) (i := i) rfl hs hn
    refine ⟨_, u, guestResult_lands hg hd hp hf ha hs hk, rfl, ?_, ?_, fun hm => ?_, fun hm => ?_, fun q n d a b o t part src cc p e => ?_⟩
    · exact congrArg Slot.ship (slot_guestLands_closed rfl hs hn)
    · exact congrArg Slot.board (slot_guestLands_closed rfl hs hn)
    · rw [Guest.brings, if_neg (Bool.eq_false_iff.1 hm)] at hsr hacc
      rw [if_neg (Bool.eq_false_iff.1 hm)] at hguests
      exact ⟨hguests, hsr, hacc.trans (BitVec.or_assoc _ _ _).symm⟩
    · rw [Guest.brings, if_pos hm, Flags.or_none] at hsr
      rw [if_pos hm] at hguests
      exact ⟨hguests, hsr⟩
    · intro takes
      have htakes : ∀ {reg : Reg}, g.commit i x.arch = x.arch.setReg d.toNat reg → takes reg := fun h =>
        ⟨fun r => by rw [hreg, h], fun p => by rw [hpred, h, Arch.pred_setReg]⟩
      have hkeeps : g.commit i x.arch = x.arch → (∀ r, u.arch.reg r = x.arch.reg r) ∧ ∀ p, u.arch.pred p = x.arch.pred p := fun h =>
        ⟨fun r => by rw [hreg, h], fun p => by rw [hpred, h]⟩
      refine ⟨fun hi => htakes (g.commit_value q d a b o t part src _ hi), fun hi => htakes (by rw [hi]; rfl), fun hi hrow => htakes ?_,
        fun hi hrow => hkeeps ?_, fun hi => hkeeps (g.commit_rowless q n a b _ hi), fun hi => ?_⟩
      · rw [hi, g.commit_accmv, if_neg (Bool.eq_false_iff.1 hrow)]
      · rw [hi, g.commit_accmv, if_pos hrow]
      · obtain ⟨hcreg, hcpred, hbits⟩ := g.commit_fcmp q cc p e a b t x.arch
        rw [← hi] at hcreg hcpred hbits
        refine ⟨fun r => (hreg r).trans (hcreg r), fun r hrp hre => (hpred r).trans (hcpred r hrp hre), fun j hj => ?_⟩
        obtain ⟨hfirst, hsecond⟩ := hbits j hj
        exact ⟨fun hp hpe => by rw [hpred]; exact hfirst hp hpe, fun he => by rw [hpred]; exact hsecond he⟩
  case faults =>
    intro i code tval qual sh hd hp hf hmine hs hpop
    obtain ⟨ha, hn, sh', hs', hk⟩ := hmine
    obtain rfl : sh' = sh := Option.some.inj (hs'.symm.trans hs)
    exact guestResult_faults hg hd hp hf ha rfl hs hk hpop hn

end Sys2Proof.Machine
end
